-- ==== Sys2Proof/Word.lean ====
section
/-! DEFINITION. Words and bytes: little-endian assembly of bytes into numbers (R16), bit fields
written [high:low], and the wrap of an integer into 32 bits. -/

namespace Sys2Proof

/-- One byte. -/
abbrev Byte := BitVec 8

/-- A 32-byte bead command word (R391). -/
abbrev CmdWord := BitVec 256

/-- Bits [hi:lo] of a number (R16: bit 0 is the least significant). -/
def bits (x hi lo : Nat) : Nat := (x >>> lo) % 2 ^ (hi + 1 - lo)

/-- Bit `i` of a number. -/
def bit (x i : Nat) : Bool := (x >>> i) % 2 == 1

/-- The number a little-endian byte list spells (R16). -/
def leNat : List Byte → Nat
  | [] => 0
  | b :: bs => b.toNat + 256 * leNat bs

/-- The `n` little-endian bytes of a number (R16). -/
def leBytes : Nat → Nat → List Byte
  | 0, _ => []
  | n + 1, x => BitVec.ofNat 8 x :: leBytes n (x / 256)

/-- `x` rounded up to a multiple of `m`. -/
def roundUp (x m : Nat) : Nat := (x + m - 1) / m * m

/-- `x` divided by `m`, rounded up. -/
def ceilDiv (x m : Nat) : Nat := (x + m - 1) / m

/-- A number of `w` bits read as two's complement. -/
def toSigned (w x : Nat) : Int :=
  let y := x % 2 ^ w
  if 2 * y < 2 ^ w then (y : Int) else (y : Int) - (2 ^ w : Nat)

/-- An integer wrapped into `w` bits of two's complement. -/
def ofSigned (w : Nat) (i : Int) : Nat := (i % (2 ^ w : Nat)).toNat

/-- An integer clamped to a range. -/
def clampInt (lo hi i : Int) : Int := max lo (min hi i)

/-- The number of set bits of `x` below position `n`. -/
def popBelow (x : Nat) : Nat → Nat
  | 0 => 0
  | n + 1 => popBelow x n + (if bit x n then 1 else 0)

end Sys2Proof
end

