-- ==== Sys2Proof/Config.lean ====
section
/-! DEFINITION. What the package fixes once (its ordering code and fused identity), what the spec
leaves open (free values: constants with no body, so no proof can see them), and the cryptographic
primitives the spec names but does not define. -/

namespace Sys2Proof

/-- The four ordering codes of Table 0-3; the code of Table 3-1's ORDER_CODE is `1 + index`. -/
inductive Grade where
  | f4a768 | f4b768 | f4a576 | f2a768
  deriving DecidableEq, Repr

/-- ORDER_CODE of a grade (Table 3-1). -/
def Grade.orderCode : Grade → Nat
  | .f4a768 => 1 | .f4b768 => 2 | .f4a576 => 3 | .f2a768 => 4

/-- Facets per bead of a grade (Table 0-3). -/
def Grade.facets : Grade → Nat
  | .f2a768 => 2
  | _ => 4

/-- Maximum bead clock in MHz (Table 0-3). -/
def Grade.maxClock : Grade → Nat
  | .f4b768 => 1800
  | _ => 2000

/-- Populated GiB of one HBM stack (Table 13-1). -/
def Grade.stackGiB : Grade → Nat
  | .f4a576 => 36
  | _ => 48

namespace Config

/-- The grade this model is of: the headline ordering code GS2-F4A-768 (R10). Log 3. -/
def grade : Grade := .f4a768

/-- A fresh free value: the `n`-th value the spec leaves undefined. It has no body. -/
opaque free : Nat → Nat

/-- The byte at an address of a memory whose contents the spec leaves undefined since epoch `n`. -/
opaque freeByte : Nat → Nat → BitVec 8

/-- The special-function unit (R399, R403): the FP32-grade result, as W40 bits, of function `code`
on W40 bits; one fixed method whose bits the spec does not give. -/
opaque sfu : Nat → Nat → Nat

/-- The bits that adding a W40 result to INT32 data, or INT32 to W40, leaves in a slot element (R219): undefined,
a function of the kind of addition and the two operands. -/
opaque mixed : Bool → Nat → Nat → Nat

/-- SHA-384 (R102, R591, R599): 48 bytes as a number. -/
opaque sha384 : List (BitVec 8) → Nat

/-- ECDSA P-384 verification (R102, R582, R588, R601): key, digest, r, s. -/
opaque ecdsaVerify : Nat → Nat → Nat → Nat → Bool

/-- ECDSA P-384 signing with a package key (R599, R600): digest to (r, s) as one number. -/
opaque ecdsaSign : Nat → Nat

/-- The Filigree header check HCRC, a CRC-16 whose polynomial the spec does not give (R449). -/
opaque hcrc16 : Nat → Nat

/-- Fused identity values of the package (DEV_IDENT and the keys of Hallmark), by field number. -/
opaque fuse : Nat → Nat

/-- The certificate chain of slot 0 (R600), whose device certificate names HASH_LO: its DER bytes. -/
opaque certChain : Nat → List (BitVec 8)

/-- A fresh random value of Hallmark's generator (nonces, R600, R601), by draw number. -/
opaque random : Nat → Nat

end Config
end Sys2Proof
end

