-- ==== Sys2Proof/Syntax.lean ====
section
/-! DEFINITION. The commands and events of the block: one constructor of `Instr` per row of the
opcode table, with the records that travel on its interfaces. -/

namespace Sys2Proof

/-- OP of a Filigree transfer (Table 14-3). -/
inductive FilOp where
  | rd | wr | add | rdData | wrAck | clasp | frame | deliver | bpm | reserved (code : Nat)
  deriving DecidableEq, Repr

/-- A Filigree transfer: the header of Table 14-2 and its data flits, each with its POISON tag, and
whether any flit carries ABANDON (R461). -/
structure Xfer where
  op : FilOp
  vc : Nat
  cls : Nat := 0
  len : Nat
  noalloc : Bool := false
  src : Nat
  dst : Nat
  tag : Nat
  addr : Nat
  data : List Byte := []
  poison : List Bool := []
  abandon : Bool := false
  deriving DecidableEq, Repr

/-- A Celner segment (Table 16-2) with its payload. -/
structure Segment where
  hver : Nat := 1
  type : Nat := 0
  vc : Nat := 0
  path : Nat := 0
  ece : Bool := false
  first : Bool := true
  last : Bool := true
  ackNow : Bool := false
  src : Nat := 0
  dst : Nat := 0
  psn : Nat := 0
  ackPsn : Nat := 0
  sack : Nat := 0
  msgId : Nat := 0
  msgOff : Nat := 0
  poisonMap : Nat := 0
  payload : List Byte := []
  deriving DecidableEq, Repr

/-- A session message header (Table 15-5) and its payload; `rsv` is the value of its reserved bits. -/
structure SesMsg where
  type : Nat
  urgent : Bool := false
  svc : Nat := 0
  handle : Nat := 0
  reqSeq : Nat := 0
  budget : Nat := 0
  status : Nat := 0
  appStatus : Nat := 0
  tag : Nat := 0
  commitFrame : Nat := 0
  rsv : Nat := 0
  payload : List Byte := []
  /-- Poison bits of the message, one for each 64 bytes of it, header included (R517). -/
  pois : Nat := 0
  deriving DecidableEq, Repr

/-- Where a session message comes from: a Celner peer, or a submission-queue entry of a user window
with its reply address and size (Table 15-7). -/
inductive MsgFrom where
  | peer (pkg : Nat)
  | sq (w respAddr respMax : Nat)
  deriving DecidableEq, Repr

/-- A collective header (Table 16-5) as a delivery carries it. -/
structure CollHdr where
  sig : Nat
  group : Nat
  srcRank : Nat
  dstRank : Nat
  seq : Nat
  epoch : Nat
  drow : Nat := 0
  dorg2 : Nat := 0
  dcb : Nat := 0
  nrows : Nat := 0
  rowBytes : Nat := 0
  last : Bool := false
  total : Nat := 0
  deriving DecidableEq, Repr

/-- A record that a chain stage of another package forwards for a node of R368 (R371, R372): key, the span
of ranks it covers, push order, count and 64 lanes as raw bits with poison. -/
structure MtStream where
  index : Nat
  lo : Nat
  hi : Nat
  seq : Nat
  count : Nat
  lanes : List (Nat × Bool)
  deriving DecidableEq, Repr

/-- What a DELIVER transfer carries (Table 14-3). -/
inductive Delivery where
  /-- A collective payload: header, row bytes, and a poison bit per 64 bytes. -/
  | coll (h : CollHdr) (rows : List Byte) (poison : List Bool)
  /-- The combined records of a merge reach the puller of a local rank, with the records that other
  packages of a federated merge contributed. -/
  | merge (uid mseq rank : Nat) (others : List MtStream)
  /-- The combined tile of a reducing collective reaches the leaf of a local rank (R531). -/
  | reduce (uid seq rank : Nat) (others : List MtStream)
  /-- A session-engine message between the hubs (R82, R490). -/
  | session (hub : Nat) (m : SesMsg) (src : MsgFrom)
  /-- A pool agent's answer to its requester: tag, status, handle. -/
  | pool (dst tag status handle : Nat)
  deriving DecidableEq, Repr

/-- How a register access reaches the block (R548, R553, R575). -/
inductive Via where
  /-- Window A through the physical function of a hub. -/
  | pf (hub : Nat)
  /-- A user window through a PCIe function; `w` = 256 is the function page of a VF (R634). -/
  | func (f w : Nat)
  /-- A host-core alias of a user window. -/
  | core (c w : Nat)
  /-- The management controller. -/
  | mgmt
  /-- JTAG debug access. -/
  | jtag
  /-- A host core in machine mode, through window A's package address. -/
  | coreA (c : Nat)
  deriving DecidableEq, Repr

/-- Who performs a clasp operation that reaches a clasp unit (R467 to R474). -/
inductive ClaspAgent where
  | bead (b : Nat)
  /-- A host core or PCIe host through a user window, or the privileged view (`none`), with the
  notify index of a wait (R477). -/
  | notify (window : Option Nat) (nidx : Nat)
  /-- A remote package with the token of its operation (R485). -/
  | remote (peer token : Nat)
  /-- The frame scheduler. -/
  | sched
  deriving DecidableEq, Repr

/-- The error a memory access meets (R416). -/
inductive MemErr where
  | none | correctable | uncorrectable
  deriving DecidableEq, Repr

/-- What a boot finds on the board and in the silicon: the flash fitted (or as left), the backup
flash, the pseudo-channels of each stack that fail training, HBM lines that fail the march test, dies
and regulators that fail bring-up, and beads that fail their bring-up self-test. -/
structure BootIn where
  flash : Option (List (Nat × Byte)) := none
  backup : List (Nat × Byte) := []
  /-- (stack, mask of failing pseudo-channels). -/
  badPcs : List (Nat × Nat) := []
  badLines : List Nat := []
  dieFails : Bool := false
  regulatorFails : Bool := false
  badBeads : List Nat := []
  readyAt : Nat := 0
  deriving DecidableEq, Repr

/-- A host-core access to a package physical address (R87, R429). -/
inductive CoreAcc where
  | load (len : Nat)
  | store (data : List Byte)
  | cacheZero
  | cacheClean
  /-- `cbo.flush`: cleaned if dirty, then dropped (R481). -/
  | cacheFlush
  | cacheInval
  deriving DecidableEq, Repr

/-- What a PCIe configuration request sets (R547, R548, R549, R561). -/
inductive CfgOp where
  | read
  | busMaster (on : Bool)
  | msixEnable (on : Bool)
  | functionMask (on : Bool)
  | vectorMask (vec : Nat) (on : Bool)
  /-- Resizable BAR: aperture of window C, as a power of two. -/
  | resizeWinC (log2 : Nat)
  deriving DecidableEq, Repr

/-- A C-die. -/
abbrev Die := Fin 8

/-- A bead ID (R8). -/
abbrev BeadId := Fin 160

/-- A request to a pool agent (R438 to R442): OP 0 allocate, 1 free. -/
structure BpmReq where
  free : Bool
  kind : Nat := 0
  owner : Nat := 0
  pages : Nat := 1
  handle : Nat := 0
  deriving DecidableEq, Repr

/-- One direction of one sub-channel of a die-to-die link (Table 2-1); direction 0 runs from the
lower-numbered end. -/
structure SubChId where
  link : Fin 14
  sub : Fin 32
  dir : Fin 2
  deriving DecidableEq, Repr

/-- The payload of HELLO and HELLO_ACK (Table 16-3). -/
structure HelloBody where
  verMin : Nat
  verMax : Nat
  features : Nat
  paths : Nat
  addrs : List Byte := []
  deriving DecidableEq, Repr

/-- A FED_JOIN message (Table 16-4). -/
structure JoinBody where
  rank : Nat
  members : Nat
  totalLeaves : Nat
  leaves : Nat
  tag : Nat
  verMin : Nat
  verMax : Nat
  deriving DecidableEq, Repr

/-- An MCTP message body (R569): what the management controller acts on. -/
inductive MctpMsg where
  /-- MCTP control Set Endpoint ID by the bus owner. -/
  | setEid (eid : Nat)
  /-- PLDM type 0 discovery. -/
  | pldmBase
  /-- PLDM GetSensorReading of a sensor of Table 17-6. -/
  | sensorRead (id : Nat)
  /-- PLDM PollForPlatformEventMessage. -/
  | pollEvent
  | other (type : Nat)
  deriving DecidableEq, Repr

/-- The fields of an SPDM request (R600). -/
structure SpdmReq where
  version : Nat
  slot : Nat := 0
  index : Nat := 0
  nonce : Nat := 0
  offset : Nat := 0
  len : Nat := 0
  /-- A signature is asked for. -/
  sign : Bool := true
  /-- What it asks for is in Table 18-8. -/
  supported : Bool := true
  deriving DecidableEq, Repr

/-- What the sensors measure at a refresh (Table 17-6): °C of C0 to C7, H0, H1 and M0 to M15, and the
currents of the eight VDD_C rails in A. -/
structure SensorIn where
  temps : List Nat
  currents : List Nat
  deriving DecidableEq, Repr

/-- The commands and events of the block: one constructor per row of the opcode table, with its rule. -/
inductive Instr where
  /-- NOP, R395. -/
  | nop (b : BeadId) (w : CmdWord)
  /-- END, R390. -/
  | endChain (b : BeadId) (w : CmdWord) (t : Nat)
  /-- FENCE, R390. -/
  | fence (b : BeadId) (w : CmdWord)
  /-- TDSET, R395. -/
  | tdset (b : BeadId) (w : CmdWord)
  /-- LOAD, R396. -/
  | load (b : BeadId) (w : CmdWord)
  /-- STORE, R396. -/
  | store (b : BeadId) (w : CmdWord)
  /-- COPY, R396. -/
  | copy (b : BeadId) (w : CmdWord)
  /-- MMA, R397. -/
  | mma (b : BeadId) (w : CmdWord)
  /-- CONV, R249. -/
  | conv (b : BeadId) (w : CmdWord)
  /-- LOUPE, R347. -/
  | loupe (b : BeadId) (w : CmdWord)
  /-- XMMA, R401. -/
  | xmma (b : BeadId) (w : CmdWord)
  /-- DRAIN, R398. -/
  | drain (b : BeadId) (w : CmdWord)
  /-- SPILL, R400. -/
  | spill (b : BeadId) (w : CmdWord)
  /-- FILL, R400. -/
  | fill (b : BeadId) (w : CmdWord)
  /-- XDRAIN, R401. -/
  | xdrain (b : BeadId) (w : CmdWord)
  /-- VOP, R403. -/
  | vop (b : BeadId) (w : CmdWord)
  /-- RED, R404. -/
  | red (b : BeadId) (w : CmdWord)
  /-- MTPUSH, R359. -/
  | mtpush (b : BeadId) (w : CmdWord)
  /-- MTPULL, R365. -/
  | mtpull (b : BeadId) (w : CmdWord)
  /-- CLASP, R406. -/
  | clasp (b : BeadId) (w : CmdWord)
  /-- SAVE, R242. -/
  | save (b : BeadId) (w : CmdWord)
  /-- RESTORE, R242. -/
  | restore (b : BeadId) (w : CmdWord)
  /-- DBGRD, R409. -/
  | dbgrd (b : BeadId) (w : CmdWord)
  /-- DBGWR, R409. -/
  | dbgwr (b : BeadId) (w : CmdWord)
  /-- COMMAND_COMPLETE, R389. -/
  | commandComplete (b : BeadId) (idx : Nat)
  /-- PRESCAN_END, R333. -/
  | prescanEnd (b : BeadId)
  /-- CHAIN_FETCH, R384. -/
  | chainFetch (b : BeadId)
  /-- CHAIN_OVERRUN, R385. -/
  | chainOverrun (b : BeadId)
  /-- CLASP_WAKE, R476. -/
  | claspWake (b : BeadId) (t : Nat)
  /-- CLP_TIMEOUT, R393. -/
  | clpTimeout (b : BeadId)
  /-- SLICE_OVERRUN, R171. -/
  | sliceOverrun (uid rank cycles : Nat)
  /-- BEAD_WATCHDOG, R604. -/
  | beadWatchdog (b : BeadId) (t : Nat)
  /-- FRAME_TICK, R153. -/
  | frameTick (t : Nat)
  /-- SLICE_START, R172. -/
  | sliceStart (uid t : Nat)
  /-- FSYNC_IN_EDGE, R160. -/
  | fsyncInEdge (t : Nat)
  /-- FRM_SYNC_LOST, R161. -/
  | frmSyncLost
  /-- COMMIT_POINT, R496. -/
  | commitPoint (uid t : Nat)
  /-- SET_LOAD_GO, R139. -/
  | setLoadGo (v : Via) (x : Nat)
  /-- SET_CHECK_DONE, R137. -/
  | setCheckDone
  /-- SET_TIMEOUT, R136. -/
  | setTimeout
  /-- FLASH_WRITE, R585. -/
  | flashWrite (ok1 ok2 : Bool)
  /-- CLASP_SIGNAL, R469. -/
  | claspSignal (who : ClaspAgent) (id n : Nat)
  /-- CLASP_WAIT, R470. -/
  | claspWait (who : ClaspAgent) (id target : Nat)
  /-- CLASP_ARRIVE, R472. -/
  | claspArrive (who : ClaspAgent) (id target : Nat)
  /-- CLASP_RESET, R474. -/
  | claspReset (who : ClaspAgent) (id : Nat)
  /-- CLASP_FAIL, R469. -/
  | claspFail (who : ClaspAgent) (id : Nat)
  /-- CLP_OP_SIGNAL, R477. -/
  | clpOpSignal (v : Via) (x : Nat)
  /-- CLP_OP_WAIT, R477. -/
  | clpOpWait (v : Via) (x : Nat)
  /-- CLP_OP_ARRIVE, R477. -/
  | clpOpArrive (v : Via) (x : Nat)
  /-- CLP_OP_RESET, R477. -/
  | clpOpReset (v : Via) (x : Nat)
  /-- CLP_OP_FAIL, R477. -/
  | clpOpFail (v : Via) (x : Nat)
  /-- CLP_MSIX_ARM, R483. -/
  | clpMsixArm (v : Via) (entry x : Nat)
  /-- OPEN, R490. -/
  | openSes (src : MsgFrom) (m : SesMsg) (hub t : Nat)
  /-- SES_QUOTA_RESERVE, R490. -/
  | sesQuotaReserve (svc : Nat)
  /-- REQUEST, R491. -/
  | request (src : MsgFrom) (m : SesMsg) (t : Nat)
  /-- ABORT, R499. -/
  | abort (src : MsgFrom) (m : SesMsg)
  /-- CLOSE, R492. -/
  | close (src : MsgFrom) (m : SesMsg)
  /-- SES_IDLE, R492. -/
  | sesIdle (idx t : Nat)
  /-- SES_SQ_TAIL, R560. -/
  | sesSqTail (v : Via) (x : Nat)
  /-- SES_CQ_HEAD, R489. -/
  | sesCqHead (v : Via) (x : Nat)
  /-- SES_ENT_READ, R486. -/
  | sesEntRead (v : Via) (x : Nat)
  /-- BPM_ALLOC, R440. -/
  | bpmAlloc (v : Via) (x : Nat)
  /-- BPM_FREE, R441. -/
  | bpmFree (v : Via) (x : Nat)
  /-- QUARANTINE_END, R439. -/
  | quarantineEnd (pool : Nat)
  /-- SCRUB_LINE, R421. -/
  | scrubLine (stack line : Nat) (e : MemErr)
  /-- SRAM_SCRUB, R421: the granules with an uncorrectable error, as (local bead, scratchpad offset) or (20, offset in the
  vault's partition). -/
  | sramScrub (die : Die) (bad : List (Nat × Nat))
  /-- PC_RETIRE, R424. -/
  | pcRetire (stack : Fin 16) (pc : Fin 64)
  /-- HBM_REFRESH_2X, R415. -/
  | hbmRefresh2x (stack : Fin 16) (temp : Nat)
  /-- STACK_SELF_REFRESH, R659. -/
  | stackSelfRefresh (stack : Fin 16)
  /-- RD, R449. -/
  | rd (x : Xfer) (e : MemErr)
  /-- WR, R449. -/
  | wr (x : Xfer) (e : MemErr)
  /-- ADD, R288; `fmt` is the FMT code of the destination's elements (Table 8-3). -/
  | addX (x : Xfer) (e : MemErr) (fmt : Nat)
  /-- RD_DATA, R449. -/
  | rdData (x : Xfer)
  /-- WR_ACK, R449. -/
  | wrAck (x : Xfer)
  /-- FRAME, R157. -/
  | frame (x : Xfer)
  /-- DELIVER, R449. -/
  | deliver (x : Xfer) (d : Delivery)
  /-- BPM, R449. -/
  | bpm (x : Xfer) (req : BpmReq)
  /-- FIL_GROUP_RX, R452. -/
  | filGroupRx (ch : SubChId) (gseq : Nat) (crcOk : Bool) (xs : List Xfer) (ack : Nat) (nak : Bool)
  /-- FIL_ACK_TIMEOUT, R452. -/
  | filAckTimeout (ch : SubChId)
  /-- FIL_LANE_SPARED, R453. -/
  | filLaneSpared (link : Fin 14) (module lane : Nat)
  /-- FIL_REMAP_DONE, R453. -/
  | filRemapDone (link : Fin 14) (module : Nat)
  /-- FIL_SUBCH_LOST, R454. -/
  | filSubchLost (ch : SubChId) (i : BootIn)
  /-- ETH_FRAME_RX, R502. -/
  | ethFrameRx (path : Fin 32) (fcsOk crcOk ce : Bool) (prio : Nat) (s : Segment)
  /-- PFC_PAUSE, R505. -/
  | pfcPause (path : Fin 32) (on : Bool)
  /-- DATA, R510. -/
  | data (path : Fin 32) (s : Segment)
  /-- ACK, R515. -/
  | ack (path : Fin 32) (s : Segment)
  /-- HELLO, R512. -/
  | hello (path : Fin 32) (s : Segment) (h : HelloBody)
  /-- HELLO_ACK, R512. -/
  | helloAck (path : Fin 32) (s : Segment) (h : HelloBody)
  /-- PROBE, R521. -/
  | probe (path : Fin 32) (s : Segment)
  /-- BYE, R514. -/
  | bye (path : Fin 32) (s : Segment)
  /-- EARLY_NAK, R530. -/
  | earlyNak (path : Fin 32) (s : Segment)
  /-- ACK_TIMER, R515. -/
  | ackTimer (peer vc : Nat)
  /-- RETRANSMIT_TIMEOUT, R516. -/
  | retransmitTimeout (peer vc psn t : Nat)
  /-- CONGESTION_INTERVAL, R518. -/
  | congestionInterval (t : Nat)
  /-- NET_PORT_DOWN, R520. -/
  | netPortDown (path : Fin 32)
  /-- NET_PATH_SUSPECT, R521. -/
  | netPathSuspect (peer : Nat) (path : Fin 32)
  /-- PROBE_TIMER, R521. -/
  | probeTimer (peer : Nat) (path : Fin 32)
  /-- PEER_IDLE_REMOVE, R514. -/
  | peerIdleRemove (peer t : Nat)
  /-- CLASP_OP, R484. -/
  | claspOp (peer fedUid clasp op tag rank : Nat)
  /-- CLASP_DONE, R523. -/
  | claspDone (peer tag status counter : Nat)
  /-- COLL_FAIL, R532. -/
  | collFail (peer group epoch seq status : Nat)
  /-- FED_JOIN, R535. -/
  | fedJoin (peer fedUid : Nat) (j : JoinBody)
  /-- FED_FORMED, R535. -/
  | fedFormed (peer fedUid version offset : Nat)
  /-- FED_START, R539. -/
  | fedStart (peer fedUid epoch count : Nat) (replay : Bool)
  /-- FED_READY, R540. -/
  | fedReady (peer fedUid epoch status : Nat)
  /-- FED_COMMIT, R540. -/
  | fedCommit (peer fedUid epoch t : Nat)
  /-- FED_ABORT, R540. -/
  | fedAbort (peer fedUid epoch status : Nat)
  /-- FED_RETRY, R536. -/
  | fedRetry (fedUid : Nat)
  /-- COLL_TIMEOUT, R534. -/
  | collTimeout (uid seq : Nat)
  /-- COLL_EARLY_RESEND, R530. -/
  | collEarlyResend (x : Xfer) (d : Delivery)
  /-- MT_TIMEOUT, R374. -/
  | mtTimeout (uid mseq : Nat)
  /-- PTP_SYNC, R508. -/
  | ptpSync (master origin rx : Nat)
  /-- PTP_ANNOUNCE_TIMEOUT, R508. -/
  | ptpAnnounceTimeout
  /-- PPS_IN_EDGE, R508. -/
  | ppsInEdge (t : Nat)
  /-- PORST_N, R594. -/
  | porstN (i : BootIn)
  /-- TRIAL_WATCHDOG, R598. -/
  | trialWatchdog (i : BootIn)
  /-- PERST_N, R549. -/
  | perstN (hub : Fin 2) (asserted : Bool)
  /-- FUNCTION_LEVEL_RESET, R563. -/
  | functionLevelReset (f : Fin 66)
  /-- WINC_READ, R554. -/
  | wincRead (f : Fin 66) (off len : Nat)
  /-- WINC_WRITE, R554. -/
  | wincWrite (f : Fin 66) (off : Nat) (bytes : List Byte) (poisoned : Bool)
  /-- DEV_UWIN_FUNC, R551. -/
  | devUwinFunc (v : Via) (win : Fin 256) (x : Nat)
  /-- DEV_WINC_BASE, R554. -/
  | devWincBase (v : Via) (x : Nat)
  /-- NEGOTIATE, R566. -/
  | negotiate (f : Fin 66)
  /-- QUERY, R566. -/
  | query (f : Fin 66)
  /-- RELEASE, R566. -/
  | release (f : Fin 66)
  /-- MBOX_RESPONSE, R564. -/
  | mboxResponse (f : Fin 66)
  /-- FRM_SLICE_PTR, R378. -/
  | frmSlicePtr (v : Via) (x : Nat)
  /-- FRM_UNIT_SLICE_PTR, R379. -/
  | frmUnitSlicePtr (v : Via) (x : Nat)
  /-- REGISTER_WRITE, R559. -/
  | registerWrite (v : Via) (off : Nat) (bytes : List Byte)
  /-- MCTP_PACKET, R569. -/
  | mctpPacket (bind : Fin 3) (pecOk : Bool) (m : MctpMsg)
  /-- SMB_CLK_TIMEOUT, R568. -/
  | smbClkTimeout
  /-- SENSOR_REFRESH, R570. -/
  | sensorRefresh (r : SensorIn)
  /-- PLDM_FIRMWARE_UPDATE, R597. -/
  | pldmFirmwareUpdate (bundle : List Byte) (confirm : Bool)
  /-- PLDM_PARAM_UPDATE, R588. -/
  | pldmParamUpdate (upd : List Byte)
  /-- GET_VERSION, R600. -/
  | getVersion (tr : Fin 3) (r : SpdmReq)
  /-- GET_CAPABILITIES, R600. -/
  | getCapabilities (tr : Fin 3) (r : SpdmReq)
  /-- NEGOTIATE_ALGORITHMS, R600. -/
  | negotiateAlgorithms (tr : Fin 3) (r : SpdmReq)
  /-- GET_DIGESTS, R600. -/
  | getDigests (tr : Fin 3) (r : SpdmReq)
  /-- GET_CERTIFICATE, R600. -/
  | getCertificate (tr : Fin 3) (r : SpdmReq)
  /-- CHALLENGE, R600. -/
  | challenge (tr : Fin 3) (r : SpdmReq)
  /-- GET_MEASUREMENTS, R600. -/
  | getMeasurements (tr : Fin 3) (r : SpdmReq)
  /-- UART_RX_FRAME, R572. -/
  | uartRxFrame (start stop : Bool) (x : Byte)
  /-- UART_REARM, R572. -/
  | uartRearm
  /-- UART_TX_BYTE, R571. -/
  | uartTxByte (v : Via) (x : Byte)
  /-- UART_DATA_READ, R632. -/
  | uartDataRead (v : Via)
  /-- IDCODE, R575. -/
  | idcode (tap : Fin 10) (dr : Nat)
  /-- SAMPLE_PRELOAD, R575. -/
  | samplePreload (tap : Fin 10) (dr : Nat)
  /-- EXTEST, R575. -/
  | extest (tap : Fin 10) (dr : Nat)
  /-- CLAMP, R575. -/
  | clamp (tap : Fin 10) (dr : Nat)
  /-- HIGHZ, R575. -/
  | highz (tap : Fin 10) (dr : Nat)
  /-- EXTEST_PULSE, R575. -/
  | extestPulse (tap : Fin 10) (dr : Nat)
  /-- EXTEST_TRAIN, R575. -/
  | extestTrain (tap : Fin 10) (dr : Nat)
  /-- DBG_ACCESS, R576. -/
  | dbgAccess (tap : Fin 10) (dr : Nat)
  /-- BYPASS, R575. -/
  | bypass (tap : Fin 10) (dr : Nat)
  /-- TRST_N, R574. -/
  | trstN
  /-- SCHED_TAKEOVER, R578. -/
  | schedTakeover (reported : Bool) (t : Nat) (i : BootIn)
  /-- HST_SCHED_STANDBY_LOST, R580. -/
  | schedStandbyLost
  /-- MGT_FWUP_GO, R597. -/
  | fwupGo (v : Via) (x : Nat)
  /-- MGT_FWUP_CONFIRM, R598. -/
  | fwupConfirm (v : Via) (x : Nat)
  /-- MGT_RESET, R641. -/
  | mgtReset (v : Via) (x : Nat) (i : BootIn)
  /-- MGT_PARAM_SIGNED, R588. -/
  | paramSigned (v : Via) (x : Nat)
  /-- MGT_PARAM_GENERAL, R641. -/
  | paramGeneral (v : Via) (x : Nat)
  /-- HMK_EXT, R599. -/
  | hmkExt (v : Via) (x : Nat)
  /-- HMK_DBG_CHAL_READ, R601. -/
  | hmkDbgChalRead (v : Via)
  /-- HMK_DBG_RESP_GO, R601. -/
  | hmkDbgRespGo (v : Via) (x : Nat)
  /-- PWR_REQ, R639. -/
  | pwrReq (v : Via) (x : Nat)
  /-- PWR_CAP, R639. -/
  | pwrCap (v : Via) (x : Nat)
  /-- POWER_SAMPLE, R660. -/
  | powerSample (watts t : Nat)
  /-- THERMAL_EMERGENCY, R661. -/
  | thermalEmergency (sensor : Fin 26) (temp : Nat)
  /-- THERMAL_STEP, R661. -/
  | thermalStep
  /-- PROCHOT_N, R662. -/
  | prochotN (low : Bool)
  /-- THERMTRIP_N, R662. -/
  | thermtripN (sensor : Fin 26) (temp : Nat)
  /-- VOLTAGE_LOWER, R653. -/
  | voltageLower
  /-- RAIL_OUT_OF_RANGE, R649. -/
  | railOutOfRange
  /-- FACET_FAULT, R212. -/
  | facetFault (b : BeadId) (f : Fin 4) (t : Nat)
  /-- BEAD_FAULT, R603. -/
  | beadFault (b : BeadId) (t : Nat)
  /-- STRAND_FAULT, R603. -/
  | strandFault (die : Die) (strand : Fin 4) (t : Nat)
  /-- HOST_CORE_FAULT, R608. -/
  | hostCoreFault (c : Fin 48)
  /-- RECOMPOSITION_DONE, R612. -/
  | recompositionDone (uid t : Nat)
  /-- CDIE_LOSS, R606. -/
  | cdieLoss (die : Die) (i : BootIn)
  /-- HUB_LOSS, R83. -/
  | hubLoss (hub : Fin 2)
  /-- RAS_ST_REQ, R621. -/
  | rasStReq (v : Via) (x : Nat)
  /-- SELF_TEST_END, R625. -/
  | selfTestEnd (b : BeadId) (pass : Bool) (result : Nat)
  /-- BEAD_PREEMPT_REQ, R408. -/
  | preemptReq (v : Via) (b : BeadId) (x : Nat)
  /-- BEAD_PREEMPTED, R408. -/
  | preempted (b : BeadId)
  /-- BEAD_PREEMPT_RESUME, R408. -/
  | preemptResume (v : Via) (b : BeadId) (x : Nat)
  /-- DBG_MODE, R629. -/
  | dbgMode (v : Via) (b : BeadId) (x : Nat)
  /-- DBG_TRACE_CTRL, R627. -/
  | dbgTraceCtrl (v : Via) (buf : Fin 171) (x : Nat)
  /-- ERR_Q_HEAD, R619. -/
  | errQHead (v : Via) (x : Nat)
  /-- NET_ADDR_WRITE, R638. -/
  | netAddrWrite (v : Via) (x : Nat)
  /-- NET_ADDR_READ, R638. -/
  | netAddrRead (v : Via) (x : Nat)
  /-- HOST_CORE_ACCESS, R87. -/
  | hostCoreAccess (c : Fin 48) (addr : Nat) (a : CoreAcc)
  /-- REGISTER_READ, R557. -/
  | registerRead (v : Via) (off len : Nat)
  /-- CONFIGURATION_REQUEST, R548. -/
  | configurationRequest (f : Fin 66) (op : CfgOp)
  /-- SMBUS_ALERT_RESPONSE, R570. -/
  | smbusAlertResponse
  /-- PTP_ANNOUNCE, R507. -/
  | ptpAnnounce (master prio t : Nat)
  /-- PTP_DELAY_RESP, R507. -/
  | ptpDelayResp (master reqTx respRx : Nat)
  /-- HBM_REFRESH_NORMAL, R415. -/
  | hbmRefreshNormal (stack : Fin 16) (temp : Nat)
  /-- PCS_BLOCK_LOCK, R520. -/
  | pcsBlockLock (path : Fin 32)
  /-- PRE_WARM_SLIPPED_START, R656. -/
  | preWarmSlippedStart (uid t : Nat)
  deriving DecidableEq, Repr

end Sys2Proof
end

