-- ==== Sys2Proof/Machine/Arith.lean ====
section
/-! DEFINITION. Number formats and exact arithmetic (chapter 06): the element formats of Table 6-1,
exact dyadic values, the single rounding to nearest even, conversion out of the accumulator, the
summation trees and the mean-and-variance triples. -/

namespace Sys2Proof.Machine

/-- The element formats of Table 6-1. -/
inductive ElemFmt where
  | lt2 | fp4 | int4 | e4m3 | e5m2 | int8 | bf16 | fp16 | fp32 | int32 | w40
  deriving DecidableEq, Repr

/-- A floating value: NaN, an infinity, or (−1)^neg × m × 2^e exactly (m = 0 is a signed zero). -/
inductive Fp where
  | nan
  | inf (neg : Bool)
  | fin (neg : Bool) (m : Nat) (e : Int)
  deriving DecidableEq, Repr

/-- The shape of a binary floating format: field widths, bias, largest finite value
`maxM × 2^maxE`, the unsigned code of infinity if there is one, and the canonical NaN (R214). -/
structure FpShape where
  ebits : Nat
  mbits : Nat
  bias : Int
  maxM : Nat
  maxE : Int
  infCode : Option Nat
  nanCode : Option Nat
  deriving DecidableEq, Repr

/-- Width of an element in bits (Table 6-1). -/
def ElemFmt.width : ElemFmt → Nat
  | .lt2 => 2 | .fp4 => 4 | .int4 => 4 | .e4m3 => 8 | .e5m2 => 8 | .int8 => 8
  | .bf16 => 16 | .fp16 => 16 | .fp32 => 32 | .int32 => 32 | .w40 => 40

/-- Whether the format is LT2 or an integer format. -/
def ElemFmt.isInt : ElemFmt → Bool
  | .lt2 | .int4 | .int8 | .int32 => true
  | _ => false

/-- FORMAT codes of Table 8-4. -/
def ElemFmt.ofCode : Nat → Option ElemFmt
  | 1 => some .lt2 | 2 => some .fp4 | 3 => some .int4 | 4 => some .e4m3 | 5 => some .e5m2
  | 6 => some .int8 | 7 => some .bf16 | 8 => some .fp16 | 9 => some .fp32 | 10 => some .int32
  | 11 => some .w40 | _ => none

/-- Group size G in bytes (Table 8-1). -/
def ElemFmt.group (f : ElemFmt) : Nat := f.width * 8

/-- The floating shapes of Table 6-1; the integer formats get the shape of FP32, never used. -/
def ElemFmt.shape : ElemFmt → FpShape
  | .fp4  => ⟨2, 1, 1, 3, 1, none, none⟩
  | .e4m3 => ⟨4, 3, 7, 14, 5, none, some 0x7F⟩
  | .e5m2 => ⟨5, 2, 15, 7, 13, some 0x7C, some 0x7E⟩
  | .bf16 => ⟨8, 7, 127, 255, 120, some 0x7F80, some 0x7FC0⟩
  | .fp16 => ⟨5, 10, 15, 2047, 5, some 0x7C00, some 0x7E00⟩
  | .w40  => ⟨8, 31, 127, 2 ^ 32 - 1, 96, some 0x7F80000000, some 0x7FC0000000⟩
  | _     => ⟨8, 23, 127, 2 ^ 24 - 1, 104, some 0x7F800000, some 0x7FC00000⟩

/-- The value of the bits of a floating element (R213, R215); subnormals are honoured (R214). -/
def decodeFp (f : ElemFmt) (x : Nat) : Fp :=
  let s := f.shape
  let neg := bit x (s.ebits + s.mbits)
  let e := bits x (s.ebits + s.mbits - 1) s.mbits
  let m := x % 2 ^ s.mbits
  let top := 2 ^ s.ebits - 1
  match f with
  | .fp4 => if e = 0 then .fin neg m (1 - s.bias - s.mbits)
            else .fin neg (m + 2 ^ s.mbits) ((e : Int) - s.bias - s.mbits)
  | .e4m3 => if e = top ∧ m = 7 then .nan
             else if e = 0 then .fin neg m (1 - s.bias - s.mbits)
             else .fin neg (m + 2 ^ s.mbits) ((e : Int) - s.bias - s.mbits)
  | _ => if e = top then (if m = 0 then .inf neg else .nan)
         else if e = 0 then .fin neg m (1 - s.bias - s.mbits)
         else .fin neg (m + 2 ^ s.mbits) ((e : Int) - s.bias - s.mbits)

/-- The integer of an LT2 (R215) or integer element. -/
def decodeInt (f : ElemFmt) (x : Nat) : Int :=
  match f with
  | .lt2 => if x % 4 = 1 then 1 else if x % 4 = 3 then -1 else 0
  | _ => toSigned f.width x

/-- An integer as an exact value; zero is +0. -/
def Fp.ofInt (i : Int) : Fp := .fin (i < 0) i.natAbs 0

/-- The value of any element. -/
def decodeElem (f : ElemFmt) (x : Nat) : Fp :=
  if f.isInt then Fp.ofInt (decodeInt f x) else decodeFp f x

/-- Position of the leading bit of `m`, plus one; 0 for 0. -/
def bitLen (m : Nat) : Nat := if m = 0 then 0 else Nat.log2 m + 1

/-- `m ÷ 2^k` rounded to the nearest integer, ties to even. -/
def rneShift (m k : Nat) : Nat :=
  if k = 0 then m else
  let q := m >>> k
  let r := m % 2 ^ k
  let h := 2 ^ (k - 1)
  if r > h then q + 1 else if r < h then q else q + q % 2

/-- Compares two magnitudes `m × 2^e`: is the first larger? -/
def magLt (m₁ : Nat) (e₁ : Int) (m₂ : Nat) (e₂ : Int) : Bool :=
  let lo := min e₁ e₂
  m₁ * 2 ^ (e₁ - lo).toNat < m₂ * 2 ^ (e₂ - lo).toNat

/-- A finite value rounded once to the precision and range of a shape, without its upper limit. -/
def roundMag (s : FpShape) (m : Nat) (e : Int) : Nat × Int :=
  let lsb := max (e + bitLen m - (s.mbits + 1)) (1 - s.bias - s.mbits)
  if lsb ≤ e then (m, e) else (rneShift m (lsb - e).toNat, lsb)

/-- Does a rounded magnitude exceed the largest finite value (R233)? -/
def overflows (s : FpShape) (m : Nat) (e : Int) : Bool := magLt s.maxM s.maxE m e

/-- Bits of a finite value that the shape represents exactly. -/
def encodeMag (s : FpShape) (neg : Bool) (m : Nat) (e : Int) : Nat :=
  let sign := if neg then 2 ^ (s.ebits + s.mbits) else 0
  if m = 0 then sign else
  let top := e + bitLen m - 1
  let unit := 1 - s.bias - s.mbits
  if top < 1 - s.bias then sign + m * 2 ^ (e - unit).toNat / 2 ^ (unit - e).toNat
  else
    let fr := m * 2 ^ (s.mbits + 1 - bitLen m) / 2 ^ (bitLen m - (s.mbits + 1))
    sign + (top + s.bias).toNat * 2 ^ s.mbits + (fr - 2 ^ s.mbits)

/-- The largest finite code of a shape, with a sign. -/
def maxCode (s : FpShape) (neg : Bool) : Nat := encodeMag s neg s.maxM s.maxE

/-- A finite value rounded to an integer, ties to even. -/
def rneInt (neg : Bool) (m : Nat) (e : Int) : Int :=
  let q := if e < 0 then rneShift m (-e).toNat else m * 2 ^ e.toNat
  if neg then -(q : Int) else q

/-- Range of an integer format. -/
def intRange (f : ElemFmt) : Int × Int :=
  match f with
  | .lt2 => (-1, 1)
  | _ => (-(2 ^ (f.width - 1) : Nat), (2 ^ (f.width - 1) : Nat) - 1)

/-- Result of a conversion: the bits written and whether a NaN was written as zero (R234). -/
structure Conv where
  bits : Nat
  nanZero : Bool := false
  deriving DecidableEq, Repr

/-- Conversion of a value to a target format with the overflow mode of R233 (`inf` set for INF):
one rounding to nearest even, and the outcomes of Table 6-8. -/
def convert (f : ElemFmt) (inf : Bool) (x : Fp) : Conv :=
  let s := f.shape
  if f.isInt then
    let (lo, hi) := intRange f
    match x with
    | .nan => ⟨0, true⟩
    | .inf neg => ⟨ofSigned f.width (if neg then lo else hi), false⟩
    | .fin neg m e => ⟨ofSigned f.width (clampInt lo hi (rneInt neg m e)), false⟩
  else
    let ovf (neg : Bool) : Conv :=
      if inf then
        match f with
        | .fp4 => ⟨maxCode s neg, false⟩
        | _ => match s.infCode with
               | some c => ⟨c + (if neg then 2 ^ (s.ebits + s.mbits) else 0), false⟩
               | none => ⟨s.nanCode.getD 0, false⟩
      else ⟨maxCode s neg, false⟩
    match x with
    | .nan => match s.nanCode with
              | some c => ⟨c, false⟩
              | none => ⟨0, true⟩
    | .inf neg => ovf neg
    | .fin neg m e =>
      let r := roundMag s m e
      if overflows s r.1 r.2 then ovf neg else ⟨encodeMag s neg r.1 r.2, false⟩

/-- Rounding inside a working format (R220): a finite overflow becomes an infinity. -/
def rn (f : ElemFmt) (x : Fp) : Fp :=
  match x with
  | .fin neg m e =>
    let r := roundMag f.shape m e
    if overflows f.shape r.1 r.2 then .inf neg else .fin neg r.1 r.2
  | y => y

/-- Bits of a value of a working format (canonical NaN, R214). -/
def encodeFp (f : ElemFmt) (x : Fp) : Nat := (convert f true x).bits

/-- Exact product (R222): the sign of a zero is the exclusive OR; 0 × ∞ is NaN (R220). -/
def Fp.mul : Fp → Fp → Fp
  | .nan, _ => .nan
  | _, .nan => .nan
  | .inf a, .inf b => .inf (a ^^ b)
  | .inf a, .fin b m _ => if m = 0 then .nan else .inf (a ^^ b)
  | .fin a m _, .inf b => if m = 0 then .nan else .inf (a ^^ b)
  | .fin a m e, .fin b n g => .fin (a ^^ b) (m * n) (e + g)

/-- Signed integer of a finite value scaled to exponent `lo`. -/
def scaled (neg : Bool) (m : Nat) (e lo : Int) : Int :=
  let v : Int := m * 2 ^ (e - lo).toNat
  if neg then -v else v

/-- Exact sum: a zero sum is +0 unless both terms are −0 (R222). -/
def Fp.add : Fp → Fp → Fp
  | .nan, _ => .nan
  | _, .nan => .nan
  | .inf a, .inf b => if a = b then .inf a else .nan
  | .inf a, .fin _ _ _ => .inf a
  | .fin _ _ _, .inf b => .inf b
  | .fin a m e, .fin b n g =>
    let lo := min e g
    let v := scaled a m e lo + scaled b n g lo
    if v = 0 then .fin (a && b && m == 0 && n == 0) 0 0 else .fin (v < 0) v.natAbs lo

/-- Negation. -/
def Fp.neg : Fp → Fp
  | .nan => .nan
  | .inf a => .inf (!a)
  | .fin a m e => .fin (!a) m e

/-- Quotient rounded once into a working format; x ÷ 0 and the infinities follow IEEE 754 (R220). -/
def fdiv (f : ElemFmt) : Fp → Fp → Fp
  | .nan, _ => .nan
  | _, .nan => .nan
  | .inf _, .inf _ => .nan
  | .inf a, .fin b _ _ => .inf (a ^^ b)
  | .fin a _ _, .inf b => .fin (a ^^ b) 0 0
  | .fin a m e, .fin b n g =>
    if n = 0 then (if m = 0 then .nan else .inf (a ^^ b))
    else
      let k := bitLen n + f.shape.mbits + 4
      let num := m * 2 ^ k
      let q := num / n
      let st := if num % n = 0 then 0 else 1
      rn f (.fin (a ^^ b) (2 * q + st) (e - g - k - 1))

/-- Is the value strictly less? Zeros of both signs are equal; NaN compares false. -/
def Fp.lt : Fp → Fp → Bool
  | .nan, _ => false
  | _, .nan => false
  | .inf a, .inf b => a && !b
  | .inf a, .fin _ _ _ => a
  | .fin _ _ _, .inf b => !b
  | .fin a m e, .fin b n g =>
    let lo := min e g
    scaled a m e lo < scaled b n g lo

/-- Is the value a zero with sign `neg`? -/
def Fp.isZero (neg : Bool) : Fp → Bool
  | .fin a m _ => m == 0 && a == neg
  | _ => false

/-- Maximum (R238): NaN propagates; the maximum of −0 and +0 is +0. -/
def Fp.max (a b : Fp) : Fp :=
  if a = .nan ∨ b = .nan then .nan
  else if Fp.lt a b then b else if Fp.lt b a then a
  else if a.isZero true then b else a

/-- Minimum (R238): NaN propagates; the minimum of −0 and +0 is −0. -/
def Fp.min (a b : Fp) : Fp :=
  if a = .nan ∨ b = .nan then .nan
  else if Fp.lt b a then b else if Fp.lt a b then a
  else if a.isZero false then b else a

/-- Addition rounded in a working format (R220). -/
def addR (f : ElemFmt) (a b : Fp) : Fp := rn f (Fp.add a b)

/-- Multiplication rounded in a working format. -/
def mulR (f : ElemFmt) (a b : Fp) : Fp := rn f (Fp.mul a b)

/-- a × b + c with one rounding (VOP FMA, Table 12-13). -/
def fmaR (f : ElemFmt) (a b c : Fp) : Fp := rn f (Fp.add (Fp.mul a b) c)

/-- Size of the left part of a left-complete tree of `n` leaves: 2^(⌈log2 n⌉ − 1) (Table 6-3). -/
def leftPart (n : Nat) : Nat := if n ≤ 1 then n else 2 ^ (Nat.log2 (n - 1))

/-- Left-complete binary tree over a list (Table 6-3); `d` for the empty list. The fuel is at least
the depth of the tree. -/
def lcTree {α : Type} (op : α → α → α) (d : α) : Nat → List α → α
  | _, [] => d
  | _, [x] => x
  | 0, x :: _ => x
  | fuel + 1, xs =>
    let h := leftPart xs.length
    op (lcTree op d fuel (xs.take h)) (lcTree op d fuel (xs.drop h))

/-- Left-complete tree with enough fuel for any list. -/
def lcSum {α : Type} (op : α → α → α) (d : α) (xs : List α) : α := lcTree op d xs.length xs

/-- A mean-and-variance triple (n, mean, M2) of R239. -/
structure MvTriple where
  n : Nat
  mean : Fp
  m2 : Fp
  deriving DecidableEq, Repr

/-- Combination of two triples, every step rounded in the working format (R239). -/
def MvTriple.combine (f : ElemFmt) (a b : MvTriple) : MvTriple :=
  if a.n = 0 then b else if b.n = 0 then a else
  let n := a.n + b.n
  let d := addR f b.mean a.mean.neg
  let w := fdiv f (Fp.ofInt b.n) (Fp.ofInt n)
  let mean := addR f a.mean (mulR f d w)
  let t := mulR f (mulR f d d) (mulR f (Fp.ofInt a.n) w)
  ⟨n, mean, addR f (addR f a.m2 b.m2) t⟩

/-- Output variance of a triple: population, or sample (R239). -/
def MvTriple.variance (f : ElemFmt) (sample : Bool) (t : MvTriple) : Fp :=
  if t.n = 0 then .nan
  else if sample then (if t.n = 1 then .nan else fdiv f t.m2 (Fp.ofInt ((t.n : Int) - 1)))
  else fdiv f t.m2 (Fp.ofInt t.n)

/-- Mean of a triple; a count of 0 gives a NaN (R239). -/
def MvTriple.meanOut (t : MvTriple) : Fp := if t.n = 0 then .nan else t.mean

/-- Value of an E8M0 scale byte (R216): 0xFF is NaN. -/
def e8m0 (b : Nat) : Fp := if b = 0xFF then .nan else .fin false 1 ((b : Int) - 127)

/-- LT2 quantisation with threshold τ (R306): the LT2 code of an exact value. -/
def quantLt2 (tau x : Fp) : Nat :=
  if Fp.lt tau x then 1 else if Fp.lt x tau.neg then 3 else 0

/-- Requantisation of an INT32 accumulator (R235): the product acc × m, rounded once to an integer
when it is finite. -/
def requant (acc : Int) (m : Fp) : Fp :=
  match Fp.mul (Fp.ofInt acc) m with
  | .fin neg p e => Fp.ofInt (rneInt neg p e)
  | y => y

/-- emax of an MX element format (R236). -/
def mxEmax : ElemFmt → Int
  | .e5m2 => 15
  | .fp4 => 2
  | _ => 8

/-- Floor of log2 of a finite nonzero magnitude. -/
def floorLog2 (m : Nat) (e : Int) : Int := e + bitLen m - 1

/-- Does `a` have the larger finite magnitude? Infinities and NaN do not enter (R236). -/
def magMax (a : Nat × Int) (x : Fp) : Nat × Int :=
  match x with
  | .fin _ m e => if magLt a.1 a.2 m e then (m, e) else a
  | _ => a

/-- The scale byte that R236 chooses for the values of one block of 32. -/
def mxScaleFor (f : ElemFmt) (xs : List Fp) : Nat :=
  if xs.any (· = .nan) then 0xFF
  else
    let a := xs.foldl magMax (0, 0)
    if a.1 = 0 then 0
    else (max (-127) (floorLog2 a.1 a.2 - mxEmax f) + 127).toNat

/-- One element of an MX block under the chosen scale (R236): SAT mode whatever the command says;
NaN for a block whose scale is NaN. -/
def mxConvert (f : ElemFmt) (scale : Nat) (x : Fp) : Conv :=
  if scale = 0xFF then convert f false .nan
  else convert f false (Fp.mul x (.fin false 1 (127 - (scale : Int))))

end Sys2Proof.Machine
end

