-- ==== Sys2Proof/Machine/Flags.lean ====
section
/-! DEFINITION. The status codes (R18, R620): block in the high byte, code in the low byte, as the
tables of each chapter list them, and the reasons of the resource checks (Table 7-4). -/

namespace Sys2Proof.Machine.St


/-! ### SET (Table 3-16, R136) -/

/-- `SET_LENGTH`. -/
abbrev setLength : Nat := 0x0101
/-- `SET_SIGNATURE`. -/
abbrev setSignature : Nat := 0x0102
/-- `SET_FORMAT`. -/
abbrev setFormat : Nat := 0x0103
/-- `SET_DEVICE`. -/
abbrev setDevice : Nat := 0x0104
/-- `SET_SEQUENCE`. -/
abbrev setSequence : Nat := 0x0105
/-- `SET_UNTESTED`. -/
abbrev setUntested : Nat := 0x0106
/-- `SET_RECORD`. -/
abbrev setRecord : Nat := 0x0107
/-- `SET_FI_DENIED`. -/
abbrev setFiDenied : Nat := 0x0108
/-- `SET_TOPOLOGY`. -/
abbrev setTopology : Nat := 0x0109
/-- `SET_RESOURCE`. -/
abbrev setResource : Nat := 0x010A
/-- `SET_SPARE_FRAME`. -/
abbrev setSpareFrame : Nat := 0x010B
/-- `SET_OVERCOMMIT`. -/
abbrev setOvercommit : Nat := 0x010C
/-- `SET_BEAD_DOWN`. -/
abbrev setBeadDown : Nat := 0x010D
/-- `SET_IN_USE`. -/
abbrev setInUse : Nat := 0x010E
/-- `SET_BUSY`. -/
abbrev setBusy : Nat := 0x010F
/-- `SET_TIMEOUT`. -/
abbrev setTimeout : Nat := 0x0110

/-! ### FRM (Table 4-5) -/

/-- `SLICE_OVERRUN`. -/
abbrev sliceOverrun : Nat := 0x0201
/-- `DEADLINE_MISS`. -/
abbrev deadlineMiss : Nat := 0x0202
/-- `FRM_DEFERRED`. -/
abbrev frmDeferred : Nat := 0x0203
/-- `FRM_GUARD_HOLD`. -/
abbrev frmGuardHold : Nat := 0x0204
/-- `FRM_SLEW`. -/
abbrev frmSlew : Nat := 0x0205
/-- `FRM_SYNC_LOST`. -/
abbrev frmSyncLost : Nat := 0x0206
/-- `FRM_SYNC_RESTORED`. -/
abbrev frmSyncRestored : Nat := 0x0207
/-- `FRM_BAD_BOUND`. -/
abbrev frmBadBound : Nat := 0x0208

/-! ### BEAD (Table 12-16) -/

/-- `MAP_OVERFLOW`. -/
abbrev mapOverflow : Nat := 0x0301
/-- `BEAD_BAD_OPCODE`. -/
abbrev beadBadOpcode : Nat := 0x0302
/-- `BEAD_BAD_FIELD`. -/
abbrev beadBadField : Nat := 0x0303
/-- `BEAD_BAD_SLICE`. -/
abbrev beadBadSlice : Nat := 0x0304
/-- `BEAD_DEBUG_OFF`. -/
abbrev beadDebugOff : Nat := 0x0305
/-- `BEAD_S1_ONLY`. -/
abbrev beadS1Only : Nat := 0x0306
/-- `BEAD_PREEMPTED`. -/
abbrev beadPreempted : Nat := 0x0307

/-! ### MT (Table 11-7) -/

/-- `MT_MISMATCH`. -/
abbrev mtMismatch : Nat := 0x0501
/-- `MT_TIMEOUT`. -/
abbrev mtTimeout : Nat := 0x0502
/-- `MT_TRUNCATED`. -/
abbrev mtTruncated : Nat := 0x0503

/-! ### MEM (Table 13-6) -/

/-- `REGION_FAULT`. -/
abbrev regionFault : Nat := 0x0601
/-- `POISON`. -/
abbrev poison : Nat := 0x0602
/-- `MEM_UNPOPULATED`. -/
abbrev memUnpopulated : Nat := 0x0603
/-- `MEM_CE`. -/
abbrev memCe : Nat := 0x0604
/-- `MEM_UE`. -/
abbrev memUe : Nat := 0x0605
/-- `MEM_UE_SCRUB`. -/
abbrev memUeScrub : Nat := 0x0606
/-- `MEM_PC_RETIRED`. -/
abbrev memPcRetired : Nat := 0x0607
/-- `GUARANTEE_SHORT`. -/
abbrev guaranteeShort : Nat := 0x0608
/-- `MEM_RESERVED`. -/
abbrev memReserved : Nat := 0x0609

/-! ### BPM (Table 13-6) -/

/-- `BPM_NOT_OWNER`. -/
abbrev bpmNotOwner : Nat := 0x0701
/-- `BPM_STALE`. -/
abbrev bpmStale : Nat := 0x0702
/-- `BPM_POOL_EMPTY`. -/
abbrev bpmPoolEmpty : Nat := 0x0703
/-- `BPM_OBJ_TOO_LARGE`. -/
abbrev bpmObjTooLarge : Nat := 0x0704
/-- `BPM_LIST_FULL`. -/
abbrev bpmListFull : Nat := 0x0705

/-! ### FIL (Table 14-10) -/

/-- `FIL_LANE_SPARED`. -/
abbrev filLaneSpared : Nat := 0x0801
/-- `FIL_SUBCH_LOST`. -/
abbrev filSubchLost : Nat := 0x0802
/-- `FIL_LINK_DOWN`. -/
abbrev filLinkDown : Nat := 0x0803
/-- `FIL_REPLAY`. -/
abbrev filReplay : Nat := 0x0804
/-- `FIL_ABANDON`. -/
abbrev filAbandon : Nat := 0x0805
/-- `FIL_DEST_RESET`. -/
abbrev filDestReset : Nat := 0x0806
/-- `FIL_BAD_HEADER`. -/
abbrev filBadHeader : Nat := 0x0807

/-! ### CLP (Table 15-15) -/

/-- `CLP_ERROR`. -/
abbrev clpError : Nat := 0x0901
/-- `CLP_TIMEOUT`. -/
abbrev clpTimeout : Nat := 0x0902
/-- `CLP_OVERFLOW`. -/
abbrev clpOverflow : Nat := 0x0903
/-- `CLP_NOT_GRANTED`. -/
abbrev clpNotGranted : Nat := 0x0904
/-- `CLP_NOTIFY_BAD`. -/
abbrev clpNotifyBad : Nat := 0x0905
/-- `CLP_BAD_OP`. -/
abbrev clpBadOp : Nat := 0x0906

/-! ### SES (Table 15-16) -/

/-- `SES_FULL`. -/
abbrev sesFull : Nat := 0x0A01
/-- `SES_STALE`. -/
abbrev sesStale : Nat := 0x0A02
/-- `SES_CLOSED`. -/
abbrev sesClosed : Nat := 0x0A03
/-- `ABORTED`. -/
abbrev aborted : Nat := 0x0A04
/-- `ALREADY_DONE`. -/
abbrev alreadyDone : Nat := 0x0A05
/-- `SES_NO_REQUEST`. -/
abbrev sesNoRequest : Nat := 0x0A06
/-- `SES_BAD_SEQ`. -/
abbrev sesBadSeq : Nat := 0x0A07
/-- `SES_BAD_COMMIT`. -/
abbrev sesBadCommit : Nat := 0x0A08
/-- `SES_OBJ_FULL`. -/
abbrev sesObjFull : Nat := 0x0A09
/-- `SES_NO_SERVICE`. -/
abbrev sesNoService : Nat := 0x0A0A
/-- `SES_TRUNCATED`. -/
abbrev sesTruncated : Nat := 0x0A0B
/-- `SES_IDLE`. -/
abbrev sesIdle : Nat := 0x0A0C
/-- `SES_BAD_MSG`. -/
abbrev sesBadMsg : Nat := 0x0A0D

/-! ### NET (Table 16-8) -/

/-- `NET_PEERS_FULL`. -/
abbrev netPeersFull : Nat := 0x0B01
/-- `NET_VERSION`. -/
abbrev netVersion : Nat := 0x0B02
/-- `NET_PORT_DOWN`. -/
abbrev netPortDown : Nat := 0x0B03
/-- `NET_PATH_SUSPECT`. -/
abbrev netPathSuspect : Nat := 0x0B04
/-- `NET_PEER_LOST`. -/
abbrev netPeerLost : Nat := 0x0B05
/-- `NET_PTP_LOCK`. -/
abbrev netPtpLock : Nat := 0x0B06
/-- `NET_BAD_SEGMENT`. -/
abbrev netBadSegment : Nat := 0x0B07
/-- `NET_FED_MISMATCH`. -/
abbrev netFedMismatch : Nat := 0x0B08
/-- `NET_FED_VERSION`. -/
abbrev netFedVersion : Nat := 0x0B09
/-- `NET_FED_DISSOLVED`. -/
abbrev netFedDissolved : Nat := 0x0B0A

/-! ### COLL (Table 16-8) -/

/-- `COLL_MISMATCH`. -/
abbrev collMismatch : Nat := 0x0C01
/-- `COLL_TIMEOUT`. -/
abbrev collTimeout : Nat := 0x0C02
/-- `COLL_PEER_LOST`. -/
abbrev collPeerLost : Nat := 0x0C03
/-- `COLL_STALE`. -/
abbrev collStale : Nat := 0x0C04
/-- `COLL_EARLY`. -/
abbrev collEarly : Nat := 0x0C05

/-! ### HST (Table 17-9) -/

/-- `ERR_REGACC`. -/
abbrev errRegacc : Nat := 0x0D01
/-- `HST_PRIV_DENIED`. -/
abbrev hstPrivDenied : Nat := 0x0D02
/-- `HST_UWIN_UNBOUND`. -/
abbrev hstUwinUnbound : Nat := 0x0D03
/-- `HST_WINC_DENIED`. -/
abbrev hstWincDenied : Nat := 0x0D04
/-- `HST_DOORBELL_BAD`. -/
abbrev hstDoorbellBad : Nat := 0x0D05
/-- `HST_ABI_UNSET`. -/
abbrev hstAbiUnset : Nat := 0x0D06
/-- `HST_ABI_REFUSED`. -/
abbrev hstAbiRefused : Nat := 0x0D07
/-- `HST_REPLY_DROPPED`. -/
abbrev hstReplyDropped : Nat := 0x0D08
/-- `HST_SCHED_TAKEOVER`. -/
abbrev hstSchedTakeover : Nat := 0x0D09
/-- `HST_SCHED_STANDBY_LOST`. -/
abbrev hstSchedStandbyLost : Nat := 0x0D0A
/-- `HST_JTAG_BLOCKED`. -/
abbrev hstJtagBlocked : Nat := 0x0D0B

/-! ### HMK (Table 18-9) -/

/-- `HMK_SIG_FAIL`. -/
abbrev hmkSigFail : Nat := 0x0E01
/-- `HMK_ROLLBACK`. -/
abbrev hmkRollback : Nat := 0x0E02
/-- `HMK_SLOT_FALLBACK`. -/
abbrev hmkSlotFallback : Nat := 0x0E03
/-- `HMK_UNTESTED`. -/
abbrev hmkUntested : Nat := 0x0E04
/-- `HMK_PARAM_LOST`. -/
abbrev hmkParamLost : Nat := 0x0E05
/-- `HMK_PARAM_DENIED`. -/
abbrev hmkParamDenied : Nat := 0x0E06
/-- `HMK_BUSY`. -/
abbrev hmkBusy : Nat := 0x0E07
/-- `HMK_TRIAL_REVERTED`. -/
abbrev hmkTrialReverted : Nat := 0x0E08
/-- `HMK_DBG_DENIED`. -/
abbrev hmkDbgDenied : Nat := 0x0E09
/-- `HMK_FLASH_ERR`. -/
abbrev hmkFlashErr : Nat := 0x0E0A
/-- `HMK_BOOT_FAILED`. -/
abbrev hmkBootFailed : Nat := 0x0E0B

/-! ### RAS (Table 19-7) -/

/-- `RAS_FACET_FAULT`. -/
abbrev rasFacetFault : Nat := 0x0F01
/-- `RAS_BEAD_FAULT`. -/
abbrev rasBeadFault : Nat := 0x0F02
/-- `RAS_STRAND_FAULT`. -/
abbrev rasStrandFault : Nat := 0x0F03
/-- `RAS_CORE_FAULT`. -/
abbrev rasCoreFault : Nat := 0x0F04
/-- `RAS_RECOMPOSED`. -/
abbrev rasRecomposed : Nat := 0x0F05
/-- `RAS_NO_SPARE`. -/
abbrev rasNoSpare : Nat := 0x0F06
/-- `RAS_FATAL`. -/
abbrev rasFatal : Nat := 0x0F07
/-- `RAS_ST_PASS`. -/
abbrev rasStPass : Nat := 0x0F08
/-- `RAS_ST_FAIL`. -/
abbrev rasStFail : Nat := 0x0F09
/-- `RAS_ST_REFUSED`. -/
abbrev rasStRefused : Nat := 0x0F0A
/-- `RAS_ST_SKIP`. -/
abbrev rasStSkip : Nat := 0x0F0B
/-- `RAS_ST_ABANDONED`. -/
abbrev rasStAbandoned : Nat := 0x0F0C

/-! ### Reasons of Table 7-4 -/

/-- Decode faults carry reason 0 (R392). -/
abbrev rDecode : Nat := 0
/-- SHAPE. -/
abbrev rShape : Nat := 1
/-- DESC. -/
abbrev rDesc : Nat := 2
/-- SLOTS. -/
abbrev rSlots : Nat := 3
/-- SCRATCH. -/
abbrev rScratch : Nat := 4
/-- CLASP. -/
abbrev rClasp : Nat := 5
/-- MTREE. -/
abbrev rMtree : Nat := 6
/-- REGION, hulls that the descriptor fixes. -/
abbrev rRegion : Nat := 7
/-- REGION, data-dependent accesses. -/
abbrev rAccess : Nat := 8
/-- CHAIN. -/
abbrev rChain : Nat := 9

end Sys2Proof.Machine.St
end

