-- ==== Sys2Proof/Machine/State.lean ====
section
/-! DEFINITION. The state of the block as plain data: every register, memory, queue, counter, mode and
pin the spec gives the package, and the queue of waiting commands. Times are picoseconds on the
device's frame timebase (log 5). -/

namespace Sys2Proof.Machine

/-- A finite map from numbers to data: a list of key and value pairs (log 6). -/
abbrev SMap (α : Type) := List (Nat × α)

/-- A byte memory: the listed cells, addresses strictly rising. An unlisted byte reads 0, but for the
ranges (start, length, epoch), newest first: there it reads the free byte of that epoch, or 0 in epoch 0,
which a zero fill makes (log 7). -/
structure Bytes where
  cells : List Host.Cell := []
  undef : List (Nat × Nat × Nat) := []
  deriving DecidableEq, Repr

/-! ## The setting image's records (chapter 03) -/

/-- CLASS of a REGION record (R28, Table 3-6). -/
inductive RegionClass where
  | const | work | session
  deriving DecidableEq, Repr

/-- A UNIT record (Table 3-5). -/
structure UnitRec where
  uid : Nat
  parent : Nat := 0xFFFF
  s1 : Bool := false
  members : List Nat := []
  startClasp : Nat := 0xFFFF
  collClasp : Nat := 0xFFFF
  spBase : Nat := 0
  spLen : Nat := 0
  slotBase : Nat := 0
  slotCount : Nat := 0
  descBase : Nat := 0
  descLast : Nat := 0
  deriving DecidableEq, Repr

/-- A REGION record (Table 3-6). -/
structure RegionRec where
  owner : Nat
  cls : RegionClass
  zero : Bool
  ua : Nat
  phys : Nat
  len : Nat
  deriving DecidableEq, Repr

/-- A POOL record (Table 3-7). -/
structure PoolRec where
  owner : Nat
  kind : Nat
  die : Nat
  phys : Nat
  len : Nat
  deriving DecidableEq, Repr

/-- A CLASP record (Table 3-8). -/
structure ClaspRec where
  base : Nat
  count : Nat
  owner : Nat
  perFrame : Bool
  msix : Bool
  remote : Bool
  deriving DecidableEq, Repr

/-- A VC record (R125). -/
structure VcRec where
  scope : Nat
  index : Nat
  w1 : Nat
  w2 : Nat
  w3 : Nat
  deriving DecidableEq, Repr

/-- An ARB record (Table 3-13): the quotas of an arbiter, or the class of a unit's traffic. -/
inductive ArbRec where
  | quota (scope index quotaU quotaH : Nat)
  | cls (uid cls : Nat)
  deriving DecidableEq, Repr

/-- The FRAME record (Table 3-14). -/
structure FrameRec where
  tfQ : Nat := 1000
  source : Nat := 0
  sparePolicy : Bool := false
  fsyncOutEn : Bool := false
  guardPct : Nat := 5
  slipPct : Nat := 25
  collTimeout : Nat := 2
  batchLimit : Nat := 8192
  scrubHours : Nat := 24
  deriving DecidableEq, Repr

/-- A GUAR record (R129). -/
structure GuarRec where
  uid : Nat
  resKind : Nat
  index : Nat
  rate : Nat
  deriving DecidableEq, Repr

/-- A SERVICE record (Table 3-10). -/
structure ServiceRec where
  svc : Nat
  uid : Nat
  window : Nat
  sessions : Bool
  urgent : Bool
  hostCores : Nat
  quota : Nat
  idleMs : Nat
  deriving DecidableEq, Repr

/-- A SPARE record (Table 3-11). -/
structure SpareRec where
  uid : Nat
  strandCover : Bool
  spares : List Nat
  deriving DecidableEq, Repr

/-- A FED record (Table 3-12); a peer is its rank and PKG_ID. -/
structure FedRec where
  fedUid : Nat
  localUid : Nat
  rank : Nat
  members : Nat
  totalLeaves : Nat
  verMin : Nat
  groupTag : Nat
  peers : List (Nat × Nat)
  deriving DecidableEq, Repr

/-- A GME record (R128). -/
structure GmeRec where
  uid : Nat
  thetaQ : Nat
  ramp : Nat
  deriving DecidableEq, Repr

/-- An ACCESS record (Table 3-9). -/
structure AccessRec where
  kind : Nat
  rights : Nat
  grantee : Nat
  base : Nat
  count : Nat
  deriving DecidableEq, Repr

/-- A COMPAT record (R132). -/
structure CompatRec where
  component : Nat
  min : Nat
  max : Nat
  deriving DecidableEq, Repr

/-- An FI record (R133). -/
structure FiRec where
  target : Nat
  index : Nat
  vcMask : Nat
  action : Nat
  rateExp : Nat
  limit : Nat
  deriving DecidableEq, Repr

/-- The NET record of KIND 0 (Table 3-15). -/
structure NetPkgRec where
  encap : Nat := 0
  udpPort : Nat := 0
  pkgId : Nat := 0
  pfcPrio : Nat := 0
  ptpDomain : Nat := 0
  maxPeers : Nat := 1
  deriving DecidableEq, Repr

/-- A NET record of KIND 1 (Table 3-15). -/
structure NetPortRec where
  port : Nat
  mode : Nat
  enabled : Bool
  mac : Nat
  ip : Nat
  deriving DecidableEq, Repr

/-- A setting: the records in force, in image order within each type (R98, R103). The empty setting
of R138 has none, and ticks from the system reference at 250 µs (R154). -/
structure Setting where
  seq : Nat := 0
  units : List UnitRec := []
  regions : List RegionRec := []
  pools : List PoolRec := []
  clasps : List ClaspRec := []
  vcs : List VcRec := []
  arbs : List ArbRec := []
  frame : FrameRec := {}
  guars : List GuarRec := []
  services : List ServiceRec := []
  spares : List SpareRec := []
  feds : List FedRec := []
  gmes : List GmeRec := []
  accesses : List AccessRec := []
  compats : List CompatRec := []
  fis : List FiRec := []
  netPkg : NetPkgRec := {}
  netPorts : List NetPortRec := []
  deriving DecidableEq, Repr

/-! ## Error records (chapter 19) -/

/-- An error record (Table 19-4). -/
structure ErrRec where
  status : Nat
  reason : Nat := 0
  lost : Bool := false
  covered : Bool := false
  source : Nat := 0
  uid : Nat := 0xFFFF
  frame : Nat := 0
  tNs : Nat := 0
  seq : Nat := 0
  arg : Nat := 0
  deriving DecidableEq, Repr

/-- One error queue (R618, R619): the ring's records by slot (index mod the ring's size), the counts,
and whether the next record carries LOST. -/
structure ErrQueue where
  recs : SMap ErrRec := []
  head : Nat := 0
  tail : Nat := 0
  seq : Nat := 0
  lost : Nat := 0
  lostFlag : Bool := false
  /-- MSI-X vector register of the queue: MASK and vector (Table 20-13). -/
  vecMask : Bool := true
  vec : Nat := 0
  /-- FUNC of ERR_Q_VEC (global queue only). -/
  vecFunc : Nat := 0
  deriving DecidableEq, Repr

/-! ## Beads (chapters 05 to 12) -/

/-- One accumulator element: 40 raw bits and its poison bit (R219, R417). `int` is the model's own mark, not the
hardware's: whether the command that wrote the element wrote INT32 or W40 data, `none` where raw bits were
moved in. Only an addition of the other kind looks at it (R219, log 37). -/
structure AccElem where
  bits : Nat := 0
  poison : Bool := false
  int : Option Bool := none
  deriving DecidableEq, Repr

/-- What a command in the window still needs before it can complete (R389). -/
inductive Pend where
  /-- Every access it makes is done. -/
  | none
  /-- A fused collective: every segment addressed to the leaf (sequence number). -/
  | coll (seq : Nat)
  /-- A pull: every record of its range delivered (MSEQ). -/
  | pull (mseq : Nat)
  /-- Its own accesses, which wait for those of earlier commands (R43, R388); its effect is still to come. -/
  | hazard
  /-- Its signal only, which waits until the writes of every earlier command have been made (R47). -/
  | signal
  deriving DecidableEq, Repr

/-- A command in the window that has issued and not completed (R386, R43). -/
structure InFlight where
  idx : Nat
  word : CmdWord
  /-- The first non-fault status of the command; 0 for success. -/
  status : Nat := 0
  pend : Pend := .none
  /-- Ranges that others have yet to deliver to it: BASE_KIND, start, length (R388). -/
  due : List (Nat × Nat × Nat) := []
  deriving DecidableEq, Repr

/-- What the command at the issue point waits for (R386). -/
inductive HoldStage where
  /-- The wait half of its clasp word (R393). -/
  | wait
  /-- The wait of a CLASP operation WAIT or ARRIVE (R406). -/
  | claspOp
  /-- Its pre-scan (R333). -/
  | prescan
  /-- Free leaves of its die's merge tree (R362). -/
  | mtree
  /-- The completion of every earlier command, for FENCE and END (R390). -/
  | fence
  deriving DecidableEq, Repr

/-- The command held at the issue point. -/
structure Held where
  idx : Nat
  word : CmdWord
  stage : HoldStage
  /-- FRM_COUNT when the wait began (R393). -/
  since : Nat
  deriving DecidableEq, Repr

/-- What a bead's command processor is doing. -/
inductive LeafPhase where
  /-- No chain. -/
  | idle
  /-- Waiting on the start clasp (R380). -/
  | starting
  /-- Decoding and issuing. -/
  | running
  /-- Has executed END (R390). -/
  | ended
  /-- Stopped by a fault of the slice (R39). -/
  | stopped
  /-- Decode stopped for a preemption; the window drains (R408). -/
  | preempting
  /-- Preempted: slots saved, chain stopped at NEXT (R408). -/
  | preempted
  deriving DecidableEq, Repr

/-- The performance counters of a bead (Table 20-17): BEAD_FACET_CNT, BEAD_GME_CNT and
BEAD_STALL_CNT by index, and BEAD_NAN_CNT; a count not listed is 0. -/
structure BeadPerf where
  facet : SMap Nat := []
  gme : SMap Nat := []
  stall : SMap Nat := []
  nan : Nat := 0
  deriving DecidableEq, Repr

/-- One bead: scratchpad (with its descriptor table at 0x5F_8000, R275), accumulator memory, command
processor, mode bits and the per-bead registers. -/
structure Bead where
  sp : Bytes := {}
  /-- Poisoned 32-byte scratchpad granules, by offset ÷ 32, rising (R417). -/
  spPoison : List Nat := []
  /-- Ranges of the scratchpad that commands of the slice have written or may have written: (offset, length). -/
  wrote : List (Nat × Nat) := []
  /-- Accumulator elements at slot × 4,096 + r × 64 + c (R227). -/
  acc : SMap AccElem := []
  /-- Slots (first, count, epoch) whose contents are undefined, newest first (R61, R230). -/
  accUndef : List (Nat × Nat × Nat) := []
  /-- The UNIT position (its bead UID) this bead stands in (R66); `none` when idle or a free spare. -/
  pos : Option Nat := none
  inService : Bool := true
  phase : LeafPhase := .idle
  chain : Nat := 0
  chainLen : Nat := 0
  ringBase : Nat := 0
  ringPages : Nat := 1
  /-- Index of the next command to decode, and of the next line to fetch. -/
  next : Nat := 0
  fetched : Nat := 0
  window : List InFlight := []
  held : Option Held := none
  /-- A wake on its way to the bead: with `CLP_ERROR`, or with success (R476). -/
  wake : Option Bool := none
  /-- Moment the start clasp was acquired, and of END. -/
  startedAt : Nat := 0
  endedAt : Nat := 0
  /-- Collectives issued by the leaf in this slice (R56). -/
  collSeq : Nat := 0
  debug : Bool := false
  debugReq : Bool := false
  /-- BEAD_PREEMPT.AREA and NEXT (R408, R642). -/
  preemptArea : Nat := 0
  preemptNext : Nat := 0
  perf : BeadPerf := {}
  perfSnap : BeadPerf := {}
  deriving DecidableEq, Repr

/-! ## Merges and collectives (chapters 11, 12, 16) -/

/-- A merge-tree record (Table 11-1): its key, the ranks it covers, push order, count and 64 payload lanes
with their poison bits. -/
structure MtRecord where
  index : Nat
  lo : Nat
  hi : Nat
  seq : Nat
  count : Nat
  lanes : List AccElem
  deriving DecidableEq, Repr

/-- A posted pull: local rank, bead, chain index, the command that names range and destination, and whether
its records have been written. -/
structure MtPull where
  rank : Nat
  bead : Nat
  idx : Nat
  word : CmdWord
  /-- The descriptor entries that it names, as they stood at its issue (R43). -/
  ents : Bytes := {}
  delivered : Bool := false
  deriving DecidableEq, Repr

/-- What the first push fixes at a die (R361): OP, PFMT, LANES and RUNS. -/
structure MtFixed where
  op : Nat
  pfmt : Nat
  lanes : Nat
  runs : Nat
  deriving DecidableEq, Repr

/-- An open merge of one slice (R358): what each die fixed (R361), the records of each die × 16 + run, those
reserved there (R363), the pulls posted, and the frame of its first push (R374). -/
structure Merge where
  slice : Nat
  mseq : Nat
  fixed : SMap MtFixed := []
  records : List (Nat × MtRecord) := []
  reserved : SMap Nat := []
  /-- Records pushed so far by local rank (R357). -/
  seqOf : SMap Nat := []
  pulls : List MtPull := []
  since : Nat := 0
  /-- A record of the merge could not be placed (R376). -/
  poison : Bool := false
  deriving DecidableEq, Repr

/-- One local member of a collective: its leaf, its fused command and signature, its raw tile when raw values
are exchanged (R401; row-major, 64f rows of 64n), and what it has received (R528). -/
structure CollPart where
  rank : Nat
  bead : Nat
  idx : Nat
  word : CmdWord
  sig : Nat
  /-- The descriptor entries that its command names, as they stood at its issue (R43). -/
  ents : Bytes := {}
  tile : List AccElem := []
  /-- Group ranks whose LAST payload has come, the rows received and the rows that TOTAL fields announce. -/
  ended : List Nat := []
  rowsGot : Nat := 0
  rowsDue : Nat := 0
  /-- The combined tile has been written (R531). -/
  reduced : Bool := false
  deriving DecidableEq, Repr

/-- An open collective of one slice (R56): its local members, the dies whose merge tree it reserves (R531), the
frame of its first issue. -/
structure Coll where
  slice : Nat
  seq : Nat
  parts : List CollPart := []
  dies : List Nat := []
  since : Nat := 0
  deriving DecidableEq, Repr

/-- A payload held in a leaf's early buffer (R530): the leaf's bead, header, rows and poison bits. -/
structure EarlyPart where
  bead : Nat
  h : CollHdr
  rows : List Byte
  poison : List Bool
  deriving DecidableEq, Repr

/-! ## Clasps (chapter 15) -/

/-- Who waits on a clasp. -/
inductive Waiter where
  /-- A bead (R476). -/
  | bead (b : Nat)
  /-- A host core or the privileged view, through a window (`none`: window A), with its notify index. -/
  | notify (window : Option Nat) (nidx : Nat)
  /-- A remote package: peer and token (R485). -/
  | remote (peer token : Nat)
  deriving DecidableEq, Repr

/-- A pending wait: the target, oldest first in its clasp's list (R470). -/
structure ClaspWait where
  who : Waiter
  target : Nat
  deriving DecidableEq, Repr

/-- A clasp: counter, error flag and pending waits (R467). -/
structure Clasp where
  counter : Nat := 0
  err : Bool := false
  waits : List ClaspWait := []
  deriving DecidableEq, Repr

/-- An MSI-X threshold entry of a user window (R483, Table 20-19). -/
structure MsixEntry where
  id : Nat := 0
  target : Nat := 0
  vector : Nat := 0
  arm : Bool := false
  stCounter : Nat := 0
  stErr : Bool := false
  stFired : Bool := false
  deriving DecidableEq, Repr

/-! ## The block pool (chapter 13) -/

/-- STATE of a page (Table 13-5). -/
inductive PageState where
  | free | alloc | quarantine | retired
  deriving DecidableEq, Repr

/-- A page's reverse-map entry (Table 13-4), the page's marks, and the serial numbers of the slices
its quarantine waits for (R439). -/
structure Page where
  owner : Nat := 0
  gen : Nat := 0
  state : PageState := .free
  head : Bool := false
  holed : Bool := false
  link : Nat := 0
  /-- Retire when the page leaves ALLOC or QUARANTINE (R422, R425). -/
  mark : Bool := false
  waitsFor : List Nat := []
  deriving DecidableEq, Repr

/-! ## Sessions, batches and slices (chapters 01, 04, 12, 15) -/

/-- STATE of a session entry (Table 15-4). -/
inductive SesState where
  | free | opened | closing
  deriving DecidableEq, Repr

/-- The client of a session: a Celner peer, or a PCIe function through a user window. -/
inductive Client where
  | peer (pkg : Nat)
  | func (f w : Nat)
  deriving DecidableEq, Repr

/-- A queued request (R163, R491). -/
structure Request where
  reqSeq : Nat
  stamp : Nat
  budget : Nat
  urgent : Bool
  tag : Nat
  payload : Nat
  len : Nat
  /-- Reply address and size of a submission-queue request (Table 15-7). -/
  respAddr : Nat := 0
  respMax : Nat := 0
  /-- Resets of its window when the hub consumed it (Table 17-4). -/
  epoch : Nat := 0
  deriving DecidableEq, Repr

/-- A session entry (Table 15-4) and its ready queue. -/
structure Session where
  state : SesState := .free
  inBatch : Bool := false
  closePending : Bool := false
  gen : Nat := 0
  /-- Has the index been used since reset (R27)? -/
  used : Bool := false
  svc : Nat := 0
  client : Client := .peer 0
  openFrame : Nat := 0
  lastFrame : Nat := 0
  /-- Moment of the tick of LAST_FRAME, for the idle timeout (R492). -/
  lastAt : Nat := 0
  nextSeq : Nat := 0
  doneSeq : Nat := 0xFFFFFFFF
  user : Nat := 0
  /-- SLOT0 to SLOT7 as 64-bit words; empty is 0. -/
  slots : SMap Nat := []
  queue : List Request := []
  /-- Status the client receives at CLOSED (R492). -/
  closeStatus : Nat := 0
  closeTag : Nat := 0
  deriving DecidableEq, Repr

/-- A lane of a batch (Table 15-10). -/
structure Lane where
  index : Nat
  handle : Nat
  req : Request
  deadline : Nat
  user : Nat
  slots : SMap Nat
  aborted : Bool := false
  replayed : Bool := false
  deriving DecidableEq, Repr

/-- A batch: its service, admission frame, lanes and staging object (R494). -/
structure Batch where
  svc : Nat
  frame : Nat
  lanes : List Lane
  laneBytes : Nat
  stage : Nat := 0
  replay : Bool := false
  heldOver : Bool := false
  deriving DecidableEq, Repr

/-- A leaf entry of a slice header (Table 12-2). -/
structure LeafEntry where
  chain : Nat
  chainLen : Nat
  ringBase : Nat
  ringPages : Nat
  deriving DecidableEq, Repr

/-- A slice header as read at admission (Table 12-1). -/
structure Header where
  addr : Nat
  bound : Nat
  outClasps : List Nat
  complAddr : Nat
  leaves : List LeafEntry
  deriving DecidableEq, Repr

/-- A held signal (R394): leaf rank, chain index, clasp, increment. -/
structure HeldSignal where
  rank : Nat
  idx : Nat
  clasp : Nat
  n : Nat
  deriving DecidableEq, Repr

/-- The earliest fault of a slice (Table 12-17). -/
structure SliceFault where
  status : Nat
  rank : Nat
  cmd : Nat
  reason : Nat
  deriving DecidableEq, Repr

/-- Where a slice stands. -/
inductive SlicePhase where
  /-- Admitted; the start clasp is not signalled yet (R172). -/
  | admitted
  /-- Start clasp signalled. -/
  | running
  /-- Every local leaf of a federated unit has executed END; the decision is due (R541). -/
  | waiting
  /-- Every leaf has executed END; the commit has begun (R496). -/
  | committing
  deriving DecidableEq, Repr

/-- A slice of a unit, from admission until it settles. -/
structure Slice where
  serial : Nat
  uid : Nat
  header : Header
  /-- Bead of each local rank (R356). -/
  beads : List Nat
  batch : Option Batch := none
  phase : SlicePhase := .admitted
  frame : Nat := 0
  sNom : Nat := 0
  startAt : Nat := 0
  endAt : Nat := 0
  replay : Bool := false
  endedRanks : List Nat := []
  heldSignals : List HeldSignal := []
  warnStatus : Nat := 0
  warnRank : Nat := 0
  warnCount : Nat := 0
  fault : Option SliceFault := none
  overrun : Bool := false
  poisonSeen : Bool := false
  /-- Was the slice still running at a tick (R176)? -/
  overTick : Bool := false
  maxCycles : Nat := 0
  /-- WORK ranges written, package addresses (R31). -/
  work : List (Nat × Nat) := []
  /-- Handles of the objects allocated during the slice (R32, R322). -/
  objs : List Nat := []
  /-- bound_time at the clock of its frame, ps (R170). -/
  boundTime : Nat := 0
  deriving DecidableEq, Repr

/-- A failed batch that waits for its replay (R67, R613). -/
structure Replay where
  header : Header
  batch : Option Batch
  /-- The unit whose fault it depends on (R611). -/
  dependsOn : Option Nat := none
  deriving DecidableEq, Repr

/-- What the frame scheduler and the RAS machinery keep per top-level or exposed unit. -/
structure UnitSt where
  slicePtr : Nat := 0
  slip : Nat := 0
  slice : Option Slice := none
  replay : Option Replay := none
  /-- A batch held by the guard band (R174). -/
  heldBatch : Option Replay := none
  /-- Leaves out of service whose spare is not placed yet: failed bead IDs (R612). -/
  failed : List Nat := []
  down : Bool := false
  /-- DOWN batch kept with its admission intact (R614). -/
  downBatch : Option Replay := none
  /-- Deferred at this tick by R175 or R176. -/
  deferred : Bool := false
  /-- Slice headers that submissions of an S1-compatible unit name, oldest first (R62, R378). -/
  s1Queue : List Nat := []
  deriving DecidableEq, Repr

/-! ## The Filigree (chapter 14) -/

/-- One direction of one sub-channel of a link: sequence numbers, replay buffer and link state. -/
structure SubCh where
  /-- GSEQ of the next group to send, and the groups not yet acknowledged, oldest first. -/
  txSeq : Nat := 0
  unacked : List (Nat × List Xfer) := []
  /-- GSEQ expected next by the receiver, and whether it discards until a replay (R452). -/
  rxSeq : Nat := 0
  nak : Bool := false
  /-- Failures in a row of the group expected, and replays of the oldest unacknowledged group. -/
  fails : Nat := 0
  replays : Nat := 0
  lost : Bool := false
  /-- The module is in a lane remap: no new grants (R453). -/
  remap : Bool := false
  deriving DecidableEq, Repr

/-- A transfer whose response is due: requester, tag, OP, and lines asked (R463). -/
structure Outstanding where
  src : Nat
  tag : Nat
  op : FilOp
  lines : Nat := 0
  deriving DecidableEq, Repr

/-- The fabric: links, transfers in flight, spares and counters. -/
structure FilState where
  /-- Sub-channels by link × 64 + sub-channel × 2 + direction. -/
  subs : SMap SubCh := []
  /-- Redundant lanes taken by link × 16 + module, of 4 (R447). -/
  spared : SMap Nat := []
  outstanding : List Outstanding := []
  /-- Responses and forwarded transfers on their way. -/
  inFlight : List Xfer := []
  /-- Transfers held by a REORDER injection, with their sub-channel direction (Table 16-7). -/
  reorder : List (Nat × Xfer) := []
  /-- Agents under reset (R461). -/
  underReset : List Nat := []
  /-- DOWN of FIL_LINK_STATUS, kept across a warm reset (Table 20-12). -/
  down : List Nat := []
  /-- FIL_REPLAY_COUNT by link, FIL_ABANDON_COUNT and FIL_BAD_HDR_COUNT by die, FIL_SLOTS by link × 8 + direction × 4 + VC. -/
  replayCnt : SMap Nat := []
  abandonCnt : SMap Nat := []
  badHeader : SMap Nat := []
  slots : SMap Nat := []
  deriving DecidableEq, Repr

/-! ## Network, federation and time (chapter 16) -/

/-- A segment sent and not acknowledged (R515, R516). -/
structure SentSeg where
  seg : Segment
  sends : Nat := 1
  sentAt : Nat := 0
  /-- Retransmission timeout of this segment, in µs. -/
  rto : Nat := 100
  deriving DecidableEq, Repr

/-- A message being placed by the receiver (R510). -/
structure RxMsg where
  id : Nat
  /-- Pieces by MSG_OFF, with their poison map. -/
  pieces : List (Nat × List Byte × Nat) := []
  total : Option Nat := none
  deriving DecidableEq, Repr

/-- One virtual channel of a connection. -/
structure PeerVc where
  txPsn : Nat := 0
  ackPsn : Nat := 0
  sent : List SentSeg := []
  txMsg : Nat := 0
  rxPsn : Nat := 0
  /-- PSNs received beyond `rxPsn`. -/
  rxAhead : List Nat := []
  rxMsgs : List RxMsg := []
  rxNextMsg : Nat := 0
  unackedRx : Nat := 0
  /-- Segments waiting for the connection, for the window of 64 or for a path. -/
  backlog : List Segment := []
  deriving DecidableEq, Repr

/-- A path of one peer that is suspect: acknowledged probes in a row (R521). -/
structure Suspect where
  path : Nat
  acks : Nat := 0
  /-- A PROBE is out and not acknowledged. -/
  probed : Bool := false
  deriving DecidableEq, Repr

/-- A Celner peer (R511 to R521). -/
structure Peer where
  pkg : Nat
  connected : Bool := false
  version : Nat := 0
  features : Nat := 0
  paths : Nat := 0
  /-- Address of the peer: PORT and IP fields as bytes of the HELLO, or of NET_ADDR. -/
  addr : List Byte := []
  vcs : SMap PeerVc := []
  /-- Rate in Mb/s, and ECE seen in the interval (R518). -/
  rate : Nat := 0
  ece : Bool := false
  /-- CE seen: set ECE in the next acknowledgement (R506). -/
  ceSeen : Bool := false
  suspects : List Suspect := []
  lastAckAt : Nat := 0
  lastBusyAt : Nat := 0
  helloSent : Bool := false
  segs : Nat := 0
  resends : Nat := 0
  eceMarks : Nat := 0
  deriving DecidableEq, Repr

/-- A pending remote operation of this package, by tag (R485). -/
structure RemoteOp where
  tag : Nat
  peer : Nat
  bead : Option Nat
  clasp : Nat
  deriving DecidableEq, Repr

/-- A port: up paths, PFC and error counts. -/
structure Port where
  /-- Sub-ports with block lock and alignment. -/
  up : List Nat := []
  /-- Paths paused by PFC (R505), by sub-port. -/
  paused : List Nat := []
  rxBytes : Nat := 0
  xoffSent : Bool := false
  err : Nat := 0
  prioDrop : Nat := 0
  deriving DecidableEq, Repr

/-- A join that rank 0 has collected (Table 16-4, FED_JOIN). -/
structure FedJoin where
  pkg : Nat
  rank : Nat
  members : Nat
  totalLeaves : Nat
  leaves : Nat
  tag : Nat
  verMin : Nat
  verMax : Nat
  deriving DecidableEq, Repr

/-- A federation as this package sees it (R535 to R541). -/
structure Fed where
  fedUid : Nat
  joins : List FedJoin := []
  formed : Bool := false
  version : Nat := 0
  offset : Nat := 0
  epoch : Nat := 0
  /-- Rank 0: FED_READY statuses of the running slice, by rank. -/
  ready : SMap Nat := []
  /-- A member: FED_START that waits for the local slice to settle: EPOCH and REPLAY. -/
  startWaits : Option (Nat × Bool) := none
  /-- Rank 0: FED_START is out and the decision of R540 is due; the earliest fault reported. -/
  running : Bool := false
  firstBad : Nat := 0
  deriving DecidableEq, Repr

/-- The 1588 clock and its servo (R507, R508). -/
structure Ptp where
  locked : Bool := false
  /-- Sync offsets within ±50 ns in a row, and outside ±500 ns in a row. -/
  good : Nat := 0
  bad : Nat := 0
  offset : Int := 0
  /-- Newest Sync: receive time minus origin time, for the delay measurement, in ns. -/
  syncDiff : Int := 0
  delay : Int := 0
  /-- Offset of the 1588 clock from the frame timebase, in ns. -/
  clockAdj : Int := 0
  master : Option Nat := none
  /-- Masters heard, with their announced priority vectors. -/
  masters : SMap Nat := []
  ppsTs : Nat := 0
  deriving DecidableEq, Repr

/-- The fault-injection register of one FI record (R543, R544): register, actions taken, eligible. -/
structure FiState where
  lfsr : Nat
  acted : Nat := 0
  deriving DecidableEq, Repr

/-- The network block. -/
structure NetState where
  ports : SMap Port := []
  peers : SMap Peer := []
  /-- NET_PATH_SEG_TX, NET_PATH_RESEND, NET_PATH_ECE and NET_PATH_PFC, by path. -/
  pathTx : SMap Nat := []
  pathResend : SMap Nat := []
  pathEce : SMap Nat := []
  pathPfc : SMap Nat := []
  /-- Address table NET_ADDR: 32-byte entries, and the stage (R638). -/
  addrTable : SMap (List Byte) := []
  addrStage : List Byte := []
  remoteOps : List RemoteOp := []
  feds : SMap Fed := []
  ptp : Ptp := {}
  fi : List FiState := []
  /-- Segments that passed the checks of R509 and wait for their protocol step. -/
  accepted : List Segment := []
  /-- Segments held by a REORDER injection. -/
  reorder : List Segment := []
  badSegment : Nat := 0
  /-- Payloads of older epochs discarded (R527). -/
  collStale : Nat := 0
  deriving DecidableEq, Repr

/-! ## The host interface (chapters 17, 20) -/

/-- A mailbox (Table 20-4). -/
structure Mailbox where
  /-- MBOX_REQ and MBOX_RSP: 64 bytes each, as 512-bit words. -/
  req : BitVec 512 := 0
  rsp : BitVec 512 := 0
  /-- The response that the hub has made and not yet written (R564). -/
  next : Option (BitVec 512) := none
  busy : Bool := false
  done : Bool := false
  irqEn : Bool := false
  vec : Nat := 0
  deriving DecidableEq, Repr

/-- A PCIe function (R547 to R567): Bus Master Enable, MSI-X enable, function mask, the vectors
unmasked and the vectors pending, ABI version (0: unnegotiated) and features, mailbox, window C. -/
structure PcieFn where
  busMaster : Bool := false
  msixEnable : Bool := false
  msixMask : Bool := false
  unmasked : List Nat := []
  pendingVecs : List Nat := []
  abi : Nat := 0
  feat : Nat := 0
  mbox : Mailbox := {}
  winCBase : Nat := 0
  /-- log2 of the window C aperture; 0 stands for the reset size of Table 17-2. -/
  winCLog : Nat := 0
  deriving DecidableEq, Repr

/-- A reply to a client through a window (R489): message header, payload with its poison seen, and the
reply address of its submission entry. -/
structure Reply where
  msg : SesMsg
  respAddr : Nat := 0
  respMax : Nat := 0
  deriving DecidableEq, Repr

/-- An allocation or free result register (Table 20-9). -/
structure BpmResult where
  handle : Nat := 0
  status : Nat := 0
  busy : Bool := false
  done : Bool := false
  deriving DecidableEq, Repr

/-- A user window (Table 20-18): its registers, its submission ring as 32-bit words, and the replies
that wait for its completion ring. -/
structure UserWin where
  /-- DEV_UWIN_FUNC, bits [11:0]. -/
  func : Nat := 0
  vecLimit : Nat := 2048
  sq : SMap Nat := []
  sqHead : Nat := 0
  sqTail : Nat := 0
  cqBase : Nat := 0
  cqEntries : Nat := 0
  cqHead : Nat := 0
  cqTail : Nat := 0
  cqVec : Nat := 0
  cqMask : Bool := true
  laneBytes : Nat := 128
  notifyBase : Nat := 0
  peekId : Nat := 0
  msix : SMap MsixEntry := []
  allocRes : BpmResult := {}
  freeRes : BpmResult := {}
  cntSel : Nat := 0
  replies : List Reply := []
  /-- Function resets the window has seen (R563). -/
  epoch : Nat := 0
  deriving DecidableEq, Repr

/-- A requester's held low half and captured high halves of 64-bit registers, by register (Table 17-3). -/
structure Halves where
  via : Via
  held : Option (Nat × Nat) := none
  captured : SMap Nat := []
  deriving DecidableEq, Repr

/-- What the device has sent to its outside, in order: MSI-X messages, host memory writes, Celner
segments, Filigree transfers, Ethernet pause, PLDM and SPDM responses, UART bytes, TDO registers,
register read data and AVSBus targets. -/
inductive Out where
  | msix (f vec : Nat)
  | hostWrite (f addr : Nat) (bytes : List Byte)
  | segment (path : Nat) (s : Segment)
  | xfer (x : Xfer)
  | pause (path : Nat) (on : Bool)
  /-- A payload of a collective to a member of the group, by rank (R526). -/
  | coll (h : CollHdr) (rows : List Byte) (poison : List Bool)
  | mctp (bind : Nat) (body : List Nat)
  | spdm (transport : Nat) (body : List Nat)
  | uart (x : Byte)
  | tdo (tap : Nat) (dr : Nat)
  | readData (via : Via) (bytes : List Byte) (poison : Bool)
  | completion (f : Nat) (ur ca crs : Bool)
  | pulse (pin : Nat) (t : Nat)
  | alertResponse (addr : Nat)
  /-- A host core takes an access fault; with the poisoned address of R420, if that is its cause. -/
  | coreFault (c : Nat) (poison : Option Nat)
  deriving DecidableEq, Repr

/-! ## The loader and the frame scheduler (chapters 03, 04) -/

/-- STATE of SET_STATUS (Table 20-6). -/
inductive LoadPhase where
  | idle | checking | pending
  deriving DecidableEq, Repr

/-- A load that passed its checks (R136): the image, the setting it gives, and the records it carries. -/
structure Loaded where
  image : List Byte
  merged : Setting
  full : Bool
  /-- It needed the override of R150. -/
  untested : Bool
  /-- TYPE and key of every record of the image. -/
  carried : List (Nat × List Nat)
  /-- Package ranges that the apply fills with zero (R145). -/
  fill : List (Nat × Nat)
  deriving DecidableEq, Repr

/-- The loader (R134 to R144). -/
structure SetState where
  phase : LoadPhase := .idle
  refused : Bool := false
  code : Nat := 0
  record : Nat := 0
  loadAddr : Nat := 0
  loadLen : Nat := 0
  /-- ADDR, LEN and PERSIST taken at GO. -/
  goAddr : Nat := 0
  goLen : Nat := 0
  persist : Bool := false
  /-- Ticks since checking ended (R136). -/
  ticks : Nat := 0
  loaded : Option Loaded := none
  cur : Setting := {}
  /-- The bytes of the image applied last (R599, R607). -/
  image : List Byte := []
  deriving DecidableEq, Repr

/-- The frame scheduler (R153 to R180, R577 to R580). -/
structure FrmState where
  count : Nat := 0
  ticked : Bool := false
  /-- Moment of the newest tick, ps, and its planned length, 10 ns units. -/
  tickAt : Nat := 0
  len : Nat := 25000
  /-- Newest measured error less the corrections made since, in ns (R159). -/
  resid : Int := 0
  /-- r of the newest tick, in ns. -/
  r : Int := 0
  holdover : Bool := false
  slewing : Bool := false
  schedH1 : Bool := false
  standbyOk : Bool := false
  /-- Ticks in a row with no matched edge (R161), and whether an edge has matched the newest tick or the next. -/
  sinceEdge : Nat := 0
  edgeOfTick : Bool := false
  edgeOfNext : Bool := false
  fsyncExtra : Nat := 0
  fsyncOut : Nat := 0
  deriving DecidableEq, Repr

/-! ## Memory, power, management (chapters 13, 18, 20, 21) -/

/-- A line held in the host cores' caches (R86, R429): its 64 bytes, its poison, and whether it is dirty. -/
structure CoreLine where
  bytes : List Byte
  poison : Bool := false
  dirty : Bool := false
  deriving DecidableEq, Repr

/-- The package memory and its HBM bookkeeping. -/
structure MemState where
  /-- HBM and vault by package physical address. -/
  ram : Bytes := {}
  /-- Poisoned 64-byte lines, address ÷ 64, rising (R417). -/
  poison : List Nat := []
  /-- Retired pseudo-channels: mask by stack (R424). -/
  retired : SMap Nat := []
  refresh2x : List Nat := []
  caseTemp : SMap Nat := []
  /-- Stacks in self-refresh (R659). -/
  selfRefresh : List Nat := []
  ce : SMap Nat := []
  ue : SMap Nat := []
  scrubBytes : SMap Nat := []
  refreshNs : SMap Nat := []
  vaultHit : SMap Nat := []
  vaultMiss : SMap Nat := []
  /-- Bytes counted by GUAR record ordinal (R443), and their snapshot. -/
  meter : SMap Nat := []
  meterSnap : SMap Nat := []
  /-- Writes dropped at retired pseudo-channels (R424). -/
  dropped : Nat := 0
  /-- Moments of the newest uncorrectable errors, by stack × 64 + pseudo-channel (R424). -/
  ueTimes : SMap (List Nat) := []
  /-- Lines in the host cores' caches, one coherence domain (R85), by address ÷ 64. -/
  core : SMap CoreLine := []
  /-- Error cause register of each host core: the poisoned address of its newest load fault (R420). -/
  coreErr : SMap Nat := []
  deriving DecidableEq, Repr

/-- The pool agents: pages by frame number (package address ÷ 4096), page-list runs in use by die,
and counters. -/
structure BpmState where
  pages : SMap Page := []
  /-- Page-list runs in use: handle of the head page → frames in order. -/
  lists : SMap (List Nat) := []
  retired : Nat := 0
  errCount : Nat := 0
  allocRes : BpmResult := {}
  freeRes : BpmResult := {}
  deriving DecidableEq, Repr

/-- Throttles, clocks, voltages, power and temperatures (chapter 21). -/
structure PwrState where
  reqState : Nat := 0
  reqClk : Nat := Config.grade.maxClock
  curState : Nat := 0
  curClk : Nat := Config.grade.maxClock
  /-- PWR_CAP as written, and in force from the tick. -/
  capReq : Nat := 3200
  cap : Nat := 3200
  /-- Clock allowed by each throttle, MHz. -/
  capClk : Option Nat := none
  thermClk : Option Nat := none
  prochotIn : Bool := false
  thermEmergency : Bool := false
  thermtrip : Bool := false
  /-- Samples of package power, newest first, at most 1,000 (R660), and 10 µs samples in a row with
  P_100µs over the cap. -/
  samples : List Nat := []
  capOver : Nat := 0
  sinceCapStep : Nat := 0
  /-- VDD_C target, mV, of all eight rails. -/
  vddTarget : Nat := 850
  /-- Sensors (R661): °C by 0 to 25 for sensors 1 to 26 of Table 17-6. -/
  temps : SMap Nat := []
  currents : SMap Nat := []
  /-- Units whose pre-warm has begun and whose start is due (R656). -/
  preWarm : List Nat := []
  deriving DecidableEq, Repr

/-- A kind of queued flash write (R585). -/
inductive FlashKind where
  | event | setStore | params | signed | directory | slot
  deriving DecidableEq, Repr

/-- A queued flash write: kind, where and what, and the status register that reports it (0 none, 1
MGT_FWUP_CTRL, 2 MGT_PARAM_CTRL). -/
structure FlashReq where
  kind : FlashKind
  off : Nat
  data : List Byte
  report : Nat := 0
  deriving DecidableEq, Repr

/-- Hallmark, the flash and the boot (chapter 18). -/
structure HmkState where
  stage : Nat := 0
  err : Nat := 0
  ms : Vector (BitVec 384) 16 := Vector.replicate 16 0
  extData : BitVec 384 := 0
  extSlot : Nat := 0
  extBusy : Bool := false
  nonce : BitVec 256 := 0
  nonceValid : Bool := false
  draws : Nat := 0
  dbgResp : BitVec 768 := 0
  dbgBusy : Bool := false
  dbgStatus : Nat := 0
  flash : Bytes := {}
  backup : Bytes := {}
  useBackup : Bool := false
  /-- The parameter area in force: bytes 0x0000 to 0xFFFF. -/
  params : Bytes := {}
  versions : List Nat := [0, 0, 0]
  /-- Firmware slot that runs, 0 or 1, and the security versions of its images. -/
  slot : Nat := 0
  svns : List Nat := [0, 0, 0]
  /-- The partner ranges the management firmware offers for 0x04, 0x05 and 0x06 (R593). -/
  offers : SMap (Nat × Nat) := []
  logNext : Nat := 0
  queue : List FlashReq := []
  /-- A firmware bundle is being written (R597). -/
  fwBusy : Bool := false
  bscanHold : Bool := false
  deriving DecidableEq, Repr

/-- An SPDM connection of one transport (R600): steps completed and version agreed. -/
structure SpdmConn where
  version : Nat := 0
  /-- The requests and responses since GET_VERSION, which signatures cover. -/
  transcript : List Nat := []
  caps : Bool := false
  algs : Bool := false
  deriving DecidableEq, Repr

/-- A byte in the receive FIFO with its flags (R572). -/
structure UartByte where
  x : Byte
  fe : Bool := false
  brk : Bool := false
  deriving DecidableEq, Repr

/-- The management block and ports (chapters 17, 20). -/
structure MgtState where
  uartDiv : Nat := 3472
  rx : List UartByte := []
  tx : List Byte := []
  overrun : Bool := false
  /-- The receiver waits for 16 high samples (R572). -/
  rxWait : Bool := false
  smbErr : Nat := 0
  /-- The answer to the newest SMBus packet is being read out (R568). -/
  smbBusy : Bool := false
  eids : SMap Nat := []
  spdm : SMap SpdmConn := []
  /-- PLDM platform events queued for polling (R570); SMB_ALERT_N is low while one is queued. -/
  events : List Nat := []
  /-- Sensors above their warning threshold at the last refresh. -/
  warned : List Nat := []
  /-- The readings of sensors 1 to 38 at the last refresh. -/
  readings : SMap Nat := []
  fwAddr : Nat := 0
  fwLen : Nat := 0
  fwConfirmMode : Bool := false
  fwBusy : Bool := false
  fwStatus : Nat := 0
  parAddr : Nat := 0
  parLen : Nat := 0
  parKind : Bool := false
  parBusy : Bool := false
  parStatus : Nat := 0
  parOff : Nat := 0x400
  deriving DecidableEq, Repr

/-- The JTAG port: instruction of each TAP, and the data register shifted in last (R574, R575). -/
structure JtagState where
  ir : Vector Nat 10 := Vector.replicate 10 1
  boundary : SMap Nat := []
  blocked : Nat := 0
  deriving DecidableEq, Repr

/-- A trace buffer (R627): mode, flags, and entries oldest first. -/
structure TraceBuf where
  mode : Nat := 0
  full : Bool := false
  frozen : Bool := false
  entries : List Nat := []
  deriving DecidableEq, Repr

/-- A self-test (R621): its kind, FORCE, and the position it left, if any. -/
structure SelfTest where
  kind : Nat
  force : Bool
  /-- The top-level unit that is not admitted while the test runs (R623). -/
  skipUnit : Option Nat := none
  /-- The position the bead returns to (R624). -/
  home : Option Nat := none
  deriving DecidableEq, Repr

/-- Self-test requests, running tests, beads that wait to return, halted cores. -/
structure RasState where
  queued : SMap SelfTest := []
  running : SMap SelfTest := []
  returning : SMap Nat := []
  haltedCores : List Nat := []
  traces : SMap TraceBuf := []
  fabFilter : SMap Nat := []
  deriving DecidableEq, Repr

/-- DEV_STATUS (Table 20-3). -/
structure DevStatus where
  ready : Bool := false
  limited : Bool := false
  untested : Bool := false
  noSetting : Bool := false
  paramDefault : Bool := false
  memDegraded : Bool := false
  debugUnlocked : Bool := false
  bootFailed : Bool := false
  fatal : Bool := false
  deriving DecidableEq, Repr

/-- Select registers and other plain registers of window A. -/
structure Sel where
  uwin : Nat := 0
  winC : Nat := 0
  frmUnit : Nat := 0
  sesIdx : Nat := 0
  sesData : List Byte := []
  clpNotify : Nat := 0
  clpPeek : Nat := 0
  bpmPool : Nat := 0
  meter : Nat := 0
  netAddr : Nat := 0
  netPeer : Nat := 0
  errUq : Nat := 0
  trace : Nat := 0
  deriving DecidableEq, Repr

/-! ## Outcomes -/

/-- Faults of the model. -/
inductive Fault where
  /-- A rail has left its range while PORST_N is high: the device's state is undefined from that moment (R649).
  Raised by RAIL_OUT_OF_RANGE only. Safe: the model stops where the hardware is in no defined state. -/
  | railOutOfRange
  deriving DecidableEq, Repr

/-- Refusals of the model. -/
inductive Refusal where
  /-- A command that the model gives no meaning: raised by no arm of `exec` that has one. Safe. -/
  | notModelled (mnemonic : String)
  deriving DecidableEq, Repr

/-! ## The state -/

/-- The whole machine. -/
structure State where
  /-- Moment of the newest time-carrying event, ps since READY. -/
  now : Nat := 0
  /-- Fresh free values drawn so far (the model's own). -/
  freeCtr : Nat := 0
  dev : DevStatus := {}
  set : SetState := {}
  frm : FrmState := {}
  beads : SMap Bead := []
  units : SMap UnitSt := []
  merges : List Merge := []
  /-- Beads whose MTPUSH waits for leaves, in order of arrival (R362). -/
  mtWait : List Nat := []
  colls : List Coll := []
  early : List EarlyPart := []
  clasps : SMap Clasp := []
  claspSnap : SMap Nat := []
  stalledOps : List (ClaspAgent × Nat) := []
  sessions : SMap Session := []
  /-- Open sessions by SVC_ID, kept at H0 (R490). -/
  quota : SMap Nat := []
  /-- Units reserved for OPENs on their way, by SVC_ID (R490). -/
  sesReserved : SMap Nat := []
  mem : MemState := {}
  bpm : BpmState := {}
  fil : FilState := {}
  net : NetState := {}
  fns : SMap PcieFn := []
  wins : SMap UserWin := []
  halves : List Halves := []
  perst : List Nat := []
  hmk : HmkState := {}
  pwr : PwrState := {}
  mgt : MgtState := {}
  jtag : JtagState := {}
  ras : RasState := {}
  errGlobal : ErrQueue := {}
  errUnit : SMap ErrQueue := []
  errCnt : SMap Nat := []
  filFi : SMap Nat := []
  netFi : SMap Nat := []
  sel : Sel := {}
  serial : Nat := 0
  out : List Out := []
  pending : List Instr := []
  deriving DecidableEq, Repr

/-- The machine right after reset: PORST_N low, every register at its reset value. -/
def State.reset : State := {}

end Sys2Proof.Machine
end

