-- ==== Sys2Proof/Machine/Ops.lean ====
section
/-! DEFINITION. The named operations: finite maps, byte memories in canonical form, poison granules,
free values, the composition tree and its rights, error queues, interrupts and traces. -/

namespace Sys2Proof.Machine

section Maps
variable {α : Type}

/-- The value of a key, if listed. -/
def mfind : SMap α → Nat → Option α
  | [], _ => none
  | (a, v) :: t, k => if a = k then some v else mfind t k

/-- The value of a key, or a default. -/
def mget (m : SMap α) (k : Nat) (d : α) : α := (mfind m k).getD d

/-- Sets a key; keys stay in rising order. -/
def mput : SMap α → Nat → α → SMap α
  | [], k, v => [(k, v)]
  | (a, w) :: t, k, v =>
    if k < a then (k, v) :: (a, w) :: t
    else if k = a then (k, v) :: t
    else (a, w) :: mput t k v

/-- Removes a key. -/
def mdel (m : SMap α) (k : Nat) : SMap α := m.filter (fun p => p.1 ≠ k)

/-- Changes the value of a key, starting from a default. -/
def mupd (m : SMap α) (k : Nat) (d : α) (f : α → α) : SMap α := mput m k (f (mget m k d))

/-- Adds to a counter. -/
def mcount (m : SMap Nat) (k n : Nat) : SMap Nat := mupd m k 0 (fun x => (x + n) % 2 ^ 64)

end Maps

/-- Inserts into a rising list. -/
def sIns (x : Nat) : List Nat → List Nat
  | [] => [x]
  | a :: t => if x < a then x :: a :: t else if x = a then a :: t else a :: sIns x t

/-- Removes from a list. -/
def sDel (x : Nat) (l : List Nat) : List Nat := l.filter (fun y => y ≠ x)

/-- Element `i` of a list, 0 beyond its end. -/
def nth (l : List Nat) (i : Nat) : Nat := l.getD i 0

/-- The numbers from `a`, `n` of them. -/
def span (a n : Nat) : List Nat := (List.range n).map (a + ·)

/-! ## Byte memories -/

/-- What an unlisted byte reads as. -/
def Bytes.dflt (m : Bytes) (a : Nat) : Byte :=
  match m.undef.find? (fun r => decide (r.1 ≤ a) && decide (a < r.1 + r.2.1)) with
  | none => 0
  | some r => if r.2.2 = 0 then 0 else Config.freeByte r.2.2 a

/-- A listed cell. -/
def cellGet : List Host.Cell → Nat → Option Byte
  | [], _ => none
  | (a, v) :: t, k => if a = k then some v else cellGet t k

/-- Lists a cell. -/
def cellPut : List Host.Cell → Nat → Byte → List Host.Cell
  | [], k, v => [(k, v)]
  | (a, w) :: t, k, v =>
    if k < a then (k, v) :: (a, w) :: t
    else if k = a then (k, v) :: t
    else (a, w) :: cellPut t k v

/-- Removes a cell. -/
def cellDel (l : List Host.Cell) (k : Nat) : List Host.Cell := l.filter (fun c => c.1 ≠ k)

/-- Reads one byte. -/
def Bytes.read (m : Bytes) (a : Nat) : Byte := (cellGet m.cells a).getD (m.dflt a)

/-- Writes one byte; a byte equal to what an unlisted one reads as is not listed. -/
def Bytes.write (m : Bytes) (a : Nat) (v : Byte) : Bytes :=
  if v = m.dflt a then { m with cells := cellDel m.cells a }
  else { m with cells := cellPut m.cells a v }

/-- Reads `n` bytes. -/
def Bytes.readN (m : Bytes) (a n : Nat) : List Byte := (span a n).map m.read

/-- Reads an `n`-byte little-endian number (R16). -/
def Bytes.readNat (m : Bytes) (a n : Nat) : Nat := leNat (m.readN a n)

/-- Writes bytes from an address up. -/
def Bytes.writeL (m : Bytes) (a : Nat) : List Byte → Bytes
  | [] => m
  | v :: t => (m.write a v).writeL (a + 1) t

/-- Makes `n` bytes from `a` undefined, as epoch `e`. -/
def Bytes.undefine (m : Bytes) (a n e : Nat) : Bytes :=
  { cells := m.cells.filter (fun c => !(decide (a ≤ c.1) && decide (c.1 < a + n))), undef := (a, n, e + 1) :: m.undef }

/-- Fills `n` bytes from `a` with zero. -/
def Bytes.zeroFill (m : Bytes) (a n : Nat) : Bytes :=
  { cells := m.cells.filter (fun c => !(decide (a ≤ c.1) && decide (c.1 < a + n))), undef := (a, n, 0) :: m.undef }

/-- Strictly rising keys. -/
def cellsRise : List Host.Cell → Bool
  | [] => true
  | [_] => true
  | (a, _) :: (b, v) :: t => decide (a < b) && cellsRise ((b, v) :: t)

/-- The canonical form of a memory: addresses strictly rising, no entry equal to what an unlisted
address reads as. -/
def Bytes.wf (m : Bytes) : Bool := cellsRise m.cells && m.cells.all (fun c => c.2 ≠ m.dflt c.1)

/-! ## Poison granules (R417, R420) -/

/-- The granules of size `g` that meet `n` bytes from `a`. -/
def granules (g a n : Nat) : List Nat := if n = 0 then [] else span (a / g) ((a + n - 1) / g + 1 - a / g)

/-- A write clears the poison of the granules it wholly covers. -/
def granClear (g : Nat) (p : List Nat) (a n : Nat) : List Nat :=
  p.filter (fun x => !(decide (ceilDiv a g ≤ x) && decide (x < (a + n) / g)))

/-- Marks the granules that `n` bytes from `a` meet. -/
def granMark (g : Nat) (p : List Nat) (a n : Nat) : List Nat := (granules g a n).foldl (fun p x => sIns x p) p

/-- Does any granule that `n` bytes from `a` meet carry poison? -/
def granHas (g : Nat) (p : List Nat) (a n : Nat) : Bool :=
  p.any (fun x => decide (n ≠ 0) && decide (a / g ≤ x) && decide (x ≤ (a + n - 1) / g))

/-! ## Free values -/

/-- Draws a free value. -/
def State.fresh (s : State) : Nat × State := (Config.free s.freeCtr, { s with freeCtr := s.freeCtr + 1 })

/-! ## Package memory -/

/-- Bytes of one stack's window (Table 2-7). -/
def stackWindow : Nat := 0xC00000000

/-- Populated bytes of a stack. -/
def stackBytes : Nat := Config.grade.stackGiB * 2 ^ 30

/-- Base of the vault windows (Table 2-7). -/
def vaultBase : Nat := 0x10000000000

/-- The stack of an HBM address. -/
def stackOf (a : Nat) : Option Nat := if a < 16 * stackWindow then some (a / stackWindow) else none

/-- The home die of an address: of its stack, or of its vault partition. -/
def homeDie (a : Nat) : Nat :=
  match stackOf a with
  | some k => k / 2
  | none => (a - vaultBase) / 2 ^ 32 % 8

/-- The pseudo-channel of a stack offset (R414). -/
def pcOf (o : Nat) : Nat :=
  let g := o / 4096
  (bits g 5 0) ^^^ (bits g 11 6) ^^^ (bits g 17 12)

/-- LEN of the explicit vault partition of a die (R110, R426). -/
def Setting.vaultLen (t : Setting) (d : Nat) : Nat :=
  ((t.pools.find? (fun p => p.kind == 2 && p.die == d)).map (·.len)).getD 0

/-- Is an address populated (R90, R91)? -/
def populated (t : Setting) (a : Nat) : Bool :=
  match stackOf a with
  | some k => decide (a - k * stackWindow < stackBytes)
  | none =>
    decide (vaultBase ≤ a) && decide (a < vaultBase + 8 * 2 ^ 32) &&
      decide ((a - vaultBase) % 2 ^ 32 < t.vaultLen (homeDie a))

/-- Does an address lie on a retired pseudo-channel (R424)? -/
def MemState.retiredAt (m : MemState) (a : Nat) : Bool :=
  match stackOf a with
  | some k => bit (mget m.retired k 0) (pcOf (a % stackWindow))
  | none => false

/-- Do `n` bytes from `a` read as poison: a poisoned line, or a retired pseudo-channel (R417, R424)? -/
def MemState.poisoned (m : MemState) (a n : Nat) : Bool :=
  granHas 64 m.poison a n || (granules 4096 a n).any (fun g => m.retiredAt (g * 4096))

/-- Writes the bytes that do not lie on a retired pseudo-channel. -/
def MemState.putBytes (m : MemState) (a : Nat) : List Byte → MemState
  | [] => m
  | v :: t =>
    (if m.retiredAt a then { m with dropped := (m.dropped + 1) % 2 ^ 64 }
     else { m with ram := m.ram.write a v }).putBytes (a + 1) t

/-- A write to package memory (R420, R424): a full line clears its poison, a partial line keeps it. -/
def MemState.write (m : MemState) (a : Nat) (bs : List Byte) : MemState :=
  let m := m.putBytes a bs
  { m with poison := granClear 64 m.poison a bs.length }

/-- Writes the poison code to every line that `n` bytes from `a` meet (R416, R554). -/
def MemState.mark (m : MemState) (a n : Nat) : MemState := { m with poison := granMark 64 m.poison a n }

/-- Writes `n` bytes of the package's memory. -/
def State.memWrite (s : State) (a : Nat) (bs : List Byte) : State := { s with mem := s.mem.write a bs }

/-- Writes the dirty host-core copies of the lines that `n` bytes from `a` meet to the home vault, and drops every copy
of them: what an access through the directory does to them (R429, R479, R481). -/
def MemState.flush (m : MemState) (a n : Nat) : MemState :=
  let hit := m.core.filter (fun p => (granules 64 a n).contains p.1)
  let m := hit.foldl (fun m p =>
    if p.2.dirty then
      let m := m.write (p.1 * 64) p.2.bytes
      if p.2.poison then m.mark (p.1 * 64) 64 else m
    else m) m
  { m with core := m.core.filter (fun p => !(granules 64 a n).contains p.1) }

/-- Drops or writes back the host cores' copies of a range. -/
def State.memFlush (s : State) (a n : Nat) : State := { s with mem := s.mem.flush a n }

/-- A write that passes the directory. -/
def State.memWriteC (s : State) (a : Nat) (bs : List Byte) : State := (s.memFlush a bs.length).memWrite a bs

/-- Marks package memory poisoned. -/
def State.memMark (s : State) (a n : Nat) : State := { s with mem := s.mem.mark a n }

/-- Reads an `n`-byte number of package memory. -/
def State.memNat (s : State) (a n : Nat) : Nat := s.mem.ram.readNat a n

/-- Makes a range of package memory undefined. -/
def State.memUndef (s : State) (a n : Nat) : State :=
  { s with freeCtr := s.freeCtr + 1, mem := { s.mem with ram := s.mem.ram.undefine a n s.freeCtr } }

/-! ## Beads -/

/-- A bead. -/
def State.bead (s : State) (b : Nat) : Bead := mget s.beads b {}

/-- Sets a bead. -/
def State.setBead (s : State) (b : Nat) (x : Bead) : State := { s with beads := mput s.beads b x }

/-- Changes a bead. -/
def State.updBead (s : State) (b : Nat) (f : Bead → Bead) : State := s.setBead b (f (s.bead b))

/-- A write to a scratchpad (R420). -/
def Bead.spWrite (x : Bead) (a : Nat) (bs : List Byte) : Bead :=
  { x with sp := x.sp.writeL a bs, spPoison := granClear 32 x.spPoison a bs.length }

/-- Marks scratchpad granules poisoned. -/
def Bead.spMark (x : Bead) (a n : Nat) : Bead := { x with spPoison := granMark 32 x.spPoison a n }

/-- Do `n` scratchpad bytes from `a` carry poison? -/
def Bead.spBad (x : Bead) (a n : Nat) : Bool := granHas 32 x.spPoison a n

/-- The raw element of a slot that nothing wrote: 0, or free where the slots are undefined (R230). -/
def Bead.accDflt (x : Bead) (i : Nat) : AccElem :=
  match x.accUndef.find? (fun r => decide (r.1 ≤ i / 4096) && decide (i / 4096 < r.1 + r.2.1)) with
  | none => {}
  | some r => { bits := Config.free (r.2.2 + 2 ^ 64 * (i + 1)) % 2 ^ 40 }

/-- Element (slot, r, c) of the accumulator memory (R227). -/
def Bead.accGet (x : Bead) (slot r c : Nat) : AccElem :=
  let i := slot * 4096 + r * 64 + c
  mget x.acc i (x.accDflt i)

/-- Sets an element of the accumulator memory. -/
def Bead.accPut (x : Bead) (slot r c : Nat) (e : AccElem) : Bead :=
  { x with acc := mput x.acc (slot * 4096 + r * 64 + c) e }

/-- Makes slots undefined, as epoch `e`. -/
def Bead.accUndefine (x : Bead) (slot n e : Nat) : Bead :=
  { x with
    acc := x.acc.filter (fun p => !(decide (slot ≤ p.1 / 4096) && decide (p.1 / 4096 < slot + n)))
    accUndef := (slot, n, e) :: x.accUndef }

/-- Makes a scratchpad range undefined, as epoch `e`. -/
def Bead.spUndefine (x : Bead) (a n e : Nat) : Bead :=
  { x with sp := x.sp.undefine a n e, spPoison := granClear 32 x.spPoison a n }

/-- Makes a bead's scratchpad, descriptor table and slots undefined (R42, R145, R612, R621). -/
def State.undefBead (s : State) (b : Nat) : State :=
  let e := s.freeCtr
  { s with freeCtr := e + 1 }.updBead b (fun x =>
    { x with sp := { cells := [], undef := [(0, 0x600000, e + 1)] }, spPoison := [], acc := [], accUndef := [(0, 64, e)] })

/-- The bead in a position (R66). -/
def State.beadAt (s : State) (pos : Nat) : Option Nat :=
  (s.beads.find? (fun p => p.2.pos == some pos)).map (·.1)

/-! ## The composition (R20, R105 to R120, R356) -/

/-- The UNIT record of a UID. -/
def Setting.unit? (t : Setting) (u : Nat) : Option UnitRec := t.units.find? (·.uid == u)

/-- The units from `u` up to its top-level unit, with fuel for the 8 levels of R20. -/
def Setting.pathF (t : Setting) : Nat → Nat → List Nat
  | 0, _ => []
  | n + 1, u =>
    match t.unit? u with
    | none => []
    | some r => u :: (if 0x1000 ≤ r.parent then [] else t.pathF n r.parent)

/-- The units from `u` up to its top-level unit. -/
def Setting.path (t : Setting) (u : Nat) : List Nat := t.pathF 8 u

/-- The top-level unit of `u`; 0xFFFF when `u` has no UNIT record. -/
def Setting.top (t : Setting) (u : Nat) : Nat := (t.path u).getLast?.getD 0xFFFF

/-- Is `u` a top-level unit? -/
def Setting.isTop (t : Setting) (u : Nat) : Bool :=
  match t.unit? u with
  | some r => decide (0x1000 ≤ r.parent)
  | none => false

/-- The top-level units in ascending UID order. -/
def Setting.tops (t : Setting) : List Nat :=
  (t.units.filter (fun r => decide (0x1000 ≤ r.parent))).map (·.uid) |>.foldl (fun l u => sIns u l) []

/-- The leaves of a unit in rank order: depth first, members as written (R356). -/
def Setting.leavesF (t : Setting) : Nat → Nat → List Nat
  | 0, _ => []
  | n + 1, u =>
    if u < 0xA0 then [u]
    else match t.unit? u with
      | none => []
      | some r => r.members.flatMap (t.leavesF n)

/-- The leaves of a unit in rank order. -/
def Setting.leaves (t : Setting) (u : Nat) : List Nat := t.leavesF 9 u

/-- Is `u` exposed as a unit by an ACCESS record of KIND 1 (R115)? -/
def Setting.exposed (t : Setting) (u : Nat) : Bool := t.accesses.any (fun a => a.kind == 1 && a.grantee == u)

/-- Does `u` run slices: top-level, or an exposed member (R379)? -/
def Setting.runs (t : Setting) (u : Nat) : Bool := t.isTop u || (t.exposed u && (t.unit? u).isSome)

/-- The FED record whose local part is top-level unit `u`. -/
def Setting.fedOf (t : Setting) (u : Nat) : Option FedRec := t.feds.find? (·.localUid == u)

/-- Is the unit S1-compatible (R62)? -/
def Setting.s1 (t : Setting) (u : Nat) : Bool := ((t.unit? u).map (·.s1)).getD false

/-- The region table of a leaf position (R109). -/
def Setting.table (t : Setting) (pos : Nat) : List RegionRec :=
  let p := t.path pos
  t.regions.filter (fun r => p.contains r.owner)

/-- The region of a table that holds a unit address (R432). -/
def regionAt (tb : List RegionRec) (ua : Nat) : Option RegionRec :=
  tb.find? (fun r => decide (r.ua ≤ ua) && decide (ua < r.ua + r.len))

/-- The CLASP record that holds a clasp. -/
def Setting.clasp? (t : Setting) (id : Nat) : Option ClaspRec :=
  t.clasps.find? (fun c => decide (c.base ≤ id) && decide (id < c.base + c.count))

/-- The units whose clasps a position may use: its path, and the federated unit above it (R113). -/
def Setting.claspPath (t : Setting) (u : Nat) : List Nat :=
  t.path u ++ ((t.fedOf (t.top u)).map (·.fedUid)).toList

/-- Does the unit (or leaf) `u` hold a right on a clasp: bit 0 SIGNAL, 1 WAIT, 2 ARRIVE, 3 RESET, by its
own ranges or by a grant (R53, R113, R115)? -/
def Setting.right (t : Setting) (u id bitNo : Nat) : Bool :=
  match t.clasp? id with
  | none => false
  | some c =>
    let p := t.claspPath u
    p.contains c.owner ||
      t.accesses.any (fun a => a.kind == 0 && p.contains a.grantee && bit a.rights bitNo &&
        decide (a.base ≤ id) && decide (id < a.base + a.count))

/-- Is a clasp some unit's start clasp (R380)? -/
def Setting.isStart (t : Setting) (id : Nat) : Bool := t.units.any (fun r => r.startClasp == id && id != 0xFFFF)

/-- The service of a user window (R117). -/
def Setting.svcOfWin (t : Setting) (w : Nat) : Option ServiceRec := t.services.find? (·.window == w)

/-- The unit of this package that a service binds: a FED_UID names its local part (R117). -/
def Setting.svcUnit (t : Setting) (v : ServiceRec) : Nat :=
  if 0x1000 ≤ v.uid then ((t.feds.find? (·.fedUid == v.uid)).map (·.localUid)).getD 0xFFFF else v.uid

/-- The unit bound to a user window. -/
def Setting.winUnit (t : Setting) (w : Nat) : Option Nat := (t.svcOfWin w).map t.svcUnit

/-! ## Functions, windows and interrupts -/

/-- A PCIe function: hub × 33 + 0 for the PF, 1 to 32 for a VF. -/
def State.fn (s : State) (f : Nat) : PcieFn := mget s.fns f {}

/-- Changes a function. -/
def State.updFn (s : State) (f : Nat) (g : PcieFn → PcieFn) : State := { s with fns := mupd s.fns f {} g }

/-- A user window. -/
def State.win (s : State) (w : Nat) : UserWin := mget s.wins w {}

/-- Changes a user window. -/
def State.updWin (s : State) (w : Nat) (g : UserWin → UserWin) : State := { s with wins := mupd s.wins w {} g }

/-- The function that DEV_UWIN_FUNC names (Table 20-3). -/
def funcOf (x : Nat) : Option Nat :=
  match bits x 1 0 with
  | 1 => some 0
  | 2 => some 33
  | 3 => some (bits x 2 2 * 33 + bits x 8 3)
  | _ => none

/-- The function of a user window. -/
def State.winFn (s : State) (w : Nat) : Option Nat := funcOf (s.win w).func

/-- Vectors of a function's MSI-X table (R561). -/
def msixTable (f : Nat) : Nat := if f % 33 = 0 then 2048 else 256

/-- Appends to what the device has sent. -/
def State.emit (s : State) (o : Out) : State := { s with out := s.out ++ [o] }

/-- May a function send the message now (R549, R561)? -/
def State.msixOpen (s : State) (f vec : Nat) : Bool :=
  let x := s.fn f
  x.busMaster && x.msixEnable && !x.msixMask && x.unmasked.contains vec && !s.perst.contains (f / 33)

/-- Raises an MSI-X vector: sent, or left pending while masked or while the function may not write
(R549, R561). -/
def State.msix (s : State) (f vec : Nat) : State :=
  if s.msixOpen f vec then s.emit (.msix f vec)
  else s.updFn f (fun x => { x with pendingVecs := sIns vec x.pendingVecs })

/-- Sends the pending vectors that have become free to leave (R549, R561). -/
def State.flushMsix (s : State) (f : Nat) : State :=
  (s.fn f).pendingVecs.foldl (fun s v =>
    if s.msixOpen f v then
      (s.updFn f (fun x => { x with pendingVecs := sDel v x.pendingVecs })).emit (.msix f v)
    else s) s

/-! ## Error records and queues (R617 to R619) -/

/-- A local agent of a die in the form of Table 14-2. -/
def agent (die loc : Nat) : Nat := die * 4096 + loc

/-- A bead's agent ID (Table 14-5). -/
def beadAgent (b : Nat) : Nat := agent (b / 20) (b % 20)

/-- The frame scheduler, the management controller and the session engine half of H0. -/
def schedAgent : Nat := agent 8 0x70
def sesAgent : Nat := agent 8 0x50
/-- The PCIe endpoint of a hub, the clasp unit and the vault of a die. -/
def pcieAgent (hub : Nat) : Nat := agent (8 + hub) 0x51
def claspAgent (die : Nat) : Nat := agent die 0x42
def vaultAgent (die : Nat) : Nat := agent die 0x40
def poolAgent (die : Nat) : Nat := agent die 0x43
def mtAgent (die : Nat) : Nat := agent die 0x41

/-- Capacity of the global queue and of a unit queue (R618). -/
def globalCap : Nat := 32768
def unitCap : Nat := 1024

/-- Distance of two counters that count modulo 2^32. -/
def ahead (a b : Nat) : Nat := if b ≤ a then a - b else a + 2 ^ 32 - b

/-- Records held by a queue, modulo 2^32 (R640). -/
def ErrQueue.held (q : ErrQueue) : Nat := ahead q.tail q.head

/-- Writes a record into a queue, or drops and counts it when the queue is full (R619). -/
def ErrQueue.push (cap : Nat) (q : ErrQueue) (r : ErrRec) : ErrQueue :=
  if cap ≤ q.held then { q with lost := (q.lost + 1) % 2 ^ 32, lostFlag := true }
  else
    { q with
      recs := mput q.recs (q.tail % cap) { r with lost := q.lostFlag, seq := q.seq }
      tail := (q.tail + 1) % 2 ^ 32
      seq := (q.seq + 1) % 2 ^ 32
      lostFlag := false }

/-- The function whose interrupt a unit queue raises: of the lowest window of the unit's services. -/
def State.queueFn (s : State) (u : Nat) : Option Nat :=
  let ws := (s.set.cur.services.filter (fun v => s.set.cur.top (s.set.cur.svcUnit v) == u && decide (v.window < 256))).map (·.window)
  (ws.foldl (fun l w => sIns w l) []).head?.bind s.winFn

/-- Puts a record into the global queue and raises its vector as the queue leaves the empty state. -/
def State.logGlobal (s : State) (r : ErrRec) : State :=
  let q := s.errGlobal
  let q' := q.push globalCap r
  let s := { s with errGlobal := q' }
  if q.held = 0 ∧ q'.held = 1 ∧ q.vecMask = false then s.msix (if q.vecFunc = 1 then 33 else 0) q.vec else s

/-- Puts a record into the queue of the top-level unit of `u`. -/
def State.logUnit (s : State) (u : Nat) (r : ErrRec) : State :=
  let tp := s.set.cur.top u
  if tp = 0xFFFF then s
  else
    let q := mget s.errUnit tp {}
    let q' := q.push unitCap r
    let s := { s with errUnit := mput s.errUnit tp q' }
    if q.held = 0 ∧ q'.held = 1 ∧ q.vecMask = false then
      match s.queueFn tp with
      | some f => s.msix f q.vec
      | none => s
    else s

/-- An error record of this moment (Table 19-4). -/
def State.mkRec (s : State) (status reason src uid arg : Nat) (covered : Bool) : ErrRec :=
  { status, reason, covered, source := src, uid, frame := s.frm.count
    tNs := (s.now - s.frm.tickAt) / 1000 % 2 ^ 32, arg }

/-- Raises a status in the unit's queue. -/
def State.raiseU (s : State) (u status : Nat) (arg : Nat := 0) (reason : Nat := 0) (src : Nat := schedAgent)
    (covered : Bool := false) : State :=
  s.logUnit u (s.mkRec status reason src u arg covered)

/-- Raises a status in the global queue. -/
def State.raiseG (s : State) (status : Nat) (arg : Nat := 0) (src : Nat := schedAgent) (uid : Nat := 0xFFFF)
    (covered : Bool := false) : State :=
  s.logGlobal (s.mkRec status 0 src uid arg covered)

/-- Raises a status in the unit's queue and in the global queue. -/
def State.raiseUG (s : State) (u status : Nat) (arg : Nat := 0) (src : Nat := schedAgent)
    (covered : Bool := false) : State :=
  (s.raiseU u status arg 0 src covered).raiseG status arg src u covered

/-- Counters of ERR_CNT (Table 20-15), by index. -/
def cntRegacc : Nat := 0
def cntPriv : Nat := 1
def cntUnbound : Nat := 2
def cntWinc : Nat := 3
def cntScratch : Nat := 4
def cntBadOp : Nat := 5
def cntNotGranted : Nat := 6
def cntComplRec : Nat := 7
def cntDoorbell : Nat := 8
def cntAbiUnset : Nat := 9
def cntReplyDropped : Nat := 10

/-- Counts an event of ERR_CNT. -/
def State.count (s : State) (i : Nat) : State := { s with errCnt := mcount s.errCnt i 1 }

/-- An access ignored with ERR_REGACC: counted and logged (Table 17-9). -/
def State.regacc (s : State) (hub : Nat := 0) : State :=
  (s.count cntRegacc).raiseG St.errRegacc 0 (pcieAgent hub)

/-! ## Canonical form -/

/-- Every memory of the machine is in canonical form: the package memory, the scratchpads and the flash. -/
def State.canonical (s : State) : Bool :=
  s.mem.ram.wf && s.beads.all (fun p => p.2.sp.wf) && (s.hmk.flash.wf && s.hmk.backup.wf && s.hmk.params.wf)

/-! ## A device that does not run -/

/-- No clock runs: PORST_N is low, or THERMTRIP_N has stopped every clock (R594, R662). -/
def State.clocksOff (s : State) : Bool := s.hmk.stage == 0 || s.pwr.thermtrip

/-- The device does not run: its clocks are off, or it has halted with FATAL (R83). -/
def State.halted (s : State) : Bool := s.clocksOff || s.dev.fatal

/-- A command of the management controllers, the registers or the pins: nothing while no clock runs. -/
def State.unlessOff (s : State) (o : Host.Outcome State Fault Refusal) : Host.Outcome State Fault Refusal :=
  if s.clocksOff then .next s else o

/-- Any other command: nothing while the device does not run (R83). -/
def State.unlessDown (s : State) (o : Host.Outcome State Fault Refusal) : Host.Outcome State Fault Refusal :=
  if s.halted then .next s else o

/-! ## Time and trace -/

/-- Time moves on to a moment. -/
def State.at (s : State) (t : Nat) : State := { s with now := max s.now t }

/-- Records an entry in a trace buffer (R627): RING and FREEZE drop the oldest, STOP stops when full. -/
def TraceBuf.add (cap : Nat) (b : TraceBuf) (e : Nat) : TraceBuf :=
  if b.mode = 0 ∨ b.frozen then b
  else if b.entries.length < cap then
    let es := b.entries ++ [e]
    { b with entries := es, full := decide (es.length = cap) }
  else if b.mode = 2 then b
  else { b with entries := b.entries.drop 1 ++ [e] }

/-- Adds an entry to trace buffer `i`. -/
def State.traceAdd (s : State) (i e : Nat) : State :=
  match mfind s.ras.traces i with
  | none => s
  | some tb => { s with ras := { s.ras with traces := mput s.ras.traces i (tb.add (if i < 160 then 4096 else 16384) e) } }

/-- Freezes a trace buffer in FREEZE mode (R627). -/
def State.traceFreeze (s : State) (i : Nat) : State :=
  match mfind s.ras.traces i with
  | none => s
  | some tb =>
    if tb.mode = 3 then { s with ras := { s.ras with traces := mput s.ras.traces i { tb with frozen := true } } } else s

/-- A fault freezes the command trace of its bead and the fabric trace of its die. -/
def State.traceFault (s : State) (b : Nat) : State := (s.traceFreeze b).traceFreeze (160 + b / 20)

/-- The bead clock in force, MHz: the lowest of the requested clock and the throttles (R653). -/
def PwrState.clk (p : PwrState) : Nat :=
  let c := if p.curState = 1 then 1000 else p.curClk
  min c (min (p.capClk.getD c) (p.thermClk.getD c))

/-- A command trace entry (R627): event 0 decode, 1 issue, 2 complete, 3 fault, 4 wait begin, 5 wait end. -/
def State.traceCmd (s : State) (b idx opcode event status : Nat) : State :=
  match mfind s.ras.traces b with
  | none => s
  | some _ =>
    let cyc := (s.now - (s.bead b).startedAt) * s.pwr.clk / 1000000
    s.traceAdd b (cyc % 2 ^ 32 + (idx % 2 ^ 24) * 2 ^ 32 + (opcode % 256) * 2 ^ 56 + event * 2 ^ 64 + (status % 2 ^ 16) * 2 ^ 68)

/-- A frame trace entry (R627); its layout is not given: kind, UID and FRM_COUNT. -/
def State.traceFrame (s : State) (kind uid : Nat) : State :=
  s.traceAdd 170 (kind + uid * 2 ^ 8 + s.frm.count % 2 ^ 64 * 2 ^ 32)

end Sys2Proof.Machine
end

