-- ==== Sys2Proof/Machine/Operands.lean ====
section
/-! DEFINITION. The operands of bead commands: bit fields of a command word, its clasp word, tensor
descriptors (Table 8-3), their layout in memory (R267 to R270, R274) and the hulls they produce (R255). -/

namespace Sys2Proof.Machine

/-- A field of a command word (R391). -/
def fld (w : CmdWord) (hi lo : Nat) : Nat := bits w.toNat hi lo

/-- One bit of a command word. -/
def flag (w : CmdWord) (i : Nat) : Bool := bit w.toNat i

/-! ## The clasp word (Table 12-4) -/

def waitId (w : CmdWord) : Nat := fld w 207 192
def sigId (w : CmdWord) : Nat := fld w 223 208
def waitTgt (w : CmdWord) : Nat := fld w 239 224
def sigN (w : CmdWord) : Nat := fld w 247 240
def waitEn (w : CmdWord) : Bool := flag w 248
def sigEn (w : CmdWord) : Bool := flag w 249

/-! ## Descriptors -/

/-- A decoded tensor descriptor (Table 8-3). Entries at or above RANK hold extent 1 and stride 0. -/
structure Desc where
  entry : Nat
  base : Nat
  fmtCode : Nat
  rank : Nat
  sparsity : Nat
  flags : Nat
  gMode : Nat
  gDim : Nat
  idxDesc : Nat
  ext : List Nat
  stride : List Nat
  pad : Nat
  zero : Nat
  mx : Nat
  mask : Nat
  shadow : Nat
  size : Nat
  tau : Nat
  deriving DecidableEq, Repr

/-- Scratchpad offset of descriptor table entry `d` (R275). -/
def entryAt (d : Nat) : Nat := 0x5F8000 + d * 128

/-- Reads a descriptor from the 128 bytes of an entry. RANK 0 or above 6 is walked as 6 (R280). -/
def descOf (d raw : Nat) : Desc :=
  let f := fun off n => bits raw (8 * (off + n) - 1) (8 * off)
  let rank := f 0x09 1
  let r := if rank = 0 ∨ 6 < rank then 6 else rank
  { entry := d
    base := f 0x00 8
    fmtCode := f 0x08 1
    rank
    sparsity := f 0x0A 1 % 4
    flags := f 0x0B 1
    gMode := f 0x0C 1 % 4
    gDim := f 0x0C 1 / 4 % 8
    idxDesc := f 0x0D 1
    ext := (List.range 6).map (fun i => if i < r then f (0x10 + 4 * i) 4 else 1)
    stride := 0 :: (List.range 5).map (fun i => if i + 1 < r then f (0x28 + 8 * i) 6 else 0)
    pad := f 0x50 4
    zero := f 0x54 4
    mx := f 0x58 8
    mask := f 0x60 8
    shadow := f 0x68 8
    size := f 0x70 6
    tau := f 0x78 4 }

/-- Descriptor table entry `d` of a bead. -/
def Bead.desc (x : Bead) (d : Nat) : Desc := descOf d (x.sp.readNat (entryAt d) 128)

/-- A copy of descriptor entries. -/
def Bead.entries (x : Bead) (ds : List Nat) : Bytes := ds.foldl (fun m d => m.writeL (entryAt d) (x.sp.readN (entryAt d) 128)) {}

namespace Desc

/-- BASE_KIND (Table 8-5); 3 is translated as 0. -/
def kind (d : Desc) : Nat := if d.flags % 4 = 3 then 0 else d.flags % 4
def transpose (d : Desc) : Bool := bit d.flags 2
def compress (d : Desc) : Bool := bit d.flags 3
def lt2Shadow (d : Desc) : Bool := bit d.flags 4
def reservedMode (d : Desc) : Bool := bit d.flags 5

/-- The element format; a reserved code is walked as an 8-bit one (R280). -/
def fmt (d : Desc) : ElemFmt := (ElemFmt.ofCode d.fmtCode).getD .int8

/-- Is the descriptor itself legal: FORMAT, RANK, BASE_KIND (Table 8-6)? -/
def legal (d : Desc) : Bool :=
  (ElemFmt.ofCode d.fmtCode).isSome && decide (1 ≤ d.rank) && decide (d.rank ≤ 6) && d.flags % 4 != 3

def e (d : Desc) (i : Nat) : Nat := nth d.ext i

/-- The same descriptor read as a scratchpad operand without TRANSPOSE or GATHER (R278). -/
def compute (d : Desc) : Desc :=
  { d with flags := (d.flags / 8) * 8 + 2, gMode := 0, base := d.base % 2 ^ 23, mx := d.mx % 2 ^ 23,
           mask := d.mask % 2 ^ 23, shadow := d.shadow % 2 ^ 23 }

/-- Has the tensor no element (R279)? -/
def empty (d : Desc) : Bool := d.ext.any (· == 0)

/-- Channel groups of a run. -/
def nG (d : Desc) : Nat := ceilDiv (d.e 0) 64

/-- Bytes of a run of a DENSE tensor with its padding (R267, R268). -/
def runBytes (d : Desc) : Nat := roundUp (d.nG * d.fmt.group) 32

/-- Bytes of the 2:4 value area, of the code area, and of a run (R298). -/
def valArea (d : Desc) : Nat := roundUp (d.nG * (d.fmt.group / 2)) 32
def codeArea (d : Desc) : Nat := roundUp (d.nG * 8) 32

/-- The linear run index of the positions in dimensions 1 to 5 (R274). -/
def lin (d : Desc) (xs : List Nat) : Nat :=
  nth xs 0 + d.e 1 * (nth xs 1 + d.e 2 * (nth xs 2 + d.e 3 * (nth xs 3 + d.e 4 * nth xs 4)))

/-- Runs of the tensor. -/
def runs (d : Desc) : Nat := d.e 1 * d.e 2 * d.e 3 * d.e 4 * d.e 5

/-- Scale bytes per run (R274). -/
def scaleRow (d : Desc) : Nat := roundUp (d.nG * 2) 32

/-- Is a position of dimensions 1 to 5 within the extents? -/
def inside (d : Desc) (xs : List Nat) : Bool :=
  (List.range 5).all (fun i => decide (nth xs i < d.e (i + 1)))

/-- Offset of a run from BASE (R267), before bits [4:0] are cleared. -/
def runOff (d : Desc) (xs : List Nat) : Nat :=
  ((List.range 5).map (fun i => nth xs i * nth d.stride (i + 1))).foldl (· + ·) 0

/-- Blocks of a BLOCK tensor, segments, directory bytes (R300, R301). -/
def blocks (d : Desc) : Nat := d.nG * d.runs
def segs (d : Desc) : Nat := ceilDiv d.blocks 64
def dirBytes (d : Desc) : Nat := roundUp (16 * (d.segs + 1)) 32

/-- Bytes of a stored block (R302, R305). -/
def blockBytes (d : Desc) : Nat := if d.sparsity = 3 then d.fmt.group / 2 + 8 else d.fmt.group

/-- Worst-case value bytes (R304). -/
def worstVal (d : Desc) : Nat :=
  let last := d.blocks - (d.segs - 1) * 64
  if d.segs = 0 then 0 else (d.segs - 1) * 64 * d.fmt.group + roundUp (last * d.fmt.group) 32

/-- Worst-case shadow bytes (R316). -/
def worstShadow (d : Desc) : Nat :=
  let last := d.blocks - (d.segs - 1) * 64
  if d.segs = 0 then 0 else (d.segs - 1) * 1024 + roundUp (last * 16) 32

/-- Reads through a compressed shadow (R308)? -/
def viaShadow (d : Desc) : Bool := d.fmtCode == 1 && d.sparsity == 1 && d.lt2Shadow

end Desc

/-- Positions of the given extents in element order, the first dimension fastest (R272). -/
def positions : List Nat → List (List Nat)
  | [] => [[]]
  | n :: t => (positions t).flatMap (fun r => (List.range n).map (fun i => i :: r))

/-- Clears bits [4:0] (R270). -/
def clr32 (a : Nat) : Nat := a / 32 * 32

/-! ## Elements in bytes (R269) -/

/-- Element `i` of `w` bits in a little-endian byte list. -/
def elemOf (w : Nat) (bs : List Byte) (i : Nat) : Nat :=
  if 8 ≤ w then leNat ((bs.drop (i * w / 8)).take (w / 8))
  else ((bs.getD (i * w / 8) 0).toNat >>> (i * w % 8)) % 2 ^ w

/-- Packs elements of fewer than 8 bits into bytes, `q` to a byte. -/
def packSmall (w q : Nat) : Nat → List Nat → List Byte
  | 0, _ => []
  | n + 1, es =>
    BitVec.ofNat 8 ((es.take q).foldr (fun e a => e % 2 ^ w + 2 ^ w * a) 0) :: packSmall w q n (es.drop q)

/-- Packs elements of `w` bits (R269). -/
def packElems (w : Nat) (es : List Nat) : List Byte :=
  if 8 ≤ w then es.flatMap (leBytes (w / 8)) else packSmall w (8 / w) (ceilDiv es.length (8 / w)) es

/-! ## Ranges and checks -/

/-- A failed check or access: status, reason of Table 7-4, and the ARG of its record. -/
structure Flt where
  status : Nat
  reason : Nat
  arg : Nat := 0
  deriving DecidableEq, Repr

/-- A byte range that a command touches: BASE_KIND, start, length, and whether it is written. -/
structure Rng where
  kind : Nat
  lo : Nat
  len : Nat
  wr : Bool
  deriving DecidableEq, Repr

/-- The address in a descriptor field of a BASE_KIND. -/
def fieldAddr (kind x : Nat) : Nat :=
  if kind = 2 then x % 2 ^ 23 else if kind = 1 then x % 2 ^ 40 else x % 2 ^ 48

/-- The offset that a handle field adds (R319), in bytes. -/
def fieldOff (kind x : Nat) : Nat := if kind = 1 then x / 2 ^ 40 % 2 ^ 24 * 32 else 0

/-- Where byte `off` of a field lies among 64-byte lines: by its unit address, or by its offset into the object of a handle, whose
pages begin on lines. -/
def linePos (kind x off : Nat) : Nat := (if kind = 1 then fieldOff 1 x else fieldAddr kind x) + off

/-- The data hull of a DENSE or 2:4 descriptor over the positions below `ext` (R255); `last` is the
bytes reached of the last run. -/
def denseHull (d : Desc) (ext : List Nat) (last : Nat) (wr : Bool) : List Rng :=
  if ext.any (· == 0) ∨ last = 0 ∨ d.kind = 1 then []
  else
    let b := fieldAddr d.kind d.base
    let top := b + ((List.range 5).map (fun i => (nth ext (i + 1) - 1) * nth d.stride (i + 1))).foldl (· + ·) 0
    [⟨d.kind, clr32 b, clr32 top + last - clr32 b, wr⟩]

/-- A range named by an address field, unless it is a handle. -/
def fieldRng (d : Desc) (x len : Nat) (wr : Bool) : List Rng :=
  if d.kind = 1 ∨ len = 0 then [] else [⟨d.kind, fieldAddr d.kind x, len, wr⟩]

/-- The scale array of a descriptor, over whole rows up to the last scale (R274). -/
def scaleHull (d : Desc) (wr : Bool) : List Rng :=
  if d.mx = 0 ∨ d.empty then [] else fieldRng d d.mx ((d.runs - 1) * d.scaleRow + ceilDiv (d.e 0) 32) wr

/-- Does a range lie inside the scratchpad partition of a UNIT record (check 4)? -/
def inPart (u : UnitRec) (lo len : Nat) : Bool :=
  decide (len = 0) || (decide (u.spBase ≤ lo) && decide (lo + len ≤ u.spBase + u.spLen))

/-- Do the regions of a table cover a range without a gap, from `a` on, with fuel for each region
crossed; and none of them CONST when it is written (check 7, R29)? -/
def covers (tb : List RegionRec) (wr : Bool) : Nat → Nat → Nat → Bool
  | 0, _, _ => false
  | n + 1, a, stop =>
    if stop ≤ a then true
    else match regionAt tb a with
      | none => false
      | some r => !(wr && r.cls == .const) && covers tb wr n (r.ua + r.len) stop

end Sys2Proof.Machine
end

