-- ==== Sys2Proof/Machine/Access.lean ====
section
/-! DEFINITION. Accesses of a bead: the routes of the fabric (R451), bandwidth meters (R443),
translation of unit addresses and handles (R432, R433), the scratchpad partition (check 4) and poison. -/

namespace Sys2Proof.Machine

/-! ## Routes and meters -/

/-- The links along a row from column `a` to column `b`, with fuel, as (link, direction). -/
def rowRoute (row : Nat) : Nat → Nat → Nat → List (Nat × Nat)
  | 0, _, _ => []
  | n + 1, a, b =>
    if a < b then (row * 3 + a, 0) :: rowRoute row n (a + 1) b
    else if b < a then (row * 3 + a - 1, 1) :: rowRoute row n (a - 1) b
    else []

/-- The route between two C-dies: along the row, then across the vertical link (R451). -/
def dieRoute (a b : Nat) : List (Nat × Nat) :=
  rowRoute (a / 4) 4 (a % 4) (b % 4) ++
    (if a / 4 = b / 4 then [] else [(6 + b % 4, if a / 4 < b / 4 then 0 else 1)])

/-- The route between two dies, hubs being 8 and 9 (R451). -/
def route (a b : Nat) : List (Nat × Nat) :=
  if a = b then []
  else if a < 8 ∧ b < 8 then dieRoute a b
  else if 8 ≤ a ∧ b < 8 then
    let c := if a = 8 then 0 else 3
    (((if a = 8 then 10 else 12) + b / 4, 1)) :: rowRoute (b / 4) 4 c (b % 4)
  else if a < 8 then
    let c := if b = 8 then 0 else 3
    rowRoute (a / 4) 4 (a % 4) c ++ [((if b = 8 then 10 else 12) + a / 4, 0)]
  else if a = 8 then (10, 1) :: rowRoute 0 4 0 3 ++ [(12, 0)]
  else (12, 1) :: rowRoute 0 4 3 0 ++ [(10, 0)]

/-- Counts bytes on the meters of a unit that a predicate selects, by ordinal of the GUAR record. -/
def meterOn (t : Setting) (m : SMap Nat) (sel : GuarRec → Bool) (n : Nat) : SMap Nat :=
  ((List.range t.guars.length).zip t.guars).foldl (fun m p => if sel p.2 then mcount m p.1 n else m) m

/-- A unit moves `n` bytes between die `die` and address `pa`: its meters on the stack and on the links
of the way count them (R443). `out`: data leaves the die. -/
def State.meterMove (s : State) (top die pa n : Nat) (out : Bool) : State :=
  let t := s.set.cur
  if t.guars.isEmpty then s
  else
    let m := match stackOf pa with
      | some k => meterOn t s.mem.meter (fun g => g.uid == top && g.resKind == 0 && g.index == k) n
      | none => s.mem.meter
    let way := if out then route die (homeDie pa) else route (homeDie pa) die
    let m := way.foldl (fun m l => meterOn t m (fun g => g.uid == top && g.resKind == l.2 + 1 && g.index == l.1) n) m
    { s with mem := { s.mem with meter := m } }

/-! ## The slice and context of a leaf -/

/-- The slice that runs on a bead: its unit and itself. -/
def State.sliceOf (s : State) (b : Nat) : Option (Nat × Slice) :=
  s.units.findSome? (fun p => p.2.slice.bind (fun sl => if sl.beads.contains b then some (p.1, sl) else none))

/-- The state of a unit that runs slices. -/
def State.unitSt (s : State) (u : Nat) : UnitSt := mget s.units u {}

/-- Changes the state of a unit. -/
def State.updUnit (s : State) (u : Nat) (f : UnitSt → UnitSt) : State := { s with units := mupd s.units u {} f }

/-- Changes the running slice of a unit. -/
def State.updSlice (s : State) (u : Nat) (f : Slice → Slice) : State :=
  s.updUnit u (fun x => { x with slice := x.slice.map f })

/-- The rank offset and group size of a federated unit's local part (R356). -/
def State.fedGroup (s : State) (uid : Nat) : Option (Nat × Nat) :=
  (s.set.cur.fedOf uid).map (fun f => ((mget s.net.feds f.fedUid { fedUid := f.fedUid }).offset, f.totalLeaves))

/-- What a command of a bead acts in: the bead, its position and UNIT record, the unit whose slice it
runs, the slice's serial, the top-level unit, the leaf's local rank, its rank in the group and the group's
size (R356), its region table, and the slice's objects. -/
structure Ctx where
  serial : Nat
  grank : Nat
  size : Nat
  b : Nat
  pos : Nat
  u : UnitRec
  uid : Nat
  top : Nat
  rank : Nat
  tb : List RegionRec
  s1 : Bool
  deriving DecidableEq, Repr

/-- The context of a bead that runs a slice. -/
def State.ctx? (s : State) (b : Nat) : Option Ctx :=
  (s.bead b).pos.bind fun pos =>
  (s.set.cur.unit? pos).bind fun u =>
  (s.sliceOf b).map fun (uid, sl) =>
    let g := (s.fedGroup uid).getD (0, sl.beads.length)
    { serial := sl.serial, grank := g.1 + sl.beads.idxOf b, size := g.2, b, pos, u, uid, top := s.set.cur.top pos, rank := sl.beads.idxOf b, tb := s.set.cur.table pos
      s1 := s.set.cur.s1 pos }

/-! ## Pages of objects -/

/-- KIND of the pool that holds a page frame: 0 for 4 KiB pages, 1 for 2 MiB pages. -/
def Setting.frameKind (t : Setting) (frame : Nat) : Nat :=
  if t.pools.any (fun p => p.kind == 1 && decide (p.phys ≤ frame * 4096) && decide (frame * 4096 < p.phys + p.len)) then 1 else 0

/-- Bytes of a page. -/
def pageBytes (kind : Nat) : Nat := if kind = 1 then 2 ^ 21 else 4096

/-- Does the object of a handle hold a package address? -/
def State.objHolds (s : State) (h pa : Nat) : Bool :=
  (mget s.bpm.lists h []).any (fun f => decide (f * 4096 ≤ pa) && decide (pa < f * 4096 + pageBytes (s.set.cur.frameKind f)))

/-- A handle's head frame and generation (R438). -/
def hFrame (h : Nat) : Nat := h % 2 ^ 32
def hGen (h : Nat) : Nat := h / 2 ^ 32 % 256

/-- The package address of an offset into the object of a handle, for a requester's top-level unit
(R433). -/
def State.handlePa (s : State) (top h off : Nat) : Option Nat :=
  let pg := mget s.bpm.pages (hFrame h) {}
  let fs := mget s.bpm.lists (h % 2 ^ 40) []
  let pb := pageBytes (s.set.cur.frameKind (hFrame h))
  if pg.state = .alloc ∧ pg.gen = hGen h ∧ pg.owner = top ∧ pg.head ∧ off < fs.length * pb then
    some (nth fs (off / pb) * 4096 + off % pb)
  else none

/-! ## Translation -/

/-- May the slice write this package address, when it lies in a SESSION region: only a page allocated
during the slice, and never in an S1-compatible unit (R32, R62)? -/
def State.sessionOk (s : State) (c : Ctx) (pa : Nat) : Bool :=
  !c.s1 && (((s.unitSt c.uid).slice.map (·.objs)).getD []).any (fun h => s.objHolds h pa)

/-- A unit address that one 64-byte line's access touches (R432); `rsn` is the check it falls under. -/
def State.uaPa (s : State) (c : Ctx) (ua : Nat) (wr : Bool) (rsn : Nat) : Except Flt Nat :=
  match regionAt c.tb ua with
  | none => .error ⟨St.regionFault, rsn, ua % 2 ^ 48⟩
  | some r =>
    let pa := r.phys + (ua - r.ua)
    if wr && r.cls == .const then .error ⟨St.regionFault, St.rRegion, pa⟩
    else if wr && r.cls == .session && !s.sessionOk c pa then .error ⟨St.regionFault, St.rAccess, pa⟩
    else .ok pa

/-- A handle address (R433), which faults at check 8; a page inside a SESSION region is written under
R32. -/
def State.hPa (s : State) (c : Ctx) (h off : Nat) (wr : Bool) : Except Flt Nat :=
  match s.handlePa c.top h off with
  | none => .error ⟨St.regionFault, St.rAccess, hFrame h * 4096⟩
  | some pa =>
    if wr && c.tb.any (fun r => r.cls == .session && decide (r.phys ≤ pa) && decide (pa < r.phys + r.len)) && !s.sessionOk c pa then
      .error ⟨St.regionFault, St.rAccess, pa⟩
    else .ok pa

/-- The package address of an access (kinds 0 and 1). -/
def State.pa (s : State) (c : Ctx) (kind x off : Nat) (wr : Bool) (rsn : Nat) : Except Flt Nat :=
  if kind = 1 then s.hPa c (fieldAddr 1 x) (fieldOff 1 x + off) wr
  else s.uaPa c (fieldAddr 0 x + off) wr rsn

/-- Cuts `n` bytes from address `a` at 64-byte lines: (offset from `a`, length). -/
def linePieces (a n : Nat) : List (Nat × Nat) :=
  (granules 64 a n).map (fun g =>
    let lo := max a (g * 64)
    (lo - a, min (a + n) (g * 64 + 64) - lo))

/-- A byte and its poison mark. -/
abbrev PByte := Byte × Bool

/-- Reads scratchpad bytes with their marks. -/
def Bead.spRead (x : Bead) (a n : Nat) : List PByte :=
  (span a n).map (fun i => (x.sp.read i, x.spPoison.contains (i / 32)))

/-- Reads package bytes with their marks. -/
def MemState.readP (m : MemState) (a n : Nat) : List PByte :=
  (span a n).map (fun i => (m.ram.read i, m.poison.contains (i / 64) || m.retiredAt i))

/-- Reads `n` bytes at `off` from a descriptor field of a BASE_KIND (checks 4, 7, 8). -/
def State.rdBytes (s : State) (c : Ctx) (kind x off n rsn : Nat) : Except Flt (List PByte) :=
  if kind = 2 then
    let a := fieldAddr 2 x + off
    if inPart c.u a n then .ok ((s.bead c.b).spRead a n) else .error ⟨St.mapOverflow, St.rScratch, 0⟩
  else do
    let parts ← (linePieces (linePos kind x off) n).mapM (fun (o, l) => do
      let p ← s.pa c kind x (off + o) false rsn
      pure (s.mem.readP p l))
    pure parts.flatten

/-- Records a WORK range that the slice writes (R31). -/
def addWork (w : List (Nat × Nat)) (a n : Nat) : List (Nat × Nat) :=
  match w with
  | (b, m) :: t => if b + m = a then (b, m + n) :: t else (a, n) :: w
  | [] => [(a, n)]

/-- Writes one line's bytes at a package address for a unit: data, then the marks of its poisoned bytes. -/
def State.putLine (s : State) (c : Ctx) (pa : Nat) (bs : List PByte) : State :=
  let s := s.memWrite pa (bs.map (·.1))
  let s := if bs.any (·.2) then s.memMark pa bs.length else s
  (s.meterMove c.top (c.b / 20) pa bs.length true).updSlice c.uid (fun sl => { sl with work := addWork sl.work pa bs.length })

/-- Marks the scratchpad granules of poisoned bytes. -/
def Bead.spMarks (x : Bead) (a : Nat) (bs : List PByte) : Bead :=
  ((List.range bs.length).zip bs).foldl (fun x p => if p.2.2 then x.spMark (a + p.1) 1 else x) x

/-- Writes scratchpad bytes with their marks (R417, R420). -/
def State.putSp (s : State) (b a : Nat) (bs : List PByte) : State :=
  s.updBead b (fun x => (x.spWrite a (bs.map (·.1))).spMarks a bs)

/-- Writes bytes at `off` from a descriptor field of a BASE_KIND. -/
def State.wrBytes (s : State) (c : Ctx) (kind x off : Nat) (bs : List PByte) (rsn : Nat) : Except Flt State :=
  if kind = 2 then
    let a := fieldAddr 2 x + off
    if inPart c.u a bs.length then .ok (s.putSp c.b a bs) else .error ⟨St.mapOverflow, St.rScratch, 0⟩
  else
    (linePieces (linePos kind x off) bs.length).foldlM (fun s (o, l) => do
      let p ← s.pa c kind x (off + o) true rsn
      pure (s.putLine c p ((bs.drop o).take l))) s

/-- Counts a read on the unit's meters: every piece that is unit memory. -/
def State.meterRead (s : State) (c : Ctx) (kind x off n : Nat) : State :=
  if kind = 2 ∨ s.set.cur.guars.isEmpty then s
  else
    (linePieces (linePos kind x off) n).foldl (fun s (o, l) =>
      match s.pa c kind x (off + o) false 0 with
      | .ok p => s.meterMove c.top (c.b / 20) p l false
      | .error _ => s) s

/-- Checks 4 and 7 of a list of ranges, scratchpad first (R254, R255). -/
def hullCheck (c : Ctx) (rs : List Rng) : Option Flt :=
  if rs.any (fun r => r.kind == 2 && !inPart c.u r.lo r.len) then some ⟨St.mapOverflow, St.rScratch, 0⟩
  else
    match rs.find? (fun r => r.kind == 0 && !covers c.tb r.wr 65 r.lo (r.lo + r.len)) with
    | some r => some ⟨St.regionFault, St.rRegion,
        match regionAt c.tb r.lo with
        | some g => g.phys + (r.lo - g.ua)
        | none => r.lo % 2 ^ 48⟩
    | none => none

end Sys2Proof.Machine
end

