-- ==== Sys2Proof/Machine/Transport.lean ====
section
/-! DEFINITION. The sending half of the Celner transport (chapter 16): paths, segments, peers and the window, and the
messages of VC0. -/

namespace Sys2Proof.Machine

/-! ## Paths (R503, R519) -/

/-- The NET record of KIND 1 of a port. -/
def Setting.port? (t : Setting) (n : Nat) : Option NetPortRec := t.netPorts.find? (·.port == n)

/-- Sub-ports of a mode (Table 16-1). -/
def subPorts (mode : Nat) : Nat := 2 ^ min mode 2

/-- Rate of a path of a mode, Mb/s. -/
def pathRate (mode : Nat) : Nat := 1600000 / subPorts mode

/-- A port. -/
def State.port (s : State) (n : Nat) : Port := mget s.net.ports n {}

/-- Changes a port. -/
def State.updPort (s : State) (n : Nat) (f : Port → Port) : State :=
  { s with net := { s.net with ports := mupd s.net.ports n {} f } }

/-- Does a path work at this end (R501, R520)? -/
def State.pathUp (s : State) (p : Nat) : Bool :=
  match s.set.cur.port? (p / 4) with
  | some r => r.enabled && decide (p % 4 < subPorts r.mode) && (s.port (p / 4)).up.contains (p % 4)
  | none => false

/-- The working paths of this end. -/
def State.upPaths (s : State) : List Nat := (List.range 32).filter s.pathUp

/-- The paths of a HELLO's PATHS field. -/
def State.pathMask (s : State) : Nat := (s.upPaths.map (2 ^ ·)).foldl (· + ·) 0

/-- The working paths to a peer: up at both ends and not suspect. -/
def State.peerPaths (s : State) (p : Peer) : List Nat :=
  s.upPaths.filter (fun k => bit p.paths k && !p.suspects.any (·.path == k))

/-- Is a path paused by PFC (R505)? -/
def State.paused (s : State) (p : Nat) : Bool := (s.port (p / 4)).paused.contains (p % 4)

/-- r_max of a peer, Mb/s (R518). -/
def State.rateMax (s : State) (p : Peer) : Nat :=
  ((s.upPaths.filter (fun k => bit p.paths k)).map (fun k => pathRate (((s.set.cur.port? (k / 4)).map (·.mode)).getD 0))).foldl (· + ·) 0

/-! ## Versions (R151, R512) -/

/-- A version range narrowed to the COMPAT range of a component. -/
def Setting.verRange (t : Setting) (component lo hi : Nat) : Nat × Nat :=
  match t.compats.find? (·.component == component) with
  | some c => (max lo c.min, min hi c.max)
  | none => (lo, hi)

/-- The versions the device offers on an interface: the partner entry of the running management firmware, or the range this
firmware is described with (R566, R512, R535, R593). -/
def State.offered (s : State) (component : Nat) : Nat × Nat :=
  mget s.hmk.offers component (match component with
    | 0x04 => (0x01000000, 0x0103FFFF)
    | 0x05 => (0x01000000, 0x0201FFFF)
    | _ => (0x01000000, 0x0200FFFF))

/-- The versions accepted on an interface: what the device offers, narrowed by the setting (R151). -/
def State.verRange (s : State) (component : Nat) : Nat × Nat :=
  s.set.cur.verRange component (s.offered component).1 (s.offered component).2

/-- The transport versions offered. -/
def State.tRange (s : State) : Nat × Nat := s.verRange 0x05

/-- The payload of HELLO and HELLO_ACK (Table 16-3). -/
def State.helloBytes (s : State) (chosen : Nat) : List Byte :=
  let t := s.set.cur
  leBytes 4 s.tRange.1 ++ leBytes 4 s.tRange.2 ++ leBytes 4 0xF ++ leBytes 4 chosen ++ leBytes 4 s.pathMask ++ leBytes 12 0 ++
    (List.range 8).flatMap (fun n =>
      let r := (t.port? n).getD { port := n, mode := 0, enabled := false, mac := 0, ip := 0 }
      leBytes 6 r.mac ++ leBytes 1 r.mode ++ leBytes 1 0) ++
    (List.range 8).flatMap (fun n => leBytes 16 (((t.port? n).map (·.ip)).getD 0))

/-! ## Peers (R511, R514) -/

/-- A peer. -/
def State.peer? (s : State) (p : Nat) : Option Peer := mfind s.net.peers p

/-- Changes a peer that is held. -/
def State.updPeer (s : State) (p : Nat) (f : Peer → Peer) : State :=
  match s.peer? p with
  | some x => { s with net := { s.net with peers := mput s.net.peers p (f x) } }
  | none => s

/-- The most peers held. -/
def Setting.maxPeers (t : Setting) : Nat := min t.netPkg.maxPeers 8192

/-- The address of a package in NET_ADDR: bytes 0x04 to 0x1F of a valid entry. -/
def State.addrOf (s : State) (p : Nat) : Option (List Byte) :=
  (s.net.addrTable.find? (fun e => leNat (e.2.take 4) == p && bit (leNat ((e.2.drop 10).take 2)) 0)).map (fun e => e.2.drop 4)

/-- One virtual channel of a peer. -/
def Peer.vc (x : Peer) (v : Nat) : PeerVc := mget x.vcs v {}

/-- Changes a virtual channel. -/
def Peer.updVc (x : Peer) (v : Nat) (f : PeerVc → PeerVc) : Peer := { x with vcs := mput x.vcs v (f (x.vc v)) }

/-! ## Sending -/

/-- SACK of a virtual channel (Table 16-2). -/
def PeerVc.sack (c : PeerVc) : Nat :=
  (((List.range 64).filter (fun i => c.rxAhead.contains ((c.rxPsn + 1 + i) % 2 ^ 32))).map (2 ^ ·)).foldl (· + ·) 0

/-- A segment leaves on a path, with what it acknowledges; ECE goes with the first one after a CE mark (R506, R515). -/
def State.putSeg (s : State) (p path : Nat) (g : Segment) : State :=
  match s.peer? p with
  | none => s
  | some x =>
    let c := x.vc g.vc
    let g := { g with path, ackPsn := c.rxPsn, sack := c.sack, ece := x.ceSeen }
    let s := s.updPeer p (fun x =>
      { x.updVc g.vc (fun c => { c with unackedRx := 0 }) with ceSeen := false, segs := (x.segs + 1) % 2 ^ 64 })
    { s with net := { s.net with pathTx := mcount s.net.pathTx path 1 } }.emit (.segment path g)

/-- A segment without a place in the sequence: ACK, HELLO, PROBE, BYE and EARLY_NAK leave on a path. -/
def State.putCtl (s : State) (p path type vc : Nat) (payload : List Byte := []) : State :=
  s.emit (.segment path { type, vc, path, src := s.set.cur.netPkg.pkgId, dst := p, payload })

/-- The path of the next segment to a peer: by the round robin of R519, whose state at the sending die the spec does not
give, so a free value picks among the paths that are not paused. -/
def State.pickPath (s : State) (x : Peer) : Option Nat × State :=
  match (s.peerPaths x).filter (fun k => !s.paused k) with
  | [] => (none, s)
  | ps => let (v, s) := s.fresh; (ps[v % ps.length]?, s)

/-- Is a PSN within 64 of the oldest not acknowledged (R515)? -/
def PeerVc.inWindow (c : PeerVc) (psn : Nat) : Bool := decide (ahead psn c.ackPsn < 64)

/-- Sends waiting segments of a peer's virtual channel, with fuel. -/
def State.pumpVcF : Nat → State → Nat → Nat → State
  | 0, s, _, _ => s
  | n + 1, s, p, v =>
    match s.peer? p with
    | none => s
    | some x =>
      match (x.vc v).backlog with
      | [] => s
      | g :: rest =>
        if !x.connected || !(x.vc v).inWindow g.psn then s
        else
          match s.pickPath x with
          | (none, _) => s
          | (some k, s) =>
            let quiet := x.vcs.all (fun c => c.2.sent.isEmpty)
            let s := s.updPeer p (fun x =>
              { x.updVc v (fun c => { c with backlog := rest, sent := c.sent ++ [{ seg := { g with path := k }, sentAt := s.now }] }) with
                lastAckAt := if quiet then s.now else x.lastAckAt, lastBusyAt := s.now })
            (s.putSeg p k g).pumpVcF n p v

/-- Sends what waits to a peer. -/
def State.pumpPeer (s : State) (p : Nat) : State := (List.range 4).foldl (fun s v => s.pumpVcF 64 p v) s

/-- Opens a connection to a package: a peer entry and a HELLO; refused when the table is full or no address is known. -/
def State.reach (s : State) (p : Nat) : State :=
  let hello := fun (s : State) => match s.upPaths with
    | [] => s
    | k :: _ => (s.updPeer p (fun x => { x with helloSent := true })).putCtl p k 2 0 (s.helloBytes 0)
  match s.peer? p with
  | some x => if x.connected || x.helloSent then s else hello s
  | none =>
    match s.addrOf p with
    | none => s
    | some a =>
      if s.set.cur.maxPeers ≤ s.net.peers.length then s.raiseG St.netPeersFull p
      else hello { s with net := { s.net with peers := mput s.net.peers p { pkg := p, addr := a, lastBusyAt := s.now } } }

/-- Bits of a poison map from bit 64 × `i` on. -/
def poisonBitsAt (m i : Nat) : Nat := m / 2 ^ (64 * i) % 2 ^ 64

/-- The segments of a message (R510); bit j of `pois` marks bytes 64j to 64j + 63. -/
def PeerVc.cut (c : PeerVc) (src dst vc : Nat) (bytes : List Byte) (pois : Nat) : List Segment :=
  let n := max 1 (ceilDiv bytes.length 4096)
  (List.range n).map (fun i =>
    { vc, src, dst, psn := (c.txPsn + i) % 2 ^ 32, msgId := c.txMsg, msgOff := 4096 * i, first := i == 0, last := i + 1 == n
      poisonMap := poisonBitsAt pois i, payload := (bytes.drop (4096 * i)).take 4096 })

/-- Sends a message to a peer on a virtual channel (R510, R515). -/
def State.netSend (s : State) (p vc : Nat) (bytes : List Byte) (pois : Nat := 0) : State :=
  let s := s.reach p
  (s.updPeer p (fun x => x.updVc vc (fun c =>
    let gs := c.cut s.set.cur.netPkg.pkgId p vc bytes pois
    { c with backlog := c.backlog ++ gs, txPsn := (c.txPsn + gs.length) % 2 ^ 32, txMsg := (c.txMsg + 1) % 2 ^ 32 }))).pumpPeer p

/-! ## VC0 messages (Table 16-4) -/

/-- Sizes of the fields of a VC0 message, after KIND. -/
def vc0Sizes : Nat → List Nat
  | 0x0001 => [2, 2, 8, 4, 2]
  | 0x0002 => [4, 2, 4]
  | 0x0010 => [2, 4, 2, 2]
  | 0x0020 => [2, 2, 2, 4, 2, 8, 4, 4]
  | 0x0021 => [2, 4, 4]
  | 0x0022 => [2, 4, 8, 1]
  | 0x0023 => [2, 4, 2]
  | 0x0024 => [2, 4]
  | 0x0025 => [2, 4, 2]
  | _ => []

/-- The 32 bytes of a VC0 message. -/
def vc0Bytes (kind : Nat) (fields : List Nat) : List Byte :=
  let b := leBytes 2 kind ++ ((vc0Sizes kind).zip fields).flatMap (fun p => leBytes p.1 p.2)
  b ++ List.replicate (32 - b.length) 0

/-- Sends a VC0 message to a peer (R523). -/
def State.tell (s : State) (p kind : Nat) (fields : List Nat) : State := s.netSend p 0 (vc0Bytes kind fields)

end Sys2Proof.Machine
end

