-- ==== Sys2Proof/Machine/Clasp.lean ====
section
/-! DEFINITION. Clasps (R467 to R485): the five operations, waits in posting order, notify words, MSI-X
threshold entries, and the checks of an operation word. -/

namespace Sys2Proof.Machine

/-- The largest counter value. -/
def claspMax : Nat := 2 ^ 32 - 1

/-- The die whose clasp unit holds a clasp (R8). -/
def claspDie (id : Nat) : Nat := id / 8192

/-- A clasp. -/
def State.clasp (s : State) (id : Nat) : Clasp := mget s.clasps id {}

/-- Changes a clasp. -/
def State.updClasp (s : State) (id : Nat) (f : Clasp → Clasp) : State := { s with clasps := mupd s.clasps id {} f }

/-- ARG of a `CLP_` record: the clasp and its counter (Table 19-5). -/
def State.claspArg (s : State) (id : Nat) : Nat := id + (s.clasp id).counter * 2 ^ 32

/-- Does a package address lie in the system reserve (R112, R434)? -/
def inReserve (a : Nat) : Bool :=
  [0, 7].any (fun k => decide (k * stackWindow + stackBytes - 2 ^ 29 ≤ a) && decide (a < k * stackWindow + stackBytes))

/-- Do `n` bytes at a package address lie in regions of a unit whose class `ok` accepts? -/
def Setting.unitHolds (t : Setting) (u a n : Nat) (ok : RegionClass → Bool) : Bool :=
  (t.table u).any (fun r => ok r.cls && decide (r.phys ≤ a) && decide (a + n ≤ r.phys + r.len))

/-- Writes the notify word of a completed wait (R479, Table 15-3). -/
def State.notify (s : State) (window : Option Nat) (nidx id counter status : Nat) : State :=
  let bytes := leBytes 8 (status + id * 2 ^ 16 + counter * 2 ^ 32)
  match window with
  | some w =>
    let a := (s.win w).notifyBase + 8 * nidx
    let u := (s.set.cur.winUnit w).getD 0xFFFF
    if s.set.cur.unitHolds u a 8 (· == .work) then s.memWriteC a bytes
    else s.raiseU u St.clpNotifyBad (id + counter * 2 ^ 32) 0 (claspAgent (claspDie id))
  | none =>
    let a := s.sel.clpNotify + 8 * nidx
    if populated s.set.cur a && !inReserve a then s.memWriteC a bytes
    else s.raiseG St.clpNotifyBad (id + counter * 2 ^ 32) (claspAgent (claspDie id))

/-- A wait completes: the bead's wake leaves, the notify word is written, or the remote package gets its
completion (R476, R479, R485). -/
def State.completeWait (s : State) (id : Nat) (who : Waiter) (counter : Nat) (err : Bool) : State :=
  let st := if err then St.clpError else 0
  match who with
  | .bead b => s.updBead b (fun x => { x with wake := some err })
  | .notify w n => s.notify w n id counter st
  | .remote p token => s.tell p 0x0002 [token, st, counter]

/-- Is a wait for `t` satisfied (R470)? -/
def Clasp.meets (c : Clasp) (t : Nat) : Bool := c.err || decide (t ≤ c.counter)

/-- Completes the satisfied waits of a clasp in posting order (R470). -/
def State.wakeWaits (s : State) (id : Nat) : State :=
  let c := s.clasp id
  let s := s.updClasp id (fun c => { c with waits := c.waits.filter (fun w => !c.meets w.target) })
  (c.waits.filter (fun w => c.meets w.target)).foldl (fun s w => s.completeWait id w.who c.counter c.err) s

/-- Fires an armed MSI-X entry whose condition holds (R483). -/
def State.fireEntry (s : State) (w k : Nat) : State :=
  match mfind (s.win w).msix k with
  | none => s
  | some e =>
    let c := s.clasp e.id
    if e.arm && c.meets e.target then
      let s := s.updWin w (fun x => { x with msix := mput x.msix k { e with arm := false, stCounter := c.counter, stErr := c.err, stFired := true } })
      match s.winFn w with
      | some f => s.msix f e.vector
      | none => s
    else s

/-- Fires the MSI-X entries on a clasp. -/
def State.fireMsix (s : State) (id : Nat) : State :=
  s.wins.foldl (fun s w => w.2.msix.foldl (fun s e => if e.2.id = id then s.fireEntry w.1 e.1 else s) s) s

/-- What follows a change of a clasp: waits and MSI-X entries. -/
def State.settle (s : State) (id : Nat) : State := (s.wakeWaits id).fireMsix id

/-- Adds to a counter; past the top it stays there with the flag set, and the owner's queue gets
`CLP_OVERFLOW` (R471). -/
def State.claspAdd (s : State) (id n : Nat) : State :=
  let c := s.clasp id
  if c.counter + n ≤ claspMax then s.updClasp id (fun c => { c with counter := c.counter + n })
  else
    let s := s.updClasp id (fun c => { c with counter := claspMax, err := true })
    match s.set.cur.clasp? id with
    | some r =>
      let u := if 0x1000 ≤ r.owner then ((s.set.cur.feds.find? (·.fedUid == r.owner)).map (·.localUid)).getD 0xFFFF else r.owner
      s.raiseU u St.clpOverflow (s.claspArg id) 0 (claspAgent (claspDie id))
    | none => s

/-- Posts a wait: complete at once, or pending (R470). -/
def State.postWait (s : State) (who : Waiter) (id t : Nat) : State :=
  let c := s.clasp id
  if c.meets t then s.completeWait id who c.counter c.err
  else s.updClasp id (fun c => { c with waits := c.waits ++ [{ who, target := t }] })

/-- `ARRIVE`: the increment, then the wait (R469). -/
def State.arriveCore (s : State) (who : Waiter) (id t : Nat) : State := ((s.claspAdd id 1).settle id).postWait who id t

/-- Host and remote waits pending in a die's clasp unit (R480). -/
def State.hostWaits (s : State) (die : Nat) : Nat :=
  (s.clasps.map (fun p => if claspDie p.1 = die then (p.2.waits.filter (fun w => match w.who with
    | .bead _ => false
    | _ => true)).length else 0)).foldl (· + ·) 0

/-- Window of a register access, `none` for the privileged view. -/
def viaWindow : Via → Option Nat
  | .func _ w => some w
  | .core _ w => some w
  | _ => none

/-- The waiter that an agent's wait leaves; the scheduler never waits. -/
def waiterOf : ClaspAgent → Option Waiter
  | .bead b => some (.bead b)
  | .notify w n => some (.notify w n)
  | .remote p t => some (.remote p t)
  | .sched => none

/-- Posts the stalled waits for which a pending entry has come free, oldest first (R480). -/
def State.resumeStalled (s : State) : State :=
  s.stalledOps.foldl (fun (s : State) (p : ClaspAgent × Nat) =>
    let id := bits p.2 15 0
    if s.hostWaits (claspDie id) < 4096 then
      let s := { s with stalledOps := s.stalledOps.erase p }
      match waiterOf p.1 with
      | some who => if bits p.2 18 16 = 1 then s.postWait who id (bits p.2 63 32) else s.arriveCore who id (bits p.2 63 32)
      | none => s
    else s) s

/-- `SIGNAL` (Table 15-1). -/
def State.opSignal (s : State) (id n : Nat) : State := ((s.claspAdd id n).settle id).resumeStalled

/-- `WAIT`. -/
def State.opWait (s : State) (who : Waiter) (id t : Nat) : State := s.postWait who id t

/-- `ARRIVE`. -/
def State.opArrive (s : State) (who : Waiter) (id t : Nat) : State := (s.arriveCore who id t).resumeStalled

/-- `RESET` (R473, R474). -/
def State.opReset (s : State) (id : Nat) : State :=
  ((s.updClasp id (fun c => { c with counter := 0, err := false })).settle id).resumeStalled

/-- `FAIL`, and the error flag of a failed slice or collective (R469, R473). -/
def State.opFail (s : State) (id : Nat) : State := ((s.updClasp id (fun c => { c with err := true })).settle id).resumeStalled

/-- Withdraws a bead's pending waits and wake (R476). -/
def State.withdrawBead (s : State) (b : Nat) : State :=
  { s with clasps := s.clasps.map (fun (p : Nat × Clasp) => (p.1, { p.2 with waits := p.2.waits.filter (fun w => w.who ≠ Waiter.bead b) })) }.updBead b
    (fun x => { x with wake := none })

/-! ## Operations that reach a clasp unit -/

/-- The federation of a remote package, when the peer belongs to it (R484). -/
def Setting.peerFeds (t : Setting) (peer : Nat) : List FedRec := t.feds.filter (fun f => f.peers.any (fun p => p.2 == peer))

/-- Does the setting in force let the agent perform the operation (R478, R484, R674)? -/
def State.mayClasp (s : State) (who : ClaspAgent) (id bitNo : Nat) : Bool :=
  let t := s.set.cur
  match who with
  | .bead b => match (s.bead b).pos with
    | some p => t.right p id bitNo
    | none => false
  | .notify (some w) _ => match t.winUnit w with
    | some u => t.right u id bitNo
    | none => false
  | .notify none _ => (t.clasp? id).isSome
  | .remote p _ => match t.clasp? id with
    | none => false
    | some c => c.remote && (t.peerFeds p).any (fun f => c.owner == f.fedUid ||
        t.accesses.any (fun a => a.kind == 0 && a.grantee == f.fedUid && bit a.rights bitNo &&
          decide (a.base ≤ id) && decide (id < a.base + a.count)))
  | .sched => (t.clasp? id).isSome

/-- Logs a refusal: to the window's unit queue, or to the global queue for the privileged view (R478). -/
def State.logClasp (s : State) (who : ClaspAgent) (status id : Nat) : State :=
  match who with
  | .notify (some w) _ => s.raiseU ((s.set.cur.winUnit w).getD 0xFFFF) status (s.claspArg id) 0 (claspAgent (claspDie id))
  | .notify none _ => s.raiseG status (s.claspArg id) (claspAgent (claspDie id))
  | _ => s

/-- A refused operation without a wait (R478, R484, R674). -/
def State.refuseClasp (s : State) (who : ClaspAgent) (id : Nat) : State :=
  match who with
  | .remote p token => s.tell p 0x0002 [token, St.clpNotGranted, 0]
  | _ => (s.count cntNotGranted).logClasp who St.clpNotGranted id

/-- A refused wait that reached the clasp unit completes at once (R674). -/
def State.refuseWait (s : State) (who : ClaspAgent) (id : Nat) : State :=
  match who with
  | .remote _ _ => s.refuseClasp who id
  | _ => match waiterOf who with
    | some w => s.completeWait id w 0 true
    | none => s

/-- Completion of a remote operation that does not wait (R523). -/
def State.ackRemote (s : State) (who : ClaspAgent) (id : Nat) : State :=
  match who with
  | .remote p token => s.tell p 0x0002 [token, 0, (s.clasp id).counter]
  | _ => s

/-- `SIGNAL` reaches the clasp unit. -/
def State.doSignal (s : State) (who : ClaspAgent) (id n : Nat) : State :=
  if s.mayClasp who id 0 then (s.opSignal id n).ackRemote who id else s.refuseClasp who id

/-- `WAIT` reaches the clasp unit. -/
def State.doWait (s : State) (who : ClaspAgent) (id t : Nat) : State :=
  match waiterOf who with
  | some w => if s.mayClasp who id 1 then s.opWait w id t else s.refuseWait who id
  | none => s

/-- `ARRIVE` reaches the clasp unit. -/
def State.doArrive (s : State) (who : ClaspAgent) (id t : Nat) : State :=
  match waiterOf who with
  | some w => if s.mayClasp who id 2 then s.opArrive w id t else s.refuseWait who id
  | none => s

/-- `RESET` reaches the clasp unit. -/
def State.doReset (s : State) (who : ClaspAgent) (id : Nat) : State :=
  if s.mayClasp who id 3 then (s.opReset id).ackRemote who id else s.refuseClasp who id

/-- `FAIL` reaches the clasp unit; it takes the SIGNAL right. -/
def State.doFail (s : State) (who : ClaspAgent) (id : Nat) : State :=
  if s.mayClasp who id 0 then (s.opFail id).ackRemote who id else s.refuseClasp who id

/-! ## CLP_OP (R477, R478) -/

/-- Is an operation word malformed (Table 15-2)? -/
def clpWordBad (x : Nat) : Bool :=
  let op := bits x 18 16
  let v := bits x 63 32
  decide (4 < op) || bit x 19 || (op != 1 && op != 2 && bits x 31 20 != 0) ||
    (op == 0 && v == 0) || ((op == 3 || op == 4) && v != 0)

/-- Is the access from a PCIe function's user window (R482)? -/
def viaFunc : Via → Bool
  | .func _ _ => true
  | _ => false

/-- An operation word stored to CLP_OP of a user window or of window A. -/
def State.clpOp (s : State) (v : Via) (x : Nat) : State :=
  let id := bits x 15 0
  let op := bits x 18 16
  let who := ClaspAgent.notify (viaWindow v) (bits x 31 20)
  if clpWordBad x || (viaFunc v && (op == 1 || op == 2)) then (s.count cntBadOp).logClasp who St.clpBadOp id
  else if !s.mayClasp who id (match op with
      | 1 => 1
      | 2 => 2
      | 3 => 3
      | _ => 0) then s.refuseClasp who id
  else match op with
    | 0 => s.doSignal who id (bits x 63 32)
    | 1 => if 4096 ≤ s.hostWaits (claspDie id) then { s with stalledOps := s.stalledOps ++ [(who, x)] } else s.doWait who id (bits x 63 32)
    | 2 => if 4096 ≤ s.hostWaits (claspDie id) then { s with stalledOps := s.stalledOps ++ [(who, x)] } else s.doArrive who id (bits x 63 32)
    | 3 => s.doReset who id
    | _ => s.doFail who id

/-! ## The commands -/

/-- CLASP_SIGNAL (R469). -/
def execClaspSignal (who : ClaspAgent) (id n : Nat) (s : State) : Host.Outcome State Fault Refusal := s.unlessDown <| .next (s.doSignal who id n)

/-- CLASP_WAIT (R470). -/
def execClaspWait (who : ClaspAgent) (id target : Nat) (s : State) : Host.Outcome State Fault Refusal := s.unlessDown <| .next (s.doWait who id target)

/-- CLASP_ARRIVE (R472). -/
def execClaspArrive (who : ClaspAgent) (id target : Nat) (s : State) : Host.Outcome State Fault Refusal := s.unlessDown <| .next (s.doArrive who id target)

/-- CLASP_RESET (R474). -/
def execClaspReset (who : ClaspAgent) (id : Nat) (s : State) : Host.Outcome State Fault Refusal := s.unlessDown <| .next (s.doReset who id)

/-- CLASP_FAIL (R469). -/
def execClaspFail (who : ClaspAgent) (id : Nat) (s : State) : Host.Outcome State Fault Refusal := s.unlessDown <| .next (s.doFail who id)

end Sys2Proof.Machine
end

