-- ==== Sys2Proof/Machine/Pages.lean ====
section
/-! DEFINITION. The pages of the block pool: free pages, objects and their lists, quarantine and
retirement (R436 to R442). -/

namespace Sys2Proof.Machine

/-- 4 KiB frames of a page of a pool, and its pages. -/
def PoolRec.step (p : PoolRec) : Nat := if p.kind = 1 then 512 else 1
def PoolRec.pages (p : PoolRec) : Nat := p.len / (p.step * 4096)
def PoolRec.first (p : PoolRec) : Nat := p.phys / 4096

/-- Does a pool hold a frame? -/
def PoolRec.has (p : PoolRec) (f : Nat) : Bool :=
  p.kind != 2 && decide (p.first ≤ f) && decide (f < p.first + p.pages * p.step)

/-- A page. -/
def State.page (s : State) (f : Nat) : Page := mget s.bpm.pages f {}

/-- Sets a page. -/
def State.setPage (s : State) (f : Nat) (p : Page) : State := { s with bpm := { s.bpm with pages := mput s.bpm.pages f p } }

/-- Pages of a pool in a state other than FREE. -/
def State.usedIn (s : State) (p : PoolRec) : List (Nat × Page) :=
  s.bpm.pages.filter (fun x => p.has x.1 && x.2.state != .free)

/-- The batch area: the first 2 MiB of the lowest SESSION region of the unit itself (R493). -/
def Setting.batchArea (t : Setting) (u : Nat) : Option RegionRec :=
  (t.regions.filter (fun r => r.owner == t.top u && r.cls == .session)).foldl (fun b r =>
    match b with
    | none => some r
    | some q => if r.ua < q.ua then some r else b) none

/-- The pool that holds a unit's batch area. -/
def Setting.batchPool (t : Setting) (u : Nat) : Option PoolRec :=
  (t.batchArea u).bind (fun r => t.pools.find? (fun p => p.kind == 0 && decide (p.phys ≤ r.phys) && decide (r.phys < p.phys + p.len)))

/-- The frames of the batch areas, which the pool never allocates (R493): first frame of each. -/
def Setting.batchFrames (t : Setting) : List Nat :=
  (t.services.filterMap (fun v => if v.sessions then (t.batchArea (t.svcUnit v)).map (fun r => r.phys / 4096) else none)).eraseDups

/-- FREE pages of a pool, the batch areas left out. -/
def State.freeIn (s : State) (p : PoolRec) : Nat :=
  let areas := if p.kind = 0 then s.set.cur.batchFrames.filter p.has else []
  p.pages - 512 * areas.length - ((s.usedIn p).filter (fun x => !areas.any (fun a => decide (a ≤ x.1) && decide (x.1 < a + 512)))).length

/-- Pages of a pool in a state. -/
def State.countIn (s : State) (p : PoolRec) (st : PageState) : Nat :=
  (s.bpm.pages.filter (fun x => p.has x.1 && x.2.state == st)).length

/-- The lowest FREE page from frame `f` on, with fuel. -/
def State.seekFree (s : State) (p : PoolRec) : Nat → Nat → Option Nat
  | 0, _ => none
  | n + 1, f =>
    if !p.has f then none
    else match s.set.cur.batchFrames.find? (fun a => p.kind == 0 && decide (a ≤ f) && decide (f < a + 512)) with
      | some a => s.seekFree p n (a + 512)
      | none => if (s.page f).state = .free then some f else s.seekFree p n (f + p.step)

/-- The lowest FREE page of a pool. -/
def State.firstFree (s : State) (p : PoolRec) : Option Nat := s.seekFree p ((s.usedIn p).length + s.set.cur.batchFrames.length + 1) p.first

/-- Takes a page for an owner: it is ALLOC at once (R321). -/
def State.takePage (s : State) (owner f : Nat) : State :=
  s.setPage f { s.page f with state := .alloc, owner, head := false, waitsFor := [] }

/-- Takes up to `n` pages from pools in order; the frames taken. -/
def State.takePages (s : State) (owner : Nat) : Nat → List PoolRec → List Nat → State × List Nat
  | 0, _, got => (s, got)
  | n + 1, ps, got =>
    match ps.findSome? s.firstFree with
    | none => (s, got)
    | some f => (s.takePage owner f).takePages owner n ps (got ++ [f])

/-- Runs of 16 entries that a list of `n` pages takes, those in use, and the area (R436). -/
def listRuns (n : Nat) : Nat := ceilDiv (n + 1) 16
def State.runsUsed (s : State) : Nat := (s.bpm.lists.map (fun p => listRuns p.2.length)).foldl (· + ·) 0
def listArea : Nat := 3932160

/-- Makes an object of frames already taken: its head, the back links and its list. The list's place in
the page-list area is a free value. -/
def State.mkObject (s : State) (frames : List Nat) : State × Nat :=
  match frames with
  | [] => (s, 0)
  | h :: _ =>
    let (v, s) := s.fresh
    let s := frames.foldl (fun s f => s.setPage f { s.page f with link := h }) s
    let s := s.setPage h { s.page h with head := true, link := v % 62914560 }
    let hd := h + (s.page h).gen % 256 * 2 ^ 32
    ({ s with bpm := { s.bpm with lists := mput s.bpm.lists hd frames } }, hd)

/-- The KIND pools of an owner in image order. -/
def Setting.poolsOf (t : Setting) (owner kind : Nat) : List PoolRec :=
  t.pools.filter (fun p => p.kind == kind && p.owner == owner)

/-- Allocates an object whole, or takes nothing and answers a status (R440, R436). -/
def State.allocate (s : State) (owner kind n : Nat) (pools : List PoolRec) : State × Nat × Nat :=
  if (pools.map s.freeIn).foldl (· + ·) 0 < n then (s, 0, St.bpmPoolEmpty)
  else if listArea < s.runsUsed + listRuns n then (s, 0, St.bpmListFull)
  else
    let (s, fs) := s.takePages owner n pools []
    let (s, h) := s.mkObject fs
    let _ := kind
    (s, h, 0)

/-- Serials of the slices of an owner that run now. -/
def State.runningOf (s : State) (owner : Nat) : List Nat :=
  s.units.filterMap (fun p => if s.set.cur.top p.1 = owner then p.2.slice.map (·.serial) else none)

/-- Is a slice still running? -/
def State.sliceRuns (s : State) (serial : Nat) : Bool :=
  s.units.any (fun p => (p.2.slice.map (·.serial)) == some serial)

/-- Moves the pages of an object to QUARANTINE: GEN + 1 (R439). -/
def State.quarantine (s : State) (h : Nat) : State :=
  let w := s.runningOf (s.page (hFrame h)).owner
  (mget s.bpm.lists h []).foldl (fun s f =>
    let p := s.page f
    s.setPage f { p with state := .quarantine, gen := (p.gen + 1) % 256, head := false, waitsFor := w }) s

/-- Does a handle name an ALLOC head page of its generation? -/
def State.handleLive (s : State) (h : Nat) : Bool :=
  let p := s.page (hFrame h)
  p.state == .alloc && p.head && p.gen == hGen h

/-- Frees an object for a requester (R441): `none` is the privileged view. -/
def State.freeObj (s : State) (requester : Option Nat) (h : Nat) : State × Nat :=
  if !s.handleLive h then
    let s := { s with bpm := { s.bpm with errCount := (s.bpm.errCount + 1) % 2 ^ 64 } }
    (s.raiseG St.bpmStale (h % 2 ^ 40 + (requester.getD 0xFFFF) * 2 ^ 48) (poolAgent (homeDie (hFrame h * 4096))) (requester.getD 0xFFFF), St.bpmStale)
  else if requester.any (fun u => s.set.cur.top u != (s.page (hFrame h)).owner) then
    let s := { s with bpm := { s.bpm with errCount := (s.bpm.errCount + 1) % 2 ^ 64 } }
    (s.raiseG St.bpmNotOwner (h % 2 ^ 40 + (requester.getD 0xFFFF) * 2 ^ 48) (poolAgent (homeDie (hFrame h * 4096))) (requester.getD 0xFFFF), St.bpmNotOwner)
  else (s.quarantine (h % 2 ^ 40), 0)

/-- Returns an object to its pool without a requester: a slice failure or a session close. -/
def State.dropObj (s : State) (h : Nat) : State := if s.handleLive h then s.quarantine (h % 2 ^ 40) else s

/-- Retires a page now (R422, R425). -/
def State.retirePage (s : State) (f : Nat) : State :=
  let p := s.page f
  if p.state = .retired then s
  else
    { s with bpm := { s.bpm with pages := mput s.bpm.pages f { p with state := .retired, head := false, mark := false }
                                 retired := (s.bpm.retired + 1) % 2 ^ 64 } }

/-- Ends the quarantine of a page whose slices have settled: FREE, or RETIRED when marked (R439, R425). -/
def State.endQuarantine (s : State) (f : Nat) : State :=
  let p := s.page f
  if p.state = .quarantine ∧ !(p.waitsFor.any s.sliceRuns) then
    if p.mark ∨ p.holed then s.retirePage f
    else s.setPage f { p with state := .free, owner := 0, waitsFor := [], link := 0 }
  else s

/-- Removes the lists of objects none of whose pages is still ALLOC or QUARANTINE under them. -/
def State.dropLists (s : State) : State :=
  { s with bpm := { s.bpm with
      lists := s.bpm.lists.filter (fun p => s.handleLive p.1 ||
        p.2.any (fun f => (s.page f).state == .quarantine && !(s.bpm.lists.any (fun q => s.handleLive q.1 && q.2.contains f)))) } }

end Sys2Proof.Machine
end

