-- ==== Sys2Proof/Machine/Tensor.lean ====
section
/-! DEFINITION. Tensors in memory: a command's running state (`CmdM`), reading and writing runs of DENSE
and BLOCK tensors with their pads, scales and poison, and the index lists of gather and scatter
(chapters 08, 09). -/

namespace Sys2Proof.Machine

/-- What a command carries while it executes: the machine, and whether it read or wrote poison (R418). -/
structure CSt where
  s : State
  poison : Bool := false
  deriving Repr

/-- A command's execution; a fault keeps the accesses made before it (R257). -/
abbrev CmdM := EStateM Flt CSt

/-- The machine as the command has left it. -/
def getS : CmdM State := do return (← get).s

/-- Changes the machine. -/
def modS (f : State → State) : CmdM Unit := modify (fun x => { x with s := f x.s })

/-- Notes that the command met poison. -/
def notePoison (p : Bool) : CmdM Unit := if p then modify (fun x => { x with poison := true }) else pure ()

/-- Draws a free value. -/
def drawFree : CmdM Nat := do
  let x ← get
  set { x with s := x.s.fresh.2 }
  return x.s.fresh.1

/-- Draws a fresh key, from which `freeAt` makes any number of unrelated free values. -/
def drawKey : CmdM Nat := do
  let x ← get
  set { x with s := x.s.fresh.2 }
  return x.s.freeCtr

/-- Free value `i` of a key. -/
def freeAt (key i : Nat) : Nat := Config.free (key + 2 ^ 64 * (i + 1))

/-- Lifts a checked access. -/
def liftE {α : Type} : Except Flt α → CmdM α
  | .ok a => pure a
  | .error e => throw e

/-- Reads bytes at `off` from an address field (R281, R417). -/
def rd (c : Ctx) (kind x off n rsn : Nat) : CmdM (List PByte) := do
  let bs ← liftE ((← getS).rdBytes c kind x off n rsn)
  notePoison (bs.any (·.2))
  modS (fun s => s.meterRead c kind x off n)
  return bs

/-- Writes bytes at `off` from an address field. -/
def wr (c : Ctx) (kind x off : Nat) (bs : List PByte) (rsn : Nat) : CmdM Unit := do
  notePoison (bs.any (·.2))
  let s ← liftE ((← getS).wrBytes c kind x off bs rsn)
  modS (fun _ => s)

/-! ## Elements -/

/-- Cuts bytes into `n` elements of `k` bytes. -/
def unpackBig (k : Nat) : Nat → List PByte → List AccElem
  | 0, _ => []
  | n + 1, bs =>
    { bits := leNat ((bs.take k).map (·.1)), poison := (bs.take k).any (·.2) } :: unpackBig k n (bs.drop k)

/-- Cuts bytes into elements of `w` bits, fewer than 8, `q` to a byte. -/
def unpackSmall (w q : Nat) (bs : List PByte) : List AccElem :=
  bs.flatMap (fun p => (List.range q).map (fun i => { bits := (p.1.toNat >>> (i * w)) % 2 ^ w, poison := p.2 }))

/-- `n` elements of `w` bits of a byte list (R269). -/
def unpack (w n : Nat) (bs : List PByte) : List AccElem :=
  if 8 ≤ w then unpackBig (w / 8) n bs else (unpackSmall w (8 / w) bs).take n

/-- Packs elements of fewer than 8 bits. -/
def packSmallP (w q : Nat) : Nat → List AccElem → List PByte
  | 0, _ => []
  | n + 1, es =>
    (BitVec.ofNat 8 ((es.take q).foldr (fun e a => e.bits % 2 ^ w + 2 ^ w * a) 0), (es.take q).any (·.poison))
      :: packSmallP w q n (es.drop q)

/-- Packs elements into bytes with their marks (R269). -/
def packP (w : Nat) (es : List AccElem) : List PByte :=
  if 8 ≤ w then es.flatMap (fun e => (leBytes (w / 8) e.bits).map (fun b => (b, e.poison)))
  else packSmallP w (8 / w) (ceilDiv es.length (8 / w)) es

/-- An element that a pad or ZERO value supplies. -/
def plain (x : Nat) : AccElem := { bits := x, poison := false }

/-- The low bits of a pad or ZERO field that an element of the format holds; a W40 element takes FP32 bits
in its upper 32 bits (Table 8-3). -/
def Desc.enc (d : Desc) (x : Nat) : Nat :=
  if d.fmt = .w40 then x % 2 ^ 32 * 256 else x % 2 ^ d.fmt.width

/-- The pad element of a descriptor. -/
def Desc.padE (d : Desc) : AccElem := plain (d.enc d.pad)

/-- The ZERO element of a descriptor. -/
def Desc.zeroE (d : Desc) : AccElem := plain (d.enc d.zero)

/-- Pads a list of elements to `n` with `e`. -/
def padTo (n : Nat) (e : AccElem) (es : List AccElem) : List AccElem :=
  es.take n ++ List.replicate (n - es.length) e

/-! ## Reading -/

/-- Where a run lies: an address field and an offset from it, with bits [4:0] of the run address
cleared (R267, R270). -/
def Desc.runLoc (d : Desc) (xs : List Nat) : Nat × Nat :=
  if d.kind = 1 then (d.base % 2 ^ 40, clr32 (fieldOff 1 d.base + d.runOff xs))
  else (clr32 (fieldAddr d.kind d.base + d.runOff xs), 0)

/-- Reads the stored elements of a DENSE run. -/
def rdDense (c : Ctx) (d : Desc) (xs : List Nat) (n rsn : Nat) : CmdM (List AccElem) := do
  let w := d.fmt.width
  let (x, off) := d.runLoc xs
  return unpack w n (← rd c d.kind x off (ceilDiv (n * w) 8) rsn)

/-- A mask directory entry: MASK, VOFF or SOFF as the read takes it, and poison (R301, R308, R315). -/
structure DirEntry where
  mask : Nat
  off : Nat
  poison : Bool
  deriving DecidableEq, Repr

/-- Reads a directory entry. -/
def rdDir (c : Ctx) (d : Desc) (w : Nat) : CmdM DirEntry := do
  let bs ← rd c d.kind d.mask (16 * w) 16 St.rRegion
  let v := leNat (bs.map (·.1))
  return { mask := bits v 63 0, off := if d.viaShadow then bits v 127 96 else bits v 95 64, poison := bs.any (·.2) }

/-- The address field that holds a BLOCK tensor's values (R308). -/
def Desc.valField (d : Desc) : Nat := if d.viaShadow then d.shadow else d.base

/-- Reads the first `n` elements of group `g` of a run of a BLOCK tensor (R295, R302, R315). -/
def rdBlock (c : Ctx) (d : Desc) (xs : List Nat) (g n : Nat) : CmdM (List AccElem) := do
  let b := d.lin xs * d.nG + g
  let e ← rdDir c d (b / 64)
  let j := b % 64
  let es ←
    if bit e.mask j then do
      let w := d.fmt.width
      let bs ← rd c d.kind d.valField (32 * e.off + popBelow e.mask j * d.fmt.group) (ceilDiv (n * w) 8) St.rAccess
      pure (unpack w n bs)
    else pure (List.replicate n d.zeroE)
  return if e.poison then es.map (fun a => { a with poison := true }) else es

/-- Reads the elements of a run that lie within EXTENT0, in DENSE or BLOCK form. -/
def rdStored (c : Ctx) (d : Desc) (xs : List Nat) (rsn : Nat) : CmdM (List AccElem) := do
  if d.sparsity = 0 then rdDense c d xs (d.e 0) rsn
  else
    let gs ← (List.range d.nG).mapM (fun g => rdBlock c d xs g (min 64 (d.e 0 - 64 * g)))
    return gs.flatten

/-- The scale byte of a block of 32 positions of a run: stored, or 0x7F without a scale pointer or beyond
the extent (R264, R274, R675). -/
def rdScale (c : Ctx) (d : Desc) (xs : List Nat) (blk : Nat) : CmdM PByte := do
  if d.mx = 0 ∨ d.e 0 ≤ 32 * blk ∨ !d.inside xs then return (0x7F, false)
  else
    let bs ← rd c d.kind d.mx (d.lin xs * d.scaleRow + blk) 1 St.rRegion
    return bs.headD (0x7F, false)

/-- Poisons the elements whose block's scale is poisoned (R418). -/
def scalePoison (scs : List PByte) (es : List AccElem) : List AccElem :=
  ((List.range es.length).zip es).map (fun (i, e) =>
    if (scs.getD (i / 32) (0, false)).2 then { e with poison := true } else e)

/-- A run of a source: its stored elements, the scale bytes of its blocks, and whether a poisoned gather
index names it (R287). -/
structure Run where
  es : List AccElem
  scales : List PByte
  bad : Bool := false
  deriving Repr

/-- Reads a run of a source tensor, with its scales when they are used; a position beyond the extents
reads as pad (R260, R281). -/
def rdRun (c : Ctx) (d : Desc) (xs : List Nat) (rsn : Nat) (sc : Bool) : CmdM Run := do
  if d.empty || !d.inside xs then return { es := [], scales := [] }
  else
    let scs ← if d.mx = 0 || !sc then pure [] else (List.range (ceilDiv (d.e 0) 32)).mapM (rdScale c d xs)
    let es ← rdStored c d xs rsn
    return { es := scalePoison scs es, scales := scs }

/-! ## Writing -/

/-- The elements of a DENSE run as stored: `es` up to EXTENT0, then the descriptor's pad to the end of the
last group and of the LT2 padding half (R262, R268). -/
def Desc.full (d : Desc) (es : List AccElem) : List AccElem :=
  padTo (d.runBytes * 8 / d.fmt.width) d.padE (es.take (d.e 0))

/-- The bytes of a DENSE run; a run of a poisoned index is poisoned whole (R287). -/
def Desc.runP (d : Desc) (es : List AccElem) (bad : Bool) : List PByte :=
  let bs := packP d.fmt.width (d.full es)
  if bad then bs.map (fun p => (p.1, true)) else bs

/-- Writes a DENSE run. -/
def wrRun (c : Ctx) (d : Desc) (xs : List Nat) (es : List AccElem) (bad : Bool := false) : CmdM Unit := do
  if d.empty || !d.inside xs then pure ()
  else
    let (x, off) := d.runLoc xs
    wr c d.kind x off (d.runP es bad) St.rRegion

/-- Writes the scale row of a destination run (R675). -/
def wrScales (c : Ctx) (d : Desc) (xs : List Nat) (scs : List PByte) : CmdM Unit := do
  if d.mx = 0 || d.empty || !d.inside xs then pure ()
  else
    wr c d.kind d.mx (d.lin xs * d.scaleRow)
      ((List.range (ceilDiv (d.e 0) 32)).map (fun i => scs.getD i (0x7F, false))) St.rRegion

/-- Leaves `n` bytes at `off` from an address field undefined; every access is checked (R280). -/
def wrFree (c : Ctx) (kind x off n rsn : Nat) : CmdM Unit := do
  if kind = 2 then
    let a := fieldAddr 2 x + off
    if inPart c.u a n then
      modS (fun s => { s with freeCtr := s.freeCtr + 1 }.updBead c.b (fun b => b.spUndefine a n s.freeCtr))
    else throw ⟨St.mapOverflow, St.rScratch, 0⟩
  else
    (linePieces (linePos kind x off) n).forM (fun (o, l) => do
      let p ← liftE ((← getS).pa c kind x (off + o) true rsn)
      modS (fun s => (s.memUndef p l).updSlice c.uid (fun sl => { sl with work := addWork sl.work p l })))

/-- Leaves the runs of a DENSE destination undefined (R280). -/
def wrUndef (c : Ctx) (d : Desc) : CmdM Unit := do
  if d.empty then pure ()
  else
    (positions d.ext.tail).forM (fun xs => do
      let (x, off) := d.runLoc xs
      wrFree c d.kind x off d.runBytes St.rRegion)

/-! ## Gather and scatter (R285 to R290) -/

/-- The index list of an index descriptor, in element order: signed value and poison. -/
def rdIndex (c : Ctx) (d : Desc) : CmdM (List (Int × Bool)) := do
  if d.empty then return []
  else
    let rs ← (positions d.ext.tail).mapM (fun xs => rdDense c d xs (d.e 0) St.rRegion)
    return rs.flatten.map (fun e => (toSigned 32 e.bits, e.poison))

/-- A legal index descriptor: INT32, dense, untransposed, not itself gathering (R285, Table 8-6). -/
def Desc.indexOk (d : Desc) : Bool :=
  d.legal && d.fmtCode == 0x0A && d.sparsity == 0 && !d.transpose && d.gMode == 0

/-- Replaces dimension `k` (1 to 5) of a position by `v`. -/
def setDim (xs : List Nat) (k v : Nat) : List Nat := xs.set (k - 1) v

/-- Does GATHER act on a read descriptor, SCATTER or SCATTER_ADD on a written one (R286)? -/
def Desc.gathers (d : Desc) : Bool := d.gMode == 1
def Desc.scatters (d : Desc) : Bool := d.gMode == 2 || d.gMode == 3

/-- One element of a scatter-add in the destination's format (R288): the sum, poisoned with either. -/
def addElem (f : ElemFmt) (a b : AccElem) : AccElem :=
  { bits := if f.isInt then (a.bits + b.bits) % 2 ^ 32
            else encodeFp f (Fp.add (decodeFp f a.bits) (decodeFp f b.bits))
    poison := a.poison || b.poison }

/-- Adds a run into a destination run element by element; the remainder of the last channel group takes the pad value (R262,
R288). -/
def addRun (c : Ctx) (d : Desc) (xs : List Nat) (es : List AccElem) : CmdM Unit := do
  if d.empty || !d.inside xs then pure ()
  else
    let n := min es.length (d.e 0)
    let old ← rdDense c d xs n St.rRegion
    let (x, off) := d.runLoc xs
    wr c d.kind x off (packP d.fmt.width (List.zipWith (addElem d.fmt) old (es.take n))) St.rRegion
    wr c d.kind x (off + d.e 0 * d.fmt.width / 8) (packP d.fmt.width (List.replicate (64 * d.nG - d.e 0) d.padE)) St.rRegion

end Sys2Proof.Machine
end

