-- ==== Sys2Proof/Machine/Moves.lean ====
section
/-! DEFINITION. LOAD, STORE and COPY: the element moves with transposition, gather and scatter
(R281 to R290, R675), the verbatim moves of compressed forms (R310 to R312), and the output compressor
with its LT2 shadow (R306, R307, R314 to R323). -/

namespace Sys2Proof.Machine

/-- What a move acts with: its two descriptors, whether it is a STORE, and the index descriptors of the
acting gather and scatter (R286). -/
structure Move where
  src : Desc
  dst : Desc
  store : Bool
  gIdx : Option Desc
  sIdx : Option Desc
  deriving DecidableEq, Repr

/-- The move that a command word names (R396). -/
def moveOf (x : Bead) (store : Bool) (w : CmdWord) : Move :=
  let s := x.desc (fld w 15 8)
  let d := x.desc (fld w 23 16)
  { src := s, dst := d, store
    gIdx := if s.gathers then some (x.desc s.idxDesc) else none
    sIdx := if d.scatters then some (x.desc d.idxDesc) else none }

namespace Move

/-- Does the output compressor act (R314)? COMPRESS counts on a STORE only (R310). -/
def compress (m : Move) : Bool := m.store && m.dst.compress

/-- Does the move transpose (R283)? -/
def turns (m : Move) : Bool := m.src.transpose != m.dst.transpose

/-- Descriptor indices named (check 2). -/
def descs (m : Move) : List Nat :=
  [m.src.entry, m.dst.entry] ++ (m.gIdx.map (·.entry)).toList ++ (m.sIdx.map (·.entry)).toList

/-- Is the pair of forms one of Table 9-6? -/
def formOk (m : Move) : Bool :=
  if m.compress then decide (m.src.sparsity ≤ 1) && m.dst.sparsity == 1
  else (m.src.sparsity == m.dst.sparsity) || (m.src.sparsity == 1 && m.dst.sparsity == 0)

/-- A TRANSPOSE flag that Table 8-6 leaves undefined. -/
def badTurn (d : Desc) : Bool := d.transpose && (d.sparsity != 0 || d.mx != 0 || d.fmtCode == 0x0B)

/-- An acting gather or scatter with a wrong DIM or index descriptor (Table 8-6). -/
def badIndex (d : Desc) (i : Option Desc) : Bool :=
  i.any (fun x => d.gDim == 0 || decide (d.rank ≤ d.gDim) || !x.indexOk)

/-- Does the move give undefined data (R280, R288, R292, R310)? -/
def undefined (m : Move) : Bool :=
  !m.src.legal || !m.dst.legal || m.src.fmtCode != m.dst.fmtCode || badTurn m.src || badTurn m.dst ||
  badIndex m.src m.gIdx || badIndex m.dst m.sIdx || !m.formOk ||
  (m.dst.gMode == 3 && !(m.dst.sparsity == 0 && [7, 8, 9, 10].contains m.dst.fmtCode)) ||
  ((m.src.sparsity != 0 || m.dst.sparsity != 0) &&
    (m.src.transpose || m.dst.transpose || m.gIdx.isSome || m.sIdx.isSome)) ||
  (m.src.sparsity != 0 && m.src.gMode != 0) || (m.dst.sparsity != 0 && m.dst.gMode != 0)

/-- Are the source's scales used: written to the destination, or entering a shadow (R306, R675)? -/
def useScales (m : Move) : Bool :=
  m.dst.mx != 0 || (m.store && m.dst.lt2Shadow) || (m.compress && !m.dst.reservedMode)

/-- Extents of the source as the destination sees it: `j` in place of the gathered dimension, then the
transposition, which reaches whole blocks of 64 (R284, R285). -/
def seen (m : Move) : List Nat :=
  let e := match m.gIdx with
    | some i => m.src.ext.set m.src.gDim (i.ext.foldl (· * ·) 1)
    | none => m.src.ext
  if m.turns then roundUp (nth e 1) 64 :: roundUp (nth e 0) 64 :: e.drop 2 else e

/-- Extents of the part of a DENSE destination that the move reaches: all of a scattered dimension
(R287). -/
def reach (m : Move) : List Nat :=
  (List.range 6).map (fun i =>
    if i = 0 then (if m.seen.any (· == 0) then 0 else m.dst.e 0)
    else if m.sIdx.isSome && i == m.dst.gDim then m.dst.e i else min (m.dst.e i) (nth m.seen i))

/-- The mask directory of a compressed tensor. -/
def dirHull (d : Desc) (wr : Bool) : List Rng := fieldRng d d.mask d.dirBytes wr

/-- Value bytes that a verbatim move may write (R312). -/
def valLimit (m : Move) : Nat := m.src.size - m.src.dirBytes

/-- The runs of a dense shadow (R307). -/
def shadowRun (d : Desc) : Nat := roundUp (d.nG * 16) 32

/-- Hulls of the source. -/
def srcHull (m : Move) : List Rng :=
  let d := m.src
  (if d.sparsity = 0 then denseHull d d.ext (ceilDiv (d.e 0 * d.fmt.width) 8) false
   else if d.sparsity = 2 then denseHull d d.ext (d.valArea + d.codeArea) false
   else if d.empty then [] else dirHull d false) ++
  (if m.useScales then scaleHull d false else []) ++
  ((m.gIdx.toList ++ m.sIdx.toList).flatMap (fun i => denseHull i i.ext (i.e 0 * 4) false))

/-- Hulls of the destination (R255, R312, R316). -/
def dstHull (m : Move) : List Rng :=
  let d := m.dst
  if d.empty then []
  else if m.compress && d.sparsity == 1 then
    if d.reservedMode then
      dirHull d true ++ fieldRng d d.base d.worstVal true ++
        (if d.lt2Shadow then fieldRng d d.shadow d.worstShadow true else []) ++ scaleHull d true
    else []
  else if d.sparsity = 0 then
    denseHull d m.reach d.runBytes true ++
      (if m.reach.any (· == 0) then []
       else scaleHull { d with ext := m.reach } true ++
         (if m.store && d.lt2Shadow then fieldRng d d.shadow (d.runs * shadowRun d) true else []))
  else if d.sparsity = 2 then denseHull d m.reach (d.valArea + d.codeArea) true ++ scaleHull d true
  else dirHull d true ++ fieldRng d d.base m.valLimit true ++ scaleHull d true

/-- Every hull of the move. -/
def hulls (m : Move) : List Rng := m.srcHull ++ m.dstHull

end Move

/-! ## Undefined moves -/

/-- Leaves the fields that a pool-mode STORE writes back undefined (R280, Table 9-7). -/
def entryUndef (c : Ctx) (d : Desc) : CmdM Unit :=
  [(0x00, 8), (0x0B, 1), (0x58, 8), (0x60, 8), (0x68, 8), (0x70, 6)].forM (fun p =>
    modS (fun s => { s with freeCtr := s.freeCtr + 1 }.updBead c.b (fun x => x.spUndefine (entryAt d.entry + p.1) p.2 s.freeCtr)))

/-- Leaves an object undefined; every access is checked (R280, R433). -/
def objUndef (c : Ctx) (h : Nat) : CmdM Unit := do
  let s ← getS
  let n := (mget s.bpm.lists h []).length * pageBytes (s.set.cur.frameKind (hFrame h))
  wrFree c 1 h 0 (max 1 n) St.rAccess

/-- Leaves the destination undefined inside the hulls that its form gives (R280). -/
def moveUndef (c : Ctx) (m : Move) : CmdM Unit := do
  let d := m.dst
  if d.sparsity = 0 then wrUndef c { d with ext := m.reach.set 0 (d.e 0) }
  else if m.compress && !d.reservedMode then entryUndef c d
  else if d.kind = 1 then
    ((if d.sparsity = 2 then [d.base] else [d.base, d.mask]).map (· % 2 ^ 40)).eraseDups.forM (objUndef c)
  else m.dstHull.forM (fun r => wrFree c r.kind r.lo 0 r.len St.rRegion)

/-! ## Element moves -/

/-- The position that a list of indices gives for `j`: nothing when it is poisoned, negative, beyond the
extent `n` or beyond the list (R287). -/
def indexAt (l : List (Int × Bool)) (j n : Nat) : Option Nat :=
  match l[j]? with
  | some (i, false) => if 0 ≤ i ∧ i < n then some i.toNat else none
  | _ => none

/-- Reads the run of the source that stands at a position of the gathered view (R285, R287). -/
def gatherRun (c : Ctx) (m : Move) (g : Option (List (Int × Bool))) (xs : List Nat) : CmdM Run := do
  match g with
  | none => rdRun c m.src xs St.rRegion m.useScales
  | some l =>
    let j := nth xs (m.src.gDim - 1)
    match indexAt l j (m.src.e m.src.gDim) with
    | some i => rdRun c m.src (setDim xs m.src.gDim i) St.rAccess m.useScales
    | none => return { es := [], scales := [], bad := (l.getD j (0, false)).2 }

/-- The elements of a run up to `n`, supplied by the source's pad beyond those it holds (R260, R282). -/
def supply (m : Move) (r : Run) (n : Nat) : List AccElem :=
  padTo n { m.src.padE with poison := r.bad } r.es

/-- LT2 quantisation of an element under the destination's TAU and ZERO and the scale of its block
(R306). -/
def quantE (d : Desc) (scale : PByte) (e : AccElem) : AccElem :=
  let x :=
    if d.fmt = .int4 ∨ d.fmt = .int8 then Fp.ofInt (decodeInt d.fmt e.bits - decodeInt d.fmt (d.enc d.zero))
    else if d.fmt = .fp4 ∨ d.fmt = .e4m3 ∨ d.fmt = .e5m2 then Fp.mul (decodeElem d.fmt e.bits) (e8m0 scale.1.toNat)
    else decodeElem d.fmt e.bits
  { bits := quantLt2 (decodeFp .fp32 d.tau) x, poison := e.poison || scale.2 }

/-- Quantises a run whose blocks of 32 have the given scales. -/
def quantRun (d : Desc) (scs : List PByte) (es : List AccElem) : List AccElem :=
  ((List.range es.length).zip es).map (fun (i, e) => quantE d (scs.getD (i / 32) (0x7F, false)) e)

/-- Writes one run of a DENSE destination with its scales and dense shadow; a scatter-add adds the
elements within both extents (R288, R307, R675). -/
def putRun (c : Ctx) (m : Move) (ys : List Nat) (r : Run) (n : Nat) : CmdM Unit := do
  let d := m.dst
  if d.gMode = 3 then addRun c d ys ((supply m r n).take n)
  else
    let es := supply m r (d.e 0)
    wrRun c d ys es r.bad
    if m.store && d.lt2Shadow && d.inside ys then
      let q := quantRun d r.scales (padTo (Move.shadowRun d * 4) d.padE es)
      wr c d.kind d.shadow (d.lin ys * Move.shadowRun d) (packP 2 q) St.rRegion
    else pure ()
  wrScales c d ys r.scales

/-- Where a run of the seen source lands (R286, R287). -/
def target (m : Move) (t : Option (List (Int × Bool))) (ys : List Nat) : Option (List Nat) :=
  match t with
  | none => if m.dst.inside ys then some ys else none
  | some l => (indexAt l (nth ys (m.dst.gDim - 1)) (m.dst.e m.dst.gDim)).bind
      (fun i => let ys := setDim ys m.dst.gDim i; if m.dst.inside ys then some ys else none)

/-- An untransposed element move, in source element order (R272). -/
def moveStraight (c : Ctx) (m : Move) (g t : Option (List (Int × Bool))) : CmdM Unit :=
  (positions m.seen.tail).forM (fun xs => do
    let r ← gatherRun c m g xs
    match target m t xs with
    | some ys => putRun c m ys r (nth m.seen 0)
    | none => pure ())

/-- A transposing element move (R283, R284): destination run y1 takes element y1 of every source run. -/
def moveTurned (c : Ctx) (m : Move) (g t : Option (List (Int × Bool))) : CmdM Unit :=
  let e1 := match m.gIdx with
    | some i => if m.src.gDim = 1 then i.ext.foldl (· * ·) 1 else m.src.e 1
    | none => m.src.e 1
  (positions (m.seen.drop 2)).forM (fun xs => do
    let rs ← (List.range e1).mapM (fun x1 => gatherRun c m g (x1 :: xs))
    (List.range (nth m.seen 1)).forM (fun y1 => do
      match target m t (y1 :: xs) with
      | some ys =>
        let es := rs.map (fun r => r.es.getD y1 { m.src.padE with poison := r.bad })
        putRun c m ys { es, scales := [] } e1
      | none => pure ()))

/-- An element move between a DENSE or BLOCK source and a DENSE destination. -/
def moveElems (c : Ctx) (m : Move) : CmdM Unit := do
  let g ← match m.gIdx with
    | some i => (do return some (← rdIndex c i))
    | none => pure none
  let t ← match m.sIdx with
    | some i => (do return some (← rdIndex c i))
    | none => pure none
  if m.seen.any (· == 0) then pure ()
  else if m.turns then moveTurned c m g t else moveStraight c m g t

/-! ## Verbatim moves -/

/-- A directory entry's 16 bytes. -/
def dirP (mask voff soff : Nat) (poison : Bool) : List PByte :=
  (leBytes 8 mask ++ leBytes 4 voff ++ leBytes 4 soff).map (fun b => (b, poison))

/-- Writes the whole dense scale array of a destination from the source's (R675). -/
def copyScales (c : Ctx) (m : Move) : CmdM Unit :=
  if m.dst.mx = 0 then pure ()
  else (positions m.dst.ext.tail).forM (fun xs => do
    let scs ← if m.src.mx = 0 || !m.src.inside xs then pure []
      else (List.range (ceilDiv (m.src.e 0) 32)).mapM (rdScale c m.src xs)
    wrScales c m.dst xs scs)

/-- A verbatim BLOCK or BOTH move, rebased (R311, R312). -/
def moveBlock (c : Ctx) (m : Move) : CmdM Unit := do
  if m.src.empty || m.dst.empty then pure ()
  else
    let es ← (List.range (m.src.segs + 1)).mapM (rdDir c m.src)
    let v0 := (es.map (·.off)).headD 0
    let vS := (es.map (·.off)).getLastD 0
    let n := min (32 * (vS - v0)) m.valLimit
    ((List.range es.length).zip es).forM (fun (w, e) =>
      wr c m.dst.kind m.dst.mask (16 * w) (dirP e.mask (e.off + 2 ^ 32 - v0) 0xFFFFFFFF e.poison) St.rRegion)
    let bs ← rd c m.src.kind m.src.valField (32 * v0) n St.rAccess
    wr c m.dst.kind m.dst.base 0 bs St.rRegion
    copyScales c m

/-- A 2:4 run copy with each descriptor's strides (Table 9-6). -/
def moveTwoFour (c : Ctx) (m : Move) : CmdM Unit := do
  if m.src.empty || m.dst.empty then pure ()
  else
    (positions m.src.ext.tail).forM (fun xs => do
      if m.dst.inside xs then
        let (a, o) := m.src.runLoc xs
        let bs ← rd c m.src.kind a o (m.src.valArea + m.src.codeArea) St.rRegion
        let (a, o) := m.dst.runLoc xs
        wr c m.dst.kind a o bs St.rRegion
      else pure ())
    copyScales c m

/-! ## The output compressor -/

/-- One compressed segment: its mask, its value bytes and its shadow bytes. -/
structure Seg where
  mask : Nat
  vals : List PByte
  shadow : List PByte
  deriving Repr

/-- A block with the scales of its two halves. -/
abbrev Blk := List AccElem × List PByte

/-- Is a block present: it holds poison, or an element other than ZERO (R293, R294, R315)? -/
def Desc.present (d : Desc) (b : Blk) : Bool := b.1.any (fun e => e.poison || e.bits != d.enc d.zero)

/-- Reads the blocks of one destination run: the source's elements, its pad, and the destination's pad in
the last group (R293). -/
def readBlocks (c : Ctx) (m : Move) (xs : List Nat) : CmdM (List Blk) := do
  let r ← rdRun c m.src xs St.rRegion m.useScales
  let es := padTo (64 * m.dst.nG) m.dst.padE (padTo (m.dst.e 0) m.src.padE (r.es.take (m.dst.e 0)))
  let scs := if m.src.mx = 0 then [] else r.scales
  return (List.range m.dst.nG).map (fun g =>
    ((es.drop (64 * g)).take 64, [scs.getD (2 * g) (0x7F, false), scs.getD (2 * g + 1) (0x7F, false)]))

/-- The bytes of one segment (R302, R307); the padding of a shadow segment has no stated value. -/
def segOf (d : Desc) (bs : List Blk) : CmdM Seg := do
  let on := bs.filter d.present
  let mask := (((List.range bs.length).zip bs).map (fun (j, b) => if d.present b then 2 ^ j else 0)).foldl (· + ·) 0
  let vals := packP d.fmt.width (on.flatMap (·.1))
  let pad := packP d.fmt.width (List.replicate ((roundUp vals.length 32 - vals.length) * 8 / d.fmt.width) d.padE)
  let f ← drawKey
  let sh := packP 2 (on.flatMap (fun b => quantRun d b.2 b.1))
  let shPad := (List.range (roundUp sh.length 32 - sh.length)).map (fun i => (BitVec.ofNat 8 (freeAt f i), false))
  return { mask, vals := vals ++ pad, shadow := sh ++ shPad }

/-- Cuts a list into pieces of 64, with fuel. -/
def cut64 {α : Type} : Nat → List α → List (List α)
  | 0, _ => []
  | n + 1, l => if l.isEmpty then [] else l.take 64 :: cut64 n (l.drop 64)

/-- The compressed segments of a STORE. -/
def compressSegs (c : Ctx) (m : Move) : CmdM (List Seg) := do
  let bs ← (positions m.dst.ext.tail).mapM (readBlocks c m)
  (cut64 (m.dst.segs + 1) bs.flatten).mapM (segOf m.dst)

/-- Allocates the pages of an object of `n` bytes for a pool-mode STORE (R318, R321, R436). -/
def storeObj (c : Ctx) (n : Nat) : CmdM Nat := do
  let s ← getS
  let ps := s.set.cur.poolsOf c.top 0
  let k := (ps.findIdx? (fun p => homeDie p.phys == c.b / 20)).getD 0
  let need := ceilDiv n 4096
  let (s1, fs) := s.takePages c.top (min need 65536) (ps.drop k ++ ps.take k) []
  let room := (listArea - s.runsUsed) * 16 - 1
  let fs' := fs.take room
  let s1 := (fs.drop room).foldl (fun s f => s.setPage f { s.page f with state := .free, owner := 0 }) s1
  let (s2, h) := s1.mkObject fs'
  modS (fun _ => s2.updSlice c.uid (fun sl => { sl with objs := if fs'.isEmpty then sl.objs else sl.objs ++ [h] }))
  if fs.length < min need 65536 then throw ⟨St.bpmPoolEmpty, 0, 0⟩
  else if fs'.length < fs.length then throw ⟨St.bpmListFull, 0, 0⟩
  else if 65536 < need then throw ⟨St.bpmObjTooLarge, 0, 0⟩
  else return h

/-- Writes a compressed tensor: directory, values and shadow at the given fields, the value bytes from
offset `v0` and the shadow from 0 (R301, R302, R307). -/
def putSegs (c : Ctx) (kind dir val sh v0 : Nat) (shadow : Bool) (segs : List Seg) : CmdM Unit := do
  let (v, o) ← segs.zipIdx.foldlM (fun (v, o) (g, w) => do
    wr c kind dir (16 * w) (dirP g.mask (v / 32) (if shadow then o / 32 else 0xFFFFFFFF) false) St.rRegion
    wr c kind val v g.vals St.rRegion
    if shadow then wr c kind sh o g.shadow St.rRegion else pure ()
    pure (v + g.vals.length, o + g.shadow.length)) (v0, 0)
  wr c kind dir (16 * segs.length) (dirP 0 (v / 32) (if shadow then o / 32 else 0xFFFFFFFF) false) St.rRegion

/-- Writes bytes of a field of a descriptor entry (R319, R325). -/
def putEntry (c : Ctx) (d : Desc) (off n x : Nat) : CmdM Unit :=
  modS (fun s => s.putSp c.b (entryAt d.entry + off) ((leBytes n x).map (fun b => (b, false))))

/-- A compressing STORE (R314 to R323). -/
def moveCompress (c : Ctx) (m : Move) : CmdM Unit := do
  let d := m.dst
  if d.empty then putEntry c d 0x70 6 d.dirBytes
  else
    let segs ← compressSegs c m
    let size := d.dirBytes + (segs.map (·.vals.length)).foldl (· + ·) 0
    if d.reservedMode then
      putSegs c d.kind d.mask d.base d.shadow 0 d.lt2Shadow segs
      copyScales c m
    else
      let scs := if m.src.mx = 0 then 0 else d.runs * d.scaleRow
      let v0 := d.dirBytes + scs
      let h ← storeObj c (v0 + (size - d.dirBytes))
      let sh ← if d.lt2Shadow then
          (do let n := (segs.map (·.shadow.length)).foldl (· + ·) 0
              if n = 0 then pure 0 else storeObj c n)
        else pure 0
      putSegs c 1 h h sh v0 d.lt2Shadow segs
      let mx := if m.src.mx = 0 then 0 else h + d.dirBytes / 32 * 2 ^ 40
      copyScales c { m with dst := { d with mx, flags := d.flags / 4 * 4 + 1 } }
      putEntry c d 0x00 8 h
      putEntry c d 0x0B 1 (d.flags / 4 * 4 + 1)
      putEntry c d 0x60 8 h
      putEntry c d 0x58 8 mx
      if d.lt2Shadow then putEntry c d 0x68 8 sh else pure ()
    putEntry c d 0x70 6 size

/-! ## The commands -/

/-- The effect of LOAD, STORE and COPY (R396). -/
def moveRun (c : Ctx) (m : Move) : CmdM Unit :=
  if m.undefined then moveUndef c m
  else if m.compress then moveCompress c m
  else if m.dst.sparsity = 0 then moveElems c m
  else if m.dst.sparsity = 2 then moveTwoFour c m
  else moveBlock c m

end Sys2Proof.Machine
end

