-- ==== Sys2Proof/Machine/Compute.lean ====
section
/-! DEFINITION. The compute commands: operands by K-group, presence masks and the path choice
(R328 to R339), one granule through cells and column tree (R184 to R188, R222), accumulation into slots
(R225 to R229, R345), and the LOUPE scores and masks (R350, R351). -/

namespace Sys2Proof.Machine

/-! ## Hulls of a box -/

/-- The lowest and highest position that a box reaches in each dimension 1 to 5, clipped to the extents. -/
def Desc.clip (d : Desc) (box : List (Nat × Nat)) : List (Nat × Nat) :=
  (List.range 5).map (fun i => let p := box.getD i (0, 1); (p.1, min p.2 (d.e (i + 1))))

/-- Hull of positions `k0` to `k1` of dimension 0 within a box of dimensions 1 to 5 (R255); a write that
meets the last channel group reaches its end (R262). -/
def boxHull (d : Desc) (k0 k1 : Nat) (box : List (Nat × Nat)) (wr : Bool) : List Rng :=
  let b := d.clip box
  let k1 := min k1 (d.e 0)
  if d.empty || decide (k1 ≤ k0) || b.any (fun p => decide (p.2 ≤ p.1)) then []
  else
    let w := d.fmt.width
    let at' := fun (f : Nat × Nat → Nat) => clr32 (d.base + ((List.range 5).map (fun i =>
      f (b.getD i (0, 1)) * nth d.stride (i + 1))).foldl (· + ·) 0)
    let lo := at' (·.1) + k0 * w / 8
    let hi := at' (fun p => p.2 - 1) +
      (if d.sparsity = 2 then d.valArea + ceilDiv (ceilDiv k1 4) 2
       else if wr && decide (64 * (d.nG - 1) < k1) then d.runBytes else ceilDiv (k1 * w) 8)
    [⟨2, lo, hi - lo, wr⟩]

/-- Hull of the scales of a box. -/
def boxScales (d : Desc) (k0 k1 : Nat) (box : List (Nat × Nat)) (wr : Bool) : List Rng :=
  let b := d.clip box
  let k1 := min k1 (d.e 0)
  if d.mx = 0 || d.empty || decide (k1 ≤ k0) || b.any (fun p => decide (p.2 ≤ p.1)) then []
  else
    let lo := d.mx + d.lin (b.map (·.1)) * d.scaleRow + k0 / 32
    let hi := d.mx + d.lin (b.map (fun p => p.2 - 1)) * d.scaleRow + ceilDiv k1 32
    [⟨2, lo, hi - lo, wr⟩]

/-- Does the format carry MX scales (R216)? -/
def ElemFmt.scaled (f : ElemFmt) : Bool := f == .fp4 || f == .e4m3 || f == .e5m2

/-- Hulls of a compute operand: dense or 2:4 range and scales, or directory and values (R255, R313). -/
def operandHull (d : Desc) (k0 k1 : Nat) (box : List (Nat × Nat)) : List Rng :=
  (if d.sparsity = 1 ∨ d.sparsity = 3 then
    if d.empty then []
    else [⟨2, d.mask, d.dirBytes, false⟩, ⟨2, d.valField, d.size - d.dirBytes, false⟩]
   else boxHull d k0 k1 box false) ++
  (if d.fmt.scaled then boxScales d k0 k1 box false else [])

/-! ## K-groups of operands -/

/-- One K-group of a row or column: the entries that enter products, by position in the group, and the
scale bytes of its two blocks of 32. -/
structure KGrp where
  es : List (Nat × AccElem)
  sc : List PByte
  deriving Repr

/-- The scale 2^0. -/
def oneScale : PByte := (0x7F, false)

/-- A K-group of 64 elements. -/
def KGrp.ofElems (es : List AccElem) (sc : List PByte) : KGrp := { es := (List.range 64).zip es, sc }

/-- A 2:4 K-group of one value throughout: code 0x4 and two stored values (R297). -/
def fourOf (e : AccElem) : List (Nat × AccElem) := (List.range 16).flatMap (fun t => [(4 * t, e), (4 * t + 1, e)])

/-- The stored entries of a 2:4 K-group of `nt` groups from its value and code bytes; groups beyond take
the pad value (R296, R297). -/
def fourEntries (w nt : Nat) (vals codes : List PByte) (pad : AccElem) : List (Nat × AccElem) :=
  let vs := unpack w (2 * nt) vals
  (List.range 16).flatMap (fun t =>
    if t < nt then
      let cb := codes.getD (t / 2) (0, false)
      let code := bits cb.1.toNat (4 * (t % 2) + 3) (4 * (t % 2))
      let e := fun i => let v := vs.getD (2 * t + i) (plain 0); { v with poison := v.poison || cb.2 }
      [(4 * t + code % 4, e 0), (4 * t + code / 4, e 1)]
    else [(4 * t, pad), (4 * t + 1, pad)])

/-- A K-group that the extents, or a position outside the input, leave to the pad value (R260, R264). -/
def padGroup (d : Desc) : KGrp :=
  if d.sparsity ≥ 2 then { es := fourOf d.padE, sc := [oneScale, oneScale] }
  else KGrp.ofElems (List.replicate 64 d.padE) [oneScale, oneScale]

/-- A K-group of ZERO elements: an absent block, or a free place of a packed granule (R295, R337). -/
def zeroGroup (d : Desc) : KGrp :=
  if d.sparsity ≥ 2 then { es := fourOf d.zeroE, sc := [oneScale, oneScale] }
  else KGrp.ofElems (List.replicate 64 d.zeroE) [oneScale, oneScale]

/-- The scales of a K-group that is read. -/
def rdGroupScales (c : Ctx) (d : Desc) (xs : List Nat) (g : Nat) : CmdM (List PByte) := do
  if d.fmt.scaled then return [← rdScale c d xs (2 * g), ← rdScale c d xs (2 * g + 1)]
  else return [oneScale, oneScale]

/-- Marks a K-group's entries poisoned. -/
def KGrp.spoil (k : KGrp) : KGrp := { k with es := k.es.map (fun p => (p.1, { p.2 with poison := true })) }

/-- K-group `g` of the run at a position (R260, R295 to R298, R305, R336). -/
def rdGroup (c : Ctx) (d : Desc) (pos : Option (List Nat)) (g : Nat) : CmdM KGrp := do
  match pos with
  | none => return padGroup d
  | some xs =>
    let n := min 64 (d.e 0 - 64 * g)
    if d.empty || !d.inside xs || n == 0 then return padGroup d
    else
      let w := d.fmt.width
      let nt := ceilDiv n 4
      let half := d.fmt.group / 2
      if d.sparsity = 0 then
        let (x, o) := d.runLoc xs
        let es := unpack w n (← rd c 2 x (o + g * d.fmt.group) (ceilDiv (n * w) 8) St.rScratch)
        return KGrp.ofElems (padTo 64 d.padE es) (← rdGroupScales c d xs g)
      else if d.sparsity = 2 then
        let (x, o) := d.runLoc xs
        let vals ← rd c 2 x (o + g * half) (ceilDiv (2 * nt * w) 8) St.rScratch
        let codes ← rd c 2 x (o + d.valArea + 8 * g) (ceilDiv nt 2) St.rScratch
        return { es := fourEntries w nt vals codes d.padE, sc := ← rdGroupScales c d xs g }
      else
        let b := d.lin xs * d.nG + g
        let e ← rdDir c d (b / 64)
        let k ←
          if bit e.mask (b % 64) then do
            let i := popBelow e.mask (b % 64)
            let sc ← rdGroupScales c d xs g
            if d.sparsity = 1 then do
              let es := unpack w n (← rd c 2 d.valField (32 * e.off + i * d.fmt.group) (ceilDiv (n * w) 8) St.rScratch)
              pure (KGrp.ofElems (padTo 64 d.padE es) sc)
            else do
              let va := roundUp (popBelow e.mask 64 * half) 32
              let vals ← rd c 2 d.base (32 * e.off + i * half) (ceilDiv (2 * nt * w) 8) St.rScratch
              let codes ← rd c 2 d.base (32 * e.off + va + 8 * i) (ceilDiv nt 2) St.rScratch
              pure { es := fourEntries w nt vals codes d.padE, sc }
          else
            pure (if d.sparsity = 1 then KGrp.ofElems (padTo 64 d.padE (List.replicate n d.zeroE)) [oneScale, oneScale]
              else { es := (fourOf d.zeroE).take (2 * nt) ++ (fourOf d.padE).drop (2 * nt), sc := [oneScale, oneScale] })
        return if e.poison then k.spoil else k

/-- Is K-group `g` of the run at `xs` present (R265, R329, R330)? A poisoned directory entry counts its
blocks present and poisoned (R315). -/
def groupPresent (c : Ctx) (d : Desc) (xs : List Nat) (g : Nat) : CmdM Bool := do
  if d.empty || !d.inside xs || decide (d.e 0 ≤ 64 * g) then return d.enc d.pad != d.enc d.zero
  else if d.sparsity = 0 ∨ d.sparsity = 2 then return true
  else
    let b := d.lin xs * d.nG + g
    let e ← rdDir c d (b / 64)
    return bit e.mask (b % 64) || e.poison

/-! ## One granule -/

/-- One product (R184, R186, R418): the exact value and its poison. -/
def product (f g : ElemFmt) (za zw : Int) (a w : AccElem) : Fp × Bool :=
  (if f.isInt then Fp.ofInt ((decodeInt f a.bits - za) * (decodeInt g w.bits - zw))
   else Fp.mul (decodeFp f a.bits) (decodeFp g w.bits), a.poison || w.poison)

/-- The products of one K-group, in stored order. -/
def products (f g : ElemFmt) (za zw : Int) (a w : KGrp) : List (Fp × Bool) :=
  w.es.map (fun p => product f g za zw ((a.es.getD p.1 (0, plain 0)).2) p.2)

/-- Exact sum of products with their poison. -/
def exactSum (ps : List (Fp × Bool)) : Fp × Bool :=
  (lcSum Fp.add (.fin false 0 0) (ps.map (·.1)), ps.any (·.2))

/-- The scaled sum of one MX block (R187, R222). -/
def mxBlock (ps : List (Fp × Bool)) (sa sw : PByte) : Fp × Bool :=
  let s := exactSum ps
  (rn .w40 (Fp.mul s.1 (Fp.mul (e8m0 sa.1.toNat) (e8m0 sw.1.toNat))), s.2 || sa.2 || sw.2)

/-- What one K-group brings into the column tree: two MX block sums, 64 rounded products, or an integer
sum (R187, R196, R222). -/
def groupTerms (f g : ElemFmt) (za zw : Int) (a w : KGrp) : List (Fp × Bool) :=
  let ps := products f g za zw a w
  if f.isInt then [exactSum ps]
  else if f.scaled then
    let h := ps.length / 2
    [mxBlock (ps.take h) (a.sc.getD 0 oneScale) (w.sc.getD 0 oneScale),
     mxBlock (ps.drop h) (a.sc.getD 1 oneScale) (w.sc.getD 1 oneScale)]
  else ps.map (fun p => (rn .w40 p.1, p.2))

/-- The accumulator bits of a value: W40, or INT32 in bits [31:0] (R219, R221). -/
def accBits (int : Bool) (x : Fp) : Nat :=
  if int then
    match x with
    | .fin neg m e => ofSigned 32 (rneInt neg m e)
    | _ => 0
  else encodeFp .w40 x

/-- The result of one granule for one output element (R196, R222). -/
def granuleElem (f g : ElemFmt) (za zw : Int) (as ws : List KGrp) : AccElem :=
  let ts := (as.zip ws).flatMap (fun p => groupTerms f g za zw p.1 p.2)
  let v := if f.isInt then lcSum Fp.add (.fin false 0 0) (ts.map (·.1))
    else lcSum (addR .w40) (.fin false 0 0) (ts.map (·.1))
  { bits := accBits f.isInt v, poison := ts.any (·.2), int := some f.isInt }

/-- Addition into a slot element (R220, R221, R418); with data of the other kind the sum is undefined (R219). -/
def accAdd (int : Bool) (a b : AccElem) : AccElem :=
  { bits := if a.int = some !int ∨ b.int = some !int then Config.mixed int a.bits b.bits % 2 ^ 40
            else if int then (a.bits + b.bits) % 2 ^ 32
            else encodeFp .w40 (Fp.add (decodeFp .w40 a.bits) (decodeFp .w40 b.bits))
    poison := a.poison || b.poison
    int := some int }

/-- The zero that a command writes into a slot of its kind. -/
def accZero (int : Bool) : AccElem := { int := some int }

/-! ## The job of a compute command -/

/-- A granule: its K-groups in order (`none` is a free place of a packed granule), and its tap. -/
structure Gran where
  kgs : List (Option Nat)
  kh : Nat := 0
  kw : Nat := 0
  deriving DecidableEq, Repr

/-- What a compute command does, whatever its opcode: operands, tile shape, slots, and where its rows,
columns and granules lie. -/
structure Job where
  a : Desc
  w : Desc
  p : Option Desc
  sel : Option Desc
  keep : Bool
  selCb0 : Nat
  slot : Nat
  fCode : Nat
  n : Nat
  k : Nat
  acc : Nat
  theta : Option Nat
  kg0 : Nat
  row0 : Nat
  cb0 : Nat
  /-- Residual rows start here (R397). -/
  resRow0 : Nat
  loupe : Bool := false
  conv : Option CmdWord := none
  deriving DecidableEq, Repr

/-- f of the F field; 3 has no shape. -/
def facetsOf (code : Nat) : Nat := 2 ^ code

namespace Job

def f (j : Job) : Nat := facetsOf j.fCode

/-- Does the pass read a 2:4 weight? -/
def four (j : Job) : Bool := decide (2 ≤ j.w.sparsity)

/-- K-groups per granule (Table 10-1). -/
def gpg (j : Job) : Nat :=
  if j.loupe then 8
  else
    let x := match j.a.fmt.width with
      | 2 => 8
      | 4 => 4
      | 8 => 2
      | _ => 1
    if j.four then 2 * x else x

/-- Format of the activation as it enters the cells: LOUPE quantises it to LT2 (R347). -/
def fa (j : Job) : ElemFmt := if j.loupe then .lt2 else j.a.fmt

/-- Do the slots hold INT32? -/
def int (j : Job) : Bool := j.fa.isInt

/-- K-groups covered. -/
def t (j : Job) : Nat := j.k * j.gpg

/-- Does a preload source suit the slots (R229)? -/
def preloadOk (j : Job) : Bool :=
  j.p.all (fun d => d.legal && d.sparsity == 0 &&
    (if j.int then d.fmtCode == 10 else [2, 4, 5, 7, 8, 9, 11].contains d.fmtCode))

/-- Does the command give undefined results (R188, R229, R280, R292, R347)? -/
def undefined (j : Job) : Bool :=
  !j.a.legal || !j.w.legal || decide (2 ≤ j.a.sparsity) || !j.preloadOk ||
  j.sel.any (fun d => !d.legal || d.fmtCode != 10 || d.sparsity != 0) ||
  (if j.loupe then decide (10 ≤ j.a.fmtCode) || j.w.fmtCode != 1 || decide (2 ≤ j.w.sparsity)
   else decide (9 ≤ j.a.fmtCode) || decide (9 ≤ j.w.fmtCode) ||
    !(j.a.fmtCode == j.w.fmtCode || ([4, 5].contains j.a.fmtCode && [4, 5].contains j.w.fmtCode)) ||
    (j.a.fmtCode == 1 && j.four))

/-- The position of command row `r` for a granule, in dimensions 1 to 5 of the activation; `none` outside
a CONV input (R250, R397). -/
def rowPos (j : Job) (g : Gran) (r : Nat) : Option (List Nat) :=
  match j.conv with
  | none => some [j.row0 + r, 0, 0, 0, 0]
  | some x =>
    let h : Int := fld x 137 124 * (fld x 88 86 + 1) + g.kh * (fld x 94 92 + 1) - fld x 104 98
    let w : Int := (fld x 151 138 + r : Nat) * (fld x 91 89 + 1) + g.kw * (fld x 97 95 + 1) - fld x 111 105
    if h < 0 ∨ w < 0 then none else some [w.toNat, h.toNat, fld x 123 112, 0, 0]

/-- The position of weight column `q` of the command, in dimensions 1 to 5. -/
def colPos (j : Job) (g : Gran) (q : Nat) : List Nat :=
  match j.conv with
  | none => [64 * j.cb0 + q, 0, 0, 0, 0]
  | some _ => [g.kw, g.kh, 64 * j.cb0 + q, 0, 0]

/-- Granules of the dense path (R248, R249, R336). -/
def denseGranules (j : Job) : List Gran :=
  match j.conv with
  | none => (List.range j.k).map (fun i => { kgs := (span (j.kg0 + i * j.gpg) j.gpg).map some })
  | some x =>
    (span (fld x 55 52) (fld x 63 60)).flatMap (fun kh =>
      (List.range (fld x 73 68 + 1)).flatMap (fun ch =>
        (span (fld x 59 56) (fld x 67 64)).map (fun kw =>
          { kgs := (span ((fld x 85 74 + ch) * j.gpg) j.gpg).map some, kh, kw })))

/-- Granules of the sparse path: the matched K-groups packed in order (R337). -/
def packF (gpg : Nat) : Nat → List Nat → List Gran
  | 0, _ => []
  | n + 1, l =>
    if l.isEmpty then []
    else { kgs := padTo' gpg (l.take gpg) } :: packF gpg n (l.drop gpg)
where
  /-- Free places beyond the K-groups taken. -/
  padTo' (n : Nat) (l : List Nat) : List (Option Nat) := l.map some ++ List.replicate (n - l.length) none

/-- Needs the command a pre-scan (R332)? -/
def prescans (j : Job) : Bool :=
  [1, 3].contains j.a.sparsity || [1, 3].contains j.w.sparsity || j.sel.isSome

/-- Slots of the command: first and count. -/
def slots (j : Job) : Nat × Nat := (j.slot, j.f * j.n)

/-- Is the shape legal for MMA, XMMA and LOUPE (R245)? -/
def shapeOk (j : Job) : Bool := decide (j.fCode < 3) && decide (j.f ≤ Config.grade.facets)

/-- Descriptor indices named (check 2). -/
def descs (j : Job) : List Nat :=
  [j.a.entry, j.w.entry] ++ (j.p.map (·.entry)).toList ++ (j.sel.map (·.entry)).toList

/-- The range that an axis reaches after a border offset: positions below 0 are outside. -/
def axis (o n s d k0 kc pad : Nat) : Nat × Nat :=
  (o * s + k0 * d - pad, (o + n - 1) * s + (k0 + kc - 1) * d + 1 - pad)

/-- Scratchpad hulls of operands, preload and selection (check 4). -/
def hulls (j : Job) : List Rng :=
  let rows := 64 * j.f
  let cols := (64 * j.cb0, 64 * j.cb0 + 64 * j.n)
  (match j.conv with
   | none =>
     let k0 := 64 * j.kg0
     operandHull j.a k0 (k0 + 64 * j.t) [(j.row0, j.row0 + rows)] ++ operandHull j.w k0 (k0 + 64 * j.t) [cols]
   | some x =>
     let k0 := fld x 85 74 * j.gpg * 64
     let k1 := k0 + (fld x 73 68 + 1) * j.gpg * 64
     let img := fld x 123 112
     operandHull j.a k0 k1
       [axis (fld x 151 138) rows (fld x 91 89 + 1) (fld x 97 95 + 1) (fld x 59 56) (fld x 67 64) (fld x 111 105),
        axis (fld x 137 124) 1 (fld x 88 86 + 1) (fld x 94 92 + 1) (fld x 55 52) (fld x 63 60) (fld x 104 98),
        (img, img + 1)] ++
     operandHull j.w k0 k1
       [(fld x 59 56, fld x 59 56 + fld x 67 64), (fld x 55 52, fld x 55 52 + fld x 63 60), cols]) ++
  (j.p.toList.flatMap (fun d =>
    let box := if d.rank = 1 then [] else [(j.resRow0, j.resRow0 + rows)]
    boxHull d cols.1 cols.2 box false ++ (if d.fmt.scaled then boxScales d cols.1 cols.2 box false else []))) ++
  (j.sel.toList.flatMap (fun d =>
    boxHull d (j.selCb0 / 32) ((j.selCb0 + j.n - 1) / 32 + 1) [(0, rows)] false))

end Job

/-! ## Presence, selection and path -/

/-- Which (row, block) elements are selected, row by row, and whether a selection word was poisoned
(R343). Without selection everything is. -/
def selection (c : Ctx) (j : Job) : CmdM (List (List Bool) × Bool) := do
  match j.sel with
  | none => return (List.replicate (64 * j.f) (List.replicate j.n true), false)
  | some d =>
    let rows ← (List.range (64 * j.f)).mapM (fun r =>
      (List.range j.n).mapM (fun b => do
        let l := j.selCb0 + b
        let e ←
          if d.empty || !d.inside [r, 0, 0, 0, 0] || decide (d.e 0 ≤ l / 32) then pure d.padE
          else do
            let (x, o) := d.runLoc [r, 0, 0, 0, 0]
            let bs ← rd c 2 x (o + l / 32 * 4) 4 St.rScratch
            pure ((unpack 32 1 bs).headD d.padE)
        pure (bit e.bits (l % 32), e.poison)))
    return (rows.map (·.map (·.1)), rows.any (·.any (·.2)))

/-- The K-groups of the command that a list of runs holds (R329, R330). -/
def presence (c : Ctx) (d : Desc) (runs : List (List Nat)) (kgs : List Nat) : CmdM (List Nat) := do
  let ps ← kgs.mapM (fun g => do return (g, (← runs.mapM (fun xs => groupPresent c d xs g)).any id))
  return (ps.filter (·.2)).map (·.1)

/-- θ_q: the command's, else the GME record of the top-level unit, else that of UID 0xFFFF, else 192
(R334). -/
def thetaOf (t : Setting) (top : Nat) (cmd : Option Nat) : Nat :=
  match cmd with
  | some q => q
  | none =>
    match t.gmes.find? (·.uid == top) with
    | some g => g.thetaQ
    | none => ((t.gmes.find? (·.uid == 0xFFFF)).map (·.thetaQ)).getD 192

/-- What the pre-scan finds: selected elements, computed blocks, per-facet presence, the granules of the
chosen path, and whether the path is sparse. -/
structure Scan where
  sel : List (List Bool)
  selBad : Bool
  blocks : List Nat
  pres : List (List Nat)
  grans : List Gran
  sparse : Bool
  deriving Repr

/-- Masks, matched set and path choice (R329 to R337, R344). -/
def scan (c : Ctx) (j : Job) : CmdM Scan := do
  let (sel, selBad) ← selection c j
  let blocks := (List.range j.n).filter (fun b => sel.any (fun r => r.getD b false))
  match j.conv with
  | some _ => return { sel, selBad, blocks, pres := [], grans := j.denseGranules, sparse := false }
  | none =>
    let kgs := span j.kg0 j.t
    let pres ← (List.range j.f).mapM (fun φ =>
      presence c j.a ((List.range 64).map (fun r => [j.row0 + 64 * φ + r, 0, 0, 0, 0])) kgs)
    if !j.prescans then return { sel, selBad, blocks, pres, grans := j.denseGranules, sparse := false }
    else
      let cols := blocks.flatMap (fun b => (List.range 64).map (fun q => [64 * (j.cb0 + b) + q, 0, 0, 0, 0]))
      let w ← presence c j.w cols kgs
      let m := kgs.filter (fun g => w.contains g && pres.any (·.contains g))
      let θ := thetaOf (← getS).set.cur c.top j.theta
      if θ * j.t ≤ 256 * m.length then return { sel, selBad, blocks, pres, grans := j.denseGranules, sparse := false }
      else return { sel, selBad, blocks, pres, grans := Job.packF j.gpg (m.length + 1) m, sparse := true }

/-- Does a facet take part in a granule (R203, R339)? -/
def Scan.active (x : Scan) (j : Job) (φ : Nat) (g : Gran) : Bool :=
  j.conv.isSome || g.kgs.any (fun k => k.any ((x.pres.getD φ []).contains ·))

/-! ## Accumulation -/

/-- The value a preload gives an element (R229). -/
def preloadElem (c : Ctx) (j : Job) (d : Desc) (row col : Nat) : CmdM AccElem := do
  let xs := if d.rank = 1 then [0, 0, 0, 0, 0] else [j.resRow0 + row, 0, 0, 0, 0]
  let e ←
    if d.empty || !d.inside xs || decide (d.e 0 ≤ col) then pure d.padE
    else do
      let w := d.fmt.width
      let (x, o) := d.runLoc xs
      if 8 ≤ w then
        let bs ← rd c 2 x (o + col * w / 8) (w / 8) St.rScratch
        pure ((unpack w 1 bs).headD d.padE)
      else
        let bs ← rd c 2 x (o + col * w / 8) 1 St.rScratch
        pure ((unpack w (8 / w) bs).getD (col % (8 / w)) d.padE)
  let sc ← if d.fmt.scaled then rdScale c d xs (col / 32) else pure oneScale
  let v :=
    if d.fmt = .w40 ∨ d.fmt = .int32 then e.bits
    else encodeFp .w40 (Fp.mul (decodeFp d.fmt e.bits) (e8m0 sc.1.toNat))
  return { bits := v, poison := e.poison || sc.2, int := some j.int }

/-- Changes an element of a slot of the bead. -/
def updAcc (b slot r q : Nat) (f : AccElem → AccElem) : CmdM Unit :=
  modS (fun s => s.updBead b (fun x => x.accPut slot r q (f (x.accGet slot r q))))

/-- Positions of a slot. -/
def slotCells : List (Nat × Nat) := (List.range 64).flatMap (fun r => (List.range 64).map (fun q => (r, q)))

/-- Runs `f` over the elements (facet, block, slot, row, column) of the command's tile. -/
def overTile (j : Job) (f : Nat → Nat → Nat → Nat → Nat → CmdM Unit) : CmdM Unit :=
  (List.range j.f).forM (fun φ => (List.range j.n).forM (fun b =>
    slotCells.forM (fun rc => f φ b (j.slot + b * j.f + φ) rc.1 rc.2)))

/-- Before the first granule: preload, and Table 10-3 for unselected elements. -/
def startSlots (c : Ctx) (j : Job) (x : Scan) : CmdM Unit :=
  overTile j (fun φ b sl r q => do
    if (x.sel.getD (64 * φ + r) []).getD b false then
      match j.p with
      | some d => do
        let e ← preloadElem c j d (64 * φ + r) (64 * (j.cb0 + b) + q)
        updAcc c.b sl r q (fun _ => e)
      | none => pure ()
    else if j.keep then pure () else updAcc c.b sl r q (fun _ => accZero j.int))

/-- The activation K-group as it enters the cells: LOUPE quantises it (R306, R347). -/
def enterGroup (j : Job) (g : KGrp) : KGrp :=
  if j.loupe && j.a.fmtCode != 1 then
    { g with es := g.es.map (fun p => (p.1, quantE j.a (g.sc.getD (p.1 / 32) oneScale) p.2)) }
  else g

/-- Reads a K-group of a granule, or its free place. -/
def rdPlace (c : Ctx) (d : Desc) (pos : Option (List Nat)) : Option Nat → CmdM KGrp
  | some g => rdGroup c d pos g
  | none => pure (zeroGroup d)

/-- The zero point of an operand (R186, R218). -/
def zeroPoint (d : Desc) : Int := if d.fmt = .int4 ∨ d.fmt = .int8 then decodeInt d.fmt (d.enc d.zero) else 0

/-- One granule: every active facet against every computed block (R225, R248). `done` lists the facets
that have had a result. -/
def sweep (c : Ctx) (j : Job) (x : Scan) (g : Gran) (done : List Nat) : CmdM (List Nat) := do
  let cols ← x.blocks.mapM (fun b => do
    return (b, ← (List.range 64).mapM (fun q => g.kgs.mapM (rdPlace c j.w (some (j.colPos g (64 * b + q)))))))
  let za := if j.loupe then 0 else zeroPoint j.a
  let zw := zeroPoint j.w
  let act := (List.range j.f).filter (fun φ => x.active j φ g)
  act.forM (fun φ => do
    let rows ← (List.range 64).mapM (fun r => do
      return (← g.kgs.mapM (rdPlace c j.a (j.rowPos g (64 * φ + r)))).map (enterGroup j))
    cols.forM (fun (b, cs) =>
      slotCells.forM (fun rc =>
        if (x.sel.getD (64 * φ + rc.1) []).getD b false then
          let e := granuleElem j.fa j.w.fmt za zw (rows.getD rc.1 []) (cs.getD rc.2 [])
          let first := j.acc == 0 && !done.contains φ
          updAcc c.b (j.slot + b * j.f + φ) rc.1 rc.2 (fun o => if first then e else accAdd j.int o e)
        else pure ())))
  return done ++ act

/-- Elements of a slot span carry poison. -/
def Bead.accBad (x : Bead) (slot n : Nat) : Bool :=
  x.acc.any (fun p => p.2.poison && decide (slot ≤ p.1 / 4096) && decide (p.1 / 4096 < slot + n))

/-- Cycles of one granule's column blocks against its fill (R194, R340, R349). -/
def gtOf (j : Job) (ns : Nat) : Nat :=
  let fill := if j.loupe then
      Nat.max 64 (j.f * 8 * (if (ElemFmt.ofCode j.a.fmtCode).isSome then j.a.fmt.width else 32))
    else if j.four then 128 else 64
  max (64 * ns) fill

/-- Counts a compute command (BEAD_GME_CNT, and real-operand cycles of BEAD_FACET_CNT). -/
def countScan (b : Nat) (j : Job) (x : Scan) : CmdM Unit :=
  let ns := x.blocks.length
  let gt := gtOf j ns
  let floor := x.sparse && decide (x.grans.length * gt < ceilDiv (j.k * gt) 8)
  let idle := (x.grans.map (fun g => ((List.range j.f).filter (fun φ => !x.active j φ g)).length)).foldl (· + ·) 0
  modS (fun s => s.updBead b (fun y =>
    let m := mcount y.perf.gme (if x.sparse then 1 else 0) 1
    let m := if floor then mcount m 2 1 else m
    let m := mcount (mcount m 3 idle) 4 (j.n - ns)
    let fc := (List.range j.f).foldl (fun m φ =>
      mcount m (4 * φ) (64 * ns * (x.grans.filter (x.active j φ)).length)) y.perf.facet
    { y with perf := { y.perf with gme := m, facet := fc } }))

/-- Leaves every element of the tile undefined (R13, R188). -/
def tileUndef (c : Ctx) (j : Job) : CmdM Unit :=
  modS (fun s => { s with freeCtr := s.freeCtr + 1 }.updBead c.b (fun x => x.accUndefine j.slot (j.f * j.n) s.freeCtr))

/-- The products of a compute command into its slots (R225, R228, R345). -/
def computeTile (c : Ctx) (j : Job) : CmdM Unit := do
  if j.undefined then tileUndef c j
  else
    let x ← scan c j
    startSlots c j x
    let done ← x.grans.foldlM (fun done g => sweep c j x g done) []
    if j.acc = 0 then
      overTile j (fun φ b sl r q =>
        if (x.sel.getD (64 * φ + r) []).getD b false && (!done.contains φ || !x.blocks.contains b) then
          updAcc c.b sl r q (fun _ => accZero j.int)
        else pure ())
    else pure ()
    if x.selBad then overTile j (fun _ _ sl r q => updAcc c.b sl r q (fun e => { e with poison := true })) else pure ()
    countScan c.b j x
    notePoison (((← getS).bead c.b).accBad j.slot (j.f * j.n))

/-! ## The commands' fields -/

/-- THETA: inherit, or θ_q (Table 12-6). -/
def thetaField (w : CmdWord) : Option Nat := if fld w 72 64 = 0x1FF then none else some (fld w 72 64)

/-- The job of MMA and XMMA (Table 12-6). -/
def mmaJob (x : Bead) (w : CmdWord) : Job :=
  { a := (x.desc (fld w 15 8)).compute
    w := (x.desc (fld w 23 16)).compute
    p := if fld w 57 56 = 2 then some (x.desc (fld w 31 24)).compute else none
    sel := if fld w 59 58 = 0 then none else some (x.desc (fld w 39 32)).compute
    keep := fld w 59 58 = 2
    selCb0 := fld w 151 136
    slot := fld w 45 40
    fCode := fld w 47 46
    n := 2 ^ fld w 49 48
    k := fld w 55 50 + 1
    acc := fld w 57 56
    theta := thetaField w
    kg0 := fld w 95 80
    row0 := fld w 119 96
    cb0 := fld w 135 120
    resRow0 := fld w 119 96 }

/-- The job of CONV (Table 12-7). -/
def convJob (x : Bead) (w : CmdWord) : Job :=
  { a := (x.desc (fld w 15 8)).compute
    w := (x.desc (fld w 23 16)).compute
    p := if fld w 43 42 = 2 then some (x.desc (fld w 31 24)).compute else none
    sel := none
    keep := false
    selCb0 := 0
    slot := fld w 37 32
    fCode := fld w 39 38
    n := 2 ^ fld w 41 40
    k := fld w 63 60 * fld w 67 64 * (fld w 73 68 + 1)
    acc := fld w 43 42
    theta := none
    kg0 := 0
    row0 := 0
    cb0 := fld w 163 152
    resRow0 := 0
    conv := some w }

/-- Is a CONV shape legal (R246)? -/
def convShapeOk (w : CmdWord) : Bool :=
  let kh := fld w 47 44
  let kw := fld w 51 48
  let khc := fld w 63 60
  let kwc := fld w 67 64
  decide (1 ≤ kh) && decide (1 ≤ kw) && decide (1 ≤ khc) && decide (1 ≤ kwc) &&
  decide (fld w 55 52 + khc ≤ kh) && decide (fld w 59 56 + kwc ≤ kw) &&
  decide (khc * kwc * (fld w 73 68 + 1) ≤ 64)

/-- The job of LOUPE (Table 12-8). -/
def loupeJob (x : Bead) (w : CmdWord) : Job :=
  { a := (x.desc (fld w 15 8)).compute
    w := (x.desc (fld w 23 16)).compute
    p := if fld w 57 56 = 2 then some (x.desc (fld w 31 24)).compute else none
    sel := none
    keep := false
    selCb0 := 0
    slot := fld w 45 40
    fCode := fld w 47 46
    n := 2 ^ fld w 49 48
    k := fld w 55 50 + 1
    acc := fld w 57 56
    theta := thetaField w
    kg0 := fld w 95 80
    row0 := fld w 119 96
    cb0 := fld w 135 120
    resRow0 := fld w 119 96
    loupe := true }

/-! ## LOUPE: scores and masks -/

/-- Writes elements from position `k0` of a run: positions beyond EXTENT0 are dropped, and the remainder of
a last channel group that is met takes the pad value (R262). -/
def wrSeg (c : Ctx) (d : Desc) (xs : List Nat) (k0 : Nat) (es : List AccElem) : CmdM Unit := do
  if d.empty || !d.inside xs || decide (d.e 0 ≤ k0) then pure ()
  else
    let w := d.fmt.width
    let n := min es.length (d.e 0 - k0)
    let tail := List.replicate (d.runBytes * 8 / w - d.e 0) d.padE
    let (x, o) := d.runLoc xs
    if k0 + n = d.e 0 then wr c d.kind x (o + k0 * w / 8) (packP w (es.take n ++ tail)) St.rRegion
    else
      wr c d.kind x (o + k0 * w / 8) (packP w (es.take n)) St.rRegion
      if 64 * (d.nG - 1) < k0 + n && 8 ≤ w then wr c d.kind x (o + d.e 0 * w / 8) (packP w tail) St.rRegion else pure ()

/-- Saturation to INT32 (R350). -/
def sat32 (i : Int) : Int := clampInt (-(2 ^ 31)) (2 ^ 31 - 1) i

/-- The score of one row of one block; no value within the layer's N extent has no stated MAXABS. -/
def scoreOf (fn free : Nat) (vs : List Int) : Int :=
  match fn with
  | 0 => if vs.isEmpty then toSigned 32 free else sat32 (vs.foldl (fun m v => max m (v.natAbs : Int)) 0)
  | 1 => sat32 ((vs.map (fun v => (v.natAbs : Int))).foldl (· + ·) 0)
  | _ => sat32 (vs.foldl (· + ·) 0)

/-- Score formation (R350). -/
def formScores (c : Ctx) (j : Job) (w : CmdWord) (d : Desc) : CmdM Unit :=
  if !d.legal || d.fmtCode != 10 || d.sparsity != 0 then wrUndef c { d with ext := d.ext.set 1 (min (d.e 1) (64 * j.f)) }
  else
    (List.range j.f).forM (fun φ => (List.range 64).forM (fun r => (List.range j.n).forM (fun b => do
      let x := (← getS).bead c.b
      let qs := (List.range 64).filter (fun q => decide (64 * (j.cb0 + b) + q < j.w.e 1))
      let vs := qs.map (fun q => x.accGet (j.slot + b * j.f + φ) r q)
      let fr ← drawFree
      let v := scoreOf (fld w 62 61) fr (vs.map (fun e => toSigned 32 e.bits))
      wrSeg c d [64 * φ + r, 0, 0, 0, 0] (j.cb0 + b) [{ bits := ofSigned 32 v, poison := vs.any (·.poison) }])))

/-- Does block `b` belong to the selection of a row of scores (R351)? -/
def emits (rule ktop : Nat) (t : Int) (ss : List Int) (b : Nat) : Bool :=
  let v := ss.getD b 0
  let ahead := ((List.range ss.length).filter (fun i =>
    let u := ss.getD i 0
    decide (v < u) || (u == v && decide (i < b)))).length
  let top := decide (ahead < ktop)
  match rule with
  | 0 => decide (t ≤ v)
  | 1 => top
  | _ => top && decide (t ≤ v)

/-- EMIT (R351). -/
def emitMask (c : Ctx) (f : Nat) (w : CmdWord) (sd md : Desc) : CmdM Unit :=
  if !sd.legal || sd.fmtCode != 10 || sd.sparsity != 0 || !md.legal || md.fmtCode != 10 || md.sparsity != 0 then
    wrUndef c { md with ext := md.ext.set 1 (min (md.e 1) (64 * f)) }
  else
    (List.range (min (64 * f) (sd.e 1))).forM (fun r => do
      let xs := [r, 0, 0, 0, 0]
      let es ← if sd.empty then pure [] else rdDense c sd xs (sd.e 0) St.rScratch
      let ss := es.map (fun e => toSigned 32 e.bits)
      let on := (List.range ss.length).filter (emits (fld w 74 73) (fld w 159 144) (toSigned 32 (fld w 191 160)) ss)
      let words := (List.range (md.e 0)).map (fun i =>
        { bits := ((on.filter (fun b => b / 32 == i)).map (fun b => 2 ^ (b % 32))).foldl (· + ·) 0
          poison := es.any (·.poison) : AccElem })
      wrRun c md xs words)

/-- Score and mask descriptors of a LOUPE. -/
def loupeScore (x : Bead) (w : CmdWord) : Desc := (x.desc (fld w 39 32)).compute
def loupeMask (x : Bead) (w : CmdWord) : Desc := (x.desc (fld w 143 136)).compute

/-- Hulls of a LOUPE's scores and masks. -/
def loupeHulls (x : Bead) (w : CmdWord) : List Rng :=
  let j := loupeJob x w
  let rows := 64 * j.f
  let sd := loupeScore x w
  let md := loupeMask x w
  (if flag w 58 && !flag w 60 then boxHull sd j.cb0 (j.cb0 + j.n) [(0, rows)] true else []) ++
  (if flag w 59 then boxHull sd 0 (sd.e 0) [(0, rows)] false ++ boxHull md 0 (md.e 0) [(0, min rows (sd.e 1))] true else [])

/-- The effect of LOUPE (R347 to R353). -/
def loupeRun (c : Ctx) (w : CmdWord) : CmdM Unit := do
  let x := (← getS).bead c.b
  let j := loupeJob x w
  if flag w 60 then emitMask c j.f w (loupeScore x w) (loupeMask x w)
  else
    computeTile c j
    if flag w 58 then formScores c j w (loupeScore x w) else pure ()
    if flag w 59 then emitMask c j.f w (loupeScore x w) (loupeMask x w) else pure ()

end Sys2Proof.Machine
end

