-- ==== Sys2Proof/Machine/Accum.lean ====
section
/-! DEFINITION. The accumulator commands: fused activations (R399), requantisation and MX scaling on the
way out (R233 to R236, R398), and the spill form (R231, R242, R409). -/

namespace Sys2Proof.Machine

/-! ## Activations -/

/-- Is a value zero or above (LEAKY of Table 12-10)? −0 is. -/
def Fp.nonneg : Fp → Bool
  | .nan => false
  | .inf neg => !neg
  | .fin neg m _ => !neg || m == 0

/-- +0. -/
def fpZero : Fp := .fin false 0 0

/-- A special function on a working value: its value at the points the spec states, else the fixed
method's (R399). -/
def sfuAt (code : Nat) (x : Fp) : Fp :=
  match x with
  | .nan => .nan
  | .inf false => if code = 4 ∨ code = 5 then .inf false else .fin false 1 0
  | .inf true => if code = 4 ∨ code = 5 then .fin true 0 0 else if code = 6 then fpZero else .fin true 1 0
  | .fin neg m e =>
    if m = 0 ∧ neg = false ∧ code ≠ 6 then fpZero
    else decodeFp .w40 (Config.sfu code (encodeFp .w40 (.fin neg m e)) % 2 ^ 40)

/-- ACT on a W40 value (Table 12-10, R399); `f` is the working format LEAKY rounds in. -/
def actFp (f : ElemFmt) (code : Nat) (param x : Fp) : Fp :=
  match code with
  | 0 => x
  | 1 => Fp.max x fpZero
  | 2 => if x = .nan then .nan else if x.nonneg then x else mulR f param x
  | 3 => Fp.min (Fp.max x fpZero) param
  | _ => sfuAt code x

/-! ## Conversion out -/

/-- How DRAIN and XDRAIN treat an element before conversion (R398). -/
structure Out2 where
  ovf : Bool
  int : Bool
  quant : Bool
  act : Nat
  param : Nat
  deriving DecidableEq, Repr

/-- The fields of Table 12-9. -/
def out2Of (w : CmdWord) : Out2 := { ovf := flag w 26, int := flag w 27, quant := flag w 28, act := fld w 31 29, param := fld w 63 32 }

/-- Steps 1 and 2 of R398: the value that conversion takes. -/
def preConv (o : Out2) (d : Desc) (bits : Nat) : Fp :=
  if o.int then
    let a := toSigned 32 bits
    let a := if o.act = 1 then max a 0 else a
    if o.quant then
      match requant a (decodeFp .fp32 o.param) with
      | .fin neg m e =>
        let zo := match decodeElem d.fmt (d.enc d.zero) with
          | .fin n k g => .fin n k g
          | _ => fpZero
        Fp.add (.fin neg m e) zo
      | y => y
    else Fp.ofInt a
  else actFp .w40 o.act (decodeFp .fp32 o.param) (decodeFp .w40 bits)

/-- A converted row segment: its elements, the scale bytes of its blocks of 32, and the NaNs written as
zero. -/
structure Seg64 where
  es : List AccElem
  scales : List PByte
  nans : Nat
  deriving Repr

/-- Converts values at positions `k0` up of a run of the destination; under MX the scale comes from the
positions within EXTENT0 (R236). -/
def convSeg (d : Desc) (ovf : Bool) (k0 : Nat) (vs : List (Fp × Bool)) : Seg64 :=
  let live := vs.take (d.e 0 - k0)
  if d.fmt.scaled && d.mx != 0 then
    let blks := (List.range (ceilDiv live.length 32)).map (fun i => (live.drop (32 * i)).take 32)
    let sc := blks.map (fun b => (mxScaleFor d.fmt (b.map (·.1)), b.any (·.2)))
    let cs := (blks.zip sc).flatMap (fun p => p.1.map (fun v => (mxConvert d.fmt p.2.1 v.1, v.2)))
    { es := cs.map (fun c => { bits := c.1.bits, poison := c.2 })
      scales := sc.map (fun s => (BitVec.ofNat 8 s.1, s.2))
      nans := (cs.filter (fun c => c.1.nanZero)).length }
  else
    let cs := live.map (fun v => (convert d.fmt ovf v.1, v.2))
    { es := cs.map (fun c => { bits := c.1.bits, poison := c.2 }), scales := [], nans := (cs.filter (fun c => c.1.nanZero)).length }

/-- Counts NaNs written as zero (R234). -/
def countNans (b n : Nat) : CmdM Unit :=
  modS (fun s => s.updBead b (fun x => { x with perf := { x.perf with nan := (x.perf.nan + n) % 2 ^ 64 } }))

/-- Writes the scale bytes of blocks from position `k0` of a run (R274). -/
def wrScaleAt (c : Ctx) (d : Desc) (xs : List Nat) (k0 : Nat) (scs : List PByte) : CmdM Unit :=
  if scs.isEmpty || d.empty || !d.inside xs then pure ()
  else wr c d.kind d.mx (d.lin xs * d.scaleRow + k0 / 32) scs St.rRegion

/-- Writes one converted segment with its scales. -/
def putSeg (c : Ctx) (d : Desc) (xs : List Nat) (k0 : Nat) (g : Seg64) : CmdM Unit := do
  if d.inside xs then countNans c.b g.nans else pure ()
  wrSeg c d xs k0 g.es
  wrScaleAt c d xs k0 g.scales

/-- The position of a linear index over dimensions 2 to 5, in element order (R398); `none` beyond them. -/
def unlin (d : Desc) (o : Nat) : Option (List Nat) :=
  let x2 := o % d.e 2
  let o := o / d.e 2
  let x3 := o % d.e 3
  let o := o / d.e 3
  let x4 := o % d.e 4
  let x5 := o / d.e 4
  if d.empty then none else if x5 < d.e 5 then some [x2, x3, x4, x5] else none

/-- Leaves the written hulls undefined. -/
def undefHulls (c : Ctx) (rs : List Rng) : CmdM Unit := rs.forM (fun r => if r.wr then wrFree c 2 r.lo 0 r.len St.rScratch else pure ())

/-- Hulls of a tile written at an origin (R398, R402). -/
def tileHull (d : Desc) (f n o1 o2 oc : Nat) : List Rng :=
  match unlin d o2 with
  | none => []
  | some hi =>
    let box := (o1, o1 + 64 * f) :: hi.map (fun x => (x, x + 1))
    boxHull d (64 * oc) (64 * (oc + n)) box true ++
      (if d.fmt.scaled then boxScales d (64 * oc) (64 * (oc + n)) box true else [])

/-- May a tile be converted into this destination (R280, R292)? -/
def Desc.sinkOk (d : Desc) : Bool := d.legal && d.sparsity == 0

/-- F and N of Table 12-9. -/
def drainF (w : CmdWord) : Nat := 2 ^ fld w 23 22
def drainN (w : CmdWord) : Nat := 2 ^ fld w 25 24

/-- The hulls of DRAIN. -/
def drainHulls (x : Bead) (w : CmdWord) : List Rng :=
  tileHull (x.desc (fld w 15 8)).compute (drainF w) (drainN w) (fld w 87 64) (fld w 111 88) (fld w 127 112)

/-- The effect of DRAIN (R398). -/
def drainRun (c : Ctx) (w : CmdWord) : CmdM Unit := do
  let x := (← getS).bead c.b
  let d := (x.desc (fld w 15 8)).compute
  let o := out2Of w
  if !d.sinkOk then undefHulls c (drainHulls x w)
  else
    match unlin d (fld w 111 88) with
    | none => pure ()
    | some hi =>
      (List.range (drainF w)).forM (fun φ => (List.range 64).forM (fun r => (List.range (drainN w)).forM (fun b => do
        let vs := (List.range 64).map (fun q =>
          let e := x.accGet (fld w 21 16 + b * drainF w + φ) r q
          (preConv o d e.bits, e.poison))
        let xs := (fld w 87 64 + 64 * φ + r) :: hi
        let k0 := 64 * (fld w 127 112 + b)
        notePoison (vs.any (·.2))
        if d.inside xs && decide (k0 < d.e 0) then putSeg c d xs k0 (convSeg d o.ovf k0 vs) else pure ())))

/-! ## The spill form -/

/-- The bytes of a slot in the spill form, with marks (R231). -/
def spillBytes (x : Bead) (slot : Nat) : List PByte :=
  slotCells.flatMap (fun p => let e := x.accGet slot p.1 p.2; (leBytes 5 e.bits).map (fun b => (b, e.poison)))

/-- Writes slots in the spill form from a scratchpad offset. -/
def spillSlots (c : Ctx) (slot n sp : Nat) : CmdM Unit :=
  (List.range n).forM (fun i => do
    let x := (← getS).bead c.b
    wr c 2 sp (i * 20480) (spillBytes x (slot + i)) St.rScratch)

/-- Reads slots back; `add` combines with what they hold. -/
def fillSlots (c : Ctx) (slot n sp : Nat) (f : AccElem → AccElem → AccElem) : CmdM Unit :=
  (List.range n).forM (fun i => do
    let es := unpack 40 4096 (← rd c 2 sp (i * 20480) 20480 St.rScratch)
    modS (fun s => s.updBead c.b (fun x =>
      (slotCells.zip es).foldl (fun x p => x.accPut (slot + i) p.1.1 p.1.2 (f (x.accGet (slot + i) p.1.1 p.1.2) p.2)) x)))

/-- F × N of SPILL and FILL. -/
def spillCount (w : CmdWord) : Nat := 2 ^ fld w 15 14 * 2 ^ fld w 17 16

/-- The effect of SPILL (R400). -/
def spillRun (c : Ctx) (w : CmdWord) : CmdM Unit := spillSlots c (fld w 13 8) (spillCount w) (fld w 42 20)

/-- The effect of FILL (R400). -/
def fillRun (c : Ctx) (w : CmdWord) : CmdM Unit := do
  fillSlots c (fld w 13 8) (spillCount w) (fld w 42 20)
    (fun old e => if flag w 18 then accAdd (flag w 19) e old else e)
  notePoison (((← getS).bead c.b).accBad (fld w 13 8) (spillCount w))

end Sys2Proof.Machine
end

