-- ==== Sys2Proof/Machine/Vector.lean ====
section
/-! DEFINITION. The vector unit: VOP microprograms (R403, Table 12-13) and RED (R404, R237 to R239). -/

namespace Sys2Proof.Machine

/-- The value of an element of a format, rounded into FP32 (R403). -/
def workVal (f : ElemFmt) (bits : Nat) (sc : PByte) : Fp :=
  rn .fp32 (if f.scaled then Fp.mul (decodeElem f bits) (e8m0 sc.1.toNat) else decodeElem f bits)

/-- The elements of a run of an input as FP32 values, up to its extent. -/
def rdWork (c : Ctx) (d : Desc) (xs : List Nat) : CmdM (List (Fp × Bool)) := do
  if d.empty || !d.inside xs then return []
  else
    let es ← rdDense c d xs (d.e 0) St.rScratch
    let scs ← if d.fmt.scaled && d.mx != 0 then (List.range (ceilDiv (d.e 0) 32)).mapM (rdScale c d xs) else pure []
    return ((List.range es.length).zip es).map (fun (i, e) =>
      let sc := scs.getD (i / 32) oneScale
      (workVal d.fmt e.bits sc, e.poison || sc.2))

/-- The pad value of an input. -/
def padWork (d : Desc) : Fp × Bool := (workVal d.fmt (d.enc d.pad) oneScale, false)

/-- An input's position for a position of the output: extent 1 is broadcast (R403). -/
def broad (d : Desc) (xs : List Nat) : List Nat := (List.range 5).map (fun i => if d.e (i + 1) = 1 then 0 else nth xs i)

/-- Element `i` of an input run read at the output's position `i`. -/
def atOut (d : Desc) (vs : List (Fp × Bool)) (i : Nat) : Fp × Bool :=
  if d.e 0 = 1 then vs.getD 0 (padWork d) else vs.getD i (padWork d)

/-- exp and rsqrt, by the fixed method but for the limits of R399. -/
def vexp (x : Fp) : Fp :=
  match x with
  | .nan => .nan
  | .inf neg => if neg then fpZero else .inf false
  | y => rn .fp32 (decodeFp .w40 (Config.sfu 16 (encodeFp .w40 y) % 2 ^ 40))

/-- The reciprocal square root. -/
def vrsqrt (x : Fp) : Fp :=
  match x with
  | .nan => .nan
  | .inf false => fpZero
  | y => if y.isZero false then .inf false else rn .fp32 (decodeFp .w40 (Config.sfu 17 (encodeFp .w40 y) % 2 ^ 40))

/-- Sum of values in the left-complete order (R237). -/
def sumW (vs : List Fp) : Fp := lcSum (addR .fp32) fpZero vs

/-- Mean of squares (R238). -/
def meanSq (vs : List Fp) : Fp := fdiv .fp32 (sumW (vs.map (fun v => mulR .fp32 v v))) (Fp.ofInt vs.length)

/-- Mean and variance triple of values (R239). -/
def mvOf (vs : List Fp) : MvTriple := lcSum (MvTriple.combine .fp32) ⟨0, fpZero, fpZero⟩ (vs.map (fun v => ⟨1, v, fpZero⟩))

/-- Which inputs a microprogram uses: b, c as input, c as output (Table 12-13). -/
def progB (p : Nat) : Bool := [0x01, 0x02, 0x03, 0x07, 0x08, 0x11, 0x12, 0x21].contains p
def progC (p : Nat) : Bool := [0x03, 0x12].contains p
def progOutC (p : Nat) : Bool := p == 0x20

/-- The microprograms of Table 12-13. -/
def progs : List Nat := [0x01, 0x02, 0x03, 0x04, 0x05, 0x06, 0x07, 0x08, 0x10, 0x11, 0x12, 0x20, 0x21, 0x22]

/-- The descriptors of a VOP. -/
structure Vop where
  prog : Nat
  d : Desc
  a : Desc
  b : Desc
  c : Desc
  ovf : Bool
  p0 : Nat
  p1 : Nat
  deriving DecidableEq, Repr

/-- The fields of VOP. -/
def vopOf (x : Bead) (w : CmdWord) : Vop :=
  { prog := fld w 15 8
    d := (x.desc (fld w 23 16)).compute
    a := (x.desc (fld w 31 24)).compute
    b := (x.desc (fld w 39 32)).compute
    c := (x.desc (fld w 47 40)).compute
    ovf := flag w 48
    p0 := fld w 95 64
    p1 := fld w 127 96 }

namespace Vop

/-- Descriptor indices named (check 2). -/
def descs (v : Vop) : List Nat :=
  [v.d.entry, v.a.entry] ++ (if progB v.prog then [v.b.entry] else []) ++
    (if progC v.prog || progOutC v.prog then [v.c.entry] else [])

/-- Does the microprogram read whole rows of a? -/
def byRow (v : Vop) : Bool := decide (0x10 ≤ v.prog)

/-- Box of the positions of an input that the output reaches. -/
def boxOf (v : Vop) (i : Desc) : List (Nat × Nat) := (List.range 5).map (fun k => (0, min (i.e (k + 1)) (v.d.e (k + 1))))

/-- Hull of an input. -/
def inHull (v : Vop) (i : Desc) : List Rng :=
  let k1 := if v.byRow then i.e 0 else min (i.e 0) (v.d.e 0)
  let box := if v.prog = 0x21 then (List.range 5).map (fun k => (0, i.e (k + 1))) else v.boxOf i
  if v.d.empty then []
  else boxHull i 0 k1 box false ++ (if i.fmt.scaled then boxScales i 0 k1 box false else [])

/-- Hulls (check 4). -/
def hulls (v : Vop) : List Rng :=
  let all := (List.range 5).map (fun k => (0, v.d.e (k + 1)))
  boxHull v.d 0 (v.d.e 0) all true ++ v.inHull v.a ++ (if progB v.prog then v.inHull v.b else []) ++
    (if progC v.prog then v.inHull v.c else []) ++
    (if progOutC v.prog then boxHull v.c 0 (min v.p0 (v.c.e 0)) ((List.range 5).map (fun k => (0, v.c.e (k + 1)))) true else [])

/-- Does the command give undefined data (R280, R292)? -/
def undefined (v : Vop) : Bool :=
  let ok := fun (d : Desc) => d.legal && d.sparsity == 0
  !ok v.d || !ok v.a || (progB v.prog && !ok v.b) || ((progC v.prog || progOutC v.prog) && !ok v.c) ||
  (v.prog == 0x20 && v.d.fmtCode != 10) ||
  (v.prog == 0x21 && (v.d.fmtCode != 10 || v.a.fmtCode != 10 || v.b.fmtCode != 10)) ||
  (v.prog == 0x22 && v.a.fmtCode != 10)

/-- The value of an elementwise microprogram. -/
def elementwise (v : Vop) (a b c : Fp) : Fp :=
  let p0 := decodeFp .fp32 v.p0
  let p1 := decodeFp .fp32 v.p1
  match v.prog with
  | 0x01 => addR .fp32 a b
  | 0x02 => mulR .fp32 a b
  | 0x03 => fmaR .fp32 a b c
  | 0x04 => fmaR .fp32 a p0 p1
  | 0x05 => a
  | 0x06 => rn .fp32 (actFp .fp32 v.p0 p1 a)
  | 0x07 => Fp.max a b
  | _ => Fp.min a b

/-- The value of a row microprogram at element `a` of row `row`. -/
def rowwise (v : Vop) (row : List Fp) (a b c : Fp) : Fp :=
  let p0 := decodeFp .fp32 v.p0
  match v.prog with
  | 0x10 =>
    let m := row.foldl Fp.max (.inf true)
    let ex := fun x => vexp (addR .fp32 x m.neg)
    fdiv .fp32 (ex a) (sumW (row.map ex))
  | 0x11 => mulR .fp32 (mulR .fp32 a (vrsqrt (addR .fp32 (meanSq row) p0))) b
  | _ =>
    let t := mvOf row
    let k := vrsqrt (addR .fp32 (t.variance .fp32 false) p0)
    addR .fp32 (mulR .fp32 (mulR .fp32 (addR .fp32 a t.meanOut.neg) k) b) c

end Vop

/-- Converts FP32 values into elements of the output, counting NaNs written as zero. -/
def convOut (c : Ctx) (d : Desc) (ovf : Bool) (vs : List (Fp × Bool)) : CmdM (List AccElem) := do
  let cs := vs.map (fun v => (convert d.fmt ovf v.1, v.2))
  countNans c.b (cs.filter (fun p => p.1.nanZero)).length
  notePoison (vs.any (·.2))
  return cs.map (fun p => { bits := p.1.bits, poison := p.2 })

/-- Elementwise and row microprograms, output row by row (R403). -/
def vopRows (c : Ctx) (v : Vop) : CmdM Unit :=
  (positions v.d.ext.tail).forM (fun xs => do
    let as ← rdWork c v.a (broad v.a xs)
    let bs ← if progB v.prog then rdWork c v.b (broad v.b xs) else pure []
    let cs ← if progC v.prog then rdWork c v.c (broad v.c xs) else pure []
    let row := as.map (·.1)
    let rowBad := v.byRow && as.any (·.2)
    let vs := (List.range (v.d.e 0)).map (fun i =>
      let a := atOut v.a as i
      let b := atOut v.b bs i
      let e := atOut v.c cs i
      let bad := a.2 || rowBad || (progB v.prog && b.2) || (progC v.prog && e.2)
      (if v.byRow then v.rowwise row a.1 b.1 e.1 else v.elementwise a.1 b.1 e.1, bad))
    wrRun c v.d xs (← convOut c v.d v.ovf vs))

/-- TOPK: indices of the P0 largest elements, ties to the lower index; a row with a NaN, or with fewer
elements, leaves the entries it cannot rank without a stated value. -/
def vopTopk (c : Ctx) (v : Vop) : CmdM Unit :=
  (positions v.a.ext.tail).forM (fun xs => do
    let as ← rdWork c v.a xs
    let vs := as.map (·.1)
    let bad := as.any (·.2)
    let fr ← drawKey
    let rank := fun i => ((List.range vs.length).filter (fun k =>
      let x := vs.getD k .nan
      let y := vs.getD i .nan
      Fp.lt y x || (!Fp.lt x y && decide (k < i)))).length
    let nanRow := vs.any (· = .nan)
    let pick := (List.range v.p0).map (fun p => if nanRow then none else (List.range vs.length).find? (fun i => rank i == p))
    let ids := ((List.range v.p0).zip pick).map (fun (p, o) =>
      ({ bits := match o with
          | some i => i
          | none => freeAt fr (2 * p) % 2 ^ 32
         poison := bad } : AccElem))
    let vals := ((List.range v.p0).zip pick).map (fun (p, o) =>
      (match o with
        | some i => vs.getD i .nan
        | none => decodeFp .fp32 (freeAt fr (2 * p + 1) % 2 ^ 32), bad))
    wrSeg c v.d xs 0 ids
    wrSeg c v.c xs 0 (← convOut c v.c v.ovf vals))

/-- ROUTE: pairs (rank, base + running count) for the experts of each row. -/
def vopRoute (c : Ctx) (v : Vop) : CmdM Unit := do
  let tab ← (List.range (v.b.e 1)).mapM (fun e => if v.b.empty then pure [] else rdDense c v.b [e, 0, 0, 0, 0] (v.b.e 0) St.rScratch)
  let step := fun (cnt : List (Int × Nat)) (e : AccElem) (fr : Nat) =>
    let i := toSigned 32 e.bits
    let n := ((cnt.find? (fun p => p.1 == i)).map (·.2)).getD 0
    let row : List AccElem :=
      if i < 0 then [plain (freeAt fr 0 % 2 ^ 32), plain (freeAt fr 1 % 2 ^ 32)]
      else tab.getD i.toNat []
    let rk := row.getD 0 v.b.padE
    let base := row.getD 1 v.b.padE
    let rkBits := if toSigned 32 v.p1 ≤ (n : Int) then 2 ^ 32 - 1 else rk.bits
    ((i, n + 1) :: cnt.filter (fun p => p.1 != i),
      [({ bits := rkBits, poison := e.poison || rk.poison } : AccElem),
       ({ bits := (base.bits + n) % 2 ^ 32, poison := e.poison || base.poison } : AccElem)])
  let _ ← (List.range (v.a.e 1)).foldlM (fun cnt r => do
    let es ← if v.a.empty then pure [] else rdDense c v.a [r, 0, 0, 0, 0] (v.a.e 0) St.rScratch
    let es := padTo v.p0 v.a.padE es
    let (cnt, out) ← es.foldlM (fun (cnt, out) e => do
      let fr ← drawKey
      let (cnt, o) := step cnt e fr
      pure (cnt, out ++ o)) (cnt, ([] : List AccElem))
    wrSeg c v.d [r, 0, 0, 0, 0] 0 out
    pure cnt) ([] : List (Int × Nat))
  pure ()

/-- PSUM: exclusive prefix sum along dimension 0, wrapping (R221). -/
def vopPsum (c : Ctx) (v : Vop) : CmdM Unit :=
  (positions v.d.ext.tail).forM (fun xs => do
    let es ← if v.a.empty || !v.a.inside (broad v.a xs) then pure [] else rdDense c v.a (broad v.a xs) (v.a.e 0) St.rScratch
    let es := padTo (v.d.e 0) v.a.padE es
    let sums := (es.foldl (fun (acc : List AccElem × AccElem) e =>
      (acc.1 ++ [acc.2], { bits := (acc.2.bits + e.bits) % 2 ^ 32, poison := acc.2.poison || e.poison })) ([], plain 0)).1
    if v.d.fmtCode = 10 then wrRun c v.d xs sums
    else wrRun c v.d xs (← convOut c v.d v.ovf (sums.map (fun e => (rn .fp32 (Fp.ofInt (toSigned 32 e.bits)), e.poison)))))

/-- The effect of VOP (R403). -/
def vopRun (c : Ctx) (w : CmdWord) : CmdM Unit := do
  let v := vopOf ((← getS).bead c.b) w
  if v.undefined then undefHulls c v.hulls
  else if v.prog = 0x20 then vopTopk c v
  else if v.prog = 0x21 then vopRoute c v
  else if v.d.empty then pure ()
  else if v.prog = 0x22 then vopPsum c v
  else vopRows c v

/-! ## RED -/

/-- The output and input of RED. -/
def redD (x : Bead) (w : CmdWord) : Desc := (x.desc (fld w 15 8)).compute
def redA (x : Bead) (w : CmdWord) : Desc := (x.desc (fld w 23 16)).compute

/-- The results of reducing values (R237 to R239): one, or mean and variance; a reduction of nothing other
than MV has no stated value. -/
def redVals (op : Nat) (sample : Bool) (fr : Nat) (vs : List Fp) : List Fp :=
  let none' := decodeFp .fp32 (fr % 2 ^ 32)
  match op with
  | 4 => let t := mvOf vs; [t.meanOut, t.variance .fp32 sample]
  | _ =>
    if vs.isEmpty then [none']
    else match op with
      | 0 => [sumW vs]
      | 1 => [sumW (vs.map (fun v => mulR .fp32 v v))]
      | 2 => [vs.tail.foldl Fp.max (vs.headD fpZero)]
      | _ => [vs.tail.foldl Fp.min (vs.headD fpZero)]

/-- Hulls of RED. -/
def redHulls (x : Bead) (w : CmdWord) : List Rng :=
  let d := redD x w
  let a := redA x w
  let full := fun (t : Desc) => (List.range 5).map (fun k => (0, t.e (k + 1)))
  boxHull a 0 (a.e 0) (full a) false ++ (if a.fmt.scaled then boxScales a 0 (a.e 0) (full a) false else []) ++
    boxHull d 0 (d.e 0) (full d) true

/-- The effect of RED (R404). -/
def redRun (c : Ctx) (w : CmdWord) : CmdM Unit := do
  let x := (← getS).bead c.b
  let d := redD x w
  let a := redA x w
  let dim := fld w 30 28
  let op := fld w 26 24
  if !d.sinkOk || !a.sinkOk || decide (a.rank ≤ dim) then undefHulls c (redHulls x w)
  else if dim = 0 then
    (positions a.ext.tail).forM (fun xs => do
      let vs ← rdWork c a xs
      let bad := vs.any (·.2)
      let fr ← drawKey
      wrSeg c d xs 0 (← convOut c d (flag w 31) ((redVals op (flag w 27) (freeAt fr 0) (vs.map (·.1))).map (fun v => (v, bad)))))
  else
    let lanes := a.ext.set dim 1
    (positions lanes.tail).forM (fun xs => do
      let rows ← (List.range (a.e dim)).mapM (fun i => rdWork c a (setDim xs dim i))
      let fr ← drawKey
      let res := (List.range (a.e 0)).map (fun q =>
        let vs := rows.map (fun r => r.getD q (fpZero, false))
        (redVals op (flag w 27) (freeAt fr q) (vs.map (·.1)), vs.any (·.2)))
      (List.range (if op = 4 then 2 else 1)).forM (fun k => do
        wrSeg c d (setDim xs dim k) 0
          (← convOut c d (flag w 31) (res.map (fun r => (r.1.getD k fpZero, r.2))))))

end Sys2Proof.Machine
end

