-- ==== Sys2Proof/Machine/MergeTree.lean ====
section
/-! DEFINITION. The merge tree: pushes, pulls, and the combination order of R368 (chapter 11). -/

namespace Sys2Proof.Machine

/-! ## Elements of index and weight lists -/

/-- The run and place of element `j` of a tensor, in element order. -/
def elemPlace (d : Desc) (j : Nat) : Option (List Nat × Nat) :=
  if d.empty then none
  else
    let r := j / d.e 0
    (unlin d (r / d.e 1)).map (fun t => (r % d.e 1 :: t, j % d.e 0))

/-- Reads element `j` of a DENSE list of 32-bit elements; beyond it, the pad value. -/
def rdElem32 (c : Ctx) (d : Desc) (j : Nat) : CmdM AccElem := do
  match elemPlace d j with
  | none => return d.padE
  | some (xs, i) =>
    let (x, o) := d.runLoc xs
    return (unpack 32 1 (← rd c 2 x (o + 4 * i) 4 St.rScratch)).headD d.padE

/-- Is a descriptor a legal list of 32-bit elements of a format? -/
def Desc.listOk (d : Desc) (code : Nat) : Bool := d.legal && d.fmtCode == code && d.sparsity == 0

/-! ## Merges -/

/-- The merge a leaf's command belongs to: the first of its MSEQ to which the leaf has not posted its pull
(R358). -/
def State.mergeIx (s : State) (c : Ctx) (mseq : Nat) : Option Nat :=
  s.merges.findIdx? (fun m => m.slice == c.serial && m.mseq == mseq && !(m.pulls.any (·.rank == c.rank)))

/-- The merge at an index. -/
def State.merge (s : State) (i : Nat) : Merge := s.merges.getD i { slice := 0, mseq := 0 }

/-- Opens the merge of a command if none is open; its index. -/
def State.openMerge (s : State) (c : Ctx) (mseq : Nat) : State × Nat :=
  match s.mergeIx c mseq with
  | some i => (s, i)
  | none => ({ s with merges := s.merges ++ [{ slice := c.serial, mseq, since := s.frm.count }] }, s.merges.length)

/-- Changes the merge at an index. -/
def State.updMerge (s : State) (i : Nat) (f : Merge → Merge) : State := { s with merges := s.merges.set i (f (s.merge i)) }

/-- PFMT of a source format (R359). -/
def pfmtOf (d : Desc) : Nat := if d.fmtCode = 11 then 1 else if d.fmtCode = 10 then 2 else 0

/-- The working format of a payload. -/
def pfmtFmt (p : Nat) : ElemFmt := if p = 0 then .fp32 else .w40

/-- What an MTPUSH fixes (R361). -/
def mtFixedOf (x : Bead) (w : CmdWord) : MtFixed :=
  { op := fld w 42 40, pfmt := pfmtOf (x.desc (fld w 15 8)).compute, lanes := fld w 62 56, runs := fld w 51 48 + 1 }

/-- Records of a push. -/
def pushCount (x : Bead) (w : CmdWord) : Nat :=
  let d := (x.desc (fld w 15 8)).compute
  if d.empty then 0 else d.e 1

/-- Check 6 (R361, R363). -/
def mtreeOk (s : State) (c : Ctx) (w : CmdWord) : Bool :=
  let x := s.bead c.b
  let r := c.b / 20 * 16 + fld w 55 52
  let held := match s.mergeIx c (fld w 39 32) with
    | some i => mget (s.merge i).reserved r 0
    | none => 0
  decide (fld w 55 52 < fld w 51 48 + 1) && decide (held + pushCount x w ≤ 4096)

/-- Reserves a push's records in its run (R363). -/
def State.mtReserve (s : State) (c : Ctx) (w : CmdWord) : State :=
  let n := pushCount (s.bead c.b) w
  let (s, i) := s.openMerge c (fld w 39 32)
  s.updMerge i (fun m => { m with reserved := mcount m.reserved (c.b / 20 * 16 + fld w 55 52) n })

/-- Leaves of a die's merge tree in use (R362). -/
def State.mtLeaves (s : State) (die : Nat) : Nat :=
  (s.merges.map (fun m => ((mfind m.fixed die).map (·.runs)).getD 0)).foldl (· + ·) 0 +
    (s.colls.map (fun k => if k.dies.contains die then 16 else 0)).foldl (· + ·) 0

/-- Has the push its leaves, or can it take them now (R362)? -/
def State.mtRoom (s : State) (c : Ctx) (w : CmdWord) : Bool :=
  match s.mergeIx c (fld w 39 32) with
  | some i => (mfind (s.merge i).fixed (c.b / 20)).isSome || decide (s.mtLeaves (c.b / 20) + (fld w 51 48 + 1) ≤ 16)
  | none => decide (s.mtLeaves (c.b / 20) + (fld w 51 48 + 1) ≤ 16)

/-- Hulls of an MTPUSH. -/
def pushHulls (x : Bead) (w : CmdWord) : List Rng :=
  let d := (x.desc (fld w 15 8)).compute
  let n := pushCount x w
  let list := fun (t : Desc) =>
    boxHull t 0 (if t.rank = 1 then min n (t.e 0) else t.e 0) ((List.range 5).map (fun k => (0, t.e (k + 1)))) false
  boxHull d 0 64 [(0, n)] false ++
    (if flag w 43 then [] else list (x.desc (fld w 23 16)).compute) ++
    (if flag w 44 then list (x.desc (fld w 31 24)).compute else [])

/-- Product of a payload element and a weight (R359). -/
def weigh (p : Nat) (g e : AccElem) : AccElem :=
  if p = 2 then e
  else { bits := encodeFp (pfmtFmt p) (Fp.mul (decodeFp (pfmtFmt p) e.bits) (decodeFp .fp32 g.bits)), poison := e.poison || g.poison }

/-- The transform at push (Table 11-2). -/
def pushLanes (f : MtFixed) (es : List AccElem) : List AccElem :=
  match f.op with
  | 2 => ((List.range 64).zip es).map (fun (i, e) =>
      if i < f.lanes then
        { e with bits := if f.pfmt = 2 then e.bits * e.bits % 2 ^ 32
                 else encodeFp (pfmtFmt f.pfmt) (Fp.mul (decodeFp (pfmtFmt f.pfmt) e.bits) (decodeFp (pfmtFmt f.pfmt) e.bits)) }
      else e)
  | 5 => es.take 32 ++ List.replicate 32 (plain 0)
  | _ => es

/-- A payload element of a source format in the payload's bits (R359). -/
def payloadElem (d : Desc) (e : AccElem) : AccElem :=
  if d.fmt = .bf16 ∨ d.fmt = .fp16 then { e with bits := encodeFp .fp32 (decodeFp d.fmt e.bits) } else e

/-- The effect of MTPUSH (R359 to R361, R376). -/
def pushRun (c : Ctx) (w : CmdWord) : CmdM Unit := do
  let s ← getS
  let x := s.bead c.b
  let d := (x.desc (fld w 15 8)).compute
  let di := (x.desc (fld w 23 16)).compute
  let dg := (x.desc (fld w 31 24)).compute
  let fx := mtFixedOf x w
  let die := c.b / 20
  let (s, i) := s.openMerge c (fld w 39 32)
  modS (fun _ => s)
  match mfind (s.merge i).fixed die with
  | some g => if g ≠ fx then throw ⟨St.mtMismatch, 0, 0⟩ else pure ()
  | none => modS (fun s => s.updMerge i (fun m => { m with fixed := mput m.fixed die fx }))
  let okSrc := d.legal && d.sparsity == 0 && d.rank == 2 && [7, 8, 9, 10, 11].contains d.fmtCode
  (List.range (pushCount x w)).forM (fun j => do
    let key ← drawKey
    let es ← if okSrc then (do return padTo 64 d.padE (← rdDense c d [j, 0, 0, 0, 0] (min 64 (d.e 0)) St.rScratch))
      else pure ((List.range 64).map (fun q => plain (freeAt key q % 2 ^ 40)))
    let ix ← if flag w 43 then pure (plain ((fld w 95 64 + j) % 2 ^ 32))
      else if di.listOk 10 then rdElem32 c di j else pure (plain (freeAt key 64 % 2 ^ 32))
    let es := es.map (payloadElem d)
    let es ← if flag w 44 && fx.op != 5 then (do
        let g ← if dg.listOk 9 then rdElem32 c dg j else pure (plain (freeAt key 65 % 2 ^ 32))
        pure (es.map (weigh fx.pfmt g)))
      else pure es
    let lanes := pushLanes fx es
    modS (fun s => s.updMerge i (fun m =>
      let seq := mget m.seqOf c.rank 0
      let m := { m with seqOf := mput m.seqOf c.rank (seq + 1) }
      if ix.poison then { m with poison := true }
      else { m with records := m.records ++
        [(die * 16 + fld w 55 52, { index := ix.bits, lo := c.grank, hi := c.grank + 1, seq, count := 1, lanes })] })))

/-! ## Combination (R368) -/

/-- One lane of a combination other than MV. -/
def combineLane (f : MtFixed) (a b : AccElem) : AccElem :=
  let v :=
    if f.pfmt = 2 then
      let x := toSigned 32 a.bits
      let y := toSigned 32 b.bits
      ofSigned 32 (if f.op = 3 then max x y else if f.op = 4 then min x y else x + y)
    else
      let t := pfmtFmt f.pfmt
      let x := decodeFp t a.bits
      let y := decodeFp t b.bits
      encodeFp t (if f.op = 3 then Fp.max x y else if f.op = 4 then Fp.min x y else Fp.add x y)
  { bits := v, poison := a.poison || b.poison }

/-- Lanes of a combined MV record: means in the lower half, M2 in the upper half (R239). An INT32 payload
has no stated result. -/
def combineMv (f : MtFixed) (key : Nat) (a b : MtRecord) : List AccElem :=
  let t := pfmtFmt f.pfmt
  let at' := fun (r : MtRecord) i => r.lanes.getD i (plain 0)
  let tri := fun i =>
    MvTriple.combine t ⟨a.count, decodeFp t (at' a i).bits, decodeFp t (at' a (32 + i)).bits⟩
      ⟨b.count, decodeFp t (at' b i).bits, decodeFp t (at' b (32 + i)).bits⟩
  let bad := fun i => (at' a i).poison || (at' b i).poison || (at' a (32 + i)).poison || (at' b (32 + i)).poison
  let lane := fun (v : Fp) (i k : Nat) => if f.pfmt = 2 then freeAt key (i + k) % 2 ^ 32 else encodeFp t v
  (List.range 32).map (fun i => if i < f.lanes then { bits := lane (tri i).mean i 0, poison := bad i } else at' a i) ++
  (List.range 32).map (fun i => if i < f.lanes then { bits := lane (tri i).m2 i 32, poison := bad i } else at' a (32 + i))

/-- Two records of one INDEX, the left one first (Table 11-2). -/
def combineRec (f : MtFixed) (key : Nat) (a b : MtRecord) : MtRecord :=
  { a with
    hi := b.hi, seq := 0, count := (a.count + b.count) % 2 ^ 32
    lanes := if f.op = 5 then combineMv f key a b
      else (List.range 64).map (fun i =>
        let x := a.lanes.getD i (plain 0)
        if i < f.lanes then combineLane f x (b.lanes.getD i (plain 0)) else x) }

/-- Inserts by key, keeping equal keys in order. -/
def insBy {α : Type} (lt : α → α → Bool) (x : α) : List α → List α
  | [] => [x]
  | y :: t => if lt x y then x :: y :: t else y :: insBy lt x t

/-- Sorts by key, stably. -/
def sortBy {α : Type} (lt : α → α → Bool) (l : List α) : List α := l.foldl (fun a x => insBy lt x a) []

/-- Order of records: INDEX, RANK_LO, SEQ (R364). -/
def recLt (a b : MtRecord) : Bool :=
  decide (a.index < b.index) || (a.index == b.index && (decide (a.lo < b.lo) || (a.lo == b.lo && decide (a.seq < b.seq))))

/-- The node of R368 over ranks [lo, lo + n), with fuel; a record that another package forwards stands for
its whole node (R371). -/
def mtNode (f : MtFixed) (key : Nat) (rs : List MtRecord) : Nat → Nat → Nat → Option MtRecord
  | 0, _, _ => none
  | fuel + 1, lo, n =>
    match rs.filter (fun r => r.lo == lo && r.hi == lo + n) with
    | r :: t => if n = 1 ∨ t.isEmpty then some { lcSum (combineRec f key) r (r :: t) with lo, hi := lo + n, seq := 0 }
      else some { r with seq := 0 }
    | [] =>
      if n ≤ 1 then none
      else
        let h := leftPart n
        match mtNode f key rs fuel lo h, mtNode f key rs fuel (lo + h) (n - h) with
        | some a, some b => some { combineRec f key a b with lo, hi := lo + n }
        | some a, none => some { a with lo, hi := lo + n }
        | none, some b => some { b with lo, hi := lo + n }
        | none, none => none

/-- Distinct indices of a sorted list of records. -/
def indicesOf (rs : List MtRecord) : List Nat := rs.foldl (fun l r => if l.contains r.index then l else l ++ [r.index]) []

/-- The combined records of a merge in order (R365, R368). -/
def combined (f : MtFixed) (key u : Nat) (rs : List MtRecord) : List MtRecord :=
  let rs := sortBy recLt rs
  if f.op = 0 then rs
  else (indicesOf rs).filterMap (fun i => mtNode f key (rs.filter (·.index == i)) (u + 1) 0 u)

/-! ## Pulls -/

/-- The range of an MTPULL (R365). -/
def pullHi (w : CmdWord) : Nat := if flag w 128 then 2 ^ 32 else fld w 127 96

/-- Does the range hold an index? -/
def pullHas (w : CmdWord) (i : Nat) : Bool := decide (fld w 95 64 ≤ i) && decide (i < pullHi w)

/-- Rows that a DENSE pull writes. -/
def pullRows (d : Desc) (w : CmdWord) : Nat := min (d.e 1) (pullHi w - fld w 95 64)

/-- Hulls of an MTPULL. -/
def pullHulls (x : Bead) (w : CmdWord) : List Rng :=
  let d := (x.desc (fld w 15 8)).compute
  let i := (x.desc (fld w 23 16)).compute
  let mode := fld w 41 40
  boxHull d 0 (d.e 0) [(0, if mode = 0 then pullRows d w else d.e 1)] true ++
    (if mode = 1 then boxHull i 0 (i.e 0) ((List.range 5).map (fun k => (0, i.e (k + 1)))) true else []) ++
    [⟨2, fld w 61 44 * 32, 4, true⟩]

/-- The value of a payload lane. -/
def laneVal (f : MtFixed) (e : AccElem) : Fp :=
  if f.pfmt = 2 then Fp.ofInt (toSigned 32 e.bits) else decodeFp (pfmtFmt f.pfmt) e.bits

/-- The lanes of a record as a row of the destination (R360, R365). -/
def pullRow (f : MtFixed) (d : Desc) (ovf sample : Bool) (r : MtRecord) : List (Option Conv × Bool) :=
  (List.range 64).map (fun i =>
    let e := r.lanes.getD i (plain 0)
    if f.op = 5 then
      if i % 32 < f.lanes then
        let t : MvTriple := ⟨r.count, laneVal f (r.lanes.getD (i % 32) (plain 0)), laneVal f (r.lanes.getD (i % 32 + 32) (plain 0))⟩
        (some (convert d.fmt ovf (if i < 32 then t.meanOut else t.variance (pfmtFmt f.pfmt) sample)), e.poison)
      else (none, false)
    else if i < f.lanes then (some (convert d.fmt ovf (laneVal f e)), e.poison) else (none, false))

/-- The bytes of a record (Table 11-1). -/
def recordBytes (f : MtFixed) (r : MtRecord) : List PByte :=
  let hd := leBytes 4 r.index ++ leBytes 2 r.lo ++ leBytes 2 r.hi ++ leBytes 4 r.seq ++ leBytes 4 r.count ++
    leBytes 1 f.pfmt ++ leBytes 1 f.op ++ leBytes 1 f.lanes ++ List.replicate 13 0
  hd.map (fun b => (b, false)) ++ packP (if f.pfmt = 0 then 32 else 40) (padTo 64 (plain 0) r.lanes)

/-- Writes one row of a DENSE or COMPACT pull. -/
def putPullRow (c : Ctx) (f : MtFixed) (d : Desc) (w : CmdWord) (row : Nat) (r : MtRecord) : CmdM Unit := do
  let cs := pullRow f d (flag w 43) (flag w 42) r
  countNans c.b (cs.filter (fun p => p.1.any (·.nanZero))).length
  wrRun c d [row, 0, 0, 0, 0] (cs.map (fun p => match p.1 with
    | some v => { bits := v.bits, poison := p.2 }
    | none => d.padE))

/-- Writes the records of a pull and its count word; answers whether any was dropped (R365, R366). -/
def putPull (c : Ctx) (f : MtFixed) (w : CmdWord) (ents : Bytes) (rs : List MtRecord) : CmdM Bool := do
  let x := { (← getS).bead c.b with sp := ents }
  let d := (x.desc (fld w 15 8)).compute
  let di := (x.desc (fld w 23 16)).compute
  let mode := fld w 41 40
  let rs := rs.filter (fun r => pullHas w r.index)
  let lo := fld w 95 64
  let count := if mode = 0 then (indicesOf rs).length else rs.length
  let fits := fun k => !d.empty && decide (k < d.e 1)
  let bad := !d.sinkOk || (mode != 2 && !([7, 8, 9, 10].contains d.fmtCode)) || (mode == 1 && !di.listOk 10)
  if bad then undefHulls c (pullHulls x w)
  else if mode = 0 then
    if d.empty then pure ()
    else
      (List.range (pullRows d w)).forM (fun k =>
        wrRun c d [k, 0, 0, 0, 0] (List.replicate 64 d.zeroE))
      rs.forM (fun r => if fits (r.index - lo) then putPullRow c f d w (r.index - lo) r else pure ())
  else
    rs.zipIdx.forM (fun (r, k) => do
      if mode = 1 then
        if fits k then putPullRow c f d w k r else pure ()
        match elemPlace di k with
        | some (xs, i) => wrSeg c di xs i [plain r.index]
        | none => pure ()
      else if fits k then
        let (a, o) := d.runLoc [k, 0, 0, 0, 0]
        wr c 2 a o ((recordBytes f r).take (ceilDiv (d.e 0 * d.fmt.width) 8)) St.rScratch
      else pure ())
  wr c 2 (fld w 61 44 * 32) 0 ((leBytes 4 count).map (fun b => (b, false))) St.rScratch
  return rs.zipIdx.any (fun (r, k) =>
    if mode = 0 then !fits (r.index - lo) else !fits k || (mode == 1 && (elemPlace di k).isNone))

/-- Posts a pull (R358, R365). -/
def pullRun (c : Ctx) (idx : Nat) (w : CmdWord) (names : List Nat) : CmdM Unit := do
  let s ← getS
  let (s, i) := s.openMerge c (fld w 39 32)
  modS (fun _ => s.updMerge i (fun m => { m with pulls := m.pulls ++ [{ rank := c.rank, bead := c.b, idx, word := w, ents := (s.bead c.b).entries names }] }))

end Sys2Proof.Machine
end

