-- ==== Sys2Proof/Machine/Slice.lean ====
section
/-! DEFINITION. How a slice fails and how a federated part reports (R39, R61, R257, R375, R412, R540, R609):
error records of leaves, the completion record, and what a failure takes back. -/

namespace Sys2Proof.Machine

/-! ## The slice completion record (Table 12-17) -/

/-- Outcomes of the record. -/
def outCommitted : Nat := 0
def outFaulted : Nat := 1
def outInterrupted : Nat := 2
def outS1Done : Nat := 3

/-- The bytes of the record. `runNs` is the time from the start-clasp signal to the last END. -/
def complBytes (uid : Nat) (sl : Slice) (outcome runNs slipNs poisoned : Nat) : List Byte :=
  let flt := sl.fault.getD { status := 0, rank := 0, cmd := 0, reason := 0 }
  let lanes := (sl.batch.map (·.lanes)).getD []
  let flags := (if sl.overrun then 1 else 0) + (if sl.replay then 2 else 0) + (if sl.warnCount ≠ 0 then 4 else 0) +
    (if poisoned ≠ 0 then 8 else 0)
  leBytes 2 uid ++ leBytes 1 outcome ++ leBytes 1 flags ++ leBytes 2 flt.status ++ leBytes 2 flt.rank ++
    leBytes 4 flt.cmd ++ leBytes 1 flt.reason ++ leBytes 3 0 ++ leBytes 8 sl.frame ++ leBytes 4 sl.header.bound ++
    leBytes 4 (min sl.maxCycles (2 ^ 32 - 1)) ++ leBytes 2 sl.warnStatus ++ leBytes 2 sl.warnRank ++
    leBytes 4 sl.warnCount ++ leBytes 2 lanes.length ++ leBytes 2 (lanes.filter (·.aborted)).length ++
    leBytes 2 poisoned ++ leBytes 2 0 ++ leBytes 4 runNs ++ leBytes 4 slipNs ++ leBytes 8 sl.header.addr

/-- Writes the record to COMPL_ADDR; outside a WORK or SESSION region of the unit nothing is written and the
case is counted (R412). -/
def State.writeCompl (s : State) (uid : Nat) (sl : Slice) (outcome runNs slipNs poisoned : Nat) : State :=
  let ua := sl.header.complAddr
  if ua = 0 then s
  else
    match regionAt (s.set.cur.table uid) ua with
    | some r =>
      if r.cls ≠ .const ∧ ua + 64 ≤ r.ua + r.len then
        s.memWrite (r.phys + (ua - r.ua)) (complBytes uid sl outcome runNs slipNs poisoned)
      else s.count cntComplRec
    | none => s.count cntComplRec

/-! ## Leaves -/

/-- ARG of a bead's error record (Table 19-5). -/
def State.fltArg (s : State) (f : Flt) (rank idx : Nat) : Nat :=
  match f.status / 256 with
  | 0x06 => f.arg
  | 0x07 => f.arg
  | 0x09 => f.arg
  | 0x0C => s.set.cur.netPkg.pkgId + f.arg * 2 ^ 32
  | _ => idx + rank * 2 ^ 32

/-- Writes a leaf's error record (R257, R258). -/
def State.leafRec (s : State) (b rank idx : Nat) (f : Flt) (covered : Bool) : State :=
  s.raiseU (((s.bead b).pos).getD 0xFFFF) f.status (s.fltArg f rank idx) f.reason (beadAgent b) covered

/-- Notes the earliest fault of a slice. -/
def Slice.noteFault (sl : Slice) (f : SliceFault) : Slice := { sl with fault := some (sl.fault.getD f) }

/-- Notes a fault of no command and no leaf: FAULT_RANK and FAULT_CMD have no stated value. -/
def State.noteLoose (s : State) (uid status : Nat) : State :=
  let (r, s) := s.fresh
  let (c, s) := s.fresh
  s.updSlice uid (·.noteFault { status, rank := r % 2 ^ 16, cmd := c % 2 ^ 32, reason := 0 })

/-- Stops a leaf (R39): its command, its window and its waits go; the scratchpad that its
commands have written and its slots are undefined for the next slice (R61, R230). -/
def State.stopLeaf (s : State) (b : Nat) : State :=
  let s := s.withdrawBead b
  let e := s.freeCtr
  let u := ((s.bead b).pos.bind s.set.cur.unit?).getD { uid := b }
  let s := { s with freeCtr := e + 1, mtWait := sDel b s.mtWait }
  s.updBead b (fun x =>
    { (x.wrote.foldl (fun x r => x.spUndefine r.1 r.2 e) x).accUndefine u.slotBase u.slotCount e with
      phase := .stopped, window := [], held := none, wrote := [] })

/-! ## Remote members of a federation -/

/-- The package of a rank of a federation. -/
def FedRec.peerOf (f : FedRec) (rank : Nat) : Nat := ((f.peers.find? (·.1 == rank)).map (·.2)).getD 0

/-- The packages of the other members. -/
def FedRec.others (f : FedRec) : List Nat := (f.peers.filter (·.1 != f.rank)).map (·.2)

/-- The federation state of a FED record. -/
def State.fed (s : State) (fedUid : Nat) : Fed := mget s.net.feds fedUid { fedUid := fedUid }

/-- Changes the federation state. -/
def State.updFed (s : State) (fedUid : Nat) (g : Fed → Fed) : State :=
  { s with net := { s.net with feds := mupd s.net.feds fedUid { fedUid := fedUid } g } }

/-- Sends a VC0 message to every other member. -/
def State.tellFed (s : State) (f : FedRec) (kind : Nat) (fields : List Nat) : State :=
  f.others.foldl (fun s p => s.tell p kind fields) s

/-- The group UID of a unit's collectives and merges: its FED_UID when it is federated (R525). -/
def State.groupUid (s : State) (uid : Nat) : Nat := ((s.set.cur.fedOf uid).map (·.fedUid)).getD uid

/-- EPOCH of a slice (R527). -/
def State.epochOf (s : State) (uid : Nat) (sl : Slice) : Nat :=
  match s.set.cur.fedOf uid with
  | some f => (s.fed f.fedUid).epoch
  | none => sl.frame % 2 ^ 32

/-! ## Failure -/

/-- Discards what belongs to a slice: its merges, collectives and held early payloads (R375). -/
def State.discardOpen (s : State) (sl : Slice) : State :=
  { s with
    merges := s.merges.filter (fun m => m.slice != sl.serial)
    colls := s.colls.filter (fun k => k.slice != sl.serial)
    early := s.early.filter (fun p => !sl.beads.contains p.bead) }

/-- Tells the other packages of a federated unit that its open collectives have failed (R534, R609); a facet fault is
told as `RAS_BEAD_FAULT`. -/
def State.tellColls (s : State) (uid : Nat) (sl : Slice) (status : Nat) : State :=
  match s.set.cur.fedOf uid with
  | none => s
  | some f => (s.colls.filter (fun k => k.slice == sl.serial)).foldl (fun s k =>
      s.tellFed f 0x0010 [f.fedUid, s.epochOf uid sl, k.seq, if status = St.rasFacetFault then St.rasBeadFault else status]) s

/-- Fails the slice of a unit, whose earliest fault has been noted (R39): every leaf stops, the WORK ranges it
wrote are undefined, pages return to the pool, held signals go, the record is written and then the outgoing
clasps get the error flag. A native unit keeps its batch for the replay (R67). -/
def State.failSlice (s : State) (uid outcome : Nat) (dependsOn : Option Nat := none) : State :=
  match (s.unitSt uid).slice with
  | none => s
  | some sl =>
    let s1 := s.set.cur.s1 uid
    let status := (sl.fault.map (·.status)).getD 0
    let s := s.tellColls uid sl status
    let s := sl.beads.foldl State.stopLeaf s
    let s := sl.work.foldl (fun s r => s.memUndef r.1 r.2) s
    let s := sl.objs.foldl State.dropObj s
    let s := s.discardOpen sl
    let batch := sl.batch.map (fun b => { b with stage := 0 })
    let replay := if s1 then none else some { header := sl.header, batch, dependsOn }
    let s := s.updUnit uid (fun u => { u with slice := none, slip := 0, replay })
    let (v, s) := s.fresh
    let s := s.writeCompl uid sl outcome v 0 0
    if s1 then s else sl.header.outClasps.foldl State.opFail s

/-! ## The decision of a federated slice (R540) -/

/-- Rank 0 decides once it holds a FED_READY from every member: the local part commits, or fails and is replayed
by the next FED_START. -/
def State.fedDecide (s : State) (f : FedRec) : State :=
  let st := s.fed f.fedUid
  if !st.running || decide (st.ready.length < f.members) then s
  else
    let s := s.updFed f.fedUid (fun x => { x with running := false, ready := [], firstBad := 0 })
    if st.firstBad = 0 then
      (s.tellFed f 0x0024 [f.fedUid, st.epoch]).updSlice f.localUid (fun sl => { sl with phase := .committing, endAt := s.now })
    else
      let s := s.tellFed f 0x0025 [f.fedUid, st.epoch, st.firstBad]
      (s.noteLoose f.localUid st.firstBad).failSlice f.localUid outFaulted

/-- A member's status reaches rank 0. -/
def State.fedReport (s : State) (f : FedRec) (rank status : Nat) : State :=
  (s.updFed f.fedUid (fun x =>
    { x with ready := mput x.ready rank status, firstBad := if x.firstBad = 0 then status else x.firstBad })).fedDecide f

/-- The local part of a federated unit has ended or faulted. -/
def State.fedLocal (s : State) (uid status : Nat) : State :=
  match s.set.cur.fedOf uid with
  | none => s
  | some f =>
    if f.rank = 0 then s.fedReport f 0 status
    else
      s.tell (f.peerOf 0) 0x0023 [f.fedUid, (s.fed f.fedUid).epoch, status]

/-- A leaf's fault fails its slice: the leaf's record, the slice's fault, and R39. -/
def State.failLeaf (s : State) (b rank idx uid : Nat) (f : Flt) (outcome : Nat := outFaulted) (covered : Bool := false)
    (dependsOn : Option Nat := none) : State :=
  let s := (s.traceCmd b idx 0 3 f.status).traceFault b
  let s := s.leafRec b rank idx f covered
  let s := s.updSlice uid (·.noteFault { status := f.status, rank, cmd := idx, reason := f.reason })
  (s.failSlice uid outcome dependsOn).fedLocal uid f.status

/-- The unit whose failed slice flagged a clasp, if one waits for its replay (R611). -/
def State.flaggedBy (s : State) (id : Nat) : Option Nat :=
  (s.units.find? (fun p => match p.2.replay with
    | some r => r.header.outClasps.contains id
    | none => false)).map (fun p => ((p.2.replay.bind (·.dependsOn)).getD p.1))

end Sys2Proof.Machine
end

