-- ==== Sys2Proof/Machine/Collective.lean ====
section
/-! DEFINITION. Fused collectives (R401, R402, R524 to R534) and the delivery of merges (R364 to R368): what a
member hands to the exchange, placement at the receivers, reduction, mismatch and timeouts. -/

namespace Sys2Proof.Machine

/-! ## Fields of XMMA and XDRAIN -/

/-- A fused command: KIND, ROP, tile, origin, destination, conversion, MAP_DESC, and ROOT or CNT
(Tables 12-6, 12-9, 12-11). -/
structure Fused where
  kind : Nat
  rop : Nat
  f : Nat
  n : Nat
  slot : Nat
  o1 : Nat
  o2 : Nat
  oc : Nat
  dst : Desc
  o : Out2
  map : Desc
  tail : Nat
  deriving DecidableEq, Repr

/-- The opcode byte of a command word. -/
def opcodeOf (w : CmdWord) : Nat := fld w 7 0

/-- The fused command of a word. -/
def fusedOf (x : Bead) (w : CmdWord) : Fused :=
  let map := (x.desc (fld w 167 160)).compute
  if opcodeOf w = 0x23 then
    { kind := fld w 170 168, rop := fld w 172 171, f := 2 ^ fld w 47 46, n := 2 ^ fld w 49 48, slot := fld w 45 40
      o1 := fld w 119 96, o2 := 0, oc := fld w 135 120, dst := (x.desc (fld w 159 152)).compute
      o := { ovf := flag w 173, int := (mmaJob x w).int, quant := false, act := 0, param := 0 }, map, tail := fld w 191 174 }
  else
    { kind := fld w 170 168, rop := fld w 172 171, f := drainF w, n := drainN w, slot := fld w 21 16
      o1 := fld w 87 64, o2 := fld w 111 88, oc := fld w 127 112, dst := (x.desc (fld w 15 8)).compute
      o := out2Of w, map, tail := fld w 191 174 }

namespace Fused

/-- RSCAT and ALLRED exchange raw values (R401). -/
def reduces (u : Fused) : Bool := u.kind == 2 || u.kind == 3

/-- Rows and columns of the tile. -/
def rows (u : Fused) : Nat := 64 * u.f
def cols (u : Fused) : Nat := 64 * u.n

/-- Element type of the signature (R525). -/
def elemCode (u : Fused) : Nat := if u.reduces then (if u.o.int then 0x0A else 0x0B) else u.dst.fmtCode

/-- Bytes of a row of the payload. -/
def rowBytes (u : Fused) : Nat := ceilDiv (u.cols * u.dst.fmt.width) 8

/-- Hulls that the command writes as a receiver, its count word and its map (check 4). -/
def hulls (u : Fused) : List Rng :=
  (if u.kind = 0 then
      boxHull u.dst (64 * u.oc) (64 * (u.oc + u.n)) ((0, u.dst.e 1) :: ((unlin u.dst u.o2).getD []).map (fun x => (x, x + 1))) true ++
        boxHull u.map 0 (u.map.e 0) [(0, min u.rows (u.map.e 1))] false ++
        (if u.tail = 0x3FFFF then [] else [⟨2, u.tail * 32, 4, true⟩])
    else if u.kind = 1 ∨ u.kind = 4 then
      boxHull u.dst (64 * u.oc) (64 * (u.oc + u.n)) ((0, u.dst.e 1) :: ((unlin u.dst u.o2).getD []).map (fun x => (x, x + 1))) true
    else tileHull u.dst u.f u.n u.o1 u.o2 u.oc)

end Fused

/-! ## The signature (R525) -/

/-- One bit of CRC-64/ECMA-182. -/
def crcBit (c : Nat) : Nat := if bit c 63 then (c * 2 % 2 ^ 64) ^^^ 0x42F0E1EBA9EA3693 else c * 2 % 2 ^ 64

/-- One byte of the CRC. -/
def crcByte (c : Nat) (b : Byte) : Nat := (List.range 8).foldl (fun c _ => crcBit c) (c ^^^ (b.toNat * 2 ^ 56))

/-- CRC-64/ECMA-182, initial value 0, no reflection, no final XOR. -/
def crc64 (bs : List Byte) : Nat := bs.foldl crcByte 0

/-- The signature of a fused command. -/
def Fused.sig (u : Fused) (group seq : Nat) : Nat :=
  crc64 (leBytes 2 group ++ leBytes 2 seq ++ leBytes 1 u.kind ++ leBytes 1 u.elemCode ++
    leBytes 1 (if u.reduces then u.rop else 0) ++ leBytes 1 0 ++ leBytes 4 (u.rows * u.cols))

/-! ## Sending -/

/-- Element (row, column) of the tile in the accumulator slots (R227). -/
def tileElem (x : Bead) (u : Fused) (row col : Nat) : AccElem :=
  x.accGet (u.slot + col / 64 * u.f + row / 64) (row % 64) (col % 64)

/-- A converted row of the tile, and the NaNs written as zero (R401). -/
def sendRow (x : Bead) (u : Fused) (row : Nat) : List AccElem × Nat :=
  let vs := (List.range u.cols).map (fun q => let e := tileElem x u row q; (preConv u.o u.dst e.bits, e.poison))
  let cs :=
    if u.dst.fmt.scaled && u.dst.mx != 0 then
      (List.range (u.cols / 32)).flatMap (fun i =>
        let blk := (vs.drop (32 * i)).take 32
        let sc := mxScaleFor u.dst.fmt ((blk.take (u.dst.e 0 - (64 * u.oc + 32 * i))).map (·.1))
        blk.map (fun v => (mxConvert u.dst.fmt sc v.1, v.2)))
    else vs.map (fun v => (convert u.dst.fmt u.o.ovf v.1, v.2))
  (cs.map (fun c => { bits := c.1.bits, poison := c.2 }), (cs.filter (fun c => c.1.nanZero)).length)

/-- The (rank, row) pairs of a map row; a rank outside the group, −1 among them, names no member. -/
def rdMap (c : Ctx) (u : Fused) (row : Nat) : CmdM (List (Nat × Nat)) := do
  let key ← drawKey
  let vals ←
    if !u.map.listOk 10 then pure ((List.range 16).map (fun i => plain (freeAt key i % 2 ^ 32)))
    else if row < u.map.e 1 then rdDense c u.map [row, 0, 0, 0, 0] (min 16 (u.map.e 0)) St.rScratch
    else pure (List.replicate (min 16 (u.map.e 0)) u.map.padE)
  return (List.range (vals.length / 2)).filterMap (fun i =>
    let r := toSigned 32 (vals.getD (2 * i) (plain 0)).bits
    if 0 ≤ r ∧ r < c.size then some (r.toNat, (vals.getD (2 * i + 1) (plain 0)).bits % 2 ^ 32) else none)

/-- Tile rows and where a destination member puts them, in order (Table 12-12). -/
def sendsTo (c : Ctx) (u : Fused) (pairs : List (List (Nat × Nat))) (dst : Nat) : List (Nat × Nat) :=
  match u.kind with
  | 0 => (List.range u.rows).flatMap (fun r => ((pairs.getD r []).filter (·.1 == dst)).map (fun p => (r, p.2)))
  | 1 => (List.range u.rows).map (fun r => (r, u.o1 + r))
  | 4 => if c.grank = u.tail % 4096 then (List.range u.rows).map (fun r => (r, u.o1 + r)) else []
  | _ => []

/-- Cuts rows where their destinations stop being consecutive (R526). -/
def cutRows : List (Nat × Nat) → List (List (Nat × Nat))
  | [] => []
  | p :: t =>
    match cutRows t with
    | (q :: g) :: gs => if q.2 = p.2 + 1 then (p :: q :: g) :: gs else [p] :: (q :: g) :: gs
    | gs => [p] :: gs

/-- A poison bit per 64 bytes. -/
def poisonBits (bs : List PByte) : List Bool :=
  (List.range (ceilDiv bs.length 64)).map (fun i => ((bs.drop (64 * i)).take 64).any (·.2))

/-- Sends a member's payloads to one destination: rows, then LAST with TOTAL (R526, R528). -/
def sendPayloads (h : CollHdr) (u : Fused) (es : List (List AccElem)) (way : List (Nat × Nat)) : CmdM Unit := do
  let gs := cutRows way
  let gs' : List (List (Nat × Nat)) := if gs.isEmpty then [[]] else gs
  gs'.zipIdx.forM (fun (p : List (Nat × Nat) × Nat) => do
    let g := p.1
    let i := p.2
    let bs := g.flatMap (fun p => packP u.dst.fmt.width (es.getD p.1 []))
    let h := { h with drow := (g.head?.map Prod.snd).getD 0, nrows := g.length, last := i + 1 == max 1 gs.length, total := way.length }
    modS (fun s => s.emit (.coll { h with total := if h.last then h.total else 0 } (bs.map (·.1)) (poisonBits bs))))

/-! ## The collective of a slice -/

/-- The index of an open collective. -/
def State.collIx (s : State) (serial seq : Nat) : Option Nat := s.colls.findIdx? (fun k => k.slice == serial && k.seq == seq)

/-- The collective at an index. -/
def State.coll (s : State) (i : Nat) : Coll := s.colls.getD i { slice := 0, seq := 0 }

/-- Changes a collective. -/
def State.updColl (s : State) (i : Nat) (f : Coll → Coll) : State := { s with colls := s.colls.set i (f (s.coll i)) }

/-- Changes the part of a local rank. -/
def Coll.updPart (k : Coll) (rank : Nat) (f : CollPart → CollPart) : Coll :=
  { k with parts := k.parts.map (fun p => if p.rank = rank then f p else p) }

/-- Opens the collective of a sequence number if it is not open; its index. -/
def State.openColl (s : State) (serial seq : Nat) : State × Nat :=
  match s.collIx serial seq with
  | some i => (s, i)
  | none => ({ s with colls := s.colls ++ [{ slice := serial, seq, since := s.frm.count }] }, s.colls.length)

/-- Has a member all of its data (R528, R531)? -/
def CollPart.done (p : CollPart) (size : Nat) : Bool :=
  p.reduced || (decide (p.ended.length = size) && p.rowsGot == p.rowsDue)

/-- Does a fused command have its die's merge tree, or can it take it now (R531)? -/
def State.collRoom (s : State) (c : Ctx) (w : CmdWord) : Bool :=
  let u := fusedOf (s.bead c.b) w
  !u.reduces || s.mtLeaves (c.b / 20) == 0 ||
    (match s.collIx c.serial (s.bead c.b).collSeq with
      | some i => (s.coll i).dies.contains (c.b / 20)
      | none => false)

/-- The effect of a fused command beyond its products: its part is handed over, and its payloads leave. Answers
the sequence number. -/
def fuseRun (c : Ctx) (idx : Nat) (w : CmdWord) (names : List Nat) : CmdM Nat := do
  let s ← getS
  let x := s.bead c.b
  let u := fusedOf x w
  let seq := x.collSeq
  let group := s.groupUid c.uid
  let epoch := ((s.unitSt c.uid).slice.map (s.epochOf c.uid)).getD 0
  let sig := u.sig group seq
  notePoison (x.accBad u.slot (u.f * u.n))
  if !u.dst.sinkOk then undefHulls c u.hulls else pure ()
  let tile := if u.reduces then (List.range u.rows).flatMap (fun r => (List.range u.cols).map (tileElem x u r)) else []
  modS (fun s =>
    let (s, i) := s.openColl c.serial seq
    (s.updColl i (fun k =>
      { k with
        parts := k.parts ++ [{ rank := c.rank, bead := c.b, idx, word := w, sig, ents := x.entries names, tile }]
        dies := if u.reduces then sIns (c.b / 20) k.dies else k.dies })).updBead c.b (fun x => { x with collSeq := seq + 1 }))
  if u.reduces then pure ()
  else
    let rows := (List.range u.rows).map (sendRow x u)
    countNans c.b ((rows.map (·.2)).foldl (· + ·) 0)
    let pairs ← if u.kind = 0 then (List.range u.rows).mapM (rdMap c u) else pure []
    let h : CollHdr := { sig, group, srcRank := c.grank, dstRank := 0, seq, epoch, dorg2 := u.o2, dcb := u.oc, rowBytes := u.rowBytes }
    (List.range c.size).forM (fun dst => sendPayloads { h with dstRank := dst } u (rows.map (·.1)) (sendsTo c u pairs dst))
  return seq

/-! ## Failure of a collective (R532, R534) -/

/-- The local members of a collective complete with a status: the unit's collective clasp gets the flag, and the
slice faults. -/
def State.failColl (s : State) (uid i status : Nat) : State :=
  match (s.unitSt uid).slice with
  | none => s
  | some sl =>
    let k : Coll := s.coll i
    let s := k.parts.foldl (fun s p => s.leafRec p.bead p.rank p.idx ⟨status, 0, k.seq⟩ false) s
    let s : State := match k.parts.map (·.rank) with
      | [] => s
      | r :: rs =>
        let lo := rs.foldl min r
        let cmd := ((k.parts.find? (fun (p : CollPart) => p.rank == lo)).map CollPart.idx).getD 0
        s.updSlice uid (·.noteFault { status, rank := lo, cmd, reason := 0 })
    let cl := ((s.set.cur.unit? uid).map UnitRec.collClasp).getD 0xFFFF
    let s := if cl = 0xFFFF then s else s.opFail cl
    let _ := sl
    (s.failSlice uid outFaulted).fedLocal uid status

/-! ## Receiving -/

/-- Runs a command's work outside its issue, such as a delivery. A fault of it does not arise: every range was
checked at issue. -/
def State.work (s : State) (m : CmdM Unit) : State × Bool :=
  match m { s } with
  | .ok _ t => (t.s, t.poison)
  | .error _ t => (t.s, t.poison)

/-- Notes a non-fault status of a command in the window, unless it has one. -/
def State.noteStatus (s : State) (b idx status : Nat) : State :=
  s.updBead b (fun x => { x with window := x.window.map (fun f => if f.idx = idx ∧ f.status = 0 then { f with status } else f) })

/-- Writes the rows of a payload into the receiver's scratchpad (R529). -/
def placeRows (c : Ctx) (u : Fused) (h : CollHdr) (rows : List Byte) (poison : List Bool) : CmdM Unit :=
  match unlin u.dst h.dorg2 with
  | none => pure ()
  | some hi =>
    (List.range h.nrows).forM (fun i => do
      let bs := ((List.range h.rowBytes).map (fun j =>
        (rows.getD (i * h.rowBytes + j) 0, poison.getD ((i * h.rowBytes + j) / 64) false)))
      let es := unpack u.dst.fmt.width (h.rowBytes * 8 / u.dst.fmt.width) bs
      notePoison (es.any (·.poison))
      wrSeg c u.dst ((h.drow + i) :: hi) (64 * h.dcb) es)

/-- EXCH: the count word receives the rows received, once the member has all its data (R401). -/
def putCount (c : Ctx) (u : Fused) (n : Nat) : CmdM Unit :=
  if u.kind = 0 ∧ u.tail ≠ 0x3FFFF then wr c 2 (u.tail * 32) 0 ((leBytes 4 n).map (fun b => (b, false))) St.rScratch else pure ()

/-- A payload of the member's collective whose signature agrees (R528, R529). -/
def State.takeRows (s : State) (c : Ctx) (i : Nat) (p : CollPart) (h : CollHdr) (rows : List Byte) (poison : List Bool) : State :=
  let u := fusedOf { s.bead c.b with sp := p.ents } p.word
  let (s, bad) := if u.dst.sinkOk && !u.reduces then s.work (placeRows c u h rows poison) else (s, false)
  let p' := { p with
    rowsGot := p.rowsGot + h.nrows
    ended := if h.last then sIns h.srcRank p.ended else p.ended
    rowsDue := if h.last then p.rowsDue + h.total else p.rowsDue }
  let s := s.updColl i (fun k => k.updPart p.rank (fun _ => p'))
  let s := if p'.done c.size && !p.done c.size then (s.work (putCount c u p'.rowsGot)).1 else s
  if bad then s.noteStatus c.b p.idx St.poison else s

/-- The unit whose slice a group UID names. -/
def State.unitOfGroup (s : State) (group : Nat) : Option Nat :=
  (s.units.find? (fun p => p.2.slice.isSome && s.groupUid p.1 == group)).map (·.1)

/-- Bytes held in the early buffer of a bead. -/
def State.earlyBytes (s : State) (b : Nat) : Nat :=
  (s.early.map (fun p => if p.bead = b then 64 + p.rows.length else 0)).foldl (· + ·) 0

/-- What becomes of a payload of a collective. -/
inductive CollRx where
  | taken | stale | early | mismatch | unknown
  deriving DecidableEq, Repr

/-- A payload reaches a leaf (R527 to R532). -/
def State.rxColl (s : State) (h : CollHdr) (rows : List Byte) (poison : List Bool) : State × CollRx :=
  match s.unitOfGroup h.group with
  | none => (s, .unknown)
  | some uid =>
    match (s.unitSt uid).slice with
    | none => (s, .unknown)
    | some sl =>
      let off := ((s.fedGroup uid).map (·.1)).getD 0
      if h.epoch < s.epochOf uid sl then ({ s with net := { s.net with collStale := (s.net.collStale + 1) % 2 ^ 64 } }, .stale)
      else
        match sl.beads[h.dstRank - off]? with
        | none => (s, .unknown)
        | some b =>
          match s.ctx? b with
          | none => (s, .unknown)
          | some c =>
            if c.grank ≠ h.dstRank then (s, .unknown)
            else
              let i := (s.collIx sl.serial h.seq).getD s.colls.length
              match (s.coll i).parts.find? (·.bead == b) with
              | some p =>
                if p.sig ≠ h.sig then (s.failColl uid i St.collMismatch, .mismatch)
                else (s.takeRows c i p h rows poison, .taken)
              | none =>
                if h.seq < (s.bead b).collSeq then (s, .unknown)
                else if s.earlyBytes b + 64 + rows.length ≤ 65536 then
                  ({ s with early := s.early ++ [{ bead := b, h, rows, poison }] }, .taken)
                else (s, .early)

/-- The payloads held for a leaf's fused command are taken as it issues (R530). -/
def State.takeEarly (s : State) (b seq : Nat) : State :=
  let mine := s.early.filter (fun p => p.bead == b && p.h.seq == seq)
  mine.foldl (fun s p => (s.rxColl p.h p.rows p.poison).1)
    { s with early := s.early.filter (fun p => !(p.bead == b && p.h.seq == seq)) }

/-- Do the parts of a reducing collective disagree (R532)? -/
def Coll.clash (k : Coll) : Bool :=
  match k.parts with
  | [] => false
  | p :: ps => ps.any (fun q => q.sig != p.sig)

/-! ## Reduction (R531) -/

/-- What the merge of a reducing collective fixes. -/
def Fused.fixed (u : Fused) : MtFixed :=
  { op := if u.rop = 1 then 3 else if u.rop = 2 then 4 else 1, pfmt := if u.o.int then 2 else 1, lanes := 64, runs := 16 }

/-- One record per row and 64-column chunk of a member's tile. -/
def Fused.records (u : Fused) (grank : Nat) (tile : List AccElem) : List MtRecord :=
  (List.range u.rows).flatMap (fun r => (List.range u.n).map (fun k =>
    { index := r * u.n + k, lo := grank, hi := grank + 1, seq := 0, count := 1
      lanes := (tile.drop (r * u.cols + 64 * k)).take 64 }))

/-- A record that another package forwards. -/
def MtStream.rec (m : MtStream) : MtRecord :=
  { index := m.index, lo := m.lo, hi := m.hi, seq := m.seq, count := m.count
    lanes := m.lanes.map (fun e => { bits := e.1, poison := e.2 }) }

/-- Rows of the combined tile that a member writes (Table 12-12). -/
def Fused.share (u : Fused) (grank size : Nat) : List Nat :=
  if u.kind = 3 then List.range u.rows
  else
    let q := ceilDiv u.rows size
    (span (grank * q) q).filter (fun r => decide (r < u.rows))

/-- Writes a member's share of the combined tile (R401). -/
def putReduced (c : Ctx) (u : Fused) (rs : List MtRecord) : CmdM Unit :=
  match unlin u.dst u.o2 with
  | none => pure ()
  | some hi =>
    (u.share c.grank c.size).forM (fun r => (List.range u.n).forM (fun k =>
      match rs.find? (fun m => m.index == r * u.n + k) with
      | none => pure ()
      | some m => do
        let vs := (List.range 64).map (fun q => let e := m.lanes.getD q (plain 0); (preConv u.o u.dst e.bits, e.poison))
        notePoison (vs.any (·.2))
        let k0 := 64 * (u.oc + k)
        if k0 < u.dst.e 0 then putSeg c u.dst ((u.o1 + r) :: hi) k0 (convSeg u.dst u.o.ovf k0 vs) else pure ()))

/-- The combined tile of a reducing collective reaches a leaf. -/
def State.rxReduce (s : State) (uid seq rank : Nat) (others : List MtStream) : State :=
  match (s.unitSt uid).slice with
  | none => s
  | some sl =>
    match s.collIx sl.serial seq with
    | none => s
    | some i =>
      let k := s.coll i
      match k.parts.find? (·.rank == rank), (sl.beads[rank]?).bind s.ctx? with
      | some p, some c =>
        let u := fusedOf { s.bead c.b with sp := p.ents } p.word
        if !u.reduces || p.reduced || k.parts.length ≠ sl.beads.length then s
        else
          let rs := k.parts.flatMap (fun q => u.records (c.grank - c.rank + q.rank) q.tile) ++ others.map MtStream.rec
          let (s, bad) := if u.dst.sinkOk then s.work (putReduced c u (combined u.fixed s.freeCtr c.size rs)) else (s, false)
          let s := s.updColl i (fun k => k.updPart rank (fun p => { p with reduced := true }))
          if bad then s.noteStatus c.b p.idx St.poison else s
      | _, _ => s

/-- Removes a collective when every local member has completed (its leaves of the tree are released). -/
def State.closeColl (s : State) (size serial seq local' : Nat) : State :=
  { s with colls := s.colls.filter (fun k =>
      !(k.slice == serial && k.seq == seq && k.parts.length == local' && k.parts.all (·.done size))) }

/-! ## Merges (R364 to R368) -/

/-- A leaf's pull fails the slice (R361, R374). -/
def State.failPulls (s : State) (uid status : Nat) (ps : List MtPull) : State :=
  let s := ps.foldl (fun s p => s.leafRec p.bead p.rank p.idx ⟨status, 0, 0⟩ false) s
  let lo := (ps.map (·.rank)).foldl min ((ps.head?.map (·.rank)).getD 0)
  let cmd := ((ps.find? (·.rank == lo)).map (·.idx)).getD 0
  ((s.updSlice uid (·.noteFault { status, rank := lo, cmd, reason := 0 })).failSlice uid outFaulted).fedLocal uid status

/-- The combined records of a merge reach the puller of a local rank. -/
def State.rxMerge (s : State) (uid mseq rank : Nat) (others : List MtStream) : State :=
  match (s.unitSt uid).slice with
  | none => s
  | some sl =>
    match s.merges.findIdx? (fun m => m.slice == sl.serial && m.mseq == mseq && m.pulls.length == sl.beads.length &&
        m.pulls.any (fun p => p.rank == rank && !p.delivered)) with
    | none => s
    | some i =>
      let m := s.merge i
      let fx := (m.fixed.head?.map (·.2)).getD { op := 0, pfmt := 0, lanes := 64, runs := 1 }
      if m.fixed.any (fun p => p.2 != fx) then s.failPulls uid St.mtMismatch (m.pulls.filter (fun p => !p.delivered))
      else
        match m.pulls.find? (fun p => p.rank == rank && !p.delivered), (sl.beads[rank]?).bind s.ctx? with
        | some p, some c =>
          let rs := combined fx s.freeCtr c.size (m.records.map (·.2) ++ others.map MtStream.rec)
          let s := { s with freeCtr := s.freeCtr + 1 }
          let (s, bad, cut) := match putPull c fx p.word p.ents rs { s } with
            | .ok cut t => (t.s, t.poison, cut)
            | .error _ t => (t.s, t.poison, false)
          let s := if bad || m.poison then s.noteStatus c.b p.idx St.poison else s
          let s := if cut then s.noteStatus c.b p.idx St.mtTruncated else s
          let s := s.updMerge i (fun m => { m with pulls := m.pulls.map (fun q => if q.rank = rank then { q with delivered := true } else q) })
          let m := s.merge i
          if m.pulls.all (·.delivered) then { s with merges := s.merges.eraseIdx i } else s
        | _, _ => s

/-- MT_TIMEOUT: a merge has not ended within COLL_TIMEOUT frames of its first push (Table 11-6). -/
def State.mtExpire (s : State) (uid mseq : Nat) : State :=
  match (s.unitSt uid).slice with
  | none => s
  | some sl =>
    match s.merges.find? (fun m => m.slice == sl.serial && m.mseq == mseq && decide (m.since + s.set.cur.frame.collTimeout ≤ s.frm.count)) with
    | none => s
    | some m => s.failPulls uid St.mtTimeout (m.pulls.filter (fun p => !p.delivered))

/-- COLL_TIMEOUT: a fused command has not completed at the COLL_TIMEOUT-th tick after its issue (R534). -/
def State.collExpire (s : State) (uid seq : Nat) : State :=
  match (s.unitSt uid).slice with
  | none => s
  | some sl =>
    match s.collIx sl.serial seq with
    | none => s
    | some i => if (s.coll i).since + s.set.cur.frame.collTimeout ≤ s.frm.count then s.failColl uid i St.collTimeout else s

/-- COLL_FAIL reaches this package (R532, R534). -/
def State.rxCollFail (s : State) (group epoch seq status : Nat) : State :=
  match s.unitOfGroup group with
  | none => s
  | some uid =>
    match (s.unitSt uid).slice with
    | none => s
    | some sl =>
      if s.epochOf uid sl ≠ epoch then s
      else match s.collIx sl.serial seq with
        | none => s
        | some i => s.failColl uid i status

end Sys2Proof.Machine
end

