-- ==== Sys2Proof/Machine/Bead.lean ====
section
/-! DEFINITION. The command processor of a bead (chapter 12): decode checks, resource checks, waits, issue,
completion and signals of every bead command, and the events of a chain. -/

namespace Sys2Proof.Machine

/-! ## Decode checks (R392) -/

/-- Every opcode of Table 12-5. -/
def opcodes : List Nat :=
  [0x00, 0x01, 0x02, 0x08, 0x10, 0x11, 0x12, 0x20, 0x21, 0x22, 0x23, 0x28, 0x29, 0x2A, 0x2B, 0x30, 0x31, 0x38, 0x39,
   0x40, 0x48, 0x49, 0x50, 0x51]

/-- Are the given bit ranges of a word zero? -/
def zeroes (w : CmdWord) (rs : List (Nat × Nat)) : Bool := rs.all (fun r => fld w r.1 r.2 == 0)

/-- θ_q from 0 to 256, or inherit. -/
def thetaOk (w : CmdWord) : Bool := decide (fld w 72 64 ≤ 256) || fld w 72 64 == 0x1FF

/-- Legal fields of MMA, and of XMMA below bit 152. -/
def mmaFields (w : CmdWord) : Bool :=
  zeroes w [(63, 60), (79, 73)] && fld w 57 56 != 3 && fld w 59 58 != 3 && thetaOk w

/-- Legal fields of DRAIN, and of XDRAIN below bit 128. -/
def drainFields (w : CmdWord) : Bool :=
  fld w 23 22 != 3 && (!flag w 28 || flag w 27) && !(flag w 27 && decide (1 < fld w 31 29))

/-- Legal KIND, ROP and ROOT or CNT (Table 12-11). -/
def collFields (w : CmdWord) : Bool :=
  let k := fld w 170 168
  decide (k < 5) && fld w 172 171 != 3 &&
    (k == 0 || (if k = 4 then fld w 191 186 == 0 else fld w 191 174 == 0))

/-- Are the operand fields legal? -/
def fieldsOk (op : Nat) (w : CmdWord) : Bool :=
  match op with
  | 0x08 => zeroes w [(191, 39), (20, 16)]
  | 0x10 | 0x11 | 0x12 => zeroes w [(191, 25)]
  | 0x20 => zeroes w [(191, 152)] && mmaFields w
  | 0x21 => zeroes w [(191, 164)] && fld w 43 42 != 3
  | 0x22 =>
    zeroes w [(63, 63), (79, 75)] && fld w 62 61 != 3 && fld w 74 73 != 3 && thetaOk w &&
      (if flag w 60 then flag w 59 else fld w 57 56 != 3)
  | 0x23 => mmaFields w && collFields w
  | 0x28 => zeroes w [(191, 128)] && drainFields w
  | 0x29 => zeroes w [(191, 43), (24, 20), (19, 18)] && fld w 15 14 != 3
  | 0x2A => zeroes w [(191, 43), (24, 20)] && fld w 15 14 != 3 && (!flag w 19 || flag w 18)
  | 0x2B => zeroes w [(159, 128), (173, 173)] && drainFields w && collFields w
  | 0x30 =>
    zeroes w [(63, 49), (191, 128)] && progs.contains (fld w 15 8) &&
      (fld w 15 8 != 0x20 || (decide (1 ≤ fld w 95 64) && decide (fld w 95 64 ≤ 8))) &&
      (fld w 15 8 != 0x06 || decide (fld w 95 64 ≤ 7))
  | 0x31 => zeroes w [(191, 32)] && decide (fld w 26 24 < 5) && decide (fld w 30 28 < 6)
  | 0x38 =>
    zeroes w [(47, 45), (63, 63), (191, 96)] && decide (fld w 42 40 < 6) && decide (1 ≤ fld w 62 56) &&
      decide (fld w 62 56 ≤ (if fld w 42 40 = 5 then 32 else 64))
  | 0x39 => zeroes w [(31, 24), (63, 62), (191, 129)] && fld w 41 40 != 3
  | 0x40 =>
    zeroes w [(15, 10), (191, 64)] && (fld w 9 8 != 0 || fld w 63 32 != 0) && (fld w 9 8 != 3 || fld w 63 32 == 0)
  | 0x48 | 0x49 => zeroes w [(191, 23)]
  | 0x50 | 0x51 => zeroes w [(191, 44), (25, 21)] && decide (1 ≤ fld w 20 14) && decide (fld w 20 14 ≤ 64)
  | _ => zeroes w [(191, 8)]

/-- Is the clasp word legal (Table 12-4)? -/
def claspWordOk (w : CmdWord) : Bool := fld w 255 250 == 0 && (!sigEn w || sigN w != 0)

/-- The status that decode rejects a command with (R392, R241, R243, R406). -/
def decodeBad (c : Ctx) (debug : Bool) (outs : List Nat) (w : CmdWord) : Option Nat :=
  let op := opcodeOf w
  if !opcodes.contains op then some St.beadBadOpcode
  else if !fieldsOk op w || !claspWordOk w then some St.beadBadField
  else if op = 0x40 && decide (2 ≤ fld w 9 8) && !c.s1 && outs.contains (fld w 31 16) then some St.beadBadField
  else if (op = 0x48 ∨ op = 0x49) ∧ !c.s1 then some St.beadS1Only
  else if (op = 0x50 ∨ op = 0x51) ∧ !debug then some St.beadDebugOff
  else none

/-! ## Resource checks (R254, Table 7-4) -/

/-- What checks 1 to 4 and 7 test of a command. -/
structure Plan where
  shape : Bool := true
  descs : List Nat := []
  slots : Nat × Nat := (0, 0)
  hulls : List Rng := []
  deriving DecidableEq, Repr

/-- The plan of a compute command. -/
def Job.plan (j : Job) (shape : Bool) : Plan := { shape, descs := j.descs, slots := j.slots, hulls := j.hulls }

/-- The plan of a LOUPE. -/
def loupePlan (x : Bead) (w : CmdWord) : Plan :=
  let j := loupeJob x w
  let ds := (if flag w 58 && !flag w 60 || flag w 59 then [fld w 39 32] else []) ++ (if flag w 59 then [fld w 143 136] else [])
  if flag w 60 then { shape := j.shapeOk, descs := ds, hulls := loupeHulls x w }
  else { shape := j.shapeOk, descs := j.descs ++ ds, slots := j.slots, hulls := j.hulls ++ loupeHulls x w }

/-- What a fused command names beyond its products. -/
def Fused.plan (u : Fused) (p : Plan) : Plan :=
  { p with
    descs := p.descs ++ [u.dst.entry] ++ (if u.kind = 0 then [u.map.entry] else [])
    hulls := p.hulls ++ u.hulls }

/-- The plan of a command word. -/
def planOf (x : Bead) (w : CmdWord) : Plan :=
  match opcodeOf w with
  | 0x08 => { descs := [fld w 15 8], hulls := [⟨2, fld w 38 16, 128, false⟩] }
  | 0x10 => let m := moveOf x false w; { descs := m.descs, hulls := m.hulls }
  | 0x11 => let m := moveOf x true w; { descs := m.descs, hulls := m.hulls }
  | 0x12 => let m := moveOf x false w; { descs := m.descs, hulls := m.hulls }
  | 0x20 => let j := mmaJob x w; j.plan j.shapeOk
  | 0x21 => let j := convJob x w; j.plan (j.shapeOk && convShapeOk w)
  | 0x22 => loupePlan x w
  | 0x23 => let j := mmaJob x w; (fusedOf x w).plan (j.plan j.shapeOk)
  | 0x28 => { descs := [fld w 15 8], slots := (fld w 21 16, drainF w * drainN w), hulls := drainHulls x w }
  | 0x29 | 0x2A => { slots := (fld w 13 8, spillCount w), hulls := [⟨2, fld w 42 20, spillCount w * 20480, opcodeOf w == 0x29⟩] }
  | 0x2B => (fusedOf x w).plan { slots := (fld w 21 16, drainF w * drainN w) }
  | 0x30 => let v := vopOf x w; { descs := v.descs, hulls := v.hulls }
  | 0x31 => { descs := [fld w 15 8, fld w 23 16], hulls := redHulls x w }
  | 0x38 =>
    { descs := [fld w 15 8] ++ (if flag w 43 then [] else [fld w 23 16]) ++ (if flag w 44 then [fld w 31 24] else [])
      hulls := pushHulls x w }
  | 0x39 => { descs := [fld w 15 8] ++ (if fld w 41 40 = 1 then [fld w 23 16] else []), hulls := pullHulls x w }
  | 0x48 | 0x49 => { hulls := [⟨2, fld w 22 8 * 256, 64 * 20480, opcodeOf w == 0x48⟩] }
  | 0x50 | 0x51 => { slots := (fld w 13 8, fld w 20 14), hulls := [⟨2, fld w 43 21, fld w 20 14 * 20480, opcodeOf w == 0x50⟩] }
  | _ => {}

/-- Does a slot span lie in the leaf's range (check 3)? -/
def slotsOk (u : UnitRec) (p : Nat × Nat) : Bool :=
  p.2 == 0 || (decide (u.slotBase ≤ p.1) && decide (p.1 + p.2 ≤ u.slotBase + u.slotCount))

/-- The clasps a command uses, with the right's bit and whether its counter changes (check 5). -/
def claspUses (w : CmdWord) : List (Nat × Nat × Bool) :=
  (if waitEn w then [(waitId w, 1, false)] else []) ++ (if sigEn w then [(sigId w, 0, true)] else []) ++
    (if opcodeOf w = 0x40 then
      [(fld w 31 16, (match fld w 9 8 with
        | 0 => 0
        | 1 => 1
        | 2 => 2
        | _ => 3), fld w 9 8 != 1)]
     else [])

/-- Check 5 (R53, R380). -/
def claspOk (t : Setting) (c : Ctx) (w : CmdWord) : Bool :=
  (claspUses w).all (fun p => t.right c.pos p.1 p.2.1 && !(p.2.2 && t.isStart p.1))

/-- The first of checks 1 to 6 that fails (R254). -/
def checkBad (s : State) (c : Ctx) (w : CmdWord) : Option Flt :=
  let p := planOf (s.bead c.b) w
  if !p.shape then some ⟨St.mapOverflow, St.rShape, 0⟩
  else if p.descs.any (fun d => decide (d < c.u.descBase) || decide (c.u.descLast < d)) then some ⟨St.mapOverflow, St.rDesc, 0⟩
  else if !slotsOk c.u p.slots then some ⟨St.mapOverflow, St.rSlots, 0⟩
  else if p.hulls.any (fun r => r.kind == 2 && !inPart c.u r.lo r.len) then some ⟨St.mapOverflow, St.rScratch, 0⟩
  else if !claspOk s.set.cur c w then some ⟨St.mapOverflow, St.rClasp, 0⟩
  else if opcodeOf w = 0x38 ∧ !mtreeOk s c w then some ⟨St.mapOverflow, St.rMtree, 0⟩
  else none

/-! ## Effects at issue -/

/-- Copies 128 bytes of the scratchpad, with their poison marks, into a descriptor entry (R395, R417). -/
def tdsetRun (c : Ctx) (w : CmdWord) : CmdM Unit :=
  modS (fun s => s.putSp c.b (entryAt (fld w 15 8)) ((s.bead c.b).spRead (fld w 38 16) 128))

/-- The descriptor entry a command writes: TDSET, and a STORE that compresses (R325, R395). -/
def entryWritten (x : Bead) (w : CmdWord) : Option Nat :=
  match opcodeOf w with
  | 0x08 => some (fld w 15 8)
  | 0x11 => if (moveOf x true w).compress then some (fld w 23 16) else none
  | _ => none

/-- The scratchpad ranges that a command may write: its destination hulls and its descriptor entry. -/
def writesOf (x : Bead) (w : CmdWord) : List (Nat × Nat) :=
  ((planOf x w).hulls.filter (fun r => r.wr && r.kind == 2)).map (fun r => (r.lo, r.len)) ++
    ((entryWritten x w).map (fun d => (entryAt d, 128))).toList

/-- The effect of a command word at issue; what it still needs before it completes. -/
def effectOf (c : Ctx) (idx : Nat) (w : CmdWord) : CmdM Pend := do
  let x := (← getS).bead c.b
  match hullCheck c (planOf x w).hulls with
  | some f => throw f
  | none => pure ()
  modS (fun s => s.updBead c.b (fun x => { x with wrote := (x.wrote ++ writesOf x w).eraseDups }))
  match opcodeOf w with
  | 0x08 => tdsetRun c w; return .none
  | 0x10 => moveRun c (moveOf x false w); return .none
  | 0x11 => moveRun c (moveOf x true w); return .none
  | 0x12 => moveRun c (moveOf x false w); return .none
  | 0x20 => computeTile c (mmaJob x w); return .none
  | 0x21 => computeTile c (convJob x w); return .none
  | 0x22 => loupeRun c w; return .none
  | 0x23 => computeTile c (mmaJob x w); return .coll (← fuseRun c idx w (planOf x w).descs)
  | 0x28 => drainRun c w; return .none
  | 0x29 => spillRun c w; return .none
  | 0x2A => fillRun c w; return .none
  | 0x2B => return .coll (← fuseRun c idx w (planOf x w).descs)
  | 0x30 => vopRun c w; return .none
  | 0x31 => redRun c w; return .none
  | 0x38 => pushRun c w; return .none
  | 0x39 => pullRun c idx w (planOf x w).descs; return .pull (fld w 39 32)
  | 0x48 => spillSlots c 0 64 (fld w 22 8 * 256); return .none
  | 0x49 => fillSlots c 0 64 (fld w 22 8 * 256) (fun _ e => e); return .none
  | 0x50 => spillSlots c (fld w 13 8) (fld w 20 14) (fld w 43 21); return .none
  | 0x51 => fillSlots c (fld w 13 8) (fld w 20 14) (fld w 43 21) (fun _ e => e); return .none
  | _ => return .none

/-- Commands that complete with POISON (Table 12-15). -/
def poisonOps : List Nat := [0x10, 0x11, 0x12, 0x20, 0x21, 0x22, 0x23, 0x28, 0x29, 0x2A, 0x2B, 0x30, 0x31, 0x38, 0x39]

/-- Commands of the command processor that complete at once. -/
def instantOps : List Nat := [0x00, 0x01, 0x02, 0x40]

/-! ## Completion -/

/-- A signal of the clasp word or of CLASP: held when the slice declares the clasp as outgoing (R394). -/
def State.beadSignal (s : State) (c : Ctx) (idx id n : Nat) : State :=
  let outs := ((s.unitSt c.uid).slice.map (fun sl => sl.header.outClasps)).getD []
  if !c.s1 && outs.contains id then
    s.updSlice c.uid (fun sl => { sl with heldSignals := sl.heldSignals ++ [{ rank := c.rank, idx, clasp := id, n }] })
  else s.opSignal id n

/-- An S1-compatible slice settles at END (R412). -/
def State.settleS1 (s : State) (uid : Nat) (sl : Slice) : State :=
  let s := s.writeCompl uid sl outS1Done ((s.now - sl.startAt) / 1000) 0 0
  let s := sl.beads.foldl (fun s b => s.updBead b (fun x => { x with phase := .idle })) s
  (s.discardOpen sl).updUnit uid (fun u => { u with slice := none, slip := 0 })

/-- A leaf has executed END; with the last of them the commit begins (R38, R390, R496). -/
def State.leafEnd (s : State) (c : Ctx) : State :=
  let x := s.bead c.b
  let cycles := (s.now - x.startedAt) * s.pwr.clk / 1000000
  let s := s.updBead c.b (fun x => { x with phase := .ended, endedAt := s.now })
  let s := s.updSlice c.uid (fun sl => { sl with endedRanks := sIns c.rank sl.endedRanks, maxCycles := max sl.maxCycles cycles })
  match (s.unitSt c.uid).slice with
  | none => s
  | some sl =>
    if sl.endedRanks.length < sl.beads.length then s
    else if c.s1 then s.settleS1 c.uid { sl with endAt := s.now }
    else if (s.set.cur.fedOf c.uid).isSome then
      (s.updSlice c.uid (fun sl => { sl with phase := .waiting, endAt := s.now })).fedLocal c.uid 0
    else s.updSlice c.uid (fun sl => { sl with phase := .committing, endAt := s.now })

/-- A command completes: its status is counted, then CLASP SIGNAL takes effect and the signal of the clasp word is made (R389,
R394, R406). -/
def State.finish (s : State) (c : Ctx) (f : InFlight) : State :=
  let s := s.traceCmd c.b f.idx (opcodeOf f.word) 2 f.status
  let s := if f.status = 0 then s
    else s.updSlice c.uid (fun sl =>
      { sl with
        warnStatus := if sl.warnCount = 0 then f.status else sl.warnStatus
        warnRank := if sl.warnCount = 0 then c.rank else sl.warnRank
        warnCount := sl.warnCount + 1
        poisonSeen := sl.poisonSeen || f.status == St.poison })
  let s := if opcodeOf f.word = 0x40 ∧ fld f.word 9 8 = 0 then s.beadSignal c f.idx (fld f.word 31 16) (fld f.word 63 32) else s
  let s := if sigEn f.word then s.beadSignal c f.idx (sigId f.word) (sigN f.word) else s
  if opcodeOf f.word = 0x01 then s.leafEnd c else s

/-! ## Hazards and release (R43, R44, R47, R388) -/

/-- Has a command in the window done every access (R389)? -/
def State.pendDone (s : State) (c : Ctx) (f : InFlight) : Bool :=
  match f.pend with
  | .none => true
  | .hazard => false
  | .signal => false
  | .coll seq =>
    match s.collIx c.serial seq with
    | none => true
    | some i => (s.coll i).parts.all (fun p => p.bead != c.b || p.done c.size)
  | .pull mseq =>
    !(s.merges.any (fun m => m.slice == c.serial && m.mseq == mseq &&
      m.pulls.any (fun p => p.bead == c.b && p.idx == f.idx && !p.delivered)))

/-- Are accesses of a command in the window still to come? -/
def State.writesDue (s : State) (c : Ctx) (f : InFlight) : Bool :=
  match f.pend with
  | .none => false
  | .signal => false
  | _ => !s.pendDone c f

/-- Do two ranges share a tracked unit: 32 bytes of the scratchpad, or a line of unit memory? -/
def Rng.meets (a b : Rng) : Bool :=
  let g := if a.kind = 2 then 32 else 64
  a.kind == b.kind && a.len != 0 && b.len != 0 && decide (a.lo / g ≤ (b.lo + b.len - 1) / g) && decide (b.lo / g ≤ (a.lo + a.len - 1) / g)

/-- The slots a command touches, and whether it writes them. -/
def slotUse (x : Bead) (w : CmdWord) : Nat × Nat × Bool :=
  let op := opcodeOf w
  let p := if op = 0x48 ∨ op = 0x49 then (0, 64) else (planOf x w).slots
  (p.1, p.2, [0x20, 0x21, 0x22, 0x23, 0x2A, 0x49, 0x51].contains op)

/-- The blocks of Table 12-3 that run a command; 7 stands for the order of the fused commands of a leaf (R56). -/
def blocksOf (w : CmdWord) : List Nat :=
  match opcodeOf w with
  | 0x10 => [4]
  | 0x11 => [5]
  | 0x12 => [4, 5]
  | 0x20 | 0x21 => [1]
  | 0x22 => [1, 2, 3]
  | 0x23 => [1, 7]
  | 0x2B => [2, 7]
  | 0x28 | 0x29 | 0x2A | 0x48 | 0x49 | 0x50 | 0x51 => [2]
  | 0x30 | 0x31 => [3]
  | 0x38 | 0x39 => [6]
  | _ => [0]

/-- Must a command wait for one in the window whose accesses are still to come? Of a fused command and of a pull only the
deliveries are; a command that waits itself has all of its accesses ahead, and its place in its block (R387). -/
def clashes (x : Bead) (f : InFlight) (w : CmdWord) : Bool :=
  let q := planOf x w
  match f.pend with
  | .hazard =>
    let p := planOf x f.word
    let a := slotUse x f.word
    let b := slotUse x w
    p.hulls.any (fun r => q.hulls.any (fun t => (r.wr || t.wr) && r.meets t)) ||
      ((a.2.2 || b.2.2) && decide (a.1 < b.1 + b.2.1) && decide (b.1 < a.1 + a.2.1)) ||
      (entryWritten x f.word).any q.descs.contains || (entryWritten x w).any p.descs.contains ||
      (blocksOf f.word).any (blocksOf w).contains
  | _ => f.due.any (fun d => q.hulls.any (fun t => (⟨d.1, d.2.1, d.2.2, true⟩ : Rng).meets t))

/-- Does a command wait for accesses of earlier commands? -/
def State.mustWait (s : State) (c : Ctx) (idx : Nat) (w : CmdWord) : Bool :=
  (s.bead c.b).window.any (fun f => decide (f.idx < idx) && s.writesDue c f && clashes (s.bead c.b) f w)

/-- Does a completing command wait to signal until earlier writes have been made? -/
def State.signalWaits (s : State) (c : Ctx) (f : InFlight) : Bool :=
  (sigEn f.word || (opcodeOf f.word == 0x40 && fld f.word 9 8 == 0)) &&
    (s.bead c.b).window.any (fun g => decide (g.idx < f.idx) && s.writesDue c g)

/-! ## The stages of a command (R386) -/

/-- Fails the slice of a command. -/
def State.failCmd (s : State) (c : Ctx) (idx : Nat) (f : Flt) (dependsOn : Option Nat := none) : State :=
  s.failLeaf c.b c.rank idx c.uid f outFaulted false dependsOn

/-- Holds a command at a stage. -/
def State.hold (s : State) (c : Ctx) (idx : Nat) (w : CmdWord) (stage : HoldStage) : State :=
  s.updBead c.b (fun x => { x with held := some { idx, word := w, stage, since := s.frm.count } })

/-- What follows the issue of a fused command: mismatch of raw parts, and payloads that came early (R530, R532). -/
def State.afterFuse (s : State) (c : Ctx) (seq : Nat) : State :=
  match s.collIx c.serial seq with
  | none => s
  | some i => if (s.coll i).clash then s.failColl c.uid i St.collMismatch else s.takeEarly c.b seq

/-- A window with a command put into it at the end, or in place of its entry there. -/
def putFlight (l : List InFlight) (f : InFlight) : List InFlight :=
  if l.any (·.idx == f.idx) then l.map (fun g => if g.idx = f.idx then f else g) else l ++ [f]

/-- Puts a command into the window, or changes its entry there. -/
def State.enter (s : State) (c : Ctx) (f : InFlight) : State := s.updBead c.b (fun x => { x with window := putFlight x.window f })

/-- Execution: the effect of a command, which stands in the window until it completes. -/
def State.run (s : State) (c : Ctx) (idx : Nat) (w : CmdWord) : State :=
  let hulls := (planOf (s.bead c.b) w).hulls
  match effectOf c idx w { s } with
  | .error f t => t.s.failCmd c idx f
  | .ok p t =>
    let s := t.s.enter c
      { idx, word := w, status := if t.poison && poisonOps.contains (opcodeOf w) then St.poison else 0, pend := p
        due := if p = .none then [] else (hulls.filter (·.wr)).map (fun r => (r.kind, r.lo, r.len)) }
    match p with
    | .coll seq => s.afterFuse c seq
    | _ => s

/-- Issue: NOP, END, FENCE and CLASP complete at once, but for a signal that waits for earlier writes; any other command runs,
or waits in the window for the accesses of earlier commands. -/
def State.issue (s : State) (c : Ctx) (idx : Nat) (w : CmdWord) : State :=
  let s := (s.traceCmd c.b idx (opcodeOf w) 1 0).updBead c.b (fun x => { x with held := none })
  if instantOps.contains (opcodeOf w) then
    let f : InFlight := { idx, word := w }
    if s.signalWaits c f then s.enter c { f with pend := .signal } else s.finish c f
  else if s.mustWait c idx w then s.enter c { idx, word := w, pend := .hazard }
  else s.run c idx w

/-- Commands of the window whose hazards have gone run, in ring order, with fuel. -/
def State.runWaiting : Nat → State → Ctx → State
  | 0, s, _ => s
  | n + 1, s, c =>
    match (s.bead c.b).window.find? (fun f => f.pend == .hazard && !s.mustWait c f.idx f.word) with
    | none => s
    | some f => (s.run c f.idx f.word).runWaiting n c

/-- Completed commands whose signals wait for nothing more make them, in ring order, with fuel. -/
def State.runSignals : Nat → State → Ctx → State
  | 0, s, _ => s
  | n + 1, s, c =>
    match (s.bead c.b).window.find? (fun f => f.pend == .signal && !s.signalWaits c f) with
    | none => s
    | some f => ((s.updBead c.b (fun x => { x with window := x.window.filter (fun g => g.idx != f.idx) })).finish c f).runSignals n c

/-- Room in the merge tree (R362, R531). -/
def State.atTree (s : State) (c : Ctx) (idx : Nat) (w : CmdWord) : State :=
  let room := match opcodeOf w with
    | 0x38 => s.mtRoom c w
    | 0x23 => s.collRoom c w
    | 0x2B => s.collRoom c w
    | _ => true
  let first := s.mtWait.head?.all (fun b => b == c.b || b / 20 != c.b / 20)
  if room && first then { s with mtWait := sDel c.b s.mtWait }.issue c idx w
  else
    (if s.mtWait.contains c.b then s else { s with mtWait := s.mtWait ++ [c.b] }).hold c idx w .mtree

/-- The pre-scan (R332, R333). -/
def State.atPrescan (s : State) (c : Ctx) (idx : Nat) (w : CmdWord) : State :=
  let x := s.bead c.b
  let pre := match opcodeOf w with
    | 0x20 => (mmaJob x w).prescans
    | 0x22 => !flag w 60 && (loupeJob x w).prescans
    | 0x23 => (mmaJob x w).prescans
    | _ => false
  if pre then s.hold c idx w .prescan else s.atTree c idx w

/-- The operation of CLASP (R406). -/
def State.atClasp (s : State) (c : Ctx) (idx : Nat) (w : CmdWord) : State :=
  if opcodeOf w ≠ 0x40 then s.atPrescan c idx w
  else
    let id := fld w 31 16
    let v := fld w 63 32
    match fld w 9 8 with
    | 0 => s.issue c idx w
    | 3 => (s.opReset id).issue c idx w
    | op =>
      let s := if op = 2 then ((s.claspAdd id 1).settle id).resumeStalled else s
      let k := s.clasp id
      if k.err then s.failCmd c idx ⟨St.clpError, 0, s.claspArg id⟩ (s.flaggedBy id)
      else if v ≤ k.counter then s.issue c idx w
      else ((s.traceCmd c.b idx 0x40 4 0).postWait (.bead c.b) id v).hold c idx w .claspOp

/-- FENCE and END issue when every earlier command has completed (R390). -/
def State.atFence (s : State) (c : Ctx) (idx : Nat) (w : CmdWord) : State :=
  if (opcodeOf w = 0x01 ∨ opcodeOf w = 0x02) ∧ (s.bead c.b).window ≠ [] then s.hold c idx w .fence
  else s.atClasp c idx w

/-- The wait half of the clasp word (R393). -/
def State.atWait (s : State) (c : Ctx) (idx : Nat) (w : CmdWord) : State :=
  if !waitEn w then s.atFence c idx w
  else
    let k := s.clasp (waitId w)
    if k.err then s.failCmd c idx ⟨St.clpError, 0, s.claspArg (waitId w)⟩ (s.flaggedBy (waitId w))
    else if waitTgt w ≤ k.counter then s.atFence c idx w
    else ((s.traceCmd c.b idx (opcodeOf w) 4 0).postWait (.bead c.b) (waitId w) (waitTgt w)).hold c idx w .wait

/-- Decode and checks 1 to 6. -/
def State.decodeCmd (s : State) (c : Ctx) (idx : Nat) (w : CmdWord) : State :=
  let s := (s.traceCmd c.b idx (opcodeOf w) 0 0).updBead c.b (fun x => { x with next := idx + 1 })
  let outs := ((s.unitSt c.uid).slice.map (fun sl => sl.header.outClasps)).getD []
  match decodeBad c (s.bead c.b).debug outs w with
  | some st => s.failCmd c idx ⟨st, St.rDecode, 0⟩
  | none =>
    match checkBad s c w with
    | some f => s.failCmd c idx f
    | none => (if opcodeOf w = 0x38 then s.mtReserve c w else s).atWait c idx w

/-- Commands that wait for leaves of a merge tree take them, in order of arrival (R362). -/
def State.resumeMt (s : State) : State :=
  s.mtWait.foldl (fun s b =>
    match (s.bead b).held, s.ctx? b with
    | some h, some c => if h.stage = .mtree then s.atTree c h.idx h.word else s
    | _, _ => s) s

/-- Offset of a command in the ring (R384). -/
def Bead.ringAt (x : Bead) (i : Nat) : Nat := x.ringBase * 4096 + 32 * i % (x.ringPages * 4096)

/-- The command word that decode takes next. -/
def Bead.ringWord (x : Bead) : CmdWord := BitVec.ofNat 256 (x.sp.readNat (x.ringAt x.next) 32)

/-- Does the word name a descriptor entry that a waiting command has yet to write (R43, R45)? -/
def Bead.entryDue (x : Bead) (w : CmdWord) : Bool :=
  x.window.any (fun f => f.pend == .hazard && (entryWritten x f.word).any (planOf x w).descs.contains)

/-- Can the bead decode this word as its next command? -/
def Bead.ready (x : Bead) (w : CmdWord) : Bool :=
  x.phase == .running && x.held.isNone && decide (x.window.length < 16) && decide (x.next < x.chainLen) &&
    decide (x.next < x.fetched) && x.ringWord == w && !x.entryDue w

/-- A bead command: the row's opcode, or an opcode of no row (R392). A word that is not the bead's next one
leaves everything as it is (log 20). -/
def State.beadCmd (s : State) (op : Nat) (b : Nat) (w : CmdWord) : State :=
  let x := s.bead b
  if x.ready w && (opcodeOf w == op || !opcodes.contains (opcodeOf w)) then
    match s.ctx? b with
    | none => s
    | some c => (s.decodeCmd c x.next w).resumeMt
  else s

/-! ## Events of a chain -/

/-- COMMAND_COMPLETE. -/
def State.complete (s : State) (b idx : Nat) : State :=
  match s.ctx? b, (s.bead b).window.find? (·.idx == idx) with
  | some c, some f =>
    if !s.pendDone c f then s
    else
      let s := if s.signalWaits c f then s.enter c { f with pend := .signal }
        else (s.updBead b (fun x => { x with window := x.window.filter (fun g => g.idx != idx) })).finish c f
      let s : State := match f.pend with
        | .coll seq => s.closeColl c.size c.serial seq (((s.unitSt c.uid).slice.map (fun sl => sl.beads.length)).getD 0)
        | _ => s
      let s := (s.runWaiting 16 c).runSignals 16 c
      let s : State := match (s.bead b).held with
        | some h => if h.stage = HoldStage.fence ∧ (s.bead b).window = [] then s.atClasp c h.idx h.word else s
        | none => s
      s.resumeMt
  | _, _ => s

/-- PRESCAN_END. -/
def State.prescanDone (s : State) (b : Nat) : State :=
  match s.ctx? b, (s.bead b).held with
  | some c, some h => if h.stage = .prescan then s.atTree c h.idx h.word else s
  | _, _ => s

/-- Reads one 64-byte line of the chain into the ring (R384, R385). -/
def State.fetchLine (s : State) (b : Nat) : State :=
  let x := s.bead b
  match s.ctx? b with
  | none => s
  | some c =>
    let oldest := (x.window.map (·.idx) ++ (x.held.map (·.idx)).toList).foldl min x.next
    if !(x.phase == .starting || x.phase == .running || x.phase == .preempting) || decide (x.chainLen ≤ x.fetched) ||
        decide (oldest + x.ringPages * 128 < x.fetched + 2) then s
    else
      match s.uaPa c (x.chain + 32 * x.fetched) false St.rAccess with
      | .error f => s.failCmd c x.fetched f
      | .ok pa =>
        let n := min 2 (x.chainLen - x.fetched)
        let bs := s.mem.readP pa (32 * n)
        let s := s.meterMove c.top (b / 20) pa 64 false
        (List.range n).foldl (fun s k =>
          (s.putSp b (x.ringAt (x.fetched + k)) ((bs.drop (32 * k)).take 32)).updBead b (fun x => { x with fetched := x.fetched + 1 })) s

/-- Decode reaches CHAIN_LEN without END (check 9). -/
def State.chainOver (s : State) (b : Nat) : State :=
  let x := s.bead b
  match s.ctx? b with
  | none => s
  | some c =>
    if x.phase = .running ∧ x.held = none ∧ x.next = x.chainLen then s.failCmd c x.next ⟨St.mapOverflow, St.rChain, 0⟩ else s

/-- The checks of a leaf's entry at the acquisition of the start clasp (R383). -/
def entryBad (t : Setting) (c : Ctx) (x : Bead) (outs : List Nat) : Option Flt :=
  if !inPart c.u (x.ringBase * 4096) (x.ringPages * 4096) then some ⟨St.mapOverflow, St.rScratch, 0⟩
  else if !c.s1 && outs.any (fun id => !t.right c.uid id 0 || t.isStart id) then some ⟨St.mapOverflow, St.rClasp, 0⟩
  else none

/-- A leaf acquires the start clasp (R380). A fault here is of no command: its chain index has no stated value. -/
def State.acquire (s : State) (c : Ctx) (err : Bool) : State :=
  let outs := ((s.unitSt c.uid).slice.map (fun sl => sl.header.outClasps)).getD []
  let cl := ((s.set.cur.unit? c.uid).map (·.startClasp)).getD 0xFFFF
  let s := s.updBead c.b (fun x => { x with wake := none, phase := .running, startedAt := s.now })
  let (v, t) := s.fresh
  if err then t.failCmd c (v % 2 ^ 32) ⟨St.clpError, 0, s.claspArg cl⟩ (s.flaggedBy cl)
  else match entryBad s.set.cur c (s.bead c.b) outs with
    | some f => t.failCmd c (v % 2 ^ 32) f
    | none => s

/-- The wake of a completed wait reaches the bead (R476). -/
def State.wakeBead (s : State) (b : Nat) : State :=
  let x := s.bead b
  match x.wake, s.ctx? b with
  | some err, some c =>
    if x.phase = .starting then s.acquire c err
    else
      match x.held with
      | none => s
      | some h =>
        let id := if h.stage = .claspOp then fld h.word 31 16 else waitId h.word
        let s := (s.updBead b (fun x => { x with wake := none })).traceCmd b h.idx (opcodeOf h.word) 5 (if err then St.clpError else 0)
        if err then s.failCmd c h.idx ⟨St.clpError, 0, s.claspArg id⟩ (s.flaggedBy id)
        else match h.stage with
          | .wait => s.atFence c h.idx h.word
          | .claspOp => s.issue c h.idx h.word
          | _ => s
  | _, _ => s

/-- A bead wait is unsatisfied COLL_TIMEOUT ticks after it began (R393). -/
def State.waitExpire (s : State) (b : Nat) : State :=
  let x := s.bead b
  match x.held, s.ctx? b with
  | some h, some c =>
    if (h.stage = .wait ∨ h.stage = .claspOp) ∧ x.wake = none ∧ h.since + s.set.cur.frame.collTimeout ≤ s.frm.count then
      let id := if h.stage = .claspOp then fld h.word 31 16 else waitId h.word
      s.failCmd c h.idx ⟨St.clpTimeout, 0, s.claspArg id⟩
    else s
  | _, _ => s

/-- A leaf's cycle count passes BOUND (R171). -/
def State.overrun (s : State) (uid rank cycles : Nat) : State :=
  match (s.unitSt uid).slice with
  | none => s
  | some sl =>
    let s := s.updSlice uid (fun sl => { sl with maxCycles := max sl.maxCycles cycles })
    if s.set.cur.s1 uid || sl.overrun || decide (cycles ≤ sl.header.bound) then s
    else (s.updSlice uid (fun sl => { sl with overrun := true })).raiseU uid St.sliceOverrun 0 0 (beadAgent (nth sl.beads rank))

/-! ## Preemption (R408) -/

/-- The command processor has drained its window: it saves the slots and stops. -/
def State.preemptSave (s : State) (b : Nat) : State :=
  let x := s.bead b
  match s.ctx? b with
  | none => s
  | some c =>
    if x.phase = .preempting ∧ x.window = [] ∧ x.held = none then
      if !inPart c.u (x.preemptArea * 256) (64 * 20480) then s.failCmd c x.next ⟨St.mapOverflow, St.rScratch, 0⟩
      else
        let s := (s.work (spillSlots c 0 64 (x.preemptArea * 256))).1
        let s := s.updBead b (fun x => { x with phase := .preempted, preemptNext := x.next })
        s.raiseU c.pos St.beadPreempted (x.next + c.rank * 2 ^ 32) 0 (beadAgent b)
    else s

/-- RESUME restores the slots; decode goes on at NEXT. -/
def State.preemptBack (s : State) (b : Nat) : State :=
  match s.ctx? b with
  | none => s
  | some c => (s.work (fillSlots c 0 64 ((s.bead b).preemptArea * 256) (fun _ e => e))).1.updBead b (fun x => { x with phase := .running })

/-! ## The commands -/

/-- NOP (R395). -/
def execNop (b : BeadId) (w : CmdWord) (s : State) : Host.Outcome State Fault Refusal := s.unlessDown <| .next (s.beadCmd 0x00 b w)
/-- END (R390). -/
def execEndChain (b : BeadId) (w : CmdWord) (t : Nat) (s : State) : Host.Outcome State Fault Refusal := s.unlessDown <| .next ((s.at t).beadCmd 0x01 b w)
/-- FENCE (R390). -/
def execFence (b : BeadId) (w : CmdWord) (s : State) : Host.Outcome State Fault Refusal := s.unlessDown <| .next (s.beadCmd 0x02 b w)
/-- TDSET (R395). -/
def execTdset (b : BeadId) (w : CmdWord) (s : State) : Host.Outcome State Fault Refusal := s.unlessDown <| .next (s.beadCmd 0x08 b w)
/-- LOAD (R396). -/
def execLoad (b : BeadId) (w : CmdWord) (s : State) : Host.Outcome State Fault Refusal := s.unlessDown <| .next (s.beadCmd 0x10 b w)
/-- STORE (R396). -/
def execStore (b : BeadId) (w : CmdWord) (s : State) : Host.Outcome State Fault Refusal := s.unlessDown <| .next (s.beadCmd 0x11 b w)
/-- COPY (R396). -/
def execCopy (b : BeadId) (w : CmdWord) (s : State) : Host.Outcome State Fault Refusal := s.unlessDown <| .next (s.beadCmd 0x12 b w)
/-- MMA (R397). -/
def execMma (b : BeadId) (w : CmdWord) (s : State) : Host.Outcome State Fault Refusal := s.unlessDown <| .next (s.beadCmd 0x20 b w)
/-- CONV (R249). -/
def execConv (b : BeadId) (w : CmdWord) (s : State) : Host.Outcome State Fault Refusal := s.unlessDown <| .next (s.beadCmd 0x21 b w)
/-- LOUPE (R347). -/
def execLoupe (b : BeadId) (w : CmdWord) (s : State) : Host.Outcome State Fault Refusal := s.unlessDown <| .next (s.beadCmd 0x22 b w)
/-- XMMA (R401). -/
def execXmma (b : BeadId) (w : CmdWord) (s : State) : Host.Outcome State Fault Refusal := s.unlessDown <| .next (s.beadCmd 0x23 b w)
/-- DRAIN (R398). -/
def execDrain (b : BeadId) (w : CmdWord) (s : State) : Host.Outcome State Fault Refusal := s.unlessDown <| .next (s.beadCmd 0x28 b w)
/-- SPILL (R400). -/
def execSpill (b : BeadId) (w : CmdWord) (s : State) : Host.Outcome State Fault Refusal := s.unlessDown <| .next (s.beadCmd 0x29 b w)
/-- FILL (R400). -/
def execFill (b : BeadId) (w : CmdWord) (s : State) : Host.Outcome State Fault Refusal := s.unlessDown <| .next (s.beadCmd 0x2A b w)
/-- XDRAIN (R401). -/
def execXdrain (b : BeadId) (w : CmdWord) (s : State) : Host.Outcome State Fault Refusal := s.unlessDown <| .next (s.beadCmd 0x2B b w)
/-- VOP (R403). -/
def execVop (b : BeadId) (w : CmdWord) (s : State) : Host.Outcome State Fault Refusal := s.unlessDown <| .next (s.beadCmd 0x30 b w)
/-- RED (R404). -/
def execRed (b : BeadId) (w : CmdWord) (s : State) : Host.Outcome State Fault Refusal := s.unlessDown <| .next (s.beadCmd 0x31 b w)
/-- MTPUSH (R359). -/
def execMtpush (b : BeadId) (w : CmdWord) (s : State) : Host.Outcome State Fault Refusal := s.unlessDown <| .next (s.beadCmd 0x38 b w)
/-- MTPULL (R365). -/
def execMtpull (b : BeadId) (w : CmdWord) (s : State) : Host.Outcome State Fault Refusal := s.unlessDown <| .next (s.beadCmd 0x39 b w)
/-- CLASP (R406). -/
def execClasp (b : BeadId) (w : CmdWord) (s : State) : Host.Outcome State Fault Refusal := s.unlessDown <| .next (s.beadCmd 0x40 b w)
/-- SAVE (R242). -/
def execSave (b : BeadId) (w : CmdWord) (s : State) : Host.Outcome State Fault Refusal := s.unlessDown <| .next (s.beadCmd 0x48 b w)
/-- RESTORE (R242). -/
def execRestore (b : BeadId) (w : CmdWord) (s : State) : Host.Outcome State Fault Refusal := s.unlessDown <| .next (s.beadCmd 0x49 b w)
/-- DBGRD (R409). -/
def execDbgrd (b : BeadId) (w : CmdWord) (s : State) : Host.Outcome State Fault Refusal := s.unlessDown <| .next (s.beadCmd 0x50 b w)
/-- DBGWR (R409). -/
def execDbgwr (b : BeadId) (w : CmdWord) (s : State) : Host.Outcome State Fault Refusal := s.unlessDown <| .next (s.beadCmd 0x51 b w)
/-- COMMAND_COMPLETE (R389). -/
def execCommandComplete (b : BeadId) (idx : Nat) (s : State) : Host.Outcome State Fault Refusal := s.unlessDown <| .next (s.complete b idx)
/-- PRESCAN_END (R333). -/
def execPrescanEnd (b : BeadId) (s : State) : Host.Outcome State Fault Refusal := s.unlessDown <| .next (s.prescanDone b)
/-- CHAIN_FETCH (R384). -/
def execChainFetch (b : BeadId) (s : State) : Host.Outcome State Fault Refusal := s.unlessDown <| .next (s.fetchLine b).resumeMt
/-- CHAIN_OVERRUN (R385). -/
def execChainOverrun (b : BeadId) (s : State) : Host.Outcome State Fault Refusal := s.unlessDown <| .next (s.chainOver b).resumeMt
/-- CLASP_WAKE (R476). -/
def execClaspWake (b : BeadId) (t : Nat) (s : State) : Host.Outcome State Fault Refusal := s.unlessDown <| .next ((s.at t).wakeBead b).resumeMt
/-- CLP_TIMEOUT (R393). -/
def execClpTimeout (b : BeadId) (s : State) : Host.Outcome State Fault Refusal := s.unlessDown <| .next (s.waitExpire b).resumeMt
/-- SLICE_OVERRUN (R171). -/
def execSliceOverrun (uid rank cycles : Nat) (s : State) : Host.Outcome State Fault Refusal := s.unlessDown <| .next (s.overrun uid rank cycles)
/-- BEAD_PREEMPTED (R408). -/
def execPreempted (b : BeadId) (s : State) : Host.Outcome State Fault Refusal := s.unlessDown <| .next (s.preemptSave b)
/-- COLL_TIMEOUT (R534). -/
def execCollTimeout (uid seq : Nat) (s : State) : Host.Outcome State Fault Refusal := s.unlessDown <| .next ((s.collExpire uid seq).resumeMt)
/-- MT_TIMEOUT (R374). -/
def execMtTimeout (uid mseq : Nat) (s : State) : Host.Outcome State Fault Refusal := s.unlessDown <| .next ((s.mtExpire uid mseq).resumeMt)
/-- COLL_FAIL (R532). -/
def execCollFail (_peer group epoch seq status : Nat) (s : State) : Host.Outcome State Fault Refusal := s.unlessDown <|
  .next ((s.rxCollFail group epoch seq status).resumeMt)

end Sys2Proof.Machine
end

