-- ==== Sys2Proof/Machine/Session.lean ====
section
/-! DEFINITION. The session engine (chapter 15): messages, replies and rings, the session table, aborts and
closes. -/

namespace Sys2Proof.Machine

/-! ## Objects as bytes -/

/-- Bytes of an object with their marks; beyond its pages, zero. -/
def State.objRead (s : State) (h off n : Nat) : List PByte :=
  let fs := mget s.bpm.lists h []
  let pb := pageBytes (s.set.cur.frameKind (hFrame h))
  (span off n).flatMap (fun o => if o < fs.length * pb then s.mem.readP (nth fs (o / pb) * 4096 + o % pb) 1 else [(0, false)])

/-- Writes bytes into an object. -/
def State.objWrite (s : State) (h off : Nat) (bs : List Byte) : State :=
  let fs := mget s.bpm.lists h []
  let pb := pageBytes (s.set.cur.frameKind (hFrame h))
  (linePieces off bs.length).foldl (fun s (o, l) =>
    s.memWrite (nth fs ((off + o) / pb) * 4096 + (off + o) % pb) ((bs.drop o).take l)) s

/-- Marks the lines of an object that the poisoned 64-byte units of a message with a 48-byte header reach (R517). -/
def State.objMark (s : State) (h n pois : Nat) : State :=
  let fs := mget s.bpm.lists h []
  let pb := pageBytes (s.set.cur.frameKind (hFrame h))
  (List.range n).foldl (fun s o => if bit pois ((o + 48) / 64) then s.memMark (nth fs (o / pb) * 4096 + o % pb) 1 else s) s

/-! ## Message headers -/

/-- The header of Table 15-5 as bytes. -/
def sesHeader (m : SesMsg) : List Byte :=
  leBytes 1 m.type ++ leBytes 1 (if m.urgent then 1 else 0) ++ leBytes 2 m.svc ++ leBytes 4 m.handle ++ leBytes 4 m.reqSeq ++
    leBytes 4 m.budget ++ leBytes 2 m.status ++ leBytes 2 m.appStatus ++ leBytes 4 m.payload.length ++ leBytes 8 m.tag ++
    leBytes 8 m.commitFrame ++ leBytes 8 0

/-- A client's message from its bytes: nonzero reserved bits, a STATUS, APP_STATUS or COMMIT_FRAME are kept
as `rsv`, since a client may not set them. -/
def sesParse (hd : List Byte) (payload : List Byte) : SesMsg :=
  let f := fun o n => leNat ((hd.drop o).take n)
  { type := f 0 1, urgent := bit (f 1 1) 0, svc := f 2 2, handle := f 4 4, reqSeq := f 8 4, budget := f 0x0C 4
    tag := f 0x18 8, payload
    rsv := f 1 1 / 2 + f 0x10 4 + f 0x20 8 + f 0x28 8 }

/-- Is a client's message malformed (R487)? -/
def sesBad (m : SesMsg) (type : Nat) : Bool :=
  m.type != type || m.rsv != 0 || m.status != 0 || m.appStatus != 0 || m.commitFrame != 0 ||
    decide (1048576 < m.payload.length) || (type == 1 && (decide (8 < m.payload.length) || m.handle != 0))

/-! ## Replies -/

/-- Where a reply goes: the client, the reply address of a submission entry, and the window's resets when the
hub consumed it; `none` for a reply that answers no submission. -/
structure ReplyTo where
  client : Client
  addr : Nat := 0
  max : Nat := 0
  epoch : Option Nat := none
  deriving DecidableEq, Repr

/-- The completion entry of Table 15-8. The first pass around the ring writes PHASE 1 (log 31). -/
def complEntry (m : SesMsg) (status resLen tail entries : Nat) : List Byte :=
  leBytes 1 m.type ++ leBytes 1 ((tail / entries + 1) % 2) ++ leBytes 2 status ++ leBytes 4 m.handle ++ leBytes 4 m.reqSeq ++
    leBytes 2 m.appStatus ++ leBytes 2 0 ++ leBytes 4 resLen ++ leBytes 4 0 ++ leBytes 8 m.commitFrame

/-- Has the completion ring of a window room (R489)? -/
def UserWin.cqRoom (x : UserWin) : Bool :=
  x.cqEntries != 0 && x.cqBase != 0 && decide (ahead x.cqTail x.cqHead < x.cqEntries)

/-- Writes one reply: payload, completion entry, vector (R489, R562). -/
def State.putReply (s : State) (w : Nat) (r : Reply) : State :=
  let x := s.win w
  match s.winFn w with
  | none => s
  | some f =>
    let body := r.msg.payload.take r.respMax
    let status := if r.respMax < r.msg.payload.length then St.sesTruncated else r.msg.status
    let s := if body.isEmpty then s else s.emit (.hostWrite f r.respAddr body)
    let s := s.emit (.hostWrite f (x.cqBase + 32 * (x.cqTail % x.cqEntries)) (complEntry r.msg status body.length x.cqTail x.cqEntries))
    let s := s.updWin w (fun x => { x with cqTail := (x.cqTail + 1) % 2 ^ 32 })
    if x.cqMask then s else s.msix f x.cqVec

/-- Writes the waiting replies of a window while its completion ring has room, with fuel; an endpoint that may not write
discards them (R549). -/
def State.pumpF : Nat → State → Nat → State
  | 0, s, _ => s
  | n + 1, s, w =>
    let x := s.win w
    match x.replies with
    | [] => s
    | r :: rs =>
      let up := match s.winFn w with
        | some f => (s.fn f).busMaster && !s.perst.contains (f / 33)
        | none => false
      if !x.cqRoom then s
      else
        let s := s.updWin w (fun x => { x with replies := rs })
        (if up then s.putReply w r else s.count cntReplyDropped).pumpF n w

/-- Writes the waiting replies of a window. -/
def State.pump (s : State) (w : Nat) : State := s.pumpF (s.win w).replies.length w

/-- Sends a reply. A reply to a submission that a function reset has overtaken is dropped and counted. -/
def State.reply (s : State) (to' : ReplyTo) (m : SesMsg) : State :=
  match to'.client with
  | .peer p => s.netSend p 3 (sesHeader m ++ m.payload)
  | .func _ w =>
    if to'.epoch.any (fun e => e != (s.win w).epoch) then s.count cntReplyDropped
    else (s.updWin w (fun x => { x with replies := x.replies ++ [{ msg := m, respAddr := to'.addr, respMax := to'.max }] })).pump w

/-- The client of a message. -/
def State.clientOf (s : State) (src : MsgFrom) : Client :=
  match src with
  | .peer p => .peer p
  | .sq w _ _ => .func ((s.winFn w).getD 0) w

/-- Where the answer to a message goes. -/
def State.backTo (s : State) (src : MsgFrom) : ReplyTo :=
  match src with
  | .peer p => { client := .peer p }
  | .sq w a m => { client := s.clientOf (.sq w a m), addr := a, max := m, epoch := some (s.win w).epoch }

/-- Where the outcome of a request goes. -/
def Request.backTo (r : Request) (c : Client) : ReplyTo := { client := c, addr := r.respAddr, max := r.respMax, epoch := some r.epoch }

/-- A message header that echoes HANDLE, REQ_SEQ and CLIENT_TAG. -/
def sesAnswer (m : SesMsg) (type status : Nat) : SesMsg := { type, status, handle := m.handle, reqSeq := m.reqSeq, tag := m.tag }

/-- Refuses a message. -/
def State.refuse (s : State) (src : MsgFrom) (m : SesMsg) (status : Nat) : State := s.reply (s.backTo src) (sesAnswer m 9 status)

/-! ## The session table -/

/-- A session entry. -/
def State.ses (s : State) (i : Nat) : Session := mget s.sessions i {}

/-- Changes a session entry. -/
def State.updSes (s : State) (i : Nat) (f : Session → Session) : State := { s with sessions := mupd s.sessions i {} f }

/-- Index and generation of a handle (R27). -/
def sesIx (h : Nat) : Nat := h % 2 ^ 21
def sesGen (h : Nat) : Nat := h / 2 ^ 21 % 2048

/-- The handle of an entry. -/
def State.sesHandle (s : State) (i : Nat) : Nat := i + (s.ses i).gen * 2 ^ 21

/-- The lowest FREE index of a half from `i` on, with fuel (R82, R490). -/
def State.freeSes (s : State) : Nat → Nat → Option Nat
  | 0, _ => none
  | n + 1, i => if 2097152 ≤ i then none else if (s.ses i).state = .free then some i else s.freeSes n (i + 2)

/-- The lowest FREE index of a hub's half. -/
def State.firstSes (s : State) (hub : Nat) : Option Nat := s.freeSes (s.sessions.length + 1) hub

/-- A SERVICE record. -/
def Setting.svc? (t : Setting) (id : Nat) : Option ServiceRec := t.services.find? (·.svc == id)

/-- Is a service admitted by this package: bound to a unit of its own, or rank 0 of the federation (R538)? -/
def Setting.svcHere (t : Setting) (v : ServiceRec) : Bool :=
  if 0x1000 ≤ v.uid then t.feds.any (fun f => f.fedUid == v.uid && f.rank == 0) else true

/-- Takes one unit of a service's count at H0, if it is below SESSION_QUOTA (R490). -/
def State.reserveSes (s : State) (v : ServiceRec) : Option State :=
  if mget s.quota v.svc 0 < v.quota then some { s with quota := mcount s.quota v.svc 1 } else none

/-- Returns one unit of a service's count. -/
def State.returnSes (s : State) (svc : Nat) : State := { s with quota := mupd s.quota svc 0 (· - 1) }

/-- The reservation of an OPEN: the unit reserved for it already, or a new one. -/
def State.quotaFor (s : State) (v : ServiceRec) : Option State :=
  if mget s.sesReserved v.svc 0 ≠ 0 then some { s with sesReserved := mupd s.sesReserved v.svc 0 (· - 1) } else s.reserveSes v

/-- Makes an entry OPEN (R27, R490). -/
def State.openAt (s : State) (i : Nat) (v : ServiceRec) (c : Client) (user : Nat) : State :=
  s.updSes i (fun e =>
    { state := .opened, gen := if e.used then (e.gen + 1) % 2048 else 0, used := true, svc := v.svc, client := c
      openFrame := s.frm.count, lastFrame := s.frm.count, lastAt := s.frm.tickAt, user })

/-- The service a message names: of its window, or of SVC_ID. -/
def State.svcFor (s : State) (src : MsgFrom) (m : SesMsg) : Option ServiceRec :=
  match src with
  | .sq w _ _ => s.set.cur.svcOfWin w
  | .peer _ => s.set.cur.svc? m.svc

/-- OPEN (R490). -/
def State.doOpen (s : State) (src : MsgFrom) (m : SesMsg) (hub : Nat) : State :=
  if sesBad m 1 then s.refuse src m St.sesBadMsg
  else match s.svcFor src m with
    | none => s.refuse src m St.sesNoService
    | some v =>
      if !v.sessions || !s.set.cur.svcHere v then s.refuse src m St.sesNoService
      else match s.quotaFor v with
        | none => s.refuse src m St.sesFull
        | some s1 =>
          match (s1.firstSes (hub % 2)).orElse (fun _ => s1.firstSes (1 - hub % 2)) with
          | none => (s1.returnSes v.svc).refuse src m St.sesFull
          | some i =>
            let s := s1.openAt i v (s.clientOf src) (leNat m.payload)
            s.reply (s.backTo src) { type := 2, handle := s.sesHandle i, tag := m.tag, reqSeq := m.reqSeq }

/-! ## Batches that hold a request -/

/-- Changes every batch of a unit, with whether its commit has begun. -/
def UnitSt.mapBatch (u : UnitSt) (f : Bool → Batch → Batch) : UnitSt :=
  let g := fun (r : Replay) => { r with batch := r.batch.map (f false) }
  { u with
    slice := u.slice.map (fun sl => { sl with batch := sl.batch.map (f (sl.phase == .committing)) })
    replay := u.replay.map g, heldBatch := u.heldBatch.map g, downBatch := u.downBatch.map g }

/-- The batches of a unit, with whether their commit has begun. -/
def UnitSt.batches (u : UnitSt) : List (Bool × Batch) :=
  (u.slice.bind (fun sl => sl.batch.map (fun b => (sl.phase == .committing, b)))).toList ++
    [u.replay, u.heldBatch, u.downBatch].filterMap (fun r => r.bind (fun r => r.batch.map (fun b => (false, b))))

/-- The lane of a session in an admitted batch, with whether the commit has begun. -/
def State.laneOf (s : State) (i : Nat) : Option (Bool × Lane) :=
  (s.units.flatMap (fun p => p.2.batches)).findSome? (fun b => (b.2.lanes.find? (·.index == i)).map (fun l => (b.1, l)))

/-- Marks the lane of a session aborted. -/
def State.abortLane (s : State) (i : Nat) : State :=
  { s with units := s.units.map (fun p => (p.1, p.2.mapBatch (fun begun b =>
      if begun then b else { b with lanes := b.lanes.map (fun l => if l.index = i then { l with aborted := true } else l) }))) }

/-! ## Requests, aborts, closes -/

/-- Closes a session now (R492): queued requests are refused, its objects go to quarantine, the entry becomes
FREE and the client receives CLOSED. -/
def State.closeNow (s : State) (i status tag : Nat) : State :=
  let e := s.ses i
  let h := s.sesHandle i
  let s := e.queue.foldl (fun s r =>
    (s.reply (r.backTo e.client) { type := 9, status := St.sesClosed, handle := h, reqSeq := r.reqSeq, tag := r.tag }).dropObj r.payload) s
  let s := e.slots.foldl (fun s p => s.dropObj (p.2 % 2 ^ 40)) s
  let s := s.updSes i (fun e => { e with state := .free, inBatch := false, closePending := false, slots := [], queue := [] })
  (s.returnSes e.svc).reply { client := e.client } { type := 8, status, handle := h, tag }

/-- A close of a session: at once, or when its batch settles (R492, R498). -/
def State.closeSes (s : State) (i status tag : Nat) : State :=
  match s.laneOf i with
  | none => s.closeNow i status tag
  | some (begun, l) =>
    let e := s.ses i
    let s := s.updSes i (fun e => { e with state := .closing, closePending := true, closeStatus := status, closeTag := tag })
    if begun || l.aborted then s
    else
      (s.abortLane i).reply (l.req.backTo e.client)
        { type := 6, status := St.aborted, handle := l.handle, reqSeq := l.req.reqSeq, tag := l.req.tag }

/-- Does a handle carry the generation of its entry? -/
def State.genOk (s : State) (h : Nat) : Bool := sesGen h == (s.ses (sesIx h)).gen

/-- REQUEST (R491). While the batch area's pool has no free page, the request waits at ingress. -/
def State.doRequest (s : State) (src : MsgFrom) (m : SesMsg) (t : Nat) : State :=
  let i := sesIx m.handle
  let e := s.ses i
  if sesBad m 3 then s.refuse src m St.sesBadMsg
  else if !s.genOk m.handle then s.refuse src m St.sesStale
  else if e.state ≠ .opened then s.refuse src m St.sesClosed
  else if m.reqSeq ≠ e.nextSeq then s.refuse src m St.sesBadSeq
  else
    let u := ((s.set.cur.svc? e.svc).map s.set.cur.svcUnit).getD 0xFFFF
    let pool := (s.set.cur.batchPool u).toList
    let n := ceilDiv m.payload.length 4096
    let (s1, h, st) := if n = 0 then (s, 0, 0) else s.allocate (s.set.cur.top u) 0 n pool
    if st ≠ 0 then s
    else
      let s1 := if n = 0 then s1 else (s1.objWrite h 0 m.payload).objMark h (if m.pois = 0 then 0 else m.payload.length) m.pois
      let back := s.backTo src
      let r : Request :=
        { reqSeq := m.reqSeq, stamp := t, budget := m.budget, urgent := m.urgent, tag := m.tag, payload := h
          len := m.payload.length, respAddr := back.addr, respMax := back.max, epoch := back.epoch.getD 0 }
      s1.updSes i (fun e =>
        { e with nextSeq := (e.nextSeq + 1) % 2 ^ 32, queue := e.queue ++ [r], lastFrame := s.frm.count, lastAt := s.frm.tickAt })

/-- ABORT (R64, R498, R499). -/
def State.doAbort (s : State) (src : MsgFrom) (m : SesMsg) : State :=
  let i := sesIx m.handle
  let e := s.ses i
  let ack := fun (s : State) st => s.reply (s.backTo src) (sesAnswer m 6 st)
  if sesBad m 5 then s.refuse src m St.sesBadMsg
  else if !s.genOk m.handle then s.refuse src m St.sesStale
  else if e.state = .free then s.refuse src m St.sesClosed
  else if e.nextSeq ≤ m.reqSeq then s.refuse src m St.sesNoRequest
  else
    match e.queue.find? (·.reqSeq == m.reqSeq) with
    | some r =>
      ack ((s.dropObj r.payload).updSes i (fun e => { e with queue := e.queue.filter (·.reqSeq != m.reqSeq), doneSeq := m.reqSeq })) St.aborted
    | none =>
      match s.laneOf i with
      | some (false, l) =>
        if l.req.reqSeq = m.reqSeq ∧ !l.aborted then ack (s.abortLane i) St.aborted else ack s St.alreadyDone
      | _ => ack s St.alreadyDone

/-- CLOSE (R492). -/
def State.doClose (s : State) (src : MsgFrom) (m : SesMsg) : State :=
  let i := sesIx m.handle
  if sesBad m 7 then s.refuse src m St.sesBadMsg
  else if !s.genOk m.handle then s.refuse src m St.sesStale
  else if (s.ses i).state ≠ .opened then s.refuse src m St.sesClosed
  else s.closeSes i 0 m.tag

/-- A session that has idled for IDLE_TIMEOUT closes (R492). -/
def State.idleSes (s : State) (i t : Nat) : State :=
  let e := s.ses i
  match s.set.cur.svc? e.svc with
  | none => s
  | some v =>
    if e.state = .opened ∧ e.queue = [] ∧ !e.inBatch ∧ v.idleMs ≠ 0 ∧ e.lastAt + v.idleMs * 10 ^ 9 ≤ t then s.closeNow i St.sesIdle 0
    else s

/-- A session message, whatever its type. -/
def State.sesMessage (s : State) (src : MsgFrom) (m : SesMsg) (hub t : Nat) : State :=
  match m.type with
  | 1 => s.doOpen src m hub
  | 3 => s.doRequest src m t
  | 5 => s.doAbort src m
  | 7 => s.doClose src m
  | _ => s.refuse src m St.sesBadMsg

/-! ## Submission rings (R488, R560) -/

/-- Bytes of a submission entry. -/
def UserWin.entry (x : UserWin) (k : Nat) : List Byte := (List.range 16).flatMap (fun i => leBytes 4 (mget x.sq (k % 256 * 16 + i) 0))

/-- SUBMIT queues the slice of an S1-compatible unit (R62, R378). -/
def State.submit (s : State) (w : Nat) (hd : Nat) (m : SesMsg) (respAddr respMax : Nat) : State :=
  match s.set.cur.winUnit w with
  | some u =>
    if s.set.cur.s1 u then s.updUnit u (fun x => { x with s1Queue := x.s1Queue ++ [hd] })
    else s.refuse (.sq w respAddr respMax) m St.sesBadMsg
  | none => s.refuse (.sq w respAddr respMax) m St.sesBadMsg

/-- Consumes one submission entry. A payload outside the regions of the window's unit makes a bad message
(log 32). -/
def State.consume (s : State) (w k t : Nat) : State :=
  let bs := (s.win w).entry k
  let f := fun o n => leNat ((bs.drop o).take n)
  let pa := f 0x20 8
  let src := MsgFrom.sq w (f 0x28 8) (f 0x30 4)
  let n := f 0x14 4
  let m0 := sesParse (bs.take 32) []
  let m0 := { m0 with rsv := m0.rsv + f 0x34 12 }
  if m0.type = 10 ∧ m0.rsv = 0 then s.submit w pa m0 (f 0x28 8) (f 0x30 4)
  else if 1048576 < n then s.refuse src m0 St.sesBadMsg
  else if n ≠ 0 ∧ !(s.set.cur.unitHolds ((s.set.cur.winUnit w).getD 0xFFFF) pa n (fun _ => true)) then s.refuse src m0 St.sesBadMsg
  else
    let hub := ((s.winFn w).getD 0) / 33
    s.sesMessage src { m0 with payload := s.mem.ram.readN pa n } hub t

/-- Consumes entries in ring order up to the tail, while replies do not back up (R488, R489), with fuel. -/
def State.drainSqF : Nat → State → Nat → Nat → State
  | 0, s, _, _ => s
  | n + 1, s, w, t =>
    let x := s.win w
    if x.sqHead = x.sqTail ∨ x.replies ≠ [] then s
    else ((s.updWin w (fun x => { x with sqHead := (x.sqHead + 1) % 256 })).consume w x.sqHead t).drainSqF n w t

/-- Consumes a window's submission ring. -/
def State.drainSq (s : State) (w : Nat) : State := s.drainSqF 256 w s.now

/-- Does the service of a window receive requests from its function (R488)? -/
def State.hasSq (s : State) (w : Nat) : Bool :=
  match s.set.cur.svcOfWin w with
  | some v => v.sessions || s.set.cur.s1 (s.set.cur.svcUnit v)
  | none => false

/-- A write of SES_SQ_TAIL (R560). -/
def State.sqTail (s : State) (w x : Nat) : State :=
  if x / 256 ≠ 0 then s.count cntDoorbell
  else if !s.hasSq w then s
  else (s.updWin w (fun y => { y with sqTail := x })).drainSq w

/-- A write of SES_CQ_HEAD returns entries; waiting replies and submissions go on (R489). -/
def State.cqHead (s : State) (w x : Nat) : State := ((s.updWin w (fun y => { y with cqHead := x % 2 ^ 32 })).pump w).drainSq w

/-! ## Reading an entry (Table 15-4, R486) -/

/-- CLIENT of a session entry. -/
def clientNat : Client → Nat
  | .peer p => p % 2 ^ 32
  | .func f w => f % 256 + w % 256 * 256 + 2 ^ 63

/-- The 128 bytes of a session entry. -/
def Session.bytes (e : Session) : List Byte :=
  leBytes 1 (match e.state with
    | .free => 0
    | .opened => 1
    | .closing => 2) ++
  leBytes 1 ((if e.inBatch then 1 else 0) + (if e.closePending then 2 else 0)) ++ leBytes 2 e.gen ++ leBytes 2 e.svc ++ leBytes 2 0 ++
  leBytes 8 (if e.used then clientNat e.client else 0) ++ leBytes 8 e.openFrame ++ leBytes 8 e.lastFrame ++
  leBytes 4 e.nextSeq ++ leBytes 4 e.doneSeq ++ leBytes 4 e.queue.length ++ leBytes 4 0 ++ leBytes 8 e.user ++ leBytes 8 0 ++
  (List.range 8).flatMap (fun k => leBytes 8 (mget e.slots k 0))

/-- SES_ENT_CTRL.READ copies the selected entry. -/
def State.entRead (s : State) (x : Nat) : State :=
  if bit x 0 then { s with sel := { s.sel with sesData := (s.ses s.sel.sesIdx).bytes } } else s

/-! ## The commands -/

/-- OPEN (R490). -/
def execOpenSes (src : MsgFrom) (m : SesMsg) (hub t : Nat) (s : State) : Host.Outcome State Fault Refusal := s.unlessDown <| .next ((s.at t).doOpen src m hub)

/-- SES_QUOTA_RESERVE (R490). -/
def execSesQuotaReserve (svc : Nat) (s : State) : Host.Outcome State Fault Refusal := s.unlessDown <|
  .next (match s.set.cur.svc? svc with
    | none => s
    | some v =>
      match s.reserveSes v with
      | none => s
      | some s => { s with sesReserved := mcount s.sesReserved svc 1 })

/-- REQUEST (R491). -/
def execRequest (src : MsgFrom) (m : SesMsg) (t : Nat) (s : State) : Host.Outcome State Fault Refusal := s.unlessDown <| .next ((s.at t).doRequest src m t)

/-- ABORT (R499). -/
def execAbort (src : MsgFrom) (m : SesMsg) (s : State) : Host.Outcome State Fault Refusal := s.unlessDown <| .next (s.doAbort src m)

/-- CLOSE (R492). -/
def execClose (src : MsgFrom) (m : SesMsg) (s : State) : Host.Outcome State Fault Refusal := s.unlessDown <| .next (s.doClose src m)

/-- SES_IDLE (R492). -/
def execSesIdle (idx t : Nat) (s : State) : Host.Outcome State Fault Refusal := s.unlessDown <| .next ((s.at t).idleSes idx t)

end Sys2Proof.Machine
end

