-- ==== Sys2Proof/Machine/Image.lean ====
section
/-! DEFINITION. The setting image (chapter 03): layout, record syntax, merging, and checks 7 to 12 of Table 3-16. -/

namespace Sys2Proof.Machine

/-! ## Layout -/

/-- The `n`-byte little-endian field at an offset of a byte list (R16). -/
def bfld (bs : List Byte) (o n : Nat) : Nat := leNat ((bs.drop o).take n)

/-- The big-endian number of a byte list (R100, R102). -/
def beNat (bs : List Byte) : Nat := leNat bs.reverse

/-- A record as an image holds it: ordinal, the fields of Table 3-3, and all its bytes. -/
structure RawRec where
  ord : Nat
  type : Nat
  flags : Nat
  bytes : List Byte
  deriving DecidableEq, Repr

/-- Does the record carry DELETE (Table 3-3)? -/
def RawRec.del (r : RawRec) : Bool := bit r.flags 0

/-- A field of a record. -/
def RawRec.f (r : RawRec) (o n : Nat) : Nat := bfld r.bytes o n

/-- Cuts records at their LEN, with fuel; whether the bytes were used up. -/
def cutRecs : Nat → Nat → List Byte → List RawRec × Bool
  | 0, _, bs => ([], bs.isEmpty)
  | n + 1, ord, bs =>
    if bs.isEmpty then ([], true)
    else
      let len := bfld bs 2 2
      if len < 8 ∨ bs.length < len then ([{ ord, type := bfld bs 0 2, flags := bfld bs 5 1, bytes := bs.take 8 }], false)
      else
        let (rs, ok) := cutRecs n (ord + 1) (bs.drop len)
        ({ ord, type := bfld bs 0 2, flags := bfld bs 5 1, bytes := bs.take len } :: rs, ok)

/-- The 2-byte numbers of a list of bytes. -/
def pairs16 : List Byte → List Nat
  | a :: b :: t => leNat [a, b] :: pairs16 t
  | _ => []

/-! ## Records (Tables 3-5 to 3-15) -/

/-- UNIT. -/
def unitOf (r : RawRec) : UnitRec :=
  { uid := r.f 0x08 2, parent := r.f 0x0A 2, s1 := bit (r.f 0x0C 2) 0
    members := pairs16 ((r.bytes.drop 0x20).take (2 * r.f 0x0E 1)), startClasp := r.f 0x10 2, collClasp := r.f 0x12 2
    spBase := r.f 0x14 4, spLen := r.f 0x18 4, slotBase := r.f 0x1C 1, slotCount := r.f 0x1D 1
    descBase := r.f 0x1E 1, descLast := r.f 0x1F 1 }

/-- REGION. -/
def regionOf (r : RawRec) : RegionRec :=
  { owner := r.f 0x08 2
    cls := match r.f 0x0A 1 with
      | 0 => .const
      | 1 => .work
      | _ => .session
    zero := bit (r.f 0x0B 1) 0, ua := r.f 0x10 8, phys := r.f 0x18 8, len := r.f 0x20 8 }

/-- POOL. -/
def poolOf (r : RawRec) : PoolRec :=
  { owner := r.f 0x08 2, kind := r.f 0x0A 1, die := r.f 0x0B 1, phys := r.f 0x10 8, len := r.f 0x18 8 }

/-- CLASP. -/
def claspRecOf (r : RawRec) : ClaspRec :=
  let fl := r.f 0x0E 2
  { base := r.f 0x08 2, count := r.f 0x0A 2, owner := r.f 0x0C 2, perFrame := bit fl 0, msix := bit fl 1, remote := bit fl 2 }

/-- VC. -/
def vcOf (r : RawRec) : VcRec := { scope := r.f 8 1, index := r.f 9 1, w1 := r.f 0x0A 2, w2 := r.f 0x0C 2, w3 := r.f 0x0E 2 }

/-- ARB. -/
def arbOf (r : RawRec) : ArbRec :=
  if r.f 8 1 = 0 then .quota (r.f 9 1) (r.f 0x0A 1) (r.f 0x0B 1) (r.f 0x0C 1) else .cls (r.f 0x0A 2) (r.f 9 1)

/-- FRAME. -/
def frameOf (r : RawRec) : FrameRec :=
  let fl := r.f 0x0B 1
  { tfQ := r.f 8 2, source := r.f 0x0A 1, sparePolicy := bit fl 0, fsyncOutEn := bit fl 1, guardPct := r.f 0x0C 1
    slipPct := r.f 0x0D 1, collTimeout := r.f 0x0E 1, batchLimit := r.f 0x10 2, scrubHours := r.f 0x12 2 }

/-- GUAR. -/
def guarOf (r : RawRec) : GuarRec := { uid := r.f 8 2, resKind := r.f 0x0A 1, index := r.f 0x0B 1, rate := r.f 0x0C 4 }

/-- SERVICE. -/
def serviceOf (r : RawRec) : ServiceRec :=
  let fl := r.f 0x0E 1
  { svc := r.f 8 2, uid := r.f 0x0A 2, window := r.f 0x0C 2, sessions := bit fl 0, urgent := bit fl 1
    hostCores := r.f 0x10 8, quota := r.f 0x18 4, idleMs := r.f 0x1C 4 }

/-- SPARE. -/
def spareOf (r : RawRec) : SpareRec :=
  { uid := r.f 8 2, strandCover := bit (r.f 0x0B 1) 0, spares := pairs16 ((r.bytes.drop 0x10).take (2 * r.f 0x0A 1)) }

/-- FED. -/
def fedOfRec (r : RawRec) : FedRec :=
  { fedUid := r.f 8 2, localUid := r.f 0x0A 2, rank := r.f 0x0C 2, members := r.f 0x0E 2, totalLeaves := r.f 0x10 4
    verMin := r.f 0x14 4, groupTag := r.f 0x18 8
    peers := (List.range (r.f 0x0E 2)).map (fun k => (r.f (0x20 + 8 * k) 2, r.f (0x24 + 8 * k) 4)) }

/-- GME. -/
def gmeOf (r : RawRec) : GmeRec := { uid := r.f 8 2, thetaQ := r.f 0x0A 2, ramp := r.f 0x0C 1 }

/-- ACCESS. -/
def accessOf (r : RawRec) : AccessRec :=
  { kind := r.f 8 1, rights := r.f 9 1, grantee := r.f 0x0A 2, base := r.f 0x0C 2, count := r.f 0x0E 2 }

/-- COMPAT. -/
def compatOf (r : RawRec) : CompatRec := { component := r.f 8 1, min := r.f 0x0C 4, max := r.f 0x10 4 }

/-- FI. -/
def fiOf (r : RawRec) : FiRec :=
  { target := r.f 8 1, index := r.f 9 1, vcMask := r.f 0x0A 1, action := r.f 0x0B 1, rateExp := r.f 0x0C 1, limit := r.f 0x10 4 }

/-- NET of KIND 0. -/
def netPkgOf (r : RawRec) : NetPkgRec :=
  { encap := r.f 9 1, udpPort := r.f 0x0A 2, pkgId := r.f 0x0C 4, pfcPrio := r.f 0x10 1, ptpDomain := r.f 0x11 1, maxPeers := r.f 0x12 2 }

/-- NET of KIND 1. -/
def netPortOf (r : RawRec) : NetPortRec :=
  { port := r.f 9 1, mode := r.f 0x0A 1, enabled := bit (r.f 0x0B 1) 0, mac := beNat ((r.bytes.drop 0x0E).take 6)
    ip := beNat ((r.bytes.drop 0x18).take 16) }

/-! ## Keys (Table 3-4) -/

def UnitRec.key (u : UnitRec) : List Nat := [u.uid]
def RegionRec.key (r : RegionRec) : List Nat := [r.owner, r.ua]
def PoolRec.key (p : PoolRec) : List Nat := [p.kind, p.owner, p.die, p.phys]
def ClaspRec.key (c : ClaspRec) : List Nat := [c.base]
def VcRec.key (v : VcRec) : List Nat := [v.scope, v.index]
def ArbRec.key : ArbRec → List Nat
  | .quota s i _ _ => [0, s, i]
  | .cls u _ => [1, u, 0]
def GuarRec.key (g : GuarRec) : List Nat := [g.uid, g.resKind, g.index]
def ServiceRec.key (v : ServiceRec) : List Nat := [v.svc]
def SpareRec.key (v : SpareRec) : List Nat := [v.uid]
def FedRec.key (f : FedRec) : List Nat := [f.fedUid]
def GmeRec.key (g : GmeRec) : List Nat := [g.uid]
def AccessRec.key (a : AccessRec) : List Nat := [a.kind, a.grantee, a.base]
def CompatRec.key (c : CompatRec) : List Nat := [c.component]
def FiRec.key (f : FiRec) : List Nat := [f.target, f.index, f.action]
def NetPortRec.key (p : NetPortRec) : List Nat := [1, p.port]

/-- The key of a record of an image. -/
def RawRec.key (r : RawRec) : List Nat :=
  match r.type with
  | 0x01 => (unitOf r).key
  | 0x02 => (regionOf r).key
  | 0x03 => (poolOf r).key
  | 0x04 => (claspRecOf r).key
  | 0x05 => (vcOf r).key
  | 0x06 => (arbOf r).key
  | 0x07 => []
  | 0x08 => (guarOf r).key
  | 0x09 => (serviceOf r).key
  | 0x0A => (spareOf r).key
  | 0x0B => (fedOfRec r).key
  | 0x0C => (gmeOf r).key
  | 0x0D => (accessOf r).key
  | 0x0E => (compatOf r).key
  | 0x0F => (fiOf r).key
  | _ => [r.f 8 1, if r.f 8 1 = 0 then 0 else r.f 9 1]

/-- Keys in order, field by field (R103). -/
def keyLt : List Nat → List Nat → Bool
  | a :: s, b :: t => decide (a < b) || (a == b && keyLt s t)
  | [], _ :: _ => true
  | _, [] => false

/-! ## Check 7: record syntax -/

/-- Is a UID one a unit can carry (Table 3-5)? -/
def uidOk (u : Nat) : Bool := decide (u < 0xA0) || (decide (0x100 ≤ u) && decide (u ≤ 0xFFF))

/-- Is a count field in range? A TYPE without one always is. -/
def RawRec.countOk (r : RawRec) : Bool :=
  match r.type with
  | 0x01 => if r.f 8 2 < 0xA0 then r.f 0x0E 1 == 0 else decide (2 ≤ r.f 0x0E 1) && decide (r.f 0x0E 1 ≤ 64)
  | 0x0A => decide (1 ≤ r.f 0x0A 1) && decide (r.f 0x0A 1 ≤ 32)
  | 0x0B => decide (2 ≤ r.f 0x0E 2) && decide (r.f 0x0E 2 ≤ 4096)
  | _ => true

/-- The exact LEN that a record's layout gives (R103). -/
def RawRec.lenDue (r : RawRec) : Nat :=
  match r.type with
  | 0x01 => roundUp (32 + 2 * r.f 0x0E 1) 8
  | 0x02 => 40
  | 0x03 => 32
  | 0x07 => 24
  | 0x09 => 32
  | 0x0A => roundUp (16 + 2 * r.f 0x0A 1) 8
  | 0x0B => 32 + 8 * r.f 0x0E 2
  | 0x0E => 24
  | 0x0F => 24
  | 0x10 => if r.f 8 1 = 1 then 40 else 24
  | _ => 16

/-- Are the key fields legal in themselves (R103)? -/
def RawRec.keyOk (r : RawRec) : Bool :=
  match r.type with
  | 0x01 => uidOk (r.f 8 2)
  | 0x02 => r.f 0x10 8 % 2 ^ 21 == 0 && decide (r.f 0x10 8 < 2 ^ 48)
  | 0x03 =>
    if r.f 0x0A 1 = 2 then r.f 8 2 == 0xFFFF && decide (r.f 0x0B 1 < 8) && r.f 0x10 8 == 0
    else decide (r.f 0x0A 1 < 2) && r.f 0x0B 1 == 0xFF && r.f 0x10 8 % 2 ^ 21 == 0
  | 0x05 => match r.f 8 1 with
    | 0 => r.f 9 1 == 0
    | 1 => decide (r.f 9 1 < 14)
    | 2 => decide (r.f 9 1 < 8)
    | _ => false
  | 0x06 =>
    if r.f 8 1 = 0 then match r.f 9 1 with
      | 0 => r.f 0x0A 1 == 0
      | 1 => decide (r.f 0x0A 1 < 14)
      | 2 => decide (r.f 0x0A 1 < 8)
      | 3 => decide (r.f 0x0A 1 < 16)
      | _ => false
    else r.f 8 1 == 1
  | 0x08 => decide (r.f 0x0A 1 ≤ 2) && decide (r.f 0x0B 1 < if r.f 0x0A 1 = 0 then 16 else 14)
  | 0x09 => decide (r.f 8 2 ≤ 4095)
  | 0x0B => decide (0x1000 ≤ r.f 8 2) && decide (r.f 8 2 ≤ 0xFFFE)
  | 0x0D => decide (r.f 8 1 ≤ 1) && (r.f 8 1 == 0 || r.f 0x0C 2 == 0)
  | 0x0E => decide (1 ≤ r.f 8 1) && decide (r.f 8 1 ≤ 6)
  | 0x0F => decide (r.f 8 1 ≤ 1) && decide (r.f 9 1 < if r.f 8 1 = 0 then 14 else 8) && decide (r.f 0x0B 1 ≤ 3)
  | 0x10 => r.f 8 1 == 0 || (r.f 8 1 == 1 && decide (r.f 9 1 < 8))
  | _ => true

/-- Are the other fields legal, reserved bytes among them? -/
def RawRec.bodyOk (r : RawRec) : Bool :=
  let z := fun o n => r.f o n == 0
  let within := fun lo x hi => decide (lo ≤ x) && decide (x ≤ hi)
  match r.type with
  | 0x01 =>
    decide (r.f 0x0C 2 < 2) && z 0x0F 1 && z (0x20 + 2 * r.f 0x0E 1) 8 &&
    (if r.f 8 2 < 0xA0 then
      r.f 0x14 4 % 4096 == 0 && within 0x10000 (r.f 0x18 4) 0x5F8000 && r.f 0x18 4 % 4096 == 0 &&
        decide (r.f 0x14 4 + r.f 0x18 4 ≤ 0x5F8000) && within 1 (r.f 0x1D 1) 64 && decide (r.f 0x1C 1 + r.f 0x1D 1 ≤ 64) &&
        decide (r.f 0x1E 1 ≤ r.f 0x1F 1)
    else z 0x14 12)
  | 0x02 =>
    decide (r.f 0x0A 1 ≤ 2) && decide (r.f 0x0B 1 < 2) && z 0x0C 4 && r.f 0x18 8 % 2 ^ 21 == 0 && r.f 0x20 8 % 2 ^ 21 == 0 &&
      decide (2 ^ 21 ≤ r.f 0x20 8)
  | 0x03 =>
    z 0x0C 4 && (if r.f 0x0A 1 = 2 then decide (r.f 0x18 8 ≤ 2 ^ 24) && r.f 0x18 8 % 2 ^ 20 == 0
      else decide (2 ^ 21 ≤ r.f 0x18 8) && r.f 0x18 8 % 2 ^ 21 == 0)
  | 0x04 =>
    within 1 (r.f 0x0A 2) 8192 && claspDie (r.f 8 2) == claspDie (r.f 8 2 + r.f 0x0A 2 - 1) && decide (r.f 0x0E 2 < 8)
  | 0x05 =>
    decide (8 ≤ r.f 0x0A 2) && decide (8 ≤ r.f 0x0C 2) && decide (8 ≤ r.f 0x0E 2) && r.f 0x0A 2 + r.f 0x0C 2 + r.f 0x0E 2 == 256
  | 0x06 =>
    if r.f 8 1 = 0 then within 1 (r.f 0x0B 1) 16 && within 1 (r.f 0x0C 1) 48 && decide (r.f 0x0B 1 + r.f 0x0C 1 ≤ 56) && z 0x0D 3
    else within 1 (r.f 9 1) 3 && z 0x0C 4
  | 0x07 =>
    within 200 (r.f 8 2) 1600 && decide (r.f 0x0A 1 ≤ 2) && decide (r.f 0x0B 1 < 4) && within 1 (r.f 0x0C 1) 20 &&
      within 5 (r.f 0x0D 1) 50 && within 1 (r.f 0x0E 1) 16 && z 0x0F 1 && within 1 (r.f 0x10 2) 8192 && within 1 (r.f 0x12 2) 720 && z 0x14 4
  | 0x08 => decide (1 ≤ r.f 0x0C 4)
  | 0x09 =>
    (decide (r.f 0x0C 2 ≤ 255) || r.f 0x0C 2 == 0xFFFF) && decide (r.f 0x0E 1 < 4) && z 0x0F 1 && z 0x16 2 &&
      (bit (r.f 0x0E 1) 0 || z 0x18 4)
  | 0x0A =>
    decide (r.f 0x0B 1 < 2) && z 0x0C 4 && z (0x10 + 2 * r.f 0x0A 1) 8 && (spareOf r).spares.all (fun b => decide (b < 0xA0))
  | 0x0B =>
    decide (r.f 0x0C 2 < r.f 0x0E 2) && decide (r.f 0x10 4 ≤ 4096) && !z 0x18 8 &&
      (List.range (r.f 0x0E 2)).all (fun k => z (0x22 + 8 * k) 2)
  | 0x0C => decide (r.f 0x0A 2 ≤ 256) && [16, 32, 64].contains (r.f 0x0C 1) && z 0x0D 3
  | 0x0D =>
    if r.f 8 1 = 0 then within 1 (r.f 9 1) 15 && within 1 (r.f 0x0E 2) 8192 else z 9 1 && z 0x0E 2
  | 0x0E => z 9 3 && decide (r.f 0x0C 4 ≤ r.f 0x10 4) && z 0x14 4
  | 0x0F => within 1 (r.f 0x0A 1) 15 && within 1 (r.f 0x0C 1) 32 && z 0x0D 3 && z 0x14 4
  | _ =>
    if r.f 8 1 = 0 then
      decide (r.f 9 1 ≤ 2) && (if r.f 9 1 = 0 then z 0x0A 2 else decide (1024 ≤ r.f 0x0A 2)) && !z 0x0C 4 && decide (r.f 0x10 1 ≤ 7) &&
        within 1 (r.f 0x12 2) 8192 && z 0x14 4
    else decide (r.f 0x0A 1 ≤ 2) && decide (r.f 0x0B 1 < 2) && z 0x0C 2 && z 0x14 4

/-- May a PARTIAL image carry the record (Table 3-4)? -/
def RawRec.partialOk (r : RawRec) : Bool :=
  !([0x05, 0x07, 0x0E, 0x0F, 0x10].contains r.type) && (r.type != 0x06 || r.f 8 1 == 1)

/-- Is a record well formed in itself (check 7, R103)? -/
def RawRec.ok (part : Bool) (r : RawRec) : Bool :=
  decide (1 ≤ r.type) && decide (r.type ≤ 0x10) && decide (8 < r.bytes.length) && r.f 4 1 == 1 && decide (r.flags < 2) && r.f 6 2 == 0 &&
    (part || !r.del) && (!part || r.partialOk) && r.countOk && r.f 2 2 == r.lenDue && r.bytes.length == r.lenDue && r.keyOk && (r.del || r.bodyOk)

/-- The first record out of order: ascending TYPE, then a key above the one before (R103). -/
def outOfOrder : List RawRec → Option Nat
  | a :: b :: t =>
    if a.type < b.type ∨ (a.type = b.type ∧ keyLt a.key b.key) then outOfOrder (b :: t) else some b.ord
  | _ => none

/-! ## The resulting setting (R103, R135) -/

/-- Inserts in key order. -/
def keyIns {α : Type} (key : α → List Nat) (x : α) : List α → List α
  | [] => [x]
  | a :: t => if keyLt (key x) (key a) then x :: a :: t else a :: keyIns key x t

/-- Records of one TYPE after a merge: deletions and replacements go, additions come in key order. -/
def mergeRecs {α : Type} (key : α → List Nat) (cur : List α) (dels : List (List Nat)) (adds : List α) : List α :=
  adds.foldl (fun l x => keyIns key x l) (cur.filter (fun r => !dels.contains (key r) && !(adds.map key).contains (key r)))

/-- The setting that results from records: of a FULL image, or merged into a setting. -/
def Setting.merge (t : Setting) (rs : List RawRec) (seq : Nat) : Setting :=
  let add := fun (ty : Nat) => rs.filter (fun (r : RawRec) => r.type == ty && !r.del)
  let del := fun (ty : Nat) => (rs.filter (fun (r : RawRec) => r.type == ty && r.del)).map RawRec.key
  { seq
    units := mergeRecs UnitRec.key t.units (del 0x01) ((add 0x01).map unitOf)
    regions := mergeRecs RegionRec.key t.regions (del 0x02) ((add 0x02).map regionOf)
    pools := mergeRecs PoolRec.key t.pools (del 0x03) ((add 0x03).map poolOf)
    clasps := mergeRecs ClaspRec.key t.clasps (del 0x04) ((add 0x04).map claspRecOf)
    vcs := mergeRecs VcRec.key t.vcs (del 0x05) ((add 0x05).map vcOf)
    arbs := mergeRecs ArbRec.key t.arbs (del 0x06) ((add 0x06).map arbOf)
    frame := ((add 0x07).head?.map frameOf).getD t.frame
    guars := mergeRecs GuarRec.key t.guars (del 0x08) ((add 0x08).map guarOf)
    services := mergeRecs ServiceRec.key t.services (del 0x09) ((add 0x09).map serviceOf)
    spares := mergeRecs SpareRec.key t.spares (del 0x0A) ((add 0x0A).map spareOf)
    feds := mergeRecs FedRec.key t.feds (del 0x0B) ((add 0x0B).map fedOfRec)
    gmes := mergeRecs GmeRec.key t.gmes (del 0x0C) ((add 0x0C).map gmeOf)
    accesses := mergeRecs AccessRec.key t.accesses (del 0x0D) ((add 0x0D).map accessOf)
    compats := mergeRecs CompatRec.key t.compats (del 0x0E) ((add 0x0E).map compatOf)
    fis := mergeRecs FiRec.key t.fis (del 0x0F) ((add 0x0F).map fiOf)
    netPkg := (((add 0x10).find? (fun r => r.f 8 1 == 0)).map netPkgOf).getD t.netPkg
    netPorts := mergeRecs NetPortRec.key t.netPorts (del 0x10) (((add 0x10).filter (fun r => r.f 8 1 == 1)).map netPortOf) }

/-- The keys of a setting's records of a TYPE that a PARTIAL image may delete. -/
def Setting.keys (t : Setting) (ty : Nat) : List (List Nat) :=
  match ty with
  | 0x01 => t.units.map UnitRec.key
  | 0x02 => t.regions.map RegionRec.key
  | 0x03 => t.pools.map PoolRec.key
  | 0x04 => t.clasps.map ClaspRec.key
  | 0x06 => t.arbs.map ArbRec.key
  | 0x08 => t.guars.map GuarRec.key
  | 0x09 => t.services.map ServiceRec.key
  | 0x0A => t.spares.map SpareRec.key
  | 0x0B => t.feds.map FedRec.key
  | 0x0C => t.gmes.map GmeRec.key
  | 0x0D => t.accesses.map AccessRec.key
  | _ => []

/-- Check 7 over the records of an image: the first offending record (0xFFFF for a count), if any. A PARTIAL image is
counted as merged (R135): the empty setting lacks FRAME, COMPAT and NET, which no PARTIAL image brings. -/
def check7 (cur : Setting) (part : Bool) (recCount : Nat) (rs : List RawRec) (whole : Bool) : Option Nat :=
  let bad1 := (rs.find? (fun r => !r.ok part)).map (·.ord)
  let bad2 := outOfOrder rs
  let bad3 := (rs.find? (fun r => r.del && !(cur.keys r.type).contains r.key)).map (·.ord)
  let n := fun (ty : Nat) => (rs.filter (fun (r : RawRec) => r.type == ty)).length
  match [bad1, bad2, bad3].filterMap id with
  | x :: xs => some (xs.foldl min x)
  | [] =>
    if !whole || rs.length != recCount then some 0xFFFF
    else if part then
      if (cur.merge rs 0).units.isEmpty || [1, 2, 3].any (fun c => !cur.compats.any (·.component == c)) then some 0xFFFF else none
    else if n 1 = 0 || n 7 != 1 || [1, 2, 3].any (fun c => !rs.any (fun r => r.type == 0x0E && r.f 8 1 == c)) ||
        !rs.any (fun r => r.type == 0x10 && r.f 8 1 == 0) then some 0xFFFF
    else none

/-! ## Checks 9 to 12 over the resulting setting -/

/-- A failing record: TYPE and key. -/
abbrev BadRec := Nat × List Nat

/-- The unit of this package behind a UID or FED_UID. -/
def Setting.localOf (t : Setting) (u : Nat) : Nat :=
  if 0x1000 ≤ u then ((t.feds.find? (·.fedUid == u)).map (·.localUid)).getD 0xFFFF else u

/-- Does a UID or FED_UID have its record? -/
def Setting.known (t : Setting) (u : Nat) : Bool := (t.unit? u).isSome || t.feds.any (·.fedUid == u)

/-- A native top-level unit that is not S1-compatible. -/
def Setting.nativeTop (t : Setting) (u : Nat) : Bool := t.isTop u && !t.s1 u

/-- The path of a unit with room for one unit too many (R20). -/
def Setting.path9 (t : Setting) (u : Nat) : List Nat := t.pathF 9 u

/-- Check 9 of a UNIT record (R20, R63, R106, R123). -/
def Setting.unitOk (t : Setting) (u : UnitRec) : Bool :=
  (if u.parent = 0xFFFF then true
   else if 0x1000 ≤ u.parent then t.feds.any (fun f => f.fedUid == u.parent && f.localUid == u.uid)
   else match t.unit? u.parent with
    | some p => p.members.contains u.uid && p.s1 == u.s1
    | none => false) &&
  u.members.all (fun m => match t.unit? m with
    | some r => r.parent == u.uid
    | none => false) &&
  u.members.eraseDups.length == u.members.length &&
  decide ((t.path9 u.uid).length ≤ 8) && t.isTop ((t.path9 u.uid).getLast?.getD 0xFFFF) && decide ((t.leaves u.uid).length ≤ 4096)

/-- Check 9 (composition, S1, FED, SERVICE and the records that UIDs name). -/
def Setting.check9 (t : Setting) : List BadRec :=
  (t.units.filter (fun u => !t.unitOk u)).map (fun u => (0x01, u.key)) ++
  (t.regions.filter (fun r => (t.unit? r.owner).isNone)).map (fun r => (0x02, r.key)) ++
  (t.pools.filter (fun p => p.kind != 2 && (t.unit? p.owner).isNone)).map (fun p => (0x03, p.key)) ++
  (t.clasps.filter (fun c => !t.known c.owner)).map (fun c => (0x04, c.key)) ++
  (t.arbs.filter (fun a => match a with
    | .cls u _ => !t.nativeTop u
    | .quota _ _ _ _ => false)).map (fun a => (0x06, a.key)) ++
  (t.guars.filter (fun g => !t.nativeTop g.uid)).map (fun g => (0x08, g.key)) ++
  (t.services.filter (fun v =>
    let u := t.localOf v.uid
    !((if 0x1000 ≤ v.uid then (t.unit? u).isSome else t.runs u) &&
      (!t.s1 u || (!v.sessions && v.window != 0xFFFF)) &&
      (v.window == 0xFFFF || !t.services.any (fun w => decide (w.svc < v.svc) && w.window == v.window))))).map (fun v => (0x09, v.key)) ++
  (t.spares.filter (fun p => !t.nativeTop p.uid)).map (fun p => (0x0A, p.key)) ++
  (t.feds.filter (fun f =>
    !(t.nativeTop f.localUid && ((t.unit? f.localUid).map (·.parent)) == some f.fedUid &&
      decide ((t.leaves f.localUid).length + f.members - 1 ≤ f.totalLeaves)))).map (fun f => (0x0B, f.key)) ++
  (t.gmes.filter (fun g => g.uid != 0xFFFF && !t.isTop g.uid)).map (fun g => (0x0C, g.key)) ++
  (t.accesses.filter (fun a => if a.kind = 1 then (t.unit? a.grantee).isNone else !t.known a.grantee)).map (fun a => (0x0D, a.key))

/-- Does a range meet another? -/
def meetR (a n b m : Nat) : Bool := decide (a < b + m) && decide (b < a + n)

/-- Is a whole range populated (R90): inside one stack, or inside one explicit partition? -/
def Setting.rangeOk (t : Setting) (a n : Nat) : Bool :=
  match stackOf a with
  | some k => decide (a - k * stackWindow + n ≤ stackBytes)
  | none => decide (vaultBase ≤ a) && decide (a < vaultBase + 8 * 2 ^ 32) && decide ((a - vaultBase) % 2 ^ 32 + n ≤ t.vaultLen (homeDie a))

/-- Does a range meet the system reserve (R112)? -/
def reserveMeets (a n : Nat) : Bool := [0, 7].any (fun k => meetR a n (k * stackWindow + stackBytes - 2 ^ 29) (2 ^ 29))

/-- The KIND 0 and KIND 1 pools. -/
def Setting.hbmPools (t : Setting) : List PoolRec := t.pools.filter (·.kind != 2)

/-- Check 10 of a pool (R110, R111, R112, R435); `before` are the pools before it. -/
def Setting.poolOk (t : Setting) (before : List PoolRec) (p : PoolRec) : Bool :=
  t.isTop p.owner && (stackOf p.phys).isSome && t.rangeOk p.phys p.len && !reserveMeets p.phys p.len &&
    !before.any (fun q => meetR p.phys p.len q.phys q.len) &&
    (p.kind != 0 || decide (((before ++ [p]).map (fun q => if q.kind = 0 then q.len else 0)).foldl (· + ·) 0 ≤ 240 * 2 ^ 30))

/-- Records of a list that a test over the ones before refuses. -/
def badAfter {α : Type} (ok : List α → α → Bool) : List α → List α → List α
  | _, [] => []
  | before, x :: t => (if ok before x then [] else [x]) ++ badAfter ok (before ++ [x]) t

/-- Check 10 of a region (R90, R109, R111, R112, R22). -/
def Setting.regionOk (t : Setting) (r : RegionRec) : Bool :=
  t.rangeOk r.phys r.len && !reserveMeets r.phys r.len &&
    (if r.cls = .session then t.hbmPools.any (fun p => p.kind == 0 && p.owner == t.top r.owner && decide (p.phys ≤ r.phys) &&
        decide (r.phys + r.len ≤ p.phys + p.len))
     else !t.hbmPools.any (fun p => meetR r.phys r.len p.phys p.len)) &&
    (t.units.filter (fun u => decide (u.uid < 0xA0))).all (fun u =>
      let tb := t.table u.uid
      !tb.contains r || (decide ((tb.filter (fun q => !keyLt r.key q.key)).length ≤ 64) &&
        !tb.any (fun q => q.key != r.key && keyLt q.key r.key && meetR q.ua q.len r.ua r.len)))

/-- Check 10 of an ACCESS record (R115, R116, R380). -/
def Setting.accessOk (t : Setting) (a : AccessRec) : Bool :=
  if a.kind = 1 then !t.isTop a.grantee
  else
    match t.clasp? a.base with
    | none => false
    | some c => decide (a.base + a.count ≤ c.base + c.count) && (decide (a.grantee < 0x1000) || c.remote) &&
        !t.units.any (fun u => u.startClasp != 0xFFFF && decide (a.base ≤ u.startClasp) && decide (u.startClasp < a.base + a.count))

/-- Does a unit itself own a clasp, where the field names one (R105)? -/
def Setting.ownClasp (t : Setting) (u id : Nat) : Bool := 
  id == 0xFFFF || t.clasps.any (fun c => c.owner == u && decide (c.base ≤ id) && decide (id < c.base + c.count))

/-- Check 10 of a SERVICE record (R105, R118, R493); `before` are those before it. -/
def Setting.serviceOk (t : Setting) (before : List ServiceRec) (v : ServiceRec) : Bool :=
  let u := t.localOf v.uid
  (((t.unit? u).map (·.startClasp)).getD 0xFFFF) != 0xFFFF &&
    decide (((before ++ [v]).map (·.quota)).foldl (· + ·) 0 ≤ 2097152) &&
    (!v.sessions || (match t.batchArea u with
      | some r => decide (2 ^ 22 ≤ r.len)
      | none => false))

/-- Check 10 (resources). -/
def Setting.check10 (t : Setting) : List BadRec :=
  (t.units.filter (fun u => !(t.ownClasp u.uid u.startClasp && t.ownClasp u.uid u.collClasp))).map (fun u => (0x01, u.key)) ++
  (t.regions.filter (fun r => !t.regionOk r)).map (fun r => (0x02, r.key)) ++
  (badAfter t.poolOk [] t.hbmPools).map (fun p => (0x03, p.key)) ++
  (badAfter (fun b (c : ClaspRec) => !b.any (fun d => meetR c.base c.count d.base d.count)) [] t.clasps).map (fun c => (0x04, c.key)) ++
  (badAfter t.serviceOk [] t.services).map (fun v => (0x09, v.key)) ++
  (t.accesses.filter (fun a => !t.accessOk a)).map (fun a => (0x0D, a.key))

/-- Does a SPARE record cover the loss of any strand (R121)? -/
def Setting.strandOk (t : Setting) (p : SpareRec) : Bool :=
  let ls := t.leaves p.uid
  (List.range 32).all (fun s => decide ((ls.filter (fun b => b / 5 == s)).length ≤ (p.spares.filter (fun b => b / 5 != s)).length) ||
    !ls.any (fun b => b / 5 == s))

/-- Check 11 (frame and spares, R119 to R122). -/
def Setting.check11 (t : Setting) : List BadRec :=
  (if t.frame.sparePolicy && decide (1400 < t.frame.tfQ) then [(0x07, [])] else []) ++
  (t.spares.filter (fun p => !(t.frame.sparePolicy && p.spares.all (fun b => (t.unit? b).isNone) &&
    (!p.strandCover || t.strandOk p)))).map (fun p => (0x0A, p.key))

/-- The limit of a resource in MB/s (R130). -/
def guarLimit (scrubHours resKind : Nat) : Nat :=
  if resKind = 0 then (1925120 - ceilDiv stackBytes (scrubHours * 3600 * 1000000)) * 85 / 100 else 3840000 * 85 / 100

/-- Check 12 (guarantees within limits). -/
def Setting.check12 (t : Setting) : List BadRec :=
  (badAfter (fun b (g : GuarRec) =>
    decide (((b ++ [g]).map (fun (h : GuarRec) => if h.resKind = g.resKind ∧ h.index = g.index then h.rate else 0)).foldl (· + ·) 0 ≤
      guarLimit t.frame.scrubHours g.resKind)) [] t.guars).map (fun g => (0x08, g.key))

/-- SET_RESULT.RECORD of failing records: a record of the image where one comes from it; else 0xFFFE for a
PARTIAL image (R134, R135). -/
def recordOf (part : Bool) (rs : List RawRec) (bad : List BadRec) : Nat :=
  match rs.find? (fun r => bad.any (fun b => b.1 == r.type && b.2 == r.key)) with
  | some r => r.ord
  | none => if part then 0xFFFE else 0xFFFF

end Sys2Proof.Machine
end

