-- ==== Sys2Proof/Machine/Setting.lean ====
section
/-! DEFINITION. The loader (chapter 03): the checks of an image in order, the affected set, and the apply at a frame
boundary (R134 to R147). -/

namespace Sys2Proof.Machine

/-! ## The parameter area and measurement (chapter 18) -/

/-- A field of the persistent parameter area in force (Table 18-3). -/
def State.param (s : State) (o n : Nat) : Nat := s.hmk.params.readNat o n

/-- UNTESTED_OK, FI_ALLOW and BSCAN_HOLD. -/
def State.untestedOk (s : State) : Bool := bit (s.param 0xE8 4) 0
def State.fiAllow (s : State) : Bool := bit (s.param 0xE8 4) 1

/-- The setting signer key of a SIGNER_ID (R102); a zero SIGNER_ID names none. -/
def State.signerKey (s : State) (id : Nat) : Option Nat :=
  if id = 0 then none
  else ((List.range 4).find? (fun k => s.param (0x100 + 104 * k) 8 == id)).map (fun k => beNat (s.hmk.params.readN (0x108 + 104 * k) 96))

/-- DEV_IDENT.HASH_LO (R583). -/
def hashLo : Nat := Config.fuse 0 % 2 ^ 64

/-- Extends a measurement slot (R599). -/
def HmkState.extend (h : HmkState) (i d : Nat) : HmkState :=
  { h with ms := h.ms.set! i (BitVec.ofNat 384 (Config.sha384 (leBytes 48 (h.ms.toList.getD i 0).toNat ++ leBytes 48 d))) }

/-- Extends a measurement slot. -/
def State.extend (s : State) (i d : Nat) : State := { s with hmk := s.hmk.extend i d }

/-! ## Checks (Table 3-16) -/

/-- Check 2: the trailer and the signature (R102). -/
def State.check2 (s : State) (img : List Byte) : Bool :=
  let n := img.length
  let tr := img.drop (n - 104)
  bfld tr 0 2 == 1 && bfld tr 2 2 == 96 && bfld tr 4 4 == 0 &&
    match s.signerKey (bfld img 0x38 8) with
    | none => false
    | some k => Config.ecdsaVerify k (Config.sha384 (img.take (n - 96))) (beNat ((tr.drop 8).take 48)) (beNat ((tr.drop 0x38).take 48))

/-- Checks 1 to 5 of an image, by its bytes; the status of the first that fails. -/
def State.checkHead (s : State) (img : List Byte) : Option Nat :=
  let n := img.length
  let f := bfld img
  let part := f 0x23 1 == 1
  let seq := f 0x10 8
  if n % 8 ≠ 0 ∨ n < 248 ∨ 2 ^ 24 < n ∨ f 8 4 ≠ n then some St.setLength
  else if !s.check2 img then some St.setSignature
  else if f 0 4 ≠ 0x49535347 ∨ f 4 2 ≠ 2 ∨ f 6 2 ≠ 0 ∨ f 0x0C 2 ≠ 128 ∨ 1 < f 0x23 1 ∨ 1 < f 0x24 4 ∨ (img.drop 0x40).take 64 ≠ List.replicate 64 0 then
    some St.setFormat
  else if (f 0x18 8 ≠ 0 ∧ f 0x18 8 ≠ hashLo) ∨ (f 0x20 2 ≠ 0 ∧ f 0x20 2 ≠ Config.grade.orderCode) ∨ f 0x22 1 ≠ Config.grade.facets then
    some St.setDevice
  else if (if part then f 0x28 8 == s.set.cur.seq && decide (s.set.cur.seq < seq)
      else f 0x28 8 == 0 && decide (1 ≤ seq) && decide (s.param 0xE0 8 ≤ seq)) then none
  else some St.setSequence

/-- COMPAT records that do not cover the running component images (check 6, R150). -/
def State.uncovered (s : State) (cs : List CompatRec) : List CompatRec :=
  cs.filter (fun c => decide (1 ≤ c.component) && decide (c.component ≤ 3) &&
    !(decide (c.min ≤ nth s.hmk.versions (c.component - 1)) && decide (nth s.hmk.versions (c.component - 1) ≤ c.max)))

/-- Check 13 (R144): the status and the failing records. -/
def State.check13 (s : State) (t : Setting) : Option (Nat × List BadRec) :=
  let out := fun (b : Nat) => !(s.bead b).inService
  let bad := ((t.units.filter (fun u => decide (u.uid < 0xA0) && out u.uid)).map (fun u => ((0x01, u.key) : BadRec))) ++
    ((t.spares.filter (fun p => p.spares.any out)).map (fun p => ((0x0A, p.key) : BadRec)))
  if !bad.isEmpty then some (St.setBeadDown, bad)
  else
    let bad := (s.set.cur.hbmPools.filter (fun p => s.bpm.pages.any (fun x =>
      p.has x.1 && (x.2.state == .alloc || x.2.state == .quarantine) &&
        !t.hbmPools.any (fun q => q.owner == p.owner && q.kind == p.kind && q.has x.1)))).map (fun p => ((0x03, p.key) : BadRec))
    if !bad.isEmpty then some (St.setInUse, bad) else none

/-- All checks of an image but check 13: the load, or the status and SET_RESULT.RECORD of the first that fails. -/
def State.checkImage (s : State) (img : List Byte) : Except (Nat × Nat) Loaded :=
  match s.checkHead img with
  | some st => .error (st, 0xFFFF)
  | none =>
    let part := bfld img 0x23 1 == 1
    let zeroAll := bit (bfld img 0x24 4) 0
    let (rs, whole) := cutRecs (img.length / 8) 0 ((img.take (img.length - 104)).drop 128)
    let unc := rs.filter (fun r => !part && r.type == 0x0E && !(s.uncovered [compatOf r]).isEmpty)
    let untested := !unc.isEmpty || (part && !(s.uncovered s.set.cur.compats).isEmpty)
    if untested && !s.untestedOk then .error (St.setUntested, (unc.head?.map (·.ord)).getD (if part then 0xFFFE else 0xFFFF))
    else
      match check7 s.set.cur part (bfld img 0x0E 2) rs whole with
      | some r => .error (St.setRecord, r)
      | none =>
        let t := (if part then s.set.cur else {}).merge rs (bfld img 0x10 8)
        let fail := fun (st : Nat) (bad : List BadRec) => (.error (st, recordOf part rs bad) : Except (Nat × Nat) Loaded)
        if !t.fis.isEmpty && !s.fiAllow then fail St.setFiDenied (t.fis.map (fun f => (0x0F, f.key)))
        else if !t.check9.isEmpty then fail St.setTopology t.check9
        else if !t.check10.isEmpty then fail St.setResource t.check10
        else if !t.check11.isEmpty then fail St.setSpareFrame t.check11
        else if !t.check12.isEmpty then fail St.setOvercommit t.check12
        else
          let carried := rs.map (fun r => (r.type, r.key))
          .ok { image := img, merged := t, full := !part, untested, carried
                fill := (t.regions.filter (fun r => zeroAll || (r.zero && (!part || carried.contains (0x02, r.key))))).map (fun r => (r.phys, r.len)) }

/-! ## Loading at run time (R136, R139) -/

/-- SET_RESULT and IDLE in one update (R635). -/
def State.setFinish (s : State) (code record : Nat) : State :=
  { s with set := { s.set with phase := .idle, code, record, loaded := none } }

/-- A write of SET_LOAD_CTRL (Table 20-6): a GO during a load is refused (R136, R635). -/
def State.loadGo (s : State) (x : Nat) : State :=
  if !bit x 0 then s
  else if s.set.phase ≠ .idle then ({ s with set := { s.set with refused := true } }).raiseG St.setBusy
  else { s with set := { s.set with phase := .checking, goAddr := s.set.loadAddr, goLen := s.set.loadLen, persist := bit x 1 } }

/-- The image at the address and length taken at GO, if it is aligned, populated and free of poison. -/
def State.imageBytes (s : State) : Option (List Byte) :=
  let a := s.set.goAddr
  let n := s.set.goLen
  if a % 8 ≠ 0 ∨ n = 0 ∨ 2 ^ 24 < n ∨ !(granules 4096 a n).all (fun g => populated s.set.cur (g * 4096)) ∨ s.mem.poisoned a n then none
  else some (s.mem.ram.readN a n)

/-- Checking ends (R137). -/
def State.checkDone (s : State) : State :=
  if s.set.phase ≠ .checking then s
  else
    match s.imageBytes with
    | none => s.setFinish St.setLength 0xFFFF
    | some img =>
      match s.checkImage img with
      | .error (st, r) => s.setFinish st r
      | .ok l =>
        match s.check13 l.merged with
        | some (st, bad) => s.setFinish st (recordOf (!l.full) (cutRecs (img.length / 8) 0 ((img.take (img.length - 104)).drop 128)).1 bad)
        | none => { s with set := { s.set with phase := .pending, ticks := 0, loaded := some l } }

/-! ## The affected set (R140) -/

/-- The UIDs that a record owns, contains or names. -/
def Setting.named (t : Setting) (final : Setting) (r : BadRec) : List Nat :=
  match r.1 with
  | 0x01 => match t.unit? (nth r.2 0) with
    | some u => u.uid :: u.parent :: u.members
    | none => []
  | 0x02 => [nth r.2 0]
  | 0x03 => [nth r.2 1]
  | 0x04 => match t.clasps.find? (fun c => c.key == r.2) with
    | some c => c.owner :: (t.accesses.filter (fun a => a.kind == 0 && meetR a.base a.count c.base c.count)).map (·.grantee)
    | none => []
  | 0x06 => if nth r.2 0 = 1 then [nth r.2 1] else []
  | 0x09 => match t.svc? (nth r.2 0) with
    | some v => [v.uid]
    | none => []
  | 0x0C => if nth r.2 0 = 0xFFFF then t.tops.filter (fun u => !final.gmes.any (·.uid == u)) else [nth r.2 0]
  | 0x0D => [nth r.2 1]
  | _ => [nth r.2 0]

/-- The top-level units of the affected set of a load. -/
def State.affectedBy (s : State) (l : Loaded) : List Nat :=
  let o := s.set.cur
  let n := l.merged
  if l.full then (o.tops ++ n.tops).eraseDups
  else
    let us := l.carried.flatMap (fun r => o.named n r ++ n.named n r)
    ((us.flatMap (fun u => [o.top (o.localOf u), n.top (n.localOf u)])).filter (· != 0xFFFF)).eraseDups

/-- The affected set of the load that waits for its tick. -/
def State.affected (s : State) : List Nat := (s.set.loaded.map s.affectedBy).getD []

/-- Does a unit keep a load of its set waiting: a running slice, a pending replay or a held batch of a unit that is not
DOWN (R141, R614)? -/
def UnitSt.busy (u : UnitSt) : Bool := u.slice.isSome || (!u.down && (u.replay.isSome || u.heldBatch.isSome))

/-! ## The apply (R145 to R147) -/

/-- The bead that stands in a position, or the bead of that number (R66, R629). -/
def State.posBead (s : State) (pos : Nat) : Nat := (s.beadAt pos).getD pos

/-- Puts a bead into a position in place of the one that stands there: its scratchpad, table and slots are undefined, and
the position's debug mode comes with it (R42, R612, R629). -/
def State.place (s : State) (b pos : Nat) : State :=
  let old := s.bead (s.posBead pos)
  let s := match s.beadAt pos with
    | some o => s.updBead o (fun x => { x with pos := none, phase := .idle, debug := false, debugReq := false })
    | none => s
  (s.undefBead b).updBead b (fun x =>
    { x with pos := some pos, phase := .idle, window := [], held := none, wake := none, debug := old.debug, debugReq := old.debugReq })

/-- Takes a bead out of its position. -/
def State.unplace (s : State) (b : Nat) : State := s.updBead b (fun x => { x with pos := none, phase := .idle, window := [], held := none, wake := none })

/-- The composition of the new setting: beads of running slices stay, every other position is held by the bead of its
number, and leaves whose UNIT record changed are undefined. -/
def State.compose (s : State) (old new : Setting) : State :=
  (List.range 160).foldl (fun s b =>
    if (s.sliceOf b).isSome then s
    else match new.unit? b with
      | none => if (s.bead b).pos.isSome then s.unplace b else s
      | some u =>
        match s.beadAt b with
        | some c =>
          if c = b then (if old.unit? b = some u then s else s.undefBead b)
          else if (s.sliceOf c).isSome then s else s.place b b
        | none => (s.undefBead b).updBead b (fun x => { x with pos := some b, phase := .idle })) s

/-- Clasps at an apply (R147, R467). -/
def State.startClasps (s : State) (old new : Setting) (full : Bool) (carried : List BadRec) : State :=
  let s := s.clasps.foldl (fun (s : State) (p : Nat × Clasp) =>
    let again := match new.clasp? p.1 with
      | none => true
      | some c => full || (old.clasp? p.1).isNone || carried.contains (0x04, c.key)
    if (new.clasp? p.1).isNone then
      p.2.waits.foldl (fun s w => s.completeWait p.1 w.who p.2.counter true) { s with clasps := mdel s.clasps p.1 }
    else if again then (s.updClasp p.1 (fun c => { c with counter := 0, err := false })).settle p.1
    else s) s
  s.resumeStalled

/-- What R146 compares: the SESSION regions of a service's top-level unit and the pools that hold them. -/
def Setting.sesShape (t : Setting) (v : ServiceRec) : List (Nat × Nat × Nat) × List (Nat × Nat) :=
  let u := t.top (t.svcUnit v)
  let rs := t.regions.filter (fun r => r.cls == .session && t.top r.owner == u)
  (rs.map (fun r => (r.ua, r.phys, r.len)),
   (t.pools.filter (fun p => p.kind == 0 && rs.any (fun r => decide (p.phys ≤ r.phys) && decide (r.phys < p.phys + p.len)))).map (fun p => (p.phys, p.len)))

/-- Does a service keep its sessions across a load? -/
def keepsSessions (old new : Setting) (svc : Nat) : Bool :=
  match old.svc? svc, new.svc? svc with
  | some v, some w => w.sessions && old.sesShape v == new.sesShape w
  | _, _ => false

/-- Closes the sessions of services that do not keep them (R146, R614). -/
def State.closeAtApply (s : State) (old new : Setting) : State :=
  let gone := (old.services.map (·.svc)).filter (fun v => !keepsSessions old new v)
  let s := s.units.foldl (fun s p =>
    match p.2.downBatch.bind (·.batch) with
    | some b =>
      if gone.contains b.svc then
        (b.lanes.foldl (fun s l =>
          let s := if l.aborted then s
            else s.reply (l.req.backTo (s.ses l.index).client)
              { type := 9, status := St.sesClosed, handle := l.handle, reqSeq := l.req.reqSeq, tag := l.req.tag }
          s.dropObj l.req.payload) s).updUnit p.1 (fun u => { u with downBatch := none })
      else s
    | none => s) s
  s.sessions.foldl (fun s p => if p.2.state != .free && gone.contains p.2.svc then s.closeNow p.1 St.sesClosed p.2.closeTag else s) s

/-- The pages of the pools in the layout of the new setting (R435). -/
def State.remapPages (s : State) (old new : Setting) : State :=
  let keep := fun (x : Nat × Page) => x.2.state == .retired ||
    old.hbmPools.any (fun p => p.has x.1 && new.hbmPools.any (fun q => q.has x.1 && q.owner == p.owner && q.kind == p.kind))
  let pages := s.bpm.pages.filter keep
  { s with bpm := { s.bpm with pages, lists := s.bpm.lists.filter (fun l => l.2.all (fun f => (mfind pages f).isSome)) } }

/-- Explicit partitions whose KIND 2 record changed are undefined (R428). -/
def State.remapVaults (s : State) (old new : Setting) : State :=
  (List.range 8).foldl (fun s d =>
    if old.vaultLen d = new.vaultLen d then s
    else
      let s := s.memUndef (vaultBase + d * 2 ^ 32) (2 ^ 24)
      { s with mem := { s.mem with poison := granClear 64 s.mem.poison (vaultBase + d * 2 ^ 32) (2 ^ 24) } }) s

/-- Zero fill of a region (R29, R145). -/
def State.fillZero (s : State) (a n : Nat) : State :=
  { s with mem := { s.mem with ram := s.mem.ram.zeroFill a n, poison := granClear 64 s.mem.poison a n } }

/-- The FED_JOIN of this package's part (Table 16-4). -/
def State.sendJoin (s : State) (f : FedRec) : State :=
  if f.rank = 0 then s
  else
    let r := s.verRange 0x06
    s.tell (f.peerOf 0) 0x0020
      [f.fedUid, f.rank, f.members, f.totalLeaves, (s.set.cur.leaves f.localUid).length, f.groupTag, r.1, r.2]

/-- Federations at an apply: those whose record changed, or all under a FULL image, form anew (R535, R537). -/
def State.formFeds (s : State) (old new : Setting) (full : Bool) : State :=
  let s := { s with net := { s.net with feds := s.net.feds.filter (fun p => new.feds.any (·.fedUid == p.1)) } }
  new.feds.foldl (fun s f =>
    if full || !old.feds.contains f then (s.updFed f.fedUid (fun x => { fedUid := f.fedUid, epoch := x.epoch })).sendJoin f else s) s

/-- Unit states under the new setting: changed units lose their slice pointer (R379), DOWN units leave DOWN, and a batch
held by one replays on the unit that its service binds (R614). -/
def State.carryUnits (s : State) (old new : Setting) : State :=
  let downs := s.units.filterMap (fun p => p.2.downBatch)
  let units := (s.units.filter (fun p => new.runs p.1)).map (fun (p : Nat × UnitSt) =>
    (p.1, { p.2 with slicePtr := if old.unit? p.1 = new.unit? p.1 then p.2.slicePtr else 0
                     down := false, failed := [], downBatch := none
                     replay := if p.2.down then none else p.2.replay }))
  downs.foldl (fun (s : State) (r : Replay) =>
    match r.batch.bind (fun b => new.svc? b.svc) with
    | some v => s.updUnit (new.svcUnit v) (fun u => { u with replay := some { r with dependsOn := none } })
    | none => s) { s with units }

/-- Error queues at an apply (R618). -/
def State.carryQueues (s : State) (new : Setting) : State :=
  { s with errUnit := s.errUnit.filter (fun p => new.isTop p.1) }

/-- Meter counts by the ordinals of the new GUAR records; a meter's bytes are cleared only at reset (Table 20-10). -/
def carryMeter (old new : List GuarRec) (m : SMap Nat) : SMap Nat :=
  ((List.range new.length).zip new).foldl (fun (r : SMap Nat) (p : Nat × GuarRec) =>
    match ((List.range old.length).zip old).find? (fun (q : Nat × GuarRec) => q.2.key == p.2.key) with
    | some q => if mget m q.1 0 = 0 then r else mput r p.1 (mget m q.1 0)
    | none => r) []

/-- Applies a load (R141, R145 to R147, R599, R590). `slot` is the measurement slot that is extended. -/
def State.apply (s : State) (l : Loaded) (slot : Nat) : State :=
  let old := s.set.cur
  let new := l.merged
  let s := s.closeAtApply old new
  let s := { s with set := { s.set with cur := new, image := l.image } }
  let s := s.remapVaults old new
  let s := s.remapPages old new
  let s := l.fill.foldl (fun s r => s.fillZero r.1 r.2) s
  let s := s.compose old new
  let s := s.startClasps old new l.full l.carried
  let s := s.carryUnits old new
  let s := s.carryQueues new
  let s := s.formFeds old new l.full
  let s := { s with
    net := { s.net with fi := (List.range new.fis.length).map (fun k => { lfsr := k + 1 }) }
    filFi := [], netFi := []
    mem := { s.mem with meter := carryMeter old.guars new.guars s.mem.meter, meterSnap := carryMeter old.guars new.guars s.mem.meterSnap }
    dev := { s.dev with noSetting := false, untested := s.dev.untested || l.untested } }
  let s := if l.full then
      { s with frm := { s.frm with resid := 0, sinceEdge := 0, edgeOfTick := false, edgeOfNext := false
                                   holdover := s.frm.holdover && old.frame.source == new.frame.source } }
    else s
  (s.extend slot (Config.sha384 l.image)).setFinish 0 0xFFFF

/-- A load that waits meets a tick (R136, R141, R144): applied, failed, or kept; the 8th tick is left to
`SET_TIMEOUT`. -/
def State.tickLoad (s : State) : State :=
  match s.set.phase, s.set.loaded with
  | .pending, some l =>
    let s := { s with set := { s.set with ticks := s.set.ticks + 1 } }
    let aff := s.affectedBy l
    if 8 < s.set.ticks ∨ s.units.any (fun p => aff.contains (s.set.cur.top p.1) && p.2.busy) then s
    else
      match s.check13 l.merged with
      | some (st, bad) => s.setFinish st (recordOf (!l.full) (cutRecs (l.image.length / 8) 0 ((l.image.take (l.image.length - 104)).drop 128)).1 bad)
      | none =>
        let persist := s.set.persist && l.full
        let s := s.apply l 7
        if persist then { s with hmk := { s.hmk with queue := s.hmk.queue ++ [{ kind := .setStore, off := 0, data := l.image }] } } else s
  | _, _ => s

/-! ## The commands -/

/-- SET_CHECK_DONE (R137). -/
def execSetCheckDone (s : State) : Host.Outcome State Fault Refusal := s.unlessDown <| .next s.checkDone

/-- SET_TIMEOUT (R136): a load still waiting after its 8th tick is abandoned. -/
def execSetTimeout (s : State) : Host.Outcome State Fault Refusal := s.unlessDown <|
  .next (if s.set.phase = .pending ∧ 8 ≤ s.set.ticks then s.setFinish St.setTimeout 0xFFFF else s)

end Sys2Proof.Machine
end

