-- ==== Sys2Proof/Machine/Commit.lean ====
section
/-! DEFINITION. The commit of a slice (R419, R494 to R498): lanes, session effects, completion record, held signals,
responses. -/

namespace Sys2Proof.Machine

/-! ## Lanes (Tables 15-11, 15-12) -/

/-- What validating and applying the lanes of a batch builds: the handles that earlier entries named, those that
applied entries named, lanes with poison, and the answers in lane order. -/
structure LaneAcc where
  s : State
  named : List Nat := []
  applied : List Nat := []
  poisoned : Nat := 0
  replies : List (ReplyTo × SesMsg) := []

/-- A commit entry's handle, slot and operation. -/
def entHandle (e : Nat) : Nat := e % 2 ^ 40
def entSlot (e : Nat) : Nat := bits e 42 40
def entOp (e : Nat) : Nat := bits e 44 43

/-- The commit entries of a lane header. -/
def laneEntries (hd : List Byte) : List Nat := (List.range (min 8 (bfld hd 6 1))).map (fun k => bfld hd (8 + 8 * k) 8)

/-- The handles that entries name; CLEAR names none. -/
def namedBy (es : List Nat) : List Nat := (es.filter (fun e => entOp e != 2)).map entHandle

/-- Pages of an object. -/
def State.objPages (s : State) (h : Nat) : Nat := (mget s.bpm.lists h []).length

/-- Does any granule of an object read as poison? -/
def State.objPoison (s : State) (h : Nat) : Bool :=
  (mget s.bpm.lists h []).any (fun f => s.mem.poisoned (f * 4096) (pageBytes (s.set.cur.frameKind f)))

/-- May an entry of the unit's slice name the object (R496)? -/
def State.mayName (s : State) (uid : Nat) (sl : Slice) (stage h : Nat) : Bool :=
  let top := s.set.cur.top uid
  sl.objs.contains h && h != stage && s.handleLive h &&
    s.set.cur.hbmPools.any (fun p => p.has (hFrame h) && s.set.cur.regions.any (fun r =>
      r.cls == .session && s.set.cur.top r.owner == top && decide (p.phys ≤ r.phys) && decide (r.phys + r.len ≤ p.phys + p.len)))

/-- The status of a lane's entries, in entry order over the page counts of the slots; 0 when all pass (R496). -/
def State.entriesStatus (s : State) (uid : Nat) (sl : Slice) (stage : Nat) : List Nat → SMap Nat → List Nat → Nat
  | _, _, [] => 0
  | named, pages, e :: es =>
    let h := entHandle e
    let k := entSlot e
    if entOp e = 2 then s.entriesStatus uid sl stage named (mput pages k 0) es
    else if entOp e = 3 ∨ named.contains h ∨ !s.mayName uid sl stage h then St.sesBadCommit
    else
      let n := (if entOp e = 0 then mget pages k 0 else 0) + s.objPages h
      if 65536 < n then St.sesObjFull else s.entriesStatus uid sl stage (named ++ [h]) (mput pages k n) es

/-- Adds the pages of object `h` at the end of object `g` (APPEND). -/
def State.appendObj (s : State) (g h : Nat) : State :=
  let fs := mget s.bpm.lists h []
  let s := fs.foldl (fun s f => s.setPage f { s.page f with head := false, link := hFrame g }) s
  { s with bpm := { s.bpm with lists := mput (mdel s.bpm.lists h) g (mget s.bpm.lists g [] ++ fs) } }

/-- A slot's word for an object (Table 15-4). -/
def State.slotWord (s : State) (h : Nat) : Nat := h + s.objPages h * 2 ^ 40

/-- Applies one entry to a session. -/
def State.applyEntry (s : State) (i e : Nat) : State :=
  let k := entSlot e
  let old := mget (s.ses i).slots k 0 % 2 ^ 40
  let h := entHandle e
  let put := fun (s : State) (h : Nat) => s.updSes i (fun x => { x with slots := mput x.slots k (s.slotWord h) })
  match entOp e with
  | 0 => if old = 0 then put s h else put (s.appendObj old h) old
  | 1 => put (if old = 0 then s else s.dropObj old) h
  | _ => (if old = 0 then s else s.dropObj old).updSes i (fun x => { x with slots := mdel x.slots k })

/-- A lane at the commit (R496): dropped when aborted, refused for poison or a bad header, else applied. -/
def LaneAcc.lane (a : LaneAcc) (uid : Nat) (sl : Slice) (b : Batch) (j : Nat) (l : Lane) : LaneAcc :=
  let s := a.s
  let area := s.objRead b.stage (j * b.laneBytes) b.laneBytes
  let hd := (area.take 128).map (·.1)
  let es := laneEntries hd
  let n := bfld hd 0 4
  let named := a.named ++ namedBy es
  let done := fun (s : State) => s.updSes l.index (fun e => { e with inBatch := false, doneSeq := l.req.reqSeq })
  let msg : SesMsg := { type := 4, handle := l.handle, reqSeq := l.req.reqSeq, tag := l.req.tag, commitFrame := s.frm.count }
  let answer := fun (m : SesMsg) => a.replies ++ [(l.req.backTo (s.ses l.index).client, m)]
  if l.aborted then { a with s := done s, named }
  else if area.any (·.2) || (namedBy es).any s.objPoison then
    { a with s := done s, named, poisoned := a.poisoned + 1, replies := answer { msg with status := St.poison } }
  else
    let st := if 8 < bfld hd 6 1 ∨ b.laneBytes < n + 128 then St.sesBadCommit
      else s.entriesStatus uid sl b.stage a.named ((s.ses l.index).slots.map (fun (p : Nat × Nat) => (p.1, p.2 / 2 ^ 40))) es
    if st ≠ 0 then { a with s := done s, named, replies := answer { msg with status := st } }
    else
      { s := (done (es.foldl (fun s e => s.applyEntry l.index e) s)).updSes l.index (fun e => { e with lastFrame := s.frm.count, lastAt := s.frm.tickAt })
        named, applied := a.applied ++ namedBy es, poisoned := a.poisoned
        replies := answer { msg with appStatus := bfld hd 4 2, payload := ((area.drop 128).take n).map (·.1) } }

/-- The lanes of a batch in order. -/
def LaneAcc.lanes (a : LaneAcc) (uid : Nat) (sl : Slice) (b : Batch) : LaneAcc :=
  ((List.range b.lanes.length).zip b.lanes).foldl (fun a p => a.lane uid sl b p.1 p.2) a

/-- Objects of the slice that no applied entry names, payloads and the staging object go to quarantine (R496). -/
def State.sweep (s : State) (uid : Nat) (sl : Slice) (b : Batch) (applied : List Nat) : State :=
  let s := (sl.objs.filter (fun h => !applied.contains h && s.mayName uid sl b.stage h)).foldl State.dropObj s
  let s := (b.lanes.map (fun l => l.req.payload)).foldl State.dropObj s
  s.dropObj b.stage

/-! ## The commit point -/

/-- Held signals in rank order, then chain order (R394). -/
def heldOrder (hs : List HeldSignal) : List HeldSignal :=
  hs.foldl (fun l h =>
    l.takeWhile (fun x => decide (x.rank < h.rank) || (x.rank == h.rank && decide (x.idx ≤ h.idx))) ++ [h] ++
      l.dropWhile (fun x => decide (x.rank < h.rank) || (x.rank == h.rank && decide (x.idx ≤ h.idx)))) []

/-- Slip after a commit, in ps (R173, R176). -/
def Slice.slipAfter (sl : Slice) : Nat := if sl.overTick then 0 else sl.endAt - (sl.sNom + sl.boundTime)

/-- The commit of a unit's slice: session effects and lane outcomes together, the record, the held signals, then the
responses and closes. -/
def State.commitNow (s : State) (uid : Nat) : State :=
  match (s.unitSt uid).slice with
  | none => s
  | some sl =>
    let member := (s.set.cur.fedOf uid).any (fun f => f.rank != 0)
    let slip := if member then 0 else sl.slipAfter
    let a : LaneAcc := match sl.batch with
      | none => { s }
      | some b => ({ s } : LaneAcc).lanes uid sl b
    let s := match sl.batch with
      | none => a.s
      | some b => a.s.sweep uid sl b a.applied
    let s := s.writeCompl uid sl outCommitted ((sl.endAt - sl.startAt) / 1000) (slip / 1000) a.poisoned
    let s := (heldOrder sl.heldSignals).foldl (fun s h => s.opSignal h.clasp h.n) s
    let s := sl.beads.foldl (fun s b => s.updBead b (fun x => { x with phase := .idle })) s
    let s := ((s.discardOpen sl).traceFrame 4 uid).updUnit uid (fun u => { u with slice := none, slip })
    let s := a.replies.foldl (fun s r => s.reply r.1 r.2) s
    ((sl.batch.map (·.lanes)).getD []).foldl (fun s l =>
      let e := s.ses l.index
      if e.closePending && s.sesHandle l.index == l.handle then s.closeNow l.index e.closeStatus e.closeTag else s) s

/-- COMMIT_POINT (R496). -/
def execCommitPoint (uid t : Nat) (s : State) : Host.Outcome State Fault Refusal := s.unlessDown <|
  let s := s.at t
  .next (match (s.unitSt uid).slice with
    | some sl => if sl.phase = .committing then s.commitNow uid else s
    | none => s)

end Sys2Proof.Machine
end

