-- ==== Sys2Proof/Machine/Faults.lean ====
section
/-! DEFINITION. Covered faults, recomposition and self-test (R603 to R626). -/

namespace Sys2Proof.Machine

/-! ## Spares (R120, R614) -/

/-- Is a bead free to stand in: in service, in no position, not under test and not waiting to return? -/
def State.freeBead (s : State) (b : Nat) : Bool :=
  let x := s.bead b
  x.inService && x.pos.isNone && (s.set.cur.unit? b).isNone && (mfind s.ras.running b).isNone && (mfind s.ras.returning b).isNone

/-- The beads of abandoned tests of a unit, which serve as spares (R626). -/
def State.abandoned (s : State) (top : Nat) : List Nat :=
  (s.ras.queued.filter (fun (p : Nat × SelfTest) =>
    (s.bead p.1).inService && (s.bead p.1).pos.isNone && (mfind s.ras.running p.1).isNone && s.set.cur.top p.1 == top)).map Prod.fst

/-- The free spares of a top-level unit, in order of preference, then the beads of its abandoned tests. -/
def State.spares (s : State) (top : Nat) : List Nat :=
  (((s.set.cur.spares.find? (·.uid == top)).map (·.spares)).getD []).filter s.freeBead ++ s.abandoned top

/-- Beads of a unit under test away from their position (R622). -/
def State.testedOf (s : State) (top : Nat) : List (Nat × SelfTest) :=
  s.ras.running.filter (fun (p : Nat × SelfTest) => p.2.home.any (fun h => s.set.cur.top h == top))

/-- Abandons a self-test: the bead is free and the request is queued again (R626). -/
def State.abandonTest (s : State) (top b : Nat) (st : SelfTest) : State :=
  ({ s with ras := { s.ras with running := mdel s.ras.running b, queued := mput s.ras.queued b { st with home := none, skipUnit := none } } }).raiseUG
    top St.rasStAbandoned b (beadAgent b)

/-- The units of this setting under a top-level unit that keep slices. -/
def State.under (s : State) (top : Nat) : List Nat := (s.units.filter (fun p => s.set.cur.top p.1 == top)).map (·.1)

/-- A unit without a usable spare becomes DOWN; its batches are held with their admission intact (R614). -/
def State.goDown (s : State) (top b : Nat) : State :=
  let s := (s.under top).foldl (fun s u => s.updUnit u (fun x =>
    { x with replay := none, heldBatch := none, downBatch := x.downBatch.orElse (fun _ => x.replay.orElse (fun _ => x.heldBatch)) })) s
  (s.updUnit top (fun x => { x with down := true })).raiseUG top St.rasNoSpare b (beadAgent b)

/-- Places a spare in each failed position of a top-level unit, in order; what cannot be placed stays failed (R612). -/
def State.placeSpares (s : State) (top : Nat) : State :=
  ((s.unitSt top).failed).foldl (fun s pos =>
    match s.spares top with
    | [] => s
    | sp :: _ =>
      let bad := s.posBead pos
      let s := (s.place sp pos).updUnit top (fun x => { x with failed := sDel pos x.failed })
      s.raiseU top St.rasRecomposed (bad + sp * 2 ^ 32) 0 (beadAgent bad)) s

/-- After a loss of leaves: enough spares, an abandoned test's bead, or DOWN. -/
def State.checkSpares (s : State) (top b : Nat) : State :=
  if s.set.cur.s1 top then s.goDown top b
  else if (s.unitSt top).failed.length ≤ (s.spares top).length then s
  else
    match s.testedOf top with
    | [] => s.goDown top b
    | (c, st) :: _ =>
      let s := s.abandonTest top c st
      if (s.unitSt top).failed.length ≤ (s.spares top).length then s else s.goDown top b

/-! ## Faults (R603 to R611, R615) -/

/-- The slice of a unit is interrupted by a covered fault of a bead, unless its last leaf has executed END (R605, R609). -/
def State.interrupt (s : State) (b status : Nat) : State :=
  match s.sliceOf b with
  | none => s
  | some (uid, sl) =>
    if sl.phase = .committing ∨ sl.phase = .waiting then s
    else
      let (v, s) := s.fresh
      let s := s.updSlice uid (·.noteFault { status, rank := sl.beads.idxOf b, cmd := v % 2 ^ 32, reason := 0 })
      (s.failSlice uid outInterrupted).fedLocal uid status

/-- Beads leave service (R96, R610): a leaf's unit is recomposed, an idle bead is only logged. -/
def State.loseBeads (s : State) (bs : List Nat) (status arg : Nat) : State :=
  let hit := bs.filter (fun b => (s.bead b).inService || (s.bead b).pos.isSome)
  let s := hit.foldl (fun s b => (s.updBead b (fun x => { x with inService := false })).traceFault b) s
  let s := { s with fil := { s.fil with underReset := hit.foldl (fun l b => sIns (beadAgent b) l) s.fil.underReset } }
  let leaves := hit.filter (fun b => (s.bead b).pos.isSome)
  let src := beadAgent (bs.headD 0)
  let tops := (leaves.map (fun b => s.set.cur.top (((s.bead b).pos).getD 0))).eraseDups
  let s := tops.foldl (fun s u => s.raiseU u status arg 0 src true) s
  let s := s.raiseG (if leaves.isEmpty then St.rasBeadFault else status) (if leaves.isEmpty then bs.headD 0 else arg) src (tops.headD 0xFFFF) true
  let s := leaves.foldl (fun s b => s.interrupt b status) s
  let s := leaves.foldl (fun s b =>
    let p := ((s.bead b).pos).getD 0
    s.updUnit (s.set.cur.top p) (fun x => { x with failed := if x.failed.contains p then x.failed else x.failed ++ [p] })) s
  tops.foldl (fun s u => if (s.unitSt u).down then s else s.checkSpares u (leaves.headD 0)) s

/-- The end of a self-test (R624 to R626). -/
def State.testEnd (s : State) (b : Nat) (pass : Bool) (result : Nat) : State :=
  match mfind s.ras.running b with
  | none => s
  | some st =>
    let pos := st.home.orElse (fun _ => (s.bead b).pos)
    let top := (pos.map s.set.cur.top).getD 0xFFFF
    let s := { s with ras := { s.ras with running := mdel s.ras.running b } }
    let arg := b + result % 2 ^ 32 * 2 ^ 32
    let s := s.raiseUG top (if pass then St.rasStPass else St.rasStFail) arg (beadAgent b)
    let s := s.updBead b (fun x => { x with inService := pass })
    let s := if pass then { s with fil := { s.fil with underReset := sDel (beadAgent b) s.fil.underReset } } else s
    if pass then
      match st.home with
      | some h => { s with ras := { s.ras with returning := mput s.ras.returning b h } }
      | none => s
    else if st.home.isNone && (s.bead b).pos.isSome then
      let p := ((s.bead b).pos).getD 0
      (s.updUnit top (fun x => { x with failed := if x.failed.contains p then x.failed else x.failed ++ [p] })).checkSpares top b
    else s

/-- A fault of one bead; in a bead under test it is a test failure, whose result word is free. -/
def State.beadFails (s : State) (b status arg : Nat) : State :=
  if (mfind s.ras.running b).isSome then
    let (v, s) := s.fresh
    s.testEnd b false v
  else s.loseBeads [b] status arg

/-- Recomposition of a unit completes (R612, R615): each failed leaf has its spare, or the unit is DOWN. -/
def State.recompose (s : State) (top : Nat) : State :=
  let x := s.unitSt top
  if x.failed = [] ∨ x.down then s
  else if s.set.cur.s1 top then s
  else
    let s := s.placeSpares top
    if (s.unitSt top).failed = [] then s else s.goDown top (((s.unitSt top).failed.head?.map s.posBead).getD 0)

/-! ## Self-test (R621 to R623) -/

/-- Starts the test of a bead (R621): what it held is lost. -/
def State.startTest (s : State) (b : Nat) (st : SelfTest) : State :=
  { s.undefBead b with ras := { s.ras with queued := mdel s.ras.queued b, running := mput s.ras.running b st } }

/-- A request: a bead that is idle, out of service or a free spare is tested at once (R622). -/
def State.requestTest (s : State) (b kind : Nat) (force : Bool) : State :=
  let st : SelfTest := { kind, force }
  let x := s.bead b
  if (mfind s.ras.running b).isNone && (x.pos.isNone || !x.inService) then s.startTest b st
  else { s with ras := { s.ras with queued := mput s.ras.queued b st } }

/-- A write of RAS_ST_REQ (R641). -/
def State.stReq (s : State) (x : Nat) : State :=
  if 159 < bits x 7 0 ∨ bits x 9 8 = 3 then s.regacc else s.requestTest (bits x 7 0) (bits x 9 8) (bit x 12)

/-- Is a unit free of slices and pending replays? -/
def State.quiet (s : State) (top : Nat) : Bool := (s.under top).all (fun u => (s.unitSt u).slice.isNone && (s.unitSt u).replay.isNone)

/-- Self-test and recomposition at a tick, before any start (R614, R622, R624). -/
def State.rasTick (s : State) : State :=
  let s := s.ras.returning.foldl (fun (s : State) (p : Nat × Nat) =>
    if s.quiet (s.set.cur.top p.2) then { s.place p.1 p.2 with ras := { s.ras with returning := mdel s.ras.returning p.1 } } else s) s
  let s := s.ras.queued.foldl (fun (s : State) (p : Nat × SelfTest) =>
    match (s.bead p.1).pos with
    | none => if (mfind s.ras.running p.1).isNone then s.startTest p.1 p.2 else s
    | some pos =>
      let top := s.set.cur.top pos
      if !s.quiet top || (mfind s.ras.running p.1).isSome then s
      else match s.spares top with
        | sp :: _ =>
          ((s.place sp pos).raiseU top St.rasRecomposed (p.1 + sp * 2 ^ 32) 0 (beadAgent p.1)).startTest p.1 { p.2 with home := some pos }
        | [] =>
          if p.2.force then s.startTest p.1 { p.2 with skipUnit := some top }
          else ({ s with ras := { s.ras with queued := mdel s.ras.queued p.1 } }).raiseUG top St.rasStRefused p.1 (beadAgent p.1)) s
  s.units.foldl (fun s p =>
    let x := s.unitSt p.1
    if x.down && !s.set.cur.s1 p.1 && decide (x.failed.length ≤ (s.spares p.1).length) then
      let s := (s.placeSpares p.1).updUnit p.1 (fun x => { x with down := false })
      (s.under p.1).foldl (fun s u => s.updUnit u (fun x => { x with replay := x.downBatch, downBatch := none })) s
    else s) s

/-- Is a unit kept from admission by a forced self-test (R623)? -/
def State.testSkips (s : State) (top : Nat) : Bool := s.ras.running.any (fun (p : Nat × SelfTest) => p.2.skipUnit == some top)

/-! ## Host cores -/

/-- A host core halts (R608). -/
def State.coreFault (s : State) (c : Nat) : State :=
  let s := { s with ras := { s.ras with haltedCores := sIns c s.ras.haltedCores } }
  let us := ((s.set.cur.services.filter (fun v => bit v.hostCores c)).map (fun v => s.set.cur.top (s.set.cur.svcUnit v))).eraseDups
  (us.foldl (fun s u => s.raiseU u St.rasCoreFault c 0 schedAgent true) s).raiseG St.rasCoreFault c schedAgent 0xFFFF true

/-! ## The commands -/

/-- FACET_FAULT (R212); ARG is the global facet ID of Table 2-6. -/
def execFacetFault (b : BeadId) (f : Fin 4) (t : Nat) (s : State) : Host.Outcome State Fault Refusal := s.unlessDown <|
  .next ((s.at t).beadFails b St.rasFacetFault (b.val * 4 + f.val)).resumeMt

/-- BEAD_FAULT (R603). -/
def execBeadFault (b : BeadId) (t : Nat) (s : State) : Host.Outcome State Fault Refusal := s.unlessDown <|
  .next ((s.at t).beadFails b St.rasBeadFault b).resumeMt

/-- BEAD_WATCHDOG (R604): it fires only while a command is in the bead. -/
def execBeadWatchdog (b : BeadId) (t : Nat) (s : State) : Host.Outcome State Fault Refusal := s.unlessDown <|
  let s := s.at t
  .next (if (s.bead b).window.isEmpty then s else (s.beadFails b St.rasBeadFault b).resumeMt)

/-- STRAND_FAULT (R603): the five beads of the strand leave service together. -/
def execStrandFault (die : Die) (strand : Fin 4) (t : Nat) (s : State) : Host.Outcome State Fault Refusal := s.unlessDown <|
  let b := die.val * 20 + strand.val * 5
  .next ((s.at t).loseBeads (span b 5) St.rasStrandFault b).resumeMt

/-- HOST_CORE_FAULT (R608). -/
def execHostCoreFault (c : Fin 48) (s : State) : Host.Outcome State Fault Refusal := s.unlessDown <| .next (s.coreFault c)

/-- RECOMPOSITION_DONE (R612). -/
def execRecompositionDone (uid t : Nat) (s : State) : Host.Outcome State Fault Refusal := s.unlessDown <| .next ((s.at t).recompose uid)

/-- SELF_TEST_END (R625). -/
def execSelfTestEnd (b : BeadId) (pass : Bool) (result : Nat) (s : State) : Host.Outcome State Fault Refusal := s.unlessDown <|
  .next (s.testEnd b pass result)

end Sys2Proof.Machine
end

