-- ==== Sys2Proof/Machine/Power.lean ====
section
/-! DEFINITION. Clocks, voltages, throttles and temperatures (R179, R180, R649 to R662). -/

namespace Sys2Proof.Machine

/-! ## Voltage (R650 to R653) -/

/-- Table 21-5 in mV at a clock in MHz; below 1,000 MHz the 1,000 MHz value. -/
def vddTable (clk : Nat) : Nat :=
  let c := max clk 1000 - 1000
  if Config.grade = .f4b768 then 620 + ceilDiv (c * 3) 50 * 5 else 600 + ceilDiv c 20 * 5

/-- The target a part requests: at most 50 mV less, from its fused characterisation (R651). -/
def vddOf (clk : Nat) : Nat := vddTable clk - Config.fuse 9 % 51

/-! ## Sensors (Table 21-8); sensor `k` counts from 0: C0 to C7, H0, H1, M0 to M15 -/

/-- Warning, emergency and trip thresholds in °C. -/
def warnAt (k : Nat) : Nat := if k < 10 then 95 else 85
def emergencyAt (k : Nat) : Nat := if k < 8 then 100 else if k < 10 then 105 else 95
def tripAt (k : Nat) : Nat := if k < 8 then 110 else if k < 10 then 115 else 105

/-- The temperature of a sensor. -/
def PwrState.temp (p : PwrState) (k : Nat) : Nat := mget p.temps k 0

/-- Is any sensor at its emergency threshold? -/
def PwrState.hot (p : PwrState) : Bool := (List.range 26).any (fun k => decide (emergencyAt k ≤ p.temp k))

/-- Is every sensor at least 3 °C below it? -/
def PwrState.cool (p : PwrState) : Bool := (List.range 26).all (fun k => decide (p.temp k + 3 ≤ emergencyAt k))

/-! ## Power (R660) -/

/-- A rolling average over the newest `n` samples of 10 µs. -/
def PwrState.average (p : PwrState) (n : Nat) : Nat :=
  let l := p.samples.take n
  if l.isEmpty then 0 else l.foldl (· + ·) 0 / l.length

/-- P_100µs and P_10ms. -/
def PwrState.p100 (p : PwrState) : Nat := p.average 10
def PwrState.p10ms (p : PwrState) : Nat := p.average 1000

/-- A sample of package power: the averages, and a step of the cap throttle every 100 µs while a condition holds. -/
def PwrState.sample (p : PwrState) (watts : Nat) : PwrState :=
  let p := { p with samples := (watts :: p.samples).take 1000 }
  let p := { p with capOver := if p.cap < p.p100 then p.capOver + 1 else 0 }
  if p.cap < p.p10ms ∨ 100 ≤ p.capOver ∨ 3700 ≤ p.p100 then
    if p.capClk.isNone ∨ 10 ≤ p.sinceCapStep + 1 then { p with capClk := some (max 500 (p.clk - 200)), sinceCapStep := 0 }
    else { p with sinceCapStep := p.sinceCapStep + 1 }
  else p

/-! ## Throttles -/

/-- The thermal throttle at a clock, if that lowers it. -/
def PwrState.throttle (p : PwrState) (clk : Nat) : PwrState := { p with thermClk := some (min clk (p.thermClk.getD clk)) }

/-- A sensor reaches its emergency threshold (R661): the clock falls to 1,000 MHz at once. -/
def PwrState.emergency (p : PwrState) (k temp : Nat) : PwrState :=
  let p := { p with temps := mput p.temps k temp }
  if emergencyAt k ≤ temp then { p.throttle 1000 with thermEmergency := true } else p

/-- 1 ms later, still hot: a further step of 200 MHz (R661). -/
def PwrState.thermStep (p : PwrState) : PwrState :=
  if p.thermEmergency && p.hot then { p with thermClk := some (max 500 (p.thermClk.getD 1000 - 200)) } else p

/-- PROCHOT_N as the board drives it (R662). -/
def PwrState.prochot (p : PwrState) (low : Bool) : PwrState := if low then { p.throttle 1000 with prochotIn := true } else { p with prochotIn := false }

/-- The voltage follows a throttle (R653). -/
def PwrState.lowerVolts (p : PwrState) : PwrState :=
  if p.capClk.isSome ∨ p.thermClk.isSome then { p with vddTarget := min p.vddTarget (vddOf p.clk) } else p

/-- Power at a tick: throttles that may go are released, and requests take effect (R179, R180, R639, R658). -/
def PwrState.tick (p : PwrState) : PwrState :=
  let p := if p.p10ms * 100 ≤ p.cap * 95 ∧ p.p100 ≤ p.cap then { p with capClk := none, sinceCapStep := 0, capOver := 0 } else p
  let p := if (if p.thermEmergency then p.cool else !p.hot) && !p.prochotIn then { p with thermClk := none, thermEmergency := false } else p
  let p := { p with curState := p.reqState, curClk := p.reqClk, cap := p.capReq, preWarm := [] }
  if p.capClk.isNone ∧ p.thermClk.isNone then { p with vddTarget := vddOf p.clk } else p

/-- A write of PWR_REQ (R639, R652). -/
def State.pwrReq (s : State) (x : Nat) : State :=
  let clk := bits x 15 4
  if bits x 1 0 = 3 ∨ clk < 1000 ∨ Config.grade.maxClock < clk ∨ clk % 100 ≠ 0 then s.regacc
  else
    { s with pwr := { s.pwr with reqState := bits x 1 0, reqClk := clk
                                 vddTarget := if s.pwr.curClk < clk then max s.pwr.vddTarget (vddOf clk) else s.pwr.vddTarget } }

/-- A write of PWR_CAP (R639). -/
def State.pwrCap (s : State) (x : Nat) : State :=
  let w := bits x 12 0
  if w < 1200 ∨ 3200 < w then s.regacc else { s with pwr := { s.pwr with capReq := w } }

/-- Power at a tick, with the stacks' self-refresh of P2 (R658, R659). -/
def State.pwrTick (s : State) : State :=
  let was := s.pwr.curState
  let p := s.pwr.tick
  let s := { s with pwr := p }
  if p.curState = 2 ∧ was ≠ 2 then { s with mem := { s.mem with selfRefresh := span 0 16 } }
  else if p.curState ≠ 2 ∧ was = 2 then { s with mem := { s.mem with selfRefresh := [] } }
  else s

/-! ## The ballast (R656) -/

/-- The ballast floor of a die in tenths of an ampere: I_run − 90 A of the leaves there of slices that run or whose
pre-warm has begun, with I_f = 3.2 A. -/
def State.ballastFloor (s : State) (die : Nat) : Nat :=
  let leaves := (s.units.filterMap (fun p => p.2.slice.map (fun sl =>
    if sl.phase == .admitted && !s.pwr.preWarm.contains p.1 then 0 else (sl.beads.filter (fun b => b / 20 == die)).length))).foldl (· + ·) 0
  leaves * Config.grade.facets * 32 - 900

/-- A unit's pre-warm begins. -/
def State.preWarm (s : State) (uid : Nat) : State := { s with pwr := { s.pwr with preWarm := sIns uid s.pwr.preWarm } }

/-! ## The commands -/

/-- POWER_SAMPLE (R660). -/
def execPowerSample (watts t : Nat) (s : State) : Host.Outcome State Fault Refusal := s.unlessDown <|
  let s := s.at t
  .next { s with pwr := s.pwr.sample watts }

/-- THERMAL_EMERGENCY (R661). -/
def execThermalEmergency (sensor : Fin 26) (temp : Nat) (s : State) : Host.Outcome State Fault Refusal := s.unlessDown <|
  .next { s with pwr := s.pwr.emergency sensor temp }

/-- THERMAL_STEP (R661). -/
def execThermalStep (s : State) : Host.Outcome State Fault Refusal := s.unlessDown <| .next { s with pwr := s.pwr.thermStep }

/-- PROCHOT_N (R662). -/
def execProchotN (low : Bool) (s : State) : Host.Outcome State Fault Refusal := s.unlessDown <| .next { s with pwr := s.pwr.prochot low }

/-- THERMTRIP_N (R662): the pin falls at the threshold, and stays low until PORST_N. -/
def execThermtripN (sensor : Fin 26) (temp : Nat) (s : State) : Host.Outcome State Fault Refusal := s.unlessDown <|
  .next { s with pwr := { s.pwr with temps := mput s.pwr.temps sensor temp
                                     thermtrip := s.pwr.thermtrip || decide (tripAt sensor ≤ temp) } }

/-- VOLTAGE_LOWER (R653). -/
def execVoltageLower (s : State) : Host.Outcome State Fault Refusal := s.unlessDown <| .next { s with pwr := s.pwr.lowerVolts }

/-- RAIL_OUT_OF_RANGE (R649): the device's state is undefined from that moment. -/
def execRailOutOfRange (_s : State) : Host.Outcome State Fault Refusal := .fault .railOutOfRange

/-- PRE_WARM_SLIPPED_START (R656). -/
def execPreWarmSlippedStart (uid t : Nat) (s : State) : Host.Outcome State Fault Refusal := s.unlessDown <| .next ((s.at t).preWarm uid)

end Sys2Proof.Machine
end

