-- ==== Sys2Proof/Machine/Frame.lean ====
section
/-! DEFINITION. The frame scheduler (chapter 04): the tick and its source, admission, batches, starts, the guard band and
deferral. -/

namespace Sys2Proof.Machine

/-! ## Slice headers (R381, R382) -/

/-- Bytes at a unit address of a unit, when every line lies in its region table and carries no poison. -/
def State.unitRead (s : State) (uid ua n : Nat) : Option (List Byte) :=
  let tb := s.set.cur.table uid
  ((linePieces ua n).mapM (fun (p : Nat × Nat) => (regionAt tb (ua + p.1)).bind (fun r =>
    let pa := r.phys + (ua + p.1 - r.ua)
    if s.mem.poisoned pa p.2 then none else some (s.mem.ram.readN pa p.2)))).map List.flatten

/-- The leaf entry at an offset (Table 12-2). -/
def leafEntryOf (bs : List Byte) (o : Nat) : LeafEntry :=
  { chain := bfld bs o 8, chainLen := bfld bs (o + 8) 4, ringBase := bfld bs (o + 12) 2, ringPages := bfld bs (o + 14) 2 }

/-- Is a leaf entry legal? -/
def LeafEntry.ok (e : LeafEntry) : Bool :=
  e.chain % 64 == 0 && decide (e.chain < 2 ^ 48) && decide (1 ≤ e.chainLen) && decide (e.chainLen ≤ 2 ^ 24) &&
    decide (1 ≤ e.ringPages) && decide (e.ringPages ≤ 64)

/-- Is the fixed part of a header legal for `n` leaves (Table 12-1)? -/
def headOk (h : List Byte) (n : Nat) : Bool :=
  bfld h 0 4 == 0x45434C53 && bfld h 4 2 == 1 && bfld h 6 2 == n && decide (bfld h 0x0C 1 ≤ 16) && bfld h 0x0D 3 == 0 &&
    bfld h 0x10 8 % 64 == 0 && decide (bfld h 0x10 8 < 2 ^ 48) && bfld h 0x18 8 == 0 && ((pairs16 ((h.drop 0x20).take 32)).drop (bfld h 0x0C 1)).all (· == 0xFFFF)

/-- The header at a unit address, validated (R382). -/
def State.header? (s : State) (uid ua : Nat) : Option Header :=
  let n := (s.set.cur.leaves uid).length
  (s.unitRead uid ua (64 + 16 * n)).bind fun h =>
    let ls := (List.range n).map (fun i => leafEntryOf h (64 + 16 * i))
    if headOk h n && ls.all LeafEntry.ok then
      some { addr := ua, bound := bfld h 8 4, outClasps := (pairs16 ((h.drop 0x20).take 32)).take (bfld h 0x0C 1)
             complAddr := bfld h 0x10 8, leaves := ls }
    else none

/-! ## Times -/

/-- bound_time of a bound at the clock in force, ps (R170). -/
def State.boundPs (s : State) (bound : Nat) : Nat := bound * 1000000 / s.pwr.clk

/-- T_F in ps (R155). -/
def FrameRec.tf (f : FrameRec) : Nat := f.tfQ * 250000

/-- The absolute deadline of a request in ps; `none` without one (R164). -/
def Request.deadline (r : Request) : Option Nat := if r.budget = 0 then none else some (r.stamp + r.budget * 1000000)

/-- E(k) of a unit (R165). -/
def State.earliest (s : State) (uid bound : Nat) : Nat := s.frm.tickAt + 10000000 + (s.unitSt uid).slip + s.boundPs bound + 20000000

/-! ## Batches (R163 to R169, R494) -/

/-- Refuses the requests of a service that the snapshot holds and whose deadline precedes E(k) (R165). -/
def State.missDeadlines (s : State) (svc e : Nat) : State :=
  s.sessions.foldl (fun (s : State) (p : Nat × Session) =>
    if p.2.svc ≠ svc ∨ p.2.state = .free then s
    else
      let late := p.2.queue.filter (fun r => decide (r.stamp < s.frm.tickAt) && r.deadline.any (fun d => decide (d < e)))
      late.foldl (fun s r =>
        ((s.updSes p.1 (fun x => { x with queue := x.queue.filter (· != r) })).reply (r.backTo p.2.client)
          { type := 9, status := St.deadlineMiss, handle := s.sesHandle p.1, reqSeq := r.reqSeq, tag := r.tag }).dropObj r.payload) s) s

/-- Does the first request come before the second in the order of R166? -/
def admitBefore (urg : Bool) (a b : Nat × Request) : Bool :=
  let ua := urg && a.2.urgent
  let ub := urg && b.2.urgent
  if ua != ub then ua else decide (a.2.stamp < b.2.stamp) || (a.2.stamp == b.2.stamp && decide (a.1 < b.1))

/-- Inserts a request in that order. -/
def admitIns (urg : Bool) (x : Nat × Request) : List (Nat × Request) → List (Nat × Request)
  | [] => [x]
  | a :: t => if admitBefore urg x a then x :: a :: t else a :: admitIns urg x t

/-- The requests of a snapshot in the order of R166, one of each session. -/
def State.candidates (s : State) (v : ServiceRec) : List (Nat × Request) :=
  (s.sessions.filterMap (fun p =>
    if p.2.svc = v.svc ∧ p.2.state = .opened ∧ !p.2.inBatch then
      (p.2.queue.head?).bind (fun r => if r.stamp < s.frm.tickAt then some (p.1, r) else none)
    else none)).foldl (fun l x => admitIns v.urgent x l) []

/-- SES_LANE_BYTES of a service's window (R494). -/
def State.laneBytes (s : State) (v : ServiceRec) : Nat := if v.window < 256 then (s.win v.window).laneBytes else 128

/-- The lane of a request. -/
def State.laneFor (s : State) (p : Nat × Request) : Lane :=
  { index := p.1, handle := s.sesHandle p.1, req := p.2, deadline := (p.2.deadline.getD 0) / 1000, user := (s.ses p.1).user, slots := (s.ses p.1).slots }

/-- Bytes of a lane entry (Table 15-10). -/
def Lane.bytes (l : Lane) : List Byte :=
  leBytes 4 l.handle ++ leBytes 4 l.req.reqSeq ++ leBytes 1 ((if l.req.urgent then 1 else 0) + (if l.replayed then 2 else 0)) ++
    leBytes 3 0 ++ leBytes 4 l.req.len ++ leBytes 8 l.req.payload ++ leBytes 8 l.deadline ++ leBytes 8 l.user ++ leBytes 24 0 ++
    (List.range 8).flatMap (fun k => leBytes 8 (mget l.slots k 0))

/-- The batch table (Table 15-9). -/
def Batch.table (b : Batch) : List Byte :=
  leBytes 8 b.frame ++ leBytes 2 b.svc ++ leBytes 2 b.lanes.length ++ leBytes 1 ((if b.replay then 1 else 0) + (if b.heldOver then 2 else 0)) ++
    leBytes 3 0 ++ leBytes 8 b.stage ++ leBytes 4 b.laneBytes ++ leBytes 100 0 ++ b.lanes.flatMap Lane.bytes

/-- Allocates the staging object, zeroes the lane headers and writes the batch table; or the status of the allocation. -/
def State.stageBatch (s : State) (uid : Nat) (b : Batch) : Except Nat (State × Batch) :=
  let t := s.set.cur
  let n := ceilDiv (b.lanes.length * b.laneBytes) 4096
  let (s, h, st) := if n = 0 then (s, 0, 0) else s.allocate (t.top uid) 0 n (t.batchPool uid).toList
  if st ≠ 0 then .error st
  else
    let s := (List.range b.lanes.length).foldl (fun s j => s.objWrite h (j * b.laneBytes) (List.replicate 128 0)) s
    let b := { b with stage := h }
    .ok (match t.batchArea uid with
      | some r => s.memWrite r.phys b.table
      | none => s, b)

/-! ## Slices begin (R380) -/

/-- Makes a slice of a unit: its leaves take their entries, its start clasp is reset, and each leaf waits on it. -/
def State.beginSlice (s : State) (uid : Nat) (h : Header) (batch : Option Batch) (replay : Bool) : State :=
  let cl := ((s.set.cur.unit? uid).map (·.startClasp)).getD 0xFFFF
  let beads := (s.set.cur.leaves uid).map s.posBead
  let objs := (batch.map (fun b => if b.stage = 0 then [] else [b.stage])).getD []
  let s := { s with serial := s.serial + 1 }.updUnit uid (fun x =>
    { x with slice := some { serial := s.serial, uid, header := h, beads, batch, frame := s.frm.count, replay, objs } })
  let s := (s.opReset cl).traceFrame (if replay then 5 else 1) uid
  (beads.zip h.leaves).foldl (fun s p =>
    (s.updBead p.1 (fun x =>
      { x with phase := .starting, chain := p.2.chain, chainLen := p.2.chainLen, ringBase := p.2.ringBase, ringPages := p.2.ringPages
               next := 0, fetched := 0, window := [], held := none, wake := none, collSeq := 0, wrote := [] })).opWait (.bead p.1) cl 1) s

/-! ## Admission -/

/-- Defers a unit at a tick (R175, R176). -/
def State.defer (s : State) (uid : Nat) : State :=
  (((s.raiseUG uid St.frmDeferred ((s.unitSt uid).slip / 1000)).updUnit uid (fun x => { x with slip := 0 })).traceFrame 3 uid)

/-- Starts the batch that a unit holds: a replay (R67) or a held batch (R174), with slip 0. -/
def State.startKept (s : State) (uid : Nat) (r : Replay) (replay : Bool) : State :=
  let hd := if r.header.leaves.length = (s.set.cur.leaves uid).length then some r.header else s.header? uid (s.unitSt uid).slicePtr
  match hd with
  | none => s.raiseUG uid St.beadBadSlice
  | some h =>
    let clear := fun (s : State) => s.updUnit uid (fun x => { x with replay := none, heldBatch := none, slip := 0 })
    match r.batch with
    | none => (clear s).beginSlice uid h none replay
    | some b =>
      let b := { b with replay, heldOver := !replay, lanes := b.lanes.map (fun l => { l with replayed := replay || l.replayed }) }
      match s.stageBatch uid b with
      | .error st => s.raiseU uid st 0
      | .ok (s, b) => (clear s).beginSlice uid h (some b) replay

/-- Admits a service with its new batch (R165, R166, R169, R382). -/
def State.admitService (s : State) (uid : Nat) (v : ServiceRec) : State :=
  let ptr := (s.unitSt uid).slicePtr
  if ptr = 0 then s
  else
    match s.header? uid ptr with
    | none => s.raiseUG uid St.beadBadSlice
    | some h =>
      let go := fun (s : State) (b : Option Batch) =>
        let s := s.beginSlice uid h b false
        if (s.unitSt uid).slip = 0 then s.preWarm uid else s
      if !v.sessions then go s none
      else
        let s := s.missDeadlines v.svc (s.earliest uid h.bound)
        let lb := s.laneBytes v
        let lanes := ((s.candidates v).take (min s.set.cur.frame.batchLimit (2 ^ 28 / lb))).map s.laneFor
        match s.stageBatch uid { svc := v.svc, frame := s.frm.count, lanes, laneBytes := lb } with
        | .error st => s.raiseU uid st 0
        | .ok (s, b) =>
          go (lanes.foldl (fun s l => s.updSes l.index (fun e => { e with inBatch := true, queue := e.queue.drop 1 })) s) (some b)

/-- The service that a unit serves: the lowest SVC_ID bound to it (R117). -/
def Setting.svcOf (t : Setting) (uid : Nat) : Option ServiceRec :=
  (t.services.filter (fun v => t.svcUnit v == uid)).foldl (fun b v =>
    match b with
    | none => some v
    | some w => if v.svc < w.svc then some v else b) none

/-- Are the unit that a replay depends on and its leaves ready (R613)? -/
def State.depReady (s : State) (r : Replay) : Bool :=
  match r.dependsOn with
  | none => true
  | some d => let x := s.unitSt (s.set.cur.top d); x.failed.isEmpty && !x.down

/-- An S1-compatible unit at a tick (R62, R378): the oldest submission starts. -/
def State.tickS1 (s : State) (uid : Nat) : State :=
  match (s.unitSt uid).s1Queue with
  | [] => s
  | ua :: rest =>
    match s.header? uid ua with
    | none => s.raiseUG uid St.beadBadSlice
    | some h => ((s.updUnit uid (fun x => { x with s1Queue := rest })).beginSlice uid h none false).preWarm uid

/-- One unit at a tick, before any start: `held` are the top-level units that a load withholds (R168). -/
def State.tickUnit (s : State) (withheld : List Nat) (uid : Nat) : State :=
  let t := s.set.cur
  let x := s.unitSt uid
  let top := t.top uid
  let tx := s.unitSt top
  match t.svcOf uid with
  | none => s
  | some v =>
    if (t.fedOf uid).any (fun f => f.rank != 0) then s
    else if x.slice.isSome then
      if t.s1 uid then s else (s.updSlice uid (fun sl => { sl with overTick := true })).defer uid
    else if tx.down then
      if t.s1 uid then s else s.missDeadlines v.svc (s.earliest uid (((s.header? uid x.slicePtr).map (·.bound)).getD 0))
    else if s.testSkips top then s.raiseU top St.rasStSkip
    else if s.pwr.curState = 2 ∨ tx.failed ≠ [] then s
    else if t.s1 uid then (if withheld.contains top then s else s.tickS1 uid)
    else if (t.fedOf uid).any (fun f => !(s.fed f.fedUid).formed) then s
    else
      match x.replay, x.heldBatch with
      | some r, _ => if s.depReady r then s.startKept uid r true else s
      | none, some r => s.startKept uid r false
      | none, none =>
        if withheld.contains top then s
        else if t.frame.slipPct * t.frame.tf < x.slip * 100 then s.defer uid
        else s.admitService uid v

/-- Step 4: the per-frame clasps whose owner runs no slice (R475). -/
def State.resetPerFrame (s : State) : State :=
  s.clasps.foldl (fun (s : State) (p : Nat × Clasp) =>
    match s.set.cur.clasp? p.1 with
    | some c => if c.perFrame && (s.runningOf (s.set.cur.top (s.set.cur.localOf c.owner))).isEmpty then s.opReset p.1 else s
    | none => s) s

/-! ## Guarantees when capacity falls (R445) -/

/-- The limit L' of a resource now, MB/s. -/
def State.limitNow (s : State) (resKind ix : Nat) : Nat :=
  if resKind = 0 then
    let gone := popBelow (mget s.mem.retired ix 0) 64
    let ref := if s.mem.refresh2x.contains ix then 88 else 94
    let h := s.set.cur.frame.scrubHours * 3600000000
    (2048000 * (64 - gone) * ref * h - stackBytes * 6400) / (6400 * h) * 85 / 100
  else
    let lost := ((List.range 32).filter (fun k => (mget s.fil.subs (ix * 64 + k * 2 + (resKind - 1)) {}).lost)).length
    3840000 * (32 - lost) / 32 * 85 / 100

/-- Raises `GUARANTEE_SHORT` for every resource whose guarantees exceed its limit. -/
def State.guarShort (s : State) : State :=
  let gs := s.set.cur.guars
  ((gs.map (fun g => (g.resKind, g.index))).eraseDups).foldl (fun s r =>
    let mine := gs.filter (fun g => g.resKind == r.1 && g.index == r.2)
    if s.limitNow r.1 r.2 < (mine.map (·.rate)).foldl (· + ·) 0 then
      let arg := if r.1 = 0 then r.2 * stackWindow else 0
      (mine.foldl (fun s g => s.raiseU g.uid St.guaranteeShort arg) s).raiseG St.guaranteeShort arg
    else s) s

/-! ## The tick (R153 to R162) -/

/-- Has the source been lost (R161)? -/
def State.sourceLost (s : State) : Bool :=
  match s.set.cur.frame.source with
  | 1 => !s.net.ptp.locked
  | 2 => decide (4 ≤ s.frm.sinceEdge)
  | _ => false

/-- The error of a tick against IEEE 1588 time, ns: the nearest whole multiple of T_F less the tick (Table 4-1). -/
def ptpError (tfNs : Nat) (time : Int) : Int :=
  let m := time % (tfNs : Int)
  if 2 * m ≤ (tfNs : Int) then -m else (tfNs : Int) - m

/-- Does the tick that now opens a frame find the source lost: the ticks before it, for SOURCE 2 (R161)? -/
def State.lostAtTick (s : State) : Bool :=
  match s.set.cur.frame.source with
  | 2 => decide (5 ≤ s.frm.sinceEdge)
  | _ => s.sourceLost

/-- Fixes the length of the frame that a tick opens (R159, R162). -/
def State.fixLength (s : State) : State :=
  let f := s.set.cur.frame
  let r : Int := match f.source with
    | 0 => 0
    | 1 => if s.net.ptp.locked then ptpError (f.tfQ * 250) ((s.frm.tickAt / 1000 : Nat) + s.net.ptp.clockAdj) else s.frm.resid
    | _ => s.frm.resid
  let cmax : Int := f.tfQ * 250 / 8
  let hold := s.frm.holdover || s.lostAtTick
  let clamped := !hold && decide (r ≠ clampInt (-cmax) cmax r)
  let c10 : Int := if hold then 0 else (clampInt (-cmax) cmax r).tdiv 10
  let fresh := clamped && !s.frm.slewing
  let s := { s with frm := { s.frm with r, resid := r - 10 * c10, slewing := clamped, len := ((25 * f.tfQ : Nat) + c10).toNat } }
  if fresh then s.raiseG St.frmSlew else s

/-- Counters are copied to their snapshots (R628). -/
def State.snapshot (s : State) : State :=
  { s with
    beads := s.beads.map (fun (p : Nat × Bead) => (p.1, { p.2 with perfSnap := p.2.perf, debug := p.2.debugReq }))
    claspSnap := s.clasps.map (fun (p : Nat × Clasp) => (p.1, p.2.counter + if p.2.err then 2 ^ 32 else 0))
    mem := { s.mem with meterSnap := s.mem.meter } }

/-- The units that run slices, in ascending UID. -/
def Setting.runners (t : Setting) : List Nat := ((t.units.filter (fun r => t.runs r.uid)).map (·.uid)).foldl (fun l u => sIns u l) []

/-- The next frame's number, its moment, and the edges matched to it. -/
def State.openFrame (s : State) (t : Nat) : State :=
  { s with frm := { s.frm with
      count := if s.frm.ticked then s.frm.count + 1 else 0, ticked := true, tickAt := t
      sinceEdge := if s.frm.edgeOfNext then 0 else s.frm.sinceEdge + 1, edgeOfTick := s.frm.edgeOfNext, edgeOfNext := false } }

/-- A tick: frame k opens, and steps 1 to 5 of Table 1-2 run up to the starts. -/
def State.tick (s : State) (t : Nat) : State :=
  let withheld := (s.at t).affected
  let s := (((s.at t).openFrame t).traceFrame 0 0xFFFF).snapshot
  let s := s.tickLoad
  let s := s.fixLength
  let s := if s.set.cur.frame.fsyncOutEn then { s.emit (.pulse 0 t) with frm := { s.frm with fsyncOut := t } } else s
  let s := s.pwrTick.guarShort.rasTick.resetPerFrame
  s.set.cur.runners.foldl (fun s u => s.tickUnit withheld u) s

/-! ## Starts (R172, R174) -/

/-- The start falls inside the guard band and does not fit: the batch is held. -/
def State.guardHold (s : State) (uid : Nat) (sl : Slice) : State :=
  let s := sl.beads.foldl (fun s b => (s.withdrawBead b).updBead b (fun x => { x with phase := .idle })) s
  let s := sl.objs.foldl State.dropObj s
  (((s.updUnit uid (fun x =>
    { x with slice := none, slip := 0, heldBatch := some { header := sl.header, batch := sl.batch.map (fun b => { b with stage := 0 }) } })).raiseU
      uid St.frmGuardHold)).traceFrame 2 uid

/-- Signals a unit's start clasp at a moment (R172); rank 0 of a federation sends FED_START first (R539). -/
def State.signalStart (s : State) (uid t : Nat) (sl : Slice) : State :=
  let f := s.set.cur.fedOf uid
  let s := s.updSlice uid (fun x =>
    { x with phase := .running, startAt := t, sNom := t - (s.unitSt uid).slip, boundTime := s.boundPs sl.header.bound })
  let s := match f with
    | some f =>
      if f.rank = 0 then
        let e := ((s.fed f.fedUid).epoch + 1) % 2 ^ 32
        (s.tellFed f 0x0022 [f.fedUid, e, s.frm.count, if sl.replay then 1 else 0]).updFed f.fedUid (fun x =>
          { x with epoch := e, running := true, ready := [], firstBad := 0 })
      else s
    | none => s
  let s := { s with pwr := { s.pwr with preWarm := sDel uid s.pwr.preWarm } }
  s.opSignal (((s.set.cur.unit? uid).map (·.startClasp)).getD 0xFFFF) 1

/-- The start of a slice: held by the guard band, faulted for a BOUND of 0 (R170), or made. -/
def State.startSlice (s : State) (uid t : Nat) : State :=
  match (s.unitSt uid).slice with
  | none => s
  | some sl =>
    let f := s.set.cur.frame
    let closing := s.frm.tickAt + s.frm.len * 10000
    let s1 := s.set.cur.s1 uid
    if sl.phase ≠ .admitted then s
    else if !s1 && !sl.replay && decide (closing ≤ t + f.guardPct * f.tf / 100) && decide (closing < t + s.boundPs sl.header.bound) then
      s.guardHold uid sl
    else if !s1 && sl.header.bound == 0 then
      let s := (s.signalStart uid t sl).raiseU uid St.frmBadBound
      ((s.noteLoose uid St.frmBadBound).failSlice uid outFaulted).fedLocal uid St.frmBadBound
    else s.signalStart uid t sl

/-! ## The commands -/

/-- FRAME_TICK (R153). -/
def execFrameTick (t : Nat) (s : State) : Host.Outcome State Fault Refusal := s.unlessDown <| .next (s.tick t)

/-- SLICE_START (R172). -/
def execSliceStart (uid t : Nat) (s : State) : Host.Outcome State Fault Refusal := s.unlessDown <| .next ((s.at t).startSlice uid t)

/-- A rising edge of FSYNC_IN, sampled on the 10 ns grid (R158, R160). -/
def State.fsyncEdge (s : State) (t : Nat) : State :=
  if s.set.cur.frame.source ≠ 2 then s
  else
    let e := roundUp t 10000
    let next := s.frm.tickAt + s.frm.len * 10000
    let early := decide (e - s.frm.tickAt ≤ next - e)
    if (early && s.frm.edgeOfTick) || (!early && s.frm.edgeOfNext) then { s with frm := { s.frm with fsyncExtra := (s.frm.fsyncExtra + 1) % 2 ^ 64 } }
    else
      let was := s.frm.holdover
      let c : Int := 10 * (s.frm.len : Int) - (250 * s.set.cur.frame.tfQ : Nat)
      let s := { s with frm := { s.frm with
        holdover := false, sinceEdge := 0
        resid := if early then ((e : Int) - s.frm.tickAt) / 1000 - c else ((e : Int) - next) / 1000
        edgeOfTick := s.frm.edgeOfTick || early, edgeOfNext := s.frm.edgeOfNext || !early } }
      if was then s.raiseG St.frmSyncRestored else s

/-- FSYNC_IN_EDGE (R160). -/
def execFsyncInEdge (t : Nat) (s : State) : Host.Outcome State Fault Refusal := s.unlessDown <| .next ((s.at t).fsyncEdge t)

/-- FRM_SYNC_LOST (R161): holdover begins when the source is lost. -/
def execFrmSyncLost (s : State) : Host.Outcome State Fault Refusal := s.unlessDown <|
  .next (if s.sourceLost && !s.frm.holdover then ({ s with frm := { s.frm with holdover := true } }).raiseG St.frmSyncLost else s)

end Sys2Proof.Machine
end

