-- ==== Sys2Proof/Machine/Memory.lean ====
section
/-! DEFINITION. Memory (chapter 13): errors of HBM lines and SRAM granules, the scrubbers, retirement of pseudo-channels, the
system reserve, refresh, and the registers of the block pool manager. -/

namespace Sys2Proof.Machine

/-! ## Pages and owners -/

/-- The pool and page that hold a package address. -/
def State.pageAt (s : State) (pa : Nat) : Option (PoolRec × Nat) :=
  (s.set.cur.pools.find? (fun p => p.kind != 2 && decide (p.phys ≤ pa) && decide (pa < p.phys + p.len))).map
    (fun p => (p, p.first + (pa / 4096 - p.first) / p.step * p.step))

/-- The units told of an error in a line: the owner of its pool, and every unit whose REGION record maps it (R422). -/
def State.ownersAt (s : State) (pa : Nat) : List Nat :=
  let t := s.set.cur
  (((s.pageAt pa).map (·.1.owner)).toList ++
    (t.regions.filter (fun r => decide (r.phys ≤ pa) && decide (pa < r.phys + r.len))).map (fun r => t.top r.owner)).eraseDups

/-- Tells owners and the global queue of an error. -/
def State.tellOwners (s : State) (us : List Nat) (status arg src : Nat) : State :=
  (us.foldl (fun s u => s.raiseU u status arg 0 src) s).raiseG status arg src (us.headD 0xFFFF)

/-! ## Pseudo-channel retirement (R424, R425) -/

/-- Does a page of a pool hold granules on pseudo-channel `pc` of stack `k`? A 2 MiB page holds some on every one. -/
def onPc (p : PoolRec) (f k pc : Nat) : Bool :=
  decide (stackOf (f * 4096) = some k) && (p.kind == 1 || pcOf (f * 4096 % stackWindow) == pc)

/-- What retirement does to a page of a pool. -/
def State.holePage (s : State) (kind f : Nat) : State :=
  let s := if kind = 1 then s.setPage f { s.page f with holed := true } else s
  match (s.page f).state with
  | .free => s.retirePage f
  | .retired => s
  | _ => s.setPage f { s.page f with mark := true }

/-- What the retirement of pseudo-channel `pc` of stack `k` does to the pages of the pools. -/
def State.holePages (s : State) (k pc : Nat) : State :=
  s.set.cur.pools.foldl (fun s p =>
    if p.kind = 2 then s
    else ((List.range p.pages).map (fun i => p.first + i * p.step)).foldl (fun s f => if onPc p f k pc then s.holePage p.kind f else s) s) s

/-- The units with a region or a pool on a stack. -/
def Setting.unitsOn (t : Setting) (k : Nat) : List Nat :=
  (((t.pools.filter (fun p => p.kind != 2 && decide (stackOf p.phys = some k))).map (·.owner)) ++
    ((t.regions.filter (fun r => meetR r.phys r.len (k * stackWindow) stackWindow)).map (fun r => t.top r.owner))).eraseDups

/-- Pseudo-channel `pc` of stack `k` is retired. -/
def State.retirePc (s : State) (k pc : Nat) : State :=
  if bit (mget s.mem.retired k 0) pc then s
  else
    let s := { s with mem := { s.mem with retired := mput s.mem.retired k (mget s.mem.retired k 0 + 2 ^ pc) }
                      dev := { s.dev with memDegraded := true } }
    let s := s.holePages k pc
    let arg := k * stackWindow + pc * 4096
    let us := s.set.cur.unitsOn k
    let s := us.foldl (fun s u => s.raiseU u St.memPcRetired arg 0 (vaultAgent (k / 2)) true) s
    s.raiseG St.memPcRetired arg (vaultAgent (k / 2)) (us.headD 0xFFFF) true

/-! ## The system reserve (Table 13-3, R437) -/

/-- The page at entry `e` of the reverse map (R435). -/
def State.mapPage (s : State) (e : Nat) : Option Nat :=
  ((s.set.cur.pools.filter (fun p => p.kind != 2)).foldl (fun (r : Nat × Option Nat) p =>
    match r.2 with
    | some f => (0, some f)
    | none => if r.1 < p.pages then (0, some (p.first + r.1 * p.step)) else (r.1 - p.pages, none)) (e, none)).2

/-- Retires the pages named; the objects that hold them become stale. -/
def State.losePages (s : State) (fs : List Nat) : State :=
  let hs := (s.bpm.lists.filter (fun p => p.2.any fs.contains)).map (·.1)
  let s := hs.foldl (fun s h => s.setPage (hFrame h) { s.page (hFrame h) with head := false }) s
  (fs.foldl State.retirePage s).dropLists

/-- A ring without two records next to each other. -/
def ErrQueue.lose (q : ErrQueue) (k : Nat) : ErrQueue := { q with recs := mdel (mdel q.recs k) (k + 1) }

/-- The queue at an offset of the error-queue area loses the records of a line (R437, R618): the global queue in the first
1 MiB, then 32 KiB for each top-level unit in ascending UID order. -/
def State.loseRecords (s : State) (o : Nat) : State :=
  if o < 2 ^ 20 then { s with errGlobal := s.errGlobal.lose (o / 32) }
  else match s.set.cur.tops[(o - 2 ^ 20) / 32768]? with
    | some u => { s with errUnit := mupd s.errUnit u {} (fun q => q.lose ((o - 2 ^ 20) % 32768 / 32)) }
    | none => s

/-- An uncorrectable error in a line of the reserve (R437). -/
def State.reserveError (s : State) (pa : Nat) : State :=
  let o := (pa % stackWindow + 2 ^ 29 - stackBytes) / 64 * 64
  if pa / stackWindow = 7 then s.losePages ((span (o / 8) 8).filterMap s.mapPage)
  else if o < 2 ^ 28 then if (s.ses (o / 128)).state = .opened then s.closeSes (o / 128) St.sesClosed 0 else s
  else if o < 272 * 2 ^ 20 then s.loseRecords (o - 2 ^ 28)
  else
    let run := (o - 272 * 2 ^ 20) / 64
    s.losePages ((s.bpm.lists.filter (fun p =>
      let first := (s.page (hFrame p.1)).link / 16
      decide (first ≤ run) && decide (run < first + listRuns p.2.length))).flatMap (·.2))

/-! ## Errors of a line (R416, R420, R422) -/

/-- Notes the moment of an uncorrectable error; the 16th within 1 s retires the pseudo-channel (R424). -/
def State.noteUe (s : State) (pa : Nat) : State :=
  match stackOf pa with
  | none => s
  | some k =>
    let pc := pcOf (pa % stackWindow)
    let ts := ((s.now :: mget s.mem.ueTimes (k * 64 + pc) []).take 16).filter (fun t => decide (s.now < t + 10 ^ 12))
    let s := { s with mem := { s.mem with ue := mcount s.mem.ue k 1, ueTimes := mput s.mem.ueTimes (k * 64 + pc) ts } }
    if ts.length = 16 then s.retirePc k pc else s

/-- A correctable error: counted; every 4,096th of a stack is logged (R416). -/
def State.noteCe (s : State) (pa : Nat) : State :=
  match stackOf pa with
  | none => s
  | some k =>
    let s := { s with mem := { s.mem with ce := mcount s.mem.ce k 1 } }
    if mget s.mem.ce k 0 % 4096 = 0 then s.raiseG St.memCe pa (vaultAgent (k / 2)) else s

/-- The top-level unit whose traffic an agent carries: of a bead. -/
def State.agentUnit (s : State) (a : Nat) : Option Nat :=
  if a / 4096 < 8 ∧ a % 4096 < 20 then ((s.bead (a / 4096 * 20 + a % 4096)).pos).map s.set.cur.top else none

/-- What a read of a line meets: a correctable error is corrected, an uncorrectable one poisons the line and is logged
to the requester's unit, or to the global queue. A line that holds the poison code meets none. -/
def State.readMeets (s : State) (src pa : Nat) (e : MemErr) : State :=
  if s.mem.poisoned pa 1 then s
  else
    match e with
    | .none => s
    | .correctable => s.noteCe pa
    | .uncorrectable =>
      let a := pa / 64 * 64
      let s := s.memMark a 64
      let s := match s.agentUnit src with
        | some u => s.raiseU u St.memUe a 0 (vaultAgent (homeDie a))
        | none => s.raiseG St.memUe a (vaultAgent (homeDie a))
      let s := s.noteUe a
      if inReserve a then (s.reserveError a).raiseG St.memUe a (vaultAgent (homeDie a)) else s

/-- The page of a line with an uncorrectable error that the scrubber found (R422). -/
def State.scrubPage (s : State) (pa : Nat) : State :=
  match s.pageAt pa with
  | none => s
  | some (_, f) =>
    match (s.page f).state with
    | .free => s.retirePage f
    | .quarantine => s.setPage f { s.page f with mark := true }
    | _ => s

/-- The scrubber reads a line (R421, R422). -/
def State.scrub (s : State) (k line : Nat) (e : MemErr) : State :=
  let pa := k * stackWindow + line * 64
  let s := { s with mem := { s.mem with scrubBytes := mcount s.mem.scrubBytes k 64, selfRefresh := sDel k s.mem.selfRefresh } }
  if stackBytes ≤ line * 64 ∨ s.mem.poisoned pa 1 then s
  else
    match e with
    | .none => s
    | .correctable => s.noteCe pa
    | .uncorrectable =>
      let s := (s.memMark pa 64).tellOwners (s.ownersAt pa) St.memUeScrub pa (vaultAgent (k / 2))
      let s := (s.scrubPage pa).noteUe pa
      if inReserve pa then (s.reserveError pa).raiseG St.memUe pa (vaultAgent (k / 2)) else s

/-- SCRUB_LINE (R421). -/
def execScrubLine (stack line : Nat) (e : MemErr) (s : State) : Host.Outcome State Fault Refusal := s.unlessDown <|
  .next (if stack < 16 then s.scrub stack line e else s)

/-- One granule of a die's SRAM with an uncorrectable error (R422). -/
def State.sramBad (s : State) (die : Nat) (g : Nat × Nat) : State :=
  if g.1 < 20 then
    let b := die * 20 + g.1
    if 0x600000 ≤ g.2 then s
    else
      let s := s.updBead b (fun x => x.spMark (g.2 / 32 * 32) 32)
      s.tellOwners (((s.bead b).pos.map s.set.cur.top).toList) St.memUeScrub (0x20000000000 + b * 0x1000000 + g.2 / 32 * 32) (beadAgent b)
  else
    let pa := vaultBase + die * 2 ^ 32 + g.2 / 64 * 64
    if s.set.cur.vaultLen die ≤ g.2 then s
    else (s.memMark pa 64).tellOwners (s.ownersAt pa) St.memUeScrub pa (vaultAgent die)

/-- SRAM_SCRUB (R421). -/
def execSramScrub (die : Die) (bad : List (Nat × Nat)) (s : State) : Host.Outcome State Fault Refusal := s.unlessDown <|
  .next (bad.foldl (fun s g => s.sramBad die.val g) s)

/-- PC_RETIRE (R424). -/
def execPcRetire (stack : Fin 16) (pc : Fin 64) (s : State) : Host.Outcome State Fault Refusal := s.unlessDown <| .next (s.retirePc stack.val pc.val)

/-! ## Refresh (R415, R659) -/

/-- HBM_REFRESH_2X (R415): the stack's case has risen above 85 °C. -/
def execHbmRefresh2x (stack : Fin 16) (temp : Nat) (s : State) : Host.Outcome State Fault Refusal := s.unlessDown <|
  .next (if temp ≤ 85 then s
    else { s with mem := { s.mem with refresh2x := sIns stack.val s.mem.refresh2x, caseTemp := mput s.mem.caseTemp stack.val temp } })

/-- HBM_REFRESH_NORMAL (R415): it is at or below 85 °C again. -/
def execHbmRefreshNormal (stack : Fin 16) (temp : Nat) (s : State) : Host.Outcome State Fault Refusal := s.unlessDown <|
  .next (if 85 < temp then s
    else { s with mem := { s.mem with refresh2x := sDel stack.val s.mem.refresh2x, caseTemp := mput s.mem.caseTemp stack.val temp } })

/-- STACK_SELF_REFRESH (R659): in P2, after 100 µs without misses. -/
def execStackSelfRefresh (stack : Fin 16) (s : State) : Host.Outcome State Fault Refusal := s.unlessDown <|
  .next (if s.pwr.curState = 2 then { s with mem := { s.mem with selfRefresh := sIns stack.val s.mem.selfRefresh } } else s)

/-! ## The block pool's registers (R440, R441, R636) -/

/-- A result register after an allocation or a free. -/
def bpmDone (handle status : Nat) : BpmResult := { handle, status, done := true }

/-- Is a BPM_ALLOC word illegal (Table 20-9, R636)? -/
def bpmAllocBad (x : Nat) : Bool :=
  decide (1 < bits x 1 0) || bits x 48 32 == 0 || decide (65536 < bits x 48 32) || (bits x 1 0 == 1 && bits x 48 32 != 1)

/-- A write of BPM_ALLOC through a window, or through window A (`none`). -/
def State.bpmAllocReg (s : State) (w : Option Nat) (x : Nat) : State :=
  let busy := match w with
    | some w => (s.win w).allocRes.busy
    | none => s.bpm.allocRes.busy
  if busy || bpmAllocBad x then s.count cntDoorbell
  else
    let kind := bits x 1 0
    let owner := match w with
      | some w => s.set.cur.top ((s.set.cur.winUnit w).getD 0xFFFF)
      | none => bits x 31 16
    let r := s.allocate owner kind (bits x 48 32) (s.set.cur.poolsOf owner kind)
    match w with
    | some w => r.1.updWin w (fun y => { y with allocRes := bpmDone r.2.1 r.2.2 })
    | none => { r.1 with bpm := { r.1.bpm with allocRes := bpmDone r.2.1 r.2.2 } }

/-- A write of BPM_FREE through a window, or through window A (`none`). -/
def State.bpmFreeReg (s : State) (w : Option Nat) (x : Nat) : State :=
  let busy := match w with
    | some w => (s.win w).freeRes.busy
    | none => s.bpm.freeRes.busy
  if busy then s.count cntDoorbell
  else
    let r := s.freeObj (w.map (fun w => s.set.cur.top ((s.set.cur.winUnit w).getD 0xFFFF))) (x % 2 ^ 40)
    match w with
    | some w => r.1.updWin w (fun y => { y with freeRes := bpmDone 0 r.2 })
    | none => { r.1 with bpm := { r.1.bpm with freeRes := bpmDone 0 r.2 } }

/-- QUARANTINE_END (R439): at a tick, the quarantined pages of a pool whose slices have settled leave QUARANTINE. -/
def execQuarantineEnd (pool : Nat) (s : State) : Host.Outcome State Fault Refusal := s.unlessDown <|
  .next (match s.set.cur.pools[pool]? with
    | none => s
    | some p => (((s.usedIn p).map (·.1)).foldl State.endQuarantine s).dropLists)

end Sys2Proof.Machine
end

