-- ==== Sys2Proof/Machine/Inject.lean ====
section
/-! DEFINITION. Fault injection (R543 to R545): the registers of the FI records and the actions of Table 16-7. -/

namespace Sys2Proof.Machine

/-- One step of a record's register (R544). -/
def lfsrStep (x : Nat) : Nat := if x % 2 = 1 then (x / 2) ^^^ 0x80200003 else x / 2

/-- Does an action of a record use a further step of the register (R544)? -/
def FiRec.draws (r : FiRec) : Bool := r.action == 1 || r.action == 2 || (r.action == 3 && r.target == 0)

/-- A record meets an eligible segment or group: the value that chooses what the action touches, if it acts. -/
def FiState.meet (f : FiState) (r : FiRec) : FiState × Option Nat :=
  let x := lfsrStep f.lfsr
  if x % 2 ^ r.rateExp = 2 ^ r.rateExp - 1 ∧ (r.limit = 0 ∨ f.acted < r.limit) then
    let v := if r.draws then lfsrStep x else x
    ({ lfsr := v, acted := f.acted + 1 }, some v)
  else ({ f with lfsr := x }, none)

/-- The records of the setting with their ordinals. -/
def Setting.fiList (t : Setting) : List (Nat × FiRec) := (List.range t.fis.length).zip t.fis

/-- Every record that a predicate accepts meets the traffic; the actions taken, in record order, each counted (R545). -/
def State.inject (s : State) (ok : FiRec → Bool) : State × List (FiRec × Nat) :=
  s.set.cur.fiList.foldl (fun (a : State × List (FiRec × Nat)) p =>
    if !ok p.2 then a
    else
      let f := a.1.net.fi.getD p.1 { lfsr := p.1 + 1 }
      let m := f.meet p.2
      let s := { a.1 with net := { a.1.net with fi := a.1.net.fi.set p.1 m.1 } }
      match m.2 with
      | none => (s, a.2)
      | some v =>
        let k := min p.1 255
        (if p.2.target = 0 then { s with filFi := mcount s.filFi k 1 } else { s with netFi := mcount s.netFi k 1 }, a.2 ++ [(p.2, v)]))
    (s, [])

/-- Flips bit `i` of a byte list. -/
def flipBit (bs : List Byte) (i : Nat) : List Byte := bs.modify (i / 8) (fun b => b ^^^ BitVec.ofNat 8 (2 ^ (i % 8)))

end Sys2Proof.Machine
end

