-- ==== Sys2Proof/Machine/Federation.lean ====
section
/-! DEFINITION. Federated units (R535 to R541): formation, start, decision and dissolution; remote clasp operations
(R484, R523). -/

namespace Sys2Proof.Machine

/-- The FED record of a FED_UID. -/
def Setting.fed? (t : Setting) (fedUid : Nat) : Option FedRec := t.feds.find? (·.fedUid == fedUid)

/-! ## Formation (R535, R536) -/

/-- This package's own join. -/
def State.ownJoin (s : State) (f : FedRec) : FedJoin :=
  let t := s.set.cur
  let r := s.verRange 0x06
  { pkg := t.netPkg.pkgId, rank := f.rank, members := f.members, totalLeaves := f.totalLeaves
    leaves := (t.leaves f.localUid).length, tag := f.groupTag, verMin := r.1, verMax := r.2 }

/-- Joins in ascending rank. -/
def joinsByRank (js : List FedJoin) : List FedJoin := sortBy (fun a b => decide (a.rank < b.rank)) js

/-- Do the fields of the joins agree with the FED record (R535)? -/
def FedRec.agrees (f : FedRec) (pkg : Nat) (js : List FedJoin) : Bool :=
  js.all (fun j => j.tag == f.groupTag && j.members == f.members && j.totalLeaves == f.totalLeaves &&
    (if j.rank = f.rank then j.pkg == pkg else f.peers.contains (j.rank, j.pkg))) &&
  (joinsByRank js).map (·.rank) == List.range f.members &&
  (js.map (·.leaves)).foldl (· + ·) 0 == f.totalLeaves

/-- The highest federation version within every range, if there is one. -/
def FedRec.version (f : FedRec) (js : List FedJoin) : Option Nat :=
  let lo := (js.map (·.verMin)).foldl max f.verMin
  let hi := (js.map (·.verMax)).foldl min 0x0200FFFF
  if lo ≤ hi then some hi else none

/-- Rank offset of a FED rank: the leaves of the lower ranks (R356). -/
def offsetOf (js : List FedJoin) (rank : Nat) : Nat := ((js.filter (fun j => decide (j.rank < rank))).map (·.leaves)).foldl (· + ·) 0

/-- Rank 0 checks the joins once every member's is there. -/
def State.tryForm (s : State) (f : FedRec) : State :=
  let js := s.ownJoin f :: (s.fed f.fedUid).joins
  if js.length < f.members ∨ (s.fed f.fedUid).formed then s
  else if !f.agrees s.set.cur.netPkg.pkgId js then s.raiseUG f.localUid St.netFedMismatch f.fedUid
  else
    match f.version js with
    | none => s.raiseUG f.localUid St.netFedVersion f.fedUid
    | some v =>
      (f.peers.filter (·.1 != f.rank)).foldl (fun s p => s.tell p.2 0x0021 [f.fedUid, v, offsetOf js p.1])
        (s.updFed f.fedUid (fun x => { x with formed := true, version := v, offset := 0 }))

/-- A federation dissolves (R537): its running slice fails, unless its commit has been decided, and formation begins
again. -/
def State.dissolve (s : State) (f : FedRec) : State :=
  let s := s.raiseUG f.localUid St.netFedDissolved f.fedUid
  let s := s.updFed f.fedUid (fun x => { fedUid := f.fedUid, epoch := x.epoch })
  let s : State := match (s.unitSt f.localUid).slice with
    | some (sl : Slice) =>
      if sl.phase = SlicePhase.committing then s
      else (s.noteLoose f.localUid St.netFedDissolved).failSlice f.localUid outFaulted
    | none => s
  s.sendJoin f

/-- FED_JOIN (R535): a join that reaches a formed federation dissolves it, since its member has begun anew. -/
def State.fedJoin (s : State) (peer fedUid : Nat) (j : JoinBody) : State :=
  match s.set.cur.fed? fedUid with
  | none => s
  | some f =>
    if f.rank ≠ 0 ∨ !f.peers.any (·.2 == peer) then s
    else
      let s := if (s.fed fedUid).formed then s.dissolve f else s
      let jn : FedJoin := { pkg := peer, rank := j.rank, members := j.members, totalLeaves := j.totalLeaves, leaves := j.leaves
                            tag := j.tag, verMin := j.verMin, verMax := j.verMax }
      (s.updFed fedUid (fun x => { x with joins := x.joins.filter (·.pkg != peer) ++ [jn] })).tryForm f

/-- FED_FORMED reaches a member. -/
def State.fedFormed (s : State) (peer fedUid version offset : Nat) : State :=
  match s.set.cur.fed? fedUid with
  | none => s
  | some f =>
    if f.rank = 0 ∨ f.peerOf 0 ≠ peer then s
    else s.updFed fedUid (fun x => { x with formed := true, version, offset })

/-- FED_RETRY (R536): every 100 ms rank 0 tries the formation again, and a member sends its join again. -/
def State.fedRetry (s : State) (fedUid : Nat) : State :=
  match s.set.cur.fed? fedUid with
  | none => s
  | some f => if (s.fed fedUid).formed then s else if f.rank = 0 then s.tryForm f else s.sendJoin f

/-! ## Start (R539) -/

/-- A member's part starts: its header is read, and its start clasp is signalled. A part that cannot start reports so at
once. -/
def State.memberStart (s : State) (f : FedRec) (replay : Bool) : State :=
  let u := f.localUid
  let x := s.unitSt u
  let kept := x.replay.map (·.header)
  let hd := match kept with
    | some h => if h.leaves.length = (s.set.cur.leaves u).length then some h else s.header? u x.slicePtr
    | none => if x.slicePtr = 0 then none else s.header? u x.slicePtr
  match hd with
  | none => (s.raiseUG u St.beadBadSlice).fedLocal u St.beadBadSlice
  | some h =>
    if x.down || !x.failed.isEmpty then s.fedLocal u St.rasBeadFault
    else
      let s := (s.updUnit u (fun x => { x with replay := none, slip := 0 })).beginSlice u h none replay
      match (s.unitSt u).slice with
      | some sl => s.signalStart u s.now sl
      | none => s

/-- FED_START reaches a member. -/
def State.fedStart (s : State) (peer fedUid epoch : Nat) (replay : Bool) : State :=
  match s.set.cur.fed? fedUid with
  | none => s
  | some f =>
    if f.rank = 0 ∨ f.peerOf 0 ≠ peer ∨ !(s.fed fedUid).formed then s
    else if (s.unitSt f.localUid).slice.isSome then s.updFed fedUid (fun x => { x with startWaits := some (epoch, replay) })
    else (s.updFed fedUid (fun x => { x with epoch, startWaits := none })).memberStart f replay

/-- The start that waited for the local slice to settle. -/
def State.startWaiting (s : State) (f : FedRec) : State :=
  match (s.fed f.fedUid).startWaits with
  | some (e, r) =>
    if (s.unitSt f.localUid).slice.isSome then s
    else (s.updFed f.fedUid (fun x => { x with epoch := e, startWaits := none })).memberStart f r
  | none => s

/-! ## Decision (R540) -/

/-- FED_READY reaches rank 0. -/
def State.fedReady (s : State) (peer fedUid epoch status : Nat) : State :=
  match s.set.cur.fed? fedUid with
  | none => s
  | some f =>
    match f.peers.find? (·.2 == peer) with
    | some p => if f.rank = 0 ∧ (s.fed fedUid).epoch = epoch ∧ (s.fed fedUid).running then s.fedReport f p.1 status else s
    | none => s

/-- FED_COMMIT reaches a member, which commits its part. -/
def State.fedCommit (s : State) (peer fedUid epoch : Nat) : State :=
  match s.set.cur.fed? fedUid with
  | none => s
  | some f =>
    if f.rank = 0 ∨ f.peerOf 0 ≠ peer ∨ (s.fed fedUid).epoch ≠ epoch then s
    else match (s.unitSt f.localUid).slice with
      | some sl => if sl.phase = .waiting then (s.commitNow f.localUid).startWaiting f else s
      | none => s

/-- FED_ABORT reaches a member, which fails its part under R39. -/
def State.fedAbort (s : State) (peer fedUid epoch status : Nat) : State :=
  match s.set.cur.fed? fedUid with
  | none => s
  | some f =>
    if f.rank = 0 ∨ f.peerOf 0 ≠ peer ∨ (s.fed fedUid).epoch ≠ epoch then s
    else ((s.noteLoose f.localUid status).failSlice f.localUid outFaulted).startWaiting f

/-! ## Remote clasp operations (R484, R485, R523) -/

/-- CLASP_OP: an operation word of a remote package. -/
def State.remoteOp (s : State) (peer fedUid clasp op tag : Nat) : State :=
  let who := ClaspAgent.remote peer tag
  let o := bits op 18 16
  let v := bits op 63 32
  if clpWordBad op || !(s.fed fedUid).formed || !(s.set.cur.peerFeds peer).any (·.fedUid == fedUid) then s.refuseClasp who clasp
  else
    let full := s.mayClasp who clasp o && decide (4096 ≤ s.hostWaits (claspDie clasp))
    match o with
    | 0 => s.doSignal who clasp v
    | 1 => if full then { s with stalledOps := s.stalledOps ++ [(who, op / 65536 * 65536 + clasp)] } else s.doWait who clasp v
    | 2 => if full then { s with stalledOps := s.stalledOps ++ [(who, op / 65536 * 65536 + clasp)] } else s.doArrive who clasp v
    | 3 => s.doReset who clasp
    | _ => s.doFail who clasp

/-- CLASP_DONE completes an operation that this package sent: a bead's wait wakes. -/
def State.remoteDone (s : State) (peer tag status : Nat) : State :=
  match s.net.remoteOps.find? (fun o => o.tag == tag && o.peer == peer) with
  | none => s
  | some o =>
    let s := { s with net := { s.net with remoteOps := s.net.remoteOps.filter (· != o) } }
    match o.bead with
    | some b => s.updBead b (fun x => { x with wake := some (status != 0) })
    | none => s

/-! ## The commands -/

/-- CLASP_OP (R484). -/
def execClaspOp (peer fedUid clasp op tag _rank : Nat) (s : State) : Host.Outcome State Fault Refusal := s.unlessDown <|
  .next (s.remoteOp peer fedUid clasp op tag)

/-- CLASP_DONE (R523). -/
def execClaspDone (peer tag status _counter : Nat) (s : State) : Host.Outcome State Fault Refusal := s.unlessDown <| .next (s.remoteDone peer tag status)

/-- FED_JOIN (R535). -/
def execFedJoin (peer fedUid : Nat) (j : JoinBody) (s : State) : Host.Outcome State Fault Refusal := s.unlessDown <| .next (s.fedJoin peer fedUid j)

/-- FED_FORMED (R535). -/
def execFedFormed (peer fedUid version offset : Nat) (s : State) : Host.Outcome State Fault Refusal := s.unlessDown <|
  .next (s.fedFormed peer fedUid version offset)

/-- FED_RETRY (R536). -/
def execFedRetry (fedUid : Nat) (s : State) : Host.Outcome State Fault Refusal := s.unlessDown <| .next (s.fedRetry fedUid)

/-- FED_START (R539). -/
def execFedStart (peer fedUid epoch _count : Nat) (replay : Bool) (s : State) : Host.Outcome State Fault Refusal := s.unlessDown <|
  .next (s.fedStart peer fedUid epoch replay)

/-- FED_READY (R540). -/
def execFedReady (peer fedUid epoch status : Nat) (s : State) : Host.Outcome State Fault Refusal := s.unlessDown <| .next (s.fedReady peer fedUid epoch status)

/-- FED_COMMIT (R540). -/
def execFedCommit (peer fedUid epoch t : Nat) (s : State) : Host.Outcome State Fault Refusal := s.unlessDown <| .next ((s.at t).fedCommit peer fedUid epoch)

/-- FED_ABORT (R540). -/
def execFedAbort (peer fedUid epoch status : Nat) (s : State) : Host.Outcome State Fault Refusal := s.unlessDown <| .next (s.fedAbort peer fedUid epoch status)

end Sys2Proof.Machine
end

