-- ==== Sys2Proof/Machine/Network.lean ====
section
/-! DEFINITION. The receiving half of the Celner transport (chapter 16): frames, segments, acknowledgement, connections, paths and
congestion, and what a delivered message does. -/

namespace Sys2Proof.Machine

/-! ## Loss of a peer (R485, R516, R534, R537) -/

/-- The running slice of a federation fails because a member's package is lost: its open collectives wait for it. -/
def State.collsLost (s : State) (f : FedRec) : State :=
  match (s.unitSt f.localUid).slice with
  | none => s
  | some sl =>
    match s.colls.findIdx? (fun k => k.slice == sl.serial) with
    | some i => if sl.phase = .committing then s else s.failColl f.localUid i St.collPeerLost
    | none => s

/-- A peer is declared lost. -/
def State.losePeer (s : State) (p : Nat) : State :=
  match s.peer? p with
  | none => s
  | some _ =>
    let s := { s with net := { s.net with peers := mdel s.net.peers p } }.raiseG St.netPeerLost p
    let s := { s with clasps := s.clasps.map (fun (c : Nat × Clasp) => (c.1, { c.2 with waits := c.2.waits.filter (fun w =>
      match w.who with
      | .remote q _ => q != p
      | _ => true) })) }.resumeStalled
    let mine := s.net.remoteOps.filter (·.peer == p)
    let s := { s with net := { s.net with remoteOps := s.net.remoteOps.filter (·.peer != p) } }
    let s := mine.foldl (fun s o => match o.bead with
      | some b => s.updBead b (fun x => { x with wake := some true })
      | none => s) s
    let fs := s.set.cur.feds.filter (fun f => f.peers.any (fun q => q.2 == p && q.1 != f.rank))
    fs.foldl (fun s f => if (s.fed f.fedUid).formed then (s.collsLost f).dissolve f else s) s

/-! ## Resending (R516, R520, R521) -/

/-- Sends segment `psn` of a peer's virtual channel again. The peer is lost when it has been sent 8 times, or when no path
works. -/
def State.resend (s : State) (p v psn : Nat) : State :=
  match s.peer? p with
  | none => s
  | some x =>
    if s.peerPaths x = [] then s.losePeer p
    else
      match (x.vc v).sent.find? (·.seg.psn == psn), s.pickPath x with
      | some g, (some k, s) =>
        let s := s.updPeer p (fun x =>
          { x.updVc v (fun c => { c with sent := c.sent.map (fun h =>
              if h.seg.psn = psn then { seg := { h.seg with path := k }, sends := h.sends + 1, sentAt := s.now, rto := min 1000 (2 * h.rto) } else h) }) with
            resends := (x.resends + 1) % 2 ^ 64 })
        let s := { s with net := { s.net with pathResend := mcount s.net.pathResend k 1 } }.putSeg p k g.seg
        if 8 ≤ g.sends + 1 then s.losePeer p else s
      | _, _ => s

/-- Sends again every segment of a peer that went out on a path. -/
def State.resendPath (s : State) (p path : Nat) : State :=
  match s.peer? p with
  | none => s
  | some x =>
    (x.vcs.flatMap (fun c => (c.2.sent.filter (·.seg.path == path)).map (fun g => (c.1, g.seg.psn)))).foldl (fun s g => s.resend p g.1 g.2) s

/-- Is any segment of a peer outstanding? -/
def Peer.busy (x : Peer) : Bool := x.vcs.any (fun c => !c.2.sent.isEmpty || !c.2.backlog.isEmpty)

/-! ## Acknowledgements (R515) -/

/-- Does an acknowledgement cover a PSN? -/
def ackCovers (ackPsn sack psn : Nat) : Bool :=
  let d := ahead psn ackPsn
  decide (2 ^ 31 ≤ d) || (decide (1 ≤ d) && decide (d ≤ 64) && bit sack (d - 1))

/-- PSNs of the window that SACK marks beyond a PSN. -/
def sackBeyond (ackPsn sack psn : Nat) : Nat :=
  let d := ahead psn ackPsn
  popBelow (sack % 2 ^ 64 / 2 ^ d) 64

/-- What a segment acknowledges on its virtual channel; a segment passed by three later ones is sent again, once. -/
def State.acked (s : State) (path : Nat) (g : Segment) : State :=
  match s.peer? g.src with
  | none => s
  | some x =>
    let c := x.vc g.vc
    let fresh := decide (ahead g.ackPsn c.ackPsn < 2 ^ 31)
    let left := c.sent.filter (fun h => !ackCovers g.ackPsn g.sack h.seg.psn)
    let late := (left.filter (fun h => h.sends == 1 && decide (3 ≤ sackBeyond g.ackPsn g.sack h.seg.psn))).map (·.seg.psn)
    let s := s.updPeer g.src (fun x =>
      { x.updVc g.vc (fun c => { c with ackPsn := if fresh then g.ackPsn else c.ackPsn, sent := left }) with
        lastAckAt := s.now, lastBusyAt := s.now, ece := x.ece || g.ece
        eceMarks := if g.ece then (x.eceMarks + 1) % 2 ^ 64 else x.eceMarks })
    let s := if g.ece then { s with net := { s.net with pathEce := mcount s.net.pathEce path 1 } } else s
    (late.foldl (fun s n => s.resend g.src g.vc n) s).pumpPeer g.src

/-- Sends the acknowledgement that a virtual channel owes. -/
def State.sendAck (s : State) (p v : Nat) : State :=
  match s.peer? p with
  | none => s
  | some x =>
    match s.pickPath x with
    | (some k, s) => s.putSeg p k { type := 1, vc := v, src := s.set.cur.netPkg.pkgId, dst := p }
    | (none, _) => s

/-! ## Messages (R510, R517) -/

/-- A FED_JOIN body from its bytes. -/
def joinOf (m : List Byte) : JoinBody :=
  { rank := bfld m 4 2, members := bfld m 6 2, totalLeaves := bfld m 8 4, leaves := bfld m 12 2, tag := bfld m 14 8
    verMin := bfld m 22 4, verMax := bfld m 26 4 }

/-- One 32-byte message of VC0 (Table 16-4). -/
def State.vc0In (s : State) (p : Nat) (m : List Byte) : State :=
  let f := bfld m
  match f 0 2 with
  | 0x0001 => s.remoteOp p (f 2 2) (f 4 2) (f 6 8) (f 14 4)
  | 0x0002 => s.remoteDone p (f 2 4) (f 6 2)
  | 0x0010 => s.rxCollFail (f 2 2) (f 4 4) (f 8 2) (f 10 2)
  | 0x0020 => s.fedJoin p (f 2 2) (joinOf (m.drop 0))
  | 0x0021 => s.fedFormed p (f 2 2) (f 4 4) (f 8 4)
  | 0x0022 => s.fedStart p (f 2 2) (f 4 4) (f 16 1 != 0)
  | 0x0023 => s.fedReady p (f 2 2) (f 4 4) (f 8 2)
  | 0x0024 => s.fedCommit p (f 2 2) (f 4 4)
  | 0x0025 => s.fedAbort p (f 2 2) (f 4 4) (f 8 2)
  | _ => s

/-- A collective header from its bytes (Table 16-5). -/
def collHdrOf (m : List Byte) : CollHdr :=
  let f := bfld m
  { sig := f 0 8, group := f 8 2, srcRank := f 10 2, dstRank := f 12 2, seq := f 14 2, epoch := f 16 4, drow := f 20 4
    dorg2 := f 24 4, dcb := f 28 2, nrows := f 30 2, rowBytes := f 32 4, last := bit (f 36 1) 0, total := f 40 4 }

/-- A collective header as bytes. -/
def collHdrBytes (h : CollHdr) : List Byte :=
  leBytes 8 h.sig ++ leBytes 2 h.group ++ leBytes 2 h.srcRank ++ leBytes 2 h.dstRank ++ leBytes 2 h.seq ++ leBytes 4 h.epoch ++
    leBytes 4 h.drow ++ leBytes 4 h.dorg2 ++ leBytes 2 h.dcb ++ leBytes 2 h.nrows ++ leBytes 4 h.rowBytes ++
    leBytes 1 (if h.last then 1 else 0) ++ leBytes 3 0 ++ leBytes 4 h.total ++ leBytes 20 0

/-- A collective payload of another package; a full early buffer answers EARLY_NAK with the payload's header (R530), a
mismatch COLL_FAIL (R532). -/
def State.collIn (s : State) (p path : Nat) (m : List Byte) (pois : Nat) : State :=
  let h := collHdrOf m
  let rows := m.drop 64
  let r := s.rxColl h rows ((List.range (ceilDiv rows.length 64)).map (fun i => bit pois (i + 1)))
  match r.2 with
  | .early => r.1.putCtl p path 6 1 (collHdrBytes h)
  | .mismatch => r.1.tell p 0x0010 [h.group, h.epoch, h.seq, St.collMismatch]
  | _ => r.1

/-- A session message from its bytes (R487); a LEN that differs from the payload makes it a bad message. -/
def sesOf (m : List Byte) (pois : Nat) : SesMsg :=
  let hd := m.take 48
  let b := sesParse hd (m.drop 48)
  { b with rsv := b.rsv + (if bfld hd 0x14 4 = m.length - 48 then 0 else 1), pois }

/-- A whole message is delivered. -/
def State.message (s : State) (p path vc : Nat) (m : List Byte) (pois : Nat) : State :=
  match vc with
  | 0 => (List.range (m.length / 32)).foldl (fun s i => s.vc0In p ((m.drop (32 * i)).take 32)) s
  | 1 => if m.length < 64 then s else s.collIn p path m pois
  | _ => s.sesMessage (.peer p) (sesOf m pois) (path / 16) s.now

/-- Is a message complete: its pieces cover it from 0 to its end? -/
def RxMsg.complete (r : RxMsg) : Bool :=
  match r.total with
  | none => false
  | some n => decide ((r.pieces.map (fun q => q.2.1.length)).foldl (· + ·) 0 = n)

/-- The bytes and poison bits of a complete message. -/
def RxMsg.body (r : RxMsg) : List Byte × Nat :=
  let ps := sortBy (fun (a b : Nat × List Byte × Nat) => decide (a.1 < b.1)) r.pieces
  (ps.flatMap (·.2.1), (ps.map (fun q => q.2.2 * 2 ^ (q.1 / 64))).foldl (· ||| ·) 0)

/-- Delivers the complete messages of a virtual channel in MSG_ID order, with fuel. -/
def State.deliverF : Nat → State → Nat → Nat → Nat → State
  | 0, s, _, _, _ => s
  | n + 1, s, p, path, v =>
    match s.peer? p with
    | none => s
    | some x =>
      let c := x.vc v
      match c.rxMsgs.find? (fun r => r.id == c.rxNextMsg && r.complete) with
      | none => s
      | some r =>
        let s := s.updPeer p (fun x => x.updVc v (fun c =>
          { c with rxMsgs := c.rxMsgs.filter (·.id != r.id), rxNextMsg := (c.rxNextMsg + 1) % 2 ^ 32 }))
        (s.message p path v r.body.1 r.body.2).deliverF n p path v

/-- Places a segment's payload in its message. -/
def PeerVc.placePiece (c : PeerVc) (g : Segment) : PeerVc :=
  let r := (c.rxMsgs.find? (·.id == g.msgId)).getD { id := g.msgId }
  let r := { r with pieces := r.pieces ++ [(g.msgOff, g.payload, g.poisonMap)]
                    total := if g.last then some (g.msgOff + g.payload.length) else r.total }
  { c with rxMsgs := c.rxMsgs.filter (·.id != g.msgId) ++ [r] }

/-- Moves the next expected PSN past those received, with fuel. -/
def PeerVc.slideF : Nat → PeerVc → PeerVc
  | 0, c => c
  | n + 1, c => if c.rxAhead.contains c.rxPsn then PeerVc.slideF n { c with rxAhead := sDel c.rxPsn c.rxAhead, rxPsn := (c.rxPsn + 1) % 2 ^ 32 } else c

/-- A DATA segment (R510, R515). -/
def State.dataIn (s : State) (path : Nat) (g : Segment) : State :=
  match s.peer? g.src with
  | none => s
  | some x =>
    if !x.connected then s
    else
      let s := s.acked path g
      let c := x.vc g.vc
      let d := ahead g.psn c.rxPsn
      if 2 ^ 31 ≤ d ∨ c.rxAhead.contains g.psn then s.sendAck g.src g.vc
      else if 64 < d then s
      else
        let s := s.updPeer g.src (fun x =>
          { x.updVc g.vc (fun c => PeerVc.slideF 65 { c.placePiece g with rxAhead := g.psn :: c.rxAhead, unackedRx := c.unackedRx + 1 }) with
            lastBusyAt := s.now })
        let owed : Nat := ((s.peer? g.src).map (fun x => (x.vc g.vc).unackedRx)).getD 0
        let s := if g.ackNow || decide (8 ≤ owed) then s.sendAck g.src g.vc else s
        s.deliverF 65 g.src path g.vc

/-! ## Connections (R512 to R514) -/

/-- Features that a transport version allows: MERGE_CHAIN needs version 2. -/
def featOf (version f : Nat) : Nat := if version < 0x02000000 ∧ bit f 2 then f % 16 - 4 else f % 16

/-- A connection forms: the state of its virtual channels is new, and R starts at r_max ÷ 8. -/
def State.connect (s : State) (p : Nat) (h : HelloBody) (version : Nat) : State :=
  let old := s.peer? p
  let x : Peer := { pkg := p, connected := true, version, features := featOf version (h.features &&& 0xF), paths := h.paths
                    addr := if h.addrs.isEmpty then (old.map (·.addr)).getD [] else h.addrs
                    vcs := (old.map (fun y => if y.connected then [] else y.vcs)).getD [], lastAckAt := s.now, lastBusyAt := s.now }
  { s with net := { s.net with peers := mput s.net.peers p { x with rate := s.rateMax x / 8 } } }.pumpPeer p

/-- Answers BYE with a status. -/
def State.bye (s : State) (p path status : Nat) : State := s.putCtl p path 5 0 (leBytes 2 status)

/-- A HELLO (R512 to R514). -/
def State.helloIn (s : State) (path : Nat) (g : Segment) (h : HelloBody) : State :=
  let p := g.src
  let r := s.tRange
  let lo := max r.1 h.verMin
  let hi := min r.2 h.verMax
  let mine := (s.peer? p).any (fun x => x.helloSent && !x.connected)
  if mine && decide (s.set.cur.netPkg.pkgId < p) then s
  else if hi < lo then
    ({ s with net := { s.net with peers := s.net.peers.filter (fun q => q.1 != p || q.2.connected) } }).bye p path St.netVersion
  else if (s.peer? p).isNone ∧ s.set.cur.maxPeers ≤ s.net.peers.length then (s.raiseG St.netPeersFull p).bye p path St.netPeersFull
  else (s.connect p h hi).putCtl p path 3 0 (s.helloBytes hi)

/-- A HELLO_ACK completes this package's own HELLO. -/
def State.helloAckIn (s : State) (g : Segment) (h : HelloBody) : State :=
  match s.peer? g.src with
  | some x =>
    let hi := min s.tRange.2 h.verMax
    if x.helloSent && !x.connected && decide (max s.tRange.1 h.verMin ≤ hi) then s.connect g.src h hi else s
  | none => s

/-- A BYE: the connection is over. -/
def State.byeIn (s : State) (p : Nat) : State :=
  match s.peer? p with
  | none => s
  | some x =>
    if x.connected && x.busy then s.losePeer p
    else { s with net := { s.net with peers := mdel s.net.peers p } }

/-- An acknowledged probe of a suspect path; the fourth in a row restores it (R521). -/
def State.probeAcked (s : State) (p path : Nat) : State :=
  s.updPeer p (fun x => { x with suspects := x.suspects.filterMap (fun u =>
    if u.path ≠ path ∨ !u.probed then some u
    else if u.acks = 3 then none else some { u with acks := u.acks + 1, probed := false }) })

/-- May a peer be removed: nothing outstanding, no open session, no federation, no pending wait (R514)? -/
def State.peerIdle (s : State) (p : Nat) (x : Peer) : Bool :=
  !x.busy && !s.sessions.any (fun e => e.2.state != .free && e.2.client == .peer p) &&
    (s.set.cur.peerFeds p).isEmpty &&
    !s.clasps.any (fun c => c.2.waits.any (fun w => match w.who with
      | .remote q _ => q == p
      | _ => false))

/-! ## Frames (R502, R505, R509, R543) -/

/-- The receive buffer of a port after a change; XOFF above 1.5 MiB, XON below 1 MiB (R505). -/
def State.rxLevel (s : State) (path : Nat) (f : Nat → Nat) : State :=
  let n := f (s.port (path / 4)).rxBytes
  let s := s.updPort (path / 4) (fun x => { x with rxBytes := n })
  let off := (s.port (path / 4)).xoffSent
  if !off && decide (1572864 < n) then (s.updPort (path / 4) (fun x => { x with xoffSent := true })).emit (.pause path true)
  else if off && decide (n < 1048576) then (s.updPort (path / 4) (fun x => { x with xoffSent := false })).emit (.pause path false)
  else s

/-- Bytes that a segment takes of the receive buffer. -/
def segSize (g : Segment) : Nat := 48 + g.payload.length

/-- A segment that passed its checks waits for its protocol step; segments held behind it follow. -/
def State.accept (s : State) (path : Nat) (g : Segment) : State :=
  let behind := s.net.reorder.filter (fun h => h.src == g.src && h.vc == g.vc)
  let s := { s with net := { s.net with
    accepted := s.net.accepted ++ g :: behind, reorder := s.net.reorder.filter (fun h => !(h.src == g.src && h.vc == g.vc)) } }
  s.rxLevel path (· + segSize g)

/-- A frame arrives on a path. -/
def State.frameIn (s : State) (path : Nat) (fcsOk crcOk ce : Bool) (prio : Nat) (g : Segment) : State :=
  let t := s.set.cur
  if !s.pathUp path then s
  else if !fcsOk then s.updPort (path / 4) (fun x => { x with err := (x.err + 1) % 2 ^ 64 })
  else if prio ≠ t.netPkg.pfcPrio then s.updPort (path / 4) (fun x => { x with prioDrop := (x.prioDrop + 1) % 2 ^ 64 })
  else
    let r := s.inject (fun r => r.target == 1 && r.index == path / 4 && bit r.vcMask g.vc && !(g.payload.isEmpty && (r.action == 1 || r.action == 2)))
    let s := r.1
    let acts := r.2
    if acts.any (·.1.action == 0) then s
    else if !crcOk || acts.any (·.1.action == 1) || g.hver != 1 || decide (6 < g.type) then
      { s with net := { s.net with badSegment := (s.net.badSegment + 1) % 2 ^ 64 } }
    else
      let g := { g with payload := acts.foldl (fun b a => if a.1.action = 2 then flipBit b (a.2 % (8 * b.length)) else b) g.payload }
      let s := if ce && t.netPkg.encap != 0 then s.updPeer g.src (fun x => { x with ceSeen := true }) else s
      if acts.any (·.1.action == 3) then { s with net := { s.net with reorder := s.net.reorder ++ [g] } } else s.accept path g

/-- Takes a segment out of the receive buffer as its protocol step is done. -/
def State.takeSeg (s : State) (path : Nat) (g : Segment) : State :=
  if s.net.accepted.contains g then ({ s with net := { s.net with accepted := s.net.accepted.erase g } }).rxLevel path (· - segSize g) else s

/-- An acknowledgement of any kind from a peer. -/
def State.ackIn (s : State) (path : Nat) (g : Segment) : State := (s.probeAcked g.src path).acked path g

/-- PATHS of a PROBE whose payload has the layout of Table 16-3; it is acknowledged. -/
def State.probeIn (s : State) (path : Nat) (g : Segment) : State :=
  let s := if g.payload.length < 0x14 then s else s.updPeer g.src (fun x => { x with paths := bfld g.payload 0x10 4 })
  if (s.peer? g.src).isSome then s.putCtl g.src path 1 g.vc else s

/-- A payload that a peer's early buffer refused is sent again (R530). -/
def State.earlyNakIn (s : State) (g : Segment) : State :=
  let h := collHdrOf g.payload
  match s.out.find? (fun o => match o with
    | .coll k _ _ => k == h
    | _ => false) with
  | some o => s.emit o
  | none => s

/-! ## Paths (R505, R518 to R521) -/

/-- A path fails at this end (R520). -/
def State.pathDown (s : State) (path : Nat) : State :=
  if !s.pathUp path then s
  else
    let s := s.updPort (path / 4) (fun x => { x with up := sDel (path % 4) x.up, paused := sDel (path % 4) x.paused })
    let s := s.raiseG St.netPortDown (path * 2 ^ 32) schedAgent 0xFFFF true
    s.net.peers.foldl (fun (s : State) (q : Nat × Peer) =>
      let s := s.resendPath q.1 path
      match s.peer? q.1 with
      | some x => if x.connected && (s.peerPaths x).isEmpty then s.losePeer q.1 else s
      | none => s) s

/-- A path to one peer becomes suspect (R521, R522). -/
def State.suspect (s : State) (p path : Nat) : State :=
  match s.peer? p with
  | none => s
  | some x =>
    if x.suspects.any (·.path == path) then s
    else
      let s := (s.updPeer p (fun x => { x with suspects := x.suspects ++ [{ path }] })).raiseG St.netPathSuspect (p + path * 2 ^ 32)
      let s := s.resendPath p path
      match s.peer? p with
      | some x => if (s.peerPaths x).isEmpty then s.losePeer p else s
      | none => s

/-- A probe of a suspect path goes out; an unanswered one ends the run of acknowledged probes. -/
def State.probe (s : State) (p path : Nat) : State :=
  match s.peer? p with
  | none => s
  | some x =>
    match x.suspects.find? (·.path == path) with
    | none => s
    | some u =>
      (s.updPeer p (fun x => { x with suspects := x.suspects.map (fun v =>
        if v.path = path then { v with acks := if u.probed then 0 else v.acks, probed := true } else v) })).putCtl p path 4 0 (s.helloBytes 0)

/-- PFC on a path; without an ECN field an XOFF counts as ECE for the peers it carries (R505, R506). -/
def State.pfc (s : State) (path : Nat) (on : Bool) : State :=
  if on then
    let s := s.updPort (path / 4) (fun x => { x with paused := sIns (path % 4) x.paused })
    let s := { s with net := { s.net with pathPfc := mcount s.net.pathPfc path 1 } }
    if s.set.cur.netPkg.encap ≠ 0 then s
    else { s with net := { s.net with peers := s.net.peers.map (fun (q : Nat × Peer) =>
      (q.1, { q.2 with ece := q.2.ece || (s.peerPaths q.2).contains path })) } }
  else
    let s := s.updPort (path / 4) (fun x => { x with paused := sDel (path % 4) x.paused })
    s.net.peers.foldl (fun (s : State) q => s.pumpPeer q.1) s

/-- One interval of R518 for a peer. -/
def Peer.interval (x : Peer) (rmax : Nat) : Peer :=
  if x.ece then { x with ece := false, rate := max 1000 (x.rate - x.rate / 8) } else { x with rate := min rmax (x.rate + rmax / 64) }

/-- The retransmission timeout of a segment (R516). -/
def State.timeout (s : State) (p v psn : Nat) : State :=
  match s.peer? p with
  | none => s
  | some x =>
    match (x.vc v).sent.find? (·.seg.psn == psn) with
    | none => s
    | some g =>
      if x.lastAckAt + 2000000000 ≤ s.now then s.losePeer p
      else if g.sentAt + g.rto * 1000000 ≤ s.now then s.resend p v psn else s

/-! ## The commands -/

/-- ETH_FRAME_RX (R502). -/
def execEthFrameRx (path : Fin 32) (fcsOk crcOk ce : Bool) (prio : Nat) (g : Segment) (s : State) : Host.Outcome State Fault Refusal := s.unlessDown <|
  .next (s.frameIn path.val fcsOk crcOk ce prio g)

/-- PFC_PAUSE (R505). -/
def execPfcPause (path : Fin 32) (on : Bool) (s : State) : Host.Outcome State Fault Refusal := s.unlessDown <| .next (s.pfc path.val on)

/-- DATA (R510). -/
def execData (path : Fin 32) (g : Segment) (s : State) : Host.Outcome State Fault Refusal := s.unlessDown <|
  .next ((s.takeSeg path.val g).dataIn path.val g)

/-- ACK (R515). -/
def execAck (path : Fin 32) (g : Segment) (s : State) : Host.Outcome State Fault Refusal := s.unlessDown <|
  .next ((s.takeSeg path.val g).ackIn path.val g)

/-- HELLO (R512). -/
def execHello (path : Fin 32) (g : Segment) (h : HelloBody) (s : State) : Host.Outcome State Fault Refusal := s.unlessDown <|
  .next ((s.takeSeg path.val g).helloIn path.val g h)

/-- HELLO_ACK (R512). -/
def execHelloAck (path : Fin 32) (g : Segment) (h : HelloBody) (s : State) : Host.Outcome State Fault Refusal := s.unlessDown <|
  .next ((s.takeSeg path.val g).helloAckIn g h)

/-- PROBE (R521). -/
def execProbe (path : Fin 32) (g : Segment) (s : State) : Host.Outcome State Fault Refusal := s.unlessDown <|
  .next ((s.takeSeg path.val g).probeIn path.val g)

/-- BYE (R514). -/
def execBye (path : Fin 32) (g : Segment) (s : State) : Host.Outcome State Fault Refusal := s.unlessDown <| .next ((s.takeSeg path.val g).byeIn g.src)

/-- EARLY_NAK (R530). -/
def execEarlyNak (path : Fin 32) (g : Segment) (s : State) : Host.Outcome State Fault Refusal := s.unlessDown <|
  .next ((s.takeSeg path.val g).earlyNakIn g)

/-- ACK_TIMER (R515). -/
def execAckTimer (peer vc : Nat) (s : State) : Host.Outcome State Fault Refusal := s.unlessDown <|
  .next (if ((s.peer? peer).map (fun x => (x.vc vc).unackedRx)).getD 0 = 0 then s else s.sendAck peer vc)

/-- RETRANSMIT_TIMEOUT (R516). -/
def execRetransmitTimeout (peer vc psn t : Nat) (s : State) : Host.Outcome State Fault Refusal := s.unlessDown <| .next ((s.at t).timeout peer vc psn)

/-- CONGESTION_INTERVAL (R518). -/
def execCongestionInterval (t : Nat) (s : State) : Host.Outcome State Fault Refusal := s.unlessDown <|
  let s := s.at t
  .next { s with net := { s.net with peers := s.net.peers.map (fun (q : Nat × Peer) => (q.1, if q.2.connected then q.2.interval (s.rateMax q.2) else q.2)) } }

/-- NET_PORT_DOWN (R520). -/
def execNetPortDown (path : Fin 32) (s : State) : Host.Outcome State Fault Refusal := s.unlessDown <| .next (s.pathDown path.val)

/-- NET_PATH_SUSPECT (R521). -/
def execNetPathSuspect (peer : Nat) (path : Fin 32) (s : State) : Host.Outcome State Fault Refusal := s.unlessDown <| .next (s.suspect peer path.val)

/-- PROBE_TIMER (R521). -/
def execProbeTimer (peer : Nat) (path : Fin 32) (s : State) : Host.Outcome State Fault Refusal := s.unlessDown <| .next (s.probe peer path.val)

/-- PEER_IDLE_REMOVE (R514). -/
def execPeerIdleRemove (peer t : Nat) (s : State) : Host.Outcome State Fault Refusal := s.unlessDown <|
  let s := s.at t
  .next (match s.peer? peer with
    | none => s
    | some x =>
      if s.peerIdle peer x && decide (x.lastBusyAt + 10 ^ 13 ≤ s.now) then
        let s := match s.pickPath x with
          | (some k, s) => s.bye peer k 0
          | (none, _) => s
        { s with net := { s.net with peers := mdel s.net.peers peer } }
      else s)

/-- PCS_BLOCK_LOCK (R520): a path of an enabled port locks. -/
def execPcsBlockLock (path : Fin 32) (s : State) : Host.Outcome State Fault Refusal := s.unlessDown <|
  let n := path.val / 4
  .next (match s.set.cur.port? n with
    | none => s
    | some r =>
      if r.enabled && decide (path.val % 4 < subPorts r.mode) then
        let s := s.updPort n (fun x => { x with up := sIns (path.val % 4) x.up })
        s.net.peers.foldl (fun (s : State) q => s.pumpPeer q.1) s
      else s)

end Sys2Proof.Machine
end

