-- ==== Sys2Proof/Machine/Ptp.lean ====
section
/-! DEFINITION. The IEEE 1588 clock (R507, R508): the masters heard, the measured offset, lock and loss of lock. -/

namespace Sys2Proof.Machine

/-- Changes the 1588 clock. -/
def State.updPtp (s : State) (f : Ptp → Ptp) : State := { s with net := { s.net with ptp := f s.net.ptp } }

/-- The best master heard: the lowest announced priority, then the lowest identity. -/
def bestMaster (ms : SMap Nat) : Option Nat :=
  (ms.foldl (fun (b : Option (Nat × Nat)) m => match b with
    | none => some m
    | some c => if m.2 < c.2 then some m else b) none).map (·.1)

/-- Lock gained: `NET_PTP_LOCK` with the new state; under SOURCE 1 holdover ends (R161). -/
def State.ptpGain (s : State) : State :=
  let s := (s.updPtp (fun p => { p with locked := true, bad := 0 })).raiseG St.netPtpLock 1
  if s.set.cur.frame.source = 1 ∧ s.frm.holdover then
    ({ s with frm := { s.frm with holdover := false } }).raiseG St.frmSyncRestored
  else s

/-- Lock lost: under SOURCE 1 the device enters holdover (R161). -/
def State.ptpLose (s : State) : State :=
  let s := (s.updPtp (fun p => { p with locked := false, good := 0, bad := 0 })).raiseG St.netPtpLock 0
  if s.set.cur.frame.source = 1 ∧ !s.frm.holdover then
    ({ s with frm := { s.frm with holdover := true } }).raiseG St.frmSyncLost
  else s

/-- A Sync message of the chosen master, sent at `origin` and received at `rx` (ns). The servo then steers the clock: by how
much, the spec does not say, so the clock's place against the frame timebase is a free value. -/
def State.ptpSync (s : State) (master origin rx : Nat) : State :=
  if s.net.ptp.master ≠ some master then s
  else
    let diff : Int := (rx : Int) - origin
    let off := diff - s.net.ptp.delay
    let inside := decide (-50 ≤ off) && decide (off ≤ 50)
    let outside := decide (off < -500) || decide (500 < off)
    let (v, s) := s.fresh
    let s := s.updPtp (fun p =>
      { p with syncDiff := diff, offset := off, good := if inside then min 255 (p.good + 1) else 0
               bad := if outside then p.bad + 1 else 0, clockAdj := (v : Int) - 2 ^ 63 })
    if !s.net.ptp.locked && decide (16 ≤ s.net.ptp.good) then s.ptpGain
    else if s.net.ptp.locked && decide (4 ≤ s.net.ptp.bad) then s.ptpLose else s

/-- 1588 time at a moment, ns. -/
def State.ptpTime (s : State) (t : Nat) : Nat := ((((t / 1000 : Nat) : Int) + s.net.ptp.clockAdj) % 2 ^ 64).toNat

/-! ## The commands -/

/-- PTP_SYNC (R508). -/
def execPtpSync (master origin rx : Nat) (s : State) : Host.Outcome State Fault Refusal := s.unlessDown <| .next (s.ptpSync master origin rx)

/-- PTP_DELAY_RESP (R507): the delay request sent at `reqTx` reached the master at `respRx`. -/
def execPtpDelayResp (master reqTx respRx : Nat) (s : State) : Host.Outcome State Fault Refusal := s.unlessDown <|
  .next (if s.net.ptp.master ≠ some master then s
    else s.updPtp (fun p => { p with delay := (p.syncDiff + ((respRx : Int) - reqTx)) / 2 }))

/-- PTP_ANNOUNCE (R507): a master is heard, and the best one is chosen. -/
def execPtpAnnounce (master prio t : Nat) (s : State) : Host.Outcome State Fault Refusal := s.unlessDown <|
  .next ((s.at t).updPtp (fun p => let ms := mput p.masters master prio; { p with masters := ms, master := bestMaster ms }))

/-- PTP_ANNOUNCE_TIMEOUT (R508): no Announce for 3 announce intervals. -/
def execPtpAnnounceTimeout (s : State) : Host.Outcome State Fault Refusal := s.unlessDown <|
  let s := s.updPtp (fun p => { p with masters := [], master := none })
  .next (if s.net.ptp.locked then s.ptpLose else s)

/-- PPS_IN_EDGE (R508). -/
def execPpsInEdge (t : Nat) (s : State) : Host.Outcome State Fault Refusal := s.unlessDown <|
  .next ((s.at t).updPtp (fun p => { p with ppsTs := (s.at t).ptpTime t }))

end Sys2Proof.Machine
end

