-- ==== Sys2Proof/Machine/Fabric.lean ====
section
/-! DEFINITION. The Filigree (chapter 14): transfers at their targets, responses, groups of a sub-channel with their checks
and replays, and spared lanes. -/

namespace Sys2Proof.Machine

/-! ## Transfers (R449, R461 to R463) -/

/-- Die of an agent. -/
def agentDie (a : Nat) : Nat := a / 4096

/-- A transfer has arrived: it is no longer on its way. -/
def State.arrive (s : State) (x : Xfer) : State := { s with fil := { s.fil with inFlight := s.fil.inFlight.erase x } }

/-- Puts a response on its way. -/
def State.respond (s : State) (x : Xfer) : State := { s with fil := { s.fil with inFlight := s.fil.inFlight ++ [x] } }

/-- A transfer between dies holds a tag of its source die until its response comes (R463). -/
def State.takeTag (s : State) (x : Xfer) : State :=
  if agentDie x.src = agentDie x.dst then s
  else { s with fil := { s.fil with outstanding := s.fil.outstanding ++ [{ src := x.src, tag := x.tag, op := x.op, lines := x.addr % 8 + 1 }] } }

/-- The tag returns. -/
def State.giveTag (s : State) (agent tag : Nat) : State :=
  { s with fil := { s.fil with outstanding := s.fil.outstanding.filter (fun o => !(o.src == agent && o.tag == tag)) } }

/-- The WR_ACK of a transfer, with a status in ADDR. -/
def ackOf (x : Xfer) (status : Nat) : Xfer :=
  { op := .wrAck, vc := x.vc, cls := x.cls, len := 0, src := x.dst, dst := x.src, tag := x.tag, addr := status }

/-- A discarded transfer with an ABANDON flit: no response, and its tag is back already (R461). -/
def State.abandon (s : State) (x : Xfer) : State :=
  { s with fil := { s.fil with abandonCnt := mcount s.fil.abandonCnt (agentDie x.dst) 1 } }.giveTag x.src x.tag

/-- A transfer to an agent under reset: consumed at its port; a write or DELIVER gets its WR_ACK (R462). -/
def State.toReset (s : State) (x : Xfer) (ack : Bool) : State := if ack then s.respond (ackOf x St.filDestReset) else s

/-- Is an agent under reset? -/
def State.inReset (s : State) (a : Nat) : Bool := s.fil.underReset.contains a

/-- The lines of a read. -/
def rdLines (x : Xfer) : List Nat := (span 0 (x.addr % 8 + 1)).map (fun i => x.addr / 64 * 64 + 64 * i)

/-- RD at its target: the lines are read, errors included, and RD_DATA is on its way (R416, R449). -/
def State.rdAt (s : State) (x : Xfer) (e : MemErr) : State :=
  let s := s.arrive x
  if s.inReset x.dst then s.toReset x false
  else
    let ls := rdLines x
    if !ls.all (fun a => populated s.set.cur a) then s
    else
      let s := s.takeTag x
      let s := s.readMeets x.src (ls.headD 0) e
      let bs := ls.flatMap (fun a => s.mem.readP a 64)
      s.respond { op := .rdData, vc := x.vc, cls := x.cls, len := ls.length, src := x.dst, dst := x.src, tag := x.tag
                  addr := x.addr / 64 * 64, data := bs.map (·.1), poison := ls.map (fun a => s.mem.poisoned a 64) }

/-- Bytes with the poison tags of their flits. -/
def xferBytes (x : Xfer) : List PByte :=
  ((List.range x.data.length).zip x.data).map (fun p => (p.2, x.poison.getD (p.1 / 64) false))

/-- Does a write cover every 64-byte line it touches whole? -/
def wholeLines (a n : Nat) : Bool := a % 64 == 0 && n % 64 == 0

/-- The lines of `n` bytes from `a` that a write covers in part. -/
def partLines (a n : Nat) : List Nat := (granules 64 a n).filter (fun g => decide (g * 64 < a) || decide (a + n < g * 64 + 64))

/-- Writes bytes at the home vault: a line covered in part is read first (R420). -/
def State.vaultWrite (s : State) (src a : Nat) (bs : List PByte) (e : MemErr) : State :=
  let s := match partLines a bs.length with
    | [] => s
    | g :: _ => s.readMeets src (g * 64) e
  let s := s.memWrite a (bs.map (·.1))
  ((List.range bs.length).zip bs).foldl (fun s p => if p.2.2 then s.memMark (a + p.1) 1 else s) s

/-- WR at its target: committed at its LAST flit (R449, R461). -/
def State.wrAt (s : State) (x : Xfer) (e : MemErr) : State :=
  let s := s.arrive x
  if x.abandon then s.abandon x
  else if s.inReset x.dst then (s.takeTag x).toReset x true
  else if !(granules 64 x.addr x.data.length).all (fun g => populated s.set.cur (g * 64)) then s
  else ((s.takeTag x).vaultWrite x.src x.addr (xferBytes x) e).respond (ackOf x 0)

/-- ADD at the home vault (R288): each element is added in the destination's format; another format leaves undefined
data. -/
def State.addAt (s : State) (x : Xfer) (e : MemErr) (fmt : Nat) : State :=
  let s := s.arrive x
  let n := x.data.length
  if x.abandon then s.abandon x
  else if s.inReset x.dst then (s.takeTag x).toReset x true
  else if !(granules 64 x.addr n).all (fun g => populated s.set.cur (g * 64)) then s
  else
    let s := (s.takeTag x).readMeets x.src x.addr e
    match ElemFmt.ofCode fmt with
    | some f =>
      if f = .fp32 ∨ f = .bf16 ∨ f = .fp16 ∨ f = .int32 then
        let w := f.width
        let old := unpack w (n * 8 / w) (s.mem.readP x.addr n)
        let add := unpack w (n * 8 / w) (xferBytes x)
        (s.vaultWrite x.src x.addr (packP w (List.zipWith (addElem f) old add)) .none).respond (ackOf x 0)
      else (s.memUndef x.addr n).respond (ackOf x 0)
    | none => (s.memUndef x.addr n).respond (ackOf x 0)

/-- RD_DATA reaches its requester, or is dropped at the port of one under reset: the tag returns (R461, R463). -/
def State.dataBack (s : State) (x : Xfer) : State := (s.arrive x).giveTag x.dst x.tag

/-- The bead of an agent. -/
def agentBead (a : Nat) : Option Nat := if a / 4096 < 8 ∧ a % 4096 < 20 then some (a / 4096 * 20 + a % 4096) else none

/-- A status faults the oldest command of a bead whose slice runs. -/
def State.faultSender (s : State) (a status : Nat) : State :=
  match agentBead a with
  | none => s
  | some b =>
    match s.ctx? b with
    | none => s
    | some c => s.failLeaf b c.rank (((s.bead b).window.head?.map (·.idx)).getD (s.bead b).next) c.uid ⟨status, 0, 0⟩

/-- WR_ACK reaches its requester: `FIL_DEST_RESET` faults the sending command, and `COLL_MISMATCH` fails the sender's collective
(R462, R532). -/
def State.ackBack (s : State) (x : Xfer) : State :=
  let s := s.dataBack x
  if s.inReset x.dst then s
  else if x.addr = St.filDestReset then s.faultSender x.dst x.addr
  else if x.addr = St.collMismatch then
    match (agentBead x.dst).bind s.sliceOf with
    | some (uid, sl) =>
      match s.colls.findIdx? (fun k => k.slice == sl.serial) with
      | some i => s.failColl uid i St.collMismatch
      | none => s
    | none => s
  else s

/-- DELIVER at its target (Table 14-3): the answer's status is what becomes of a collective payload. -/
def State.deliverAt (s : State) (x : Xfer) (d : Delivery) : State :=
  let s := s.arrive x
  if x.abandon then s.abandon x
  else if s.inReset x.dst then (s.takeTag x).toReset x true
  else
    let s := s.takeTag x
    match d with
    | .coll h rows poison =>
      let r := s.rxColl h rows poison
      r.1.respond (ackOf x (match r.2 with
        | .early => St.collEarly
        | .mismatch => St.collMismatch
        | _ => 0))
    | .merge uid mseq rank others => (s.rxMerge uid mseq rank others).respond (ackOf x 0)
    | .reduce uid seq rank others => (s.rxReduce uid seq rank others).respond (ackOf x 0)
    | .session hub m src => (s.sesMessage src m hub s.now).respond (ackOf x 0)
    | .pool _ _ _ _ => s.respond (ackOf x 0)

/-- BPM at a pool agent (R438 to R441): the answer goes back as a DELIVER on VC3. The requester's unit is that of a bead; a hub
agent acts for the owner that the request names. -/
def State.bpmAt (s : State) (x : Xfer) (q : BpmReq) : State :=
  let s := s.arrive x
  if s.inReset x.dst then s.toReset x false
  else
    let s := s.takeTag x
    let r : State × Nat × Nat :=
      if q.free then
        let f := s.freeObj (s.agentUnit x.src) q.handle
        (f.1, 0, f.2)
      else s.allocate q.owner q.kind q.pages (s.set.cur.poolsOf q.owner q.kind)
    r.1.respond { op := .deliver, vc := 3, cls := x.cls, len := 1, src := x.dst, dst := x.src, tag := x.tag, addr := 0
                  data := leBytes 8 (r.2.1 + r.2.2 * 2 ^ 40) }

/-! ## Groups (R448, R452) -/

/-- A direction of a sub-channel, and the other one. -/
def chKey (c : SubChId) : Nat := c.link.val * 64 + c.sub.val * 2 + c.dir.val
def chBack (c : SubChId) : Nat := c.link.val * 64 + c.sub.val * 2 + (1 - c.dir.val)

/-- A sub-channel direction. -/
def State.sub (s : State) (k : Nat) : SubCh := mget s.fil.subs k {}

/-- Changes a sub-channel direction. -/
def State.updSub (s : State) (k : Nat) (f : SubCh → SubCh) : State := { s with fil := { s.fil with subs := mupd s.fil.subs k {} f } }

/-- Two dies of a link in ascending number (Table 2-1). -/
def linkEnds (l : Nat) : Nat × Nat :=
  if l < 6 then (l / 3 * 4 + l % 3, l / 3 * 4 + l % 3 + 1)
  else if l < 10 then (l - 6, l - 2)
  else if l < 12 then ((l - 10) * 4, 8)
  else ((l - 12) * 4 + 3, 9)

/-- The die at the receiving end of a direction. -/
def rxDie (c : SubChId) : Nat := if c.dir.val = 0 then (linkEnds c.link.val).2 else (linkEnds c.link.val).1

/-- Is the OP of a header reserved? -/
def isReserved : FilOp → Bool
  | .reserved _ => true
  | _ => false

/-- Forwards the transfers of a good group; a transfer held by an injection follows the next one of another source on its VC. -/
def State.forward (s : State) (k die : Nat) (xs : List Xfer) : State :=
  xs.foldl (fun (s : State) (x : Xfer) =>
    if isReserved x.op then { s with fil := { s.fil with badHeader := mcount s.fil.badHeader die 1 } }
    else
      let behind := s.fil.reorder.filter (fun (h : Nat × Xfer) => h.1 == k && h.2.vc == x.vc && h.2.src != x.src)
      { s with fil := { s.fil with
          inFlight := s.fil.inFlight ++ x :: behind.map (·.2)
          reorder := s.fil.reorder.filter (fun h => !behind.contains h) } }) s

/-- Slots that a transfer takes. -/
def slotsOf (x : Xfer) : Nat := max 1 x.len

/-- Counts the slots of a group (FIL_SLOTS). -/
def State.countSlots (s : State) (c : SubChId) (xs : List Xfer) : State :=
  { s with fil := { s.fil with slots := xs.foldl (fun m x => mcount m (c.link.val * 8 + c.dir.val * 4 + x.vc) (slotsOf x)) s.fil.slots } }

/-- A replay of a sub-channel direction (R452): counted; more than one for a group is logged. -/
def State.replay (s : State) (link k : Nat) : State :=
  let s := s.updSub k (fun y => { y with replays := y.replays + 1 })
  let s := { s with fil := { s.fil with replayCnt := mcount s.fil.replayCnt link 1 } }
  if (s.sub k).replays < 2 then s
  else s.raiseG St.filReplay (link + (k % 64 / 2) * 2 ^ 8 + (mget s.fil.replayCnt link 0 % 2 ^ 32) * 2 ^ 32) (agent (linkEnds link).1 0x40)

/-- ACK and NAK of a good trailer act on the sender of the other direction. -/
def State.trailer (s : State) (c : SubChId) (ack : Nat) (nak : Bool) : State :=
  let k := chBack c
  let y := s.sub k
  let left := y.unacked.filter (fun g => decide (0 < (g.1 + 256 - ack) % 256 ∧ (g.1 + 256 - ack) % 256 ≤ 32))
  let s := if left.length = y.unacked.length then s else s.updSub k (fun y => { y with unacked := left, replays := 0 })
  if nak && !left.isEmpty then s.replay c.link.val k else s

/-- Flips the injected bit of a data flit (CORRUPT_AFTER, R544). -/
def damage (mask v : Nat) (xs : List Xfer) : List Xfer :=
  let n := fun (x : Xfer) => if bit mask x.vc then x.data.length / 64 else 0
  let d := (xs.map n).foldl (· + ·) 0
  (xs.foldl (fun (a : List Xfer × Nat) x =>
    let m := n x
    if a.2 < m then (a.1 ++ [{ x with data := flipBit x.data (a.2 * 512 + v % 512) }], 2 ^ 62)
    else (a.1 ++ [x], if 2 ^ 61 ≤ a.2 then a.2 else a.2 - m)) ([], v / 512 % max 1 d)).1

/-- A group arrives on a sub-channel direction. -/
def State.groupIn (s : State) (c : SubChId) (gseq : Nat) (crcOk : Bool) (xs : List Xfer) (ack : Nat) (nak : Bool) : State :=
  let k := chKey c
  let y := s.sub k
  if y.lost then s
  else
    let s := s.countSlots c xs
    let s := if gseq = y.txSeq then s.updSub k (fun y => { y with txSeq := (y.txSeq + 1) % 256, unacked := y.unacked ++ [(gseq, xs)] }) else s
    let r := s.inject (fun r => r.target == 0 && r.index == c.link.val && xs.any (fun x => bit r.vcMask x.vc) &&
      (r.action != 2 || xs.any (fun x => bit r.vcMask x.vc && decide (64 ≤ x.data.length))))
    let s := r.1
    let acts := r.2
    if acts.any (·.1.action == 0) then s
    else if !crcOk || acts.any (·.1.action == 1) then
      if gseq = y.rxSeq then s.updSub k (fun y => { y with nak := true, fails := y.fails + 1 }) else s.updSub k (fun y => { y with nak := true })
    else
      let s := s.trailer c ack nak
      if gseq ≠ y.rxSeq then s
      else
        let xs := acts.foldl (fun xs a => if a.1.action = 2 then damage a.1.vcMask a.2 xs else xs) xs
        let s := s.updSub k (fun y => { y with rxSeq := (y.rxSeq + 1) % 256, nak := false, fails := 0 })
        match (acts.find? (·.1.action == 3)).bind (fun a => xs.find? (fun x => bit a.1.vcMask x.vc)) with
        | some h =>
          let s := s.forward k (rxDie c) ((xs.takeWhile (· != h)))
          ({ s with fil := { s.fil with reorder := s.fil.reorder ++ [(k, h)] } }).forward k (rxDie c) ((xs.dropWhile (· != h)).drop 1)
        | none => s.forward k (rxDie c) xs

/-! ## The commands -/

/-- RD (R449). -/
def execRd (x : Xfer) (e : MemErr) (s : State) : Host.Outcome State Fault Refusal := s.unlessDown <| .next (s.rdAt x e)

/-- WR (R449). -/
def execWr (x : Xfer) (e : MemErr) (s : State) : Host.Outcome State Fault Refusal := s.unlessDown <| .next (s.wrAt x e)

/-- ADD (R288). -/
def execAddX (x : Xfer) (e : MemErr) (fmt : Nat) (s : State) : Host.Outcome State Fault Refusal := s.unlessDown <| .next (s.addAt x e fmt)

/-- RD_DATA (R449). -/
def execRdData (x : Xfer) (s : State) : Host.Outcome State Fault Refusal := s.unlessDown <| .next (s.dataBack x)

/-- WR_ACK (R449). -/
def execWrAck (x : Xfer) (s : State) : Host.Outcome State Fault Refusal := s.unlessDown <| .next (s.ackBack x)

/-- FRAME (R157): the tick reaches a die; what the tick does is FRAME_TICK's. -/
def execFrame (x : Xfer) (s : State) : Host.Outcome State Fault Refusal := s.unlessDown <| .next (s.arrive x)

/-- DELIVER (R449). -/
def execDeliver (x : Xfer) (d : Delivery) (s : State) : Host.Outcome State Fault Refusal := s.unlessDown <| .next (s.deliverAt x d)

/-- COLL_EARLY_RESEND (R530): the payload that a full early buffer refused comes again. -/
def execCollEarlyResend (x : Xfer) (d : Delivery) (s : State) : Host.Outcome State Fault Refusal := s.unlessDown <| .next (s.deliverAt x d)

/-- BPM (R449). -/
def execBpm (x : Xfer) (req : BpmReq) (s : State) : Host.Outcome State Fault Refusal := s.unlessDown <| .next (s.bpmAt x req)

/-- FIL_GROUP_RX (R452). -/
def execFilGroupRx (ch : SubChId) (gseq : Nat) (crcOk : Bool) (xs : List Xfer) (ack : Nat) (nak : Bool) (s : State) :
    Host.Outcome State Fault Refusal := s.unlessDown <| .next (s.groupIn ch gseq crcOk xs ack nak)

/-- FIL_ACK_TIMEOUT (R452): no ACK has covered a group within 256 cycles. -/
def execFilAckTimeout (ch : SubChId) (s : State) : Host.Outcome State Fault Refusal := s.unlessDown <|
  .next (if (s.sub (chKey ch)).unacked.isEmpty || (s.sub (chKey ch)).lost then s else s.replay ch.link.val (chKey ch))

/-- FIL_LANE_SPARED (R453): the module's sub-channels take no new grants until the remap is done. -/
def execFilLaneSpared (link : Fin 14) (module lane : Nat) (s : State) : Host.Outcome State Fault Refusal := s.unlessDown <|
  let key := link.val * 16 + module % 16
  let n := mget s.fil.spared key 0
  .next (if 4 ≤ n then s
    else
      let s := { s with fil := { s.fil with spared := mput s.fil.spared key (n + 1) } }
      let s := (span 0 4).foldl (fun s i => s.updSub (link.val * 64 + (module % 16) * 4 + i) (fun y => { y with remap := true })) s
      s.raiseG St.filLaneSpared (link.val + (module % 16 * 2) * 2 ^ 8 + lane % 256 * 2 ^ 16 + (n + 1) * 2 ^ 32) (agent (linkEnds link.val).1 0x40))

/-- FIL_REMAP_DONE (R453): unacknowledged groups are replayed. -/
def execFilRemapDone (link : Fin 14) (module : Nat) (s : State) : Host.Outcome State Fault Refusal := s.unlessDown <|
  .next ((span 0 4).foldl (fun s i =>
    let k := link.val * 64 + (module % 16) * 4 + i
    let y := s.sub k
    if !y.remap then s
    else
      let s := s.updSub k (fun y => { y with remap := false })
      if y.unacked.isEmpty then s else s.replay link.val k) s)

end Sys2Proof.Machine
end

