-- ==== Sys2Proof/Machine/Functions.lean ====
section
/-! DEFINITION. Function resets (R549, R563, Table 17-4). -/

namespace Sys2Proof.Machine

/-- The user windows of a function. -/
def State.windowsOf (s : State) (f : Nat) : List Nat := (s.wins.filter (fun p => s.winFn p.1 == some f)).map (·.1)

/-- What a function reset does to one window: entries not consumed and waiting replies go, the completion ring's registers
are cleared, thresholds are disarmed, and replies to requests already consumed will be dropped. -/
def State.resetWindow (s : State) (w : Nat) : State :=
  let n := (s.win w).replies.length
  let s := s.updWin w (fun x =>
    { x with sqHead := 0, sqTail := 0, cqBase := 0, cqEntries := 0, cqHead := 0, cqTail := 0, cqVec := 0, cqMask := true
             msix := x.msix.map (fun (e : Nat × MsixEntry) => (e.1, { e.2 with arm := false })), replies := [], epoch := x.epoch + 1 })
  { s with errCnt := mcount s.errCnt cntReplyDropped n }

/-- Held and captured register halves of a function (R557). -/
def State.dropHalves (s : State) (f : Nat) : State :=
  { s with halves := s.halves.filter (fun h => match h.via with
      | .pf hub => decide (hub * 33 ≠ f)
      | .func g _ => decide (g ≠ f)
      | _ => true) }

/-- A function reset: each of its windows, and the negotiated ABI version. -/
def State.resetFunction (s : State) (f : Nat) : State :=
  ((((s.windowsOf f).foldl State.resetWindow s).dropHalves f).updFn f (fun x => { x with abi := 0, feat := 0 }))

/-- The PCIe state of a function after its reset: configuration space at its reset values. -/
def PcieFn.pcieReset (x : PcieFn) : PcieFn :=
  { x with busMaster := false, msixEnable := false, msixMask := false, unmasked := [], pendingVecs := [], winCLog := 0 }

/-- A reset of a function that PCIe makes (Function Level Reset, PERST_N). -/
def State.pcieReset (s : State) (f : Nat) : State := (s.resetFunction f).updFn f PcieFn.pcieReset

end Sys2Proof.Machine
end

