-- ==== Sys2Proof/Machine/Flash.lean ====
section
/-! DEFINITION. The flash and Hallmark (chapter 18): directory and parameter copies, component images, the flash writer,
firmware and parameter updates, measurement extends and the debug unlock (R582 to R601). -/

namespace Sys2Proof.Machine

/-! ## CRC-32C (R586) -/

/-- One bit of CRC-32C, reflected. -/
def crc32cBit (c : Nat) : Nat := if c % 2 = 1 then (c / 2) ^^^ 0x82F63B78 else c / 2

/-- One byte. -/
def crc32cByte (c : Nat) (b : Byte) : Nat := (List.range 8).foldl (fun c _ => crc32cBit c) (c ^^^ b.toNat)

/-- CRC-32C with the usual initial value and final inversion. -/
def crc32c (bs : List Byte) : Nat := (bs.foldl crc32cByte 0xFFFFFFFF) ^^^ 0xFFFFFFFF

/-! ## The directory (Table 18-2) -/

/-- A flash directory copy. -/
structure Dir where
  seq : Nat := 0
  active : Nat := 0
  trial : Bool := false
  attempts : Nat := 0
  confirm : Nat := 0
  deriving DecidableEq, Repr

/-- Directory copy `k`, when it is valid. -/
def dirAt (f : Bytes) (k : Nat) : Option Dir :=
  let b := f.readN (k * 0x1000) 20
  if bfld b 0 4 = 0x52494447 ∧ crc32c (b.take 16) = bfld b 16 4 then
    some { seq := bfld b 4 4, active := bfld b 8 1 % 2, trial := bfld b 9 1 == 1, attempts := bfld b 10 1, confirm := bfld b 11 1 }
  else none

/-- The copy that a reader takes: the valid one, or the one with the higher sequence number. -/
def takenCopy {α : Type} (seq : α → Nat) (a b : Option α) : Option (Nat × α) :=
  match a, b with
  | some x, some y => if seq x < seq y then some (1, y) else some (0, x)
  | some x, none => some (0, x)
  | none, some y => some (1, y)
  | none, none => none

/-- The directory copy taken, and its number. -/
def dirTaken (f : Bytes) : Option (Nat × Dir) := takenCopy Dir.seq (dirAt f 0) (dirAt f 1)

/-- Writes the directory copy that a reader would not take (R586). -/
def dirWrite (f : Bytes) (d : Dir) : Bytes :=
  let (k, seq) := match dirTaken f with
    | some (k, o) => (1 - k, (o.seq + 1) % 2 ^ 32)
    | none => (0, 1)
  let b := leBytes 4 0x52494447 ++ leBytes 4 seq ++ leBytes 1 d.active ++ leBytes 1 (if d.trial then 1 else 0) ++
    leBytes 1 d.attempts ++ leBytes 1 d.confirm ++ leBytes 4 0
  f.writeL (k * 0x1000) (b ++ leBytes 4 (crc32c b))

/-! ## The parameter area (Table 18-3) -/

/-- Parameter copy `k`, when it is valid. -/
def paramAt (f : Bytes) (k : Nat) : Option (List Byte) :=
  let b := f.readN (0x10000 * (k + 1)) 0x10000
  if bfld b 0 4 = 0x4D525050 ∧ crc32c (b.take 0x14 ++ b.drop 0x18) = bfld b 0x14 4 then some b else none

/-- The parameter copy taken, and its number. -/
def paramTaken (f : Bytes) : Option (Nat × List Byte) := takenCopy (fun b => bfld b 8 8) (paramAt f 0) (paramAt f 1)

/-- Replaces bytes of a list. -/
def setBytes (bs : List Byte) (off : Nat) (d : List Byte) : List Byte := bs.take off ++ d ++ bs.drop (off + d.length)

/-- Gives an area its MAGIC, FMT, sequence number and CRC. -/
def paramSeal (bs : List Byte) (seq : Nat) : List Byte :=
  let b := setBytes (setBytes bs 0 (leBytes 4 0x4D525050 ++ leBytes 2 1 ++ leBytes 2 0)) 8 (leBytes 8 seq)
  setBytes b 0x14 (leBytes 4 (crc32c (b.take 0x14 ++ b.drop 0x18)))

/-- A parameter write: the copy not taken, or both in turn; both as well when none is valid (R586, R588, R589). -/
def paramWrite (f : Bytes) (edit : List Byte → List Byte) (both : Bool) : Bytes :=
  match paramTaken f with
  | some (k, bs) =>
    let n := edit bs
    let seq := bfld bs 8 8
    let f := f.writeL (0x10000 * (2 - k)) (paramSeal n (seq + 1))
    if both then f.writeL (0x10000 * (k + 1)) (paramSeal n (seq + 2)) else f
  | none =>
    let n := edit (List.replicate 0x10000 0)
    (f.writeL 0x10000 (paramSeal n 1)).writeL 0x20000 (paramSeal n 2)

/-- The area stored: the copy taken, or all zero. -/
def paramStored (f : Bytes) : List Byte := ((paramTaken f).map (·.2)).getD (List.replicate 0x10000 0)

/-! ## Component images (Table 18-4) -/

/-- A component image that passed R582. -/
structure Comp where
  version : Nat
  svn : Nat
  partners : List (Nat × Nat × Nat)
  /-- Header to signature, which is measured (Table 18-7). -/
  head : List Byte
  /-- Where the next image begins. -/
  next : Nat
  deriving DecidableEq, Repr

/-- Is a public key one of the four fused signing keys, unrevoked (R582)? -/
def fusedKey (key : List Byte) : Bool :=
  (List.range 4).any (fun k => Config.fuse (1 + k) == Config.sha384 key && Config.fuse (5 + k) == 0)

/-- The image of component `c` at `base`: its status when it is refused. -/
def compAt (f : Bytes) (base limit c minSvn : Nat) : Except Nat Comp :=
  let h := f.readN base 0xA8
  let n := bfld h 0x14 4
  let len := bfld h 0x10 4
  if bfld h 0 4 ≠ 0x504D4F43 ∨ bfld h 4 1 ≠ c ∨ bfld h 5 3 ≠ 0 ∨ 32 < n ∨ limit < base + 0xA8 + 12 * n + 96 + len then .error St.hmkSigFail
  else
    let signed := f.readN base (0xA8 + 12 * n)
    let sig := f.readN (base + 0xA8 + 12 * n) 96
    let body := f.readN (base + 0xA8 + 12 * n + 96) len
    let key := (h.drop 0x48).take 96
    if !fusedKey key || !Config.ecdsaVerify (beNat key) (Config.sha384 signed) (beNat (sig.take 48)) (beNat (sig.drop 48)) ||
        Config.sha384 body != leNat ((h.drop 0x18).take 48) then .error St.hmkSigFail
    else if bfld h 0x0C 4 < minSvn then .error St.hmkRollback
    else .ok {
      version := bfld h 8 4, svn := bfld h 0x0C 4, head := signed ++ sig
      partners := (List.range n).map (fun i => (bfld signed (0xA8 + 12 * i) 1, bfld signed (0xAC + 12 * i) 4, bfld signed (0xB0 + 12 * i) 4))
      next := roundUp (base + 0xA8 + 12 * n + 96 + len) 4096 }

/-- FW_MIN_SVN of a component. -/
def State.minSvn (s : State) (c : Nat) : Nat := s.param (0x29C + 4 * c) 4

/-- Bytes of a firmware slot and of a setting store. -/
def fwSize : Nat := 0xC00000

/-- Base of a firmware slot and of a setting store (Table 18-1). -/
def fwBase (slot : Nat) : Nat := 0x400000 + slot * fwSize
def storeBase (k : Nat) : Nat := 0x1C00000 + k * 0x1000000

/-- The component images of a bundle, or the status of the first that is refused. -/
def State.bundleComps (s : State) (bundle : List Byte) : Except Nat (List Comp) :=
  let f : Bytes := ({} : Bytes).writeL 0 bundle
  match compAt f 0 bundle.length 1 (s.minSvn 1) with
  | .error e => .error e
  | .ok a => match compAt f a.next bundle.length 2 (s.minSvn 2) with
    | .error e => .error e
    | .ok b => match compAt f b.next bundle.length 3 (s.minSvn 3) with
      | .error e => .error e
      | .ok c => .ok [a, b, c]

/-! ## The flash writer (R585, R590) -/

/-- Queues a flash write. -/
def State.flashQueue (s : State) (r : FlashReq) : State := { s with hmk := { s.hmk with queue := s.hmk.queue ++ [r] } }

/-- Writes a record of the event log; what it holds is not given (Table 18-1). -/
def State.logEvent (s : State) : State :=
  { s with freeCtr := s.freeCtr + 1
           hmk := { s.hmk with flash := s.hmk.flash.undefine (0x30000 + s.hmk.logNext * 64) 64 s.freeCtr, logNext := (s.hmk.logNext + 1) % 62464 } }

/-- The status of a flash write in the register that asked for it. -/
def State.flashReport (s : State) (report status : Nat) : State :=
  match report with
  | 1 => { s with mgt := { s.mgt with fwBusy := false, fwStatus := status } }
  | 2 => { s with mgt := { s.mgt with parBusy := false, parStatus := status } }
  | _ => s

/-- The setting store that ACTIVE_SET does not name. -/
def State.otherStore (s : State) : Nat := if bfld (paramStored s.hmk.flash) 0x400 1 = 0 then 1 else 0

/-- A target left invalid: its first bytes are zero, the rest is undefined. -/
def State.flashSpoil (s : State) (off n : Nat) : State :=
  { s with freeCtr := s.freeCtr + 1, hmk := { s.hmk with flash := (s.hmk.flash.undefine off n s.freeCtr).writeL off [0, 0, 0, 0] } }

/-- The copy or slot of a write that failed twice is left invalid. -/
def State.flashFail (s : State) (r : FlashReq) : State :=
  match r.kind with
  | .event => s
  | .setStore => s.flashSpoil (storeBase s.otherStore) 0x1000000
  | .params | .signed => s.flashSpoil (match paramTaken s.hmk.flash with
      | some (k, _) => 0x10000 * (2 - k)
      | none => 0x10000) 0x10000
  | .directory => s.flashSpoil (match dirTaken s.hmk.flash with
      | some (k, _) => 0x1000 * (1 - k)
      | none => 0) 0x1000
  | .slot => ({ s with hmk := { s.hmk with fwBusy := false } }).flashSpoil (fwBase (r.off / 2)) fwSize

/-- Makes bytes of the parameter area the ones in force. -/
def State.useParams (s : State) (off : Nat) (d : List Byte) : State := { s with hmk := { s.hmk with params := s.hmk.params.writeL off d } }

/-- Does a signed update pass its checks (R588)? -/
def State.signedOk (s : State) (upd : List Byte) : Bool :=
  let key := s.hmk.params.readN 0x20 96
  upd.length == 764 && bfld upd 0 8 == hashLo && decide (bfld (paramStored s.hmk.flash) 0x10 4 < bfld upd 8 4) &&
    (beNat key == 0 ||
      Config.ecdsaVerify (beNat key) (Config.sha384 (upd.take 668)) (beNat ((upd.drop 668).take 48)) (beNat (upd.drop 716)))

/-- What a successful write leaves, and what it queues next, before any other write. -/
def State.flashDone (s : State) (r : FlashReq) : State :=
  match r.kind with
  | .event => s.logEvent
  | .setStore =>
    let k := s.otherStore
    { s with hmk := { s.hmk with flash := s.hmk.flash.writeL (storeBase k) r.data
                                 queue := { kind := .params, off := 0x400, data := [BitVec.ofNat 8 k] } :: s.hmk.queue } }
  | .params =>
    let s := { s with hmk := { s.hmk with flash := paramWrite s.hmk.flash (fun b => setBytes b r.off r.data) false } }
    s.useParams r.off r.data
  | .signed =>
    if !s.signedOk r.data then s.flashReport r.report St.hmkParamDenied
    else
      let edit := fun b => setBytes (setBytes b 0x10 ((r.data.drop 8).take 4)) 0x20 ((r.data.drop 12).take 656)
      let s := { s with hmk := { s.hmk with flash := paramWrite s.hmk.flash edit true } }
      let s := s.useParams 0xE0 ((r.data.drop (12 + 0xC0)).take 8)
      s.extend 5 (Config.sha384 ((r.data.drop 12).take 656))
  | .directory =>
    let d : Dir := { active := r.off / 2 % 2, trial := bit r.off 2, attempts := 0, confirm := r.off % 2 }
    { s with hmk := { s.hmk with fwBusy := false, flash := dirWrite s.hmk.flash d } }
  | .slot =>
    { s with hmk := { s.hmk with flash := s.hmk.flash.writeL (fwBase (r.off / 2)) r.data
                                 queue := { kind := .directory, off := r.off % 2 + r.off / 2 * 2 + 4, data := [], report := r.report } :: s.hmk.queue } }

/-- Does the writer report at once, or with the write that follows? -/
def FlashKind.last : FlashKind → Bool
  | .slot => false
  | _ => true

/-- One queued flash write: written, read back and compared, and retried once. -/
def State.flashWrite (s : State) (ok1 ok2 : Bool) : State :=
  match s.hmk.queue with
  | [] => s
  | r :: rest =>
    let s := { s with hmk := { s.hmk with queue := rest } }
    let s :=
      if ok1 || ok2 then
        let s := if r.kind.last then s.flashReport r.report 0 else s
        s.flashDone r
      else ((s.flashFail r).flashReport r.report St.hmkFlashErr).raiseG St.hmkFlashErr
    if r.kind = .event then s else s.flashQueue { kind := .event, off := 0, data := [] }

/-- FLASH_WRITE (R585). -/
def execFlashWrite (ok1 ok2 : Bool) (s : State) : Host.Outcome State Fault Refusal := s.unlessOff <| .next (s.flashWrite ok1 ok2)

/-! ## Firmware update (R597, R598) -/

/-- Offers a bundle: the status of its refusal, or 0 and the write of the slot that ACTIVE does not name. -/
def State.offerBundle (s : State) (bundle : List Byte) (confirm : Bool) (report : Nat) : State × Nat :=
  if s.hmk.fwBusy then (s, St.hmkBusy)
  else
    match s.bundleComps bundle with
    | .error e => (s, e)
    | .ok _ =>
      if fwSize < bundle.length then (s, St.hmkSigFail)
      else
        let other := 1 - ((dirTaken s.hmk.flash).map (·.2.active)).getD s.hmk.slot
        (({ s with hmk := { s.hmk with fwBusy := true } }).flashQueue
          { kind := .slot, off := other * 2 + (if confirm then 1 else 0), data := bundle, report }, 0)

/-- Bytes of package memory for the management controller: `none` when unpopulated or poisoned. -/
def State.mgtBytes (s : State) (a n : Nat) : Option (List Byte) :=
  if !(granules 4096 a n).all (fun g => populated s.set.cur (g * 4096)) ∨ s.mem.poisoned a n then none else some (s.mem.ram.readN a n)

/-- Confirms the trial slot that runs (R598). -/
def State.fwupConfirm (s : State) (raise : Bool) : State :=
  match dirTaken s.hmk.flash with
  | some (_, d) =>
    if d.trial && d.active == s.hmk.slot then
      let s := s.flashQueue { kind := .directory, off := d.active * 2 + d.confirm % 2, data := [] }
      if raise then
        s.flashQueue { kind := .params, off := 0x2A0, data := (List.range 3).flatMap (fun c => leBytes 4 (max (s.minSvn (c + 1)) (nth s.hmk.svns c))) }
      else s
    else s
  | none => s

/-- A write of MGT_FWUP_CTRL. -/
def State.fwupCtrl (s : State) (x : Nat) : State :=
  let s := { s with mgt := { s.mgt with fwConfirmMode := bit x 3 } }
  let s := if bit x 1 then s.fwupConfirm (bit x 2) else s
  if !bit x 0 then s
  else if s.mgt.fwBusy then s.count cntDoorbell
  else
    match s.mgtBytes s.mgt.fwAddr s.mgt.fwLen with
    | none => { s with mgt := { s.mgt with fwStatus := St.hmkSigFail } }
    | some b =>
      let r := s.offerBundle b (bit x 3) 1
      { r.1 with mgt := { r.1.mgt with fwBusy := r.2 == 0, fwStatus := r.2 } }

/-- PLDM_FIRMWARE_UPDATE (R597): the answer carries the status. -/
def execPldmFirmwareUpdate (bundle : List Byte) (confirm : Bool) (s : State) : Host.Outcome State Fault Refusal := s.unlessOff <|
  let r := s.offerBundle bundle confirm 0
  .next (r.1.emit (.mctp 0 [r.2]))

/-! ## Parameter updates (R588, R641) -/

/-- A write of MGT_PARAM_CTRL. -/
def State.paramCtrl (s : State) (x : Nat) : State :=
  let s := { s with mgt := { s.mgt with parKind := bit x 1 } }
  if !bit x 0 then s
  else if s.mgt.parBusy then s.count cntDoorbell
  else
    let denied := { s with mgt := { s.mgt with parStatus := St.hmkParamDenied } }
    match s.mgtBytes s.mgt.parAddr s.mgt.parLen with
    | none => denied
    | some b =>
      if bit x 1 then
        if s.mgt.parOff < 0x400 ∨ 0x10000 < s.mgt.parOff + b.length then denied
        else ({ s with mgt := { s.mgt with parBusy := true } }).flashQueue { kind := .params, off := s.mgt.parOff, data := b, report := 2 }
      else if s.signedOk b then ({ s with mgt := { s.mgt with parBusy := true } }).flashQueue { kind := .signed, off := 0, data := b, report := 2 }
      else denied

/-- PLDM_PARAM_UPDATE (R588): the answer carries the status. -/
def execPldmParamUpdate (upd : List Byte) (s : State) : Host.Outcome State Fault Refusal := s.unlessOff <|
  .next (if s.signedOk upd then (s.flashQueue { kind := .signed, off := 0, data := upd }).emit (.mctp 0 [0])
    else s.emit (.mctp 0 [St.hmkParamDenied]))

/-! ## Measurement and debug unlock (R599, R601, R639) -/

/-- A write of HMK_EXT_CTRL. -/
def State.extCtrl (s : State) (x : Nat) : State :=
  let slot := bits x 3 0
  if !bit x 8 then { s with hmk := { s.hmk with extSlot := slot } }
  else if s.hmk.extBusy then s.count cntDoorbell
  else if slot < 10 then s.regacc
  else ({ s with hmk := { s.hmk with extSlot := slot } }).extend slot (leNat (leBytes 48 s.hmk.extData.toNat))

/-- A read of HMK_DBG_CHAL makes a new nonce. -/
def State.newNonce (s : State) : State :=
  { s with hmk := { s.hmk with nonce := BitVec.ofNat 256 (Config.random s.hmk.draws), nonceValid := true, draws := s.hmk.draws + 1 } }

/-- The bytes that an unlock signs. -/
def State.unlockBytes (s : State) : List Byte := leBytes 32 s.hmk.nonce.toNat ++ leBytes 8 hashLo

/-- A write of HMK_DBG_CTRL. -/
def State.dbgCtrl (s : State) (x : Nat) : State :=
  if !bit x 0 then s
  else
    let key := beNat (s.hmk.params.readN 0x80 96)
    let sig := leBytes 96 s.hmk.dbgResp.toNat
    let d := Config.sha384 s.unlockBytes
    if key ≠ 0 ∧ s.hmk.nonceValid ∧ Config.ecdsaVerify key d (beNat (sig.take 48)) (beNat (sig.drop 48)) then
      ({ s with dev := { s.dev with debugUnlocked := true }, hmk := { s.hmk with dbgStatus := 0 } }).extend 8 d
    else { s with hmk := { s.hmk with dbgStatus := St.hmkDbgDenied } }

end Sys2Proof.Machine
end

