-- ==== Sys2Proof/Machine/Boot.lean ====
section
/-! DEFINITION. The boot sequence, the warm reset, losses of dies and hubs, and the takeover of the frame scheduler (R138,
R577 to R580, R594 to R598, R606, R607). -/

namespace Sys2Proof.Machine

/-! ## Steps 1 to 5: firmware -/

/-- A flash as the board carries it. -/
def Bytes.ofCells (l : List (Nat × Byte)) : Bytes := l.foldl (fun m c => m.write c.1 c.2) {}

/-- The device as PORST_N leaves it: everything at its reset value but the flash and what lies outside the block. -/
def State.powerUp (s : State) (i : BootIn) : State :=
  { freeCtr := s.freeCtr, serial := s.serial, out := s.out, pending := s.pending, perst := s.perst
    hmk := { flash := (i.flash.map Bytes.ofCells).getD s.hmk.flash, backup := Bytes.ofCells i.backup, draws := s.hmk.draws, logNext := s.hmk.logNext, stage := 1 }
    jtag := { s.jtag with blocked := 0 }
    pwr := { temps := s.pwr.temps } }

/-- Reads the parameter area of a flash (R586, R589). -/
def State.readParams (s : State) (f : Bytes) : State :=
  match paramTaken f with
  | some (_, b) => { s with hmk := { s.hmk with params := ({} : Bytes).writeL 0 b } }
  | none => ({ s with dev := { s.dev with paramDefault := true }, hmk := { s.hmk with params := {} } }).raiseG St.hmkParamLost

/-- The directory restored to the slot before a trial (R598). -/
def State.revert (s : State) (d : Dir) : State :=
  ({ s with hmk := { s.hmk with flash := dirWrite s.hmk.flash { d with active := 1 - d.active, trial := false, attempts := 0 } } }).raiseG
    St.hmkTrialReverted

/-- A trial boot counts itself, or reverts after three attempts (R598). -/
def State.trialBegin (s : State) : State :=
  match dirTaken s.hmk.flash with
  | some (_, d) =>
    if !d.trial then s
    else if 3 ≤ d.attempts then s.revert d
    else { s with hmk := { s.hmk with flash := dirWrite s.hmk.flash { d with attempts := d.attempts + 1 } } }
  | none => s

/-- The bytes that MS9 measures: the directory copy used, or 16 zero bytes. -/
def dirMeasured (f : Bytes) : List Byte :=
  match dirTaken f with
  | some (k, _) => f.readN (k * 0x1000) 20
  | none => List.replicate 16 0

/-- Steps 2 to 5 on one slot: the three images, or the status of the first that fails and whether it is the management
firmware. -/
def State.loadSlot (s : State) (f : Bytes) (slot : Nat) : State × Except (Bool × Nat) (List Comp) :=
  let lim := fwBase slot + fwSize
  match compAt f (fwBase slot) lim 1 (s.minSvn 1) with
  | .error e => (s, .error (true, e))
  | .ok a =>
    let s := ((s.extend 1 (Config.sha384 a.head)).extend 9 (Config.sha384 (dirMeasured f))).extend 5 (Config.sha384 (s.hmk.params.readN 0x20 656))
    match compAt f a.next lim 2 (s.minSvn 2) with
    | .error e => (s, .error (false, e))
    | .ok b =>
      let s := s.extend 2 (Config.sha384 b.head)
      match compAt f b.next lim 3 (s.minSvn 3) with
      | .error e => (s, .error (false, e))
      | .ok c => (s.extend 3 (Config.sha384 c.head), .ok [a, b, c])

/-- Steps 2 to 5 on the slot of the directory, then whole on the other (Table 18-6). -/
def State.firmware (s : State) (f : Bytes) : State × Except (Bool × Nat) (Nat × List Comp) :=
  let first := ((dirTaken f).map (·.2.active)).getD 0
  match s.loadSlot f first with
  | (s, .ok cs) => (s, .ok (first, cs))
  | (s, .error (m1, e1)) =>
    match (s.raiseG St.hmkSlotFallback).loadSlot f (1 - first) with
    | (s, .ok cs) => (s, .ok (1 - first, cs))
    | (s, .error (m2, e2)) => (s, .error (m1 && m2, if m2 && !m1 then e1 else e2))

/-- LIMITED mode (R595), reached in a step. -/
def State.limit (s : State) (step status : Nat) : State :=
  ({ s with dev := { s.dev with limited := true }, hmk := { s.hmk with stage := step, err := status } }).raiseG status

/-! ## Step 6: combination and setting images (R592, R138) -/

/-- Does an image list a version of another component? -/
def Comp.lists (a : Comp) (c v : Nat) : Bool := a.partners.any (fun p => p.1 == c && decide (p.2.1 ≤ v) && decide (v ≤ p.2.2))

/-- Is a combination of three images tested? -/
def testedComps (cs : List Comp) : Bool :=
  (List.range 3).all (fun i => (List.range 3).all (fun j =>
    i == j || ((cs[i]?).bind (fun a => (cs[j]?).map (fun b => a.lists (j + 1) b.version))).getD false))

/-- The stored images in the order in which boot tries them. -/
def State.storedImages (s : State) (f : Bytes) : List (List Byte) :=
  let image := fun k => f.readN (storeBase k) (min (f.readNat (storeBase k + 8) 4) (2 ^ 24))
  match s.param 0x400 1 with
  | 0 => [image 0, image 1]
  | 1 => [image 1, image 0]
  | _ => []

/-- The first image that passes checks 1 to 12 with the images after it; whether check 6 ends the boot in LIMITED mode. -/
def State.pickImage (s : State) : List (List Byte) → State × Option (Loaded × List (List Byte)) × Bool
  | [] => (s, none, false)
  | img :: rest =>
    match s.checkImage img with
    | .ok l => (s, some (l, rest), false)
    | .error (st, r) =>
      if st = St.setUntested then (s.setFinish st r, none, true) else (s.setFinish st r).pickImage rest

/-! ## Steps 7 to 9 -/

/-- The pseudo-channels that fail training, and with ZERO_AT_BOOT those that hold a line that fails the march test. -/
def State.badChannels (s : State) (i : BootIn) : List (Nat × Nat) :=
  i.badPcs.flatMap (fun p => ((List.range 64).filter (bit p.2)).map (fun c => (p.1, c))) ++
    (if bit (s.param 0x402 1) 0 then i.badLines.filterMap (fun a => (stackOf a).map (fun k => (k, pcOf (a % stackWindow)))) else [])

/-- HBM training, the march test and zeroing, C-die bring-up and the self-test of every bead. -/
def State.bringUp (s : State) (i : BootIn) : State × Bool :=
  let zero := bit (s.param 0x402 1) 0
  let s := { s with mem := { ram := { undef := if zero then [] else [(0, vaultBase + 8 * 2 ^ 32, s.freeCtr + 1)] } }, freeCtr := s.freeCtr + 1 }
  let s := (s.badChannels i).foldl (fun s p => if p.1 < 16 then s.retirePc p.1 p.2 else s) s
  let s := (List.range 160).foldl (fun s b =>
    (if zero then s else s.undefBead b).updBead b (fun x => { x with inService := !i.badBeads.contains b })) s
  (s, !i.dieFails && !i.regulatorFails && s.mem.retired.all (fun p => p.2 != 2 ^ 64 - 1))

/-- Pages on retired pseudo-channels are retired again in the pools of the setting applied (R425). -/
def State.holeAgain (s : State) : State :=
  s.mem.retired.foldl (fun s p => ((List.range 64).filter (bit p.2)).foldl (fun s c => s.holePages p.1 c) s) s

/-! ## Step 10 -/

/-- Check 13 and the apply: the next stored image after one that fails; the empty setting when none is left; LIMITED after
check 6. The measurement slot is `ms`. -/
def State.installF : Nat → State → Nat → Option (Loaded × List (List Byte)) → State × Bool
  | 0, s, _, _ => (s, false)
  | n + 1, s, ms, some (l, rest) =>
    match s.check13 l.merged with
    | none =>
      let s := (s.apply l ms).holeAgain
      (if l.untested then s.raiseG St.hmkUntested else s, false)
    | some (st, bad) =>
      let s := s.setFinish st (recordOf (!l.full) (cutRecs (l.image.length / 8) 0 ((l.image.take (l.image.length - 104)).drop 128)).1 bad)
      match s.pickImage rest with
      | (s, _, true) => (s, true)
      | (s, r, false) => s.installF n ms r
  | _ + 1, s, ms, none => (({ s with dev := { s.dev with noSetting := true } }).extend ms 0, false)

/-- READY: the scheduler of H0 is master with a standby, and the trial that runs is confirmed if it asks for no request. -/
def State.becomeReady (s : State) : State :=
  let s := { s with dev := { s.dev with ready := true }, hmk := { s.hmk with stage := 11 }, frm := { s.frm with standbyOk := true } }
  match dirTaken s.hmk.flash with
  | some (_, d) => if d.trial && d.confirm == 0 && d.active == s.hmk.slot then s.fwupConfirm false else s
  | none => s

/-- Is the firmware slot that runs on trial? -/
def State.onTrial (s : State) : Bool := ((dirTaken s.hmk.flash).map (fun d => d.2.trial)).getD false

/-- Steps 7 to 10. -/
def State.finishBoot (s : State) (i : BootIn) (ms : Nat) (l : Option (Loaded × List (List Byte))) : State :=
  match s.bringUp i with
  | (s, false) => s.limit 9 St.hmkBootFailed
  | (s, true) =>
    if s.onTrial && decide (120 * 10 ^ 12 < i.readyAt) then { s with hmk := { s.hmk with stage := 9 } }
    else
      match s.installF 3 ms l with
      | (s, true) => s.limit 10 St.hmkUntested
      | (s, false) => s.becomeReady

/-- Steps 6 to 10 on the images of a slot. -/
def State.bootRest (s : State) (f : Bytes) (i : BootIn) (slot : Nat) (cs : List Comp) : State :=
  let tested := testedComps cs
  let offers := ((cs.head?.map (·.partners)).getD []).foldl (fun (m : SMap (Nat × Nat)) p => if 4 ≤ p.1 ∧ p.1 ≤ 6 then mput m p.1 p.2 else m) []
  let s := { s with hmk := { s.hmk with slot, versions := cs.map Comp.version, svns := cs.map Comp.svn, offers, stage := 6, useBackup := f == s.hmk.backup } }
  let s := s.extend 4 (Config.sha384 (cs.flatMap (fun (c : Comp) => leBytes 4 c.version) ++ leBytes 1 (if tested then 1 else 0) ++
    leBytes 1 (if s.untestedOk then 1 else 0) ++ leBytes 2 0))
  if !tested && !s.untestedOk then s.limit 6 St.hmkUntested
  else
    let s := if tested then s else ({ s with dev := { s.dev with untested := true } }).raiseG St.hmkUntested
    match s.pickImage (s.storedImages f) with
    | (s, _, true) => s.limit 6 St.hmkUntested
    | (s, l, false) => s.finishBoot i 6 l

/-- One boot from the release of PORST_N (Table 18-5), with the outcomes of Table 18-6. -/
def State.bootOnce (s : State) (i : BootIn) : State :=
  let s := ((s.powerUp i).extend 0 (Config.fuse 16)).readParams ((s.powerUp i).hmk.flash)
  if bit (s.param 0xE8 4) 2 then { s with hmk := { s.hmk with bscanHold := true } }
  else
    let s := s.trialBegin
    let s := match s.firmware s.hmk.flash with
      | (s, .ok (slot, cs)) => s.bootRest s.hmk.flash i slot cs
      | (s, .error (false, e)) => s.limit 5 e
      | (s, .error (true, _)) =>
        let s := match paramTaken s.hmk.backup with
          | some _ => ({ s with dev := { s.dev with paramDefault := false } }).readParams s.hmk.backup
          | none => s
        match s.firmware s.hmk.backup with
        | (s, .ok (slot, cs)) => s.bootRest s.hmk.backup i slot cs
        | (s, .error (false, e)) => s.limit 5 e
        | (s, .error (true, _)) =>
          ({ s with dev := { s.dev with bootFailed := true }, hmk := { s.hmk with stage := 2, err := St.hmkBootFailed } }).raiseG St.hmkBootFailed
    if s.dev.bootFailed then s else s.flashQueue { kind := .event, off := 0, data := [] }

/-- A boot; a trial that ends in LIMITED mode reverts and the device resets (R598). -/
def State.boot (s : State) (i : BootIn) : State :=
  let s := s.bootOnce i
  match dirTaken s.hmk.flash with
  | some (_, d) => if s.dev.limited && d.trial && !s.hmk.useBackup then (((s.revert d).logEvent).bootOnce i).raiseG St.hmkTrialReverted else s
  | none => s

/-- PORST_N (R594): its release after it was asserted. -/
def execPorstN (i : BootIn) (s : State) : Host.Outcome State Fault Refusal := .next (s.boot i)

/-- TRIAL_WATCHDOG (R598): a trial boot that has not reached READY is reset. -/
def execTrialWatchdog (i : BootIn) (s : State) : Host.Outcome State Fault Refusal := s.unlessDown <|
  .next (if s.onTrial && !s.dev.ready && !s.hmk.bscanHold && s.hmk.stage ≠ 0 then s.boot i else s)

/-- A write of MGT_RESET (R641). -/
def State.mgtResetReg (s : State) (x : Nat) (i : BootIn) : State := if x = 0x52534554 then s.boot i else s.regacc

/-! ## The warm reset (R607) -/

/-- What a warm reset leaves: the management controllers, Hallmark, the PCIe links, and the DOWN bits. -/
def State.warmBase (s : State) : State :=
  { now := s.now, freeCtr := s.freeCtr, serial := s.serial, out := s.out, pending := s.pending, perst := s.perst
    hmk := { s.hmk with stage := 7 }, mgt := s.mgt, jtag := { s.jtag with blocked := 0 }, fns := s.fns, wins := s.wins
    fil := { down := s.fil.down }
    pwr := { temps := s.pwr.temps, thermtrip := s.pwr.thermtrip }
    dev := { untested := s.dev.untested, paramDefault := s.dev.paramDefault, debugUnlocked := s.dev.debugUnlocked }
    set := { image := s.set.image } }

/-- The setting in force as a load of its own; `none` for the empty setting. -/
def State.inForce (s : State) : Option (Loaded × List (List Byte)) :=
  let t := s.set.cur
  if t.seq = 0 then none
  else some ({ image := s.set.image, merged := t, full := true, untested := s.dev.untested, carried := []
               fill := (t.regions.filter (·.zero)).map (fun r => (r.phys, r.len)) }, [])

/-- A warm reset: `RAS_FATAL` goes to the event log, then steps 7 to 10 run with the setting in force. -/
def State.warmReset (s : State) (i : BootIn) : State :=
  let l := s.inForce
  let s := s.logEvent.warmBase
  let s := (List.range 66).foldl State.resetFunction s
  s.finishBoot i 7 l

/-- CDIE_LOSS (R606). -/
def execCdieLoss (_die : Die) (i : BootIn) (s : State) : Host.Outcome State Fault Refusal := s.unlessDown <| .next (s.warmReset i)

/-- HUB_LOSS (R83): the device halts with FATAL set; nothing of its work is left, and a management controller raises an
event. -/
def execHubLoss (_hub : Fin 2) (s : State) : Host.Outcome State Fault Refusal := s.unlessDown <|
  let s := s.logEvent
  .next { s.warmBase with
    hmk := { s.hmk with stage := s.hmk.stage }
    dev := { s.dev with ready := false, fatal := true }
    mgt := { s.mgt with events := s.mgt.events ++ [0] } }

/-- Working sub-channels of one direction of a link. -/
def State.working (s : State) (link dir : Nat) : Nat :=
  32 - ((List.range 32).filter (fun k => (s.sub (link * 64 + k * 2 + dir)).lost)).length

/-- The number that R450 gives a transfer; a WR_ACK carries no address, and keeps the number of its request. -/
def subNumber (x : Xfer) (was : Nat) : Nat :=
  match x.op with
  | .wrAck => was
  | .clasp => x.addr % 32
  | .rd | .wr | .add | .rdData => bits x.addr 10 6 ^^^ bits x.addr 15 11 ^^^ bits x.addr 20 16
  | _ => (x.src ^^^ x.dst ^^^ x.tag) % 32

/-- FIL_SUBCH_LOST (R454): the sub-channel leaves the mapping and its unacknowledged transfers go again on the ones that
work; a link with fewer than 16 in a direction is down, and the device resets. -/
def execFilSubchLost (ch : SubChId) (i : BootIn) (s : State) : Host.Outcome State Fault Refusal := s.unlessDown <|
  let k := chKey ch
  let y := s.sub k
  .next (if y.lost then s
    else
      let link := ch.link.val
      let s := s.updSub k (fun y => { y with lost := true, unacked := [], nak := false })
      if s.working link ch.dir.val < 16 then
        ({ s with fil := { s.fil with down := sIns link s.fil.down } }).warmReset i
      else
        let ws := (List.range 32).filter (fun j => !(s.sub (link * 64 + j * 2 + ch.dir.val)).lost)
        let s := (y.unacked.flatMap (·.2)).foldl (fun s x =>
          let to' := link * 64 + nth ws (subNumber x ch.sub.val % ws.length) * 2 + ch.dir.val
          s.updSub to' (fun z => { z with txSeq := (z.txSeq + 1) % 256, unacked := z.unacked ++ [(z.txSeq, [x])] })) s
        s.raiseG St.filSubchLost (link + ch.sub.val * 2 ^ 8 + (32 - s.working link ch.dir.val) * 2 ^ 32) (agent (linkEnds link).1 0x40) 0xFFFF true)

/-! ## Takeover of the frame scheduler (R577 to R580) -/

/-- SCHED_TAKEOVER (R578): H1 goes on from its journal, which holds all that this state holds of the scheduler. Without a
standby the master's failure resets the device (R580). -/
def execSchedTakeover (reported : Bool) (t : Nat) (i : BootIn) (s : State) : Host.Outcome State Fault Refusal := s.unlessDown <|
  let s := s.at t
  .next (if !s.frm.standbyOk then s.warmReset i
    else
      let s := ({ s with frm := { s.frm with schedH1 := true, standbyOk := false } }).raiseG St.hstSchedTakeover 0 (agent 9 0x70)
      if reported then s else s.tick t)

/-- HST_SCHED_STANDBY_LOST (R580). -/
def execSchedStandbyLost (s : State) : Host.Outcome State Fault Refusal := s.unlessDown <|
  .next (if s.frm.standbyOk then ({ s with frm := { s.frm with standbyOk := false } }).raiseG St.hstSchedStandbyLost 0 (agent 9 0x70) else s)

end Sys2Proof.Machine
end

