-- ==== Sys2Proof/Machine/RegRead.lean ====
section
/-! DEFINITION. The register maps as they read (chapter 20): window A, the user window, the mailbox. A register is named by its
byte offset; a 64-bit register by that of its low half. -/

namespace Sys2Proof.Machine

/-- Element of an array of registers: `n` of them from `base`, `stride` bytes apart. -/
def elem (o base n stride : Nat) : Option Nat :=
  if base ≤ o ∧ o < base + n * stride ∧ (o - base) % stride = 0 then some ((o - base) / stride) else none

/-- 32-bit word of a byte list that starts at `base`. -/
def wordOf (bs : List Byte) (o base : Nat) : Nat := leNat ((bs.drop (o - base)).take 4)

/-- Bit fields from flags. -/
def b2n (b : Bool) : Nat := if b then 1 else 0

/-! ## The mailbox (Table 20-4) -/

/-- A mailbox register. -/
def Mailbox.rd (m : Mailbox) (o : Nat) : Nat :=
  if o < 0x40 then m.req.toNat / 2 ^ (8 * o) % 2 ^ 32
  else if o < 0x80 then m.rsp.toNat / 2 ^ (8 * (o - 0x40)) % 2 ^ 32
  else if o = 0x80 then b2n m.busy * 2 + b2n m.done * 4 + b2n m.irqEn * 8
  else if o = 0x84 then m.vec
  else 0

/-! ## Error queues (Tables 19-4, 20-15) -/

/-- The 32 bytes of an error record. -/
def ErrRec.bytes (r : ErrRec) : List Byte :=
  leBytes 2 r.status ++ leBytes 1 r.reason ++ leBytes 1 (b2n r.lost + b2n r.covered * 2) ++ leBytes 2 r.source ++ leBytes 2 r.uid ++
    leBytes 8 r.frame ++ leBytes 4 r.tNs ++ leBytes 4 r.seq ++ leBytes 8 r.arg

/-- Word `o` of the record at the head of a queue. -/
def ErrQueue.dataWord (q : ErrQueue) (cap o : Nat) : Nat :=
  match mfind q.recs (q.head % cap) with
  | some r => wordOf r.bytes o 0
  | none => 0

/-- The unit queue of a top-level UID. -/
def State.unitQueue (s : State) (u : Nat) : ErrQueue := mget s.errUnit u {}

/-! ## Block pool and clasp results -/

/-- BPM_ALLOC_RES and BPM_FREE_RES (Table 20-9). -/
def BpmResult.allocNat (r : BpmResult) : Nat := r.handle % 2 ^ 40 + r.status * 2 ^ 40 + b2n r.busy * 2 ^ 62 + b2n r.done * 2 ^ 63
def BpmResult.freeNat (r : BpmResult) : Nat := r.status + b2n r.busy * 2 ^ 30 + b2n r.done * 2 ^ 31

/-- Pools of KIND 0 and 1 in image order: of the whole image, or of one owner. -/
def Setting.pool01 (t : Setting) : List PoolRec := t.pools.filter (·.kind != 2)
def Setting.ownPools (t : Setting) (u : Nat) : List PoolRec := t.pool01.filter (·.owner == u)

/-! ## Beads (Table 20-17) -/

/-- BEAD_STATUS. -/
def State.beadStatus (s : State) (b : Nat) : Nat :=
  let x := s.bead b
  let t := s.set.cur
  let role := match x.pos with
    | some p => if p = b then 1 else 2
    | none => if s.freeBead b && t.spares.any (fun r => r.spares.contains b) then 3 else 0
  let uid := match x.pos with
    | some p => t.top p
    | none => 0xFFFF
  role + b2n (!x.inService) * 4 + b2n (mfind s.ras.running b).isSome * 8 + b2n (t.s1 uid) * 16 + uid * 2 ^ 16

/-- BEAD_PREEMPT. -/
def Bead.preemptNat (x : Bead) : Nat :=
  b2n (x.phase == .preempting) + b2n (x.phase == .preempted) * 4 + x.preemptArea * 2 ^ 8 + x.preemptNext * 2 ^ 40

/-- The performance counters at 0x8100 to 0x8207, by offset from 0x8100. -/
def BeadPerf.rd (p : BeadPerf) (o : Nat) : Nat :=
  match elem o 0 16 8 with
  | some i => mget p.facet i 0
  | none => match elem o 0x80 5 8 with
    | some i => mget p.gme i 0
    | none => match elem o 0xC0 5 8 with
      | some i => mget p.stall i 0
      | none => if o = 0x100 then p.nan else 0

/-- The 64-bit registers of a per-bead block. -/
def beadWide (o : Nat) : Bool :=
  o == 8 || (decide (0x8100 ≤ o) && decide (o < 0x8208)) || (decide (0x8300 ≤ o) && decide (o < 0x8408))

/-- A register of a per-bead block. -/
def State.rdBead (s : State) (b o : Nat) : Nat :=
  let x := s.bead b
  if o = 0 then s.beadStatus b
  else if o = 8 then x.preemptNat
  else if o = 0x8000 then b2n x.debugReq + b2n x.debug * 2
  else if 0x8100 ≤ o ∧ o < 0x8208 then x.perf.rd (o - 0x8100)
  else if 0x8300 ≤ o ∧ o < 0x8408 then x.perfSnap.rd (o - 0x8300)
  else 0

/-! ## DEV, SET and FRM -/

/-- DEV_STATUS (Table 20-3). -/
def DevStatus.nat (d : DevStatus) : Nat :=
  b2n d.ready + b2n d.limited * 2 + b2n d.untested * 4 + b2n d.noSetting * 8 + b2n d.paramDefault * 16 + b2n d.memDegraded * 32 +
    b2n d.debugUnlocked * 64 + b2n d.bootFailed * 128 + b2n d.fatal * 256

/-- DEV_CAPS. -/
def devCaps : Nat := Config.grade.facets + Config.grade.maxClock * 2 ^ 4 + Config.grade.stackGiB * 2 ^ 16

/-- The IDCODE of a TAP in chain order H0, C0 to C7, H1; version and manufacturer code are fused (R574). -/
def idcodeOf (tap : Nat) : Nat :=
  1 + Config.fuse 11 % 2 ^ 11 * 2 + (if tap = 0 ∨ tap = 9 then 0x5201 else 0x5202) * 2 ^ 12 + Config.fuse 10 % 16 * 2 ^ 28

/-- The configuration page of a user window (Table 20-18). -/
def State.rdCfg (s : State) (w o : Nat) : Nat :=
  let x := s.win w
  match o with
  | 0x0 => match s.set.cur.svcOfWin w with
    | some v => v.uid % 2 ^ 16 + v.svc % 2 ^ 12 * 2 ^ 16 + 2 ^ 31
    | none => 0
  | 0x4 => x.func
  | 0x8 => ((s.winFn w).map (fun f => (s.fn f).abi)).getD 0
  | 0xC => x.vecLimit
  | _ => 0

/-- DEV registers. -/
def State.rdDev (s : State) (o : Nat) : Nat :=
  if 0x1000 ≤ o ∧ o < 0x2000 then s.rdCfg s.sel.uwin (o - 0x1000)
  else if 0x800 ≤ o ∧ o < 0x888 then (s.fn 0).mbox.rd (o - 0x800)
  else if 0x900 ≤ o ∧ o < 0x988 then (s.fn 33).mbox.rd (o - 0x900)
  else match elem o 0x100 256 4 with
    | some w => (s.win w).func
    | none => match elem o 0x10 10 4 with
      | some k => idcodeOf k
      | none => match o with
        | 0x0 => s.dev.nat
        | 0x4 => devCaps
        | 0x8 => hashLo
        | 0x40 => s.sel.uwin
        | 0x44 => s.sel.winC
        | 0x48 => (s.fn (s.sel.winC / 64 * 33 + s.sel.winC % 64)).winCBase
        | _ => 0

/-- SET registers (Tables 20-5, 20-6). -/
def SetState.rd (x : SetState) (o : Nat) : Nat :=
  match o with
  | 0x0 => x.loadAddr
  | 0x8 => x.loadLen
  | 0x10 => (match x.phase with
    | .idle => 0
    | .checking => 1
    | .pending => 2) + b2n x.refused * 4
  | 0x14 => x.code + x.record * 2 ^ 16
  | 0x18 => x.cur.seq
  | _ => 0

/-- FRM registers (Table 20-7). -/
def State.rdFrm (s : State) (o : Nat) : Nat :=
  let f := s.set.cur.frame
  match o with
  | 0x0 => s.frm.count
  | 0x8 => b2n s.frm.holdover + b2n s.frm.slewing * 2 + b2n s.frm.schedH1 * 4 + b2n s.frm.standbyOk * 8
  | 0xC => s.frm.len
  | 0x10 => ofSigned 32 (s.frm.r.tdiv 10)
  | 0x14 => f.tfQ % 2 ^ 11 + f.source % 4 * 2 ^ 16 + b2n f.sparePolicy * 2 ^ 18 + b2n f.fsyncOutEn * 2 ^ 19
  | 0x18 => s.frm.fsyncExtra
  | 0x20 => s.sel.frmUnit
  | 0x28 => if s.set.cur.runs s.sel.frmUnit then (s.unitSt s.sel.frmUnit).slicePtr else 0
  | 0x30 => (s.unitSt s.sel.frmUnit).slip / 1000 % 2 ^ 32
  | _ => 0

/-! ## SES, CLP, BPM -/

/-- Sessions of a hub's half for which a test holds. -/
def State.countSes (s : State) (hub : Nat) (ok : Nat × Session → Bool) : Nat := (s.sessions.filter (fun p => p.1 % 2 == hub && ok p)).length

/-- SES registers (Table 20-8). -/
def State.rdSes (s : State) (o : Nat) : Nat :=
  if 0x80 ≤ o ∧ o < 0x100 then wordOf s.sel.sesData o 0x80
  else match o with
    | 0x0 => s.sel.sesIdx
    | 0x10 => s.countSes 0 (fun p => p.2.state == .opened)
    | 0x14 => s.countSes 1 (fun p => p.2.state == .opened)
    | 0x18 => s.countSes 0 (fun p => !p.2.queue.isEmpty || p.2.inBatch || p.2.state == .closing)
    | 0x1C => s.countSes 1 (fun p => !p.2.queue.isEmpty || p.2.inBatch || p.2.state == .closing)
    | _ => 0

/-- CLP registers of window A. -/
def State.rdClp (s : State) (o : Nat) : Nat :=
  match elem o 0x40 8 4 with
  | some d => s.hostWaits d
  | none => match o with
    | 0x8 => s.sel.clpNotify
    | 0x10 => s.sel.clpPeek
    | 0x18 => (s.clasp s.sel.clpPeek).counter + b2n (s.clasp s.sel.clpPeek).err * 2 ^ 32
    | _ => 0

/-- BPM registers of window A. -/
def State.rdBpm (s : State) (o : Nat) : Nat :=
  let p := s.set.cur.pool01[s.sel.bpmPool]?
  match o with
  | 0x8 => s.bpm.allocRes.allocNat
  | 0x18 => s.bpm.freeRes.freeNat
  | 0x20 => s.bpm.retired
  | 0x28 => s.bpm.errCount
  | 0x30 => s.sel.bpmPool
  | 0x34 => (p.map s.freeIn).getD 0
  | 0x38 => (p.map (fun p => s.countIn p .quarantine)).getD 0
  | _ => 0

/-! ## MEM, FIL, NET -/

/-- The GUAR record that MEM_METER_SEL names, with its ordinal. -/
def State.selMeter (s : State) : Option (Nat × GuarRec) :=
  let x := s.sel.meter
  ((List.range s.set.cur.guars.length).zip s.set.cur.guars).find? (fun (p : Nat × GuarRec) =>
    p.2.uid == bits x 15 0 && p.2.resKind == bits x 17 16 && p.2.index == bits x 27 20)

/-- The rate in force of a guarantee (R445). -/
def State.rateNow (s : State) (g : GuarRec) : Nat :=
  let sum := ((s.set.cur.guars.filter (fun h => h.resKind == g.resKind && h.index == g.index)).map (·.rate)).foldl (· + ·) 0
  let l := s.limitNow g.resKind g.index
  if l < sum then g.rate * l / sum else g.rate

/-- MEM registers (Table 20-10). -/
def State.rdMem (s : State) (o : Nat) : Nat :=
  let m := s.mem
  match elem o 0 16 8, elem o 0x100 16 4, elem o 0x200 16 8, elem o 0x300 16 8, elem o 0x400 16 8, elem o 0x500 16 8, elem o 0x600 8 8, elem o 0x640 8 8 with
  | some k, _, _, _, _, _, _, _ => mget m.retired k 0
  | _, some k, _, _, _, _, _, _ =>
    b2n (m.refresh2x.contains k) + b2n (mget m.retired k 0 != 0) * 2 + mget m.caseTemp k (mget s.pwr.temps (10 + k) 0) % 256 * 2 ^ 8 +
      (64 - popBelow (mget m.retired k 0) 64) * 2 ^ 16
  | _, _, some k, _, _, _, _, _ => mget m.ce k 0
  | _, _, _, some k, _, _, _, _ => mget m.ue k 0
  | _, _, _, _, some k, _, _, _ => mget m.scrubBytes k 0
  | _, _, _, _, _, some k, _, _ => mget m.refreshNs k 0
  | _, _, _, _, _, _, some k, _ => mget m.vaultHit k 0
  | _, _, _, _, _, _, _, some k => mget m.vaultMiss k 0
  | _, _, _, _, _, _, _, _ =>
    match o with
    | 0x700 => s.sel.meter
    | 0x708 => (s.selMeter.map (fun p => mget m.meter p.1 0)).getD 0
    | 0x710 => (s.selMeter.map (fun p => s.rateNow p.2)).getD 0
    | _ => 0

/-- The mask of working sub-channels of one direction of a link. -/
def State.subMask (s : State) (link dir : Nat) : Nat :=
  ((List.range 32).map (fun k => if (s.sub (link * 64 + k * 2 + dir)).lost then 0 else 2 ^ k)).foldl (· + ·) 0

/-- FIL registers (Tables 20-11, 20-12). -/
def State.rdFil (s : State) (o : Nat) : Nat :=
  match elem o 0 14 4, elem o 0x40 14 8, elem o 0x100 14 8, elem o 0x180 10 8, elem o 0x1D0 10 8, elem o 0x400 112 8, elem o 0x800 256 8 with
  | some l, _, _, _, _, _, _ =>
    s.working l 0 + s.working l 1 * 2 ^ 8 + (64 - (((List.range 16).map (fun m => mget s.fil.spared (l * 16 + m) 0)).foldl (· + ·) 0)) * 2 ^ 16 +
      b2n (s.dev.ready && !s.fil.down.contains l) * 2 ^ 30 + b2n (s.fil.down.contains l) * 2 ^ 31
  | _, some l, _, _, _, _, _ => s.subMask l 0 + s.subMask l 1 * 2 ^ 32
  | _, _, some l, _, _, _, _ => mget s.fil.replayCnt l 0
  | _, _, _, some d, _, _, _ => mget s.fil.abandonCnt d 0
  | _, _, _, _, some d, _, _ => mget s.fil.badHeader d 0
  | _, _, _, _, _, some i, _ => mget s.fil.slots i 0
  | _, _, _, _, _, _, some i => mget s.filFi i 0
  | _, _, _, _, _, _, _ => 0

/-- NET registers (Table 20-13). -/
def State.rdNet (s : State) (o : Nat) : Nat :=
  let n := s.net
  if 0x540 ≤ o ∧ o < 0x560 then wordOf n.addrStage o 0x540
  else match elem o 0 8 4, elem o 0x40 8 8, elem o 0x100 32 8, elem o 0x200 32 8, elem o 0x300 32 8, elem o 0x400 32 8, elem o 0x608 4 8, elem o 0x800 256 8 with
    | some k, _, _, _, _, _, _, _ =>
      let c := s.set.cur.port? k
      let x := s.port k
      (x.up.map (2 ^ ·)).foldl (· + ·) 0 + (c.map (·.mode)).getD 0 % 4 * 2 ^ 4 + b2n ((c.map (·.enabled)).getD false) * 2 ^ 8 + b2n (!x.paused.isEmpty) * 2 ^ 9
    | _, some k, _, _, _, _, _, _ => (s.port k).err
    | _, _, some p, _, _, _, _, _ => mget n.pathTx p 0
    | _, _, _, some p, _, _, _, _ => mget n.pathResend p 0
    | _, _, _, _, some p, _, _, _ => mget n.pathEce p 0
    | _, _, _, _, _, some p, _, _ => mget n.pathPfc p 0
    | _, _, _, _, _, _, some i, _ =>
      match s.peer? s.sel.netPeer with
      | some x => nth [x.segs, x.resends, x.eceMarks, x.rate] i
      | none => 0
    | _, _, _, _, _, _, _, some i => mget s.netFi i 0
    | _, _, _, _, _, _, _, _ =>
      match o with
      | 0x500 => b2n n.ptp.locked + min n.ptp.good 255 * 2 ^ 8
      | 0x504 => ofSigned 32 n.ptp.offset
      | 0x508 => ofSigned 64 (s.ptpTime s.now)
      | 0x510 => n.ptp.ppsTs
      | 0x518 => n.peers.length
      | 0x520 => s.sel.netAddr
      | 0x600 => s.sel.netPeer
      | _ => 0

/-! ## HMK, PWR, ERR -/

/-- HMK registers (Table 20-14). -/
def HmkState.rd (h : HmkState) (o : Nat) : Nat :=
  if 0x100 ≤ o ∧ o < 0x500 then
    if (o - 0x100) % 0x40 < 48 then (h.ms.toList.getD ((o - 0x100) / 0x40) 0).toNat / 2 ^ (8 * ((o - 0x100) % 0x40)) % 2 ^ 32 else 0
  else if 0x700 ≤ o ∧ o < 0x720 then h.nonce.toNat / 2 ^ (8 * (o - 0x700)) % 2 ^ 32
  else match o with
    | 0x0 => h.stage
    | 0x4 => h.err
    | 0x630 => h.extSlot + b2n h.extBusy * 2 ^ 9
    | 0x7A0 => b2n h.dbgBusy * 2 + h.dbgStatus * 2 ^ 16
    | _ => 0

/-- PWR registers (Table 20-14). -/
def PwrState.rd (p : PwrState) (o : Nat) : Nat :=
  match elem o 0x20 8 4 with
  | some k => mget p.currents k 0 % 2 ^ 16
  | none => match o with
    | 0x0 => p.reqState + p.reqClk * 16
    | 0x4 => p.curState + p.curClk * 16
    | 0x8 => p.capReq
    | 0xC => b2n p.thermEmergency + b2n p.prochotIn * 2 + b2n p.capClk.isSome * 4
    | 0x10 => p.p10ms % 2 ^ 16
    | _ => 0

/-- ERR registers (Table 20-15). -/
def State.rdErr (s : State) (o : Nat) : Nat :=
  let g := s.errGlobal
  let u := s.unitQueue s.sel.errUq
  if 0x20 ≤ o ∧ o < 0x40 then g.dataWord globalCap (o - 0x20)
  else if 0x60 ≤ o ∧ o < 0x80 then u.dataWord unitCap (o - 0x60)
  else match elem o 0x100 11 8 with
    | some i => mget s.errCnt i 0
    | none => match o with
      | 0x0 => g.tail
      | 0x4 => g.head
      | 0x8 => g.vec + g.vecFunc * 2 ^ 12 + b2n g.vecMask * 2 ^ 31
      | 0xC => g.lost
      | 0x40 => s.sel.errUq
      | 0x44 => u.tail
      | 0x48 => u.head
      | 0x4C => u.lost
      | _ => 0

/-! ## DBG, MGT, RAS (Table 20-16) -/

/-- DBG registers. -/
def State.rdDbg (s : State) (o : Nat) : Nat :=
  match elem o 0 171 4, elem o 0x400 10 8 with
  | some i, _ =>
    match mfind s.ras.traces i with
    | some b => b.mode + b2n b.full * 2 ^ 8 + b2n b.frozen * 2 ^ 9 + b.entries.length * 2 ^ 16
    | none => 0
  | _, some i => mget s.ras.fabFilter i 0
  | _, _ =>
    if 0x510 ≤ o ∧ o < 0x520 then
      match mfind s.ras.traces (bits s.sel.trace 7 0) with
      | some b => b.entries.getD (bits s.sel.trace 29 16) 0 / 2 ^ (8 * (o - 0x510)) % 2 ^ 32
      | none => 0
    else if o = 0x500 then s.sel.trace else 0

/-- MGT registers. -/
def MgtState.rd (m : MgtState) (o : Nat) : Nat :=
  match o with
  | 0x0 => m.uartDiv
  | 0x4 => match m.rx with
    | x :: _ => x.x.toNat + b2n x.fe * 2 ^ 8 + b2n x.brk * 2 ^ 9 + 2 ^ 31
    | [] => 0
  | 0x8 => b2n m.overrun + m.rx.length * 2 ^ 8 + m.tx.length * 2 ^ 16
  | 0xC => m.smbErr
  | 0x100 => m.fwAddr
  | 0x108 => m.fwLen
  | 0x10C => b2n m.fwConfirmMode * 8 + b2n m.fwBusy * 2 ^ 8 + m.fwStatus * 2 ^ 16
  | 0x300 => m.parAddr
  | 0x308 => m.parLen
  | 0x30C => b2n m.parKind * 2 + b2n m.parBusy * 2 ^ 8 + m.parStatus * 2 ^ 16
  | 0x310 => m.parOff
  | _ => 0

/-- RAS registers. -/
def RasState.rd (r : RasState) (o : Nat) : Nat :=
  match elem o 0x10 5 4 with
  | some w => ((List.range 32).map (fun k => if (mfind r.queued (w * 32 + k)).isSome then 2 ^ k else 0)).foldl (· + ·) 0
  | none => 0

/-! ## The spaces -/

/-- Where an access lands: window A, a user window, or the function page of a VF. -/
inductive Space where
  | a
  | win (w : Nat)
  | page (f : Nat)
  deriving DecidableEq, Repr

/-- A register of window A. -/
def State.rdA (s : State) (o : Nat) : Nat :=
  if 0x1000000 ≤ o then if o < 0x1000000 + 160 * 0x10000 then s.rdBead ((o - 0x1000000) / 0x10000) (o % 0x10000) else 0
  else
    let r := o % 0x10000
    match o / 0x10000 with
    | 0 => s.rdDev r
    | 1 => s.set.rd r
    | 2 => s.rdFrm r
    | 3 => s.rdSes r
    | 4 => s.rdClp r
    | 5 => s.rdMem r
    | 6 => s.rdBpm r
    | 7 => s.rdFil r
    | 8 => s.rdNet r
    | 9 => s.hmk.rd r
    | 0xA => s.pwr.rd r
    | 0xB => s.rdErr r
    | 0xC => s.rdDbg r
    | 0xD => s.mgt.rd r
    | 0xE => s.ras.rd r
    | _ => 0

/-- A register of a user window (Table 20-18). -/
def State.rdWin (s : State) (w o : Nat) : Nat :=
  let x := s.win w
  let u := (s.set.cur.winUnit w).getD 0xFFFF
  let top := s.set.cur.top u
  let q := s.unitQueue top
  if o < 0x1000 then s.rdCfg w o
  else if 0x5020 ≤ o ∧ o < 0x5040 then q.dataWord unitCap (o - 0x5020)
  else if 0x6100 ≤ o ∧ o < 0x6208 then
    match (s.set.cur.leaves u)[x.cntSel]? with
    | some p => (s.bead (s.posBead p)).perfSnap.rd (o - 0x6100)
    | none => 0
  else if 0x3100 ≤ o ∧ o < 0x3300 then
    let e := mget x.msix ((o - 0x3100) / 16) {}
    match o % 16 with
    | 0 => e.id + e.vector * 2 ^ 16 + b2n e.arm * 2 ^ 31
    | 4 => e.target
    | 8 => e.stCounter
    | 12 => b2n e.stErr
    | _ => 0
  else match elem o 0x4100 32 4, elem o 0x4180 32 4, elem o 0x6400 64 8 with
    | some k, _, _ => (((s.set.cur.ownPools top)[k]?).map s.freeIn).getD 0
    | _, some k, _ => (((s.set.cur.ownPools top)[k]?).map (fun p => s.countIn p .quarantine)).getD 0
    | _, _, some k =>
      match (((List.range s.set.cur.guars.length).zip s.set.cur.guars).filter (fun (p : Nat × GuarRec) => p.2.uid == top))[k]? with
      | some p => mget s.mem.meterSnap p.1 0
      | none => 0
    | _, _, _ =>
      match o with
      | 0x1000 => (s.unitSt u).slicePtr
      | 0x1008 => (s.unitSt u).slip / 1000 % 2 ^ 32
      | 0x1010 => s.frm.count
      | 0x1018 => s.frm.len
      | 0x2000 => x.sqTail
      | 0x2004 => x.sqHead
      | 0x2008 => x.cqBase
      | 0x2010 => x.cqEntries
      | 0x2014 => x.cqHead
      | 0x2018 => x.cqVec + b2n x.cqMask * 2 ^ 31
      | 0x201C => x.laneBytes
      | 0x3008 => x.notifyBase
      | 0x3010 => x.peekId
      | 0x3018 => if (List.range 4).any (fun k => s.set.cur.right u x.peekId k) then mget s.claspSnap x.peekId 0 else 0
      | 0x4008 => x.allocRes.allocNat
      | 0x4018 => x.freeRes.freeNat
      | 0x5000 => q.tail
      | 0x5004 => q.head
      | 0x5008 => q.vec + b2n q.vecMask * 2 ^ 31
      | 0x500C => q.lost
      | 0x6000 => x.cntSel
      | _ => 0

/-- Is the register at an offset that is a multiple of 8 a 64-bit one (Table 20-2 to Table 20-18)? -/
def wideA (o : Nat) : Bool :=
  if 0x1000000 ≤ o then decide (o < 0x1000000 + 160 * 0x10000) && beadWide (o % 0x10000)
  else
    let r := o % 0x10000
    match o / 0x10000 with
    | 0 => r == 0x8 || r == 0x48
    | 1 => r == 0 || r == 0x18
    | 2 => r == 0 || r == 0x18 || r == 0x28
    | 4 => r == 0 || r == 8 || r == 0x18
    | 5 => (elem r 0 16 8).isSome || (elem r 0x200 16 8).isSome || (elem r 0x300 16 8).isSome || (elem r 0x400 16 8).isSome ||
        (elem r 0x500 16 8).isSome || (elem r 0x600 16 8).isSome || r == 0x708
    | 6 => r == 0 || r == 8 || r == 0x10 || r == 0x20 || r == 0x28
    | 7 => (elem r 0x40 14 8).isSome || (elem r 0x100 14 8).isSome || (elem r 0x180 20 8).isSome || (elem r 0x400 112 8).isSome || (elem r 0x800 256 8).isSome
    | 8 => (elem r 0x40 8 8).isSome || (elem r 0x100 32 8).isSome || (elem r 0x200 32 8).isSome || (elem r 0x300 32 8).isSome ||
        (elem r 0x400 32 8).isSome || r == 0x508 || r == 0x510 || (elem r 0x608 4 8).isSome || (elem r 0x800 256 8).isSome
    | 0xB => (elem r 0x100 11 8).isSome
    | 0xC => (elem r 0x400 10 8).isSome
    | 0xD => r == 0x100 || r == 0x300
    | _ => false

/-- The same of a user window. -/
def wideWin (o : Nat) : Bool :=
  o == 0x1000 || o == 0x1010 || o == 0x2008 || o == 0x3000 || o == 0x3008 || o == 0x3018 || o == 0x4000 || o == 0x4008 || o == 0x4010 ||
    (elem o 0x6100 33 8).isSome || (elem o 0x6400 64 8).isSome

/-- The 64-bit register that holds the word at an offset, by its low half. MGT_SMB_ERR is a pair that is not aligned. -/
def Space.pair (p : Space) (o : Nat) : Option Nat :=
  let b := o / 8 * 8
  match p with
  | .a => if o = 0xD000C ∨ o = 0xD0010 then some 0xD000C else if wideA b then some b else none
  | .win _ => if wideWin b then some b else none
  | .page _ => none

/-- A register by the offset of its low word. -/
def State.rdReg (s : State) (p : Space) (o : Nat) : Nat :=
  match p with
  | .a => s.rdA o
  | .win w => s.rdWin w o
  | .page f => (s.fn f).mbox.rd o

end Sys2Proof.Machine
end

