-- ==== Sys2Proof/Machine/RegWrite.lean ====
section
/-! DEFINITION. What a write does to each register (chapter 20). A write to a register that is read only, or to an offset that
no map lists, is ignored (R631). -/

namespace Sys2Proof.Machine

/-! ## Numbers with a replaced range -/

/-- `n` with the `w` bits from `lo` replaced. -/
def putBits (n lo w v : Nat) : Nat := n % 2 ^ lo + v % 2 ^ w * 2 ^ lo + n / 2 ^ (lo + w) * 2 ^ (lo + w)

/-- A byte list of length `n` with the bytes at an offset replaced. -/
def putBytesAt (n : Nat) (bs : List Byte) (o : Nat) (d : List Byte) : List Byte :=
  let full := bs ++ List.replicate (n - bs.length) 0
  setBytes full o d

/-! ## The mailbox (R564) -/

/-- The vectors a function may use. -/
def State.vecOk (s : State) (w v : Nat) : Bool :=
  decide (v < (s.win w).vecLimit) && (match s.winFn w with
    | some f => decide (v < msixTable f)
    | none => true)

/-- A write of a mailbox register of function `f`. -/
def State.wrMbox (s : State) (f o x : Nat) : State :=
  if o < 0x40 then s.updFn f (fun y => { y with mbox := { y.mbox with req := BitVec.ofNat 512 (putBits y.mbox.req.toNat (8 * o) 32 x) } })
  else if o = 0x80 then
    let s := s.updFn f (fun y => { y with mbox := { y.mbox with irqEn := bit x 3 } })
    if !bit x 0 then s
    else if (s.fn f).mbox.busy then s.count cntDoorbell
    else s.updFn f (fun y => { y with mbox := { y.mbox with busy := true, done := false, next := none } })
  else if o = 0x84 then
    if bits x 10 0 < msixTable f then s.updFn f (fun y => { y with mbox := { y.mbox with vec := bits x 10 0 } }) else s.count cntDoorbell
  else s

/-! ## Error queues (R619, R640) -/

/-- Does a queue's head accept a value: one that is not beyond the tail? -/
def ErrQueue.headOk (q : ErrQueue) (x : Nat) : Bool := decide (ahead q.tail (x % 2 ^ 32) ≤ q.held)

/-- The global queue's head. -/
def State.setHeadG (s : State) (x : Nat) : State :=
  if s.errGlobal.headOk x then { s with errGlobal := { s.errGlobal with head := x % 2 ^ 32 } } else s.regacc

/-- A unit queue's head. -/
def State.setHeadU (s : State) (u x : Nat) : State :=
  if !s.set.cur.isTop u then s
  else if (s.unitQueue u).headOk x then { s with errUnit := mput s.errUnit u { s.unitQueue u with head := x % 2 ^ 32 } }
  else s.regacc

/-- Changes a unit queue. -/
def State.updQueue (s : State) (u : Nat) (f : ErrQueue → ErrQueue) : State :=
  if s.set.cur.isTop u then { s with errUnit := mput s.errUnit u (f (s.unitQueue u)) } else s

/-! ## Windows (R551, R554) -/

/-- Does a DEV_UWIN_FUNC value give a VF a slot that another window holds, or name no VF? -/
def State.uwinBad (s : State) (w x : Nat) : Bool :=
  bits x 1 0 == 3 && (bits x 8 3 == 0 || decide (32 < bits x 8 3) || s.wins.any (fun p => p.1 != w && p.2.func / 4 == x % 4096 / 4 && p.2.func % 4 == 3))

/-- A write of DEV_UWIN_FUNC: a change resets the window. -/
def State.wrUwinFunc (s : State) (w x : Nat) : State :=
  let x := x % 4096
  if s.uwinBad w x then s.regacc
  else if (s.win w).func = x then s
  else (s.resetWindow w).updWin w (fun y => { y with func := x })

/-- Aperture of window C of a function, bytes (Table 17-2). -/
def State.aperture (s : State) (f : Nat) : Nat :=
  let l := (s.fn f).winCLog
  if l ≠ 0 then 2 ^ l else if f % 33 = 0 then 64 * 2 ^ 30 else 4 * 2 ^ 30

/-- A write of DEV_WINC_BASE. -/
def State.wrWinC (s : State) (x : Nat) : State :=
  let f := s.sel.winC / 64 * 33 + s.sel.winC % 64
  if x % s.aperture f = 0 then s.updFn f (fun y => { y with winCBase := x }) else s.regacc

/-! ## Blocks of window A -/

/-- The configuration page, written by the privileged view. -/
def State.wrCfg (s : State) (w o x : Nat) : State :=
  if o = 0xC then s.updWin w (fun y => { y with vecLimit := bits x 11 0 }) else s

/-- DEV. -/
def State.wrDev (s : State) (o x : Nat) : State :=
  if 0x1000 ≤ o ∧ o < 0x2000 then s.wrCfg s.sel.uwin (o - 0x1000) x
  else if 0x800 ≤ o ∧ o < 0x888 then s.wrMbox 0 (o - 0x800) x
  else if 0x900 ≤ o ∧ o < 0x988 then s.wrMbox 33 (o - 0x900) x
  else match elem o 0x100 256 4 with
    | some w => s.wrUwinFunc w x
    | none => match o with
      | 0x40 => { s with sel := { s.sel with uwin := bits x 7 0 } }
      | 0x44 => if 32 < bits x 5 0 then s.regacc else { s with sel := { s.sel with winC := bits x 6 0 } }
      | 0x48 => s.wrWinC x
      | _ => s

/-- SET. -/
def State.wrSet (s : State) (o x : Nat) : State :=
  match o with
  | 0x0 => { s with set := { s.set with loadAddr := x } }
  | 0x8 => { s with set := { s.set with loadLen := x } }
  | 0xC => s.loadGo x
  | 0x10 => if bit x 2 then { s with set := { s.set with refused := false } } else s
  | _ => s

/-- Sets the slice pointer of a unit that runs slices (R379). -/
def State.setPtr (s : State) (u x : Nat) : State := if s.set.cur.runs u then s.updUnit u (fun y => { y with slicePtr := x }) else s

/-- FRM. -/
def State.wrFrm (s : State) (o x : Nat) : State :=
  match o with
  | 0x18 => { s with frm := { s.frm with fsyncExtra := x } }
  | 0x20 => { s with sel := { s.sel with frmUnit := bits x 15 0 } }
  | 0x28 => if s.set.cur.runs s.sel.frmUnit then s.setPtr s.sel.frmUnit x else s.regacc
  | _ => s

/-- SES. -/
def State.wrSes (s : State) (o x : Nat) : State :=
  match o with
  | 0x0 => { s with sel := { s.sel with sesIdx := bits x 20 0 } }
  | 0x4 => s.entRead x
  | _ => s

/-- CLP. -/
def State.wrClp (s : State) (v : Via) (o x : Nat) : State :=
  match o with
  | 0x0 => s.clpOp v x
  | 0x8 => if x % 4096 = 0 then { s with sel := { s.sel with clpNotify := x } } else s.regacc
  | 0x10 => { s with sel := { s.sel with clpPeek := bits x 15 0 } }
  | _ => s

/-- BPM. -/
def State.wrBpm (s : State) (o x : Nat) : State :=
  match o with
  | 0x0 => s.bpmAllocReg none x
  | 0x10 => s.bpmFreeReg none x
  | 0x20 => { s with bpm := { s.bpm with retired := x } }
  | 0x28 => { s with bpm := { s.bpm with errCount := x } }
  | 0x30 => { s with sel := { s.sel with bpmPool := bits x 15 0 } }
  | _ => s

/-- MEM: counters and the meter's selector. -/
def State.wrMem (s : State) (o x : Nat) : State :=
  match elem o 0x200 16 8, elem o 0x300 16 8, elem o 0x400 16 8, elem o 0x500 16 8, elem o 0x600 8 8, elem o 0x640 8 8 with
  | some k, _, _, _, _, _ => { s with mem := { s.mem with ce := mput s.mem.ce k x } }
  | _, some k, _, _, _, _ => { s with mem := { s.mem with ue := mput s.mem.ue k x } }
  | _, _, some k, _, _, _ => { s with mem := { s.mem with scrubBytes := mput s.mem.scrubBytes k x } }
  | _, _, _, some k, _, _ => { s with mem := { s.mem with refreshNs := mput s.mem.refreshNs k x } }
  | _, _, _, _, some k, _ => { s with mem := { s.mem with vaultHit := mput s.mem.vaultHit k x } }
  | _, _, _, _, _, some k => { s with mem := { s.mem with vaultMiss := mput s.mem.vaultMiss k x } }
  | _, _, _, _, _, _ =>
    if o = 0x700 then { s with sel := { s.sel with meter := bits x 15 0 + bits x 17 16 * 2 ^ 16 + bits x 27 20 * 2 ^ 20 } } else s

/-- FIL: counters. -/
def State.wrFil (s : State) (o x : Nat) : State :=
  match elem o 0x100 14 8, elem o 0x180 10 8, elem o 0x1D0 10 8, elem o 0x400 112 8, elem o 0x800 256 8 with
  | some l, _, _, _, _ => { s with fil := { s.fil with replayCnt := mput s.fil.replayCnt l x } }
  | _, some d, _, _, _ => { s with fil := { s.fil with abandonCnt := mput s.fil.abandonCnt d x } }
  | _, _, some d, _, _ => { s with fil := { s.fil with badHeader := mput s.fil.badHeader d x } }
  | _, _, _, some i, _ => { s with fil := { s.fil with slots := mput s.fil.slots i x } }
  | _, _, _, _, some i => { s with filFi := mput s.filFi i x }
  | _, _, _, _, _ => s

/-- NET_ADDR_CMD (R638): the stage to the entry, or the entry to the stage. -/
def State.addrCmd (s : State) (x : Nat) : State :=
  let k := s.sel.netAddr
  let s := if bit x 0 then { s with net := { s.net with addrTable := mput s.net.addrTable k (putBytesAt 32 s.net.addrStage 0 []) } } else s
  if bit x 1 then { s with net := { s.net with addrStage := mget s.net.addrTable k (List.replicate 32 0) } } else s

/-- NET. -/
def State.wrNet (s : State) (o x : Nat) : State :=
  if 0x540 ≤ o ∧ o < 0x560 then { s with net := { s.net with addrStage := putBytesAt 32 s.net.addrStage (o - 0x540) (leBytes 4 x) } }
  else match elem o 0x40 8 8, elem o 0x100 32 8, elem o 0x200 32 8, elem o 0x300 32 8, elem o 0x400 32 8, elem o 0x800 256 8 with
    | some k, _, _, _, _, _ => s.updPort k (fun y => { y with err := x })
    | _, some p, _, _, _, _ => { s with net := { s.net with pathTx := mput s.net.pathTx p x } }
    | _, _, some p, _, _, _ => { s with net := { s.net with pathResend := mput s.net.pathResend p x } }
    | _, _, _, some p, _, _ => { s with net := { s.net with pathEce := mput s.net.pathEce p x } }
    | _, _, _, _, some p, _ => { s with net := { s.net with pathPfc := mput s.net.pathPfc p x } }
    | _, _, _, _, _, some i => { s with netFi := mput s.netFi i x }
    | _, _, _, _, _, _ =>
      match o with
      | 0x520 => { s with sel := { s.sel with netAddr := bits x 12 0 } }
      | 0x524 => s.addrCmd x
      | 0x600 => { s with sel := { s.sel with netPeer := x } }
      | _ => s

/-- HMK. -/
def State.wrHmk (s : State) (o x : Nat) : State :=
  if 0x600 ≤ o ∧ o < 0x630 then
    { s with hmk := { s.hmk with extData := BitVec.ofNat 384 (putBits s.hmk.extData.toNat (8 * (o - 0x600)) 32 x) } }
  else if 0x740 ≤ o ∧ o < 0x7A0 then
    { s with hmk := { s.hmk with dbgResp := BitVec.ofNat 768 (putBits s.hmk.dbgResp.toNat (8 * (o - 0x740)) 32 x) } }
  else match o with
    | 0x630 => s.extCtrl x
    | 0x7A0 => s.dbgCtrl x
    | _ => s

/-- PWR. -/
def State.wrPwr (s : State) (o x : Nat) : State :=
  match o with
  | 0x0 => s.pwrReq x
  | 0x8 => s.pwrCap x
  | _ => s

/-- ERR. -/
def State.wrErr (s : State) (o x : Nat) : State :=
  match elem o 0x100 11 8 with
  | some i => { s with errCnt := mput s.errCnt i x }
  | none => match o with
    | 0x4 => s.setHeadG x
    | 0x8 =>
      if 1 < bits x 13 12 then s
      else { s with errGlobal := { s.errGlobal with vec := bits x 10 0, vecFunc := bits x 13 12, vecMask := bit x 31 } }
    | 0xC => { s with errGlobal := { s.errGlobal with lost := x } }
    | 0x40 => { s with sel := { s.sel with errUq := bits x 15 0 } }
    | 0x48 => s.setHeadU s.sel.errUq x
    | 0x4C => s.updQueue s.sel.errUq (fun q => { q with lost := x })
    | _ => s

/-- A trace buffer's mode (R627): leaving OFF clears it. -/
def TraceBuf.setMode (b : TraceBuf) (m : Nat) : TraceBuf := if b.mode = 0 ∧ m ≠ 0 then { mode := m } else { b with mode := m }

/-- DBG. -/
def State.wrDbg (s : State) (o x : Nat) : State :=
  match elem o 0 171 4, elem o 0x400 10 8 with
  | some i, _ => { s with ras := { s.ras with traces := mupd s.ras.traces i {} (fun b => b.setMode (bits x 1 0)) } }
  | _, some i => { s with ras := { s.ras with fabFilter := mput s.ras.fabFilter i x } }
  | _, _ => if o = 0x500 then { s with sel := { s.sel with trace := bits x 7 0 + bits x 29 16 * 2 ^ 16 } } else s

/-- Sends a byte on the console (R571). -/
def State.uartSend (s : State) (x : Nat) : State := s.emit (.uart (BitVec.ofNat 8 x))

/-- MGT. -/
def State.wrMgt (s : State) (o x : Nat) : State :=
  match o with
  | 0x0 => if bits x 19 0 < 133 ∨ 41667 < bits x 19 0 then s.regacc else { s with mgt := { s.mgt with uartDiv := bits x 19 0 } }
  | 0x4 => s.uartSend x
  | 0x8 => if bit x 0 then { s with mgt := { s.mgt with overrun := false } } else s
  | 0xC => { s with mgt := { s.mgt with smbErr := x } }
  | 0x100 => { s with mgt := { s.mgt with fwAddr := x } }
  | 0x108 => { s with mgt := { s.mgt with fwLen := x } }
  | 0x10C => s.fwupCtrl x
  | 0x200 => s.mgtResetReg x {}
  | 0x300 => { s with mgt := { s.mgt with parAddr := x } }
  | 0x308 => { s with mgt := { s.mgt with parLen := x } }
  | 0x30C => s.paramCtrl x
  | 0x310 => { s with mgt := { s.mgt with parOff := x } }
  | _ => s

/-! ## Beads (R408, R642, R629) -/

/-- A write of BEAD_PREEMPT. -/
def State.wrPreempt (s : State) (b x : Nat) : State :=
  let y := s.bead b
  let s1 := y.pos.any (fun p => s.set.cur.s1 (s.set.cur.top p))
  let stopped := y.phase == .preempted
  if (bit x 0 || bit x 1) && (!s1 || (bit x 1 && !stopped) || (bit x 0 && stopped)) then s.regacc
  else
    let s := s.updBead b (fun y => { y with preemptArea := bits x 22 8 })
    if bit x 1 then s.preemptBack b
    else if bit x 0 && y.phase == .running then s.updBead b (fun y => { y with phase := .preempting })
    else s

/-- Sets a performance counter, by offset from 0x8100. -/
def BeadPerf.wr (p : BeadPerf) (o x : Nat) : BeadPerf :=
  match elem o 0 16 8 with
  | some i => { p with facet := mput p.facet i x }
  | none => match elem o 0x80 5 8 with
    | some i => { p with gme := mput p.gme i x }
    | none => match elem o 0xC0 5 8 with
      | some i => { p with stall := mput p.stall i x }
      | none => if o = 0x100 then { p with nan := x } else p

/-- A register of a per-bead block. -/
def State.wrBead (s : State) (b o x : Nat) : State :=
  if o = 8 then s.wrPreempt b x
  else if o = 0x8000 then s.updBead b (fun y => { y with debugReq := bit x 0 })
  else if 0x8100 ≤ o ∧ o < 0x8208 then s.updBead b (fun y => { y with perf := y.perf.wr (o - 0x8100) x })
  else s

/-- A register of window A. -/
def State.wrA (s : State) (v : Via) (o x : Nat) : State :=
  if 0x1000000 ≤ o then if o < 0x1000000 + 160 * 0x10000 then s.wrBead ((o - 0x1000000) / 0x10000) (o % 0x10000) x else s
  else
    let r := o % 0x10000
    match o / 0x10000 with
    | 0 => s.wrDev r x
    | 1 => s.wrSet r x
    | 2 => s.wrFrm r x
    | 3 => s.wrSes r x
    | 4 => s.wrClp v r x
    | 5 => s.wrMem r x
    | 6 => s.wrBpm r x
    | 7 => s.wrFil r x
    | 8 => s.wrNet r x
    | 9 => s.wrHmk r x
    | 0xA => s.wrPwr r x
    | 0xB => s.wrErr r x
    | 0xC => s.wrDbg r x
    | 0xD => s.wrMgt r x
    | 0xE => if r = 0 then s.stReq x else s
    | _ => s

/-! ## User windows (Tables 20-18, 20-19) -/

/-- CLP_MSIX word 0 of an entry (R483, R561, R643). -/
def State.wrMsix (s : State) (w k x : Nat) : State :=
  let e := mget (s.win w).msix k {}
  let id := bits x 15 0
  let vec := bits x 26 16
  let put := fun (s : State) (e : MsixEntry) => s.updWin w (fun y => { y with msix := mput y.msix k e })
  if e.arm then
    if bit x 31 then s.regacc
    else
      let s := put s { e with arm := false }
      if id = e.id ∧ vec = e.vector then s else s.regacc
  else if !s.vecOk w vec then s.count cntDoorbell
  else if !bit x 31 then put s { e with id, vector := vec }
  else
    let who := ClaspAgent.notify (some w) 0
    let flag := ((s.set.cur.clasp? id).map (·.msix)).getD false
    if !flag || !s.mayClasp who id 1 then s.refuseClasp who id
    else (put s { e with id, vector := vec, arm := true }).fireEntry w k

/-- SES_CQ_BASE and SES_CQ_ENTRIES may be written only while the completion ring is empty (R644). -/
def State.wrCq (s : State) (w : Nat) (ok : Bool) (f : UserWin → UserWin) : State :=
  if !ok || (s.win w).cqHead != (s.win w).cqTail then s.regacc else ((s.updWin w f).pump w).drainSq w

/-- Is a number of completion entries legal? -/
def cqEntriesOk (x : Nat) : Bool := x == 0 || (List.range 13).any (fun k => x == 2 ^ (k + 4))

/-- A register of a user window. -/
def State.wrWin (s : State) (v : Via) (w o x : Nat) : State :=
  let u := (s.set.cur.winUnit w).getD 0xFFFF
  let top := s.set.cur.top u
  if 0x8000 ≤ o ∧ o < 0xC000 then s.updWin w (fun y => { y with sq := mput y.sq ((o - 0x8000) / 4) x })
  else if 0x3100 ≤ o ∧ o < 0x3300 then
    let k := (o - 0x3100) / 16
    let e := mget (s.win w).msix k {}
    match o % 16 with
    | 0 => s.wrMsix w k x
    | 4 => if e.arm then s.regacc else s.updWin w (fun y => { y with msix := mput y.msix k { e with target := x } })
    | _ => s
  else
    match o with
    | 0x1000 => s.setPtr u x
    | 0x2000 => s.sqTail w x
    | 0x2008 => s.wrCq w (x % 4096 == 0) (fun y => { y with cqBase := x })
    | 0x2010 => s.wrCq w (cqEntriesOk x) (fun y => { y with cqEntries := x })
    | 0x2014 => s.cqHead w x
    | 0x2018 => if s.vecOk w (bits x 10 0) then s.updWin w (fun y => { y with cqVec := bits x 10 0, cqMask := bit x 31 }) else s.count cntDoorbell
    | 0x201C =>
      if x % 128 = 0 ∧ 128 ≤ x ∧ x ≤ 1048576 then s.updWin w (fun y => { y with laneBytes := x }) else s.regacc
    | 0x3000 => s.clpOp v x
    | 0x3008 => if x % 4096 = 0 then s.updWin w (fun y => { y with notifyBase := x }) else s.regacc
    | 0x3010 => s.updWin w (fun y => { y with peekId := bits x 15 0 })
    | 0x4000 => s.bpmAllocReg (some w) x
    | 0x4010 => s.bpmFreeReg (some w) x
    | 0x5004 => s.setHeadU top x
    | 0x5008 => s.updQueue top (fun q => { q with vec := bits x 10 0, vecMask := bit x 31 })
    | 0x500C => s.updQueue top (fun q => { q with lost := x })
    | 0x6000 => s.updWin w (fun y => { y with cntSel := bits x 11 0 })
    | _ => s

/-- A register by the offset of its low word; a 64-bit register takes its whole value. -/
def State.wrReg (s : State) (v : Via) (p : Space) (o x : Nat) : State :=
  match p with
  | .a => s.wrA v o x
  | .win w => s.wrWin v w o x
  | .page f => s.wrMbox f o x

end Sys2Proof.Machine
end

