-- ==== Sys2Proof/Machine/Registers.lean ====
section
/-! DEFINITION. Register accesses (R548, R552, R557, R558, R567, R630 to R633): who reaches what, widths and halves, and the
commands that are register accesses. -/

namespace Sys2Proof.Machine

/-! ## Who reaches what -/

/-- What meets an access before it reaches a register. -/
inductive Gate where
  | ok (p : Space)
  /-- Reads zero and writes nothing, counted or not. -/
  | zero (cnt : Option Nat)
  /-- Unsupported Request, counted or not. -/
  | ur (cnt : Option Nat)
  /-- Access fault of a host core. -/
  | fault (c : Nat)
  deriving DecidableEq, Repr

/-- Does the device serve only the boot-time blocks (R548, R595, R633)? -/
def State.notUp (s : State) : Bool := !s.dev.ready || s.dev.limited || s.dev.bootFailed

/-- Window A: the blocks that answer now. -/
def State.gateA (s : State) (off : Nat) : Gate :=
  if 0x4000000 ≤ off then .ur none
  else if !s.notUp then .ok .a
  else
    let blk := off / 0x10000
    if blk = 0 ∨ blk = 9 ∨ ((blk = 1 ∨ blk = 0xD) ∧ !s.dev.bootFailed) then .ok .a else .zero none

/-- The configuration page from the unprivileged view: reads of its shown fields pass, all else is denied (R558, R643). -/
def gateCfg (w off : Nat) (wr : Bool) : Gate := if wr || decide (0xC ≤ off ∧ off < 0x10) then .zero (some cntPriv) else .ok (.win w)

/-- A register access on its way (Table 17-2, R551 to R553). -/
def State.gate (s : State) (v : Via) (off : Nat) (wr : Bool) : Gate :=
  match v with
  | .pf _ => s.gateA off
  | .mgmt => s.gateA off
  | .jtag => if s.dev.debugUnlocked then s.gateA off else .zero none
  | .coreA c => .fault c
  | .func f w =>
    if s.notUp then .ur none
    else if w = 256 then if f % 33 = 0 ∨ 0x80000 ≤ off then .ur none else .ok (.page f)
    else if 0x10000 ≤ off ∨ 256 < w then .ur none
    else if s.winFn w ≠ some f then .ur (some cntUnbound)
    else if (s.set.cur.svcOfWin w).isNone then .zero (some cntUnbound)
    else if off < 0x1000 then gateCfg w off wr
    else .ok (.win w)
  | .core c w =>
    if s.notUp ∨ s.ras.haltedCores.contains c ∨ 0x10000 ≤ off ∨ !(s.set.cur.svcOfWin w).any (fun v => bit v.hostCores c) then .fault c
    else if off < 0x1000 then gateCfg w off wr
    else .ok (.win w)

/-- The PCIe function of an access. -/
def viaFn : Via → Option Nat
  | .pf hub => some (hub * 33)
  | .func f _ => some f
  | _ => none

/-- The host core of an access. -/
def viaCore : Via → Option Nat
  | .core c _ => some c
  | .coreA c => some c
  | _ => none

/-- Counts a refused access. -/
def State.countOpt (s : State) (c : Option Nat) : State :=
  match c with
  | some i => s.count i
  | none => s

/-- How a read or write that is not carried out ends: in Unsupported Request (`ca` false) or Completer Abort; in an access
fault for a host core. -/
def State.answerBad (s : State) (v : Via) (ca : Bool) : State :=
  match viaFn v, viaCore v with
  | some f, _ => s.emit (.completion f (!ca) ca false)
  | none, some c => s.emit (.coreFault c none)
  | none, none => s

/-! ## Requesters and halves (Table 17-3) -/

/-- The requester that a held or captured half belongs to: the function, the core, the controller or the debug port. -/
def requester : Via → Via
  | .pf hub => .func (hub * 33) 0
  | .func f _ => .func f 0
  | .core c _ => .core c 0
  | v => v

/-- A register's number for the halves. -/
def Space.key (p : Space) (o : Nat) : Nat :=
  match p with
  | .a => o
  | .win w => 2 ^ 28 + w * 2 ^ 16 + o
  | .page f => 2 ^ 30 + f * 2 ^ 16 + o

/-- The halves of a requester. -/
def State.halvesOf (s : State) (v : Via) : Halves := (s.halves.find? (fun h => h.via == requester v)).getD { via := requester v }

/-- Sets the halves of a requester. -/
def State.setHalves (s : State) (h : Halves) : State := { s with halves := h :: s.halves.filter (fun x => x.via != h.via) }

/-- Does an access cover whole words, or lie inside one word? -/
def wordsOk (off len : Nat) : Bool := decide (0 < len) && (off % 4 == 0 && len % 4 == 0 || decide (off / 4 = (off + len - 1) / 4))

/-- Does an access of more than one word cut a 64-bit register at its start or end? -/
def Space.cuts (p : Space) (off len : Nat) : Bool :=
  decide (4 < len) && ((p.pair off).any (fun b => b != off) || (p.pair (off + len - 4)).any (fun b => b == off + len - 4))

/-! ## Reads -/

/-- Side effects that come before a read: a new nonce (R601, R632). -/
def State.rdBefore (s : State) (p : Space) (o : Nat) : State := if p = .a ∧ o = 0x90700 then s.newNonce else s

/-- Side effects that follow a read: the byte leaves the receive FIFO (R632). -/
def State.rdAfter (s : State) (p : Space) (o : Nat) : State :=
  if p = .a ∧ o = 0xD0004 then { s with mgt := { s.mgt with rx := s.mgt.rx.drop 1 } } else s

/-- One word of a register, with capture when the access is of 4 bytes. -/
def State.rdWord (s : State) (v : Via) (p : Space) (o : Nat) (four : Bool) : State × Nat :=
  let s := s.rdBefore p o
  match p.pair o with
  | none => (s.rdAfter p o, s.rdReg p o % 2 ^ 32)
  | some b =>
    let x := s.rdReg p b
    let h := s.halvesOf v
    let k := p.key b
    if o = b then
      (if four then s.setHalves { h with captured := mput h.captured k (x / 2 ^ 32 % 2 ^ 32) } else s, x % 2 ^ 32)
    else
      match mfind h.captured k with
      | some c => if four then (s.setHalves { h with captured := mdel h.captured k }, c) else (s, x / 2 ^ 32 % 2 ^ 32)
      | none => (s, x / 2 ^ 32 % 2 ^ 32)

/-- Words in ascending order. -/
def State.rdWords (s : State) (v : Via) (p : Space) : List Nat → Bool → State × List Byte
  | [], _ => (s, [])
  | o :: os, four =>
    let (s, x) := s.rdWord v p o four
    let (s, bs) := s.rdWords v p os four
    (s, leBytes 4 x ++ bs)

/-- A register read of `len` bytes. -/
def State.regRead (s : State) (v : Via) (off len : Nat) : State :=
  match s.gate v off false with
  | .ur c => (s.countOpt c).answerBad v false
  | .fault c => s.emit (.coreFault c none)
  | .zero c => (s.countOpt c).emit (.readData v (List.replicate len 0) false)
  | .ok p =>
    if !wordsOk off len || p.cuts off len then s.answerBad v true
    else
      let first := off / 4 * 4
      let (s, bs) := s.rdWords v p ((List.range (ceilDiv len 4)).map (fun i => first + 4 * i)) (decide (len ≤ 4))
      s.emit (.readData v ((bs.drop (off % 4)).take len) false)

/-! ## Writes -/

/-- Is a write one that needs a negotiated ABI version (R567)? -/
def needsAbi (p : Space) (o x : Nat) : Bool :=
  match p with
  | .a => o == 0x40000 || o == 0x60000 || o == 0x60010
  | .win _ => o == 0x1000 || o == 0x2000 || o == 0x3000 || o == 0x4000 || o == 0x4010 || (decide (0x3100 ≤ o ∧ o < 0x3300) && o % 16 == 0 && bit x 31)
  | .page _ => false

/-- A whole register takes its value, unless the function that writes has not negotiated. -/
def State.put (s : State) (v : Via) (p : Space) (o x : Nat) : State :=
  match viaFn v with
  | some f => if needsAbi p o x && (s.fn f).abi == 0 then s.count cntAbiUnset else s.wrReg v p o x
  | none => s.wrReg v p o x

/-- The half of a 64-bit register that a requester holds goes. -/
def State.dropHeld (s : State) (v : Via) : State :=
  match (s.halvesOf v).held with
  | none => s
  | some _ => s.setHalves { s.halvesOf v with held := none }

/-- Is a register CLP_OP, which takes no narrower store (R477)? -/
def isClpOp (p : Space) (b : Nat) : Bool :=
  match p with
  | .a => b == 0x40000
  | .win _ => b == 0x3000
  | .page _ => false

/-- A 4-byte write of one half of a 64-bit register: the low half is held, the high half applies both; without a held low
half the low half keeps its value. -/
def State.putHalf (s : State) (v : Via) (p : Space) (b o x : Nat) : State :=
  if isClpOp p b then (s.dropHeld v).regacc
  else if o = b then (s.dropHeld v).setHalves { s.halvesOf v with held := some (p.key b, x) }
  else
    let low := match (s.halvesOf v).held with
      | some (k, y) => if k = p.key b then y else s.rdReg p b % 2 ^ 32
      | none => s.rdReg p b % 2 ^ 32
    (s.dropHeld v).put v p b (low + x * 2 ^ 32)

/-- Words in ascending order, the two of a 64-bit register together. -/
def State.putWords (s : State) (v : Via) (p : Space) : List (Nat × Nat) → State
  | [] => s
  | [(o, x)] => s.put v p o x
  | (o, x) :: (o2, y) :: t =>
    if p.pair o = some o then (s.put v p o (x + y * 2 ^ 32)).putWords v p t
    else (s.put v p o x).putWords v p ((o2, y) :: t)

/-- Is a register byte-writable (R632)? -/
def byteWritable (p : Space) (o : Nat) : Bool :=
  match p with
  | .a => o == 0xD0004 || decide (0x800 ≤ o ∧ o < 0x840) || decide (0x900 ≤ o ∧ o < 0x940)
  | .win _ => false
  | .page _ => decide (o < 0x40)

/-- A register write. -/
def State.regWrite (s : State) (v : Via) (off : Nat) (bytes : List Byte) : State :=
  let len := bytes.length
  match s.gate v off true with
  | .ur c => (s.countOpt c).answerBad v false
  | .fault c => s.emit (.coreFault c none)
  | .zero c => s.countOpt c
  | .ok p =>
    if !wordsOk off len || p.cuts off len then s.answerBad v true
    else if len < 4 then
      let o := off / 4 * 4
      let s := s.dropHeld v
      if byteWritable p o then
        if p = .a ∧ o = 0xD0004 then if off % 4 = 0 then s.put v p o (leNat (bytes.take 1)) else s
        else s.put v p o (leNat (setBytes (leBytes 4 (s.rdReg p o)) (off % 4) bytes))
      else s.regacc
    else
      match p.pair off with
      | some b => if len = 4 then s.putHalf v p b off (leNat bytes)
        else (s.dropHeld v).putWords v p ((List.range (len / 4)).map (fun i => (off + 4 * i, leNat ((bytes.drop (4 * i)).take 4))))
      | none => (s.dropHeld v).putWords v p ((List.range (len / 4)).map (fun i => (off + 4 * i, leNat ((bytes.drop (4 * i)).take 4))))

/-! ## The commands that are register accesses

A command for a register of window A acts for the views that reach window A; a command for a register of the user window acts
in the window of its view. -/

/-- A write of `n` bytes to a register of window A. -/
def State.writeA (s : State) (v : Via) (off n x : Nat) : State :=
  match v with
  | .func _ _ => s
  | .core _ _ => s
  | _ => s.regWrite v off (leBytes n x)

/-- A write of `n` bytes to a register of the view's user window. -/
def State.writeW (s : State) (v : Via) (off n x : Nat) : State :=
  match v with
  | .func _ _ => s.regWrite v off (leBytes n x)
  | .core _ _ => s.regWrite v off (leBytes n x)
  | _ => s

/-- A write to a register that both views have. -/
def State.writeAW (s : State) (v : Via) (offA offW n x : Nat) : State :=
  match v with
  | .func _ _ => s.regWrite v offW (leBytes n x)
  | .core _ _ => s.regWrite v offW (leBytes n x)
  | _ => s.regWrite v offA (leBytes n x)

/-- A value with bits set and bits cleared. -/
def withBits (x set clear : Nat) : Nat := (x ||| set) ^^^ ((x ||| set) &&& clear)

/-- REGISTER_WRITE (R559). -/
def execRegisterWrite (v : Via) (off : Nat) (bytes : List Byte) (s : State) : Host.Outcome State Fault Refusal := s.unlessOff <| .next (s.regWrite v off bytes)

/-- REGISTER_READ (R557). -/
def execRegisterRead (v : Via) (off len : Nat) (s : State) : Host.Outcome State Fault Refusal := s.unlessOff <| .next (s.regRead v off len)

/-- SET_LOAD_GO (R139): a write of SET_LOAD_CTRL with GO. -/
def execSetLoadGo (v : Via) (x : Nat) (s : State) : Host.Outcome State Fault Refusal := s.unlessOff <| .next (s.writeA v 0x1000C 4 (withBits x 1 0))

/-- An operation word with its OP. -/
def clpWord (x op : Nat) : Nat := putBits x 16 3 op

/-- CLP_OP_SIGNAL (R477). -/
def execClpOpSignal (v : Via) (x : Nat) (s : State) : Host.Outcome State Fault Refusal := s.unlessOff <| .next (s.writeAW v 0x40000 0x3000 8 (clpWord x 0))

/-- CLP_OP_WAIT (R477). -/
def execClpOpWait (v : Via) (x : Nat) (s : State) : Host.Outcome State Fault Refusal := s.unlessOff <| .next (s.writeAW v 0x40000 0x3000 8 (clpWord x 1))

/-- CLP_OP_ARRIVE (R477). -/
def execClpOpArrive (v : Via) (x : Nat) (s : State) : Host.Outcome State Fault Refusal := s.unlessOff <| .next (s.writeAW v 0x40000 0x3000 8 (clpWord x 2))

/-- CLP_OP_RESET (R477). -/
def execClpOpReset (v : Via) (x : Nat) (s : State) : Host.Outcome State Fault Refusal := s.unlessOff <| .next (s.writeAW v 0x40000 0x3000 8 (clpWord x 3))

/-- CLP_OP_FAIL (R477). -/
def execClpOpFail (v : Via) (x : Nat) (s : State) : Host.Outcome State Fault Refusal := s.unlessOff <| .next (s.writeAW v 0x40000 0x3000 8 (clpWord x 4))

/-- CLP_MSIX_ARM (R483): a write of word 0 of an entry with ARM. -/
def execClpMsixArm (v : Via) (entry x : Nat) (s : State) : Host.Outcome State Fault Refusal := s.unlessOff <|
  .next (if entry < 32 then s.writeW v (0x3100 + 16 * entry) 4 (withBits x (2 ^ 31) 0) else s)

/-- SES_SQ_TAIL (R560). -/
def execSesSqTail (v : Via) (x : Nat) (s : State) : Host.Outcome State Fault Refusal := s.unlessOff <| .next (s.writeW v 0x2000 4 x)

/-- SES_CQ_HEAD (R489). -/
def execSesCqHead (v : Via) (x : Nat) (s : State) : Host.Outcome State Fault Refusal := s.unlessOff <| .next (s.writeW v 0x2014 4 x)

/-- SES_ENT_READ (R486): a write of SES_ENT_CTRL with READ. -/
def execSesEntRead (v : Via) (x : Nat) (s : State) : Host.Outcome State Fault Refusal := s.unlessOff <| .next (s.writeA v 0x30004 4 (withBits x 1 0))

/-- BPM_ALLOC (R440). -/
def execBpmAlloc (v : Via) (x : Nat) (s : State) : Host.Outcome State Fault Refusal := s.unlessOff <| .next (s.writeAW v 0x60000 0x4000 8 x)

/-- BPM_FREE (R441). -/
def execBpmFree (v : Via) (x : Nat) (s : State) : Host.Outcome State Fault Refusal := s.unlessOff <| .next (s.writeAW v 0x60010 0x4010 8 x)

/-- DEV_UWIN_FUNC (R551). -/
def execDevUwinFunc (v : Via) (win : Fin 256) (x : Nat) (s : State) : Host.Outcome State Fault Refusal := s.unlessOff <| .next (s.writeA v (0x100 + 4 * win.val) 4 x)

/-- DEV_WINC_BASE (R554). -/
def execDevWincBase (v : Via) (x : Nat) (s : State) : Host.Outcome State Fault Refusal := s.unlessOff <| .next (s.writeA v 0x48 8 x)

/-- FRM_SLICE_PTR (R378). -/
def execFrmSlicePtr (v : Via) (x : Nat) (s : State) : Host.Outcome State Fault Refusal := s.unlessOff <| .next (s.writeW v 0x1000 8 x)

/-- FRM_UNIT_SLICE_PTR (R379). -/
def execFrmUnitSlicePtr (v : Via) (x : Nat) (s : State) : Host.Outcome State Fault Refusal := s.unlessOff <| .next (s.writeA v 0x20028 8 x)

/-- UART_TX_BYTE (R571). -/
def execUartTxByte (v : Via) (x : Byte) (s : State) : Host.Outcome State Fault Refusal := s.unlessOff <| .next (s.writeA v 0xD0004 1 x.toNat)

/-- A read of `n` bytes of window A. -/
def State.readA (s : State) (v : Via) (off n : Nat) : State :=
  match v with
  | .func _ _ => s
  | .core _ _ => s
  | _ => s.regRead v off n

/-- UART_DATA_READ (R632). -/
def execUartDataRead (v : Via) (s : State) : Host.Outcome State Fault Refusal := s.unlessOff <| .next (s.readA v 0xD0004 4)

/-- HMK_DBG_CHAL_READ (R601). -/
def execHmkDbgChalRead (v : Via) (s : State) : Host.Outcome State Fault Refusal := s.unlessOff <| .next (s.readA v 0x90700 32)

/-- HMK_EXT (R599): a write of HMK_EXT_CTRL with GO. -/
def execHmkExt (v : Via) (x : Nat) (s : State) : Host.Outcome State Fault Refusal := s.unlessOff <| .next (s.writeA v 0x90630 4 (withBits x 0x100 0))

/-- HMK_DBG_RESP_GO (R601): a write of HMK_DBG_CTRL with GO. -/
def execHmkDbgRespGo (v : Via) (x : Nat) (s : State) : Host.Outcome State Fault Refusal := s.unlessOff <| .next (s.writeA v 0x907A0 4 (withBits x 1 0))

/-- MGT_FWUP_GO (R597): a write of MGT_FWUP_CTRL with GO. -/
def execFwupGo (v : Via) (x : Nat) (s : State) : Host.Outcome State Fault Refusal := s.unlessOff <| .next (s.writeA v 0xD010C 4 (withBits x 1 0))

/-- MGT_FWUP_CONFIRM (R598): a write of MGT_FWUP_CTRL with CONFIRM. -/
def execFwupConfirm (v : Via) (x : Nat) (s : State) : Host.Outcome State Fault Refusal := s.unlessOff <| .next (s.writeA v 0xD010C 4 (withBits x 2 0))

/-- MGT_PARAM_SIGNED (R588): a write of MGT_PARAM_CTRL with GO and KIND 0. -/
def execParamSigned (v : Via) (x : Nat) (s : State) : Host.Outcome State Fault Refusal := s.unlessOff <| .next (s.writeA v 0xD030C 4 (withBits x 1 2))

/-- MGT_PARAM_GENERAL (R641): a write of MGT_PARAM_CTRL with GO and KIND 1. -/
def execParamGeneral (v : Via) (x : Nat) (s : State) : Host.Outcome State Fault Refusal := s.unlessOff <| .next (s.writeA v 0xD030C 4 (withBits x 3 0))

/-- MGT_RESET (R641), with what the boot finds. -/
def execMgtReset (v : Via) (x : Nat) (i : BootIn) (s : State) : Host.Outcome State Fault Refusal := s.unlessOff <|
  .next (match v, s.gate v 0xD0200 true with
    | .func _ _, _ => s
    | .core _ _, _ => s
    | _, .ok _ => (s.dropHeld v).mgtResetReg (x % 2 ^ 32) i
    | _, .fault c => s.emit (.coreFault c none)
    | _, _ => s)

/-- PWR_REQ (R639). -/
def execPwrReq (v : Via) (x : Nat) (s : State) : Host.Outcome State Fault Refusal := s.unlessOff <| .next (s.writeA v 0xA0000 4 x)

/-- PWR_CAP (R639). -/
def execPwrCap (v : Via) (x : Nat) (s : State) : Host.Outcome State Fault Refusal := s.unlessOff <| .next (s.writeA v 0xA0008 4 x)

/-- RAS_ST_REQ (R621). -/
def execRasStReq (v : Via) (x : Nat) (s : State) : Host.Outcome State Fault Refusal := s.unlessOff <| .next (s.writeA v 0xE0000 4 x)

/-- BEAD_PREEMPT_REQ (R408): a write of BEAD_PREEMPT with REQ. -/
def execPreemptReq (v : Via) (b : BeadId) (x : Nat) (s : State) : Host.Outcome State Fault Refusal := s.unlessOff <|
  .next (s.writeA v (0x1000008 + b.val * 0x10000) 8 (withBits x 1 2))

/-- BEAD_PREEMPT_RESUME (R408): a write of BEAD_PREEMPT with RESUME. -/
def execPreemptResume (v : Via) (b : BeadId) (x : Nat) (s : State) : Host.Outcome State Fault Refusal := s.unlessOff <|
  .next (s.writeA v (0x1000008 + b.val * 0x10000) 8 (withBits x 2 1))

/-- DBG_MODE (R629). -/
def execDbgMode (v : Via) (b : BeadId) (x : Nat) (s : State) : Host.Outcome State Fault Refusal := s.unlessOff <| .next (s.writeA v (0x1008000 + b.val * 0x10000) 4 x)

/-- DBG_TRACE_CTRL (R627). -/
def execDbgTraceCtrl (v : Via) (buf : Fin 171) (x : Nat) (s : State) : Host.Outcome State Fault Refusal := s.unlessOff <| .next (s.writeA v (0xC0000 + 4 * buf.val) 4 x)

/-- ERR_Q_HEAD (R619): the global queue's through window A, the unit queue's through a user window. -/
def execErrQHead (v : Via) (x : Nat) (s : State) : Host.Outcome State Fault Refusal := s.unlessOff <| .next (s.writeAW v 0xB0004 0x5004 4 x)

/-- NET_ADDR_WRITE (R638): a write of NET_ADDR_CMD with WRITE. -/
def execNetAddrWrite (v : Via) (x : Nat) (s : State) : Host.Outcome State Fault Refusal := s.unlessOff <| .next (s.writeA v 0x80524 4 (withBits x 1 0))

/-- NET_ADDR_READ (R638): a write of NET_ADDR_CMD with READ alone. -/
def execNetAddrRead (v : Via) (x : Nat) (s : State) : Host.Outcome State Fault Refusal := s.unlessOff <| .next (s.writeA v 0x80524 4 (withBits x 2 1))

end Sys2Proof.Machine
end

