-- ==== Sys2Proof/Machine/HostIf.lean ====
section
/-! DEFINITION. The PCIe endpoints and the host cores (chapter 17): resets, configuration requests, window C, the driver ABI
mailbox, and host-core accesses to memory. -/

namespace Sys2Proof.Machine

/-! ## Resets and configuration (R548, R549, R561, R563) -/

/-- PERST_N of an endpoint (R549): its functions are reset; after its release they wait for Bus Master Enable. -/
def execPerstN (hub : Fin 2) (asserted : Bool) (s : State) : Host.Outcome State Fault Refusal :=
  .next (if !asserted then { s with perst := sDel hub.val s.perst }
    else if s.perst.contains hub.val then s
    else (span (hub.val * 33) 33).foldl State.pcieReset { s with perst := sIns hub.val s.perst })

/-- FUNCTION_LEVEL_RESET (R563): of a VF. -/
def execFunctionLevelReset (f : Fin 66) (s : State) : Host.Outcome State Fault Refusal := s.unlessOff <| .next (if f.val % 33 = 0 then s else s.pcieReset f.val)

/-- What a configuration request sets. -/
def PcieFn.config (x : PcieFn) (f : Nat) (op : CfgOp) : PcieFn :=
  match op with
  | .read => x
  | .busMaster on => { x with busMaster := on }
  | .msixEnable on => { x with msixEnable := on }
  | .functionMask on => { x with msixMask := on }
  | .vectorMask v on => if msixTable f ≤ v then x else { x with unmasked := if on then sDel v x.unmasked else sIns v x.unmasked }
  | .resizeWinC l => if 30 ≤ l ∧ l ≤ 40 then { x with winCLog := l } else x

/-- CONFIGURATION_REQUEST (R548, R549, R561): retried until the configuration space is ready; what it lets leave, leaves. -/
def execConfigurationRequest (f : Fin 66) (op : CfgOp) (s : State) : Host.Outcome State Fault Refusal :=
  .next (if s.perst.contains (f.val / 33) || s.hmk.stage == 0 then s
    else if s.hmk.bscanHold then s.emit (.completion f.val false false true)
    else
      let s := (s.updFn f.val (fun x => x.config f.val op)).flushMsix f.val
      ((s.windowsOf f.val).foldl State.pump s).emit (.completion f.val false false false))

/-! ## The system reserve as a privileged read sees it (R434) -/

/-- STATE of a page (Table 13-4). -/
def PageState.code : PageState → Nat
  | .free => 0
  | .alloc => 1
  | .quarantine => 2
  | .retired => 3

/-- A reverse-map entry (Table 13-4). -/
def Page.entry (p : Page) (owner : Nat) : Nat :=
  owner % 2 ^ 16 + p.gen % 256 * 2 ^ 16 + p.state.code * 2 ^ 24 + b2n p.head * 2 ^ 26 + b2n p.holed * 2 ^ 27 + p.link % 2 ^ 32 * 2 ^ 32

/-- Byte `i` of a list. -/
def byteAt (bs : List Byte) (i : Nat) : Byte := bs.getD i 0

/-- A byte of a page-list area, at an offset from its base (R436): the page count, then the frames. -/
def State.listByte (s : State) (o : Nat) : Byte :=
  match s.bpm.lists.find? (fun p =>
    let run := (s.page (hFrame p.1)).link / 16
    decide (run ≤ o / 64) && decide (o / 64 < run + listRuns p.2.length)) with
  | some (h, fs) =>
    let e := o / 4 - (s.page (hFrame h)).link / 16 * 16
    byteAt (leBytes 4 (nth (fs.length :: fs) e)) (o % 4)
  | none => 0

/-- A byte of a queue's ring (R618). -/
def ErrQueue.ringByte (q : ErrQueue) (o : Nat) : Byte :=
  match mfind q.recs (o / 32) with
  | some r => byteAt r.bytes (o % 32)
  | none => 0

/-- A byte of the system reserve (Table 13-3). The session table may show an older state of an entry (R486): it is the entry
of now, or free, as a free value `e` decides. -/
def State.reserveByte (s : State) (e a : Nat) : Byte :=
  let o := a % stackWindow + 2 ^ 29 - stackBytes
  if a / stackWindow = 7 then
    match s.mapPage (o / 8) with
    | some f => byteAt (leBytes 8 ((s.page f).entry (((s.pageAt (f * 4096)).map (·.1.owner)).getD 0))) (o % 8)
    | none => s.mem.ram.read a
  else if o < 2 ^ 28 then
    if Config.free (e + o / 128) % 2 = 0 then byteAt (s.ses (o / 128)).bytes (o % 128) else Config.freeByte e a
  else if o < 2 ^ 28 + 2 ^ 20 then s.errGlobal.ringByte (o - 2 ^ 28)
  else if o < 272 * 2 ^ 20 then
    match s.set.cur.tops[(o - 2 ^ 28 - 2 ^ 20) / 32768]? with
    | some u => (s.unitQueue u).ringByte ((o - 2 ^ 28 - 2 ^ 20) % 32768)
    | none => s.mem.ram.read a
  else s.listByte (o - 272 * 2 ^ 20)

/-! ## Window C (R554) -/

/-- The view of a function in an answer. -/
def fnVia (f : Nat) : Via := if f % 33 = 0 then .pf (f / 33) else .func f 256

/-- The scratchpad that a package address lies in, and the offset in it (Table 2-7). -/
def scratchAt (a : Nat) : Option (Nat × Nat) :=
  if 0x20000000000 ≤ a ∧ a < 0x20000000000 + 160 * 0x1000000 then some ((a - 0x20000000000) / 0x1000000, a % 0x1000000) else none

/-- Is every line of a range in a region of one of some units? -/
def Setting.linesIn (t : Setting) (us : List Nat) (a n : Nat) : Bool := (linePieces a n).all (fun p => us.any (fun u => t.unitHolds u (a + p.1) p.2 (fun _ => true)))

/-- Is every line of a range populated, and does one of them lie in the reserve? -/
def Setting.linesOk (t : Setting) (a n : Nat) : Bool := (linePieces a n).all (fun p => populated t (a + p.1))
def anyReserve (a n : Nat) : Bool := (linePieces a n).any (fun p => inReserve (a + p.1))

/-- Stacks in self-refresh that an access reaches wake (R659). -/
def State.wake (s : State) (a : Nat) : State :=
  match stackOf a with
  | some k => { s with mem := { s.mem with selfRefresh := sDel k s.mem.selfRefresh } }
  | none => s

/-- Where an access through window C goes. -/
inductive WinC where
  | ur
  | denied
  | unpopulated (a : Nat)
  | reserved (a : Nat)
  /-- A scratchpad that is not open: reads zero, writes nothing (R92). -/
  | shut
  | scratch (b o : Nat)
  | mem (a : Nat)
  deriving DecidableEq, Repr

/-- The checks of an access of `n` bytes through window C of function `f`. -/
def State.winC (s : State) (f off n : Nat) (wr : Bool) : WinC :=
  let a := (s.fn f).winCBase + off
  let t := s.set.cur
  if s.notUp ∨ s.aperture f < off + n then .ur
  else if f % 33 ≠ 0 then
    if !t.linesOk a n then .unpopulated a
    else if !t.linesIn ((s.windowsOf f).filterMap t.winUnit) a n then .denied
    else .mem a
  else match scratchAt a with
    | some (b, o) =>
      if 0x600000 < o + n then .unpopulated a
      else if (s.bead b).debug then .scratch b o else .shut
    | none =>
      if !t.linesOk a n then .unpopulated a
      else if wr && anyReserve a n then .reserved a
      else .mem a

/-- An access that is refused. -/
def State.winCBad (s : State) (f : Nat) (w : WinC) : State :=
  let s := match w with
    | .denied => s.count cntWinc
    | .unpopulated a => s.raiseG St.memUnpopulated a (pcieAgent (f / 33))
    | .reserved a => s.raiseG St.memReserved a (pcieAgent (f / 33))
    | _ => s
  s.emit (.completion f true false false)

/-- WINC_READ (R554, R420). -/
def execWincRead (f : Fin 66) (off len : Nat) (s : State) : Host.Outcome State Fault Refusal := s.unlessOff <|
  .next (if s.perst.contains (f.val / 33) then s
    else match s.winC f.val off len false with
      | .scratch b o => s.emit (.readData (fnVia f.val) (((s.bead b).spRead o len).map (·.1)) ((s.bead b).spBad o len))
      | .shut => (s.count cntScratch).emit (.readData (fnVia f.val) (List.replicate len 0) false)
      | .mem a =>
        let (e, s) := (((s.memFlush a len).wake a)).fresh
        s.emit (.readData (fnVia f.val) ((span a len).map (fun x => if inReserve x then s.reserveByte e x else s.mem.ram.read x)) (s.mem.poisoned a len))
      | w => s.winCBad f.val w)

/-- WINC_WRITE (R554): a poisoned write poisons the lines it touches. -/
def execWincWrite (f : Fin 66) (off : Nat) (bytes : List Byte) (poisoned : Bool) (s : State) : Host.Outcome State Fault Refusal := s.unlessOff <|
  .next (if s.perst.contains (f.val / 33) then s
    else match s.winC f.val off bytes.length true with
      | .scratch b o =>
        let s := s.updBead b (fun x => x.spWrite o bytes)
        if poisoned then s.updBead b (fun x => x.spMark o bytes.length) else s
      | .shut => s.count cntScratch
      | .mem a =>
        let s := (s.wake a).memWriteC a bytes
        if poisoned then s.memMark a bytes.length else s
      | w => s.winCBad f.val w)

/-! ## The driver ABI mailbox (R564 to R566, Table 17-5) -/

/-- The device's range of driver ABI versions. -/
def abiMin : Nat := 0x01000000
def abiMax : Nat := 0x0103FFFF

/-- The highest version in the driver's range, the device's and the setting's. -/
def State.chooseAbi (s : State) (lo hi : Nat) : Option Nat :=
  let cs := s.set.cur.compats.filter (fun c => c.component == 4)
  let lo := cs.foldl (fun l c => max l c.min) (max lo abiMin)
  let hi := cs.foldl (fun h c => min h c.max) (min hi abiMax)
  if lo ≤ hi then some hi else none

/-- A field of a request. -/
def Mailbox.field (m : Mailbox) (o n : Nat) : Nat := m.req.toNat / 2 ^ (8 * o) % 2 ^ (8 * n)

/-- Is a request well formed (R565)? -/
def Mailbox.reqOk (m : Mailbox) : Bool :=
  (m.field 0 1 == 1 || m.field 0 1 == 2 || m.field 0 1 == 3) && m.field 1 3 == 0 && m.field 16 48 == 0

/-- The response that function `f` gets. -/
def State.answer (s : State) (f status : Nat) : State :=
  let x := s.fn f
  let wins := ((s.windowsOf f).map (fun w => 2 ^ w)).foldl (· + ·) 0
  let n := x.mbox.field 0 1 + status * 2 ^ 16 + x.abi * 2 ^ 32 + abiMin * 2 ^ 64 + abiMax * 2 ^ 96 + x.feat % 2 ^ 32 * 2 ^ 128 + wins * 2 ^ 256
  s.updFn f (fun x => { x with mbox := { x.mbox with next := some (BitVec.ofNat 512 n) } })

/-- NEGOTIATE of function `f`. The device's feature bits are not given: `fuse` 12. -/
def State.negotiate (s : State) (f : Nat) : State :=
  let m := (s.fn f).mbox
  match s.chooseAbi (m.field 4 4) (m.field 8 4) with
  | some v => (s.updFn f (fun x => { x with abi := v, feat := m.field 12 4 &&& Config.fuse 12 })).answer f 0
  | none => s.answer f St.hstAbiRefused

/-- Serves the request of a mailbox. -/
def State.serveMbox (s : State) (f : Nat) : State :=
  let m := (s.fn f).mbox
  if !m.reqOk then (s.count cntDoorbell).answer f St.hstDoorbellBad
  else match m.field 0 1 with
    | 1 => s.negotiate f
    | 3 => (s.resetFunction f).answer f 0
    | _ => s.answer f 0

/-- Does a mailbox wait for the answer to a request of an OP? -/
def State.mboxWaits (s : State) (f op : Nat) : Bool :=
  let m := (s.fn f).mbox
  m.busy && m.next.isNone && m.reqOk && m.field 0 1 == op

/-- NEGOTIATE (R566). -/
def execNegotiate (f : Fin 66) (s : State) : Host.Outcome State Fault Refusal := s.unlessOff <| .next (if s.mboxWaits f.val 1 then s.serveMbox f.val else s)

/-- QUERY (R566). -/
def execQuery (f : Fin 66) (s : State) : Host.Outcome State Fault Refusal := s.unlessOff <| .next (if s.mboxWaits f.val 2 then s.serveMbox f.val else s)

/-- RELEASE (R566). -/
def execRelease (f : Fin 66) (s : State) : Host.Outcome State Fault Refusal := s.unlessOff <| .next (if s.mboxWaits f.val 3 then s.serveMbox f.val else s)

/-- MBOX_RESPONSE (R564): the request is served, if it is not yet, and the response written. -/
def execMboxResponse (f : Fin 66) (s : State) : Host.Outcome State Fault Refusal := s.unlessOff <|
  .next (if !(s.fn f.val).mbox.busy then s
    else
      let s := if (s.fn f.val).mbox.next.isNone then s.serveMbox f.val else s
      let s := s.updFn f.val (fun x => { x with mbox := { x.mbox with rsp := x.mbox.next.getD 0, next := none, busy := false, done := true } })
      if (s.fn f.val).mbox.irqEn then s.msix f.val (s.fn f.val).mbox.vec else s)

/-! ## Host cores (R85 to R87, R420, R429, R481) -/

/-- The units of the services that bind a host core. -/
def Setting.coreUnits (t : Setting) (c : Nat) : List Nat := (t.services.filter (fun v => bit v.hostCores c)).map t.svcUnit

/-- The host cores' copy of a line, fetched when there is none. A clean copy may have left the caches before: a free value
decides. -/
def State.coreLine (s : State) (g : Nat) : State × CoreLine :=
  let fetch := fun (s : State) =>
    let l : CoreLine := { bytes := s.mem.ram.readN (g * 64) 64, poison := s.mem.poisoned (g * 64) 64 }
    ({ s with mem := { s.mem with core := mput s.mem.core g l } }, l)
  match mfind s.mem.core g with
  | none => fetch s
  | some l =>
    if l.dirty then (s, l)
    else
      let (v, s) := s.fresh
      if v % 2 = 0 then (s, l) else fetch s

/-- The bytes of a load line by line, and the first poisoned address. -/
def State.coreLoad (s : State) (a : Nat) : List (Nat × Nat) → State × List Byte × Option Nat
  | [] => (s, [], none)
  | (o, l) :: t =>
    let r := s.coreLine ((a + o) / 64)
    let q := r.1.coreLoad a t
    (q.1, (r.2.bytes.drop ((a + o) % 64)).take l ++ q.2.1, if r.2.poison then some (a + o) else q.2.2)

/-- A store into one line: a whole line is good data, a part keeps the line's poison. -/
def State.coreStore (s : State) (a : Nat) (d : List Byte) : State :=
  let g := a / 64
  let r := s.coreLine g
  let l : CoreLine := { bytes := setBytes r.2.bytes (a % 64) d, poison := r.2.poison && decide (d.length < 64), dirty := true }
  { r.1 with mem := { r.1.mem with core := mput r.1.mem.core g l } }

/-- Writes a dirty copy of a line to its home vault and keeps it clean. -/
def State.coreClean (s : State) (g : Nat) : State :=
  match mfind s.mem.core g with
  | some l =>
    if l.dirty then
      let s := s.memFlush (g * 64) 64
      { s with mem := { s.mem with core := mput s.mem.core g { l with dirty := false } } }
    else s
  | none => s

/-- An access that passed the checks. -/
def State.coreDo (s : State) (c a : Nat) (op : CoreAcc) : State :=
  let g := a / 64
  match op with
  | .load n =>
    match s.coreLoad a (linePieces a n) with
    | (s, bs, none) => s.emit (.readData (.coreA c) bs false)
    | (s, _, some x) => ({ s with mem := { s.mem with coreErr := mput s.mem.coreErr c x } }).emit (.coreFault c (some x))
  | .store d => (linePieces a d.length).foldl (fun s p => s.coreStore (a + p.1) ((d.drop p.1).take p.2)) s
  | .cacheZero => s.coreStore (g * 64) (List.replicate 64 0)
  | .cacheClean => s.coreClean g
  | .cacheFlush => s.memFlush (g * 64) 64
  | .cacheInval => { s with mem := { s.mem with core := mdel s.mem.core g } }

/-- Bytes of an access, and whether it writes. -/
def accSize : CoreAcc → Nat
  | .load n => n
  | .store d => d.length
  | _ => 1
def accWrites : CoreAcc → Bool
  | .store _ => true
  | .cacheZero => true
  | _ => false

/-- The package addresses of the user windows (R553). -/
def aliasAt (a : Nat) : Option (Nat × Nat) :=
  if 0x30004000000 ≤ a ∧ a < 0x30004000000 + 256 * 0x10000 then some ((a - 0x30004000000) / 0x10000, a % 0x10000) else none

/-- HOST_CORE_ACCESS (R87, R91, R92, R420, R434, R553). -/
def execHostCoreAccess (c : Fin 48) (addr : Nat) (a : CoreAcc) (s : State) : Host.Outcome State Fault Refusal := s.unlessDown <|
  let t := s.set.cur
  let fault := fun (s : State) => s.emit (.coreFault c.val none)
  .next (if s.notUp ∨ s.ras.haltedCores.contains c.val then s
    else match aliasAt addr, a with
      | some (w, o), .load n => s.regRead (.core c.val w) o n
      | some (w, o), .store d => s.regWrite (.core c.val w) o d
      | some _, _ => fault s
      | none, _ =>
        if 0x30000000000 ≤ addr ∧ addr < 0x30004000000 then fault s
        else if (scratchAt addr).any (fun p => decide (p.2 + accSize a ≤ 0x600000)) then fault s
        else if !t.linesOk addr (accSize a) then fault (s.raiseG St.memUnpopulated addr (agent (c.val / 6) (0x20 + c.val % 6)))
        else if accWrites a && anyReserve addr (accSize a) then fault (s.raiseG St.memReserved addr (agent (c.val / 6) (0x20 + c.val % 6)))
        else if !t.linesIn (t.coreUnits c.val) addr (accSize a) then fault s
        else (s.wake addr).coreDo c.val addr a)

end Sys2Proof.Machine
end

