-- ==== Sys2Proof/Machine/Mgmt.lean ====
section
/-! DEFINITION. The management ports (chapters 17, 18): MCTP with PLDM, SPDM, the UART receiver and JTAG. -/

namespace Sys2Proof.Machine

/-! ## MCTP and PLDM (R568 to R570) -/

/-- Does the management firmware run? -/
def State.mgmtUp (s : State) : Bool := s.hmk.stage != 0 && !s.hmk.bscanHold && !s.dev.bootFailed

/-- Warning threshold of a sensor 1 to 26 (Table 21-8): is a temperature beyond it? -/
def warm (sensor temp : Nat) : Bool := if sensor ≤ 10 then decide (95 ≤ temp) else decide (85 < temp)

/-- A reading of Table 17-6 as it is now. -/
def State.sensorNow (s : State) (id : Nat) : Nat :=
  if id ≤ 26 then s.pwr.temp (id - 1)
  else if id = 27 then s.pwr.p10ms
  else if id ≤ 35 then mget s.pwr.currents (id - 28) 0
  else if id = 36 then s.pwr.cap
  else if id = 37 then b2n s.dev.ready + b2n s.dev.limited * 2 + b2n s.dev.untested * 4 + b2n s.dev.memDegraded * 8
  else b2n (s.pwr.thermEmergency || s.pwr.prochotIn)

/-- SENSOR_REFRESH (R570): the readings, and an event for each threshold crossed. -/
def execSensorRefresh (r : SensorIn) (s : State) : Host.Outcome State Fault Refusal := s.unlessOff <|
  let temps := ((List.range 26).zip r.temps).foldl (fun m (p : Nat × Nat) => mput m p.1 p.2) s.pwr.temps
  let amps := ((List.range 8).zip r.currents).foldl (fun m (p : Nat × Nat) => mput m p.1 p.2) s.pwr.currents
  let s := { s with pwr := { s.pwr with temps, currents := amps } }
  let now := (span 1 26).filter (fun k => warm k (s.pwr.temp (k - 1)))
  let crossed := (span 1 26).filter (fun k => now.contains k != s.mgt.warned.contains k)
  .next { s with mgt := { s.mgt with warned := now, events := s.mgt.events ++ crossed, readings := (span 1 38).map (fun k => (k, s.sensorNow k)) } }

/-- The answer to an MCTP message. Its numbers are what the answer says, not its encoding on the wire. -/
def State.mctpAnswer (s : State) (bind : Nat) (body : List Nat) : State :=
  let s := if bind = 0 then { s with mgt := { s.mgt with smbBusy := true } } else s
  s.emit (.mctp bind body)

/-- Serves a message (R569): completion code 0, or that of a request which is not supported. -/
def State.mctpServe (s : State) (bind : Nat) (m : MctpMsg) : State :=
  match m with
  | .setEid e =>
    if 8 ≤ e ∧ e < 255 then ({ s with mgt := { s.mgt with eids := mput s.mgt.eids bind e } }).mctpAnswer bind [0, e]
    else s.mctpAnswer bind [2]
  | .pldmBase => s.mctpAnswer bind [0, 0, 2, 5]
  | .sensorRead id => if 1 ≤ id ∧ id ≤ 38 then s.mctpAnswer bind [0, mget s.mgt.readings id 0] else s.mctpAnswer bind [0x80]
  | .pollEvent =>
    match s.mgt.events with
    | [] => s.mctpAnswer bind [0]
    | e :: t => ({ s with mgt := { s.mgt with events := t } }).mctpAnswer bind [0, e]
  | .other t =>
    if t = 0 ∨ t = 1 then s.mctpAnswer bind [5]
    else if t = 5 then s.emit (.spdm 0 [0x7F, 7])
    else s

/-- MCTP_PACKET (R568, R569): over SMBus (binding 0), where a bad PEC discards it, or as PCIe VDM of a PF. -/
def execMctpPacket (bind : Fin 3) (pecOk : Bool) (m : MctpMsg) (s : State) : Host.Outcome State Fault Refusal := s.unlessOff <|
  .next (if !s.mgmtUp then s
    else if bind.val = 0 ∧ !pecOk then { s with mgt := { s.mgt with smbErr := (s.mgt.smbErr + 1) % 2 ^ 64, smbBusy := false } }
    else if bind.val ≠ 0 ∧ s.perst.contains (bind.val - 1) then s
    else s.mctpServe bind.val m)

/-- SMB_CLK_TIMEOUT (R568): SMB_DAT is released and the bus state reset. -/
def execSmbClkTimeout (s : State) : Host.Outcome State Fault Refusal := s.unlessOff <| .next { s with mgt := { s.mgt with smbBusy := false } }

/-- The device's SMBus address (R568). -/
def State.smbAddr (s : State) : Nat := if s.param 0x401 1 % 128 = 0 then 0x62 else s.param 0x401 1 % 128

/-- SMBUS_ALERT_RESPONSE (R570): answered while SMB_ALERT_N is asserted, that is, while an event is queued. -/
def execSmbusAlertResponse (s : State) : Host.Outcome State Fault Refusal := s.unlessOff <|
  .next (if s.mgt.events.isEmpty then s else s.emit (.alertResponse s.smbAddr))

/-! ## SPDM (R600, Table 18-8) -/

/-- The connection of a transport: 0 for MCTP, 1 and 2 for the DOE mailboxes of the PFs. -/
def State.conn (s : State) (tr : Nat) : SpdmConn := mget s.mgt.spdm tr {}

/-- Sets a connection. -/
def State.setConn (s : State) (tr : Nat) (c : SpdmConn) : State := { s with mgt := { s.mgt with spdm := mput s.mgt.spdm tr c } }

/-- The numbers of a request that a transcript holds. -/
def spdmReq (code : Nat) (r : SpdmReq) : List Nat := [code, r.version, r.slot, r.index, r.nonce, r.offset, r.len, b2n r.sign]

/-- A response, kept in the transcript with its request. -/
def State.spdmSend (s : State) (tr code : Nat) (r : SpdmReq) (body : List Nat) : State :=
  let c := s.conn tr
  (s.setConn tr { c with transcript := c.transcript ++ spdmReq code r ++ body }).emit (.spdm tr body)

/-- An ERROR response. -/
def State.spdmErr (s : State) (tr e : Nat) : State := s.emit (.spdm tr [0x7F, e])

/-- A signature with the identity key over the transcript, the request with its nonce, and the response. -/
def State.spdmSign (s : State) (tr code : Nat) (r : SpdmReq) (body : List Nat) : List Nat :=
  body ++ [Config.ecdsaSign (Config.sha384 (((s.conn tr).transcript ++ spdmReq code r ++ body).flatMap (leBytes 64)))]

/-- Does a request go on: on a transport that is up, supported, of the version agreed, after the steps that come first? -/
def State.spdmGate (s : State) (tr : Nat) (r : SpdmReq) (ready : SpdmConn → Bool) (act : State → State) : State :=
  let c := s.conn tr
  if !s.mgmtUp || (tr != 0 && s.perst.contains (tr - 1)) then s
  else if !r.supported then s.spdmErr tr 7
  else if !ready c then s.spdmErr tr 4
  else if r.version != c.version then s.spdmErr tr 0x41
  else act s

/-- A fresh nonce of the device. -/
def State.spdmNonce (s : State) : Nat × State :=
  (Config.random s.hmk.draws % 2 ^ 256, { s with hmk := { s.hmk with draws := s.hmk.draws + 1 } })

/-- Digest of the certificate chain. -/
def chainDigest : Nat := Config.sha384 (Config.certChain hashLo)

/-- GET_VERSION (R600): versions 1.2 and 1.3; the connection starts anew. -/
def execGetVersion (tr : Fin 3) (r : SpdmReq) (s : State) : Host.Outcome State Fault Refusal := s.unlessOff <|
  .next (if !s.mgmtUp || (tr.val != 0 && s.perst.contains (tr.val - 1)) then s
    else if !r.supported then s.spdmErr tr 7
    else (s.setConn tr.val { version := 0x10 }).spdmSend tr.val 0x84 r [4, 0x12, 0x13])

/-- GET_CAPABILITIES (R600): the version asked is the one agreed; CERT, CHAL, MEAS with signature. -/
def execGetCapabilities (tr : Fin 3) (r : SpdmReq) (s : State) : Host.Outcome State Fault Refusal := s.unlessOff <|
  .next (if !s.mgmtUp || (tr.val != 0 && s.perst.contains (tr.val - 1)) then s
    else if !r.supported then s.spdmErr tr 7
    else
      let c := s.conn tr.val
      if c.version = 0 then s.spdmErr tr 4
      else if r.version ≠ 0x12 ∧ r.version ≠ 0x13 then s.spdmErr tr 0x41
      else (s.setConn tr.val { c with version := r.version, caps := true }).spdmSend tr.val 0xE1 r [0x61, 2 + 4 + 16])

/-- NEGOTIATE_ALGORITHMS (R600): ECDSA P-384, SHA-384, DMTF measurements. -/
def execNegotiateAlgorithms (tr : Fin 3) (r : SpdmReq) (s : State) : Host.Outcome State Fault Refusal := s.unlessOff <|
  .next (s.spdmGate tr.val r (fun c => c.caps) (fun s =>
    (s.setConn tr.val { s.conn tr.val with algs := true }).spdmSend tr.val 0xE3 r [0x63, 1, 0x80, 2]))

/-- GET_DIGESTS (R600): the digest of slot 0. -/
def execGetDigests (tr : Fin 3) (r : SpdmReq) (s : State) : Host.Outcome State Fault Refusal := s.unlessOff <|
  .next (s.spdmGate tr.val r (fun c => c.algs) (fun s => s.spdmSend tr.val 0x81 r [1, 1, chainDigest]))

/-- GET_CERTIFICATE (R600): a portion of the chain of slot 0, and what is left of it. -/
def execGetCertificate (tr : Fin 3) (r : SpdmReq) (s : State) : Host.Outcome State Fault Refusal := s.unlessOff <|
  .next (s.spdmGate tr.val r (fun c => c.algs) (fun s =>
    let chain := Config.certChain hashLo
    if r.slot ≠ 0 ∨ chain.length ≤ r.offset then s.spdmErr tr 1
    else
      let part := (chain.drop r.offset).take r.len
      s.spdmSend tr.val 0x82 r ([2, 0, part.length, chain.length - r.offset - part.length] ++ part.map BitVec.toNat)))

/-- CHALLENGE (R600): signed. -/
def execChallenge (tr : Fin 3) (r : SpdmReq) (s : State) : Host.Outcome State Fault Refusal := s.unlessOff <|
  .next (s.spdmGate tr.val r (fun c => c.algs) (fun s =>
    if r.slot ≠ 0 then s.spdmErr tr 1
    else
      let n := s.spdmNonce
      n.2.spdmSend tr.val 0x83 r (s.spdmSign tr.val 0x83 r [3, 0, chainDigest, n.1])))

/-- Measurement index 17: the device state. -/
def State.deviceState (s : State) : List Nat :=
  s.hmk.versions ++ [s.set.cur.seq,
    b2n s.dev.limited + b2n s.dev.untested * 2 + b2n s.dev.noSetting * 4 + b2n s.dev.paramDefault * 8 + b2n s.dev.memDegraded * 16 +
      b2n s.dev.debugUnlocked * 32, b2n s.untestedOk]

/-- A measurement block. -/
def State.measured (s : State) (i : Nat) : List Nat := if i = 17 then 17 :: s.deviceState else [i, (s.hmk.ms.toList.getD (i - 1) 0).toNat]

/-- The blocks of a measurement index; index 0 asks for their number. -/
def State.measures (s : State) (i : Nat) : Option (List Nat) :=
  if i = 0 then some [17]
  else if i ≤ 17 then some (s.measured i)
  else if i = 0xFF then some ((span 1 17).flatMap s.measured)
  else none

/-- GET_MEASUREMENTS (R600): the slots and the device state, signed when a signature is asked for. -/
def execGetMeasurements (tr : Fin 3) (r : SpdmReq) (s : State) : Host.Outcome State Fault Refusal := s.unlessOff <|
  .next (s.spdmGate tr.val r (fun c => c.algs) (fun s =>
    match s.measures r.index with
    | none => s.spdmErr tr 1
    | some ms =>
      let n := s.spdmNonce
      let body := [0x60, r.index] ++ ms ++ [n.1]
      n.2.spdmSend tr.val 0xE0 r (if r.sign then s.spdmSign tr.val 0xE0 r body else body)))

/-! ## The UART receiver (R571, R572) -/

/-- A byte for the receive FIFO of 64; a byte that meets it full is dropped. -/
def MgtState.uartPut (m : MgtState) (x : UartByte) : MgtState :=
  if 64 ≤ m.rx.length then { m with overrun := true } else { m with rx := m.rx ++ [x] }

/-- UART_RX_FRAME (R572): the start, data and stop samples of a frame whose edge meets an armed receiver. -/
def execUartRxFrame (start stop : Bool) (x : Byte) (s : State) : Host.Outcome State Fault Refusal := s.unlessOff <|
  .next (if s.mgt.rxWait || start then s
    else if stop then { s with mgt := s.mgt.uartPut { x } }
    else { s with mgt := { s.mgt.uartPut { x, fe := true, brk := x == 0 } with rxWait := true } })

/-- UART_REARM (R572): 16 high samples in a row. -/
def execUartRearm (s : State) : Host.Outcome State Fault Refusal := s.unlessOff <| .next { s with mgt := { s.mgt with rxWait := false } }

/-! ## JTAG (R574 to R576) -/

/-- Loads the instruction register of a TAP. -/
def State.loadIr (s : State) (tap : Fin 10) (code : Nat) : State := { s with jtag := { s.jtag with ir := s.jtag.ir.set tap.val code } }

/-- The one-bit bypass register: what is shifted in comes out one bit later, after a 0. -/
def State.bypassScan (s : State) (tap : Fin 10) (dr : Nat) : State := s.emit (.tdo tap.val (2 * dr))

/-- A scan of the boundary register: the sample of the pins, which the spec does not give, comes out and `dr` goes in. -/
def State.boundaryScan (s : State) (tap : Fin 10) (dr : Nat) : State :=
  let (v, s) := s.fresh
  ({ s with jtag := { s.jtag with boundary := mput s.jtag.boundary tap.val dr } }).emit (.tdo tap.val v)

/-- A pin-driving instruction: outside the hold it is counted and acts as BYPASS (R576). -/
def State.pinDrive (s : State) (tap : Fin 10) (code dr : Nat) (act : State → State) : State :=
  let s := s.loadIr tap code
  if s.hmk.bscanHold then act s
  else ({ s with jtag := { s.jtag with blocked := s.jtag.blocked + 1 } }).bypassScan tap dr

/-- IDCODE (R574). -/
def execIdcode (tap : Fin 10) (dr : Nat) (s : State) : Host.Outcome State Fault Refusal :=
  let _ := dr
  .next ((s.loadIr tap 0x01).emit (.tdo tap.val (idcodeOf tap.val)))

/-- SAMPLE/PRELOAD (R575). -/
def execSamplePreload (tap : Fin 10) (dr : Nat) (s : State) : Host.Outcome State Fault Refusal := .next ((s.loadIr tap 0x02).boundaryScan tap dr)

/-- EXTEST (R575). -/
def execExtest (tap : Fin 10) (dr : Nat) (s : State) : Host.Outcome State Fault Refusal := .next (s.pinDrive tap 0x03 dr (fun s => s.boundaryScan tap dr))

/-- CLAMP (R575): the pins keep the boundary register's values; the bypass register is scanned. -/
def execClamp (tap : Fin 10) (dr : Nat) (s : State) : Host.Outcome State Fault Refusal := .next (s.pinDrive tap 0x04 dr (fun s => s.bypassScan tap dr))

/-- HIGHZ (R575): the pins float; the bypass register is scanned. -/
def execHighz (tap : Fin 10) (dr : Nat) (s : State) : Host.Outcome State Fault Refusal := .next (s.pinDrive tap 0x05 dr (fun s => s.bypassScan tap dr))

/-- EXTEST_PULSE (R575), on the PCIe and Ethernet lanes. -/
def execExtestPulse (tap : Fin 10) (dr : Nat) (s : State) : Host.Outcome State Fault Refusal := .next (s.pinDrive tap 0x06 dr (fun s => s.boundaryScan tap dr))

/-- EXTEST_TRAIN (R575), on the PCIe and Ethernet lanes. -/
def execExtestTrain (tap : Fin 10) (dr : Nat) (s : State) : Host.Outcome State Fault Refusal := .next (s.pinDrive tap 0x07 dr (fun s => s.boundaryScan tap dr))

/-- DBG_ACCESS (R576): bits [63:0] of the register carry the data, [89:64] the window A offset, bit 90 the direction (1 writes),
bit 91 an access of 8 bytes in place of 4 (log 51). -/
def execDbgAccess (tap : Fin 10) (dr : Nat) (s : State) : Host.Outcome State Fault Refusal :=
  let s := s.loadIr tap 0x20
  let off := bits dr 89 64
  let n := if bit dr 91 then 8 else 4
  .next (if bit dr 90 then s.regWrite .jtag off (leBytes n (bits dr 63 0)) else s.regRead .jtag off n)

/-- BYPASS (R575). -/
def execBypass (tap : Fin 10) (dr : Nat) (s : State) : Host.Outcome State Fault Refusal := .next ((s.loadIr tap 0xFF).bypassScan tap dr)

/-- TRST_N (R574): Test-Logic-Reset; each TAP selects IDCODE. -/
def execTrstN (s : State) : Host.Outcome State Fault Refusal := .next { s with jtag := { s.jtag with ir := Vector.replicate 10 1 } }

end Sys2Proof.Machine
end

