-- ==== Sys2Proof/Machine/Dispatch.lean ====
section
/-! DEFINITION. One arm per command: the call of its meaning. -/

namespace Sys2Proof.Machine

/-- The effect of a command on everything but the queue. -/
def exec (i : Instr) (s : State) : Host.Outcome State Fault Refusal :=
  match i with
  | .nop b w => Sys2Proof.Machine.execNop b w s
  | .endChain b w t => Sys2Proof.Machine.execEndChain b w t s
  | .fence b w => Sys2Proof.Machine.execFence b w s
  | .tdset b w => Sys2Proof.Machine.execTdset b w s
  | .load b w => Sys2Proof.Machine.execLoad b w s
  | .store b w => Sys2Proof.Machine.execStore b w s
  | .copy b w => Sys2Proof.Machine.execCopy b w s
  | .mma b w => Sys2Proof.Machine.execMma b w s
  | .conv b w => Sys2Proof.Machine.execConv b w s
  | .loupe b w => Sys2Proof.Machine.execLoupe b w s
  | .xmma b w => Sys2Proof.Machine.execXmma b w s
  | .drain b w => Sys2Proof.Machine.execDrain b w s
  | .spill b w => Sys2Proof.Machine.execSpill b w s
  | .fill b w => Sys2Proof.Machine.execFill b w s
  | .xdrain b w => Sys2Proof.Machine.execXdrain b w s
  | .vop b w => Sys2Proof.Machine.execVop b w s
  | .red b w => Sys2Proof.Machine.execRed b w s
  | .mtpush b w => Sys2Proof.Machine.execMtpush b w s
  | .mtpull b w => Sys2Proof.Machine.execMtpull b w s
  | .clasp b w => Sys2Proof.Machine.execClasp b w s
  | .save b w => Sys2Proof.Machine.execSave b w s
  | .restore b w => Sys2Proof.Machine.execRestore b w s
  | .dbgrd b w => Sys2Proof.Machine.execDbgrd b w s
  | .dbgwr b w => Sys2Proof.Machine.execDbgwr b w s
  | .commandComplete b idx => Sys2Proof.Machine.execCommandComplete b idx s
  | .prescanEnd b => Sys2Proof.Machine.execPrescanEnd b s
  | .chainFetch b => Sys2Proof.Machine.execChainFetch b s
  | .chainOverrun b => Sys2Proof.Machine.execChainOverrun b s
  | .claspWake b t => Sys2Proof.Machine.execClaspWake b t s
  | .clpTimeout b => Sys2Proof.Machine.execClpTimeout b s
  | .sliceOverrun uid rank cycles => Sys2Proof.Machine.execSliceOverrun uid rank cycles s
  | .beadWatchdog b t => Sys2Proof.Machine.execBeadWatchdog b t s
  | .frameTick t => Sys2Proof.Machine.execFrameTick t s
  | .sliceStart uid t => Sys2Proof.Machine.execSliceStart uid t s
  | .fsyncInEdge t => Sys2Proof.Machine.execFsyncInEdge t s
  | .frmSyncLost => Sys2Proof.Machine.execFrmSyncLost s
  | .commitPoint uid t => Sys2Proof.Machine.execCommitPoint uid t s
  | .setLoadGo v x => Sys2Proof.Machine.execSetLoadGo v x s
  | .setCheckDone => Sys2Proof.Machine.execSetCheckDone s
  | .setTimeout => Sys2Proof.Machine.execSetTimeout s
  | .flashWrite ok1 ok2 => Sys2Proof.Machine.execFlashWrite ok1 ok2 s
  | .claspSignal who id n => Sys2Proof.Machine.execClaspSignal who id n s
  | .claspWait who id target => Sys2Proof.Machine.execClaspWait who id target s
  | .claspArrive who id target => Sys2Proof.Machine.execClaspArrive who id target s
  | .claspReset who id => Sys2Proof.Machine.execClaspReset who id s
  | .claspFail who id => Sys2Proof.Machine.execClaspFail who id s
  | .clpOpSignal v x => Sys2Proof.Machine.execClpOpSignal v x s
  | .clpOpWait v x => Sys2Proof.Machine.execClpOpWait v x s
  | .clpOpArrive v x => Sys2Proof.Machine.execClpOpArrive v x s
  | .clpOpReset v x => Sys2Proof.Machine.execClpOpReset v x s
  | .clpOpFail v x => Sys2Proof.Machine.execClpOpFail v x s
  | .clpMsixArm v entry x => Sys2Proof.Machine.execClpMsixArm v entry x s
  | .openSes src m hub t => Sys2Proof.Machine.execOpenSes src m hub t s
  | .sesQuotaReserve svc => Sys2Proof.Machine.execSesQuotaReserve svc s
  | .request src m t => Sys2Proof.Machine.execRequest src m t s
  | .abort src m => Sys2Proof.Machine.execAbort src m s
  | .close src m => Sys2Proof.Machine.execClose src m s
  | .sesIdle idx t => Sys2Proof.Machine.execSesIdle idx t s
  | .sesSqTail v x => Sys2Proof.Machine.execSesSqTail v x s
  | .sesCqHead v x => Sys2Proof.Machine.execSesCqHead v x s
  | .sesEntRead v x => Sys2Proof.Machine.execSesEntRead v x s
  | .bpmAlloc v x => Sys2Proof.Machine.execBpmAlloc v x s
  | .bpmFree v x => Sys2Proof.Machine.execBpmFree v x s
  | .quarantineEnd pool => Sys2Proof.Machine.execQuarantineEnd pool s
  | .scrubLine stack line e => Sys2Proof.Machine.execScrubLine stack line e s
  | .sramScrub die bad => Sys2Proof.Machine.execSramScrub die bad s
  | .pcRetire stack pc => Sys2Proof.Machine.execPcRetire stack pc s
  | .hbmRefresh2x stack temp => Sys2Proof.Machine.execHbmRefresh2x stack temp s
  | .stackSelfRefresh stack => Sys2Proof.Machine.execStackSelfRefresh stack s
  | .rd x e => Sys2Proof.Machine.execRd x e s
  | .wr x e => Sys2Proof.Machine.execWr x e s
  | .addX x e fmt => Sys2Proof.Machine.execAddX x e fmt s
  | .rdData x => Sys2Proof.Machine.execRdData x s
  | .wrAck x => Sys2Proof.Machine.execWrAck x s
  | .frame x => Sys2Proof.Machine.execFrame x s
  | .deliver x d => Sys2Proof.Machine.execDeliver x d s
  | .bpm x req => Sys2Proof.Machine.execBpm x req s
  | .filGroupRx ch gseq crcOk xs ack nak => Sys2Proof.Machine.execFilGroupRx ch gseq crcOk xs ack nak s
  | .filAckTimeout ch => Sys2Proof.Machine.execFilAckTimeout ch s
  | .filLaneSpared link module lane => Sys2Proof.Machine.execFilLaneSpared link module lane s
  | .filRemapDone link module => Sys2Proof.Machine.execFilRemapDone link module s
  | .filSubchLost ch bi => Sys2Proof.Machine.execFilSubchLost ch bi s
  | .ethFrameRx path fcsOk crcOk ce prio sg => Sys2Proof.Machine.execEthFrameRx path fcsOk crcOk ce prio sg s
  | .pfcPause path on => Sys2Proof.Machine.execPfcPause path on s
  | .data path sg => Sys2Proof.Machine.execData path sg s
  | .ack path sg => Sys2Proof.Machine.execAck path sg s
  | .hello path sg h => Sys2Proof.Machine.execHello path sg h s
  | .helloAck path sg h => Sys2Proof.Machine.execHelloAck path sg h s
  | .probe path sg => Sys2Proof.Machine.execProbe path sg s
  | .bye path sg => Sys2Proof.Machine.execBye path sg s
  | .earlyNak path sg => Sys2Proof.Machine.execEarlyNak path sg s
  | .ackTimer peer vc => Sys2Proof.Machine.execAckTimer peer vc s
  | .retransmitTimeout peer vc psn t => Sys2Proof.Machine.execRetransmitTimeout peer vc psn t s
  | .congestionInterval t => Sys2Proof.Machine.execCongestionInterval t s
  | .netPortDown path => Sys2Proof.Machine.execNetPortDown path s
  | .netPathSuspect peer path => Sys2Proof.Machine.execNetPathSuspect peer path s
  | .probeTimer peer path => Sys2Proof.Machine.execProbeTimer peer path s
  | .peerIdleRemove peer t => Sys2Proof.Machine.execPeerIdleRemove peer t s
  | .claspOp peer fedUid clasp op tag rank => Sys2Proof.Machine.execClaspOp peer fedUid clasp op tag rank s
  | .claspDone peer tag status counter => Sys2Proof.Machine.execClaspDone peer tag status counter s
  | .collFail peer group epoch seq status => Sys2Proof.Machine.execCollFail peer group epoch seq status s
  | .fedJoin peer fedUid j => Sys2Proof.Machine.execFedJoin peer fedUid j s
  | .fedFormed peer fedUid version offset => Sys2Proof.Machine.execFedFormed peer fedUid version offset s
  | .fedStart peer fedUid epoch count replay => Sys2Proof.Machine.execFedStart peer fedUid epoch count replay s
  | .fedReady peer fedUid epoch status => Sys2Proof.Machine.execFedReady peer fedUid epoch status s
  | .fedCommit peer fedUid epoch t => Sys2Proof.Machine.execFedCommit peer fedUid epoch t s
  | .fedAbort peer fedUid epoch status => Sys2Proof.Machine.execFedAbort peer fedUid epoch status s
  | .fedRetry fedUid => Sys2Proof.Machine.execFedRetry fedUid s
  | .collTimeout uid seq => Sys2Proof.Machine.execCollTimeout uid seq s
  | .collEarlyResend x d => Sys2Proof.Machine.execCollEarlyResend x d s
  | .mtTimeout uid mseq => Sys2Proof.Machine.execMtTimeout uid mseq s
  | .ptpSync master origin rx => Sys2Proof.Machine.execPtpSync master origin rx s
  | .ptpAnnounceTimeout => Sys2Proof.Machine.execPtpAnnounceTimeout s
  | .ppsInEdge t => Sys2Proof.Machine.execPpsInEdge t s
  | .porstN bi => Sys2Proof.Machine.execPorstN bi s
  | .trialWatchdog bi => Sys2Proof.Machine.execTrialWatchdog bi s
  | .perstN hub asserted => Sys2Proof.Machine.execPerstN hub asserted s
  | .functionLevelReset f => Sys2Proof.Machine.execFunctionLevelReset f s
  | .wincRead f off len => Sys2Proof.Machine.execWincRead f off len s
  | .wincWrite f off bytes poisoned => Sys2Proof.Machine.execWincWrite f off bytes poisoned s
  | .devUwinFunc v win x => Sys2Proof.Machine.execDevUwinFunc v win x s
  | .devWincBase v x => Sys2Proof.Machine.execDevWincBase v x s
  | .negotiate f => Sys2Proof.Machine.execNegotiate f s
  | .query f => Sys2Proof.Machine.execQuery f s
  | .release f => Sys2Proof.Machine.execRelease f s
  | .mboxResponse f => Sys2Proof.Machine.execMboxResponse f s
  | .frmSlicePtr v x => Sys2Proof.Machine.execFrmSlicePtr v x s
  | .frmUnitSlicePtr v x => Sys2Proof.Machine.execFrmUnitSlicePtr v x s
  | .registerWrite v off bytes => Sys2Proof.Machine.execRegisterWrite v off bytes s
  | .mctpPacket bind pecOk m => Sys2Proof.Machine.execMctpPacket bind pecOk m s
  | .smbClkTimeout => Sys2Proof.Machine.execSmbClkTimeout s
  | .sensorRefresh r => Sys2Proof.Machine.execSensorRefresh r s
  | .pldmFirmwareUpdate bundle confirm => Sys2Proof.Machine.execPldmFirmwareUpdate bundle confirm s
  | .pldmParamUpdate upd => Sys2Proof.Machine.execPldmParamUpdate upd s
  | .getVersion tr r => Sys2Proof.Machine.execGetVersion tr r s
  | .getCapabilities tr r => Sys2Proof.Machine.execGetCapabilities tr r s
  | .negotiateAlgorithms tr r => Sys2Proof.Machine.execNegotiateAlgorithms tr r s
  | .getDigests tr r => Sys2Proof.Machine.execGetDigests tr r s
  | .getCertificate tr r => Sys2Proof.Machine.execGetCertificate tr r s
  | .challenge tr r => Sys2Proof.Machine.execChallenge tr r s
  | .getMeasurements tr r => Sys2Proof.Machine.execGetMeasurements tr r s
  | .uartRxFrame start stop x => Sys2Proof.Machine.execUartRxFrame start stop x s
  | .uartRearm => Sys2Proof.Machine.execUartRearm s
  | .uartTxByte v x => Sys2Proof.Machine.execUartTxByte v x s
  | .uartDataRead v => Sys2Proof.Machine.execUartDataRead v s
  | .idcode tap dr => Sys2Proof.Machine.execIdcode tap dr s
  | .samplePreload tap dr => Sys2Proof.Machine.execSamplePreload tap dr s
  | .extest tap dr => Sys2Proof.Machine.execExtest tap dr s
  | .clamp tap dr => Sys2Proof.Machine.execClamp tap dr s
  | .highz tap dr => Sys2Proof.Machine.execHighz tap dr s
  | .extestPulse tap dr => Sys2Proof.Machine.execExtestPulse tap dr s
  | .extestTrain tap dr => Sys2Proof.Machine.execExtestTrain tap dr s
  | .dbgAccess tap dr => Sys2Proof.Machine.execDbgAccess tap dr s
  | .bypass tap dr => Sys2Proof.Machine.execBypass tap dr s
  | .trstN => Sys2Proof.Machine.execTrstN s
  | .schedTakeover reported t bi => Sys2Proof.Machine.execSchedTakeover reported t bi s
  | .schedStandbyLost => Sys2Proof.Machine.execSchedStandbyLost s
  | .fwupGo v x => Sys2Proof.Machine.execFwupGo v x s
  | .fwupConfirm v x => Sys2Proof.Machine.execFwupConfirm v x s
  | .mgtReset v x bi => Sys2Proof.Machine.execMgtReset v x bi s
  | .paramSigned v x => Sys2Proof.Machine.execParamSigned v x s
  | .paramGeneral v x => Sys2Proof.Machine.execParamGeneral v x s
  | .hmkExt v x => Sys2Proof.Machine.execHmkExt v x s
  | .hmkDbgChalRead v => Sys2Proof.Machine.execHmkDbgChalRead v s
  | .hmkDbgRespGo v x => Sys2Proof.Machine.execHmkDbgRespGo v x s
  | .pwrReq v x => Sys2Proof.Machine.execPwrReq v x s
  | .pwrCap v x => Sys2Proof.Machine.execPwrCap v x s
  | .powerSample watts t => Sys2Proof.Machine.execPowerSample watts t s
  | .thermalEmergency sensor temp => Sys2Proof.Machine.execThermalEmergency sensor temp s
  | .thermalStep => Sys2Proof.Machine.execThermalStep s
  | .prochotN low => Sys2Proof.Machine.execProchotN low s
  | .thermtripN sensor temp => Sys2Proof.Machine.execThermtripN sensor temp s
  | .voltageLower => Sys2Proof.Machine.execVoltageLower s
  | .railOutOfRange => Sys2Proof.Machine.execRailOutOfRange s
  | .facetFault b f t => Sys2Proof.Machine.execFacetFault b f t s
  | .beadFault b t => Sys2Proof.Machine.execBeadFault b t s
  | .strandFault die strand t => Sys2Proof.Machine.execStrandFault die strand t s
  | .hostCoreFault c => Sys2Proof.Machine.execHostCoreFault c s
  | .recompositionDone uid t => Sys2Proof.Machine.execRecompositionDone uid t s
  | .cdieLoss die bi => Sys2Proof.Machine.execCdieLoss die bi s
  | .hubLoss hub => Sys2Proof.Machine.execHubLoss hub s
  | .rasStReq v x => Sys2Proof.Machine.execRasStReq v x s
  | .selfTestEnd b pass result => Sys2Proof.Machine.execSelfTestEnd b pass result s
  | .preemptReq v b x => Sys2Proof.Machine.execPreemptReq v b x s
  | .preempted b => Sys2Proof.Machine.execPreempted b s
  | .preemptResume v b x => Sys2Proof.Machine.execPreemptResume v b x s
  | .dbgMode v b x => Sys2Proof.Machine.execDbgMode v b x s
  | .dbgTraceCtrl v buf x => Sys2Proof.Machine.execDbgTraceCtrl v buf x s
  | .errQHead v x => Sys2Proof.Machine.execErrQHead v x s
  | .netAddrWrite v x => Sys2Proof.Machine.execNetAddrWrite v x s
  | .netAddrRead v x => Sys2Proof.Machine.execNetAddrRead v x s
  | .hostCoreAccess c addr a => Sys2Proof.Machine.execHostCoreAccess c addr a s
  | .registerRead v off len => Sys2Proof.Machine.execRegisterRead v off len s
  | .configurationRequest f op => Sys2Proof.Machine.execConfigurationRequest f op s
  | .smbusAlertResponse => Sys2Proof.Machine.execSmbusAlertResponse s
  | .ptpAnnounce master prio t => Sys2Proof.Machine.execPtpAnnounce master prio t s
  | .ptpDelayResp master reqTx respRx => Sys2Proof.Machine.execPtpDelayResp master reqTx respRx s
  | .hbmRefreshNormal stack temp => Sys2Proof.Machine.execHbmRefreshNormal stack temp s
  | .pcsBlockLock path => Sys2Proof.Machine.execPcsBlockLock path s
  | .preWarmSlippedStart uid t => Sys2Proof.Machine.execPreWarmSlippedStart uid t s

end Sys2Proof.Machine
end

