-- ==== Sys2Proof/Safety.lean ====
section
/-! DEFINITION. What counts as a safe run: which commands a device takes, when a command completes, and the conditions on a state
that the statements name. -/

namespace Sys2Proof

/-- What a command needs of the device (log 59). -/
inductive Needs where
  /-- Nothing: it acts while PORST_N is low too. -/
  | nothing
  /-- Clocks: it acts on a device that has halted with FATAL too. -/
  | clocks
  /-- A device that runs. -/
  | running
  deriving DecidableEq, Repr

/-- The pins of the boot and of JTAG, and configuration requests, need nothing; the rows of the registers, the pins and the
management ports need clocks; every other row needs a device that runs (R83, R594, R662). -/
def Instr.needs : Instr → Needs
  | .porstN _ | .perstN _ _ | .idcode _ _ | .samplePreload _ _ | .extest _ _ | .clamp _ _ | .highz _ _ | .extestPulse _ _ |
    .extestTrain _ _ | .dbgAccess _ _ | .bypass _ _ | .trstN | .railOutOfRange | .configurationRequest _ _ => .nothing
  | .setLoadGo _ _ | .flashWrite _ _ | .clpOpSignal _ _ | .clpOpWait _ _ | .clpOpArrive _ _ | .clpOpReset _ _ |
    .clpOpFail _ _ | .clpMsixArm _ _ _ | .sesSqTail _ _ | .sesCqHead _ _ | .sesEntRead _ _ | .bpmAlloc _ _ | .bpmFree _ _ |
    .functionLevelReset _ | .wincRead _ _ _ | .wincWrite _ _ _ _ | .devUwinFunc _ _ _ | .devWincBase _ _ | .negotiate _ |
    .query _ | .release _ | .mboxResponse _ | .frmSlicePtr _ _ | .frmUnitSlicePtr _ _ | .registerWrite _ _ _ |
    .mctpPacket _ _ _ | .smbClkTimeout | .sensorRefresh _ | .pldmFirmwareUpdate _ _ | .pldmParamUpdate _ | .getVersion _ _ |
    .getCapabilities _ _ | .negotiateAlgorithms _ _ | .getDigests _ _ | .getCertificate _ _ | .challenge _ _ |
    .getMeasurements _ _ | .uartRxFrame _ _ _ | .uartRearm | .uartTxByte _ _ | .uartDataRead _ | .fwupGo _ _ |
    .fwupConfirm _ _ | .mgtReset _ _ _ | .paramSigned _ _ | .paramGeneral _ _ | .hmkExt _ _ | .hmkDbgChalRead _ |
    .hmkDbgRespGo _ _ | .pwrReq _ _ | .pwrCap _ _ | .rasStReq _ _ | .preemptReq _ _ _ | .preemptResume _ _ _ |
    .dbgMode _ _ _ | .dbgTraceCtrl _ _ _ | .errQHead _ _ | .netAddrWrite _ _ | .netAddrRead _ _ | .registerRead _ _ _ |
    .smbusAlertResponse => .clocks
  | _ => .running

end Sys2Proof

namespace Sys2Proof.Machine

/-- A command runs to a next state. -/
def Completes (i : Instr) (s : State) : Prop := ∃ t, exec i s = .next t

/-- Every command of the queue runs to a next state, one after the other. -/
def SafeRun : Nat → State → Prop
  | 0, _ => True
  | n + 1, s => ∃ t, step s = .next t ∧ SafeRun n t

/-- The parts of the state, one name per field. -/
inductive Part where
  | now | freeCtr | dev | set | frm | beads | units | merges | mtWait | colls | early | clasps | claspSnap | stalledOps | sessions | quota | sesReserved | mem | bpm | fil |
    net | fns | wins | halves | perst | hmk | pwr | mgt | jtag | ras | errGlobal | errUnit | errCnt | filFi | netFi | sel | serial | out | pending
  deriving DecidableEq, Repr

/-- Do two states agree in a part? -/
def Part.same : Part → State → State → Prop
  | .now, s, t => t.now = s.now
  | .freeCtr, s, t => t.freeCtr = s.freeCtr
  | .dev, s, t => t.dev = s.dev
  | .set, s, t => t.set = s.set
  | .frm, s, t => t.frm = s.frm
  | .beads, s, t => t.beads = s.beads
  | .units, s, t => t.units = s.units
  | .merges, s, t => t.merges = s.merges
  | .mtWait, s, t => t.mtWait = s.mtWait
  | .colls, s, t => t.colls = s.colls
  | .early, s, t => t.early = s.early
  | .clasps, s, t => t.clasps = s.clasps
  | .claspSnap, s, t => t.claspSnap = s.claspSnap
  | .stalledOps, s, t => t.stalledOps = s.stalledOps
  | .sessions, s, t => t.sessions = s.sessions
  | .quota, s, t => t.quota = s.quota
  | .sesReserved, s, t => t.sesReserved = s.sesReserved
  | .mem, s, t => t.mem = s.mem
  | .bpm, s, t => t.bpm = s.bpm
  | .fil, s, t => t.fil = s.fil
  | .net, s, t => t.net = s.net
  | .fns, s, t => t.fns = s.fns
  | .wins, s, t => t.wins = s.wins
  | .halves, s, t => t.halves = s.halves
  | .perst, s, t => t.perst = s.perst
  | .hmk, s, t => t.hmk = s.hmk
  | .pwr, s, t => t.pwr = s.pwr
  | .mgt, s, t => t.mgt = s.mgt
  | .jtag, s, t => t.jtag = s.jtag
  | .ras, s, t => t.ras = s.ras
  | .errGlobal, s, t => t.errGlobal = s.errGlobal
  | .errUnit, s, t => t.errUnit = s.errUnit
  | .errCnt, s, t => t.errCnt = s.errCnt
  | .filFi, s, t => t.filFi = s.filFi
  | .netFi, s, t => t.netFi = s.netFi
  | .sel, s, t => t.sel = s.sel
  | .serial, s, t => t.serial = s.serial
  | .out, s, t => t.out = s.out
  | .pending, s, t => t.pending = s.pending

/-- `t` differs from `s` at most in the listed parts: the frame of a command. -/
def SameBut (l : List Part) (s t : State) : Prop := ∀ p : Part, p ∉ l → p.same s t

/-- Is byte `x` of the package memory one that a write of `n` bytes at `a` through the directory stores: one of its own,
or one of a dirty host-core copy of its lines (R429)? -/
def MemState.touches (m : MemState) (a n x : Nat) : Prop :=
  (a ≤ x ∧ x < a + n) ∨
  ∃ p, p ∈ m.core ∧ p.2.dirty = true ∧ p.1 ∈ granules 64 a n ∧ p.1 * 64 ≤ x ∧ x < p.1 * 64 + p.2.bytes.length

/-- The address of a notify word (R479). -/
def State.notifyAt (s : State) (window : Option Nat) (nidx : Nat) : Nat :=
  match window with
  | some w => (s.win w).notifyBase + 8 * nidx
  | none => s.sel.clpNotify + 8 * nidx

/-- Does the completion of a wait store to byte `x`? -/
def State.notifyTouches (s : State) (who : Waiter) (x : Nat) : Prop :=
  match who with
  | .notify w n => s.mem.touches (s.notifyAt w n) 8 x
  | _ => False

/-- The parts that the completion of waits and the MSI-X entries of a clasp may write besides the clasp itself. -/
def claspParts : List Part := [.freeCtr, .beads, .clasps, .mem, .net, .fns, .wins, .errGlobal, .errUnit, .out]

/-- `t` is `s` after the clasp has taken a counter and an error flag: the waits that these satisfy are gone and completed, beads'
waits by the wake of the bead (R470, R476), the others stay in their order; no other clasp changes, nor any byte of memory but
those of the notify words of the completed waits (R479). -/
structure ClaspTakes (s t : State) (id counter : Nat) (err : Bool) : Prop where
  value : (t.clasp id).counter = counter ∧ (t.clasp id).err = err
  waits : (t.clasp id).waits = (s.clasp id).waits.filter (fun w => !(err || decide (w.target ≤ counter)))
  others : ∀ i, i ≠ id → t.clasp i = s.clasp i
  woken : ∀ b, t.bead b = if (s.clasp id).waits.any (fun w => w.who == .bead b && (err || decide (w.target ≤ counter))) then
    { s.bead b with wake := some err } else s.bead b
  bytes : ∀ x, (∀ w, w ∈ (s.clasp id).waits → (err = true ∨ w.target ≤ counter) → ¬ s.notifyTouches w.who x) →
    t.mem.ram.read x = s.mem.ram.read x
  frame : SameBut claspParts s t

/-- An access of the view reaches a register of window A (Table 17-2): the view has window A, and the device serves the
register's block. -/
def State.reachesA (s : State) (v : Via) (off : Nat) : Prop :=
  viaWindow v = none ∧ s.gate v off true = .ok .a ∧ s.gate v off false = .ok .a

/-- A write of the view reaches a register of user window `w`: the window is bound to the view's function or host core. -/
def State.reachesW (s : State) (v : Via) (w off : Nat) : Prop := viaWindow v = some w ∧ s.gate v off true = .ok (.win w)

/-- The function of the view, if it has one, has negotiated an ABI version (R567). -/
def State.negotiated (s : State) (v : Via) : Prop := ∀ f, viaFn v = some f → (s.fn f).abi ≠ 0

/-! ## Slices and beads -/

/-- The parts that the failure of a slice may write. -/
def failParts : List Part := [.freeCtr, .beads, .units, .merges, .mtWait, .colls, .early, .clasps, .stalledOps, .mem, .bpm, .net, .fns,
  .wins, .ras, .errGlobal, .errUnit, .errCnt, .out]

/-- `t` is `s` after the slice `sl` of unit `uid` has failed (R39, R61, R67, R375): the unit runs no slice; every leaf is stopped
with nothing in its window and nothing held, and another bead keeps all but the wake of a wait that has completed; a native unit
keeps its header for the replay, and every clasp that it declares as outgoing carries the error flag; no other unit's slice
changes. -/
structure SliceFails (s t : State) (uid : Nat) (sl : Slice) : Prop where
  gone : (t.unitSt uid).slice = none
  leaves : ∀ b, b ∈ sl.beads → (t.bead b).phase = .stopped ∧ (t.bead b).window = [] ∧ (t.bead b).held = none
  others : ∀ b, b ∉ sl.beads → ∃ k, t.bead b = { s.bead b with wake := k }
  replay : s.set.cur.s1 uid = false → ∃ r, (t.unitSt uid).replay = some r ∧ r.header = sl.header
  clasps : s.set.cur.s1 uid = false → ∀ id, id ∈ sl.header.outClasps → (t.clasp id).err = true
  units : ∀ v, v ≠ uid → (t.unitSt v).slice = (s.unitSt v).slice
  frame : SameBut failParts s t

/-- The bead has decoded its next command: the index has moved on (R386, R627). -/
def State.taken (s : State) (c : Ctx) (w : CmdWord) : State :=
  (s.traceCmd c.b (s.bead c.b).next (opcodeOf w) 0 0).updBead c.b (fun x => { x with next := (s.bead c.b).next + 1 })

/-- The same with an MTPUSH's records reserved (R363). -/
def State.decoded (s : State) (c : Ctx) (w : CmdWord) : State := if opcodeOf w = 0x38 then (s.taken c w).mtReserve c w else s.taken c w

/-- The command issues. -/
def State.issued (s : State) (c : Ctx) (w : CmdWord) : State :=
  ((s.decoded c w).traceCmd c.b (s.bead c.b).next (opcodeOf w) 1 0).updBead c.b (fun x => { x with held := none })

/-- The bead decodes the word as its next command (R384, R386): it runs a slice with nothing held and room in its window, and
the ring holds the word at the next index. -/
structure Decodes (s : State) (b : Nat) (w : CmdWord) (c : Ctx) : Prop where
  ctx : s.ctx? b = some c
  ready : (s.bead b).ready w = true
  alone : s.mtWait = []

/-- Decode and checks 1 to 6 pass the command (R254, R392). -/
structure Legal (s : State) (w : CmdWord) (c : Ctx) : Prop where
  decode : decodeBad c ((s.taken c w).bead c.b).debug
    ((((s.taken c w).unitSt c.uid).slice.map (fun sl => sl.header.outClasps)).getD []) w = none
  checks : checkBad (s.taken c w) c w = none

/-- The wait half of the clasp word is absent or satisfied (R393). -/
def State.waitMet (s : State) (w : CmdWord) : Prop :=
  waitEn w = true → (s.clasp (waitId w)).err = false ∧ waitTgt w ≤ (s.clasp (waitId w)).counter

/-- A signal that the slice does not declare as outgoing, or none: it is made at once (R394). -/
def Ctx.signals (c : Ctx) (s : State) (id : Nat) : Prop :=
  c.s1 = true ∨ id ∉ (((s.unitSt c.uid).slice.map (fun sl => sl.header.outClasps)).getD [])


end Sys2Proof.Machine
end

