-- ==== Sys2Proof/Certificates/Slice0/Obligations.lean ====
section
/-! DEFINITION. The statements for the provers. -/

set_option autoImplicit false

open Sys2Proof Sys2Proof.Machine

/-- A step runs the command at the front of the queue on the queue's rest; on an empty queue the block idles (the model's choice, log 1). Rests on 00_scope.md, notes/assumptions/1.md, notes/assumptions/2.md. -/
def Obligations.StepRunsFront : Prop :=
  (∀ (c : Instr) (cs : List Instr) (s : State), s.pending = c :: cs → step s = exec c { s with pending := cs }) ∧
  ∀ s : State, s.pending = [] → step s = .next s

/-- What the registers with a Reset column read after reset. Rests on 20_registers.md, Table 20-3, Table 20-7, Table 20-14, Table 20-15, Table 20-16, Table 20-18. -/
def Obligations.ResetRegisterValues : Prop :=
  State.reset.rdReg .a 0 = 0 ∧ State.reset.rdReg .a 0x10018 = 0 ∧ State.reset.rdReg .a 0x2000C = 25000 ∧
  State.reset.rdReg .a 0xA0000 = Config.grade.maxClock * 16 ∧ State.reset.rdReg .a 0xA0008 = 3200 ∧
  State.reset.rdReg .a 0xB0008 = 2 ^ 31 ∧ State.reset.rdReg .a 0xB0000 = 0 ∧ State.reset.rdReg .a 0xD0000 = 3472 ∧
  State.reset.rdReg .a 0xD0310 = 0x400 ∧ (∀ w, (State.reset.win w).laneBytes = 128 ∧ (State.reset.win w).cqMask = true) ∧
  (∀ id, (State.reset.clasp id).counter = 0 ∧ (State.reset.clasp id).err = false) ∧ (∀ k, (State.reset.ses k).state = .free) ∧
  State.reset.pending = [] ∧ State.reset.out = []

/-- After reset every memory is in canonical form. Rests on 02_package_hierarchy.md, notes/assumptions/7.md. -/
def Obligations.ResetMemoriesCanonical : Prop :=
  State.reset.canonical = true

/-- Every step keeps the package memory, the scratchpads and the flash in canonical form. Rests on 01_ezver_model.md, 02_package_hierarchy.md, 12_commands.md, 13_memory.md, 18_boot_trust.md. -/
def Obligations.StepKeepsMemoriesCanonical : Prop :=
  ∀ s t : State, s.canonical = true → step s = .next t → t.canonical = true

/-- No command touches the queue, takes back an output or reuses a free value. Rests on 00_scope.md, notes/assumptions/2.md, notes/assumptions/8.md. -/
def Obligations.CommandsOnlyAddToOutputs : Prop :=
  ∀ (i : Instr) (s t : State), exec i s = .next t →
    t.pending = s.pending ∧ s.out <+: t.out ∧ s.freeCtr ≤ t.freeCtr

/-- A device without clocks, or halted with FATAL, keeps its state under every row that needs it to run. Rests on R83, R594, R662, notes/assumptions/59.md. -/
def Obligations.StoppedDeviceKeepsState : Prop :=
  ∀ (i : Instr) (s : State),
    (s.clocksOff = true → i.needs ≠ .nothing → exec i s = .next s) ∧
    (s.halted = true → i.needs = .running → exec i s = .next s)

/-- POWER_SAMPLE keeps the last 1,000 samples and lowers the clock by 200 MHz while a cap condition holds. Rests on R653, R660, R180. -/
def Obligations.PowerSampleMovesCapThrottle : Prop :=
  ∀ (watts t : Nat) (s : State), s.halted = false →
    let q : PwrState := { s.pwr with samples := (watts :: s.pwr.samples).take 1000 }
    let past := if q.cap < q.p100 then s.pwr.capOver + 1 else 0
    let hit := q.cap < q.p10ms ∨ 100 ≤ past ∨ 3700 ≤ q.p100
    ∃ since clk, exec (.powerSample watts t) s =
        .next { s with now := max s.now t, pwr := { q with capOver := past, sinceCapStep := since, capClk := clk } } ∧
      (¬ hit → clk = s.pwr.capClk ∧ since = s.pwr.sinceCapStep) ∧
      (hit → (s.pwr.capClk = none ∨ 9 ≤ s.pwr.sinceCapStep) → clk = some (max 500 (s.pwr.clk - 200)) ∧ since = 0) ∧
      (hit → s.pwr.capClk ≠ none → s.pwr.sinceCapStep < 9 → clk = s.pwr.capClk ∧ since = s.pwr.sinceCapStep + 1)

/-- What the thermal, PROCHOT_N, THERMTRIP_N, voltage, pre-warm and HBM refresh rows do, and that they do nothing else. Rests on R180, R415, R653, R656, R659, R661, R662. -/
def Obligations.ThermalAndRefreshRowsAct : Prop :=
  ∀ s : State, s.halted = false →
    (∀ (k : Fin 26) (temp : Nat), exec (.thermalEmergency k temp) s = .next { s with pwr :=
      if (if k.val < 8 then 100 else if k.val < 10 then 105 else 95) ≤ temp then
        { s.pwr with temps := mput s.pwr.temps k temp, thermClk := some (min 1000 (s.pwr.thermClk.getD 1000)), thermEmergency := true }
      else { s.pwr with temps := mput s.pwr.temps k temp } }) ∧
    exec .thermalStep s = .next { s with pwr :=
      if s.pwr.thermEmergency = true ∧ (List.range 26).any (fun k => decide ((if k < 8 then 100 else if k < 10 then 105 else 95) ≤ mget s.pwr.temps k 0)) = true then
        { s.pwr with thermClk := some (max 500 (s.pwr.thermClk.getD 1000 - 200)) }
      else s.pwr } ∧
    exec (.prochotN true) s =
      .next { s with pwr := { s.pwr with thermClk := some (min 1000 (s.pwr.thermClk.getD 1000)), prochotIn := true } } ∧
    exec (.prochotN false) s = .next { s with pwr := { s.pwr with prochotIn := false } } ∧
    (∀ (k : Fin 26) (temp : Nat), exec (.thermtripN k temp) s = .next { s with pwr := { s.pwr with
      temps := mput s.pwr.temps k temp
      thermtrip := s.pwr.thermtrip || decide ((if k.val < 8 then 110 else if k.val < 10 then 115 else 105) ≤ temp) } }) ∧
    exec .voltageLower s = .next { s with pwr := { s.pwr with vddTarget :=
      if s.pwr.capClk = none ∧ s.pwr.thermClk = none then s.pwr.vddTarget else min s.pwr.vddTarget (vddOf s.pwr.clk) } } ∧
    (∀ uid t, exec (.preWarmSlippedStart uid t) s =
      .next { s with now := max s.now t, pwr := { s.pwr with preWarm := sIns uid s.pwr.preWarm } }) ∧
    (∀ (k : Fin 16) (temp : Nat),
      exec (.hbmRefresh2x k temp) s = .next (if 85 < temp then
        { s with mem := { s.mem with refresh2x := sIns k.val s.mem.refresh2x, caseTemp := mput s.mem.caseTemp k.val temp } } else s) ∧
      exec (.hbmRefreshNormal k temp) s = .next (if temp ≤ 85 then
        { s with mem := { s.mem with refresh2x := sDel k.val s.mem.refresh2x, caseTemp := mput s.mem.caseTemp k.val temp } } else s) ∧
      exec (.stackSelfRefresh k) s = .next (if s.pwr.curState = 2 then
        { s with mem := { s.mem with selfRefresh := sIns k.val s.mem.selfRefresh } } else s))

/-- PC_RETIRE sets the pseudo-channel's bit, marks the device degraded and logs MEM_PC_RETIRED, and keeps every byte. Rests on R424, R425. -/
def Obligations.PcRetireSetsStatusBit : Prop :=
  ∀ (k : Fin 16) (pc : Fin 64) (s : State), s.halted = false →
    (bit (mget s.mem.retired k.val 0) pc.val = true → exec (.pcRetire k pc) s = .next s) ∧
    (bit (mget s.mem.retired k.val 0) pc.val = false → ∃ t uid, exec (.pcRetire k pc) s = .next t ∧
      t.mem = { s.mem with retired := mput s.mem.retired k.val (mget s.mem.retired k.val 0 + 2 ^ pc.val) } ∧
      t.dev = { s.dev with memDegraded := true } ∧
      t.errGlobal = s.errGlobal.push 32768 (s.mkRec St.memPcRetired 0 (vaultAgent (k.val / 2)) uid (k.val * stackWindow + pc.val * 4096) true) ∧
      t.beads = s.beads ∧ t.units = s.units ∧ t.sessions = s.sessions ∧ t.clasps = s.clasps ∧ t.set = s.set)

/-- SCRUB_LINE counts 64 bytes, wakes the stack, counts a corrected error and poisons a line with an uncorrectable one. Rests on R416, R421, R422, R659. -/
def Obligations.ScrubLineCountsAndPoisons : Prop :=
  ∀ (k : Fin 16) (n : Nat) (s : State), s.halted = false →
    let u : State := { s with mem := { s.mem with scrubBytes := mcount s.mem.scrubBytes k.val 64, selfRefresh := sDel k.val s.mem.selfRefresh } }
    exec (.scrubLine k.val n .none) s = .next u ∧
    (∀ e, ∃ t, exec (.scrubLine k.val n e) s = .next t ∧ t.mem.ram = s.mem.ram ∧ t.beads = s.beads ∧ t.clasps = s.clasps ∧
      (stackBytes ≤ n * 64 ∨ s.mem.poisoned (k.val * stackWindow + n * 64) 1 = true → t = u) ∧
      (n * 64 < stackBytes → s.mem.poisoned (k.val * stackWindow + n * 64) 1 = false →
        (e = .correctable → t.mem = { u.mem with ce := mcount s.mem.ce k.val 1 }) ∧
        (e = .uncorrectable → t.mem.poisoned (k.val * stackWindow + n * 64) 1 = true ∧
          (∃ ts rt, t.mem = { u.mem with
            poison := granMark 64 s.mem.poison (k.val * stackWindow + n * 64) 64, ue := mcount s.mem.ue k.val 1, ueTimes := ts, retired := rt }))))

/-- SRAM_SCRUB leaves every bad granule poisoned and changes no byte. Rests on R417, R421, R422. -/
def Obligations.SramScrubPoisonsBadGranules : Prop :=
  ∀ (die : Die) (bad : List (Nat × Nat)) (s : State), s.halted = false → ∃ t, exec (.sramScrub die bad) s = .next t ∧
    t.mem.ram = s.mem.ram ∧ (∀ b, (t.bead b).sp = (s.bead b).sp ∧ (t.bead b).acc = (s.bead b).acc) ∧
    (∀ g, g ∈ bad → g.1 < 20 → g.2 < 0x600000 → (t.bead (die.val * 20 + g.1)).spBad g.2 1 = true) ∧
    (∀ g, g ∈ bad → 20 ≤ g.1 → g.2 < s.set.cur.vaultLen die.val → t.mem.poisoned (vaultBase + die.val * 2 ^ 32 + g.2) 1 = true) ∧
    (∀ b a, (s.bead b).spBad a 1 = true → (t.bead b).spBad a 1 = true)

/-- QUARANTINE_END frees or retires the quarantined pages whose slices have settled, and no other page. Rests on R425, R439. -/
def Obligations.QuarantineEndFreesSettledPages : Prop :=
  ∀ (pool : Nat) (s : State), s.halted = false →
    (s.set.cur.pools[pool]? = none → exec (.quarantineEnd pool) s = .next s) ∧
    (∀ p, s.set.cur.pools[pool]? = some p → ∃ pages lists ret,
      exec (.quarantineEnd pool) s = .next { s with bpm := { s.bpm with pages := pages, lists := lists, retired := ret } } ∧
      (∀ f, (s.page f).state ≠ .quarantine ∨ (s.page f).waitsFor.any s.sliceRuns = true → mget pages f {} = s.page f) ∧
      (∀ f, (∀ x, x ∈ s.usedIn p → x.1 ≠ f) → mget pages f {} = s.page f) ∧
      (∀ x, x ∈ s.usedIn p → (s.page x.1).state = .quarantine → (s.page x.1).waitsFor.any s.sliceRuns = false →
        ((s.page x.1).mark = true ∨ (s.page x.1).holed = true → (mget pages x.1 {}).state = .retired) ∧
        ((s.page x.1).mark = false → (s.page x.1).holed = false →
          mget pages x.1 {} = { s.page x.1 with state := .free, owner := 0, waitsFor := [], link := 0 })))

/-- CLASP_SIGNAL, CLASP_RESET and CLASP_FAIL change the clasp, complete the waits that are now satisfied, and nothing else. Rests on R469, R470, R471, R473, R474, R476, R479. -/
def Obligations.ClaspSignalResetFailSettle : Prop :=
  ∀ (who : ClaspAgent) (id n : Nat) (s : State), s.halted = false → s.stalledOps = [] →
    (s.mayClasp who id 0 = true → ∃ t, exec (.claspSignal who id n) s = .next t ∧
      ClaspTakes s t id (min ((s.clasp id).counter + n) (2 ^ 32 - 1)) ((s.clasp id).err || decide (2 ^ 32 ≤ (s.clasp id).counter + n))) ∧
    (s.mayClasp who id 3 = true → ∃ t, exec (.claspReset who id) s = .next t ∧ ClaspTakes s t id 0 false) ∧
    (s.mayClasp who id 0 = true → ∃ t, exec (.claspFail who id) s = .next t ∧ ClaspTakes s t id (s.clasp id).counter true)

/-- CLASP_WAIT completes at once or is pending; CLASP_ARRIVE increments first and then waits. Rests on R469, R470, R472, R476. -/
def Obligations.ClaspWaitArriveComplete : Prop :=
  ∀ (who : ClaspAgent) (w : Waiter) (id target : Nat) (s : State), s.halted = false → s.stalledOps = [] → waiterOf who = some w →
    (s.mayClasp who id 1 = true →
      ((s.clasp id).err = true ∨ target ≤ (s.clasp id).counter → ∃ t, exec (.claspWait who id target) s = .next t ∧
        t.clasps = s.clasps ∧ SameBut claspParts s t ∧
        (∀ b, w = .bead b → t = { s with beads := mput s.beads b { s.bead b with wake := some (s.clasp id).err } })) ∧
      ((s.clasp id).err = false → (s.clasp id).counter < target → exec (.claspWait who id target) s = .next
        { s with clasps := mput s.clasps id { s.clasp id with waits := (s.clasp id).waits ++ [{ who := w, target }] } })) ∧
    (s.mayClasp who id 2 = true →
      let c := min ((s.clasp id).counter + 1) (2 ^ 32 - 1)
      let e := (s.clasp id).err || decide (2 ^ 32 ≤ (s.clasp id).counter + 1)
      ∃ t, exec (.claspArrive who id target) s = .next t ∧ (t.clasp id).counter = c ∧ (t.clasp id).err = e ∧
        (t.clasp id).waits = (s.clasp id).waits.filter (fun x => !(e || decide (x.target ≤ c))) ++
          (if e = true ∨ target ≤ c then [] else [{ who := w, target }]) ∧
        (∀ i, i ≠ id → t.clasp i = s.clasp i) ∧ SameBut claspParts s t)

/-- A clasp operation without the right changes no clasp. Rests on R478, R484, R674. -/
def Obligations.ClaspRefusalsKeepClasps : Prop :=
  ∀ (who : ClaspAgent) (id n b : Nat) (s : State), s.halted = false →
    (∀ i, i = Instr.claspSignal who id n ∧ s.mayClasp who id 0 = false ∨ i = .claspReset who id ∧ s.mayClasp who id 3 = false ∨
        i = .claspFail who id ∧ s.mayClasp who id 0 = false →
      ∃ t, exec i s = .next t ∧ SameBut [.freeCtr, .net, .fns, .errGlobal, .errUnit, .errCnt, .out] s t ∧
        ((∀ p k, who ≠ .remote p k) → t.errCnt = mcount s.errCnt 6 1)) ∧
    (∀ i, i = Instr.claspWait (.bead b) id n ∧ s.mayClasp (.bead b) id 1 = false ∨ i = .claspArrive (.bead b) id n ∧ s.mayClasp (.bead b) id 2 = false →
      exec i s = .next { s with beads := mput s.beads b { s.bead b with wake := some true } }) ∧
    exec (.claspWait .sched id n) s = .next s ∧ exec (.claspArrive .sched id n) s = .next s

/-- What PWR_REQ, PWR_CAP, RAS_ST_REQ, DBG_MODE, DBG_TRACE_CTRL, ERR_Q_HEAD, NET_ADDR_CMD and MGT_UART_DATA take through window A. Rests on R639, R652, R641, R629, R627, R619, R640, R638, R571, Table 20-12, Table 20-14, Table 20-15. -/
def Obligations.PowerDebugNetworkRegisterRows : Prop :=
  ∀ (v : Via) (x : Nat) (s : State), s.clocksOff = false →
    let u := s.dropHeld v
    let test := mput u.ras.queued (bits x 7 0) { kind := bits x 9 8, force := bit x 12 }
    let mv := if u.pwr.curClk < bits x 15 4 then max u.pwr.vddTarget (vddOf (bits x 15 4)) else u.pwr.vddTarget
    (s.reachesA v 0xA0000 → exec (.pwrReq v x) s = .next
      (if bits x 1 0 = 3 ∨ bits x 15 4 < 1000 ∨ Config.grade.maxClock < bits x 15 4 ∨ bits x 15 4 % 100 ≠ 0 then u.regacc
       else { u with pwr := { u.pwr with reqState := bits x 1 0, reqClk := bits x 15 4, vddTarget := mv } })) ∧
    (s.reachesA v 0xA0008 → exec (.pwrCap v x) s = .next
      (if bits x 12 0 < 1200 ∨ 3200 < bits x 12 0 then u.regacc else { u with pwr := { u.pwr with capReq := bits x 12 0 } })) ∧
    (s.reachesA v 0xE0000 → (159 < bits x 7 0 ∨ bits x 9 8 = 3 → exec (.rasStReq v x) s = .next u.regacc) ∧
      (bits x 7 0 ≤ 159 → bits x 9 8 ≠ 3 → (u.bead (bits x 7 0)).pos ≠ none → (u.bead (bits x 7 0)).inService = true →
        exec (.rasStReq v x) s = .next { u with ras := { u.ras with queued := test } })) ∧
    (∀ b : BeadId, s.reachesA v (0x1008000 + b.val * 0x10000) → exec (.dbgMode v b x) s = .next
      { u with beads := mput u.beads b.val { u.bead b.val with debugReq := bit x 0 } }) ∧
    (∀ k : Fin 171, s.reachesA v (0xC0000 + 4 * k.val) → exec (.dbgTraceCtrl v k x) s = .next
      (let b := mget u.ras.traces k.val {}
       let b := if b.mode = 0 ∧ bits x 1 0 ≠ 0 then { mode := bits x 1 0 } else { b with mode := bits x 1 0 }
       { u with ras := { u.ras with traces := mput u.ras.traces k.val b } })) ∧
    (s.reachesA v 0xB0004 →
      let past := ahead u.errGlobal.tail (x % 2 ^ 32)
      (u.errGlobal.held < past → exec (.errQHead v x) s = .next u.regacc) ∧
      (past ≤ u.errGlobal.held → exec (.errQHead v x) s = .next { u with errGlobal := { u.errGlobal with head := x % 2 ^ 32 } })) ∧
    (s.reachesA v 0x80524 → ∃ d tab st, exec (.netAddrWrite v x) s = .next { u with net := { u.net with addrTable := tab, addrStage := st } } ∧
      tab = mput u.net.addrTable u.sel.netAddr d ∧ st = (if bit x 1 = true then d else u.net.addrStage) ∧
      (u.net.addrStage.length = 32 → d = u.net.addrStage)) ∧
    (s.reachesA v 0x80524 → bit x 1 = true → exec (.netAddrRead v x) s = .next
      { u with net := { u.net with addrStage := mget u.net.addrTable u.sel.netAddr (List.replicate 32 0) } }) ∧
    (∀ c : Byte, s.reachesA v 0xD0004 → exec (.uartTxByte v c) s = .next { u with out := u.out ++ [.uart c] })

/-- What SET_LOAD_CTRL, SES_ENT_CTRL, DEV_UWIN_FUNC, DEV_WINC_BASE, FRM_UNIT_SLICE_PTR and FRM_SLICE_PTR take. Rests on R136, R139, R635, R486, R551, R554, R378, R379, Table 20-3, Table 20-6, Table 20-7. -/
def Obligations.SettingFrameWindowRegisterRows : Prop :=
  ∀ (v : Via) (x : Nat) (s : State), s.clocksOff = false →
    let u := s.dropHeld v
    (s.reachesA v 0x1000C → exec (.setLoadGo v x) s = .next (if u.set.phase = .idle then
      { u with set := { u.set with phase := .checking, goAddr := u.set.loadAddr, goLen := u.set.loadLen, persist := bit x 1 } }
      else ({ u with set := { u.set with refused := true } }).raiseG St.setBusy)) ∧
    (s.reachesA v 0x30004 → exec (.sesEntRead v x) s = .next { u with sel := { u.sel with sesData := (u.ses u.sel.sesIdx).bytes } }) ∧
    (∀ w : Fin 256, s.reachesA v (0x100 + 4 * w.val) →
      (bits x 1 0 = 3 → bits x 8 3 = 0 ∨ 32 < bits x 8 3 → exec (.devUwinFunc v w x) s = .next u.regacc) ∧
      (bits x 1 0 ≠ 3 → (u.win w.val).func = x % 4096 → exec (.devUwinFunc v w x) s = .next u) ∧
      (bits x 1 0 ≠ 3 → (u.win w.val).func ≠ x % 4096 → ∃ t, exec (.devUwinFunc v w x) s = .next t ∧ SameBut [.wins, .errCnt] u t ∧
        (t.win w.val).func = x % 4096 ∧ (t.win w.val).sqTail = 0 ∧ (t.win w.val).cqEntries = 0 ∧ (t.win w.val).replies = [] ∧
        (t.win w.val).cqMask = true ∧ (∀ e, e ∈ (t.win w.val).msix → e.2.arm = false) ∧ (∀ j, j ≠ w.val → t.win j = u.win j))) ∧
    (s.reachesA v 0x48 → exec (.devWincBase v x) s = .next
      (let f := u.sel.winC / 64 * 33 + u.sel.winC % 64
       if x % 2 ^ 64 % u.aperture f = 0 then { u with fns := mput u.fns f { u.fn f with winCBase := x % 2 ^ 64 } } else u.regacc)) ∧
    (s.reachesA v 0x20028 → exec (.frmUnitSlicePtr v x) s = .next (if u.set.cur.runs u.sel.frmUnit = true then
      { u with units := mput u.units u.sel.frmUnit { u.unitSt u.sel.frmUnit with slicePtr := x % 2 ^ 64 } } else u.regacc)) ∧
    (∀ w k, s.reachesW v w 0x1000 → s.negotiated v → s.set.cur.winUnit w = some k → s.set.cur.runs k = true →
      exec (.frmSlicePtr v x) s = .next { u with units := mput u.units k { u.unitSt k with slicePtr := x % 2 ^ 64 } })

/-- What HMK_EXT_CTRL, a read of HMK_DBG_CHAL and HMK_DBG_CTRL do. Rests on R599, R601, R639, R632, Table 20-13, notes/assumptions/9.md. -/
def Obligations.HallmarkRegisterRows : Prop :=
  ∀ (v : Via) (x : Nat) (s : State), s.clocksOff = false →
    let u := s.dropHeld v
    let key := beNat (u.hmk.params.readN 0x80 96)
    let msg := Config.sha384 (leBytes 32 u.hmk.nonce.toNat ++ leBytes 8 hashLo)
    let sig := leBytes 96 u.hmk.dbgResp.toNat
    let good := key ≠ 0 ∧ u.hmk.nonceValid = true ∧ Config.ecdsaVerify key msg (beNat (sig.take 48)) (beNat (sig.drop 48)) = true
    (s.reachesA v 0x90630 →
      (u.hmk.extBusy = true → exec (.hmkExt v x) s = .next { u with errCnt := mcount u.errCnt 8 1 }) ∧
      (u.hmk.extBusy = false → bits x 3 0 < 10 → exec (.hmkExt v x) s = .next u.regacc) ∧
      (u.hmk.extBusy = false → 10 ≤ bits x 3 0 → ∃ ms, exec (.hmkExt v x) s = .next { u with hmk := { u.hmk with extSlot := bits x 3 0, ms := ms } } ∧
        ms = u.hmk.ms.set! (bits x 3 0) (BitVec.ofNat 384 (Config.sha384 (leBytes 48 (u.hmk.ms.toList.getD (bits x 3 0) 0).toNat ++
          leBytes 48 u.hmk.extData.toNat))))) ∧
    (s.reachesA v 0x90700 → ∃ n out, exec (.hmkDbgChalRead v) s = .next
        { s with hmk := { s.hmk with nonce := n, nonceValid := true, draws := s.hmk.draws + 1 }, out := out } ∧
      n = BitVec.ofNat 256 (Config.random s.hmk.draws) ∧ out = s.out ++ [.readData v (leBytes 32 n.toNat) false]) ∧
    (s.reachesA v 0x907A0 →
      (good → ∃ t, exec (.hmkDbgRespGo v x) s = .next t ∧ SameBut [.dev, .hmk] u t ∧ t.dev = { u.dev with debugUnlocked := true } ∧
        t.hmk.dbgStatus = 0 ∧ t.hmk.ms = u.hmk.ms.set! 8 (BitVec.ofNat 384 (Config.sha384 (leBytes 48 (u.hmk.ms.toList.getD 8 0).toNat ++ leBytes 48 msg)))) ∧
      (¬ good → exec (.hmkDbgRespGo v x) s = .next { u with hmk := { u.hmk with dbgStatus := St.hmkDbgDenied } }))

/-- What MGT_FWUP_CTRL, MGT_PARAM_CTRL, MGT_RESET and a read of MGT_UART_DATA do. Rests on R588, R597, R598, R641, R632, R594, Table 20-16. -/
def Obligations.UpdateAndResetRegisterRows : Prop :=
  ∀ (v : Via) (x : Nat) (i : BootIn) (s : State), s.clocksOff = false →
    let u := s.dropHeld v
    let p := fun (k : Bool) => { u with mgt := { u.mgt with parKind := k } }
    let q := { u with mgt := { u.mgt with fwConfirmMode := bit x 3 } }
    let wait := fun (k : Bool) (r : FlashReq) =>
      { p k with mgt := { (p k).mgt with parBusy := true }, hmk := { u.hmk with queue := u.hmk.queue ++ [r] } }
    (s.reachesA v 0xD030C →
      (u.mgt.parBusy = true → exec (.paramSigned v x) s = .next ((p false).count 8) ∧ exec (.paramGeneral v x) s = .next ((p true).count 8)) ∧
      (u.mgt.parBusy = false → ∀ b, u.mgtBytes u.mgt.parAddr u.mgt.parLen = some b →
        (u.mgt.parOff < 0x400 ∨ 0x10000 < u.mgt.parOff + b.length → exec (.paramGeneral v x) s = .next
          { p true with mgt := { (p true).mgt with parStatus := St.hmkParamDenied } }) ∧
        (0x400 ≤ u.mgt.parOff → u.mgt.parOff + b.length ≤ 0x10000 → exec (.paramGeneral v x) s = .next
          (wait true { kind := .params, off := u.mgt.parOff, data := b, report := 2 })) ∧
        exec (.paramSigned v x) s = .next (if u.signedOk b = true then wait false { kind := .signed, off := 0, data := b, report := 2 }
          else { p false with mgt := { (p false).mgt with parStatus := St.hmkParamDenied } })) ∧
      (u.mgt.parBusy = false → u.mgtBytes u.mgt.parAddr u.mgt.parLen = none →
        exec (.paramGeneral v x) s = .next { p true with mgt := { (p true).mgt with parStatus := St.hmkParamDenied } } ∧
        exec (.paramSigned v x) s = .next { p false with mgt := { (p false).mgt with parStatus := St.hmkParamDenied } })) ∧
    (s.reachesA v 0xD010C → bit x 1 = false →
      (u.mgt.fwBusy = true → exec (.fwupGo v x) s = .next (q.count 8)) ∧
      (u.mgt.fwBusy = false → u.mgtBytes u.mgt.fwAddr u.mgt.fwLen = none → exec (.fwupGo v x) s = .next
        { q with mgt := { q.mgt with fwStatus := St.hmkSigFail } }) ∧
      (∀ b c, u.mgt.fwBusy = false → u.mgtBytes u.mgt.fwAddr u.mgt.fwLen = some b → u.hmk.fwBusy = false → u.bundleComps b = .ok c → b.length ≤ fwSize →
        ∃ t r, exec (.fwupGo v x) s = .next t ∧ SameBut [.mgt, .hmk] u t ∧ t.mgt = { q.mgt with fwBusy := true, fwStatus := 0 } ∧
          t.hmk = { u.hmk with fwBusy := true, queue := u.hmk.queue ++ [r] } ∧ r.kind = .slot ∧ r.data = b ∧ r.report = 1)) ∧
    (s.reachesA v 0xD010C → bit x 0 = false →
      (∀ k d, dirTaken u.hmk.flash = some (k, d) → d.trial = true → d.active = u.hmk.slot → bit x 2 = false → ∃ r, exec (.fwupConfirm v x) s = .next
          { q with hmk := { u.hmk with queue := u.hmk.queue ++ [r] } } ∧ r.kind = .directory ∧ r.off / 2 % 2 = d.active % 2) ∧
      (∀ k d, dirTaken u.hmk.flash = some (k, d) → d.trial = false → exec (.fwupConfirm v x) s = .next q)) ∧
    (s.reachesA v 0xD0200 → exec (.mgtReset v x i) s = .next (if x % 2 ^ 32 = 0x52534554 then u.boot i else u.regacc)) ∧
    (s.reachesA v 0xD0004 → ∃ d, exec (.uartDataRead v) s = .next
        { s with mgt := { s.mgt with rx := s.mgt.rx.drop 1 }, out := s.out ++ [.readData v (leBytes 4 d) false] } ∧
      (s.mgt.rx = [] → d = 0) ∧ (∀ c cs, s.mgt.rx = c :: cs → d % 256 = c.x.toNat ∧ bit d 8 = c.fe ∧ bit d 9 = c.brk ∧ bit d 31 = true))

/-- An operation word stored to CLP_OP acts as the clasp operation of its window; a malformed one is counted. Rests on R477, R478, R480, R482, Table 15-2, Table 17-9. -/
def Obligations.ClaspOperationWords : Prop :=
  ∀ (v : Via) (x : Nat) (s : State), s.halted = false → s.negotiated v → (s.reachesA v 0x40000 ∨ ∃ w, s.reachesW v w 0x3000) →
    let u := s.dropHeld v
    let id := bits x 15 0
    let n := bits x 63 32
    let who := ClaspAgent.notify (viaWindow v) (bits x 31 20)
    let word := fun op => clpWord x op % 2 ^ 64
    let errs : List Part := [.fns, .errGlobal, .errUnit, .errCnt, .out]
    (∀ (op : Nat) (i : Instr), (op, i) ∈ [(0, Instr.clpOpSignal v x), (1, .clpOpWait v x), (2, .clpOpArrive v x), (3, .clpOpReset v x), (4, .clpOpFail v x)] →
      (clpWordBad (word op) = true ∨ viaFunc v = true ∧ (op = 1 ∨ op = 2) →
        ∃ t, exec i s = .next t ∧ t.errCnt = mcount u.errCnt 5 1 ∧ SameBut errs u t) ∧
      (clpWordBad (word op) = false → ¬ (viaFunc v = true ∧ (op = 1 ∨ op = 2)) → u.mayClasp who id (if op = 4 then 0 else op) = false →
        ∃ t, exec i s = .next t ∧ t.errCnt = mcount u.errCnt 6 1 ∧ SameBut errs u t)) ∧
    (clpWordBad (word 0) = false → u.mayClasp who id 0 = true → exec (.clpOpSignal v x) s = exec (.claspSignal who id n) u) ∧
    (clpWordBad (word 3) = false → u.mayClasp who id 3 = true → exec (.clpOpReset v x) s = exec (.claspReset who id) u) ∧
    (clpWordBad (word 4) = false → u.mayClasp who id 0 = true → exec (.clpOpFail v x) s = exec (.claspFail who id) u) ∧
    (clpWordBad (word 1) = false → viaFunc v = false → u.mayClasp who id 1 = true → exec (.clpOpWait v x) s =
      if u.hostWaits (claspDie id) < 4096 then exec (.claspWait who id n) u else .next { u with stalledOps := u.stalledOps ++ [(who, word 1)] }) ∧
    (clpWordBad (word 2) = false → viaFunc v = false → u.mayClasp who id 2 = true → exec (.clpOpArrive v x) s =
      if u.hostWaits (claspDie id) < 4096 then exec (.claspArrive who id n) u else .next { u with stalledOps := u.stalledOps ++ [(who, word 2)] })

/-- CLP_MSIX_ARM arms an entry that is not armed, with the right and a usable vector, and fires it at once when its condition holds. Rests on R483, R561, R643, Table 20-19. -/
def Obligations.MsixThresholdArms : Prop :=
  ∀ (v : Via) (w k x : Nat) (s : State), s.clocksOff = false → k < 32 → s.negotiated v → s.reachesW v w (0x3100 + 16 * k) →
    let u := s.dropHeld v
    let e := mget (u.win w).msix k {}
    let c := u.clasp (bits x 15 0)
    let ok := ((u.set.cur.clasp? (bits x 15 0)).map (·.msix)).getD false = true ∧ u.mayClasp (.notify (some w) 0) (bits x 15 0) 1 = true
    (e.arm = true → exec (.clpMsixArm v k x) s = .next u.regacc) ∧
    (e.arm = false → u.vecOk w (bits x 26 16) = false → exec (.clpMsixArm v k x) s = .next (u.count 8)) ∧
    (e.arm = false → u.vecOk w (bits x 26 16) = true → ¬ ok → ∃ t, exec (.clpMsixArm v k x) s = .next t ∧ SameBut [.fns, .errGlobal, .errUnit, .errCnt, .out] u t) ∧
    (e.arm = false → u.vecOk w (bits x 26 16) = true → ok → c.err = false → c.counter < e.target → ∃ m, exec (.clpMsixArm v k x) s = .next
      { u with wins := mput u.wins w { u.win w with msix := mput (u.win w).msix k m } } ∧ m = { e with id := bits x 15 0, vector := bits x 26 16, arm := true }) ∧
    (e.arm = false → u.vecOk w (bits x 26 16) = true → ok → c.err = true ∨ e.target ≤ c.counter → ∃ t, exec (.clpMsixArm v k x) s = .next t ∧
      SameBut [.wins, .fns, .out] u t ∧ (∀ j, j ≠ w → t.win j = u.win j) ∧ (∀ j, j ≠ k → mget (t.win w).msix j {} = mget (u.win w).msix j {}) ∧
      mget (t.win w).msix k {} = { e with id := bits x 15 0, vector := bits x 26 16, arm := false, stCounter := c.counter, stErr := c.err, stFired := true })

/-- What SES_SQ_TAIL, SES_CQ_HEAD, BPM_ALLOC and BPM_FREE do. Rests on R560, R488, R489, R440, R441, R439, R636, R436, Table 20-9. -/
def Obligations.RingAndPoolRegisters : Prop :=
  ∀ (v : Via) (w x : Nat) (s : State), s.clocksOff = false → s.negotiated v →
    let u := s.dropHeld v
    let put := fun y => { u with wins := mput u.wins w y }
    let y := x % 2 ^ 32
    let z := x % 2 ^ 64
    let n := bits x 48 32
    (s.reachesW v w 0x2000 → (256 ≤ y → exec (.sesSqTail v x) s = .next (u.count 8)) ∧
      (y < 256 → u.hasSq w = true → exec (.sesSqTail v x) s = .next ((put { u.win w with sqTail := y }).drainSq w) ∧
        ((u.win w).replies ≠ [] ∨ (u.win w).sqHead = y → exec (.sesSqTail v x) s = .next (put { u.win w with sqTail := y })))) ∧
    (s.reachesW v w 0x2014 → (u.win w).replies = [] → (u.win w).sqHead = (u.win w).sqTail →
      exec (.sesCqHead v x) s = .next (put { u.win w with cqHead := y })) ∧
    (s.reachesA v 0x60000 → u.bpm.allocRes.busy = false →
      let ps := u.set.cur.poolsOf (bits x 31 16) (bits x 1 0)
      (1 < bits x 1 0 ∨ n = 0 ∨ 65536 < n ∨ bits x 1 0 = 1 ∧ n ≠ 1 → exec (.bpmAlloc v x) s = .next (u.count 8)) ∧
      (bits x 1 0 = 0 → 0 < n → n ≤ 65536 →
        ((ps.map u.freeIn).foldl (· + ·) 0 < n → exec (.bpmAlloc v x) s = .next
          { u with bpm := { u.bpm with allocRes := { handle := 0, status := St.bpmPoolEmpty, busy := false, done := true } } }) ∧
        (∃ t, exec (.bpmAlloc v x) s = .next t ∧ SameBut [.bpm, .freeCtr] u t ∧ t.bpm.allocRes.done = true ∧
          ∀ f, (u.page f).state ≠ .free → t.page f = u.page f))) ∧
    (s.reachesA v 0x60010 → u.bpm.freeRes.busy = false →
      (u.handleLive (z % 2 ^ 40) = true → ∃ t, exec (.bpmFree v x) s = .next t ∧ SameBut [.bpm] u t ∧ t.bpm.freeRes.status = 0 ∧ t.bpm.freeRes.done = true ∧
        (∀ f, f ∈ mget u.bpm.lists (z % 2 ^ 40) [] → (t.page f).state = .quarantine ∧ (t.page f).head = false) ∧
        (∀ f, f ∉ mget u.bpm.lists (z % 2 ^ 40) [] → t.page f = u.page f)) ∧
      (u.handleLive (z % 2 ^ 40) = false → ∃ t, exec (.bpmFree v x) s = .next t ∧ t.bpm.pages = u.bpm.pages ∧ t.bpm.freeRes.status = St.bpmStale ∧
        SameBut [.bpm, .errGlobal, .fns, .out] u t)) ∧
    (s.reachesW v w 0x4010 → (u.win w).freeRes.busy = false → u.handleLive (z % 2 ^ 40) = true →
      u.set.cur.top (u.set.cur.top ((u.set.cur.winUnit w).getD 0xFFFF)) ≠ (u.page (hFrame (z % 2 ^ 40))).owner →
      ∃ t, exec (.bpmFree v x) s = .next t ∧ t.bpm.pages = u.bpm.pages ∧ (t.win w).freeRes.status = St.bpmNotOwner ∧
        SameBut [.bpm, .wins, .errGlobal, .fns, .out] u t)

/-- A legal bead command issues: its effect happens, and it enters the window with its status. Rests on R386, R387, R388, R43, R389, R395, R396, R398, R403, R404, R242, R409. -/
def Obligations.BeadWorkRowsExecute : Prop :=
  ∀ (b : BeadId) (w : CmdWord) (s : State) (c : Ctx) (op : Nat) (i : Instr),
    (op, i) ∈ [(0x08, Instr.tdset b w), (0x10, .load b w), (0x11, .store b w), (0x12, .copy b w), (0x20, .mma b w), (0x21, .conv b w),
      (0x22, .loupe b w), (0x28, .drain b w), (0x29, .spill b w), (0x2A, .fill b w), (0x30, .vop b w), (0x31, .red b w), (0x48, .save b w),
      (0x49, .restore b w), (0x50, .dbgrd b w), (0x51, .dbgwr b w)] →
    opcodeOf w = op → s.halted = false → Decodes s b w c → Legal s w c → s.waitMet w →
    (op = 0x20 → (mmaJob ((s.taken c w).bead b) w).prescans = false) →
    (op = 0x22 → flag w 60 = true ∨ (loupeJob ((s.taken c w).bead b) w).prescans = false) →
    let u := s.issued c w
    let n := (s.bead b).next
    (u.mustWait c n w = true → exec i s = .next { u with beads := mput u.beads b { u.bead b with
      window := putFlight (u.bead b).window { idx := n, word := w, pend := .hazard } } }) ∧
    (u.mustWait c n w = false →
      (∀ p t, effectOf c n w { s := u } = .ok p t → ∃ x f, exec i s = .next { t.s with beads := mput t.s.beads b x } ∧
        x = { t.s.bead b with window := putFlight (t.s.bead b).window f } ∧ f.idx = n ∧ f.word = w ∧ f.pend = p ∧
        f.status = if t.poison = true ∧ op ∈ poisonOps then St.poison else 0) ∧
      (∀ f t, effectOf c n w { s := u } = .error f t → exec i s = .next (t.s.failLeaf b c.rank n c.uid f).resumeMt))

/-- MTPUSH, MTPULL, XMMA and XDRAIN issue with room in the merge tree, and wait in order of arrival without it. Rests on R359, R362, R363, R365, R386, R401, R525, R531. -/
def Obligations.PushPullAndFusedRowsExecute : Prop :=
  ∀ (b : BeadId) (w : CmdWord) (s : State) (c : Ctx) (op : Nat) (i : Instr),
    (op, i) ∈ [(0x38, Instr.mtpush b w), (0x39, .mtpull b w), (0x23, .xmma b w), (0x2B, .xdrain b w)] →
    opcodeOf w = op → s.halted = false → Decodes s b w c → Legal s w c → s.waitMet w →
    (op = 0x23 → (mmaJob ((s.taken c w).bead b) w).prescans = false) →
    let room := op = 0x39 ∨ op = 0x38 ∧ (s.decoded c w).mtRoom c w = true ∨ (op = 0x23 ∨ op = 0x2B) ∧ (s.decoded c w).collRoom c w = true
    let due := fun (p : Pend) => if p = .none then [] else ((planOf ((s.issued c w).bead b) w).hulls.filter (fun r => r.wr)).map (fun r => (r.kind, r.lo, r.len))
    let now := fun (x : Bead) p st => { x with window := putFlight x.window { idx := (s.bead b).next, word := w, status := st, pend := p, due := due p } }
    let into := fun (t : CSt) p st => { t.s with beads := mput t.s.beads b (now (t.s.bead b) p st) }
    let h : Held := { idx := (s.bead b).next, word := w, stage := .mtree, since := s.frm.count }
    let d := s.decoded c w
    let u := s.issued c w
    (room → u.mustWait c (s.bead b).next w = true → exec i s = .next { u with beads := mput u.beads b { u.bead b with
      window := putFlight (u.bead b).window { idx := (s.bead b).next, word := w, pend := .hazard } } }) ∧
    (room → u.mustWait c (s.bead b).next w = false → ∀ p t, effectOf c (s.bead b).next w { s := s.issued c w } = .ok p t →
      let st := if t.poison = true then St.poison else 0
      (op = 0x38 ∨ op = 0x39 → exec i s = .next (into t p st) ∧ p = (if op = 0x39 then .pull (fld w 39 32) else .none)) ∧
      (op = 0x23 ∨ op = 0x2B → ∃ seq, p = .coll seq ∧ exec i s = .next (((into t p st).afterFuse c seq).resumeMt))) ∧
    (¬ room → exec i s = .next { d with mtWait := [b.val], beads := mput d.beads b { d.bead b with held := some h } })

/-- TDSET copies 128 bytes of the scratchpad, with their poison, into the descriptor entry, and changes no other byte. Rests on R395, R417, R420. -/
def Obligations.TdsetCopiesDescriptor : Prop :=
  ∀ (b : BeadId) (w : CmdWord) (s : State) (c : Ctx), opcodeOf w = 0x08 → s.halted = false → Decodes s b w c → Legal s w c → s.waitMet w →
    hullCheck c (planOf ((s.issued c w).bead b) w).hulls = none → (s.issued c w).mustWait c (s.bead b).next w = false →
    ∃ t, exec (.tdset b w) s = .next t ∧ SameBut [.beads, .ras] s t ∧
      (t.bead b).sp.readN (entryAt (fld w 15 8)) 128 = (s.bead b).sp.readN (fld w 38 16) 128 ∧
      (∀ x, x < entryAt (fld w 15 8) ∨ entryAt (fld w 15 8) + 128 ≤ x → (t.bead b).sp.read x = (s.bead b).sp.read x) ∧
      (∀ k, k < 4 → (t.bead b).spBad (entryAt (fld w 15 8) + 32 * k) 32 = (s.bead b).spBad (fld w 38 16 + 32 * k) 32) ∧
      (t.bead b).acc = (s.bead b).acc ∧ (∀ k, k ≠ b.val → t.bead k = s.bead k)

/-- NOP, FENCE and END complete at once when nothing is in the window; END ends the leaf, and the last END begins the commit. Rests on R386, R390, R394, R395, R38. -/
def Obligations.InstantRowsComplete : Prop :=
  ∀ (b : BeadId) (w : CmdWord) (s : State) (c : Ctx) (sl : Slice) (m : Nat), s.halted = false → Decodes s b w c → Legal s w c → s.waitMet w → sigEn w = false →
    (s.unitSt c.uid).slice = some sl →
    let next := (s.bead b).next + 1
    let gone := fun (t : State) => SameBut [.beads, .ras] s t ∧ (t.bead b).next = next ∧ (∀ k, k ≠ b.val → t.bead k = s.bead k)
    (opcodeOf w = 0x00 → ∃ t, exec (.nop b w) s = .next t ∧ gone t ∧ t.bead b = { s.bead b with next := next, held := none }) ∧
    (opcodeOf w = 0x02 → (s.bead b).window = [] → ∃ t, exec (.fence b w) s = .next t ∧ gone t ∧ t.bead b = { s.bead b with next := next, held := none }) ∧
    (opcodeOf w = 0x02 → (s.bead b).window ≠ [] → ∃ t, exec (.fence b w) s = .next t ∧ gone t ∧
      t.bead b = { s.bead b with next := next, held := some { idx := (s.bead b).next, word := w, stage := .fence, since := s.frm.count } }) ∧
    (opcodeOf w = 0x01 → (s.bead b).window = [] → c.s1 = false → s.set.cur.fedOf c.uid = none →
      ∃ t sl', exec (.endChain b w m) s = .next t ∧ SameBut [.now, .beads, .units, .ras] s t ∧ (t.bead b).phase = .ended ∧ (t.bead b).endedAt = max s.now m ∧
        (t.unitSt c.uid).slice = some sl' ∧ sl'.endedRanks = sIns c.rank sl.endedRanks ∧
        ((sIns c.rank sl.endedRanks).length < sl.beads.length → sl'.phase = sl.phase) ∧
        (sl.beads.length ≤ (sIns c.rank sl.endedRanks).length → sl'.phase = .committing ∧ sl'.endAt = max s.now m))

/-- The CLASP command: a satisfied wait, a wait that must wait, a held outgoing signal and a signal made at once. Rests on R406, R394, R393, R472, R47. -/
def Obligations.ClaspRowActs : Prop :=
  ∀ (b : BeadId) (w : CmdWord) (s : State) (c : Ctx) (sl : Slice), opcodeOf w = 0x40 → s.halted = false → s.stalledOps = [] → Decodes s b w c → Legal s w c →
    s.waitMet w → sigEn w = false → (s.unitSt c.uid).slice = some sl →
    let id := fld w 31 16
    let v := fld w 63 32
    let moved := fun (t : State) => t.bead b = { s.bead b with next := (s.bead b).next + 1, held := none }
    let due := ∃ g, g ∈ (s.bead b).window ∧ g.idx < (s.bead b).next ∧ s.writesDue c g = true
    (fld w 9 8 = 1 → (s.clasp id).err = false → v ≤ (s.clasp id).counter → ∃ t, exec (.clasp b w) s = .next t ∧ SameBut [.beads, .ras] s t ∧ moved t) ∧
    (fld w 9 8 = 1 → (s.clasp id).err = false → (s.clasp id).counter < v → ∃ t, exec (.clasp b w) s = .next t ∧ SameBut [.beads, .clasps, .ras] s t ∧
      t.clasps = mput s.clasps id { s.clasp id with waits := (s.clasp id).waits ++ [{ who := .bead b, target := v }] } ∧
      (t.bead b).held = some { idx := (s.bead b).next, word := w, stage := .claspOp, since := s.frm.count }) ∧
    (fld w 9 8 = 0 → due → ∃ t, exec (.clasp b w) s = .next t ∧ SameBut [.beads, .ras] s t ∧ t.bead b = { s.bead b with
      next := (s.bead b).next + 1, held := none, window := putFlight (s.bead b).window { idx := (s.bead b).next, word := w, pend := .signal } }) ∧
    (fld w 9 8 = 0 → ¬ due → c.s1 = false → id ∈ sl.header.outClasps → ∃ t sl', exec (.clasp b w) s = .next t ∧ SameBut [.beads, .units, .ras] s t ∧ moved t ∧
      (t.unitSt c.uid).slice = some sl' ∧ sl'.heldSignals = sl.heldSignals ++ [{ rank := c.rank, idx := (s.bead b).next, clasp := id, n := v }]) ∧
    (fld w 9 8 = 0 → ¬ due → c.signals s id → ∃ t, exec (.clasp b w) s = .next t ∧ SameBut (.ras :: claspParts) s t ∧
      (t.clasp id).counter = min ((s.clasp id).counter + v) (2 ^ 32 - 1) ∧
      (t.clasp id).waits = (s.clasp id).waits.filter (fun x => !((t.clasp id).err || decide (x.target ≤ (t.clasp id).counter))))

/-- A command that decode or a check rejects, or whose wait meets an error flag, fails the slice. Rests on R392, R254, R257, R393, R39. -/
def Obligations.BadCommandsFailTheSlice : Prop :=
  ∀ (b : BeadId) (w : CmdWord) (s : State) (c : Ctx) (sl : Slice) (op : Nat) (i : Instr),
    (op, i) ∈ [(0x00, Instr.nop b w), (0x02, .fence b w), (0x08, .tdset b w), (0x10, .load b w), (0x11, .store b w), (0x12, .copy b w), (0x20, .mma b w),
      (0x21, .conv b w), (0x22, .loupe b w), (0x23, .xmma b w), (0x28, .drain b w), (0x29, .spill b w), (0x2A, .fill b w), (0x2B, .xdrain b w),
      (0x30, .vop b w), (0x31, .red b w), (0x38, .mtpush b w), (0x39, .mtpull b w), (0x40, .clasp b w), (0x48, .save b w), (0x49, .restore b w),
      (0x50, .dbgrd b w), (0x51, .dbgwr b w)] →
    (opcodeOf w = op ∨ opcodeOf w ∉ opcodes) → s.halted = false → Decodes s b w c → (s.unitSt c.uid).slice = some sl → b.val ∈ sl.beads →
    (¬ Legal s w c ∨ waitEn w = true ∧ (s.clasp (waitId w)).err = true) →
    ∃ t, exec i s = .next t ∧ SliceFails s t c.uid sl

/-- A wait that is not met holds the command; CLASP_WAKE and PRESCAN_END let it go on, CLP_TIMEOUT fails the slice. Rests on R393, R476, R333, R332, R390, R380. -/
def Obligations.WaitsHoldAndWake : Prop :=
  ∀ (b : BeadId) (w : CmdWord) (s : State) (c : Ctx) (sl : Slice) (m : Nat) (h : Held), s.halted = false → s.mtWait = [] → s.ctx? b = some c → (s.unitSt c.uid).slice = some sl →
    (opcodeOf w = 0x00 → Decodes s b w c → Legal s w c → waitEn w = true → (s.clasp (waitId w)).err = false → (s.clasp (waitId w)).counter < waitTgt w →
      ∃ t, exec (.nop b w) s = .next t ∧ SameBut [.beads, .clasps, .ras] s t ∧
        t.clasps = mput s.clasps (waitId w) { s.clasp (waitId w) with waits := (s.clasp (waitId w)).waits ++ [{ who := .bead b, target := waitTgt w }] } ∧
        (t.bead b).held = some { idx := (s.bead b).next, word := w, stage := .wait, since := s.frm.count }) ∧
    ((s.bead b).wake = none → exec (.claspWake b m) s = .next { s with now := max s.now m }) ∧
    ((s.bead b).wake = some false → (s.bead b).phase = .running → (s.bead b).held = some h → h.stage = .wait → opcodeOf h.word = 0x00 → sigEn h.word = false →
      ∃ t, exec (.claspWake b m) s = .next t ∧ SameBut [.now, .beads, .ras] s t ∧ t.bead b = { s.bead b with held := none, wake := none }) ∧
    ((s.bead b).wake = some true → (s.bead b).phase = .running → (s.bead b).held = some h →
      ∃ t, exec (.claspWake b m) s = .next t ∧ SliceFails { s with now := max s.now m } t c.uid sl) ∧
    ((s.bead b).held = some h → h.stage = .wait ∨ h.stage = .claspOp → (s.bead b).wake = none →
      (h.since + s.set.cur.frame.collTimeout ≤ s.frm.count → ∃ t, exec (.clpTimeout b) s = .next t ∧ SliceFails s t c.uid sl) ∧
      (s.frm.count < h.since + s.set.cur.frame.collTimeout → exec (.clpTimeout b) s = .next s)) ∧
    (opcodeOf w = 0x20 → Decodes s b w c → Legal s w c → s.waitMet w → (mmaJob ((s.taken c w).bead b) w).prescans = true →
      ∃ t, exec (.mma b w) s = .next t ∧ SameBut [.beads, .ras] s t ∧
        (t.bead b).held = some { idx := (s.bead b).next, word := w, stage := .prescan, since := s.frm.count }) ∧
    ((s.bead b).held = some h → h.stage = .prescan → opcodeOf h.word = 0x20 →
      ∃ u, u = (s.traceCmd b h.idx 0x20 1 0).updBead b (fun x => { x with held := none }) ∧ (u.mustWait c h.idx h.word = false →
        (∀ p t, effectOf c h.idx h.word { s := u } = .ok p t → ∃ x f, exec (.prescanEnd b) s = .next { t.s with beads := mput t.s.beads b x } ∧
          x.window = putFlight (t.s.bead b).window f ∧ f.idx = h.idx ∧ f.word = h.word ∧ f.pend = p ∧ f.status = if t.poison = true then St.poison else 0) ∧
        (∀ f t, effectOf c h.idx h.word { s := u } = .error f t → exec (.prescanEnd b) s = .next (t.s.failLeaf b c.rank h.idx c.uid f))))

/-- Every row but RAIL_OUT_OF_RANGE completes in every state; that one stops, because the spec calls the state after it undefined. Rests on 00_scope.md, 20_registers.md, notes/assumptions/12.md, R649. -/
def Obligations.EveryRowButOneAnswersNext : Prop :=
  (∀ (i : Instr) (s : State), i ≠ .railOutOfRange → ∃ t, exec i s = .next t) ∧
  ∀ s : State, exec .railOutOfRange s = .fault .railOutOfRange

/-- COMMAND_COMPLETE takes a finished command out of the window, counts its status, makes or holds its signal, and lets a FENCE go on. Rests on R389, R394, R386, R390, R412, R627, R47, R388. -/
def Obligations.CommandCompleteRowActs : Prop :=
  ∀ (b : BeadId) (n : Nat) (s : State) (c : Ctx) (sl : Slice) (f : InFlight), s.halted = false → s.mtWait = [] → s.stalledOps = [] →
    s.ctx? b = some c → (s.unitSt c.uid).slice = some sl → (s.bead b).window.find? (fun g => g.idx == n) = some f → opcodeOf f.word ≠ 1 →
    let left := (s.bead b).window.filter (fun g => g.idx != n)
    let after : Slice := if f.status = 0 then sl else { sl with
      warnStatus := if sl.warnCount = 0 then f.status else sl.warnStatus, warnRank := if sl.warnCount = 0 then c.rank else sl.warnRank
      warnCount := sl.warnCount + 1, poisonSeen := sl.poisonSeen || f.status == St.poison }
    let quiet := ∀ g, g ∈ left → g.pend ≠ .hazard ∧ g.pend ≠ .signal
    let due := ∃ g, g ∈ (s.bead b).window ∧ g.idx < f.idx ∧ s.writesDue c g = true
    (s.pendDone c f = false → exec (.commandComplete b n) s = .next s) ∧
    (s.pendDone c f = true → (s.bead b).held = none → quiet → (sigEn f.word = true ∨ opcodeOf f.word = 0x40 ∧ fld f.word 9 8 = 0) → due →
      ∃ t, exec (.commandComplete b n) s = .next t ∧ SameBut [.beads, .colls] s t ∧
        t.bead b = { s.bead b with window := putFlight (s.bead b).window { f with pend := .signal } }) ∧
    (s.pendDone c f = true → (s.bead b).held = none → quiet → ¬ due → opcodeOf f.word ≠ 0x40 →
      (sigEn f.word = false → ∃ t, exec (.commandComplete b n) s = .next t ∧ SameBut [.beads, .units, .colls, .ras] s t ∧
        t.bead b = { s.bead b with window := left } ∧ (∀ k, k ≠ b.val → t.bead k = s.bead k) ∧ (t.unitSt c.uid).slice = some after ∧
        ((∀ q, f.pend ≠ .coll q) → t.colls = s.colls)) ∧
      (sigEn f.word = true → c.s1 = false → sigId f.word ∈ sl.header.outClasps → ∃ t, exec (.commandComplete b n) s = .next t ∧
        SameBut [.beads, .units, .colls, .ras] s t ∧ t.bead b = { s.bead b with window := left } ∧
        (t.unitSt c.uid).slice = some { after with heldSignals := sl.heldSignals ++ [{ rank := c.rank, idx := f.idx, clasp := sigId f.word, n := sigN f.word }] }) ∧
      (sigEn f.word = true → c.signals s (sigId f.word) → f.status = 0 → ∃ t, exec (.commandComplete b n) s = .next t ∧
        SameBut (.ras :: .units :: .colls :: claspParts) s t ∧
        (t.clasp (sigId f.word)).counter = min ((s.clasp (sigId f.word)).counter + sigN f.word) (2 ^ 32 - 1))) ∧
    (∀ h, s.pendDone c f = true → sigEn f.word = false → opcodeOf f.word ≠ 0x40 → (s.bead b).held = some h → h.stage = .fence → opcodeOf h.word = 0x02 → sigEn h.word = false → left = [] →
      ∃ t, exec (.commandComplete b n) s = .next t ∧ SameBut [.beads, .units, .colls, .ras] s t ∧ t.bead b = { s.bead b with window := [], held := none })

/-- CHAIN_FETCH writes the next line of the chain into the ring, and never beyond CHAIN_LEN or over a command still in the window. Rests on R384, R385. -/
def Obligations.ChainFetchFillsRing : Prop :=
  ∀ (b : BeadId) (s : State) (c : Ctx) (sl : Slice), s.halted = false → s.mtWait = [] → s.ctx? b = some c →
    (s.unitSt c.uid).slice = some sl → b.val ∈ sl.beads →
    let x := s.bead b
    let oldest := (x.window.map (·.idx) ++ (x.held.map (·.idx)).toList).foldl min x.next
    let n := min 2 (x.chainLen - x.fetched)
    (x.chainLen ≤ x.fetched ∨ oldest + x.ringPages * 128 < x.fetched + 2 → exec (.chainFetch b) s = .next s) ∧
    (x.phase = .starting ∨ x.phase = .running ∨ x.phase = .preempting → x.fetched < x.chainLen → x.fetched + 2 ≤ oldest + x.ringPages * 128 →
      (∀ pa, s.uaPa c (x.chain + 32 * x.fetched) false St.rAccess = .ok pa → ∃ t, exec (.chainFetch b) s = .next t ∧ SameBut [.beads, .mem] s t ∧
        t.mem.ram = s.mem.ram ∧ (t.bead b).fetched = x.fetched + n ∧ (t.bead b).window = x.window ∧ (t.bead b).next = x.next ∧ (t.bead b).acc = x.acc ∧
        (∀ k, k < n → (t.bead b).sp.readN (x.ringBase * 4096 + 32 * (x.fetched + k) % (x.ringPages * 4096)) 32 = s.mem.ram.readN (pa + 32 * k) 32) ∧
        (∀ y, (∀ k, k < n → ¬ (x.ringAt (x.fetched + k) ≤ y ∧ y < x.ringAt (x.fetched + k) + 32)) → (t.bead b).sp.read y = x.sp.read y) ∧
        (∀ k, k ≠ b.val → t.bead k = s.bead k)) ∧
      (∀ f, s.uaPa c (x.chain + 32 * x.fetched) false St.rAccess = .error f → ∃ t, exec (.chainFetch b) s = .next t ∧ SliceFails s t c.uid sl))

/-- CHAIN_OVERRUN fails the slice; SLICE_OVERRUN records the first overrun of a native slice, once, and the slice runs on. Rests on R385, R171, R40, Table 12-17. -/
def Obligations.OverrunRowsAct : Prop :=
  ∀ (b : BeadId) (s : State) (c : Ctx) (sl : Slice) (uid rank cycles : Nat), s.halted = false → s.mtWait = [] →
    (s.ctx? b = some c → (s.unitSt c.uid).slice = some sl → b.val ∈ sl.beads → (s.bead b).phase = .running → (s.bead b).held = none →
      ((s.bead b).next = (s.bead b).chainLen → ∃ t, exec (.chainOverrun b) s = .next t ∧ SliceFails s t c.uid sl) ∧
      ((s.bead b).next ≠ (s.bead b).chainLen → exec (.chainOverrun b) s = .next s)) ∧
    ((s.unitSt uid).slice = some sl →
      let first := s.set.cur.s1 uid = false ∧ sl.overrun = false ∧ sl.header.bound < cycles
      ∃ t sl', exec (.sliceOverrun uid rank cycles) s = .next t ∧ SameBut [.units, .fns, .errUnit, .out] s t ∧ (t.unitSt uid).slice = some sl' ∧
        sl' = { sl with maxCycles := max sl.maxCycles cycles, overrun := sl'.overrun } ∧ (sl'.overrun = true ↔ sl.overrun = true ∨ first) ∧
        (¬ first → t.errUnit = s.errUnit ∧ t.out = s.out) ∧
        (first → s.set.cur.top uid ≠ 0xFFFF → mget t.errUnit (s.set.cur.top uid) {} =
          (mget s.errUnit (s.set.cur.top uid) {}).push 1024 (s.mkRec St.sliceOverrun 0 (beadAgent (nth sl.beads rank)) uid 0 false)))

/-- Preemption of a leaf of an S1-compatible unit: REQ stops decode, BEAD_PREEMPTED saves the 64 slots and logs, RESUME lets decode go on. Rests on R408, R642, notes/assumptions/59.md. -/
def Obligations.PreemptionRowsAct : Prop :=
  ∀ (v : Via) (b : BeadId) (x pos : Nat) (c : Ctx) (s : State), s.halted = false → (s.bead b).pos = some pos →
    (s.reachesA v (0x1000008 + b.val * 0x10000) →
      let u := s.dropHeld v
      (s.set.cur.s1 (s.set.cur.top pos) = false ∨ (s.bead b).phase = .preempted → exec (.preemptReq v b x) s = .next u.regacc) ∧
      (s.set.cur.s1 (s.set.cur.top pos) = true → (s.bead b).phase = .running → exec (.preemptReq v b x) s = .next
        { u with beads := mput u.beads b.val { u.bead b with preemptArea := bits x 22 8, phase := .preempting } }) ∧
      (s.set.cur.s1 (s.set.cur.top pos) = false ∨ (s.bead b).phase ≠ .preempted → exec (.preemptResume v b x) s = .next u.regacc) ∧
      (s.set.cur.s1 (s.set.cur.top pos) = true → (s.bead b).phase = .preempted → s.ctx? b = some c → ∃ t, exec (.preemptResume v b x) s = .next t ∧
        SameBut [.beads, .mem] u t ∧ (t.bead b).phase = .running ∧ (t.bead b).preemptArea = bits x 22 8 ∧ (t.bead b).next = (s.bead b).next ∧
        (t.bead b).sp = (s.bead b).sp ∧ t.mem.ram = s.mem.ram ∧ (∀ k, k ≠ b.val → t.bead k = s.bead k) ∧
        (inPart c.u (bits x 22 8 * 256) (64 * 20480) = true → ∀ i, i < 64 →
          (spillBytes (t.bead b) i).map (·.1) = (s.bead b).sp.readN (bits x 22 8 * 256 + i * 20480) 20480))) ∧
    (s.ctx? b = some c → (s.bead b).phase = .preempting → (s.bead b).held = none →
      ((s.bead b).window ≠ [] → exec (.preempted b) s = .next s) ∧
      ((s.bead b).window = [] → inPart c.u ((s.bead b).preemptArea * 256) (64 * 20480) = true → ∃ t, exec (.preempted b) s = .next t ∧
        SameBut [.beads, .mem, .fns, .errUnit, .out] s t ∧ (t.bead b).phase = .preempted ∧ (t.bead b).preemptNext = (s.bead b).next ∧
        (t.bead b).next = (s.bead b).next ∧ t.mem.ram = s.mem.ram ∧ (∀ k, k ≠ b.val → t.bead k = s.bead k) ∧
        ((s.bead b).preemptArea * 256 < 2 ^ 23 → ∀ i, i < 64 →
          (t.bead b).sp.readN ((s.bead b).preemptArea * 256 + i * 20480) 20480 = (spillBytes (s.bead b) i).map (·.1)) ∧
        (s.set.cur.top c.pos ≠ 0xFFFF → mget t.errUnit (s.set.cur.top c.pos) {} = (mget s.errUnit (s.set.cur.top c.pos) {}).push 1024
          (s.mkRec St.beadPreempted 0 (beadAgent b) c.pos ((s.bead b).next + c.rank * 2 ^ 32) false))))

/-- COLL_TIMEOUT, MT_TIMEOUT and COLL_FAIL fail the slice that waits, and change nothing where none is due. Rests on R534, R374, R532, R39, R375. -/
def Obligations.CollectiveAndMergeTimeouts : Prop :=
  ∀ (s : State) (uid : Nat) (sl : Slice), s.halted = false → s.mtWait = [] → (s.unitSt uid).slice = some sl →
    (∀ seq i, s.collIx sl.serial seq = some i →
      ((s.coll i).since + s.set.cur.frame.collTimeout ≤ s.frm.count → ∃ t, exec (.collTimeout uid seq) s = .next t ∧ SliceFails s t uid sl) ∧
      (s.frm.count < (s.coll i).since + s.set.cur.frame.collTimeout → exec (.collTimeout uid seq) s = .next s)) ∧
    (∀ mseq, ((∃ m, m ∈ s.merges ∧ m.slice = sl.serial ∧ m.mseq = mseq ∧ m.since + s.set.cur.frame.collTimeout ≤ s.frm.count) →
        ∃ t, exec (.mtTimeout uid mseq) s = .next t ∧ SliceFails s t uid sl) ∧
      ((∀ m, m ∈ s.merges → m.slice = sl.serial → m.mseq = mseq → s.frm.count < m.since + s.set.cur.frame.collTimeout) →
        exec (.mtTimeout uid mseq) s = .next s)) ∧
    (∀ peer group epoch seq status, s.unitOfGroup group = some uid →
      (s.epochOf uid sl = epoch → (s.collIx sl.serial seq).isSome = true →
        ∃ t, exec (.collFail peer group epoch seq status) s = .next t ∧ SliceFails s t uid sl) ∧
      (s.epochOf uid sl ≠ epoch ∨ s.collIx sl.serial seq = none → exec (.collFail peer group epoch seq status) s = .next s))

/-- A fault of a bead that stands in for no leaf fails no slice: the bead leaves service and only the global queue hears of it. States R610. -/
def Obligations.IdleBeadFaultLeavesService : Prop :=
  ∀ (b : BeadId) (f : Fin 4) (m : Nat) (s : State) (i : Instr), s.halted = false → s.mtWait = [] → (i = .facetFault b f m ∨ i = .beadFault b m) →
    (s.bead b).inService = true → (s.bead b).pos = none → mfind s.ras.running b.val = none →
    ∃ t, exec i s = .next t ∧ SameBut [.now, .beads, .fil, .ras, .fns, .errGlobal, .out] s t ∧ (t.bead b) = { s.bead b with inService := false } ∧
      (∀ k, k ≠ b.val → t.bead k = s.bead k) ∧ (∀ top, b.val ∉ t.spares top) ∧
      t.errGlobal = s.errGlobal.push 32768 ({ s with now := max s.now m }.mkRec St.rasBeadFault 0 (beadAgent b) 0xFFFF b true)

/-- A facet fault, bead fault or watchdog of a leaf takes the bead out of service and fails the slice of its unit; with no spare the unit is DOWN. Rests on R603, R604, R605, R609, R612, R614, R626, R39. -/
def Obligations.FaultOfLeafInterruptsSlice : Prop :=
  ∀ (b : BeadId) (f : Fin 4) (m pos : Nat) (s : State) (i : Instr), s.halted = false → s.mtWait = [] →
    (i = .facetFault b f m ∨ i = .beadFault b m ∨ i = .beadWatchdog b m ∧ (s.bead b).window ≠ []) → (s.bead b).pos = some pos →
    let u : State := { s with now := max s.now m }
    let top := s.set.cur.top pos
    let lost := if (s.unitSt top).failed.contains pos = true then (s.unitSt top).failed else (s.unitSt top).failed ++ [pos]
    ((s.bead b).window = [] → exec (.beadWatchdog b m) s = .next u) ∧
    (mfind s.ras.running b.val = none → ∀ uid sl, s.sliceOf b = some (uid, sl) → (s.unitSt uid).slice = some sl →
      (sl.phase ≠ .committing → sl.phase ≠ .waiting → s.set.cur.s1 top = false → lost.length ≤ (s.spares top).length → (s.unitSt top).down = false →
        ∃ t fl, exec i s = .next t ∧ SliceFails { u with fil := fl } t uid sl ∧ (t.bead b).inService = false ∧ (t.unitSt top).failed = lost) ∧
      (sl.phase ≠ .committing → sl.phase ≠ .waiting → s.set.cur.s1 top = true ∨ (s.spares top).length < lost.length ∧ s.testedOf top = [] →
        ∃ t, exec i s = .next t ∧ (t.bead b).inService = false ∧ (t.unitSt uid).slice = none ∧ (t.unitSt top).down = true ∧
          (∀ k, k ∈ sl.beads → (t.bead k).phase = .stopped ∧ (t.bead k).window = [] ∧ (t.bead k).held = none)) ∧
      (sl.phase = .committing ∨ sl.phase = .waiting →
        ∃ t, exec i s = .next t ∧ (t.bead b).inService = false ∧ (t.unitSt uid).slice = some sl ∧ (∀ k, k ≠ b.val → t.bead k = s.bead k) ∧ t.mem = s.mem)) ∧
    (∀ st, mfind s.ras.running b.val = some st → ∃ t, exec i s = .next t ∧ (t.bead b).inService = false ∧ mfind t.ras.running b.val = none)

/-- STRAND_FAULT loses five beads and every slice on them; HOST_CORE_FAULT halts the core; SELF_TEST_END returns or retires the bead. Rests on R603, R608, R609, R621, R624, R625, R96. -/
def Obligations.StrandCoreAndTestRowsAct : Prop :=
  ∀ s : State, s.halted = false → s.mtWait = [] →
    (∀ (die : Die) (strand : Fin 4) (m : Nat), ∃ t, exec (.strandFault die strand m) s = .next t ∧
      (∀ b, die.val * 20 + strand.val * 5 ≤ b → b < die.val * 20 + strand.val * 5 + 5 → (t.bead b).inService = false ∧
        (∀ uid sl, s.sliceOf b = some (uid, sl) → (s.unitSt uid).slice = some sl → sl.phase ≠ .committing → sl.phase ≠ .waiting →
          (s.bead b).pos ≠ none → (t.unitSt uid).slice = none)) ∧
      (∀ b, b < die.val * 20 + strand.val * 5 ∨ die.val * 20 + strand.val * 5 + 5 ≤ b → (t.bead b).inService = (s.bead b).inService)) ∧
    (∀ c : Fin 48, ∃ t, exec (.hostCoreFault c) s = .next t ∧ SameBut [.ras, .fns, .errGlobal, .errUnit, .out] s t ∧
      t.ras = { s.ras with haltedCores := sIns c.val s.ras.haltedCores } ∧
      t.errGlobal = s.errGlobal.push 32768 (s.mkRec St.rasCoreFault 0 schedAgent 0xFFFF c.val true)) ∧
    (∀ (b : BeadId) (pass : Bool) (result : Nat),
      (mfind s.ras.running b.val = none → exec (.selfTestEnd b pass result) s = .next s) ∧
      (∀ st, mfind s.ras.running b.val = some st → ∃ t, exec (.selfTestEnd b pass result) s = .next t ∧
        SameBut [.beads, .units, .fil, .fns, .ras, .errGlobal, .errUnit, .out] s t ∧ t.bead b = { s.bead b with inService := pass } ∧
        (∀ k, k ≠ b.val → t.bead k = s.bead k) ∧ mfind t.ras.running b.val = none ∧
        (pass = true → t.units = s.units ∧ ∀ h, st.home = some h → mfind t.ras.returning b.val = some h) ∧
        (pass = false → st.home = none → ∀ p, (s.bead b).pos = some p → p ∈ (t.unitSt (s.set.cur.top p)).failed)))

/-- RECOMPOSITION_DONE gives the failed position to the first spare, or the unit is DOWN. Rests on R612, R614, R120, R42. -/
def Obligations.RecompositionPlacesSpare : Prop :=
  ∀ (top m pos : Nat) (s : State), s.halted = false → s.set.cur.s1 top = false → (s.unitSt top).down = false →
    ((s.unitSt top).failed = [] → exec (.recompositionDone top m) s = .next { s with now := max s.now m }) ∧
    ((s.unitSt top).failed = [pos] → ∃ t, exec (.recompositionDone top m) s = .next t ∧
      SameBut [.now, .freeCtr, .beads, .units, .fns, .errGlobal, .errUnit, .out] s t ∧
      (∀ sp rest, s.spares top = sp :: rest → (t.unitSt top).failed = [] ∧ (t.unitSt top).down = false ∧ (t.bead sp).pos = some pos ∧
        (t.bead sp).sp = { cells := [], undef := [(0, 0x600000, s.freeCtr + 1)] } ∧ (t.bead sp).accUndef = [(0, 64, s.freeCtr)] ∧ (t.bead sp).window = [] ∧
        (∀ o, s.beadAt pos = some o → o ≠ sp → (t.bead o).pos = none) ∧ (∀ k, k ≠ sp → s.beadAt pos ≠ some k → t.bead k = s.bead k)) ∧
      (s.spares top = [] → (t.unitSt top).down = true ∧ (t.unitSt top).failed = [pos] ∧ (∀ k, t.bead k = s.bead k) ∧
        (mfind s.units top ≠ none → s.set.cur.top top = top → (s.unitSt top).downBatch = none → (t.unitSt top).downBatch = (s.unitSt top).replay.orElse (fun _ => (s.unitSt top).heldBatch))))

/-- FRAME_TICK with no load waiting: the count, the length of the frame, the snapshots, the power requests, and the units still running. Rests on R153, R159, R160, R161, R162, R176, R179, R628, R639, R652. -/
def Obligations.FrameTickOpensFrame : Prop :=
  ∀ (m : Nat) (s : State), s.halted = false → s.set.loaded = none →
    let f := s.set.cur.frame
    let since := if s.frm.edgeOfNext = true then 0 else s.frm.sinceEdge + 1
    let cmax : Int := f.tfQ * 250 / 8
    ∃ t, exec (.frameTick m) s = .next t ∧ t.set = s.set ∧ t.now = max s.now m ∧
      t.frm.count = (if s.frm.ticked = true then s.frm.count + 1 else 0) ∧ t.frm.ticked = true ∧ t.frm.tickAt = m ∧ t.frm.sinceEdge = since ∧
      t.frm.edgeOfTick = s.frm.edgeOfNext ∧ t.frm.edgeOfNext = false ∧
      (f.source = 0 → t.frm.len = 25 * f.tfQ ∧ t.frm.r = 0) ∧
      (f.source = 2 → t.frm.r = s.frm.resid ∧ t.frm.len = ((25 * f.tfQ : Nat) +
        (if s.frm.holdover = true ∨ 5 ≤ since then 0 else (max (-cmax) (min cmax s.frm.resid)).tdiv 10) : Int).toNat) ∧
      t.claspSnap = s.clasps.map (fun p => (p.1, p.2.counter + if p.2.err = true then 2 ^ 32 else 0)) ∧ (∀ b, (t.bead b).perfSnap = (s.bead b).perf) ∧
      t.mem.meterSnap = s.mem.meter ∧ t.pwr.curState = s.pwr.reqState ∧ t.pwr.curClk = s.pwr.reqClk ∧ t.pwr.cap = s.pwr.capReq ∧
      (f.fsyncOutEn = true → t.frm.fsyncOut = m ∧ Out.pulse 0 m ∈ t.out) ∧
      (∀ uid sl, uid ∈ s.set.cur.runners → (s.unitSt uid).slice = some sl → s.set.cur.s1 uid = false → s.set.cur.fedOf uid = none → s.set.cur.svcOf uid ≠ none →
        (t.unitSt uid).slice = some { sl with overTick := true })

/-- FSYNC_IN_EDGE is matched to the nearest tick, a second edge of a tick is counted, and FRM_SYNC_LOST begins holdover. Rests on R158, R160, R161. -/
def Obligations.FsyncEdgesAndHoldover : Prop :=
  ∀ (m : Nat) (s : State), s.halted = false →
    let u : State := { s with now := max s.now m }
    let e := roundUp m 10000
    let next := s.frm.tickAt + s.frm.len * 10000
    let early := e - s.frm.tickAt ≤ next - e
    let c : Int := 10 * (s.frm.len : Int) - (250 * s.set.cur.frame.tfQ : Nat)
    (s.set.cur.frame.source ≠ 2 → exec (.fsyncInEdge m) s = .next u) ∧
    (s.set.cur.frame.source = 2 →
      ((early ∧ s.frm.edgeOfTick = true ∨ ¬ early ∧ s.frm.edgeOfNext = true) →
        exec (.fsyncInEdge m) s = .next { u with frm := { s.frm with fsyncExtra := (s.frm.fsyncExtra + 1) % 2 ^ 64 } }) ∧
      (¬ (early ∧ s.frm.edgeOfTick = true ∨ ¬ early ∧ s.frm.edgeOfNext = true) →
        ∃ t, exec (.fsyncInEdge m) s = .next t ∧ SameBut [.now, .frm, .fns, .errGlobal, .out] s t ∧ t.frm.holdover = false ∧ t.frm.sinceEdge = 0 ∧
          t.frm.count = s.frm.count ∧ t.frm.len = s.frm.len ∧ (early → t.frm.edgeOfTick = true ∧ t.frm.resid = ((e : Int) - s.frm.tickAt) / 1000 - c) ∧
          (¬ early → t.frm.edgeOfNext = true ∧ t.frm.resid = ((e : Int) - next) / 1000) ∧
          t.errGlobal = (if s.frm.holdover = true then s.errGlobal.push 32768 (u.mkRec St.frmSyncRestored 0 schedAgent 0xFFFF 0 false) else s.errGlobal))) ∧
    (s.sourceLost = true → s.frm.holdover = false → ∃ t, exec .frmSyncLost s = .next t ∧ SameBut [.frm, .fns, .errGlobal, .out] s t ∧
      t.frm = { s.frm with holdover := true } ∧ t.errGlobal = s.errGlobal.push 32768 (s.mkRec St.frmSyncLost 0 schedAgent 0xFFFF 0 false)) ∧
    (s.sourceLost = false ∨ s.frm.holdover = true → exec .frmSyncLost s = .next s)

/-- SLICE_START signals the start clasp, holds a batch that the guard band does not fit, and faults a slice of BOUND 0. Rests on R170, R172, R174, R380, R656, R39. -/
def Obligations.SliceStartRowActs : Prop :=
  ∀ (uid m : Nat) (s : State), s.halted = false → s.stalledOps = [] → s.mtWait = [] → s.set.cur.fedOf uid = none →
    let u : State := { s with now := max s.now m }
    let f := s.set.cur.frame
    let closing := s.frm.tickAt + s.frm.len * 10000
    let start := ((s.set.cur.unit? uid).map (·.startClasp)).getD 0xFFFF
    ((∀ sl, (s.unitSt uid).slice = some sl → sl.phase ≠ .admitted) → exec (.sliceStart uid m) s = .next u) ∧
    (∀ sl, (s.unitSt uid).slice = some sl → sl.phase = .admitted →
      let inGuard := s.set.cur.s1 uid = false ∧ sl.replay = false ∧ closing ≤ m + f.guardPct * f.tf / 100 ∧ closing < m + s.boundPs sl.header.bound
      (inGuard → ∃ t, exec (.sliceStart uid m) s = .next t ∧ SameBut [.now, .beads, .units, .clasps, .bpm, .fns, .ras, .errUnit, .out] s t ∧
        t.unitSt uid = { s.unitSt uid with slice := none, slip := 0, heldBatch := some { header := sl.header, batch := sl.batch.map (fun b => { b with stage := 0 }) } } ∧
        (∀ b, b ∈ sl.beads → (t.bead b).phase = .idle ∧ (t.bead b).wake = none) ∧
        (∀ id, (t.clasp id).counter = (s.clasp id).counter ∧ (t.clasp id).err = (s.clasp id).err ∧
          ∀ b, b ∈ sl.beads → ∀ w, w ∈ (t.clasp id).waits → w.who ≠ .bead b)) ∧
      (¬ inGuard → s.set.cur.s1 uid = false → sl.header.bound = 0 → ∃ t p, exec (.sliceStart uid m) s = .next t ∧ SliceFails { u with pwr := p } t uid sl) ∧
      (¬ inGuard → s.set.cur.s1 uid = true ∨ sl.header.bound ≠ 0 → ∃ t, exec (.sliceStart uid m) s = .next t ∧
        SameBut (.now :: .units :: .pwr :: claspParts) s t ∧
        (t.unitSt uid).slice = some { sl with phase := .running, startAt := m, sNom := m - (s.unitSt uid).slip, boundTime := s.boundPs sl.header.bound } ∧
        t.pwr = { s.pwr with preWarm := sDel uid s.pwr.preWarm } ∧ (t.clasp start).counter = min ((s.clasp start).counter + 1) (2 ^ 32 - 1) ∧
        (∀ b, (∃ w, w ∈ (s.clasp start).waits ∧ w.who = .bead b ∧ w.target ≤ (s.clasp start).counter + 1 ∧ w.target < 2 ^ 32) → (t.bead b).wake ≠ none)))

/-- COMMIT_POINT ends a committing slice: the unit is free with its new slip, its leaves are idle, lanes leave the batch and held signals are made. Rests on R38, R173, R394, R412, R419, R496. -/
def Obligations.CommitPointSettlesSlice : Prop :=
  ∀ (uid m : Nat) (s : State), s.halted = false → s.stalledOps = [] →
    ((∀ sl, (s.unitSt uid).slice = some sl → sl.phase ≠ .committing) → exec (.commitPoint uid m) s = .next { s with now := max s.now m }) ∧
    (∀ sl, (s.unitSt uid).slice = some sl → sl.phase = .committing → ∃ t, exec (.commitPoint uid m) s = .next t ∧
      SameBut (.now :: .units :: .merges :: .colls :: .early :: .stalledOps :: .sessions :: .quota :: .bpm :: .ras :: .errCnt :: claspParts) s t ∧
      (t.unitSt uid).slice = none ∧
      (t.unitSt uid).slip = (if (s.set.cur.fedOf uid).any (fun f => f.rank != 0) = true ∨ sl.overTick = true then 0 else sl.endAt - (sl.sNom + sl.boundTime)) ∧
      (∀ v, v ≠ uid → (t.unitSt v).slice = (s.unitSt v).slice) ∧ (∀ b, b ∈ sl.beads → (t.bead b).phase = .idle) ∧
      (∀ x, x ∈ t.merges → x.slice ≠ sl.serial) ∧ (∀ x, x ∈ t.colls → x.slice ≠ sl.serial) ∧
      (∀ b l, sl.batch = some b → l ∈ b.lanes → (t.ses l.index).inBatch = false) ∧
      (∀ id, (t.clasp id).counter = if sl.heldSignals.all (fun h => h.clasp != id) = true then (s.clasp id).counter
        else min ((s.clasp id).counter + ((sl.heldSignals.filter (fun h => h.clasp == id)).map (·.n)).foldl (· + ·) 0) (2 ^ 32 - 1)))

/-- What OPEN, SES_QUOTA_RESERVE, REQUEST, ABORT, CLOSE and SES_IDLE do when their checks pass. Rests on R490, R491, R492, R498, R499, R64, R27, R487, Table 15-4. -/
def Obligations.SessionOpensRequestsAndCloses : Prop :=
  ∀ (src : MsgFrom) (m : SesMsg) (hub n : Nat) (s : State), s.halted = false →
    let u : State := { s with now := max s.now n }
    let i := sesIx m.handle
    let e := s.ses i
    let replyParts : List Part := [.freeCtr, .net, .fns, .wins, .errGlobal, .errCnt, .out]
    (∀ v k, sesBad m 1 = false → s.svcFor src m = some v → v.sessions = true → s.set.cur.svcHere v = true →
      (mget s.sesReserved v.svc 0 ≠ 0 ∨ mget s.quota v.svc 0 < v.quota) → (s.firstSes (hub % 2)).orElse (fun _ => s.firstSes (1 - hub % 2)) = some k →
      ∃ t, exec (.openSes src m hub n) s = .next t ∧ SameBut (.now :: .sessions :: .quota :: .sesReserved :: replyParts) s t ∧
        (mget s.sesReserved v.svc 0 ≠ 0 → t.quota = s.quota ∧ mget t.sesReserved v.svc 0 = mget s.sesReserved v.svc 0 - 1) ∧
        (mget s.sesReserved v.svc 0 = 0 → t.sesReserved = s.sesReserved ∧ t.quota = mcount s.quota v.svc 1) ∧
        t.ses k = { state := .opened, gen := if (s.ses k).used = true then ((s.ses k).gen + 1) % 2048 else 0, used := true, svc := v.svc, client := s.clientOf src
                    openFrame := s.frm.count, lastFrame := s.frm.count, lastAt := s.frm.tickAt, user := leNat m.payload } ∧
        (∀ j, j ≠ k → t.ses j = s.ses j)) ∧
    (∀ svc v, s.set.cur.svc? svc = some v → exec (.sesQuotaReserve svc) s = .next (if mget s.quota v.svc 0 < v.quota then
      { s with quota := mcount s.quota v.svc 1, sesReserved := mcount s.sesReserved svc 1 } else s)) ∧
    (sesBad m 3 = false → s.genOk m.handle = true → e.state = .opened → m.reqSeq = e.nextSeq → m.payload = [] → ∃ r, exec (.request src m n) s = .next
        { u with sessions := mput s.sessions i { e with nextSeq := (e.nextSeq + 1) % 2 ^ 32, queue := e.queue ++ [r], lastFrame := s.frm.count, lastAt := s.frm.tickAt } } ∧
      r.reqSeq = m.reqSeq ∧ r.stamp = n ∧ r.budget = m.budget ∧ r.urgent = m.urgent ∧ r.tag = m.tag ∧ r.payload = 0 ∧ r.len = 0) ∧
    (sesBad m 5 = false → s.genOk m.handle = true → e.state ≠ .free → m.reqSeq < e.nextSeq →
      (∀ r, e.queue.find? (fun x => x.reqSeq == m.reqSeq) = some r → ∃ t, exec (.abort src m) s = .next t ∧ SameBut (.sessions :: .bpm :: replyParts) s t ∧
        t.ses i = { e with queue := e.queue.filter (fun x => x.reqSeq != m.reqSeq), doneSeq := m.reqSeq } ∧ (∀ j, j ≠ i → t.ses j = s.ses j)) ∧
      (∀ l, e.queue.find? (fun x => x.reqSeq == m.reqSeq) = none → s.laneOf i = some (false, l) → l.req.reqSeq = m.reqSeq → l.aborted = false →
        exec (.abort src m) s = .next ((s.abortLane i).reply (s.backTo src) (sesAnswer m 6 St.aborted)))) ∧
    (sesBad m 7 = false → s.genOk m.handle = true → e.state = .opened →
      (s.laneOf i = none → ∃ t, exec (.close src m) s = .next t ∧ SameBut (.sessions :: .quota :: .bpm :: replyParts) s t ∧
        t.ses i = { e with state := .free, inBatch := false, closePending := false, slots := [], queue := [] } ∧ mget t.quota e.svc 0 = mget s.quota e.svc 0 - 1 ∧ (∀ j, j ≠ i → t.ses j = s.ses j)) ∧
      (∀ begun l, s.laneOf i = some (begun, l) → ∃ t, exec (.close src m) s = .next t ∧ SameBut (.sessions :: .units :: replyParts) s t ∧
        t.ses i = { e with state := .closing, closePending := true, closeStatus := 0, closeTag := m.tag } ∧ (begun = true → t.units = s.units))) ∧
    (∀ k v, s.set.cur.svc? (s.ses k).svc = some v →
      let idle := (s.ses k).state = .opened ∧ (s.ses k).queue = [] ∧ (s.ses k).inBatch = false ∧ v.idleMs ≠ 0 ∧ (s.ses k).lastAt + v.idleMs * 10 ^ 9 ≤ n
      (¬ idle → exec (.sesIdle k n) s = .next u) ∧
      (idle → ∃ t, exec (.sesIdle k n) s = .next t ∧ SameBut (.now :: .sessions :: .quota :: .bpm :: replyParts) s t ∧
        t.ses k = { s.ses k with state := .free, inBatch := false, closePending := false, slots := [], queue := [] } ∧ (∀ j, j ≠ k → t.ses j = s.ses j)))

/-- A session message that fails a check is refused with the status of the check, and no session, quota or page changes. Rests on R487, R490, R491, R492, R499. -/
def Obligations.SessionMessagesRefused : Prop :=
  ∀ (src : MsgFrom) (m : SesMsg) (hub n : Nat) (s : State), s.halted = false →
    let u : State := { s with now := max s.now n }
    let e := s.ses (sesIx m.handle)
    let no := fun (s : State) (st : Nat) => s.refuse src m st
    (sesBad m 1 = true → exec (.openSes src m hub n) s = .next (no u St.sesBadMsg)) ∧
    (sesBad m 1 = false → (∀ v, s.svcFor src m = some v → v.sessions = false ∨ s.set.cur.svcHere v = false) →
      exec (.openSes src m hub n) s = .next (no u St.sesNoService)) ∧
    (∀ v, sesBad m 1 = false → s.svcFor src m = some v → v.sessions = true → s.set.cur.svcHere v = true → mget s.sesReserved v.svc 0 = 0 →
      v.quota ≤ mget s.quota v.svc 0 → exec (.openSes src m hub n) s = .next (no u St.sesFull)) ∧
    (sesBad m 3 = true → exec (.request src m n) s = .next (no u St.sesBadMsg)) ∧
    (sesBad m 3 = false → s.genOk m.handle = false → exec (.request src m n) s = .next (no u St.sesStale)) ∧
    (sesBad m 3 = false → s.genOk m.handle = true → e.state ≠ .opened → exec (.request src m n) s = .next (no u St.sesClosed)) ∧
    (sesBad m 3 = false → s.genOk m.handle = true → e.state = .opened → m.reqSeq ≠ e.nextSeq → exec (.request src m n) s = .next (no u St.sesBadSeq)) ∧
    (sesBad m 5 = true → exec (.abort src m) s = .next (no s St.sesBadMsg)) ∧
    (sesBad m 5 = false → s.genOk m.handle = false → exec (.abort src m) s = .next (no s St.sesStale)) ∧
    (sesBad m 5 = false → s.genOk m.handle = true → e.state = .free → exec (.abort src m) s = .next (no s St.sesClosed)) ∧
    (sesBad m 5 = false → s.genOk m.handle = true → e.state ≠ .free → e.nextSeq ≤ m.reqSeq → exec (.abort src m) s = .next (no s St.sesNoRequest)) ∧
    (sesBad m 7 = true → exec (.close src m) s = .next (no s St.sesBadMsg)) ∧
    (sesBad m 7 = false → s.genOk m.handle = false → exec (.close src m) s = .next (no s St.sesStale)) ∧
    (sesBad m 7 = false → s.genOk m.handle = true → e.state ≠ .opened → exec (.close src m) s = .next (no s St.sesClosed)) ∧
    (∀ st, SameBut [.freeCtr, .net, .fns, .wins, .errGlobal, .errCnt, .out] s (no s st))

/-- RD, WR, ADD, RD_DATA, WR_ACK and FRAME: what they read and write, the response, the tag, and agents under reset. Rests on R449, R461, R462, R463, R288, R416, R420, R157. -/
def Obligations.FabricAccessRowsAct : Prop :=
  ∀ (x : Xfer) (s : State), s.halted = false →
    let u : State := { s with fil := { s.fil with inFlight := s.fil.inFlight.erase x } }
    let v := u.takeTag x
    let back : State := { u with fil := { u.fil with outstanding := s.fil.outstanding.filter (fun o => !(o.src == x.dst && o.tag == x.tag)) } }
    let gone : State := { u with fil := { u.fil with abandonCnt := mcount s.fil.abandonCnt (agentDie x.dst) 1
                                                     outstanding := s.fil.outstanding.filter (fun o => !(o.src == x.src && o.tag == x.tag)) } }
    let reset := s.fil.underReset.contains x.dst = true
    let ls := (span 0 (x.addr % 8 + 1)).map (fun i => x.addr / 64 * 64 + 64 * i)
    let fits := (granules 64 x.addr x.data.length).all (fun g => populated s.set.cur (g * 64)) = true
    let answered := fun (w : State) (st : Nat) => { w with fil := { w.fil with inFlight := w.fil.inFlight ++ [ackOf x st] } }
    (∀ e, (reset → exec (.rd x e) s = .next u) ∧
      (¬ reset → ls.all (fun a => populated s.set.cur a) = true → ∃ t r, exec (.rd x e) s = .next t ∧ t.fil.inFlight = u.fil.inFlight ++ [r] ∧
        r.op = .rdData ∧ r.src = x.dst ∧ r.dst = x.src ∧ r.tag = x.tag ∧ r.len = ls.length ∧ t.fil.outstanding = v.fil.outstanding ∧
        (e = .none → SameBut [.fil] s t ∧ r.data = ls.flatMap (fun a => s.mem.ram.readN a 64) ∧ r.poison = ls.map (fun a => s.mem.poisoned a 64)))) ∧
    (∀ e fmt, x.abandon = true → exec (.wr x e) s = .next gone ∧ exec (.addX x e fmt) s = .next gone) ∧
    (∀ e fmt, x.abandon = false → reset → exec (.wr x e) s = .next (answered v St.filDestReset) ∧ exec (.addX x e fmt) s = .next (answered v St.filDestReset)) ∧
    (x.abandon = false → ¬ reset → fits →
      (∃ t, exec (.wr x .none) s = .next t ∧ SameBut [.mem, .fil] s t ∧ t.fil = (answered v 0).fil ∧
        (∀ k, k < x.data.length → s.mem.retiredAt (x.addr + k) = false → t.mem.ram.read (x.addr + k) = x.data.getD k 0) ∧
        (∀ y, y < x.addr ∨ x.addr + x.data.length ≤ y → t.mem.ram.read y = s.mem.ram.read y)) ∧
      (∀ e, ∃ t, exec (.wr x e) s = .next t ∧ t.fil = (answered v 0).fil) ∧
      (∀ fmt f, ElemFmt.ofCode fmt = some f → f = .fp32 ∨ f = .bf16 ∨ f = .fp16 ∨ f = .int32 → x.data.length * 8 % f.width = 0 →
        let n := x.data.length * 8 / f.width
        let sum := packP f.width (List.zipWith (addElem f) (unpack f.width n (s.mem.readP x.addr x.data.length)) (unpack f.width n (xferBytes x)))
        ∃ t, exec (.addX x .none fmt) s = .next t ∧ SameBut [.mem, .fil] s t ∧ t.fil = (answered v 0).fil ∧
          (∀ k, k < x.data.length → s.mem.retiredAt (x.addr + k) = false → t.mem.ram.read (x.addr + k) = (sum.map (·.1)).getD k 0) ∧
          (∀ y, y < x.addr ∨ x.addr + x.data.length ≤ y → t.mem.ram.read y = s.mem.ram.read y)) ∧
      (∀ fmt, (∀ f, ElemFmt.ofCode fmt = some f → f ≠ .fp32 ∧ f ≠ .bf16 ∧ f ≠ .fp16 ∧ f ≠ .int32) → ∃ t, exec (.addX x .none fmt) s = .next t ∧ SameBut [.freeCtr, .mem, .fil] s t ∧ t.fil = (answered v 0).fil ∧
        (∀ y, y < x.addr ∨ x.addr + x.data.length ≤ y → t.mem.ram.read y = s.mem.ram.read y))) ∧
    exec (.rdData x) s = .next back ∧ exec (.frame x) s = .next u ∧
    (reset ∨ x.addr ≠ St.filDestReset ∧ x.addr ≠ St.collMismatch → exec (.wrAck x) s = .next back) ∧
    (∀ b c sl, ¬ reset → x.addr = St.filDestReset → agentBead x.dst = some b → s.ctx? b = some c → (s.unitSt c.uid).slice = some sl → b ∈ sl.beads →
      ∃ t, exec (.wrAck x) s = .next t ∧ SliceFails back t c.uid sl) ∧
    (∀ b uid sl, ¬ reset → x.addr = St.collMismatch → agentBead x.dst = some b → s.sliceOf b = some (uid, sl) → (s.unitSt uid).slice = some sl →
      (∃ k, k ∈ s.colls ∧ k.slice = sl.serial) → ∃ t, exec (.wrAck x) s = .next t ∧ SliceFails back t uid sl)

/-- DELIVER, COLL_EARLY_RESEND and BPM: what their payload does and the answer that goes back. Rests on R449, R461, R462, R527, R529, R530, R438, R439, R440, R441. -/
def Obligations.DeliverAndPoolRowsAct : Prop :=
  ∀ (x : Xfer) (s : State) (i : Instr) (d : Delivery), s.halted = false → (i = .deliver x d ∨ i = .collEarlyResend x d) →
    let u : State := { s with fil := { s.fil with inFlight := s.fil.inFlight.erase x } }
    let v := u.takeTag x
    let answered := fun (w : State) (st : Nat) => { w with fil := { w.fil with inFlight := w.fil.inFlight ++ [ackOf x st] } }
    let gone : State := { u with fil := { u.fil with abandonCnt := mcount s.fil.abandonCnt (agentDie x.dst) 1
                                                     outstanding := s.fil.outstanding.filter (fun o => !(o.src == x.src && o.tag == x.tag)) } }
    (x.abandon = true → exec i s = .next gone) ∧
    (x.abandon = false → s.fil.underReset.contains x.dst = true → exec i s = .next (answered v St.filDestReset)) ∧
    (x.abandon = false → s.fil.underReset.contains x.dst = false →
      (∀ hub m src, d = .session hub m src → exec i s = .next (answered (v.sesMessage src m hub s.now) 0)) ∧
      (∀ uid q r os, d = .merge uid q r os → exec i s = .next (answered (v.rxMerge uid q r os) 0)) ∧
      (∀ uid q r os, d = .reduce uid q r os → exec i s = .next (answered (v.rxReduce uid q r os) 0)) ∧
      (∀ a b c e, d = .pool a b c e → exec i s = .next (answered v 0)) ∧
      (∀ h rows pz uid sl, d = .coll h rows pz → s.unitOfGroup h.group = some uid → (s.unitSt uid).slice = some sl →
        (h.epoch < s.epochOf uid sl → ∃ t, exec i s = .next t ∧ SameBut [.fil, .net] s t ∧ t.fil = (answered v 0).fil ∧
          t.net = { s.net with collStale := (s.net.collStale + 1) % 2 ^ 64 }) ∧
        (∀ b c, s.epochOf uid sl ≤ h.epoch → sl.beads[h.dstRank - ((s.fedGroup uid).map (·.1)).getD 0]? = some b → s.ctx? b = some c → c.grank = h.dstRank →
          let k := s.coll ((s.collIx sl.serial h.seq).getD s.colls.length)
          (k.parts.find? (fun p => p.bead == b) = none → (s.bead b).collSeq ≤ h.seq →
            (s.earlyBytes b + 64 + rows.length ≤ 65536 → ∃ t, exec i s = .next t ∧ SameBut [.fil, .early] s t ∧ t.fil = (answered v 0).fil ∧
              t.early = s.early ++ [{ bead := b, h := h, rows := rows, poison := pz }]) ∧
            (65536 < s.earlyBytes b + 64 + rows.length → exec i s = .next (answered v St.collEarly))) ∧
          (∀ p, k.parts.find? (fun p => p.bead == b) = some p → p.sig = h.sig → (s.collIx sl.serial h.seq).isSome = true →
            ∃ t q, exec i s = .next t ∧ SameBut [.fil, .beads, .mem, .units, .colls] s t ∧ q ∈ (t.coll ((s.collIx sl.serial h.seq).getD s.colls.length)).parts ∧
              q.rank = p.rank ∧ q.rowsGot = p.rowsGot + h.nrows ∧ t.fil = (answered v 0).fil)))) ∧
    (∀ q : BpmReq, s.fil.underReset.contains x.dst = false → ∃ t r, exec (.bpm x q) s = .next t ∧ SameBut [.freeCtr, .bpm, .fil, .fns, .errGlobal, .out] s t ∧
      t.fil.inFlight = u.fil.inFlight ++ [r] ∧ t.fil.outstanding = v.fil.outstanding ∧ r.op = .deliver ∧ r.vc = 3 ∧ r.dst = x.src ∧ r.tag = x.tag ∧
      (q.free = false → ∃ h st w, v.allocate q.owner q.kind q.pages (s.set.cur.poolsOf q.owner q.kind) = (w, h, st) ∧ t.bpm = w.bpm ∧ r.data = leBytes 8 (h + st * 2 ^ 40)) ∧
      (q.free = true → s.handleLive q.handle = false → t.bpm = { s.bpm with errCount := (s.bpm.errCount + 1) % 2 ^ 64 } ∧ r.data = leBytes 8 (St.bpmStale * 2 ^ 40)) ∧
      (q.free = true → s.handleLive q.handle = true → (∀ a, s.agentUnit x.src = some a → s.set.cur.top a = (s.page (hFrame q.handle)).owner) →
        t.bpm = (v.quarantine (q.handle % 2 ^ 40)).bpm ∧ r.data = leBytes 8 0))

/-- FIL_GROUP_RX, FIL_ACK_TIMEOUT, FIL_LANE_SPARED, FIL_REMAP_DONE and FIL_SUBCH_LOST. Rests on R448, R452, R453, R454, R450, R607. -/
def Obligations.FiligreeLinkRowsAct : Prop :=
  ∀ (ch : SubChId) (s : State), s.halted = false →
    let k := chKey ch
    let y := s.sub k
    (∀ gseq crcOk xs ack nak, y.lost = true → exec (.filGroupRx ch gseq crcOk xs ack nak) s = .next s) ∧
    (∀ gseq crcOk xs ack nak, y.lost = false → s.set.cur.fis = [] → ∃ t, exec (.filGroupRx ch gseq crcOk xs ack nak) s = .next t ∧
      SameBut [.fil, .fns, .errGlobal, .out] s t ∧
      (crcOk = false → (t.sub k).nak = true ∧ (t.sub k).rxSeq = y.rxSeq ∧ t.fil.inFlight = s.fil.inFlight) ∧
      (crcOk = true → gseq ≠ y.rxSeq → (t.sub k).rxSeq = y.rxSeq ∧ (t.sub k).nak = y.nak ∧ t.fil.inFlight = s.fil.inFlight) ∧
      (crcOk = true → gseq = y.rxSeq → (∀ x, x ∈ xs → isReserved x.op = false) → s.fil.reorder = [] →
        (t.sub k).rxSeq = (y.rxSeq + 1) % 256 ∧ (t.sub k).nak = false ∧ t.fil.inFlight = s.fil.inFlight ++ xs) ∧
      (crcOk = true → (t.sub (chBack ch)).unacked =
        (s.sub (chBack ch)).unacked.filter (fun g => decide (0 < (g.1 + 256 - ack) % 256 ∧ (g.1 + 256 - ack) % 256 ≤ 32)))) ∧
    (y.unacked = [] ∨ y.lost = true → exec (.filAckTimeout ch) s = .next s) ∧
    (y.unacked ≠ [] → y.lost = false → ∃ t, exec (.filAckTimeout ch) s = .next t ∧ SameBut [.fil, .fns, .errGlobal, .out] s t ∧
      t.sub k = { y with replays := y.replays + 1 } ∧ t.fil.replayCnt = mcount s.fil.replayCnt ch.link.val 1 ∧ (y.replays = 0 → t.errGlobal = s.errGlobal)) ∧
    (∀ (link : Fin 14) (m lane : Nat), let key := link.val * 16 + m % 16
      (4 ≤ mget s.fil.spared key 0 → exec (.filLaneSpared link m lane) s = .next s) ∧
      (mget s.fil.spared key 0 < 4 → ∃ t, exec (.filLaneSpared link m lane) s = .next t ∧ SameBut [.fil, .fns, .errGlobal, .out] s t ∧
        mget t.fil.spared key 0 = mget s.fil.spared key 0 + 1 ∧ (∀ i, i < 4 → t.sub (link.val * 64 + m % 16 * 4 + i) =
          { s.sub (link.val * 64 + m % 16 * 4 + i) with remap := true })) ∧
      (∃ t, exec (.filRemapDone link m) s = .next t ∧ SameBut [.fil, .fns, .errGlobal, .out] s t ∧
        (∀ i, i < 4 → (t.sub (link.val * 64 + m % 16 * 4 + i)).remap = false ∧
          (t.sub (link.val * 64 + m % 16 * 4 + i)).unacked = (s.sub (link.val * 64 + m % 16 * 4 + i)).unacked))) ∧
    (∀ i : BootIn, (y.lost = true → exec (.filSubchLost ch i) s = .next s) ∧
      (y.lost = false → 17 ≤ s.working ch.link.val ch.dir.val → ∃ t, exec (.filSubchLost ch i) s = .next t ∧ SameBut [.fil, .fns, .errGlobal, .out] s t ∧
        t.sub k = { y with lost := true, unacked := [], nak := false } ∧ t.working ch.link.val ch.dir.val + 1 = s.working ch.link.val ch.dir.val) ∧
      (y.lost = false → s.working ch.link.val ch.dir.val < 17 → ∃ t, exec (.filSubchLost ch i) s = .next t ∧ ch.link.val ∈ t.fil.down ∧
        t.units = [] ∧ t.sessions = [] ∧ t.frm.count = 0))

/-- ETH_FRAME_RX, PFC_PAUSE, PCS_BLOCK_LOCK, NET_PORT_DOWN, NET_PATH_SUSPECT, PROBE_TIMER and CONGESTION_INTERVAL. Rests on R502, R505, R506, R509, R518, R520, R521, R522. -/
def Obligations.NetworkFramesAndPaths : Prop :=
  ∀ (path : Fin 32) (s : State), s.halted = false →
    let p := path.val
    let k := p / 4
    let err : State := s.updPort k (fun x => { x with err := (x.err + 1) % 2 ^ 64 })
    let drop : State := s.updPort k (fun x => { x with prioDrop := (x.prioDrop + 1) % 2 ^ 64 })
    let bad : State := { s with net := { s.net with badSegment := (s.net.badSegment + 1) % 2 ^ 64 } }
    (∀ fcs crc ce prio (g : Segment), let i := Instr.ethFrameRx path fcs crc ce prio g
      (s.pathUp p = false → exec i s = .next s) ∧
      (s.pathUp p = true → fcs = false → exec i s = .next err) ∧
      (s.pathUp p = true → fcs = true → prio ≠ s.set.cur.netPkg.pfcPrio → exec i s = .next drop) ∧
      (s.pathUp p = true → fcs = true → prio = s.set.cur.netPkg.pfcPrio → s.set.cur.fis = [] →
        (crc = false ∨ g.hver ≠ 1 ∨ 6 < g.type → exec i s = .next bad) ∧
        (crc = true → g.hver = 1 → g.type ≤ 6 → (∀ h, h ∈ s.net.reorder → ¬ (h.src = g.src ∧ h.vc = g.vc)) →
          let n := (s.port k).rxBytes + (48 + g.payload.length)
          ∃ t, exec i s = .next t ∧ SameBut [.net, .out] s t ∧ t.net.accepted = s.net.accepted ++ [g] ∧ (t.port k).rxBytes = n ∧
            ((s.port k).xoffSent = false → 1572864 < n → t.out = s.out ++ [.pause p true] ∧ (t.port k).xoffSent = true) ∧
            ((s.port k).xoffSent = false → n ≤ 1572864 → t.out = s.out ∧ (t.port k).xoffSent = false) ∧
            (ce = true → s.set.cur.netPkg.encap ≠ 0 → ∀ x, s.peer? g.src = some x → t.peer? g.src = some { x with ceSeen := true })))) ∧
    (∃ t, exec (.pfcPause path true) s = .next t ∧ SameBut [.net] s t ∧ t.port k = { s.port k with paused := sIns (p % 4) (s.port k).paused } ∧
      t.net.pathPfc = mcount s.net.pathPfc p 1 ∧ (s.set.cur.netPkg.encap ≠ 0 → t.net.peers = s.net.peers) ∧
      (s.set.cur.netPkg.encap = 0 → ∀ q x, s.peer? q = some x → t.peer? q = some { x with ece := x.ece || (s.peerPaths x).contains p })) ∧
    (∃ t, exec (.pfcPause path false) s = .next t ∧ SameBut [.freeCtr, .net, .out] s t ∧
      t.port k = { s.port k with paused := sDel (p % 4) (s.port k).paused }) ∧
    ((∀ r, s.set.cur.port? k = some r → r.enabled = false ∨ subPorts r.mode ≤ p % 4) → exec (.pcsBlockLock path) s = .next s) ∧
    (∀ r, s.set.cur.port? k = some r → r.enabled = true → p % 4 < subPorts r.mode → ∃ t, exec (.pcsBlockLock path) s = .next t ∧
      SameBut [.freeCtr, .net, .out] s t ∧ t.port k = { s.port k with up := sIns (p % 4) (s.port k).up } ∧ t.pathUp p = true) ∧
    (s.pathUp p = false → exec (.netPortDown path) s = .next s) ∧
    (s.pathUp p = true → ∃ t, exec (.netPortDown path) s = .next t ∧ SameBut failParts s t ∧
      (s.net.peers.all (fun q => q.2.vcs.all (fun c => c.2.sent.all (·.seg.path != p)) && (!q.2.connected || (s.peerPaths q.2).any (· != p))) = true →
        SameBut [.net, .fns, .errGlobal, .out] s t ∧ t.port k = { s.port k with up := sDel (p % 4) (s.port k).up, paused := sDel (p % 4) (s.port k).paused } ∧
        t.pathUp p = false ∧ t.net.peers = s.net.peers ∧ t.errGlobal = (s.raiseG St.netPortDown (p * 2 ^ 32) schedAgent 0xFFFF true).errGlobal) ∧
      (∀ q x v c g h, s.net.peers = [(q, x)] → x.vcs = [(v, c)] → c.sent = [g] → g.seg.path = p → g.sends < 7 →
        (s.peerPaths x).filter (fun j => j != p && !s.paused j) = [h] → ∃ r, .segment h r ∈ t.out ∧ r.psn = g.seg.psn ∧ r.payload = g.seg.payload)) ∧
    (∀ q, s.peer? q = none → exec (.netPathSuspect q path) s = .next s ∧ exec (.probeTimer q path) s = .next s) ∧
    (∀ q x, s.peer? q = some x →
      (x.suspects.any (·.path == p) = true → exec (.netPathSuspect q path) s = .next s ∧ ∃ t, exec (.probeTimer q path) s = .next t ∧
        SameBut [.net, .out] s t ∧
        t.out = s.out ++ [.segment p { type := 4, path := p, src := s.set.cur.netPkg.pkgId, dst := q, payload := s.helloBytes 0 }] ∧
        ∃ y, t.peer? q = some y ∧ y.suspects.map (·.path) = x.suspects.map (·.path) ∧
          ∀ u, u ∈ y.suspects → u.path = p → u.probed = true) ∧
      (x.suspects.any (·.path == p) = false → exec (.probeTimer q path) s = .next s ∧
        (x.vcs.all (fun c => c.2.sent.all (·.seg.path != p)) = true →
          ((s.peerPaths x).any (· != p) = true → ∃ t, exec (.netPathSuspect q path) s = .next t ∧ SameBut [.net, .fns, .errGlobal, .out] s t ∧
            t.peer? q = some { x with suspects := x.suspects ++ [{ path := p }] } ∧
            t.errGlobal = (s.raiseG St.netPathSuspect (q + p * 2 ^ 32)).errGlobal) ∧
          ((s.peerPaths x).all (· == p) = true → s.stalledOps = [] → s.set.cur.feds.all (fun f => f.peers.all (fun r => r.2 != q)) = true →
            ∃ t, exec (.netPathSuspect q path) s = .next t ∧ SameBut [.beads, .clasps, .net, .fns, .errGlobal, .out] s t ∧ t.peer? q = none)))) ∧
    (∀ tm, exec (.congestionInterval tm) s = .next { s.at tm with net := { s.net with peers := s.net.peers.map (fun (q : Nat × Peer) =>
      (q.1, if q.2.connected = false then q.2
        else if q.2.ece = true then { q.2 with ece := false, rate := max 1000 (q.2.rate - q.2.rate / 8) }
        else { q.2 with rate := min (s.rateMax q.2) (q.2.rate + s.rateMax q.2 / 64) })) } })

/-- DATA, ACK, HELLO, HELLO_ACK, PROBE, BYE, EARLY_NAK, ACK_TIMER, RETRANSMIT_TIMEOUT and PEER_IDLE_REMOVE. Rests on R510, R512, R513, R514, R515, R516, R485, R530, R521. -/
def Obligations.TransportRowsAct : Prop :=
  ∀ (path : Fin 32) (g : Segment) (s : State), s.halted = false →
    let p := path.val
    let u := s.takeSeg p g
    let q := g.src
    let me := s.set.cur.netPkg.pkgId
    let free := fun (x : Peer) => (s.peerPaths x).filter (fun j => !s.paused j)
    let alone := fun (n : Nat) => s.stalledOps = [] ∧ s.set.cur.feds.all (fun f => f.peers.all (fun r => r.2 != n)) = true
    let f := s.out.find? (fun o => match o with
      | .coll k _ _ => k == collHdrOf g.payload
      | _ => false)
    (s.peer? q = none → exec (.data path g) s = .next u ∧ exec (.ack path g) s = .next u ∧ exec (.probe path g) s = .next u ∧
      exec (.bye path g) s = .next u ∧ ∀ h, exec (.helloAck path g h) s = .next u) ∧
    (∀ x, s.peer? q = some x →
      let c := x.vc g.vc
      let d := ahead g.psn c.rxPsn
      (x.connected = false → exec (.data path g) s = .next u) ∧
      (x.connected = true → x.busy = false →
        (2 ^ 31 ≤ d ∨ c.rxAhead.contains g.psn = true → free x ≠ [] → ∃ t h r, exec (.data path g) s = .next t ∧ SameBut [.freeCtr, .net, .out] s t ∧
          t.out = u.out ++ [.segment h r] ∧ h ∈ free x ∧ r.type = 1 ∧ r.vc = g.vc ∧ r.dst = q ∧ r.ackPsn = c.rxPsn) ∧
        (64 < d → d < 2 ^ 31 → c.rxAhead.contains g.psn = false → ∃ t y, exec (.data path g) s = .next t ∧ SameBut [.net, .out] s t ∧ t.out = u.out ∧
          t.peer? q = some y ∧ (y.vc g.vc).rxPsn = c.rxPsn ∧ (y.vc g.vc).rxMsgs = c.rxMsgs) ∧
        (d ≤ 64 → g.psn < 2 ^ 32 → c.rxPsn < 2 ^ 32 → c.rxAhead = [] → g.msgId ≠ c.rxNextMsg → c.rxMsgs.all (fun r => r.id != c.rxNextMsg) = true →
          ∃ t y r, exec (.data path g) s = .next t ∧ SameBut [.freeCtr, .net, .out] s t ∧ t.peer? q = some y ∧ r ∈ (y.vc g.vc).rxMsgs ∧
            r.id = g.msgId ∧ (g.msgOff, g.payload, g.poisonMap) ∈ r.pieces ∧
            (g.psn = c.rxPsn → (y.vc g.vc).rxPsn = (c.rxPsn + 1) % 2 ^ 32) ∧
            (g.psn ≠ c.rxPsn → (y.vc g.vc).rxPsn = c.rxPsn ∧ g.psn ∈ (y.vc g.vc).rxAhead) ∧
            (g.ackNow = false → c.unackedRx < 7 → t.out = u.out ∧ (y.vc g.vc).unackedRx = c.unackedRx + 1) ∧
            (g.ackNow = true ∨ 7 ≤ c.unackedRx → free x ≠ [] → (y.vc g.vc).unackedRx = 0)) ∧
        (g.psn = c.rxPsn → c.rxAhead = [] → g.msgId = c.rxNextMsg → c.rxMsgs = [] → g.vc = 0 → g.msgOff = 0 → g.last = true →
          g.payload.length = 32 → bfld g.payload 0 2 = 2 → ∃ t, exec (.data path g) s = .next t ∧ SameBut [.freeCtr, .beads, .net, .out] s t ∧
            t.beads = (s.remoteDone q (bfld g.payload 2 4) (bfld g.payload 6 2)).beads)) ∧
      (g.sack = 0 → x.vcs.all (fun v => v.2.backlog.isEmpty) = true → ∃ t y, exec (.ack path g) s = .next t ∧ SameBut [.net, .out] s t ∧ t.out = u.out ∧
        t.peer? q = some y ∧ y.lastAckAt = s.now ∧ (y.vc g.vc).sent = c.sent.filter (fun h => decide (ahead h.seg.psn g.ackPsn < 2 ^ 31)) ∧
        (ahead g.ackPsn c.ackPsn < 2 ^ 31 → (y.vc g.vc).ackPsn = g.ackPsn) ∧ (∀ v, v ≠ g.vc → y.vc v = x.vc v) ∧
        (∀ w, w ∈ x.suspects → w.path = p → w.probed = true → w.acks ≠ 3 → { w with acks := w.acks + 1, probed := false } ∈ y.suspects) ∧
        ((∀ w, w ∈ x.suspects → w.path = p → w.probed = true ∧ w.acks = 3) → ∀ w, w ∈ y.suspects → w.path ≠ p)) ∧
      (∀ h k, x.vcs = [(g.vc, c)] → c.sent = [h] → c.backlog = [] → h.sends = 1 → ackCovers g.ackPsn g.sack h.seg.psn = false →
        3 ≤ sackBeyond g.ackPsn g.sack h.seg.psn → x.suspects = [] → free x = [k] →
        ∃ t r, exec (.ack path g) s = .next t ∧ .segment k r ∈ t.out ∧ r.psn = h.seg.psn ∧ r.payload = h.seg.payload) ∧
      (∃ t, exec (.probe path g) s = .next t ∧ SameBut [.net, .out] s t ∧
        t.out = u.out ++ [.segment p { type := 1, vc := g.vc, path := p, src := me, dst := q }] ∧
        (0x14 ≤ g.payload.length → t.peer? q = some { x with paths := bfld g.payload 0x10 4 }) ∧ (g.payload.length < 0x14 → t.peer? q = some x)) ∧
      (x.connected = false ∨ x.busy = false → ∃ t, exec (.bye path g) s = .next t ∧ SameBut [.net, .out] s t ∧ t.net.peers = mdel s.net.peers q) ∧
      (x.connected = true → x.busy = true → alone q → ∃ t, exec (.bye path g) s = .next t ∧ SameBut [.beads, .clasps, .net, .fns, .errGlobal, .out] s t ∧ t.peer? q = none)) ∧
    (∀ h : HelloBody,
      let hi := min s.tRange.2 h.verMax
      let lo := max s.tRange.1 h.verMin
      let crossed := ∃ x, s.peer? q = some x ∧ x.helloSent = true ∧ x.connected = false
      let new := fun (y : Peer) => y.connected = true ∧ y.version = hi ∧ y.features = featOf hi (h.features &&& 0xF) ∧ y.paths = h.paths ∧
        y.rate = s.rateMax y / 8 ∧ y.vcs = []
      (crossed → me < q → exec (.hello path g h) s = .next u) ∧
      (¬ (crossed ∧ me < q) →
        (hi < lo → ∃ t, exec (.hello path g h) s = .next t ∧ SameBut [.net, .out] s t ∧
          t.out = u.out ++ [.segment p { type := 5, path := p, src := me, dst := q, payload := leBytes 2 St.netVersion }]) ∧
        (lo ≤ hi → s.peer? q = none → s.set.cur.maxPeers ≤ s.net.peers.length → ∃ t, exec (.hello path g h) s = .next t ∧
          SameBut [.net, .fns, .errGlobal, .out] s t ∧ t.net.peers = s.net.peers ∧ t.errGlobal = (s.raiseG St.netPeersFull q).errGlobal ∧
          .segment p { type := 5, path := p, src := me, dst := q, payload := leBytes 2 St.netPeersFull } ∈ t.out) ∧
        (lo ≤ hi → (s.peer? q = none → s.net.peers.length < s.set.cur.maxPeers) → (∀ x, s.peer? q = some x → x.connected = true ∨ x.vcs = []) →
          ∃ t y, exec (.hello path g h) s = .next t ∧ SameBut [.net, .out] s t ∧ t.peer? q = some y ∧ new y ∧
            t.out = u.out ++ [.segment p { type := 3, path := p, src := me, dst := q, payload := s.helloBytes hi }])) ∧
      (∀ x, s.peer? q = some x → x.helloSent = true → x.connected = false → x.vcs = [] → lo ≤ hi →
        ∃ t y, exec (.helloAck path g h) s = .next t ∧ SameBut [.net, .out] s t ∧ t.out = u.out ∧ t.peer? q = some y ∧ new y) ∧
      (∀ x, s.peer? q = some x → x.helloSent = false ∨ x.connected = true ∨ hi < lo → exec (.helloAck path g h) s = .next u)) ∧
    ((f = none → exec (.earlyNak path g) s = .next u) ∧ (∀ o, f = some o → exec (.earlyNak path g) s = .next (u.emit o))) ∧
    (∀ n v, (∀ x, s.peer? n = some x → (x.vc v).unackedRx = 0) → exec (.ackTimer n v) s = .next s) ∧
    (∀ n v x, s.peer? n = some x → (x.vc v).unackedRx ≠ 0 →
      (free x = [] → exec (.ackTimer n v) s = .next s) ∧
      (free x ≠ [] → ∃ t h r y, exec (.ackTimer n v) s = .next t ∧ SameBut [.freeCtr, .net, .out] s t ∧ t.out = s.out ++ [.segment h r] ∧ h ∈ free x ∧
        r.type = 1 ∧ r.vc = v ∧ r.dst = n ∧ r.ackPsn = (x.vc v).rxPsn ∧ r.sack = (x.vc v).sack ∧ t.peer? n = some y ∧ (y.vc v).unackedRx = 0)) ∧
    (∀ n v psn tm x, s.peer? n = some x →
      ((x.vc v).sent.find? (·.seg.psn == psn) = none → exec (.retransmitTimeout n v psn tm) s = .next (s.at tm)) ∧
      (∀ h, (x.vc v).sent.find? (·.seg.psn == psn) = some h →
        (s.at tm).now < x.lastAckAt + 2000000000 →
          ((s.at tm).now < h.sentAt + h.rto * 1000000 → exec (.retransmitTimeout n v psn tm) s = .next (s.at tm)) ∧
          (∀ k, h.sentAt + h.rto * 1000000 ≤ (s.at tm).now → h.sends < 7 → free x = [k] →
            ∃ t r y i, exec (.retransmitTimeout n v psn tm) s = .next t ∧ SameBut [.now, .freeCtr, .net, .out] s t ∧ t.out = s.out ++ [.segment k r] ∧
              r.psn = h.seg.psn ∧ r.payload = h.seg.payload ∧ t.peer? n = some y ∧ y.resends = (x.resends + 1) % 2 ^ 64 ∧ i ∈ (y.vc v).sent ∧
              i.seg.psn = psn ∧ i.sends = h.sends + 1 ∧ i.rto = min 1000 (2 * h.rto) ∧ i.sentAt = (s.at tm).now)) ∧
      (∀ h, (x.vc v).sent.find? (·.seg.psn == psn) = some h → x.lastAckAt + 2000000000 ≤ (s.at tm).now → alone n →
        ∃ t, exec (.retransmitTimeout n v psn tm) s = .next t ∧ SameBut [.now, .beads, .clasps, .net, .fns, .errGlobal, .out] s t ∧ t.peer? n = none ∧
          t.errGlobal = ((s.at tm).raiseG St.netPeerLost n).errGlobal ∧ t.net.remoteOps = s.net.remoteOps.filter (·.peer != n) ∧
          ∀ o b, o ∈ s.net.remoteOps → o.peer = n → o.bead = some b → (t.bead b).wake = some true) ∧
      (s.peerIdle n x = false ∨ (s.at tm).now < x.lastBusyAt + 10 ^ 13 → exec (.peerIdleRemove n tm) s = .next (s.at tm)) ∧
      (s.peerIdle n x = true → x.lastBusyAt + 10 ^ 13 ≤ (s.at tm).now → ∃ t, exec (.peerIdleRemove n tm) s = .next t ∧
        SameBut [.now, .freeCtr, .net, .out] s t ∧ t.net.peers = mdel s.net.peers n ∧
        (free x ≠ [] → ∃ h, h ∈ free x ∧ t.out = s.out ++ [.segment h { type := 5, path := h, src := me, dst := n, payload := leBytes 2 0 }])))

/-- CLASP_OP, CLASP_DONE, FED_JOIN, FED_FORMED, FED_RETRY, FED_START, FED_READY, FED_COMMIT and FED_ABORT. Rests on R39, R484, R523, R535, R536, R537, R538, R539, R540. -/
def Obligations.FederationRowsAct : Prop :=
  ∀ (s : State), s.halted = false →
    (∀ peer fu clasp op tag rank,
      let who := ClaspAgent.remote peer tag
      let o := bits op 18 16
      let n := bits op 63 32
      let good := clpWordBad op = false ∧ (s.fed fu).formed = true ∧ (s.set.cur.peerFeds peer).any (·.fedUid == fu) = true
      let c := s.clasp clasp
      let acts := fun (k : Nat) (e : Bool) => ∃ u, ClaspTakes s u clasp k e ∧
        exec (.claspOp peer fu clasp op tag rank) s = .next (u.tell peer 2 [tag, 0, (u.clasp clasp).counter])
      (¬ good ∨ s.mayClasp who clasp (if o = 4 then 0 else o) = false →
        exec (.claspOp peer fu clasp op tag rank) s = .next (s.tell peer 2 [tag, St.clpNotGranted, 0])) ∧
      (good → s.stalledOps = [] → s.mayClasp who clasp (if o = 4 then 0 else o) = true →
        (o = 0 → acts (min (c.counter + n) (2 ^ 32 - 1)) (c.err || decide (2 ^ 32 ≤ c.counter + n))) ∧
        (o = 3 → acts 0 false) ∧ (o = 4 → acts c.counter true) ∧
        (o = 1 ∨ o = 2 → 4096 ≤ s.hostWaits (claspDie clasp) → exec (.claspOp peer fu clasp op tag rank) s =
          .next { s with stalledOps := [(who, op / 65536 * 65536 + clasp)] }) ∧
        (o = 1 → s.hostWaits (claspDie clasp) < 4096 → c.err = false → c.counter < n → exec (.claspOp peer fu clasp op tag rank) s =
          .next { s with clasps := mput s.clasps clasp { c with waits := c.waits ++ [{ who := .remote peer tag, target := n }] } }) ∧
        (o = 1 → s.hostWaits (claspDie clasp) < 4096 → c.err = true ∨ n ≤ c.counter →
          ∃ t, exec (.claspOp peer fu clasp op tag rank) s = .next t ∧ SameBut claspParts s t ∧ t.clasps = s.clasps) ∧
        (o = 2 → s.hostWaits (claspDie clasp) < 4096 → ∃ t, exec (.claspOp peer fu clasp op tag rank) s = .next t ∧ SameBut claspParts s t ∧
          (t.clasp clasp).counter = min (c.counter + 1) (2 ^ 32 - 1)))) ∧
    (∀ peer tag status k,
      let f := s.net.remoteOps.find? (fun o => o.tag == tag && o.peer == peer)
      (f = none → exec (.claspDone peer tag status k) s = .next s) ∧
      (∀ o, f = some o → ∃ t, exec (.claspDone peer tag status k) s = .next t ∧ SameBut [.beads, .net] s t ∧
        t.net = { s.net with remoteOps := s.net.remoteOps.filter (· != o) } ∧
        (∀ b, o.bead = some b → t.bead b = { s.bead b with wake := some (status != 0) }) ∧ (o.bead = none → t.beads = s.beads))) ∧
    (∀ peer fu, s.set.cur.fed? fu = none → exec (.fedRetry fu) s = .next s ∧ (∀ j, exec (.fedJoin peer fu j) s = .next s) ∧
      (∀ v o, exec (.fedFormed peer fu v o) s = .next s) ∧ (∀ e n r, exec (.fedStart peer fu e n r) s = .next s) ∧
      (∀ e x, exec (.fedReady peer fu e x) s = .next s ∧ exec (.fedAbort peer fu e x) s = .next s) ∧
      (∀ e m, exec (.fedCommit peer fu e m) s = .next (s.at m))) ∧
    (∀ peer fu f, s.set.cur.fed? fu = some f →
      let x := s.fed fu
      let u := f.localUid
      let new := fun (j : JoinBody) => (⟨peer, j.rank, j.members, j.totalLeaves, j.leaves, j.tag, j.verMin, j.verMax⟩ : FedJoin)
      let formWith := fun (w : State) (i : Instr) =>
        let js := s.ownJoin f :: (w.fed fu).joins
        (js.length < f.members → exec i s = .next w) ∧
        (f.members ≤ js.length → f.agrees s.set.cur.netPkg.pkgId js = false → exec i s = .next (w.raiseUG u St.netFedMismatch fu)) ∧
        (f.members ≤ js.length → f.agrees s.set.cur.netPkg.pkgId js = true →
          (f.version js = none → exec i s = .next (w.raiseUG u St.netFedVersion fu)) ∧
          (∀ v, f.version js = some v → exec i s = .next ((f.peers.filter (·.1 != f.rank)).foldl (fun s p => s.tell p.2 0x21 [fu, v, offsetOf js p.1])
            (w.updFed fu (fun y => { y with formed := true, version := v, offset := 0 })))))
      (∀ j : JoinBody, (f.rank ≠ 0 ∨ f.peers.all (·.2 != peer) = true → exec (.fedJoin peer fu j) s = .next s) ∧
        (f.rank = 0 → f.peers.any (·.2 == peer) = true →
          (x.formed = false → formWith (s.updFed fu (fun y => { y with joins := y.joins.filter (·.pkg != peer) ++ [new j] })) (.fedJoin peer fu j)) ∧
          (∀ sl, x.formed = true → (s.unitSt u).slice = some sl → sl.phase ≠ .committing →
            ∃ t, exec (.fedJoin peer fu j) s = .next t ∧ SliceFails s t u sl))) ∧
      (x.formed = true → exec (.fedRetry fu) s = .next s) ∧
      (x.formed = false → (f.rank = 0 → formWith s (.fedRetry fu)) ∧
        (f.rank ≠ 0 → exec (.fedRetry fu) s = .next (s.tell (f.peerOf 0) 0x20 [fu, f.rank, f.members, f.totalLeaves,
          (s.set.cur.leaves u).length, f.groupTag, (s.verRange 0x06).1, (s.verRange 0x06).2]))) ∧
      (f.rank = 0 ∨ f.peerOf 0 ≠ peer → (∀ v o, exec (.fedFormed peer fu v o) s = .next s) ∧ (∀ e n r, exec (.fedStart peer fu e n r) s = .next s) ∧
        (∀ e z, exec (.fedAbort peer fu e z) s = .next s) ∧ (∀ e m, exec (.fedCommit peer fu e m) s = .next (s.at m))) ∧
      (f.rank ≠ 0 → f.peerOf 0 = peer →
        (∀ v o, exec (.fedFormed peer fu v o) s = .next (s.updFed fu (fun y => { y with formed := true, version := v, offset := o }))) ∧
        (∀ e n r, (x.formed = false → exec (.fedStart peer fu e n r) s = .next s) ∧
          (x.formed = true → (s.unitSt u).slice ≠ none → exec (.fedStart peer fu e n r) s = .next (s.updFed fu (fun y => { y with startWaits := some (e, r) }))) ∧
          (∀ h, x.formed = true → (s.unitSt u).slice = none → (s.unitSt u).replay = none → (s.unitSt u).slicePtr ≠ 0 →
            s.header? u (s.unitSt u).slicePtr = some h → (s.unitSt u).down = false → (s.unitSt u).failed = [] →
            ∃ t sl, exec (.fedStart peer fu e n r) s = .next t ∧ t = (s.updFed fu (fun y => { y with epoch := e, startWaits := none })).memberStart f r ∧
              (t.unitSt u).slice = some sl ∧ sl.phase = .running ∧ sl.header = h ∧ sl.replay = r ∧ sl.startAt = s.now)) ∧
        (∀ e m, (x.epoch ≠ e ∨ (∀ sl, (s.unitSt u).slice = some sl → sl.phase ≠ .waiting) → exec (.fedCommit peer fu e m) s = .next (s.at m)) ∧
          (∀ sl, x.epoch = e → (s.unitSt u).slice = some sl → sl.phase = .waiting → exec (.fedCommit peer fu e m) s = .next (((s.at m).commitNow u).startWaiting f) ∧
            (((s.at m).commitNow u).unitSt u).slice = none ∧ ∀ b, b ∈ sl.beads → (((s.at m).commitNow u).bead b).phase = .idle)) ∧
        (∀ e z, (x.epoch ≠ e → exec (.fedAbort peer fu e z) s = .next s) ∧
          (∀ sl, x.epoch = e → (s.unitSt u).slice = some sl → ∃ w, SliceFails s w u sl ∧ exec (.fedAbort peer fu e z) s = .next (w.startWaiting f)))) ∧
      (∀ e z, f.rank ≠ 0 ∨ x.epoch ≠ e ∨ x.running = false ∨ f.peers.find? (·.2 == peer) = none → exec (.fedReady peer fu e z) s = .next s) ∧
      (∀ z p, f.rank = 0 → x.running = true → f.peers.find? (·.2 == peer) = some p →
        let ready := mput x.ready p.1 z
        let bad := if x.firstBad = 0 then z else x.firstBad
        (ready.length < f.members → exec (.fedReady peer fu x.epoch z) s = .next (s.updFed fu (fun y => { y with ready := ready, firstBad := bad }))) ∧
        (∀ sl, f.members ≤ ready.length → (s.unitSt u).slice = some sl → ∃ t, exec (.fedReady peer fu x.epoch z) s = .next t ∧
          (bad = 0 → SameBut [.freeCtr, .units, .net, .fns, .errGlobal, .out] s t ∧ (t.fed fu).running = false ∧
            (t.unitSt u).slice = some { sl with phase := .committing, endAt := s.now }) ∧
          (bad ≠ 0 → SliceFails s t u sl))))

/-- PTP_SYNC, PTP_DELAY_RESP, PTP_ANNOUNCE, PTP_ANNOUNCE_TIMEOUT and PPS_IN_EDGE. Rests on R507, R508, R161. -/
def Obligations.PtpRowsAct : Prop :=
  ∀ (s : State) (m : Nat), s.halted = false →
    let p := s.net.ptp
    let lost := fun (t : State) => t.net.ptp.locked = false ∧ t.net.ptp.good = 0 ∧ t.net.ptp.bad = 0 ∧
      (s.set.cur.frame.source = 1 → t.frm.holdover = true) ∧ (s.set.cur.frame.source ≠ 1 → t.frm = s.frm)
    (p.master ≠ some m → (∀ a b, exec (.ptpSync m a b) s = .next s ∧ exec (.ptpDelayResp m a b) s = .next s)) ∧
    (p.master = some m → ∀ origin rx : Nat,
      let off : Int := (rx : Int) - origin - p.delay
      let good := if -50 ≤ off ∧ off ≤ 50 then min 255 (p.good + 1) else 0
      let bad := if off < -500 ∨ 500 < off then p.bad + 1 else 0
      (∃ t, exec (.ptpSync m origin rx) s = .next t ∧ SameBut [.freeCtr, .frm, .net, .fns, .errGlobal, .out] s t ∧
        t.net.ptp.offset = off ∧ t.net.ptp.syncDiff = (rx : Int) - origin ∧ t.net.ptp.master = p.master ∧ t.net.ptp.delay = p.delay ∧
        (p.locked = false → good < 16 → t.net.ptp.locked = false ∧ t.net.ptp.good = good ∧ t.frm = s.frm ∧ t.errGlobal = s.errGlobal) ∧
        (p.locked = false → 16 ≤ good → t.net.ptp.locked = true ∧ t.net.ptp.bad = 0 ∧
          (s.set.cur.frame.source = 1 → t.frm.holdover = false) ∧ (s.set.cur.frame.source ≠ 1 → t.frm = s.frm ∧
            t.errGlobal = (s.raiseG St.netPtpLock 1).errGlobal)) ∧
        (p.locked = true → bad < 4 → t.net.ptp.locked = true ∧ t.net.ptp.bad = bad ∧ t.frm = s.frm ∧ t.errGlobal = s.errGlobal) ∧
        (p.locked = true → 4 ≤ bad → lost t)) ∧
      exec (.ptpDelayResp m origin rx) s = .next { s with net := { s.net with ptp := { p with delay := (p.syncDiff + ((rx : Int) - origin)) / 2 } } }) ∧
    (∀ prio tm, ∃ t, exec (.ptpAnnounce m prio tm) s = .next t ∧ SameBut [.now, .net] s t ∧ t.now = max s.now tm ∧
      t.net = { s.net with ptp := { p with masters := mput p.masters m prio, master := t.net.ptp.master } } ∧
      ∃ b q, t.net.ptp.master = some b ∧ (b, q) ∈ t.net.ptp.masters ∧ ∀ x, x ∈ t.net.ptp.masters → q ≤ x.2) ∧
    (∃ t, exec .ptpAnnounceTimeout s = .next t ∧ SameBut [.frm, .net, .fns, .errGlobal, .out] s t ∧ t.net.ptp.masters = [] ∧ t.net.ptp.master = none ∧
      t.net.ptp.offset = p.offset ∧ t.net.ptp.delay = p.delay ∧ (p.locked = true → lost t) ∧ (p.locked = false → SameBut [.net] s t)) ∧
    (∀ tm, exec (.ppsInEdge tm) s = .next { s.at tm with net := { s.net with ptp := { p with ppsTs := s.ptpTime tm } } })

/-- SET_CHECK_DONE, SET_TIMEOUT, FRAME_TICK with a waiting load, FLASH_WRITE, PLDM_FIRMWARE_UPDATE and PLDM_PARAM_UPDATE. Rests on R134, R135, R136, R139, R141, R144, R147, R585, R588, R589, R590, R597. -/
def Obligations.LoadAndFlashRowsAct : Prop :=
  ∀ (s : State),
    let fin := fun (code record : Nat) => ({ s with set := { s.set with phase := .idle, code := code, record := record, loaded := none } } : State)
    let ev : FlashReq := { kind := .event, off := 0, data := [] }
    (s.halted = false →
      (s.set.phase ≠ .checking → exec .setCheckDone s = .next s) ∧
      (s.set.phase = .checking → (s.imageBytes = none → exec .setCheckDone s = .next (fin St.setLength 0xFFFF)) ∧
        (∀ img, s.imageBytes = some img →
          (∀ st r, s.checkImage img = .error (st, r) → exec .setCheckDone s = .next (fin st r)) ∧
          (∀ l, s.checkImage img = .ok l → l.image = img ∧ s.checkHead img = none ∧ s.check2 img = true ∧ (l.merged.fis = [] ∨ s.fiAllow = true) ∧
            l.merged.check9 = [] ∧ l.merged.check10 = [] ∧ l.merged.check11 = [] ∧ l.merged.check12 = [] ∧
            (∀ st bad, s.check13 l.merged = some (st, bad) → ∃ r, exec .setCheckDone s = .next (fin st r)) ∧
            (s.check13 l.merged = none →
              exec .setCheckDone s = .next { s with set := { s.set with phase := .pending, ticks := 0, loaded := some l } })))) ∧
      (s.set.phase = .pending → 8 ≤ s.set.ticks → exec .setTimeout s = .next (fin St.setTimeout 0xFFFF)) ∧
      (s.set.phase ≠ .pending ∨ s.set.ticks < 8 → exec .setTimeout s = .next s) ∧
      (∀ m l, s.set.phase = .pending → s.set.loaded = some l → ∃ t, exec (.frameTick m) s = .next t ∧
        let busy := s.units.any (fun p => (s.affectedBy l).contains (s.set.cur.top p.1) && p.2.busy)
        (busy = true ∨ 8 ≤ s.set.ticks → t.set = { s.set with ticks := s.set.ticks + 1 }) ∧
        (busy = false → s.set.ticks < 8 →
          (∀ st bad, s.check13 l.merged = some (st, bad) → t.set.phase = .idle ∧ t.set.code = st ∧ t.set.cur = s.set.cur) ∧
          (s.check13 l.merged = none → t.set.phase = .idle ∧ t.set.code = 0 ∧ t.set.cur = l.merged ∧ t.set.image = l.image ∧ t.dev.noSetting = false ∧
            t.hmk.queue = s.hmk.queue ++ if s.set.persist = true ∧ l.full = true then [{ kind := .setStore, off := 0, data := l.image }] else [])))) ∧
    (s.clocksOff = false →
      (∀ ok1 ok2, s.hmk.queue = [] → exec (.flashWrite ok1 ok2) s = .next s) ∧
      (∀ ok1 ok2 r rest, s.hmk.queue = r :: rest → ∃ t, exec (.flashWrite ok1 ok2) s = .next t ∧
        SameBut [.freeCtr, .fns, .hmk, .mgt, .errGlobal, .out] s t ∧
        (ok1 = false → ok2 = false → t.hmk.params = s.hmk.params ∧ t.hmk.queue = rest ++ (if r.kind = .event then [] else [ev]) ∧
          t.errGlobal = (s.raiseG St.hmkFlashErr).errGlobal ∧ (r.report = 1 → t.mgt.fwBusy = false ∧ t.mgt.fwStatus = St.hmkFlashErr)) ∧
        (ok1 = true ∨ ok2 = true → t.errGlobal = s.errGlobal ∧
          (r.kind = .event → t.hmk.params = s.hmk.params ∧ t.hmk.queue = rest ∧ t.hmk.logNext = (s.hmk.logNext + 1) % 62464 ∧
            ∀ a, a < 0x30000 + s.hmk.logNext * 64 ∨ 0x30000 + s.hmk.logNext * 64 + 64 ≤ a → t.hmk.flash.read a = s.hmk.flash.read a) ∧
          (r.kind = .params → t.hmk.flash = paramWrite s.hmk.flash (fun b => setBytes b r.off r.data) false ∧
            t.hmk.params = s.hmk.params.writeL r.off r.data ∧ t.hmk.queue = rest ++ [ev] ∧ (r.report = 2 → t.mgt.parBusy = false ∧ t.mgt.parStatus = 0)) ∧
          (r.kind = .setStore → t.hmk.flash = s.hmk.flash.writeL (storeBase s.otherStore) r.data ∧ t.hmk.params = s.hmk.params ∧
            t.hmk.queue = { kind := .params, off := 0x400, data := [BitVec.ofNat 8 s.otherStore] } :: (rest ++ [ev])) ∧
          (r.kind = .signed → s.signedOk r.data = false → t.hmk.flash = s.hmk.flash ∧ t.hmk.params = s.hmk.params ∧
            (r.report = 2 → t.mgt.parBusy = false ∧ t.mgt.parStatus = St.hmkParamDenied)) ∧
          (r.kind = .signed → s.signedOk r.data = true → t.hmk.params = s.hmk.params.writeL 0xE0 ((r.data.drop (12 + 0xC0)).take 8) ∧ t.hmk.flash =
            paramWrite s.hmk.flash (fun b => setBytes (setBytes b 0x10 ((r.data.drop 8).take 4)) 0x20 ((r.data.drop 12).take 656)) true) ∧
          (r.kind = .slot → t.hmk.flash = s.hmk.flash.writeL (fwBase (r.off / 2)) r.data ∧ ∃ d, t.hmk.queue = d :: (rest ++ [ev]) ∧ d.kind = .directory) ∧
          (r.kind = .directory → t.hmk.fwBusy = false ∧ t.hmk.queue = rest ++ [ev] ∧
            t.hmk.flash = dirWrite s.hmk.flash { active := r.off / 2 % 2, trial := bit r.off 2, attempts := 0, confirm := r.off % 2 }))) ∧
      (∀ bundle confirm,
        (s.hmk.fwBusy = true → exec (.pldmFirmwareUpdate bundle confirm) s = .next (s.emit (.mctp 0 [St.hmkBusy]))) ∧
        (∀ e, s.hmk.fwBusy = false → s.bundleComps bundle = .error e → exec (.pldmFirmwareUpdate bundle confirm) s = .next (s.emit (.mctp 0 [e]))) ∧
        (∀ cs, s.hmk.fwBusy = false → s.bundleComps bundle = .ok cs → bundle.length ≤ fwSize → ∃ t r, exec (.pldmFirmwareUpdate bundle confirm) s = .next t ∧
          SameBut [.hmk, .out] s t ∧ t.hmk = { s.hmk with fwBusy := true, queue := s.hmk.queue ++ [r] } ∧ t.out = s.out ++ [.mctp 0 [0]] ∧
          r.kind = .slot ∧ r.data = bundle ∧ (∀ k d, dirTaken s.hmk.flash = some (k, d) → r.off / 2 = 1 - d.active))) ∧
      (∀ upd, (s.signedOk upd = true → exec (.pldmParamUpdate upd) s =
          .next { s with hmk := { s.hmk with queue := s.hmk.queue ++ [{ kind := .signed, off := 0, data := upd }] }, out := s.out ++ [.mctp 0 [0]] }) ∧
        (upd.length ≠ 764 ∨ bfld upd 0 8 ≠ hashLo ∨ bfld upd 8 4 ≤ bfld (paramStored s.hmk.flash) 0x10 4 → s.signedOk upd = false) ∧
        (s.signedOk upd = false → exec (.pldmParamUpdate upd) s = .next (s.emit (.mctp 0 [St.hmkParamDenied])))))

/-- PORST_N, TRIAL_WATCHDOG, CDIE_LOSS, HUB_LOSS, SCHED_TAKEOVER and SCHED_STANDBY_LOST. Rests on R83, R138, R577, R578, R580, R594, R596, R598, R606, R607. -/
def Obligations.BootResetAndTakeover : Prop :=
  ∀ (s : State) (i : BootIn),
    let f := (i.flash.map Bytes.ofCells).getD s.hmk.flash
    let empty := fun (t : State) => t.units = [] ∧ t.sessions = [] ∧ t.clasps = [] ∧ t.merges = [] ∧ t.colls = []
    (∃ t, exec (.porstN i) s = .next t ∧ empty t ∧ t.perst = s.perst ∧ t.frm.count = 0 ∧ t.frm.ticked = false ∧ t.dev.fatal = false ∧
      t.pwr.thermtrip = false ∧
      (t.dev.ready = true → t.dev.limited = false ∧ t.dev.bootFailed = false ∧ t.frm.standbyOk = true ∧ t.hmk.stage = 11) ∧
      (bit (bfld (paramStored f) 0xE8 4) 2 = true → t.hmk.bscanHold = true ∧ t.hmk.stage = 1 ∧ t.dev.ready = false) ∧
      (i.flash = some [] → i.backup = [] → t.dev.bootFailed = true ∧ t.hmk.err = St.hmkBootFailed ∧ t.dev.ready = false)) ∧
    (s.halted = false →
      (s.onTrial = true → s.dev.ready = false → s.hmk.bscanHold = false → s.hmk.stage ≠ 0 → exec (.trialWatchdog i) s = exec (.porstN i) s) ∧
      (s.onTrial = false ∨ s.dev.ready = true ∨ s.hmk.bscanHold = true ∨ s.hmk.stage = 0 → exec (.trialWatchdog i) s = .next s) ∧
      (∀ d, ∃ t, exec (.cdieLoss d i) s = .next t ∧ empty t ∧ t.perst = s.perst ∧ t.mgt = s.mgt ∧ t.hmk.params = s.hmk.params ∧ t.frm.count = 0 ∧
        t.frm.ticked = false ∧ t.fil = { down := s.fil.down } ∧ (t.set.cur = s.set.cur ∨ t.set.cur = {}) ∧ t.dev.fatal = false) ∧
      (∀ h, ∃ t, exec (.hubLoss h) s = .next t ∧ empty t ∧ t.perst = s.perst ∧ t.dev = { s.dev with ready := false, fatal := true } ∧
        t.mgt = { s.mgt with events := s.mgt.events ++ [0] } ∧ t.hmk.params = s.hmk.params ∧ t.halted = true ∧ t.fns = s.fns) ∧
      (∀ m, s.frm.standbyOk = true → ∃ u, exec (.schedTakeover true m i) s = .next u ∧ SameBut [.now, .frm, .fns, .errGlobal, .out] s u ∧
        u.now = max s.now m ∧ u.frm = { s.frm with schedH1 := true, standbyOk := false } ∧
        u.errGlobal = s.errGlobal.push 32768 ((s.at m).mkRec St.hstSchedTakeover 0 (agent 9 0x70) 0xFFFF 0 false) ∧
        exec (.schedTakeover false m i) s = exec (.frameTick m) u) ∧
      (∀ m b d, s.frm.standbyOk = false → exec (.schedTakeover b m i) s = exec (.cdieLoss d i) (s.at m)) ∧
      (s.frm.standbyOk = true → ∃ t, exec .schedStandbyLost s = .next t ∧ SameBut [.frm, .fns, .errGlobal, .out] s t ∧
        t.frm = { s.frm with standbyOk := false } ∧
        t.errGlobal = s.errGlobal.push 32768 (s.mkRec St.hstSchedStandbyLost 0 (agent 9 0x70) 0xFFFF 0 false)) ∧
      (s.frm.standbyOk = false → exec .schedStandbyLost s = .next s))

/-- PERST_N, FUNCTION_LEVEL_RESET, CONFIGURATION_REQUEST, NEGOTIATE, QUERY, RELEASE and MBOX_RESPONSE. Rests on R547, R548, R549, R561, R563, R564, R565, R566, Table 17-4, Table 17-5. -/
def Obligations.HostFunctionsAndMailbox : Prop :=
  ∀ (s : State),
    let fresh := fun (t : State) (f : Nat) => (t.fn f).abi = 0 ∧ (t.fn f).busMaster = false ∧ (t.fn f).msixEnable = false ∧ (t.fn f).msixMask = false ∧
      (t.fn f).unmasked = [] ∧ (t.fn f).pendingVecs = [] ∧ (t.fn f).winCLog = 0 ∧
      ∀ w, s.winFn w = some f → (t.win w).sqTail = 0 ∧ (t.win w).cqEntries = 0 ∧ (t.win w).replies = [] ∧ (t.win w).func = (s.win w).func
    (∀ h : Fin 2, exec (.perstN h false) s = .next { s with perst := sDel h.val s.perst } ∧
      (h.val ∈ s.perst → exec (.perstN h true) s = .next s) ∧
      (h.val ∉ s.perst → ∃ t, exec (.perstN h true) s = .next t ∧ SameBut [.fns, .wins, .halves, .perst, .errCnt] s t ∧ t.perst = sIns h.val s.perst ∧
        (∀ f, f / 33 = h.val → fresh t f) ∧ (∀ f, f / 33 ≠ h.val → t.fn f = s.fn f) ∧
        (∀ w, (∀ f, s.winFn w = some f → f / 33 ≠ h.val) → t.win w = s.win w))) ∧
    (∀ f : Fin 66,
      let x := s.fn f.val
      (s.clocksOff = false → (f.val % 33 = 0 → exec (.functionLevelReset f) s = .next s) ∧
        (f.val % 33 ≠ 0 → ∃ t, exec (.functionLevelReset f) s = .next t ∧ SameBut [.fns, .wins, .halves, .errCnt] s t ∧ fresh t f.val ∧
          (∀ g, g ≠ f.val → t.fn g = s.fn g) ∧ (∀ w, s.winFn w ≠ some f.val → t.win w = s.win w))) ∧
      (∀ op, f.val / 33 ∈ s.perst ∨ s.hmk.stage = 0 → exec (.configurationRequest f op) s = .next s) ∧
      (∀ op, f.val / 33 ∉ s.perst → s.hmk.stage ≠ 0 →
        (s.hmk.bscanHold = true → exec (.configurationRequest f op) s = .next (s.emit (.completion f.val false false true))) ∧
        (s.hmk.bscanHold = false → ∃ t, exec (.configurationRequest f op) s = .next t ∧ SameBut [.fns, .wins, .errCnt, .out] s t ∧
          .completion f.val false false false ∈ t.out ∧
          (s.windowsOf f.val = [] → (t.fn f.val).abi = x.abi ∧ (t.fn f.val).mbox = x.mbox ∧
            (∀ b, op = .busMaster b → (t.fn f.val).busMaster = b) ∧ (∀ b, op = .msixEnable b → (t.fn f.val).msixEnable = b) ∧
            (∀ b, op = .functionMask b → (t.fn f.val).msixMask = b) ∧ (∀ l, op = .resizeWinC l → 30 ≤ l → l ≤ 40 → (t.fn f.val).winCLog = l) ∧
            (∀ v, op = .vectorMask v false → v < msixTable f.val → v ∈ (t.fn f.val).unmasked) ∧
            (∀ v, op = .vectorMask v true → v < msixTable f.val → v ∉ (t.fn f.val).unmasked)))) ∧
      (s.clocksOff = false →
        let lo := x.mbox.field 4 4
        let hi := x.mbox.field 8 4
        (s.mboxWaits f.val 1 = false → exec (.negotiate f) s = .next s) ∧ (s.mboxWaits f.val 2 = false → exec (.query f) s = .next s) ∧
        (s.mboxWaits f.val 3 = false → exec (.release f) s = .next s) ∧
        (s.mboxWaits f.val 1 = true → ∃ t r, exec (.negotiate f) s = .next t ∧ SameBut [.fns] s t ∧ (t.fn f.val).mbox = { x.mbox with next := some r } ∧
          (∀ v, s.chooseAbi lo hi = some v → (t.fn f.val).abi = v ∧ lo ≤ v ∧ v ≤ hi ∧ 0x01000000 ≤ v ∧ v ≤ 0x0103FFFF) ∧
          (s.chooseAbi lo hi = none → (t.fn f.val).abi = x.abi) ∧ (∀ g, g ≠ f.val → t.fn g = s.fn g)) ∧
        (s.mboxWaits f.val 2 = true → ∃ r, exec (.query f) s = .next { s with fns := mput s.fns f.val { x with mbox := { x.mbox with next := some r } } }) ∧
        (s.mboxWaits f.val 3 = true → ∃ t r, exec (.release f) s = .next t ∧ SameBut [.fns, .wins, .halves, .errCnt] s t ∧ (t.fn f.val).abi = 0 ∧
          (t.fn f.val).mbox = { x.mbox with next := some r } ∧ (t.fn f.val).busMaster = x.busMaster ∧
          ∀ w, s.winFn w = some f.val → (t.win w).sqTail = 0 ∧ (t.win w).replies = []) ∧
        (x.mbox.busy = false → exec (.mboxResponse f) s = .next s) ∧
        (x.mbox.busy = true → ∃ t, exec (.mboxResponse f) s = .next t ∧ SameBut [.fns, .wins, .halves, .errCnt, .out] s t ∧
          (t.fn f.val).mbox.busy = false ∧ (t.fn f.val).mbox.done = true ∧ (t.fn f.val).mbox.next = none ∧
          (∀ r, x.mbox.next = some r → (t.fn f.val).mbox.rsp = r ∧ SameBut [.fns, .out] s t ∧
            (x.mbox.irqEn = false → t.out = s.out) ∧ (x.mbox.irqEn = true → s.msixOpen f.val x.mbox.vec = true → t.out = s.out ++ [.msix f.val x.mbox.vec])))))

/-- WINC_READ, WINC_WRITE, HOST_CORE_ACCESS, REGISTER_READ and REGISTER_WRITE. Rests on R87, R92, R420, R429, R434, R552, R554, R557, R558, R567, R632, Table 17-2. -/
def Obligations.HostMemoryAndRegisterAccess : Prop :=
  ∀ (s : State),
    (s.clocksOff = false → ∀ (f : Fin 66) (off : Nat),
      let refuse := fun (w : WinC) => w = .ur ∨ w = .denied ∨ (∃ a, w = .unpopulated a) ∨ ∃ a, w = .reserved a
      (f.val / 33 ∈ s.perst → (∀ n, exec (.wincRead f off n) s = .next s) ∧ ∀ d p, exec (.wincWrite f off d p) s = .next s) ∧
      (f.val / 33 ∉ s.perst → ∀ n,
        (refuse (s.winC f.val off n false) → ∃ t, exec (.wincRead f off n) s = .next t ∧ SameBut [.fns, .errGlobal, .errCnt, .out] s t ∧
          .completion f.val true false false ∈ t.out) ∧
        (s.winC f.val off n false = .shut → ∃ t, exec (.wincRead f off n) s = .next t ∧ SameBut [.errCnt, .out] s t ∧
          t.out = s.out ++ [.readData (fnVia f.val) (List.replicate n 0) false]) ∧
        (∀ b o, s.winC f.val off n false = .scratch b o → exec (.wincRead f off n) s = .next { s with out := s.out ++
          [.readData (fnVia f.val) (((s.bead b).spRead o n).map (·.1)) ((s.bead b).spBad o n)] }) ∧
        (∀ a, s.winC f.val off n false = .mem a → (∀ x, a ≤ x → x < a + n → inReserve x = false) → ∃ t, exec (.wincRead f off n) s = .next t ∧
          SameBut [.freeCtr, .mem, .out] s t ∧ t.mem.ram = (s.memFlush a n).mem.ram ∧
          t.out = s.out ++ [.readData (fnVia f.val) ((span a n).map (s.memFlush a n).mem.ram.read) ((s.memFlush a n).mem.poisoned a n)])) ∧
      (f.val / 33 ∉ s.perst → ∀ (d : List Byte) (p : Bool),
        (refuse (s.winC f.val off d.length true) → ∃ t, exec (.wincWrite f off d p) s = .next t ∧ SameBut [.fns, .errGlobal, .errCnt, .out] s t) ∧
        (s.winC f.val off d.length true = .shut → ∃ t, exec (.wincWrite f off d p) s = .next t ∧ SameBut [.errCnt] s t) ∧
        (∀ b o, s.winC f.val off d.length true = .scratch b o → exec (.wincWrite f off d false) s = .next
          { s with beads := mput s.beads b ((s.bead b).spWrite o d) }) ∧
        (∀ a, s.winC f.val off d.length true = .mem a → ∃ t, exec (.wincWrite f off d p) s = .next t ∧ SameBut [.mem] s t ∧
          (∀ k, k < d.length → s.mem.retiredAt (a + k) = false → t.mem.ram.read (a + k) = d.getD k 0) ∧
          (∀ x, ¬ s.mem.touches a d.length x → t.mem.ram.read x = s.mem.ram.read x) ∧ (p = true → 0 < d.length → t.mem.poisoned a d.length = true)))) ∧
    (s.halted = false → ∀ (c : Fin 48) (addr : Nat) (op : CoreAcc),
      let i := Instr.hostCoreAccess c addr op
      let u := s.wake addr
      let g := addr / 64
      let n := accSize op
      let up := ¬ (s.notUp = true ∨ c.val ∈ s.ras.haltedCores)
      let plain := aliasAt addr = none ∧ ¬ (0x30000000000 ≤ addr ∧ addr < 0x30004000000) ∧ (scratchAt addr).any (fun p => decide (p.2 + n ≤ 0x600000)) = false
      let okay := up ∧ plain ∧ s.set.cur.linesOk addr n = true ∧ (accWrites op && anyReserve addr n) = false ∧ s.set.cur.linesIn (s.set.cur.coreUnits c.val) addr n = true
      (¬ up → exec i s = .next s) ∧
      (∀ w o, up → aliasAt addr = some (w, o) → (∀ k, op = .load k → exec i s = exec (.registerRead (.core c.val w) o k) s) ∧
        (∀ d, op = .store d → exec i s = exec (.registerWrite (.core c.val w) o d) s) ∧
        ((∀ k, op ≠ .load k) → (∀ d, op ≠ .store d) → exec i s = .next (s.emit (.coreFault c.val none)))) ∧
      (up → aliasAt addr = none → ¬ okay → ∃ t, exec i s = .next t ∧ SameBut [.fns, .errGlobal, .out] s t ∧ .coreFault c.val none ∈ t.out) ∧
      (∀ k, okay → op = .load k → 0 < k → addr % 64 + k ≤ 64 →
        (mfind s.mem.core g = none → s.mem.poisoned (g * 64) 64 = false → ∃ t, exec i s = .next t ∧ SameBut [.mem, .out] s t ∧ t.mem.ram = s.mem.ram ∧
          t.out = s.out ++ [.readData (.coreA c.val) (s.mem.ram.readN addr k) false]) ∧
        (mfind s.mem.core g = none → s.mem.poisoned (g * 64) 64 = true → ∃ t, exec i s = .next t ∧ SameBut [.mem, .out] s t ∧ t.mem.ram = s.mem.ram ∧
          t.out = s.out ++ [.coreFault c.val (some addr)]) ∧
        (∀ l, mfind s.mem.core g = some l → l.dirty = true → l.poison = false → exec i s =
          .next (u.emit (.readData (.coreA c.val) ((l.bytes.drop (addr % 64)).take k) false)))) ∧
      (okay → mfind s.mem.core g = none → (∀ d, op = .store d → d.length = 64 → addr % 64 = 0 →
          exec i s = .next { u with mem := { u.mem with core := mput (mput s.mem.core g ⟨s.mem.ram.readN (g * 64) 64, s.mem.poisoned (g * 64) 64, false⟩) g ⟨d, false, true⟩ } }) ∧
        (op = .cacheZero → ∃ t, exec i s = .next t ∧ SameBut [.mem] s t ∧ t.mem.ram = s.mem.ram ∧ mfind t.mem.core g = some ⟨List.replicate 64 0, false, true⟩) ∧
        (op = .cacheClean → exec i s = .next u)) ∧
      (∀ l, okay → op = .cacheClean → mfind s.mem.core g = some l → l.dirty = true → ∃ t, exec i s = .next t ∧ SameBut [.mem] s t ∧
        t.mem.ram = (s.memFlush (g * 64) 64).mem.ram ∧ mfind t.mem.core g = some { l with dirty := false }) ∧
      (okay → op = .cacheFlush → exec i s = .next (u.memFlush (g * 64) 64)) ∧
      (okay → op = .cacheInval → exec i s = .next { u with mem := { u.mem with core := mdel u.mem.core g } })) ∧
    (s.clocksOff = false → ∀ (v : Via) (o : Nat),
      let bad := fun (k : Bool) (c : Option Nat) => (s.countOpt c).answerBad v k
      (∀ n c, (s.gate v o false = .ur c → exec (.registerRead v o n) s = .next (bad false c)) ∧
        (s.gate v o false = .zero c → exec (.registerRead v o n) s = .next ((s.countOpt c).emit (.readData v (List.replicate n 0) false)))) ∧
      (∀ d c, (s.gate v o true = .ur c → exec (.registerWrite v o d) s = .next (bad false c)) ∧
        (s.gate v o true = .zero c → exec (.registerWrite v o d) s = .next (s.countOpt c))) ∧
      (∀ c, (s.gate v o false = .fault c → ∀ n, exec (.registerRead v o n) s = .next (s.emit (.coreFault c none))) ∧
        (s.gate v o true = .fault c → ∀ d, exec (.registerWrite v o d) s = .next (s.emit (.coreFault c none)))) ∧
      (∀ p, s.gate v o false = .ok p →
        (∀ n, wordsOk o n = false ∨ p.cuts o n = true → exec (.registerRead v o n) s = .next (bad true none)) ∧
        (o % 4 = 0 → p.pair o = none → p ≠ .a ∨ (o ≠ 0x90700 ∧ o ≠ 0xD0004) →
          exec (.registerRead v o 4) s = .next (s.emit (.readData v (leBytes 4 (s.rdReg p o % 2 ^ 32)) false))) ∧
        (o % 8 = 0 → p.pair o = some o → p ≠ .a ∨ o ≠ 0x90700 → ∃ t, exec (.registerRead v o 4) s = .next t ∧ SameBut [.halves, .out] s t ∧
          t.out = s.out ++ [.readData v (leBytes 4 (s.rdReg p o % 2 ^ 32)) false] ∧
          mfind (t.halvesOf v).captured (p.key o) = some (s.rdReg p o / 2 ^ 32 % 2 ^ 32)) ∧
        (∀ c, o % 8 = 4 → p.pair o = some (o - 4) → mfind (s.halvesOf v).captured (p.key (o - 4)) = some c → p ≠ .a ∨ o ≠ 0x90700 →
          ∃ t, exec (.registerRead v o 4) s = .next t ∧ SameBut [.halves, .out] s t ∧ t.out = s.out ++ [.readData v (leBytes 4 c) false])) ∧
      (∀ p d, s.gate v o true = .ok p →
        (wordsOk o d.length = false ∨ p.cuts o d.length = true → exec (.registerWrite v o d) s = .next (bad true none)) ∧
        (d.length = 4 → o % 4 = 0 → p.pair o = none →
          ((∀ f, viaFn v = some f → (s.fn f).abi ≠ 0 ∨ needsAbi p o (leNat d) = false) →
            exec (.registerWrite v o d) s = .next ((s.dropHeld v).wrReg v p o (leNat d))) ∧
          (∀ f, viaFn v = some f → (s.fn f).abi = 0 → needsAbi p o (leNat d) = true → exec (.registerWrite v o d) s = .next ((s.dropHeld v).count 9))) ∧
        (d.length = 4 → p.pair o = some o → isClpOp p o = false → ∃ t, exec (.registerWrite v o d) s = .next t ∧ SameBut [.halves] s t ∧
          (t.halvesOf v).held = some (p.key o, leNat d)) ∧
        (∀ y, d.length = 4 → o % 8 = 4 → p.pair o = some (o - 4) → isClpOp p (o - 4) = false → (s.halvesOf v).held = some (p.key (o - 4), y) →
          exec (.registerWrite v o d) s = .next ((s.dropHeld v).put v p (o - 4) (y + leNat d * 2 ^ 32)))))

/-- MCTP_PACKET, SMB_CLK_TIMEOUT, SENSOR_REFRESH, SMBUS_ALERT_RESPONSE, the SPDM requests, UART_RX_FRAME and UART_REARM. Rests on R568, R569, R570, R571, R572, R600, Table 17-6, Table 18-8. -/
def Obligations.ManagementPortRowsAct : Prop :=
  ∀ (s : State), s.clocksOff = false →
    (∀ (bind : Fin 3) (pec : Bool) (m : MctpMsg),
      let i := Instr.mctpPacket bind pec m
      let reply := fun (x : MgtState) (body : List Nat) =>
        ({ s with mgt := if bind.val = 0 then { x with smbBusy := true } else x, out := s.out ++ [.mctp bind.val body] } : State)
      let up := s.mgmtUp = true ∧ (bind.val = 0 → pec = true) ∧ (bind.val ≠ 0 → bind.val - 1 ∉ s.perst)
      (s.mgmtUp = false → exec i s = .next s) ∧ (bind.val ≠ 0 → bind.val - 1 ∈ s.perst → exec i s = .next s) ∧
      (s.mgmtUp = true → bind.val = 0 → pec = false → exec i s =
        .next { s with mgt := { s.mgt with smbErr := (s.mgt.smbErr + 1) % 2 ^ 64, smbBusy := false } }) ∧
      (up → (∀ e, m = .setEid e → exec i s = .next (if 8 ≤ e ∧ e < 255 then reply { s.mgt with eids := mput s.mgt.eids bind.val e } [0, e] else reply s.mgt [2])) ∧
        (∀ k, m = .sensorRead k → exec i s = .next (reply s.mgt (if 1 ≤ k ∧ k ≤ 38 then [0, mget s.mgt.readings k 0] else [0x80]))) ∧
        (m = .pollEvent → s.mgt.events = [] → exec i s = .next (reply s.mgt [0])) ∧
        (∀ e es, m = .pollEvent → s.mgt.events = e :: es → exec i s = .next (reply { s.mgt with events := es } [0, e])) ∧
        (m = .pldmBase → exec i s = .next (reply s.mgt [0, 0, 2, 5])) ∧
        (∀ y, m = .other y → (y = 0 ∨ y = 1 → exec i s = .next (reply s.mgt [5])) ∧ (5 < y → exec i s = .next s)))) ∧
    exec .smbClkTimeout s = .next { s with mgt := { s.mgt with smbBusy := false } } ∧
    (∀ r : SensorIn, ∃ t, exec (.sensorRefresh r) s = .next t ∧ SameBut [.pwr, .mgt] s t ∧
      t.pwr = { s.pwr with temps := t.pwr.temps, currents := t.pwr.currents } ∧
      (∀ k, k < 26 → k < r.temps.length → mget t.pwr.temps k 0 = r.temps.getD k 0) ∧
      (∀ k, k < 8 → k < r.currents.length → mget t.pwr.currents k 0 = r.currents.getD k 0) ∧
      (∀ k, 1 ≤ k → k ≤ 38 → mget t.mgt.readings k 0 = t.sensorNow k) ∧
      t.mgt.events = s.mgt.events ++ (span 1 26).filter (fun k => warm k (t.pwr.temp (k - 1)) != s.mgt.warned.contains k)) ∧
    (s.mgt.events = [] → exec .smbusAlertResponse s = .next s) ∧
    (s.mgt.events ≠ [] → exec .smbusAlertResponse s = .next { s with out := s.out ++ [.alertResponse s.smbAddr] }) ∧
    (∀ (tr : Fin 3) (r : SpdmReq),
      let c := s.conn tr.val
      let up := s.mgmtUp = true ∧ (tr.val ≠ 0 → tr.val - 1 ∉ s.perst)
      let err := fun (e : Nat) => ({ s with out := s.out ++ [.spdm tr.val [0x7F, e]] } : State)
      let sent := fun (h : HmkState) (d : SpdmConn) (code : Nat) (body : List Nat) =>
        let d' : SpdmConn := { d with transcript := d.transcript ++ spdmReq code r ++ body }
        ({ s with hmk := h, mgt := { s.mgt with spdm := mput s.mgt.spdm tr.val d' }, out := s.out ++ [.spdm tr.val body] } : State)
      let sends := fun (i : Instr) (h : HmkState) (d : SpdmConn) (code : Nat) (body : List Nat) => exec i s = .next (sent h d code body)
      let nonce := Config.random s.hmk.draws % 2 ^ 256
      let drawn : HmkState := { s.hmk with draws := s.hmk.draws + 1 }
      let signed := fun (code : Nat) (body : List Nat) => body ++ [Config.ecdsaSign (Config.sha384 ((c.transcript ++ spdmReq code r ++ body).flatMap (leBytes 64)))]
      (∀ i, i ∈ [Instr.getVersion tr r, .getCapabilities tr r, .negotiateAlgorithms tr r, .getDigests tr r, .getCertificate tr r, .challenge tr r, .getMeasurements tr r] →
        (¬ up → exec i s = .next s) ∧ (up → r.supported = false → exec i s = .next (err 7))) ∧
      (∀ i k, (i, k) ∈ [(Instr.negotiateAlgorithms tr r, c.caps), (.getDigests tr r, c.algs), (.getCertificate tr r, c.algs), (.challenge tr r, c.algs), (.getMeasurements tr r, c.algs)] →
        up → r.supported = true → (k = false → exec i s = .next (err 4)) ∧ (k = true → r.version ≠ c.version → exec i s = .next (err 0x41))) ∧
      (up → r.supported = true →
        sends (.getVersion tr r) s.hmk { version := 0x10 } 0x84 [4, 0x12, 0x13] ∧
        (c.version = 0 → exec (.getCapabilities tr r) s = .next (err 4)) ∧
        (c.version ≠ 0 → r.version ≠ 0x12 → r.version ≠ 0x13 → exec (.getCapabilities tr r) s = .next (err 0x41)) ∧
        (c.version ≠ 0 → r.version = 0x12 ∨ r.version = 0x13 → sends (.getCapabilities tr r) s.hmk { c with version := r.version, caps := true } 0xE1 [0x61, 22]) ∧
        (c.caps = true → r.version = c.version → sends (.negotiateAlgorithms tr r) s.hmk { c with algs := true } 0xE3 [0x63, 1, 0x80, 2]) ∧
        (c.algs = true → r.version = c.version →
          sends (.getDigests tr r) s.hmk c 0x81 [1, 1, chainDigest] ∧
          (r.slot ≠ 0 ∨ (Config.certChain hashLo).length ≤ r.offset → exec (.getCertificate tr r) s = .next (err 1)) ∧
          (r.slot = 0 → r.offset < (Config.certChain hashLo).length → ∃ part, part = ((Config.certChain hashLo).drop r.offset).take r.len ∧
            sends (.getCertificate tr r) s.hmk c 0x82
              ([2, 0, part.length, (Config.certChain hashLo).length - r.offset - part.length] ++ part.map BitVec.toNat)) ∧
          (r.slot ≠ 0 → exec (.challenge tr r) s = .next (err 1)) ∧
          (r.slot = 0 → sends (.challenge tr r) drawn c 0x83 (signed 0x83 [3, 0, chainDigest, nonce])) ∧
          (17 < r.index → r.index ≠ 0xFF → exec (.getMeasurements tr r) s = .next (err 1)) ∧
          (1 ≤ r.index → r.index ≤ 16 →
            let body := [0x60, r.index, r.index, (s.hmk.ms.toList.getD (r.index - 1) 0).toNat, nonce]
            sends (.getMeasurements tr r) drawn c 0xE0 (if r.sign = true then signed 0xE0 body else body)) ∧
          (∀ ms, s.measures r.index = some ms → ∃ t, exec (.getMeasurements tr r) s = .next t ∧ SameBut [.hmk, .mgt, .out] s t)))) ∧
    (∀ (start stop : Bool) (x : Byte),
      let i := Instr.uartRxFrame start stop x
      let put := fun (b : UartByte) => if 64 ≤ s.mgt.rx.length then { s.mgt with overrun := true } else { s.mgt with rx := s.mgt.rx ++ [b] }
      (s.mgt.rxWait = true ∨ start = true → exec i s = .next s) ∧
      (s.mgt.rxWait = false → start = false → stop = true → exec i s = .next { s with mgt := put ⟨x, false, false⟩ }) ∧
      (s.mgt.rxWait = false → start = false → stop = false → exec i s = .next { s with mgt := { put ⟨x, true, x == 0⟩ with rxWait := true } })) ∧
    exec .uartRearm s = .next { s with mgt := { s.mgt with rxWait := false } }

/-- The JTAG instructions and TRST_N, in every state of the device. Rests on R574, R575, R576, Table 17-8. -/
def Obligations.JtagRowsAct : Prop :=
  ∀ (tap : Fin 10) (dr : Nat) (s : State),
    let ir := fun (k : Nat) => ({ s with jtag := { s.jtag with ir := s.jtag.ir.set tap.val k } } : State)
    let tdo := fun (u : State) (v : Nat) => ({ u with out := u.out ++ [.tdo tap.val v] } : State)
    let scan := fun (k : Nat) (i : Instr) => ∃ v, exec i s = .next { tdo (ir k) v with
      freeCtr := s.freeCtr + 1, jtag := { (ir k).jtag with boundary := mput s.jtag.boundary tap.val dr } }
    let blocked := fun (k : Nat) => tdo { ir k with jtag := { (ir k).jtag with blocked := s.jtag.blocked + 1 } } (2 * dr)
    exec (.idcode tap dr) s = .next (tdo (ir 1) (idcodeOf tap.val)) ∧ (idcodeOf tap.val % 2 = 1 ∧
      idcodeOf tap.val / 2 ^ 12 % 2 ^ 16 = if tap.val = 0 ∨ tap.val = 9 then 0x5201 else 0x5202) ∧
    scan 2 (.samplePreload tap dr) ∧ exec (.bypass tap dr) s = .next (tdo (ir 0xFF) (2 * dr)) ∧
    exec .trstN s = .next { s with jtag := { s.jtag with ir := Vector.replicate 10 1 } } ∧
    (s.hmk.bscanHold = true → scan 3 (.extest tap dr) ∧ scan 6 (.extestPulse tap dr) ∧ scan 7 (.extestTrain tap dr) ∧
      exec (.clamp tap dr) s = .next (tdo (ir 4) (2 * dr)) ∧ exec (.highz tap dr) s = .next (tdo (ir 5) (2 * dr))) ∧
    (s.hmk.bscanHold = false → exec (.extest tap dr) s = .next (blocked 3) ∧ exec (.clamp tap dr) s = .next (blocked 4) ∧
      exec (.highz tap dr) s = .next (blocked 5) ∧ exec (.extestPulse tap dr) s = .next (blocked 6) ∧ exec (.extestTrain tap dr) s = .next (blocked 7)) ∧
    (s.dev.debugUnlocked = false → (bit dr 90 = true → exec (.dbgAccess tap dr) s = .next (ir 0x20)) ∧
      (bit dr 90 = false → exec (.dbgAccess tap dr) s = .next { ir 0x20 with out := s.out ++ [.readData .jtag (List.replicate (if bit dr 91 = true then 8 else 4) 0) false] })) ∧
    (s.dev.debugUnlocked = true → s.clocksOff = false → let o := bits dr 89 64
      (bit dr 90 = true → exec (.dbgAccess tap dr) s = exec (.registerWrite .jtag o (leBytes (if bit dr 91 = true then 8 else 4) (bits dr 63 0))) (ir 0x20)) ∧
      (bit dr 90 = false → exec (.dbgAccess tap dr) s = exec (.registerRead .jtag o (if bit dr 91 = true then 8 else 4)) (ir 0x20)) ∧
      (∀ b, s.gate .jtag o b = s.gateA o))

/-- A 4 KiB granule of a stack lies on one pseudo-channel, and a 2 MiB page has 8 granules on each of the 64. States R414. -/
def Obligations.PageSpansPseudoChannels : Prop :=
  (∀ o : Nat, let g := o / 4096
    pcOf o = (g % 64) ^^^ (g / 64 % 64) ^^^ (g / 4096 % 64) ∧ pcOf o < 64) ∧
  (∀ o q : Nat, o / 4096 = q / 4096 ∨ o / 64 = q / 64 → pcOf o = pcOf q) ∧
  ∀ p c : Nat, c < 64 → ((List.range 512).filter (fun i => pcOf (p * 2 ^ 21 + i * 4096) == c)).length = 8

/-- When two HELLOs cross, the one of the lower PKG_ID stands and the other side withdraws its own and answers HELLO_ACK. States R513. -/
def Obligations.CrossedHelloOfLowerPackageStands : Prop :=
  ∀ (path : Fin 32) (g : Segment) (h : HelloBody) (s : State) (x : Peer), s.halted = false → s.peer? g.src = some x →
    x.helloSent = true → x.connected = false → g.src ≠ s.set.cur.netPkg.pkgId →
    let u := s.takeSeg path.val g
    (s.set.cur.netPkg.pkgId < g.src → exec (.hello path g h) s = .next u ∧ u.peer? g.src = some x) ∧
    (g.src < s.set.cur.netPkg.pkgId → max s.tRange.1 h.verMin ≤ min s.tRange.2 h.verMax →
      ∃ t y r, exec (.hello path g h) s = .next t ∧ t.peer? g.src = some y ∧ y.connected = true ∧ y.helloSent = false ∧
        .segment path.val r ∈ t.out ∧ r.type = 3 ∧ r.dst = g.src ∧
        ∀ (p' : Fin 32) (g' : Segment) (h' : HelloBody), g'.src = g.src → exec (.helloAck p' g' h') t = .next (t.takeSeg p'.val g'))
end

