-- ==== Sys2Proof/Laws/Memory.lean ====
section
/-! SUPPORT. The laws of byte memories: every operation keeps the canonical form, a read after a write
gives what was written, and a write leaves every other byte alone. -/

namespace Sys2Proof.Machine

/-! ## Lists of cells -/

theorem cellGet_put_same (l : List Host.Cell) (k : Nat) (v : Byte) : cellGet (cellPut l k v) k = some v := by
  induction l with
  | nil => simp [cellPut, cellGet]
  | cons c t ih =>
    obtain ⟨a, w⟩ := c
    by_cases h1 : k < a
    · simp [cellPut, cellGet, h1]
    · by_cases h2 : k = a
      · simp [cellPut, cellGet, h2]
      · simp [cellPut, cellGet, h1, h2, ih, Ne.symm h2]

theorem cellGet_put_other (l : List Host.Cell) (k j : Nat) (v : Byte) (h : j ≠ k) :
    cellGet (cellPut l k v) j = cellGet l j := by
  induction l with
  | nil => simp [cellPut, cellGet, Ne.symm h]
  | cons c t ih =>
    obtain ⟨a, w⟩ := c
    by_cases h1 : k < a
    · simp [cellPut, cellGet, h1, Ne.symm h]
    · by_cases h2 : k = a
      · subst h2; simp [cellPut, cellGet, Ne.symm h]
      · simp only [cellPut, h1, h2, if_false, cellGet]
        split
        · rfl
        · exact ih

theorem cellGet_del_same (l : List Host.Cell) (k : Nat) : cellGet (cellDel l k) k = none := by
  induction l with
  | nil => rfl
  | cons c t ih =>
    obtain ⟨a, w⟩ := c
    simp only [cellDel, ne_eq, decide_not] at ih ⊢
    by_cases h : a = k
    · simp [h, ih]
    · simp [h, cellGet, ih]

theorem cellGet_del_other (l : List Host.Cell) (k j : Nat) (h : j ≠ k) :
    cellGet (cellDel l k) j = cellGet l j := by
  induction l with
  | nil => rfl
  | cons c t ih =>
    obtain ⟨a, w⟩ := c
    simp only [cellDel, ne_eq, decide_not] at ih ⊢
    by_cases hk : a = k
    · subst hk; simp [cellGet, Ne.symm h, ih]
    · simp [hk, cellGet, ih]

/-! ## Rising keys -/

/-- Every key of a list is above a bound. -/
def cellsAbove (b : Nat) (l : List Host.Cell) : Prop := ∀ c ∈ l, b < c.1

theorem cellsRise_cons {c : Host.Cell} {l : List Host.Cell} :
    cellsRise (c :: l) = true ↔ cellsAbove c.1 l ∧ cellsRise l = true := by
  induction l generalizing c with
  | nil => simp [cellsRise, cellsAbove]
  | cons d t ih =>
    obtain ⟨a, v⟩ := c
    obtain ⟨b, w⟩ := d
    simp only [cellsRise, Bool.and_eq_true, decide_eq_true_eq]
    constructor
    · rintro ⟨h1, h2⟩
      refine ⟨?_, h2⟩
      intro e he
      rcases List.mem_cons.1 he with rfl | he
      · exact h1
      · exact Nat.lt_trans h1 ((ih.1 h2).1 e he)
    · rintro ⟨h1, h2⟩
      exact ⟨h1 (b, w) (by simp), h2⟩

theorem cellsAbove_put {b : Nat} {l : List Host.Cell} {k : Nat} {v : Byte} (hl : cellsAbove b l) (hk : b < k) :
    cellsAbove b (cellPut l k v) := by
  induction l with
  | nil => intro c hc; simp [cellPut] at hc; subst hc; exact hk
  | cons d t ih =>
    obtain ⟨a, w⟩ := d
    have hd : b < a := hl (a, w) (by simp)
    have ht : cellsAbove b t := fun e he => hl e (List.mem_cons_of_mem _ he)
    unfold cellPut
    split
    · intro c hc
      rcases List.mem_cons.1 hc with rfl | hc
      · exact hk
      · exact hl c hc
    · split
      · intro c hc
        rcases List.mem_cons.1 hc with rfl | hc
        · exact hk
        · exact ht c hc
      · intro c hc
        rcases List.mem_cons.1 hc with rfl | hc
        · exact hd
        · exact ih ht c hc

theorem cellsRise_put {l : List Host.Cell} {k : Nat} {v : Byte} (h : cellsRise l = true) :
    cellsRise (cellPut l k v) = true := by
  induction l with
  | nil => rfl
  | cons d t ih =>
    obtain ⟨a, w⟩ := d
    have hd := (cellsRise_cons.1 h).1
    have ht := (cellsRise_cons.1 h).2
    unfold cellPut
    split
    · rename_i hk
      refine cellsRise_cons.2 ⟨?_, h⟩
      intro c hc
      rcases List.mem_cons.1 hc with rfl | hc
      · exact hk
      · exact Nat.lt_trans hk (hd c hc)
    · split
      · rename_i hk; subst hk
        exact cellsRise_cons.2 ⟨hd, ht⟩
      · refine cellsRise_cons.2 ⟨cellsAbove_put hd (by simp only; omega), ih ht⟩

theorem cellsRise_filter {l : List Host.Cell} (p : Host.Cell → Bool) (h : cellsRise l = true) :
    cellsRise (l.filter p) = true := by
  induction l with
  | nil => rfl
  | cons d t ih =>
    have hd := (cellsRise_cons.1 h).1
    have ht := (cellsRise_cons.1 h).2
    by_cases hp : p d = true
    · rw [List.filter_cons_of_pos hp]
      exact cellsRise_cons.2 ⟨fun c hc => hd c (List.mem_filter.1 hc).1, ih ht⟩
    · rw [List.filter_cons_of_neg hp]; exact ih ht

theorem mem_cellPut {l : List Host.Cell} {k : Nat} {v : Byte} {c : Host.Cell} (h : c ∈ cellPut l k v) :
    c = (k, v) ∨ (c ∈ l ∧ (cellsRise l = true → c.1 ≠ k)) := by
  induction l with
  | nil => simp [cellPut] at h; exact .inl h
  | cons d t ih =>
    obtain ⟨a, w⟩ := d
    unfold cellPut at h
    split at h
    · rename_i hk
      rcases List.mem_cons.1 h with rfl | h
      · exact .inl rfl
      · refine .inr ⟨h, fun hr he => ?_⟩
        have := (cellsRise_cons.1 hr).1
        rcases List.mem_cons.1 h with rfl | h
        · simp only at he; omega
        · have := this c h; simp only at this; omega
    · split at h
      · rename_i hk; subst hk
        rcases List.mem_cons.1 h with rfl | h
        · exact .inl rfl
        · refine .inr ⟨List.mem_cons_of_mem _ h, fun hr he => ?_⟩
          have := (cellsRise_cons.1 hr).1 c h
          simp only at this; omega
      · rename_i h1 h2
        rcases List.mem_cons.1 h with rfl | h
        · exact .inr ⟨by simp, fun _ he => h2 he.symm⟩
        · rcases ih h with rfl | ⟨h, hn⟩
          · exact .inl rfl
          · exact .inr ⟨List.mem_cons_of_mem _ h, fun hr => hn (cellsRise_cons.1 hr).2⟩

/-! ## The canonical form -/

theorem Bytes.wf_iff {m : Bytes} : m.wf = true ↔ cellsRise m.cells = true ∧ ∀ c ∈ m.cells, c.2 ≠ m.dflt c.1 := by
  simp [Bytes.wf, List.all_eq_true]

@[simp] theorem Bytes.wf_empty : ({} : Bytes).wf = true := rfl

theorem Bytes.wf_write {m : Bytes} (a : Nat) (v : Byte) (h : m.wf = true) : (m.write a v).wf = true := by
  obtain ⟨hr, hc⟩ := Bytes.wf_iff.1 h
  unfold Bytes.write
  split
  · refine Bytes.wf_iff.2 ⟨cellsRise_filter _ hr, fun c hm => ?_⟩
    exact hc c (List.mem_filter.1 hm).1
  · rename_i hv
    refine Bytes.wf_iff.2 ⟨cellsRise_put hr, fun c hm => ?_⟩
    rcases mem_cellPut hm with rfl | ⟨hm, _⟩
    · exact hv
    · exact hc c hm

theorem Bytes.wf_writeL {m : Bytes} (a : Nat) (bs : List Byte) (h : m.wf = true) : (m.writeL a bs).wf = true := by
  induction bs generalizing m a with
  | nil => exact h
  | cons v t ih => exact ih (a + 1) (Bytes.wf_write a v h)

theorem Bytes.dflt_other {cs : List Host.Cell} {l : List (Nat × Nat × Nat)} {a n e k : Nat}
    (h : ¬ (a ≤ k ∧ k < a + n)) : Bytes.dflt ⟨cs, (a, n, e) :: l⟩ k = Bytes.dflt ⟨cs, l⟩ k := by
  simp only [Bytes.dflt, List.find?_cons]
  have : (decide (a ≤ k) && decide (k < a + n)) = false := by simpa using h
  rw [this]

theorem Bytes.wf_carve {m : Bytes} (a n e : Nat) (h : m.wf = true) :
    Bytes.wf { cells := m.cells.filter (fun c => !(decide (a ≤ c.1) && decide (c.1 < a + n))), undef := (a, n, e) :: m.undef } = true := by
  obtain ⟨hr, hc⟩ := Bytes.wf_iff.1 h
  refine Bytes.wf_iff.2 ⟨cellsRise_filter _ hr, fun c hm => ?_⟩
  obtain ⟨hm, hp⟩ := List.mem_filter.1 hm
  rw [Bytes.dflt_other (by simp at hp; omega)]
  exact hc c hm

theorem Bytes.wf_undefine {m : Bytes} (a n e : Nat) (h : m.wf = true) : (m.undefine a n e).wf = true :=
  Bytes.wf_carve a n (e + 1) h

theorem Bytes.wf_zeroFill {m : Bytes} (a n : Nat) (h : m.wf = true) : (m.zeroFill a n).wf = true :=
  Bytes.wf_carve a n 0 h

/-! ## Reads after writes -/

theorem Bytes.dflt_cells (cs ds : List Host.Cell) (u : List (Nat × Nat × Nat)) (a : Nat) :
    Bytes.dflt ⟨cs, u⟩ a = Bytes.dflt ⟨ds, u⟩ a := rfl

theorem Bytes.read_write_same (m : Bytes) (a : Nat) (v : Byte) : (m.write a v).read a = v := by
  unfold Bytes.write Bytes.read
  split
  · rename_i h
    simp only [cellGet_del_same, Option.getD_none]
    exact h.symm
  · simp only [cellGet_put_same, Option.getD_some]

theorem Bytes.read_write_other (m : Bytes) (a b : Nat) (v : Byte) (h : b ≠ a) : (m.write a v).read b = m.read b := by
  unfold Bytes.write Bytes.read
  split
  · simp only [cellGet_del_other _ _ _ h]; rfl
  · simp only [cellGet_put_other _ _ _ _ h]; rfl

theorem Bytes.read_writeL_other (m : Bytes) (a b : Nat) (bs : List Byte) (h : b < a ∨ a + bs.length ≤ b) :
    (m.writeL a bs).read b = m.read b := by
  induction bs generalizing m a with
  | nil => rfl
  | cons v t ih =>
    simp only [List.length_cons] at h
    rw [Bytes.writeL, ih _ _ (by omega), Bytes.read_write_other _ _ _ _ (by omega)]

theorem Bytes.read_writeL_at (m : Bytes) (a i : Nat) (bs : List Byte) (h : i < bs.length) :
    (m.writeL a bs).read (a + i) = bs[i] := by
  induction bs generalizing m a i with
  | nil => simp at h
  | cons v t ih =>
    cases i with
    | zero =>
      rw [Bytes.writeL, Nat.add_zero, Bytes.read_writeL_other _ _ _ _ (by omega)]
      exact Bytes.read_write_same m a v
    | succ i =>
      have := ih (m.write a v) (a + 1) i (by simpa using h)
      rw [Bytes.writeL, show a + (i + 1) = a + 1 + i by omega, this]
      rfl

theorem Bytes.readN_writeL (m : Bytes) (a : Nat) (bs : List Byte) : (m.writeL a bs).readN a bs.length = bs := by
  apply List.ext_getElem
  · simp [Bytes.readN, span]
  · intro i h1 h2
    simp only [Bytes.readN, span, List.getElem_map, List.getElem_range]
    exact Bytes.read_writeL_at m a i bs h2

end Sys2Proof.Machine
end

