-- ==== Sys2Proof/Laws/Kept.lean ====
section
/-! SUPPORT. What an operation may touch: `Kept m s t` says that `t` comes from `s` by changes to the fields of
`State` whose bits are set in `m` alone, with the queue of commands as it was, nothing sent taken back, the free
values drawn in order, and every memory kept in canonical form. The masks are the field's places in `State`. -/

namespace Sys2Proof.Machine

/-- A state without the fields whose bits are set in `m`, and without its queue. -/
def State.blot (m : Nat) (s : State) : State where
  now := cond (m.testBit 0) 0 s.now
  freeCtr := cond (m.testBit 1) 0 s.freeCtr
  dev := cond (m.testBit 2) {} s.dev
  set := cond (m.testBit 3) {} s.set
  frm := cond (m.testBit 4) {} s.frm
  beads := cond (m.testBit 5) [] s.beads
  units := cond (m.testBit 6) [] s.units
  merges := cond (m.testBit 7) [] s.merges
  mtWait := cond (m.testBit 8) [] s.mtWait
  colls := cond (m.testBit 9) [] s.colls
  early := cond (m.testBit 10) [] s.early
  clasps := cond (m.testBit 11) [] s.clasps
  claspSnap := cond (m.testBit 12) [] s.claspSnap
  stalledOps := cond (m.testBit 13) [] s.stalledOps
  sessions := cond (m.testBit 14) [] s.sessions
  quota := cond (m.testBit 15) [] s.quota
  sesReserved := cond (m.testBit 16) [] s.sesReserved
  mem := cond (m.testBit 17) {} s.mem
  bpm := cond (m.testBit 18) {} s.bpm
  fil := cond (m.testBit 19) {} s.fil
  net := cond (m.testBit 20) {} s.net
  fns := cond (m.testBit 21) [] s.fns
  wins := cond (m.testBit 22) [] s.wins
  halves := cond (m.testBit 23) [] s.halves
  perst := cond (m.testBit 24) [] s.perst
  hmk := cond (m.testBit 25) {} s.hmk
  pwr := cond (m.testBit 26) {} s.pwr
  mgt := cond (m.testBit 27) {} s.mgt
  jtag := cond (m.testBit 28) {} s.jtag
  ras := cond (m.testBit 29) {} s.ras
  errGlobal := cond (m.testBit 30) {} s.errGlobal
  errUnit := cond (m.testBit 31) [] s.errUnit
  errCnt := cond (m.testBit 32) [] s.errCnt
  filFi := cond (m.testBit 33) [] s.filFi
  netFi := cond (m.testBit 34) [] s.netFi
  sel := cond (m.testBit 35) {} s.sel
  serial := cond (m.testBit 36) 0 s.serial
  out := cond (m.testBit 37) [] s.out
  pending := []

/-- `t` comes from `s` by changes to the fields of `m` alone. -/
def Kept (m : Nat) (s t : State) : Prop :=
  t.blot m = s.blot m ∧ t.pending = s.pending ∧ s.out <+: t.out ∧ s.freeCtr ≤ t.freeCtr ∧ (s.canonical = true → t.canonical = true)

theorem Kept.refl (m : Nat) (s : State) : Kept m s s := ⟨rfl, rfl, List.prefix_rfl, Nat.le_refl _, id⟩

/-- A field whose bit is clear is as it was. -/
theorem Kept.now_eq {m : Nat} {s t : State} (h : Kept m s t) (hb : m.testBit 0 = false) : t.now = s.now := by
  have := congrArg State.now h.1; simpa [State.blot, hb] using this

/-- A field whose bit is clear is as it was. -/
theorem Kept.freeCtr_eq {m : Nat} {s t : State} (h : Kept m s t) (hb : m.testBit 1 = false) : t.freeCtr = s.freeCtr := by
  have := congrArg State.freeCtr h.1; simpa [State.blot, hb] using this

/-- A field whose bit is clear is as it was. -/
theorem Kept.dev_eq {m : Nat} {s t : State} (h : Kept m s t) (hb : m.testBit 2 = false) : t.dev = s.dev := by
  have := congrArg State.dev h.1; simpa [State.blot, hb] using this

/-- A field whose bit is clear is as it was. -/
theorem Kept.set_eq {m : Nat} {s t : State} (h : Kept m s t) (hb : m.testBit 3 = false) : t.set = s.set := by
  have := congrArg State.set h.1; simpa [State.blot, hb] using this

/-- A field whose bit is clear is as it was. -/
theorem Kept.frm_eq {m : Nat} {s t : State} (h : Kept m s t) (hb : m.testBit 4 = false) : t.frm = s.frm := by
  have := congrArg State.frm h.1; simpa [State.blot, hb] using this

/-- A field whose bit is clear is as it was. -/
theorem Kept.beads_eq {m : Nat} {s t : State} (h : Kept m s t) (hb : m.testBit 5 = false) : t.beads = s.beads := by
  have := congrArg State.beads h.1; simpa [State.blot, hb] using this

/-- A field whose bit is clear is as it was. -/
theorem Kept.units_eq {m : Nat} {s t : State} (h : Kept m s t) (hb : m.testBit 6 = false) : t.units = s.units := by
  have := congrArg State.units h.1; simpa [State.blot, hb] using this

/-- A field whose bit is clear is as it was. -/
theorem Kept.merges_eq {m : Nat} {s t : State} (h : Kept m s t) (hb : m.testBit 7 = false) : t.merges = s.merges := by
  have := congrArg State.merges h.1; simpa [State.blot, hb] using this

/-- A field whose bit is clear is as it was. -/
theorem Kept.mtWait_eq {m : Nat} {s t : State} (h : Kept m s t) (hb : m.testBit 8 = false) : t.mtWait = s.mtWait := by
  have := congrArg State.mtWait h.1; simpa [State.blot, hb] using this

/-- A field whose bit is clear is as it was. -/
theorem Kept.colls_eq {m : Nat} {s t : State} (h : Kept m s t) (hb : m.testBit 9 = false) : t.colls = s.colls := by
  have := congrArg State.colls h.1; simpa [State.blot, hb] using this

/-- A field whose bit is clear is as it was. -/
theorem Kept.early_eq {m : Nat} {s t : State} (h : Kept m s t) (hb : m.testBit 10 = false) : t.early = s.early := by
  have := congrArg State.early h.1; simpa [State.blot, hb] using this

/-- A field whose bit is clear is as it was. -/
theorem Kept.clasps_eq {m : Nat} {s t : State} (h : Kept m s t) (hb : m.testBit 11 = false) : t.clasps = s.clasps := by
  have := congrArg State.clasps h.1; simpa [State.blot, hb] using this

/-- A field whose bit is clear is as it was. -/
theorem Kept.claspSnap_eq {m : Nat} {s t : State} (h : Kept m s t) (hb : m.testBit 12 = false) : t.claspSnap = s.claspSnap := by
  have := congrArg State.claspSnap h.1; simpa [State.blot, hb] using this

/-- A field whose bit is clear is as it was. -/
theorem Kept.stalledOps_eq {m : Nat} {s t : State} (h : Kept m s t) (hb : m.testBit 13 = false) : t.stalledOps = s.stalledOps := by
  have := congrArg State.stalledOps h.1; simpa [State.blot, hb] using this

/-- A field whose bit is clear is as it was. -/
theorem Kept.sessions_eq {m : Nat} {s t : State} (h : Kept m s t) (hb : m.testBit 14 = false) : t.sessions = s.sessions := by
  have := congrArg State.sessions h.1; simpa [State.blot, hb] using this

/-- A field whose bit is clear is as it was. -/
theorem Kept.quota_eq {m : Nat} {s t : State} (h : Kept m s t) (hb : m.testBit 15 = false) : t.quota = s.quota := by
  have := congrArg State.quota h.1; simpa [State.blot, hb] using this

/-- A field whose bit is clear is as it was. -/
theorem Kept.sesReserved_eq {m : Nat} {s t : State} (h : Kept m s t) (hb : m.testBit 16 = false) : t.sesReserved = s.sesReserved := by
  have := congrArg State.sesReserved h.1; simpa [State.blot, hb] using this

/-- A field whose bit is clear is as it was. -/
theorem Kept.mem_eq {m : Nat} {s t : State} (h : Kept m s t) (hb : m.testBit 17 = false) : t.mem = s.mem := by
  have := congrArg State.mem h.1; simpa [State.blot, hb] using this

/-- A field whose bit is clear is as it was. -/
theorem Kept.bpm_eq {m : Nat} {s t : State} (h : Kept m s t) (hb : m.testBit 18 = false) : t.bpm = s.bpm := by
  have := congrArg State.bpm h.1; simpa [State.blot, hb] using this

/-- A field whose bit is clear is as it was. -/
theorem Kept.fil_eq {m : Nat} {s t : State} (h : Kept m s t) (hb : m.testBit 19 = false) : t.fil = s.fil := by
  have := congrArg State.fil h.1; simpa [State.blot, hb] using this

/-- A field whose bit is clear is as it was. -/
theorem Kept.net_eq {m : Nat} {s t : State} (h : Kept m s t) (hb : m.testBit 20 = false) : t.net = s.net := by
  have := congrArg State.net h.1; simpa [State.blot, hb] using this

/-- A field whose bit is clear is as it was. -/
theorem Kept.fns_eq {m : Nat} {s t : State} (h : Kept m s t) (hb : m.testBit 21 = false) : t.fns = s.fns := by
  have := congrArg State.fns h.1; simpa [State.blot, hb] using this

/-- A field whose bit is clear is as it was. -/
theorem Kept.wins_eq {m : Nat} {s t : State} (h : Kept m s t) (hb : m.testBit 22 = false) : t.wins = s.wins := by
  have := congrArg State.wins h.1; simpa [State.blot, hb] using this

/-- A field whose bit is clear is as it was. -/
theorem Kept.halves_eq {m : Nat} {s t : State} (h : Kept m s t) (hb : m.testBit 23 = false) : t.halves = s.halves := by
  have := congrArg State.halves h.1; simpa [State.blot, hb] using this

/-- A field whose bit is clear is as it was. -/
theorem Kept.perst_eq {m : Nat} {s t : State} (h : Kept m s t) (hb : m.testBit 24 = false) : t.perst = s.perst := by
  have := congrArg State.perst h.1; simpa [State.blot, hb] using this

/-- A field whose bit is clear is as it was. -/
theorem Kept.hmk_eq {m : Nat} {s t : State} (h : Kept m s t) (hb : m.testBit 25 = false) : t.hmk = s.hmk := by
  have := congrArg State.hmk h.1; simpa [State.blot, hb] using this

/-- A field whose bit is clear is as it was. -/
theorem Kept.pwr_eq {m : Nat} {s t : State} (h : Kept m s t) (hb : m.testBit 26 = false) : t.pwr = s.pwr := by
  have := congrArg State.pwr h.1; simpa [State.blot, hb] using this

/-- A field whose bit is clear is as it was. -/
theorem Kept.mgt_eq {m : Nat} {s t : State} (h : Kept m s t) (hb : m.testBit 27 = false) : t.mgt = s.mgt := by
  have := congrArg State.mgt h.1; simpa [State.blot, hb] using this

/-- A field whose bit is clear is as it was. -/
theorem Kept.jtag_eq {m : Nat} {s t : State} (h : Kept m s t) (hb : m.testBit 28 = false) : t.jtag = s.jtag := by
  have := congrArg State.jtag h.1; simpa [State.blot, hb] using this

/-- A field whose bit is clear is as it was. -/
theorem Kept.ras_eq {m : Nat} {s t : State} (h : Kept m s t) (hb : m.testBit 29 = false) : t.ras = s.ras := by
  have := congrArg State.ras h.1; simpa [State.blot, hb] using this

/-- A field whose bit is clear is as it was. -/
theorem Kept.errGlobal_eq {m : Nat} {s t : State} (h : Kept m s t) (hb : m.testBit 30 = false) : t.errGlobal = s.errGlobal := by
  have := congrArg State.errGlobal h.1; simpa [State.blot, hb] using this

/-- A field whose bit is clear is as it was. -/
theorem Kept.errUnit_eq {m : Nat} {s t : State} (h : Kept m s t) (hb : m.testBit 31 = false) : t.errUnit = s.errUnit := by
  have := congrArg State.errUnit h.1; simpa [State.blot, hb] using this

/-- A field whose bit is clear is as it was. -/
theorem Kept.errCnt_eq {m : Nat} {s t : State} (h : Kept m s t) (hb : m.testBit 32 = false) : t.errCnt = s.errCnt := by
  have := congrArg State.errCnt h.1; simpa [State.blot, hb] using this

/-- A field whose bit is clear is as it was. -/
theorem Kept.filFi_eq {m : Nat} {s t : State} (h : Kept m s t) (hb : m.testBit 33 = false) : t.filFi = s.filFi := by
  have := congrArg State.filFi h.1; simpa [State.blot, hb] using this

/-- A field whose bit is clear is as it was. -/
theorem Kept.netFi_eq {m : Nat} {s t : State} (h : Kept m s t) (hb : m.testBit 34 = false) : t.netFi = s.netFi := by
  have := congrArg State.netFi h.1; simpa [State.blot, hb] using this

/-- A field whose bit is clear is as it was. -/
theorem Kept.sel_eq {m : Nat} {s t : State} (h : Kept m s t) (hb : m.testBit 35 = false) : t.sel = s.sel := by
  have := congrArg State.sel h.1; simpa [State.blot, hb] using this

/-- A field whose bit is clear is as it was. -/
theorem Kept.serial_eq {m : Nat} {s t : State} (h : Kept m s t) (hb : m.testBit 36 = false) : t.serial = s.serial := by
  have := congrArg State.serial h.1; simpa [State.blot, hb] using this

/-- A field whose bit is clear is as it was. -/
theorem Kept.out_eq {m : Nat} {s t : State} (h : Kept m s t) (hb : m.testBit 37 = false) : t.out = s.out := by
  have := congrArg State.out h.1; simpa [State.blot, hb] using this

theorem State.blot_eq {m : Nat} {s t : State}
    (h0 : m.testBit 0 = true ∨ t.now = s.now)
    (h1 : m.testBit 1 = true ∨ t.freeCtr = s.freeCtr)
    (h2 : m.testBit 2 = true ∨ t.dev = s.dev)
    (h3 : m.testBit 3 = true ∨ t.set = s.set)
    (h4 : m.testBit 4 = true ∨ t.frm = s.frm)
    (h5 : m.testBit 5 = true ∨ t.beads = s.beads)
    (h6 : m.testBit 6 = true ∨ t.units = s.units)
    (h7 : m.testBit 7 = true ∨ t.merges = s.merges)
    (h8 : m.testBit 8 = true ∨ t.mtWait = s.mtWait)
    (h9 : m.testBit 9 = true ∨ t.colls = s.colls)
    (h10 : m.testBit 10 = true ∨ t.early = s.early)
    (h11 : m.testBit 11 = true ∨ t.clasps = s.clasps)
    (h12 : m.testBit 12 = true ∨ t.claspSnap = s.claspSnap)
    (h13 : m.testBit 13 = true ∨ t.stalledOps = s.stalledOps)
    (h14 : m.testBit 14 = true ∨ t.sessions = s.sessions)
    (h15 : m.testBit 15 = true ∨ t.quota = s.quota)
    (h16 : m.testBit 16 = true ∨ t.sesReserved = s.sesReserved)
    (h17 : m.testBit 17 = true ∨ t.mem = s.mem)
    (h18 : m.testBit 18 = true ∨ t.bpm = s.bpm)
    (h19 : m.testBit 19 = true ∨ t.fil = s.fil)
    (h20 : m.testBit 20 = true ∨ t.net = s.net)
    (h21 : m.testBit 21 = true ∨ t.fns = s.fns)
    (h22 : m.testBit 22 = true ∨ t.wins = s.wins)
    (h23 : m.testBit 23 = true ∨ t.halves = s.halves)
    (h24 : m.testBit 24 = true ∨ t.perst = s.perst)
    (h25 : m.testBit 25 = true ∨ t.hmk = s.hmk)
    (h26 : m.testBit 26 = true ∨ t.pwr = s.pwr)
    (h27 : m.testBit 27 = true ∨ t.mgt = s.mgt)
    (h28 : m.testBit 28 = true ∨ t.jtag = s.jtag)
    (h29 : m.testBit 29 = true ∨ t.ras = s.ras)
    (h30 : m.testBit 30 = true ∨ t.errGlobal = s.errGlobal)
    (h31 : m.testBit 31 = true ∨ t.errUnit = s.errUnit)
    (h32 : m.testBit 32 = true ∨ t.errCnt = s.errCnt)
    (h33 : m.testBit 33 = true ∨ t.filFi = s.filFi)
    (h34 : m.testBit 34 = true ∨ t.netFi = s.netFi)
    (h35 : m.testBit 35 = true ∨ t.sel = s.sel)
    (h36 : m.testBit 36 = true ∨ t.serial = s.serial)
    (h37 : m.testBit 37 = true ∨ t.out = s.out)
    : t.blot m = s.blot m := by
  unfold State.blot; congr 1
  · rcases h0 with h | h <;> simp [h]
  · rcases h1 with h | h <;> simp [h]
  · rcases h2 with h | h <;> simp [h]
  · rcases h3 with h | h <;> simp [h]
  · rcases h4 with h | h <;> simp [h]
  · rcases h5 with h | h <;> simp [h]
  · rcases h6 with h | h <;> simp [h]
  · rcases h7 with h | h <;> simp [h]
  · rcases h8 with h | h <;> simp [h]
  · rcases h9 with h | h <;> simp [h]
  · rcases h10 with h | h <;> simp [h]
  · rcases h11 with h | h <;> simp [h]
  · rcases h12 with h | h <;> simp [h]
  · rcases h13 with h | h <;> simp [h]
  · rcases h14 with h | h <;> simp [h]
  · rcases h15 with h | h <;> simp [h]
  · rcases h16 with h | h <;> simp [h]
  · rcases h17 with h | h <;> simp [h]
  · rcases h18 with h | h <;> simp [h]
  · rcases h19 with h | h <;> simp [h]
  · rcases h20 with h | h <;> simp [h]
  · rcases h21 with h | h <;> simp [h]
  · rcases h22 with h | h <;> simp [h]
  · rcases h23 with h | h <;> simp [h]
  · rcases h24 with h | h <;> simp [h]
  · rcases h25 with h | h <;> simp [h]
  · rcases h26 with h | h <;> simp [h]
  · rcases h27 with h | h <;> simp [h]
  · rcases h28 with h | h <;> simp [h]
  · rcases h29 with h | h <;> simp [h]
  · rcases h30 with h | h <;> simp [h]
  · rcases h31 with h | h <;> simp [h]
  · rcases h32 with h | h <;> simp [h]
  · rcases h33 with h | h <;> simp [h]
  · rcases h34 with h | h <;> simp [h]
  · rcases h35 with h | h <;> simp [h]
  · rcases h36 with h | h <;> simp [h]
  · rcases h37 with h | h <;> simp [h]

/-- Masks grow. -/
theorem Kept.mono {m m' : Nat} {s t : State} (h : Kept m' s t) (hm : m' ||| m = m) : Kept m s t := by
  have hb : ∀ i, m.testBit i = true ∨ m'.testBit i = false := by
    intro i
    cases h' : m'.testBit i with
    | false => exact .inr rfl
    | true => left; rw [← hm, Nat.testBit_or, h']; rfl
  refine ⟨State.blot_eq
    ((hb 0).imp_right h.now_eq)
    ((hb 1).imp_right h.freeCtr_eq)
    ((hb 2).imp_right h.dev_eq)
    ((hb 3).imp_right h.set_eq)
    ((hb 4).imp_right h.frm_eq)
    ((hb 5).imp_right h.beads_eq)
    ((hb 6).imp_right h.units_eq)
    ((hb 7).imp_right h.merges_eq)
    ((hb 8).imp_right h.mtWait_eq)
    ((hb 9).imp_right h.colls_eq)
    ((hb 10).imp_right h.early_eq)
    ((hb 11).imp_right h.clasps_eq)
    ((hb 12).imp_right h.claspSnap_eq)
    ((hb 13).imp_right h.stalledOps_eq)
    ((hb 14).imp_right h.sessions_eq)
    ((hb 15).imp_right h.quota_eq)
    ((hb 16).imp_right h.sesReserved_eq)
    ((hb 17).imp_right h.mem_eq)
    ((hb 18).imp_right h.bpm_eq)
    ((hb 19).imp_right h.fil_eq)
    ((hb 20).imp_right h.net_eq)
    ((hb 21).imp_right h.fns_eq)
    ((hb 22).imp_right h.wins_eq)
    ((hb 23).imp_right h.halves_eq)
    ((hb 24).imp_right h.perst_eq)
    ((hb 25).imp_right h.hmk_eq)
    ((hb 26).imp_right h.pwr_eq)
    ((hb 27).imp_right h.mgt_eq)
    ((hb 28).imp_right h.jtag_eq)
    ((hb 29).imp_right h.ras_eq)
    ((hb 30).imp_right h.errGlobal_eq)
    ((hb 31).imp_right h.errUnit_eq)
    ((hb 32).imp_right h.errCnt_eq)
    ((hb 33).imp_right h.filFi_eq)
    ((hb 34).imp_right h.netFi_eq)
    ((hb 35).imp_right h.sel_eq)
    ((hb 36).imp_right h.serial_eq)
    ((hb 37).imp_right h.out_eq)
    , h.2⟩

theorem Kept.trans {m : Nat} {s t u : State} (h : Kept m s t) (k : Kept m t u) : Kept m s u :=
  ⟨k.1.trans h.1, k.2.1.trans h.2.1, h.2.2.1.trans k.2.2.1, Nat.le_trans h.2.2.2.1 k.2.2.2.1, fun c => k.2.2.2.2 (h.2.2.2.2 c)⟩

/-- One more operation. -/
theorem Kept.of {m m' : Nat} {s t u : State} (k : Kept m' t u) (h : Kept m s t) (hm : m' ||| m = m := by decide) : Kept m s u :=
  h.trans (k.mono hm)

theorem Kept.step {m m' : Nat} {s t u : State} (k : Kept m' t u) : Kept m s t → m' ||| m = m → Kept m s u := fun h hm => k.of h hm

theorem Kept.ite {m : Nat} {c : Prop} [Decidable c] {s t u : State} (h : Kept m s t) (k : Kept m s u) :
    Kept m s (if c then t else u) := by split <;> assumption

theorem Kept.foldl {m : Nat} {α : Type} {f : State → α → State} {l : List α} {s t : State}
    (hf : ∀ u x, Kept m u (f u x)) (h : Kept m s t) : Kept m s (l.foldl f t) := by
  induction l generalizing t with
  | nil => exact h
  | cons a l ih => exact ih (h.trans (hf t a))

theorem Kept.foldl_fst {m : Nat} {α β : Type} {f : State × β → α → State × β} {l : List α} {s : State} {a : State × β}
    (hf : ∀ u x, Kept m u.1 (f u x).1) (h : Kept m s a.1) : Kept m s (l.foldl f a).1 := by
  induction l generalizing a with
  | nil => exact h
  | cons x l ih => exact ih (h.trans (hf a x))

/-- The state of a pair that an operation answers. -/
theorem Kept.fst_eq {m : Nat} {α : Type} {s t : State} {v : α} {p : State × α} (e : p = (t, v)) (h : Kept m s p.1) : Kept m s t := by
  subst e; exact h

theorem Kept.snd_eq {m : Nat} {α : Type} {s t : State} {v : α} {p : α × State} (e : p = (v, t)) (h : Kept m s p.2) : Kept m s t := by
  subst e; exact h

theorem Kept.fst_eq3 {m : Nat} {α β : Type} {s t : State} {v : α} {w : β} {p : State × α × β} (e : p = (t, v, w)) (h : Kept m s p.1) : Kept m s t := by
  subst e; exact h

theorem Kept.some_eq {m : Nat} {s t u : State} {o : Option State} (e : o = some t) (h : Kept m s (o.getD u)) : Kept m s t := by
  subst e; exact h

/-- Marks two states for comparison: `Differs.same` answers for a state and itself alone. -/
def Differs (_s _t : State) : Prop := True

theorem Differs.same (s : State) : Differs s s := trivial

theorem Differs.any (s t : State) : Differs s t := trivial

/-- A record update. -/
theorem Kept.mk {m : Nat} {s u : State}
    {a0 : Nat}
    {a1 : Nat}
    {a2 : DevStatus}
    {a3 : SetState}
    {a4 : FrmState}
    {a5 : SMap Bead}
    {a6 : SMap UnitSt}
    {a7 : List Merge}
    {a8 : List Nat}
    {a9 : List Coll}
    {a10 : List EarlyPart}
    {a11 : SMap Clasp}
    {a12 : SMap Nat}
    {a13 : List (ClaspAgent × Nat)}
    {a14 : SMap Session}
    {a15 : SMap Nat}
    {a16 : SMap Nat}
    {a17 : MemState}
    {a18 : BpmState}
    {a19 : FilState}
    {a20 : NetState}
    {a21 : SMap PcieFn}
    {a22 : SMap UserWin}
    {a23 : List Halves}
    {a24 : List Nat}
    {a25 : HmkState}
    {a26 : PwrState}
    {a27 : MgtState}
    {a28 : JtagState}
    {a29 : RasState}
    {a30 : ErrQueue}
    {a31 : SMap ErrQueue}
    {a32 : SMap Nat}
    {a33 : SMap Nat}
    {a34 : SMap Nat}
    {a35 : Sel}
    {a36 : Nat}
    {a37 : List Out}
    (h : Kept m s u)
    (_hd : Differs (State.mk a0 a1 a2 a3 a4 a5 a6 a7 a8 a9 a10 a11 a12 a13 a14 a15 a16 a17 a18 a19 a20 a21 a22 a23 a24 a25 a26 a27 a28 a29 a30 a31 a32 a33 a34 a35 a36 a37 u.pending) u := by (fail_if_success (with_reducible exact Differs.same _)); exact Differs.any _ _)
    (h0 : m.testBit 0 = true ∨ a0 = u.now := by first | with_unfolding_all exact Or.inl rfl | exact Or.inr rfl)
    (h1 : m.testBit 1 = true ∨ a1 = u.freeCtr := by first | with_unfolding_all exact Or.inl rfl | exact Or.inr rfl)
    (h2 : m.testBit 2 = true ∨ a2 = u.dev := by first | with_unfolding_all exact Or.inl rfl | exact Or.inr rfl)
    (h3 : m.testBit 3 = true ∨ a3 = u.set := by first | with_unfolding_all exact Or.inl rfl | exact Or.inr rfl)
    (h4 : m.testBit 4 = true ∨ a4 = u.frm := by first | with_unfolding_all exact Or.inl rfl | exact Or.inr rfl)
    (h5 : m.testBit 5 = true ∨ a5 = u.beads := by first | with_unfolding_all exact Or.inl rfl | exact Or.inr rfl)
    (h6 : m.testBit 6 = true ∨ a6 = u.units := by first | with_unfolding_all exact Or.inl rfl | exact Or.inr rfl)
    (h7 : m.testBit 7 = true ∨ a7 = u.merges := by first | with_unfolding_all exact Or.inl rfl | exact Or.inr rfl)
    (h8 : m.testBit 8 = true ∨ a8 = u.mtWait := by first | with_unfolding_all exact Or.inl rfl | exact Or.inr rfl)
    (h9 : m.testBit 9 = true ∨ a9 = u.colls := by first | with_unfolding_all exact Or.inl rfl | exact Or.inr rfl)
    (h10 : m.testBit 10 = true ∨ a10 = u.early := by first | with_unfolding_all exact Or.inl rfl | exact Or.inr rfl)
    (h11 : m.testBit 11 = true ∨ a11 = u.clasps := by first | with_unfolding_all exact Or.inl rfl | exact Or.inr rfl)
    (h12 : m.testBit 12 = true ∨ a12 = u.claspSnap := by first | with_unfolding_all exact Or.inl rfl | exact Or.inr rfl)
    (h13 : m.testBit 13 = true ∨ a13 = u.stalledOps := by first | with_unfolding_all exact Or.inl rfl | exact Or.inr rfl)
    (h14 : m.testBit 14 = true ∨ a14 = u.sessions := by first | with_unfolding_all exact Or.inl rfl | exact Or.inr rfl)
    (h15 : m.testBit 15 = true ∨ a15 = u.quota := by first | with_unfolding_all exact Or.inl rfl | exact Or.inr rfl)
    (h16 : m.testBit 16 = true ∨ a16 = u.sesReserved := by first | with_unfolding_all exact Or.inl rfl | exact Or.inr rfl)
    (h17 : m.testBit 17 = true ∨ a17 = u.mem := by first | with_unfolding_all exact Or.inl rfl | exact Or.inr rfl)
    (h18 : m.testBit 18 = true ∨ a18 = u.bpm := by first | with_unfolding_all exact Or.inl rfl | exact Or.inr rfl)
    (h19 : m.testBit 19 = true ∨ a19 = u.fil := by first | with_unfolding_all exact Or.inl rfl | exact Or.inr rfl)
    (h20 : m.testBit 20 = true ∨ a20 = u.net := by first | with_unfolding_all exact Or.inl rfl | exact Or.inr rfl)
    (h21 : m.testBit 21 = true ∨ a21 = u.fns := by first | with_unfolding_all exact Or.inl rfl | exact Or.inr rfl)
    (h22 : m.testBit 22 = true ∨ a22 = u.wins := by first | with_unfolding_all exact Or.inl rfl | exact Or.inr rfl)
    (h23 : m.testBit 23 = true ∨ a23 = u.halves := by first | with_unfolding_all exact Or.inl rfl | exact Or.inr rfl)
    (h24 : m.testBit 24 = true ∨ a24 = u.perst := by first | with_unfolding_all exact Or.inl rfl | exact Or.inr rfl)
    (h25 : m.testBit 25 = true ∨ a25 = u.hmk := by first | with_unfolding_all exact Or.inl rfl | exact Or.inr rfl)
    (h26 : m.testBit 26 = true ∨ a26 = u.pwr := by first | with_unfolding_all exact Or.inl rfl | exact Or.inr rfl)
    (h27 : m.testBit 27 = true ∨ a27 = u.mgt := by first | with_unfolding_all exact Or.inl rfl | exact Or.inr rfl)
    (h28 : m.testBit 28 = true ∨ a28 = u.jtag := by first | with_unfolding_all exact Or.inl rfl | exact Or.inr rfl)
    (h29 : m.testBit 29 = true ∨ a29 = u.ras := by first | with_unfolding_all exact Or.inl rfl | exact Or.inr rfl)
    (h30 : m.testBit 30 = true ∨ a30 = u.errGlobal := by first | with_unfolding_all exact Or.inl rfl | exact Or.inr rfl)
    (h31 : m.testBit 31 = true ∨ a31 = u.errUnit := by first | with_unfolding_all exact Or.inl rfl | exact Or.inr rfl)
    (h32 : m.testBit 32 = true ∨ a32 = u.errCnt := by first | with_unfolding_all exact Or.inl rfl | exact Or.inr rfl)
    (h33 : m.testBit 33 = true ∨ a33 = u.filFi := by first | with_unfolding_all exact Or.inl rfl | exact Or.inr rfl)
    (h34 : m.testBit 34 = true ∨ a34 = u.netFi := by first | with_unfolding_all exact Or.inl rfl | exact Or.inr rfl)
    (h35 : m.testBit 35 = true ∨ a35 = u.sel := by first | with_unfolding_all exact Or.inl rfl | exact Or.inr rfl)
    (h36 : m.testBit 36 = true ∨ a36 = u.serial := by first | with_unfolding_all exact Or.inl rfl | exact Or.inr rfl)
    (h37 : m.testBit 37 = true ∨ a37 = u.out := by first | with_unfolding_all exact Or.inl rfl | exact Or.inr rfl)
    (ho : u.out <+: a37 := by first | exact List.prefix_rfl | exact List.prefix_append _ _)
    (hf : u.freeCtr ≤ a1 := by first | exact Nat.le_refl _ | exact Nat.le_add_right _ _)
    (hr : u.mem.ram.wf = true → a17.ram.wf = true := by exact fun h => h)
    (hs : u.beads.all (fun p => p.2.sp.wf) = true → a5.all (fun p => p.2.sp.wf) = true := by exact fun h => h)
    (hk : (u.hmk.flash.wf && u.hmk.backup.wf && u.hmk.params.wf) = true → (a25.flash.wf && a25.backup.wf && a25.params.wf) = true := by exact fun h => h)
    : Kept m s (State.mk a0 a1 a2 a3 a4 a5 a6 a7 a8 a9 a10 a11 a12 a13 a14 a15 a16 a17 a18 a19 a20 a21 a22 a23 a24 a25 a26 a27 a28 a29 a30 a31 a32 a33 a34 a35 a36 a37 u.pending) := by
  refine h.trans ⟨State.blot_eq h0 h1 h2 h3 h4 h5 h6 h7 h8 h9 h10 h11 h12 h13 h14 h15 h16 h17 h18 h19 h20 h21 h22 h23 h24 h25 h26 h27 h28 h29 h30 h31 h32 h33 h34 h35 h36 h37, rfl, ho, hf, fun c => ?_⟩
  unfold State.canonical at c ⊢
  rw [Bool.and_eq_true, Bool.and_eq_true] at c ⊢
  exact ⟨⟨hr c.1.1, hs c.1.2⟩, hk c.2⟩

/-! ## Commands as monads -/

/-- The state that an execution leaves, with or without a fault. -/
def leftBy {α : Type} : EStateM.Result Flt CSt α → State
  | .ok _ t => t.s
  | .error _ t => t.s

/-- Every execution of `x` touches the fields of `m` alone. -/
def KeptM {α : Type} (m : Nat) (x : CmdM α) : Prop := ∀ t : CSt, Kept m t.s (leftBy (x t))

namespace KeptM
variable {m : Nat} {α β : Type}

theorem mono {m' : Nat} {x : CmdM α} (h : KeptM m' x) (hm : m' ||| m = m := by decide) : KeptM m x := fun t => (h t).mono hm

theorem use {m' : Nat} {x : CmdM α} (h : KeptM m' x) : m' ||| m = m → KeptM m x := fun hm => h.mono hm

theorem pure (a : α) : KeptM m (Pure.pure a : CmdM α) := fun t => Kept.refl m t.s

theorem throw (e : Flt) : KeptM m (MonadExcept.throw e : CmdM α) := fun t => Kept.refl m t.s

theorem throwThe (e : Flt) : KeptM m (throwThe Flt e : CmdM α) := fun t => Kept.refl m t.s

theorem bind {x : CmdM α} {f : α → CmdM β} (hx : KeptM m x) (hf : ∀ a, KeptM m (f a)) : KeptM m (x >>= f) := by
  intro t
  have h1 := hx t
  show Kept m t.s (leftBy (EStateM.bind x f t))
  unfold EStateM.bind
  split
  · rename_i a t' e
    rw [e] at h1
    exact h1.trans (hf a t')
  · rename_i a t' e
    rw [e] at h1
    exact h1

theorem map {x : CmdM α} {f : α → β} (hx : KeptM m x) : KeptM m (f <$> x) := by
  intro t
  have h1 := hx t
  show Kept m t.s (leftBy (EStateM.map f x t))
  unfold EStateM.map
  split <;> (rename_i e; rw [e] at h1; exact h1)

theorem getS : KeptM m Machine.getS := fun t => Kept.refl m t.s

theorem get : KeptM m (MonadState.get : CmdM CSt) := fun t => Kept.refl m t.s

theorem modS {f : State → State} (h : ∀ s, Kept m s (f s)) : KeptM m (Machine.modS f) := fun t => h t.s

theorem notePoison (p : Bool) : KeptM m (Machine.notePoison p) := by
  intro t; unfold Machine.notePoison; split <;> exact Kept.refl m t.s

theorem liftE (x : Except Flt α) : KeptM m (Machine.liftE x) := by
  intro t; cases x <;> exact Kept.refl m t.s

theorem ok_step {m' : Nat} {x : CmdM α} {t t' : CSt} {a : α} {s : State} (hx : KeptM m' x) (e : x t = .ok a t') (h : Kept m s t.s)
    (hm : m' ||| m = m := by decide) : Kept m s t'.s := by
  have := hx.mono hm t
  rw [e] at this
  exact h.trans this

theorem error_step {m' : Nat} {x : CmdM α} {t t' : CSt} {f : Flt} {s : State} (hx : KeptM m' x) (e : x t = .error f t') (h : Kept m s t.s)
    (hm : m' ||| m = m := by decide) : Kept m s t'.s := by
  have := hx.mono hm t
  rw [e] at this
  exact h.trans this

theorem ite {c : Prop} [Decidable c] {x y : CmdM α} (hx : KeptM m x) (hy : KeptM m y) : KeptM m (if c then x else y) := by
  split <;> assumption

theorem forM {l : List α} {f : α → CmdM Unit} (hf : ∀ a, KeptM m (f a)) : KeptM m (l.forM f) := by
  induction l with
  | nil => exact pure ()
  | cons a l ih => exact bind (hf a) (fun _ => ih)

theorem mapMLoop {l : List α} {f : α → CmdM β} (hf : ∀ a, KeptM m (f a)) : ∀ bs : List β, KeptM m (List.mapM.loop f l bs) := by
  induction l with
  | nil => intro bs; exact pure bs.reverse
  | cons a l ih => intro bs; exact bind (hf a) (fun b => ih (b :: bs))

theorem mapM {l : List α} {f : α → CmdM β} (hf : ∀ a, KeptM m (f a)) : KeptM m (l.mapM f) := mapMLoop hf []

theorem foldlM {l : List α} {f : β → α → CmdM β} (hf : ∀ b a, KeptM m (f b a)) : ∀ b : β, KeptM m (l.foldlM f b) := by
  induction l with
  | nil => intro b; exact pure b
  | cons a l ih => intro b; exact bind (hf b a) (fun c => ih c)

end KeptM

end Sys2Proof.Machine
end

