-- ==== Sys2Proof/Laws/Frame.lean ====
section
/-! SUPPORT. From what an operation may touch (`Kept`) to the frame of a command (`SameBut`). -/

set_option Elab.async false

namespace Sys2Proof.Machine

/-- The bit of a part in the masks of `Kept`. -/
def Part.bit : Part → Nat
  | .now => 0
  | .freeCtr => 1
  | .dev => 2
  | .set => 3
  | .frm => 4
  | .beads => 5
  | .units => 6
  | .merges => 7
  | .mtWait => 8
  | .colls => 9
  | .early => 10
  | .clasps => 11
  | .claspSnap => 12
  | .stalledOps => 13
  | .sessions => 14
  | .quota => 15
  | .sesReserved => 16
  | .mem => 17
  | .bpm => 18
  | .fil => 19
  | .net => 20
  | .fns => 21
  | .wins => 22
  | .halves => 23
  | .perst => 24
  | .hmk => 25
  | .pwr => 26
  | .mgt => 27
  | .jtag => 28
  | .ras => 29
  | .errGlobal => 30
  | .errUnit => 31
  | .errCnt => 32
  | .filFi => 33
  | .netFi => 34
  | .sel => 35
  | .serial => 36
  | .out => 37
  | .pending => 38

theorem Kept.part {m : Nat} {s t : State} (h : Kept m s t) (p : Part) (hb : p = .pending ∨ m.testBit p.bit = false) : p.same s t := by
  cases p with
  | now => exact h.now_eq (hb.resolve_left (by decide))
  | freeCtr => exact h.freeCtr_eq (hb.resolve_left (by decide))
  | dev => exact h.dev_eq (hb.resolve_left (by decide))
  | set => exact h.set_eq (hb.resolve_left (by decide))
  | frm => exact h.frm_eq (hb.resolve_left (by decide))
  | beads => exact h.beads_eq (hb.resolve_left (by decide))
  | units => exact h.units_eq (hb.resolve_left (by decide))
  | merges => exact h.merges_eq (hb.resolve_left (by decide))
  | mtWait => exact h.mtWait_eq (hb.resolve_left (by decide))
  | colls => exact h.colls_eq (hb.resolve_left (by decide))
  | early => exact h.early_eq (hb.resolve_left (by decide))
  | clasps => exact h.clasps_eq (hb.resolve_left (by decide))
  | claspSnap => exact h.claspSnap_eq (hb.resolve_left (by decide))
  | stalledOps => exact h.stalledOps_eq (hb.resolve_left (by decide))
  | sessions => exact h.sessions_eq (hb.resolve_left (by decide))
  | quota => exact h.quota_eq (hb.resolve_left (by decide))
  | sesReserved => exact h.sesReserved_eq (hb.resolve_left (by decide))
  | mem => exact h.mem_eq (hb.resolve_left (by decide))
  | bpm => exact h.bpm_eq (hb.resolve_left (by decide))
  | fil => exact h.fil_eq (hb.resolve_left (by decide))
  | net => exact h.net_eq (hb.resolve_left (by decide))
  | fns => exact h.fns_eq (hb.resolve_left (by decide))
  | wins => exact h.wins_eq (hb.resolve_left (by decide))
  | halves => exact h.halves_eq (hb.resolve_left (by decide))
  | perst => exact h.perst_eq (hb.resolve_left (by decide))
  | hmk => exact h.hmk_eq (hb.resolve_left (by decide))
  | pwr => exact h.pwr_eq (hb.resolve_left (by decide))
  | mgt => exact h.mgt_eq (hb.resolve_left (by decide))
  | jtag => exact h.jtag_eq (hb.resolve_left (by decide))
  | ras => exact h.ras_eq (hb.resolve_left (by decide))
  | errGlobal => exact h.errGlobal_eq (hb.resolve_left (by decide))
  | errUnit => exact h.errUnit_eq (hb.resolve_left (by decide))
  | errCnt => exact h.errCnt_eq (hb.resolve_left (by decide))
  | filFi => exact h.filFi_eq (hb.resolve_left (by decide))
  | netFi => exact h.netFi_eq (hb.resolve_left (by decide))
  | sel => exact h.sel_eq (hb.resolve_left (by decide))
  | serial => exact h.serial_eq (hb.resolve_left (by decide))
  | out => exact h.out_eq (hb.resolve_left (by decide))
  | pending => exact h.2.1

/-- Every part that the mask leaves out is the same. -/
theorem Kept.sameBut {m : Nat} {s t : State} (l : List Part) (h : Kept m s t)
    (hb : ∀ p : Part, p ∉ l → p = .pending ∨ m.testBit p.bit = false) : SameBut l s t := fun p hp => h.part p (hb p hp)

theorem SameBut.refl (l : List Part) (s : State) : SameBut l s s := fun p _ => by cases p <;> exact rfl

theorem Part.same_trans {p : Part} {s t u : State} (h : p.same s t) (g : p.same t u) : p.same s u := by
  cases p <;> exact Eq.trans g h

theorem SameBut.trans {l : List Part} {s t u : State} (h : SameBut l s t) (g : SameBut l t u) : SameBut l s u :=
  fun p hp => Part.same_trans (h p hp) (g p hp)

theorem SameBut.mono {l k : List Part} {s t : State} (h : SameBut l s t) (hk : ∀ p : Part, p ∉ k → p ∉ l) : SameBut k s t :=
  fun p hp => h p (hk p hp)

theorem Part.forall {P : Part → Prop} :
    (∀ p, P p) ↔ (P .now ∧ P .freeCtr ∧ P .dev ∧ P .set ∧ P .frm ∧ P .beads ∧ P .units ∧ P .merges ∧ P .mtWait ∧ P .colls ∧ P .early ∧ P .clasps ∧ P .claspSnap ∧ P .stalledOps ∧ P .sessions ∧ P .quota ∧ P .sesReserved ∧ P .mem ∧ P .bpm ∧ P .fil ∧ P .net ∧ P .fns ∧ P .wins ∧ P .halves ∧ P .perst ∧ P .hmk ∧ P .pwr ∧ P .mgt ∧ P .jtag ∧ P .ras ∧ P .errGlobal ∧ P .errUnit ∧ P .errCnt ∧ P .filFi ∧ P .netFi ∧ P .sel ∧ P .serial ∧ P .out ∧ P .pending) := by
  constructor
  · intro h; exact ⟨h _, h _, h _, h _, h _, h _, h _, h _, h _, h _, h _, h _, h _, h _, h _, h _, h _, h _, h _, h _, h _, h _, h _, h _, h _, h _, h _, h _, h _, h _, h _, h _, h _, h _, h _, h _, h _, h _, h _⟩
  · intro h p
    obtain ⟨h0, h1, h2, h3, h4, h5, h6, h7, h8, h9, h10, h11, h12, h13, h14, h15, h16, h17, h18, h19, h20, h21, h22, h23, h24, h25, h26, h27, h28, h29, h30, h31, h32, h33, h34, h35, h36, h37, h38⟩ := h
    cases p <;> assumption

end Sys2Proof.Machine
end

