-- ==== Sys2Proof/Laws/KeptOps.lean ====
section
/-! SUPPORT. What the operations of Machine/Ops.lean may touch. -/

set_option Elab.async false
set_option linter.unusedTactic false
set_option linter.unreachableTactic false

namespace Sys2Proof.Machine


theorem Kept.clean {m : Nat} {s t : State} (h : Kept m s t) : s.canonical = true → t.canonical = true := h.2.2.2.2

theorem MemState.wf_putBytes (m : MemState) (a : Nat) (bs : List Byte) (h : m.ram.wf = true) : (m.putBytes a bs).ram.wf = true := by
  induction bs generalizing m a with
  | nil => exact h
  | cons v t ih =>
    unfold MemState.putBytes
    apply ih
    split
    · exact h
    · exact Bytes.wf_write a v h

theorem MemState.wf_write (m : MemState) (a : Nat) (bs : List Byte) (h : m.ram.wf = true) : (m.write a bs).ram.wf = true :=
  m.wf_putBytes a bs h

theorem MemState.wf_mark (m : MemState) (a n : Nat) (h : m.ram.wf = true) : (m.mark a n).ram.wf = true := h

theorem MemState.wf_flush (m : MemState) (a n : Nat) (h : m.ram.wf = true) : (m.flush a n).ram.wf = true := by
  unfold MemState.flush
  generalize m.core.filter _ = l
  show (List.foldl _ m l).ram.wf = true
  induction l generalizing m with
  | nil => exact h
  | cons p l ih =>
    apply ih
    dsimp only
    repeat' split
    · exact MemState.wf_mark _ _ _ (MemState.wf_write _ _ _ h)
    · exact MemState.wf_write _ _ _ h
    · exact h

/-- The scratchpads of a map of beads are in canonical form. -/
def spsWf (l : SMap Bead) : Bool := l.all (fun p => p.2.sp.wf)

theorem spsWf_put {l : SMap Bead} {b : Nat} {x : Bead} (h : spsWf l = true) (hx : x.sp.wf = true) : spsWf (mput l b x) = true := by
  induction l with
  | nil => simp [mput, spsWf, hx]
  | cons p t ih =>
    obtain ⟨a, w⟩ := p
    have hw : w.sp.wf = true ∧ spsWf t = true := by simpa [spsWf] using h
    unfold mput
    split
    · simpa [spsWf, hx] using h
    · split
      · simpa [spsWf, hx] using hw.2
      · have := ih hw.2
        simp only [spsWf, List.all_cons, Bool.and_eq_true] at this ⊢
        exact ⟨hw.1, this⟩

theorem spsWf_get {l : SMap Bead} (h : spsWf l = true) (b : Nat) : (mget l b {}).sp.wf = true := by
  induction l with
  | nil => rfl
  | cons p t ih =>
    obtain ⟨a, w⟩ := p
    have hw : w.sp.wf = true ∧ spsWf t = true := by simpa [spsWf] using h
    unfold mget mfind
    split
    · exact hw.1
    · exact ih hw.2

theorem Bead.wf_spWrite (x : Bead) (a : Nat) (bs : List Byte) (h : x.sp.wf = true) : (x.spWrite a bs).sp.wf = true :=
  Bytes.wf_writeL a bs h

theorem Bead.wf_spUndefine (x : Bead) (a n e : Nat) (h : x.sp.wf = true) : (x.spUndefine a n e).sp.wf = true :=
  Bytes.wf_undefine a n e h

theorem kept_unlessOff {m : Nat} {s : State} {o : Host.Outcome State Fault Refusal} {t : State} (h : s.unlessOff o = .next t)
    (k : ∀ t, o = .next t → Kept m s t) : Kept m s t := by
  unfold State.unlessOff at h
  split at h
  · injection h with h; subst h; exact Kept.refl _ _
  · exact k t h

theorem kept_unlessDown {m : Nat} {s : State} {o : Host.Outcome State Fault Refusal} {t : State} (h : s.unlessDown o = .next t)
    (k : ∀ t, o = .next t → Kept m s t) : Kept m s t := by
  unfold State.unlessDown at h
  split at h
  · injection h with h; subst h; exact Kept.refl _ _
  · exact k t h

theorem Bead.wf_accPut (x : Bead) (slot r c : Nat) (e : AccElem) (h : x.sp.wf = true) : (x.accPut slot r c e).sp.wf = true := h

theorem Bead.wf_accUndefine (x : Bead) (a n e : Nat) (h : x.sp.wf = true) : (x.accUndefine a n e).sp.wf = true := h

theorem Bead.wf_foldl {α : Type} {f : Bead → α → Bead} {l : List α} {x : Bead} (hf : ∀ y a, y.sp.wf = true → (f y a).sp.wf = true)
    (h : x.sp.wf = true) : (l.foldl f x).sp.wf = true := by
  induction l generalizing x with
  | nil => exact h
  | cons a l ih => exact ih (hf x a h)

theorem kept_fresh (s : State) : Kept 0x2 s (State.fresh s).2 := by
  unfold State.fresh
  repeat' first
    | decide
    | dsimp only
    | with_reducible exact Kept.refl _ _
    | with_reducible assumption
    | with_reducible refine Kept.ite ?_ ?_
    | with_reducible (show Kept _ _ _; refine Kept.mk ?_)
    | split
    | dsimp only

theorem kept_memWrite (s : State) (a : Nat) (bs : List Byte) : Kept 0x20000 s (s.memWrite a bs) :=
  Kept.mk (Kept.refl _ _) (hr := MemState.wf_write _ _ _)

theorem kept_memFlush (s : State) (a n : Nat) : Kept 0x20000 s (s.memFlush a n) :=
  Kept.mk (Kept.refl _ _) (hr := MemState.wf_flush _ _ _)

theorem kept_memWriteC (s : State) (a : Nat) (bs : List Byte) : Kept 0x20000 s (State.memWriteC s a bs) := by
  unfold State.memWriteC
  repeat' first
    | decide
    | with_reducible exact Kept.refl _ _
    | with_reducible assumption
    | with_reducible refine Kept.ite ?_ ?_
    | with_reducible apply Kept.step (kept_memFlush _ _ _)
    | with_reducible apply Kept.step (kept_memWrite _ _ _)
    | with_reducible (show Kept _ _ _; refine Kept.mk ?_)
    | split
    | dsimp only

theorem kept_memMark (s : State) (a n : Nat) : Kept 0x20000 s (s.memMark a n) :=
  Kept.mk (Kept.refl _ _) (hr := fun h => h)

theorem kept_memUndef (s : State) (a n : Nat) : Kept 0x20002 s (s.memUndef a n) :=
  Kept.mk (Kept.refl _ _) (hr := Bytes.wf_undefine _ _ _)

theorem kept_setBead (s : State) (b : Nat) (x : Bead) (hx : s.canonical = true → x.sp.wf = true) : Kept 0x20 s (s.setBead b x) := by
  refine ⟨rfl, rfl, List.prefix_rfl, Nat.le_refl _, fun c => ?_⟩
  have hx := hx c
  unfold State.canonical at c ⊢
  rw [Bool.and_eq_true, Bool.and_eq_true] at c ⊢
  exact ⟨⟨c.1.1, spsWf_put c.1.2 hx⟩, c.2⟩

theorem canonical_bead {s : State} (h : s.canonical = true) (b : Nat) : (s.bead b).sp.wf = true := by
  unfold State.canonical at h
  rw [Bool.and_eq_true, Bool.and_eq_true] at h
  exact spsWf_get h.1.2 b

theorem kept_updBead (s : State) (b : Nat) (f : Bead → Bead) (hf : ∀ x : Bead, x.sp.wf = true → (f x).sp.wf = true := by exact fun _ h => h) :
    Kept 0x20 s (s.updBead b f) :=
  kept_setBead s b _ (fun c => hf _ (canonical_bead c b))

theorem kept_undefBead (s : State) (b : Nat) : Kept 0x22 s (s.undefBead b) := by
  unfold State.undefBead
  refine Kept.of (kept_updBead _ _ _ (fun _ _ => rfl)) ?_
  exact Kept.mk (Kept.refl _ _)

theorem kept_updFn (s : State) (f : Nat) (g : PcieFn → PcieFn) : Kept 0x200000 s (State.updFn s f g) := by
  unfold State.updFn
  repeat' first
    | decide
    | with_reducible exact Kept.refl _ _
    | with_reducible assumption
    | with_reducible refine Kept.ite ?_ ?_
    | with_reducible (show Kept _ _ _; refine Kept.mk ?_)
    | split
    | dsimp only

theorem kept_updWin (s : State) (w : Nat) (g : UserWin → UserWin) : Kept 0x400000 s (State.updWin s w g) := by
  unfold State.updWin
  repeat' first
    | decide
    | with_reducible exact Kept.refl _ _
    | with_reducible assumption
    | with_reducible refine Kept.ite ?_ ?_
    | with_reducible (show Kept _ _ _; refine Kept.mk ?_)
    | split
    | dsimp only

theorem kept_emit (s : State) (o : Out) : Kept 0x2000000000 s (State.emit s o) := by
  unfold State.emit
  repeat' first
    | decide
    | with_reducible exact Kept.refl _ _
    | with_reducible assumption
    | with_reducible refine Kept.ite ?_ ?_
    | with_reducible (show Kept _ _ _; refine Kept.mk ?_)
    | split
    | dsimp only

theorem kept_msix (s : State) (f vec : Nat) : Kept 0x2000200000 s (State.msix s f vec) := by
  unfold State.msix
  repeat' first
    | decide
    | with_reducible exact Kept.refl _ _
    | with_reducible assumption
    | with_reducible refine Kept.ite ?_ ?_
    | with_reducible apply Kept.step (kept_emit _ _)
    | with_reducible apply Kept.step (kept_updFn _ _ _)
    | with_reducible (show Kept _ _ _; refine Kept.mk ?_)
    | split
    | dsimp only

theorem kept_flushMsix (s : State) (f : Nat) : Kept 0x2000200000 s (State.flushMsix s f) := by
  unfold State.flushMsix
  repeat' first
    | decide
    | with_reducible exact Kept.refl _ _
    | with_reducible assumption
    | with_reducible refine Kept.ite ?_ ?_
    | with_reducible apply Kept.step (kept_updFn _ _ _)
    | with_reducible apply Kept.step (kept_emit _ _)
    | with_reducible refine Kept.foldl (fun _ _ => ?_) ?_
    | with_reducible (show Kept _ _ _; refine Kept.mk ?_)
    | split
    | dsimp only

theorem kept_logGlobal (s : State) (r : ErrRec) : Kept 0x2040200000 s (State.logGlobal s r) := by
  unfold State.logGlobal
  repeat' first
    | decide
    | with_reducible exact Kept.refl _ _
    | with_reducible assumption
    | with_reducible refine Kept.ite ?_ ?_
    | with_reducible apply Kept.step (kept_msix _ _ _)
    | with_reducible (show Kept _ _ _; refine Kept.mk ?_)
    | split
    | dsimp only

theorem kept_logUnit (s : State) (u : Nat) (r : ErrRec) : Kept 0x2080200000 s (State.logUnit s u r) := by
  unfold State.logUnit
  repeat' first
    | decide
    | with_reducible exact Kept.refl _ _
    | with_reducible assumption
    | with_reducible refine Kept.ite ?_ ?_
    | with_reducible apply Kept.step (kept_msix _ _ _)
    | with_reducible (show Kept _ _ _; refine Kept.mk ?_)
    | split
    | dsimp only

theorem kept_raiseU (s : State) (u status : Nat) (arg : Nat) (reason : Nat) (src : Nat) (covered : Bool) : Kept 0x2080200000 s (State.raiseU s u status arg reason src covered) := by
  unfold State.raiseU
  repeat' first
    | decide
    | with_reducible exact Kept.refl _ _
    | with_reducible assumption
    | with_reducible refine Kept.ite ?_ ?_
    | with_reducible apply Kept.step (kept_logUnit _ _ _)
    | with_reducible (show Kept _ _ _; refine Kept.mk ?_)
    | split
    | dsimp only

theorem kept_raiseG (s : State) (status : Nat) (arg : Nat) (src : Nat) (uid : Nat) (covered : Bool) : Kept 0x2040200000 s (State.raiseG s status arg src uid covered) := by
  unfold State.raiseG
  repeat' first
    | decide
    | with_reducible exact Kept.refl _ _
    | with_reducible assumption
    | with_reducible refine Kept.ite ?_ ?_
    | with_reducible apply Kept.step (kept_logGlobal _ _)
    | with_reducible (show Kept _ _ _; refine Kept.mk ?_)
    | split
    | dsimp only

theorem kept_raiseUG (s : State) (u status : Nat) (arg : Nat) (src : Nat) (covered : Bool) : Kept 0x20c0200000 s (State.raiseUG s u status arg src covered) := by
  unfold State.raiseUG
  repeat' first
    | decide
    | with_reducible exact Kept.refl _ _
    | with_reducible assumption
    | with_reducible refine Kept.ite ?_ ?_
    | with_reducible apply Kept.step (kept_raiseU _ _ _ _ _ _ _)
    | with_reducible apply Kept.step (kept_raiseG _ _ _ _ _ _)
    | with_reducible (show Kept _ _ _; refine Kept.mk ?_)
    | split
    | dsimp only

theorem kept_count (s : State) (i : Nat) : Kept 0x100000000 s (State.count s i) := by
  unfold State.count
  repeat' first
    | decide
    | with_reducible exact Kept.refl _ _
    | with_reducible assumption
    | with_reducible refine Kept.ite ?_ ?_
    | with_reducible (show Kept _ _ _; refine Kept.mk ?_)
    | split
    | dsimp only

theorem kept_regacc (s : State) (hub : Nat) : Kept 0x2140200000 s (State.regacc s hub) := by
  unfold State.regacc
  repeat' first
    | decide
    | with_reducible exact Kept.refl _ _
    | with_reducible assumption
    | with_reducible refine Kept.ite ?_ ?_
    | with_reducible apply Kept.step (kept_count _ _)
    | with_reducible apply Kept.step (kept_raiseG _ _ _ _ _ _)
    | with_reducible (show Kept _ _ _; refine Kept.mk ?_)
    | split
    | dsimp only

theorem kept_at (s : State) (t : Nat) : Kept 0x1 s (State.at s t) := by
  unfold State.at
  repeat' first
    | decide
    | with_reducible exact Kept.refl _ _
    | with_reducible assumption
    | with_reducible refine Kept.ite ?_ ?_
    | with_reducible (show Kept _ _ _; refine Kept.mk ?_)
    | split
    | dsimp only

theorem kept_traceAdd (s : State) (i e : Nat) : Kept 0x20000000 s (State.traceAdd s i e) := by
  unfold State.traceAdd
  repeat' first
    | decide
    | with_reducible exact Kept.refl _ _
    | with_reducible assumption
    | with_reducible refine Kept.ite ?_ ?_
    | with_reducible (show Kept _ _ _; refine Kept.mk ?_)
    | split
    | dsimp only

theorem kept_traceFreeze (s : State) (i : Nat) : Kept 0x20000000 s (State.traceFreeze s i) := by
  unfold State.traceFreeze
  repeat' first
    | decide
    | with_reducible exact Kept.refl _ _
    | with_reducible assumption
    | with_reducible refine Kept.ite ?_ ?_
    | with_reducible (show Kept _ _ _; refine Kept.mk ?_)
    | split
    | dsimp only

theorem kept_traceFault (s : State) (b : Nat) : Kept 0x20000000 s (State.traceFault s b) := by
  unfold State.traceFault
  repeat' first
    | decide
    | with_reducible exact Kept.refl _ _
    | with_reducible assumption
    | with_reducible refine Kept.ite ?_ ?_
    | with_reducible apply Kept.step (kept_traceFreeze _ _)
    | with_reducible (show Kept _ _ _; refine Kept.mk ?_)
    | split
    | dsimp only

theorem kept_traceCmd (s : State) (b idx opcode event status : Nat) : Kept 0x20000000 s (State.traceCmd s b idx opcode event status) := by
  unfold State.traceCmd
  repeat' first
    | decide
    | with_reducible exact Kept.refl _ _
    | with_reducible assumption
    | with_reducible refine Kept.ite ?_ ?_
    | with_reducible apply Kept.step (kept_traceAdd _ _ _)
    | with_reducible (show Kept _ _ _; refine Kept.mk ?_)
    | split
    | dsimp only

theorem kept_traceFrame (s : State) (kind uid : Nat) : Kept 0x20000000 s (State.traceFrame s kind uid) := by
  unfold State.traceFrame
  repeat' first
    | decide
    | with_reducible exact Kept.refl _ _
    | with_reducible assumption
    | with_reducible refine Kept.ite ?_ ?_
    | with_reducible apply Kept.step (kept_traceAdd _ _ _)
    | with_reducible (show Kept _ _ _; refine Kept.mk ?_)
    | split
    | dsimp only

end Sys2Proof.Machine
end

