-- ==== Sys2Proof/Laws/KeptAccess.lean ====
section
/-! SUPPORT. What the operations of Machine/Access.lean may touch. -/

set_option Elab.async false
set_option linter.unusedTactic false
set_option linter.unreachableTactic false

namespace Sys2Proof.Machine

theorem kept_meterMove (s : State) (top die pa n : Nat) (out : Bool) : Kept 0x20000 s (State.meterMove s top die pa n out) := by
  unfold State.meterMove
  repeat' first
    | decide
    | with_reducible exact Kept.refl _ _
    | with_reducible assumption
    | with_reducible refine Kept.ite ?_ ?_
    | with_reducible refine Kept.foldl (fun _ _ => ?_) ?_
    | with_reducible (show Kept _ _ _; refine Kept.mk ?_)
    | split
    | dsimp only

theorem kept_updUnit (s : State) (u : Nat) (f : UnitSt → UnitSt) : Kept 0x40 s (State.updUnit s u f) := by
  unfold State.updUnit
  repeat' first
    | decide
    | with_reducible exact Kept.refl _ _
    | with_reducible assumption
    | with_reducible refine Kept.ite ?_ ?_
    | with_reducible (show Kept _ _ _; refine Kept.mk ?_)
    | split
    | dsimp only

theorem kept_updSlice (s : State) (u : Nat) (f : Slice → Slice) : Kept 0x40 s (State.updSlice s u f) := by
  unfold State.updSlice
  repeat' first
    | decide
    | with_reducible exact Kept.refl _ _
    | with_reducible assumption
    | with_reducible refine Kept.ite ?_ ?_
    | with_reducible apply Kept.step (kept_updUnit _ _ _)
    | with_reducible (show Kept _ _ _; refine Kept.mk ?_)
    | split
    | dsimp only

theorem kept_putLine (s : State) (c : Ctx) (pa : Nat) (bs : List PByte) : Kept 0x20040 s (State.putLine s c pa bs) := by
  unfold State.putLine
  repeat' first
    | decide
    | with_reducible exact Kept.refl _ _
    | with_reducible assumption
    | with_reducible refine Kept.ite ?_ ?_
    | with_reducible apply Kept.step (kept_memWrite _ _ _)
    | with_reducible apply Kept.step (kept_memMark _ _ _)
    | with_reducible apply Kept.step (kept_meterMove _ _ _ _ _ _)
    | with_reducible apply Kept.step (kept_updSlice _ _ _)
    | with_reducible (show Kept _ _ _; refine Kept.mk ?_)
    | split
    | dsimp only

theorem Bead.wf_spMarks (x : Bead) (a : Nat) (bs : List PByte) (h : x.sp.wf = true) : (x.spMarks a bs).sp.wf = true := by
  unfold Bead.spMarks
  generalize (List.range bs.length).zip bs = l
  induction l generalizing x with
  | nil => exact h
  | cons p l ih =>
    apply ih
    dsimp only
    split <;> exact h

theorem kept_putSp (s : State) (b a : Nat) (bs : List PByte) : Kept 0x20 s (s.putSp b a bs) :=
  kept_updBead s b _ (fun _ h => Bead.wf_spMarks _ _ _ (Bead.wf_spWrite _ _ _ h))

theorem kept_wrBytes (s t : State) (c : Ctx) (kind x off : Nat) (bs : List PByte) (rsn : Nat) (h : s.wrBytes c kind x off bs rsn = .ok t) :
    Kept 0x20060 s t := by
  unfold State.wrBytes at h
  split at h
  · dsimp only at h
    split at h
    · injection h with h; subst h; exact (kept_putSp _ _ _ _).mono (by decide)
    · exact nomatch h
  · generalize linePieces _ _ = l at h
    induction l generalizing s with
    | nil => injection h with h; subst h; exact Kept.refl _ _
    | cons p l ih =>
      obtain ⟨o, n⟩ := p
      rw [List.foldlM_cons] at h
      dsimp only at h
      cases hp : s.pa c kind x (off + o) true rsn with
      | error e => rw [hp] at h; exact nomatch h
      | ok a =>
        rw [hp] at h
        exact Kept.trans ((kept_putLine _ _ _ _).mono (by decide)) (ih _ h)

theorem kept_meterRead (s : State) (c : Ctx) (kind x off n : Nat) : Kept 0x20000 s (State.meterRead s c kind x off n) := by
  unfold State.meterRead
  repeat' first
    | decide
    | with_reducible exact Kept.refl _ _
    | with_reducible assumption
    | with_reducible refine Kept.ite ?_ ?_
    | with_reducible apply Kept.step (kept_meterMove _ _ _ _ _ _)
    | with_reducible refine Kept.foldl (fun _ _ => ?_) ?_
    | with_reducible (show Kept _ _ _; refine Kept.mk ?_)
    | split
    | dsimp only

end Sys2Proof.Machine
end

