-- ==== Sys2Proof/Laws/KeptTransport.lean ====
section
/-! SUPPORT. What the operations of Machine/Transport.lean may touch. -/

set_option Elab.async false
set_option linter.unusedTactic false
set_option linter.unreachableTactic false

namespace Sys2Proof.Machine

theorem kept_updPort (s : State) (n : Nat) (f : Port → Port) : Kept 0x100000 s (State.updPort s n f) := by
  unfold State.updPort
  repeat' first
    | decide
    | with_reducible exact Kept.refl _ _
    | with_reducible assumption
    | with_reducible refine Kept.ite ?_ ?_
    | with_reducible (show Kept _ _ _; refine Kept.mk ?_)
    | split
    | dsimp only

theorem kept_updPeer (s : State) (p : Nat) (f : Peer → Peer) : Kept 0x100000 s (State.updPeer s p f) := by
  unfold State.updPeer
  repeat' first
    | decide
    | with_reducible exact Kept.refl _ _
    | with_reducible assumption
    | with_reducible refine Kept.ite ?_ ?_
    | with_reducible (show Kept _ _ _; refine Kept.mk ?_)
    | split
    | dsimp only

theorem kept_putSeg (s : State) (p path : Nat) (g : Segment) : Kept 0x2000100000 s (State.putSeg s p path g) := by
  unfold State.putSeg
  repeat' first
    | decide
    | with_reducible exact Kept.refl _ _
    | with_reducible assumption
    | with_reducible refine Kept.ite ?_ ?_
    | with_reducible apply Kept.step (kept_updPeer _ _ _)
    | with_reducible apply Kept.step (kept_emit _ _)
    | with_reducible (show Kept _ _ _; refine Kept.mk ?_)
    | split
    | dsimp only

theorem kept_putCtl (s : State) (p path type vc : Nat) (payload : List Byte) : Kept 0x2000000000 s (State.putCtl s p path type vc payload) := by
  unfold State.putCtl
  repeat' first
    | decide
    | with_reducible exact Kept.refl _ _
    | with_reducible assumption
    | with_reducible refine Kept.ite ?_ ?_
    | with_reducible apply Kept.step (kept_emit _ _)
    | with_reducible (show Kept _ _ _; refine Kept.mk ?_)
    | split
    | dsimp only

theorem kept_pickPath (s : State) (x : Peer) : Kept 0x2 s (State.pickPath s x).2 := by
  unfold State.pickPath
  repeat' first
    | decide
    | dsimp only
    | with_reducible exact Kept.refl _ _
    | with_reducible assumption
    | with_reducible refine Kept.ite ?_ ?_
    | with_reducible apply Kept.step (kept_fresh _)
    | with_reducible refine Kept.snd_eq ‹_ = (_, _)› (Kept.of (kept_fresh _) ?_)
    | with_reducible (show Kept _ _ _; refine Kept.mk ?_)
    | split
    | dsimp only

theorem kept_pumpVcF (n : Nat) (s : State) (p v : Nat) : Kept 0x2000100002 s (State.pumpVcF n s p v) := by
  induction n generalizing s with
  | zero => exact Kept.refl _ _
  | succ n ih =>
    unfold State.pumpVcF
    repeat' first
    | decide
      | with_reducible exact Kept.refl _ _
      | with_reducible assumption
      | with_reducible refine Kept.of (ih _) ?_
      | with_reducible refine Kept.ite ?_ ?_
      | with_reducible apply Kept.step (kept_pickPath _ _)
      | with_reducible refine Kept.snd_eq ‹_ = (_, _)› (Kept.of (kept_pickPath _ _) ?_)
      | with_reducible apply Kept.step (kept_updPeer _ _ _)
      | with_reducible apply Kept.step (kept_putSeg _ _ _ _)
      | with_reducible (show Kept _ _ _; refine Kept.mk ?_)
      | split
      | dsimp only

theorem kept_pumpPeer (s : State) (p : Nat) : Kept 0x2000100002 s (State.pumpPeer s p) := by
  unfold State.pumpPeer
  repeat' first
    | decide
    | with_reducible exact Kept.refl _ _
    | with_reducible assumption
    | with_reducible refine Kept.ite ?_ ?_
    | with_reducible apply Kept.step (kept_pumpVcF _ _ _ _)
    | with_reducible refine Kept.foldl (fun _ _ => ?_) ?_
    | with_reducible (show Kept _ _ _; refine Kept.mk ?_)
    | split
    | dsimp only

theorem kept_reach (s : State) (p : Nat) : Kept 0x2040300000 s (State.reach s p) := by
  unfold State.reach
  repeat' first
    | decide
    | with_reducible exact Kept.refl _ _
    | with_reducible assumption
    | with_reducible refine Kept.ite ?_ ?_
    | with_reducible apply Kept.step (kept_updPeer _ _ _)
    | with_reducible apply Kept.step (kept_putCtl _ _ _ _ _ _)
    | with_reducible apply Kept.step (kept_raiseG _ _ _ _ _ _)
    | with_reducible (show Kept _ _ _; refine Kept.mk ?_)
    | split
    | dsimp only

theorem kept_netSend (s : State) (p vc : Nat) (bytes : List Byte) (pois : Nat) : Kept 0x2040300002 s (State.netSend s p vc bytes pois) := by
  unfold State.netSend
  repeat' first
    | decide
    | with_reducible exact Kept.refl _ _
    | with_reducible assumption
    | with_reducible refine Kept.ite ?_ ?_
    | with_reducible apply Kept.step (kept_reach _ _)
    | with_reducible apply Kept.step (kept_updPeer _ _ _)
    | with_reducible apply Kept.step (kept_pumpPeer _ _)
    | with_reducible (show Kept _ _ _; refine Kept.mk ?_)
    | split
    | dsimp only

theorem kept_tell (s : State) (p kind : Nat) (fields : List Nat) : Kept 0x2040300002 s (State.tell s p kind fields) := by
  unfold State.tell
  repeat' first
    | decide
    | with_reducible exact Kept.refl _ _
    | with_reducible assumption
    | with_reducible refine Kept.ite ?_ ?_
    | with_reducible apply Kept.step (kept_netSend _ _ _ _ _)
    | with_reducible (show Kept _ _ _; refine Kept.mk ?_)
    | split
    | dsimp only

end Sys2Proof.Machine
end

