-- ==== Sys2Proof/Laws/KeptClasp.lean ====
section
/-! SUPPORT. What the operations of Machine/Clasp.lean may touch. -/

set_option Elab.async false
set_option linter.unusedTactic false
set_option linter.unreachableTactic false

namespace Sys2Proof.Machine

theorem kept_updClasp (s : State) (id : Nat) (f : Clasp → Clasp) : Kept 0x800 s (State.updClasp s id f) := by
  unfold State.updClasp
  repeat' first
    | decide
    | with_reducible exact Kept.refl _ _
    | with_reducible assumption
    | with_reducible refine Kept.ite ?_ ?_
    | with_reducible (show Kept _ _ _; refine Kept.mk ?_)
    | split
    | dsimp only

theorem kept_notify (s : State) (window : Option Nat) (nidx id counter status : Nat) : Kept 0x20c0220000 s (State.notify s window nidx id counter status) := by
  unfold State.notify
  repeat' first
    | decide
    | with_reducible exact Kept.refl _ _
    | with_reducible assumption
    | with_reducible refine Kept.ite ?_ ?_
    | with_reducible apply Kept.step (kept_memWriteC _ _ _)
    | with_reducible apply Kept.step (kept_raiseU _ _ _ _ _ _ _)
    | with_reducible apply Kept.step (kept_raiseG _ _ _ _ _ _)
    | with_reducible (show Kept _ _ _; refine Kept.mk ?_)
    | split
    | dsimp only

theorem kept_completeWait (s : State) (id : Nat) (who : Waiter) (counter : Nat) (err : Bool) : Kept 0x20c0320022 s (State.completeWait s id who counter err) := by
  unfold State.completeWait
  repeat' first
    | decide
    | with_reducible exact Kept.refl _ _
    | with_reducible assumption
    | with_reducible refine Kept.ite ?_ ?_
    | with_reducible (show Kept _ _ (State.updBead _ _ _); first | apply Kept.step (kept_updBead _ _ _) | (refine Kept.of (kept_updBead _ _ _ ?hf) ?_; case hf => (intro _ h; (try dsimp only); first | exact h | exact Bead.wf_spUndefine _ _ _ _ h | exact Bead.wf_spWrite _ _ _ h | exact Bead.wf_accUndefine _ _ _ _ (Bead.wf_spUndefine _ _ _ _ h) | exact Bead.wf_accUndefine _ _ _ _ h | (unfold Bead.accPut; exact h) | (unfold Bead.spMark; exact h) | exact Bead.wf_foldl (fun _ _ h => h) h | exact Bead.wf_foldl (fun _ _ h => Bead.wf_accPut _ _ _ _ _ h) h | exact Bead.wf_accUndefine _ _ _ _ (Bead.wf_foldl (fun _ _ h => Bead.wf_spUndefine _ _ _ _ h) h) | (repeat' split <;> exact h))))
    | with_reducible apply Kept.step (kept_notify _ _ _ _ _ _)
    | with_reducible apply Kept.step (kept_tell _ _ _ _)
    | with_reducible (show Kept _ _ _; refine Kept.mk ?_)
    | split
    | dsimp only

theorem kept_wakeWaits (s : State) (id : Nat) : Kept 0x20c0320822 s (State.wakeWaits s id) := by
  unfold State.wakeWaits
  repeat' first
    | decide
    | with_reducible exact Kept.refl _ _
    | with_reducible assumption
    | with_reducible refine Kept.ite ?_ ?_
    | with_reducible apply Kept.step (kept_updClasp _ _ _)
    | with_reducible apply Kept.step (kept_completeWait _ _ _ _ _)
    | with_reducible refine Kept.foldl (fun _ _ => ?_) ?_
    | with_reducible (show Kept _ _ _; refine Kept.mk ?_)
    | split
    | dsimp only

theorem kept_fireEntry (s : State) (w k : Nat) : Kept 0x2000600000 s (State.fireEntry s w k) := by
  unfold State.fireEntry
  repeat' first
    | decide
    | with_reducible exact Kept.refl _ _
    | with_reducible assumption
    | with_reducible refine Kept.ite ?_ ?_
    | with_reducible apply Kept.step (kept_msix _ _ _)
    | with_reducible apply Kept.step (kept_updWin _ _ _)
    | with_reducible (show Kept _ _ _; refine Kept.mk ?_)
    | split
    | dsimp only

theorem kept_fireMsix (s : State) (id : Nat) : Kept 0x2000600000 s (State.fireMsix s id) := by
  unfold State.fireMsix
  repeat' first
    | decide
    | with_reducible exact Kept.refl _ _
    | with_reducible assumption
    | with_reducible refine Kept.ite ?_ ?_
    | with_reducible apply Kept.step (kept_fireEntry _ _ _)
    | with_reducible refine Kept.foldl (fun _ _ => ?_) ?_
    | with_reducible (show Kept _ _ _; refine Kept.mk ?_)
    | split
    | dsimp only

theorem kept_settle (s : State) (id : Nat) : Kept 0x20c0720822 s (State.settle s id) := by
  unfold State.settle
  repeat' first
    | decide
    | with_reducible exact Kept.refl _ _
    | with_reducible assumption
    | with_reducible refine Kept.ite ?_ ?_
    | with_reducible apply Kept.step (kept_wakeWaits _ _)
    | with_reducible apply Kept.step (kept_fireMsix _ _)
    | with_reducible (show Kept _ _ _; refine Kept.mk ?_)
    | split
    | dsimp only

theorem kept_claspAdd (s : State) (id n : Nat) : Kept 0x2080200800 s (State.claspAdd s id n) := by
  unfold State.claspAdd
  repeat' first
    | decide
    | with_reducible exact Kept.refl _ _
    | with_reducible assumption
    | with_reducible refine Kept.ite ?_ ?_
    | with_reducible apply Kept.step (kept_updClasp _ _ _)
    | with_reducible apply Kept.step (kept_raiseU _ _ _ _ _ _ _)
    | with_reducible (show Kept _ _ _; refine Kept.mk ?_)
    | split
    | dsimp only

theorem kept_postWait (s : State) (who : Waiter) (id t : Nat) : Kept 0x20c0320822 s (State.postWait s who id t) := by
  unfold State.postWait
  repeat' first
    | decide
    | with_reducible exact Kept.refl _ _
    | with_reducible assumption
    | with_reducible refine Kept.ite ?_ ?_
    | with_reducible apply Kept.step (kept_completeWait _ _ _ _ _)
    | with_reducible apply Kept.step (kept_updClasp _ _ _)
    | with_reducible (show Kept _ _ _; refine Kept.mk ?_)
    | split
    | dsimp only

theorem kept_arriveCore (s : State) (who : Waiter) (id t : Nat) : Kept 0x20c0720822 s (State.arriveCore s who id t) := by
  unfold State.arriveCore
  repeat' first
    | decide
    | with_reducible exact Kept.refl _ _
    | with_reducible assumption
    | with_reducible refine Kept.ite ?_ ?_
    | with_reducible apply Kept.step (kept_claspAdd _ _ _)
    | with_reducible apply Kept.step (kept_settle _ _)
    | with_reducible apply Kept.step (kept_postWait _ _ _ _)
    | with_reducible (show Kept _ _ _; refine Kept.mk ?_)
    | split
    | dsimp only

theorem kept_resumeStalled (s : State) : Kept 0x20c0722822 s (State.resumeStalled s) := by
  unfold State.resumeStalled
  repeat' first
    | decide
    | with_reducible exact Kept.refl _ _
    | with_reducible assumption
    | with_reducible refine Kept.ite ?_ ?_
    | with_reducible apply Kept.step (kept_postWait _ _ _ _)
    | with_reducible apply Kept.step (kept_arriveCore _ _ _ _)
    | with_reducible refine Kept.foldl (fun _ _ => ?_) ?_
    | with_reducible (show Kept _ _ _; refine Kept.mk ?_)
    | split
    | dsimp only

theorem kept_opSignal (s : State) (id n : Nat) : Kept 0x20c0722822 s (State.opSignal s id n) := by
  unfold State.opSignal
  repeat' first
    | decide
    | with_reducible exact Kept.refl _ _
    | with_reducible assumption
    | with_reducible refine Kept.ite ?_ ?_
    | with_reducible apply Kept.step (kept_claspAdd _ _ _)
    | with_reducible apply Kept.step (kept_settle _ _)
    | with_reducible apply Kept.step (kept_resumeStalled _)
    | with_reducible (show Kept _ _ _; refine Kept.mk ?_)
    | split
    | dsimp only

theorem kept_opWait (s : State) (who : Waiter) (id t : Nat) : Kept 0x20c0320822 s (State.opWait s who id t) := by
  unfold State.opWait
  repeat' first
    | decide
    | with_reducible exact Kept.refl _ _
    | with_reducible assumption
    | with_reducible refine Kept.ite ?_ ?_
    | with_reducible apply Kept.step (kept_postWait _ _ _ _)
    | with_reducible (show Kept _ _ _; refine Kept.mk ?_)
    | split
    | dsimp only

theorem kept_opArrive (s : State) (who : Waiter) (id t : Nat) : Kept 0x20c0722822 s (State.opArrive s who id t) := by
  unfold State.opArrive
  repeat' first
    | decide
    | with_reducible exact Kept.refl _ _
    | with_reducible assumption
    | with_reducible refine Kept.ite ?_ ?_
    | with_reducible apply Kept.step (kept_arriveCore _ _ _ _)
    | with_reducible apply Kept.step (kept_resumeStalled _)
    | with_reducible (show Kept _ _ _; refine Kept.mk ?_)
    | split
    | dsimp only

theorem kept_opReset (s : State) (id : Nat) : Kept 0x20c0722822 s (State.opReset s id) := by
  unfold State.opReset
  repeat' first
    | decide
    | with_reducible exact Kept.refl _ _
    | with_reducible assumption
    | with_reducible refine Kept.ite ?_ ?_
    | with_reducible apply Kept.step (kept_updClasp _ _ _)
    | with_reducible apply Kept.step (kept_settle _ _)
    | with_reducible apply Kept.step (kept_resumeStalled _)
    | with_reducible (show Kept _ _ _; refine Kept.mk ?_)
    | split
    | dsimp only

theorem kept_opFail (s : State) (id : Nat) : Kept 0x20c0722822 s (State.opFail s id) := by
  unfold State.opFail
  repeat' first
    | decide
    | with_reducible exact Kept.refl _ _
    | with_reducible assumption
    | with_reducible refine Kept.ite ?_ ?_
    | with_reducible apply Kept.step (kept_updClasp _ _ _)
    | with_reducible apply Kept.step (kept_settle _ _)
    | with_reducible apply Kept.step (kept_resumeStalled _)
    | with_reducible (show Kept _ _ _; refine Kept.mk ?_)
    | split
    | dsimp only

theorem kept_withdrawBead (s : State) (b : Nat) : Kept 0x820 s (State.withdrawBead s b) := by
  unfold State.withdrawBead
  repeat' first
    | decide
    | with_reducible exact Kept.refl _ _
    | with_reducible assumption
    | with_reducible refine Kept.ite ?_ ?_
    | with_reducible (show Kept _ _ (State.updBead _ _ _); first | apply Kept.step (kept_updBead _ _ _) | (refine Kept.of (kept_updBead _ _ _ ?hf) ?_; case hf => (intro _ h; (try dsimp only); first | exact h | exact Bead.wf_spUndefine _ _ _ _ h | exact Bead.wf_spWrite _ _ _ h | exact Bead.wf_accUndefine _ _ _ _ (Bead.wf_spUndefine _ _ _ _ h) | exact Bead.wf_accUndefine _ _ _ _ h | (unfold Bead.accPut; exact h) | (unfold Bead.spMark; exact h) | exact Bead.wf_foldl (fun _ _ h => h) h | exact Bead.wf_foldl (fun _ _ h => Bead.wf_accPut _ _ _ _ _ h) h | exact Bead.wf_accUndefine _ _ _ _ (Bead.wf_foldl (fun _ _ h => Bead.wf_spUndefine _ _ _ _ h) h) | (repeat' split <;> exact h))))
    | with_reducible (show Kept _ _ _; refine Kept.mk ?_)
    | split
    | dsimp only

theorem kept_logClasp (s : State) (who : ClaspAgent) (status id : Nat) : Kept 0x20c0200000 s (State.logClasp s who status id) := by
  unfold State.logClasp
  repeat' first
    | decide
    | with_reducible exact Kept.refl _ _
    | with_reducible assumption
    | with_reducible refine Kept.ite ?_ ?_
    | with_reducible apply Kept.step (kept_raiseU _ _ _ _ _ _ _)
    | with_reducible apply Kept.step (kept_raiseG _ _ _ _ _ _)
    | with_reducible (show Kept _ _ _; refine Kept.mk ?_)
    | split
    | dsimp only

theorem kept_refuseClasp (s : State) (who : ClaspAgent) (id : Nat) : Kept 0x21c0300002 s (State.refuseClasp s who id) := by
  unfold State.refuseClasp
  repeat' first
    | decide
    | with_reducible exact Kept.refl _ _
    | with_reducible assumption
    | with_reducible refine Kept.ite ?_ ?_
    | with_reducible apply Kept.step (kept_tell _ _ _ _)
    | with_reducible apply Kept.step (kept_count _ _)
    | with_reducible apply Kept.step (kept_logClasp _ _ _ _)
    | with_reducible (show Kept _ _ _; refine Kept.mk ?_)
    | split
    | dsimp only

theorem kept_refuseWait (s : State) (who : ClaspAgent) (id : Nat) : Kept 0x21c0320022 s (State.refuseWait s who id) := by
  unfold State.refuseWait
  repeat' first
    | decide
    | with_reducible exact Kept.refl _ _
    | with_reducible assumption
    | with_reducible refine Kept.ite ?_ ?_
    | with_reducible apply Kept.step (kept_refuseClasp _ _ _)
    | with_reducible apply Kept.step (kept_completeWait _ _ _ _ _)
    | with_reducible (show Kept _ _ _; refine Kept.mk ?_)
    | split
    | dsimp only

theorem kept_ackRemote (s : State) (who : ClaspAgent) (id : Nat) : Kept 0x2040300002 s (State.ackRemote s who id) := by
  unfold State.ackRemote
  repeat' first
    | decide
    | with_reducible exact Kept.refl _ _
    | with_reducible assumption
    | with_reducible refine Kept.ite ?_ ?_
    | with_reducible apply Kept.step (kept_tell _ _ _ _)
    | with_reducible (show Kept _ _ _; refine Kept.mk ?_)
    | split
    | dsimp only

theorem kept_doSignal (s : State) (who : ClaspAgent) (id n : Nat) : Kept 0x21c0722822 s (State.doSignal s who id n) := by
  unfold State.doSignal
  repeat' first
    | decide
    | with_reducible exact Kept.refl _ _
    | with_reducible assumption
    | with_reducible refine Kept.ite ?_ ?_
    | with_reducible apply Kept.step (kept_opSignal _ _ _)
    | with_reducible apply Kept.step (kept_ackRemote _ _ _)
    | with_reducible apply Kept.step (kept_refuseClasp _ _ _)
    | with_reducible (show Kept _ _ _; refine Kept.mk ?_)
    | split
    | dsimp only

theorem kept_doWait (s : State) (who : ClaspAgent) (id t : Nat) : Kept 0x21c0320822 s (State.doWait s who id t) := by
  unfold State.doWait
  repeat' first
    | decide
    | with_reducible exact Kept.refl _ _
    | with_reducible assumption
    | with_reducible refine Kept.ite ?_ ?_
    | with_reducible apply Kept.step (kept_opWait _ _ _ _)
    | with_reducible apply Kept.step (kept_refuseWait _ _ _)
    | with_reducible (show Kept _ _ _; refine Kept.mk ?_)
    | split
    | dsimp only

theorem kept_doArrive (s : State) (who : ClaspAgent) (id t : Nat) : Kept 0x21c0722822 s (State.doArrive s who id t) := by
  unfold State.doArrive
  repeat' first
    | decide
    | with_reducible exact Kept.refl _ _
    | with_reducible assumption
    | with_reducible refine Kept.ite ?_ ?_
    | with_reducible apply Kept.step (kept_opArrive _ _ _ _)
    | with_reducible apply Kept.step (kept_refuseWait _ _ _)
    | with_reducible (show Kept _ _ _; refine Kept.mk ?_)
    | split
    | dsimp only

theorem kept_doReset (s : State) (who : ClaspAgent) (id : Nat) : Kept 0x21c0722822 s (State.doReset s who id) := by
  unfold State.doReset
  repeat' first
    | decide
    | with_reducible exact Kept.refl _ _
    | with_reducible assumption
    | with_reducible refine Kept.ite ?_ ?_
    | with_reducible apply Kept.step (kept_opReset _ _)
    | with_reducible apply Kept.step (kept_ackRemote _ _ _)
    | with_reducible apply Kept.step (kept_refuseClasp _ _ _)
    | with_reducible (show Kept _ _ _; refine Kept.mk ?_)
    | split
    | dsimp only

theorem kept_doFail (s : State) (who : ClaspAgent) (id : Nat) : Kept 0x21c0722822 s (State.doFail s who id) := by
  unfold State.doFail
  repeat' first
    | decide
    | with_reducible exact Kept.refl _ _
    | with_reducible assumption
    | with_reducible refine Kept.ite ?_ ?_
    | with_reducible apply Kept.step (kept_opFail _ _)
    | with_reducible apply Kept.step (kept_ackRemote _ _ _)
    | with_reducible apply Kept.step (kept_refuseClasp _ _ _)
    | with_reducible (show Kept _ _ _; refine Kept.mk ?_)
    | split
    | dsimp only

theorem kept_clpOp (s : State) (v : Via) (x : Nat) : Kept 0x21c0722822 s (State.clpOp s v x) := by
  unfold State.clpOp
  repeat' first
    | decide
    | with_reducible exact Kept.refl _ _
    | with_reducible assumption
    | with_reducible refine Kept.ite ?_ ?_
    | with_reducible apply Kept.step (kept_notify _ _ _ _ _ _)
    | with_reducible apply Kept.step (kept_count _ _)
    | with_reducible apply Kept.step (kept_logClasp _ _ _ _)
    | with_reducible apply Kept.step (kept_refuseClasp _ _ _)
    | with_reducible apply Kept.step (kept_doSignal _ _ _ _)
    | with_reducible apply Kept.step (kept_doWait _ _ _ _)
    | with_reducible apply Kept.step (kept_doArrive _ _ _ _)
    | with_reducible apply Kept.step (kept_doReset _ _ _)
    | with_reducible apply Kept.step (kept_doFail _ _ _)
    | with_reducible (show Kept _ _ _; refine Kept.mk ?_)
    | split
    | dsimp only

theorem kept_execClaspSignal (who : ClaspAgent) (id n : Nat) (s : State) : ∀ t', execClaspSignal who id n s = .next t' → Kept 0x21c0722822 s t' := by
  intro t2 h
  unfold execClaspSignal at h
  refine kept_unlessDown h (fun t2 h => ?_)
  injection h with h; subst h
  repeat' first
    | decide
    | with_reducible exact Kept.refl _ _
    | with_reducible assumption
    | with_reducible refine Kept.ite ?_ ?_
    | with_reducible apply Kept.step (kept_doSignal _ _ _ _)
    | with_reducible (show Kept _ _ _; refine Kept.mk ?_)
    | split
    | dsimp only

theorem kept_execClaspWait (who : ClaspAgent) (id target : Nat) (s : State) : ∀ t', execClaspWait who id target s = .next t' → Kept 0x21c0320822 s t' := by
  intro t2 h
  unfold execClaspWait at h
  refine kept_unlessDown h (fun t2 h => ?_)
  injection h with h; subst h
  repeat' first
    | decide
    | with_reducible exact Kept.refl _ _
    | with_reducible assumption
    | with_reducible refine Kept.ite ?_ ?_
    | with_reducible apply Kept.step (kept_doWait _ _ _ _)
    | with_reducible (show Kept _ _ _; refine Kept.mk ?_)
    | split
    | dsimp only

theorem kept_execClaspArrive (who : ClaspAgent) (id target : Nat) (s : State) : ∀ t', execClaspArrive who id target s = .next t' → Kept 0x21c0722822 s t' := by
  intro t2 h
  unfold execClaspArrive at h
  refine kept_unlessDown h (fun t2 h => ?_)
  injection h with h; subst h
  repeat' first
    | decide
    | with_reducible exact Kept.refl _ _
    | with_reducible assumption
    | with_reducible refine Kept.ite ?_ ?_
    | with_reducible apply Kept.step (kept_doArrive _ _ _ _)
    | with_reducible (show Kept _ _ _; refine Kept.mk ?_)
    | split
    | dsimp only

theorem kept_execClaspReset (who : ClaspAgent) (id : Nat) (s : State) : ∀ t', execClaspReset who id s = .next t' → Kept 0x21c0722822 s t' := by
  intro t2 h
  unfold execClaspReset at h
  refine kept_unlessDown h (fun t2 h => ?_)
  injection h with h; subst h
  repeat' first
    | decide
    | with_reducible exact Kept.refl _ _
    | with_reducible assumption
    | with_reducible refine Kept.ite ?_ ?_
    | with_reducible apply Kept.step (kept_doReset _ _ _)
    | with_reducible (show Kept _ _ _; refine Kept.mk ?_)
    | split
    | dsimp only

theorem kept_execClaspFail (who : ClaspAgent) (id : Nat) (s : State) : ∀ t', execClaspFail who id s = .next t' → Kept 0x21c0722822 s t' := by
  intro t2 h
  unfold execClaspFail at h
  refine kept_unlessDown h (fun t2 h => ?_)
  injection h with h; subst h
  repeat' first
    | decide
    | with_reducible exact Kept.refl _ _
    | with_reducible assumption
    | with_reducible refine Kept.ite ?_ ?_
    | with_reducible apply Kept.step (kept_doFail _ _ _)
    | with_reducible (show Kept _ _ _; refine Kept.mk ?_)
    | split
    | dsimp only

end Sys2Proof.Machine
end

