-- ==== Sys2Proof/Laws/State.lean ====
section
/-! SUPPORT. The updates of the state: what each leaves as it was, field by field, and what a map or a named part
reads after it. -/

set_option Elab.async false

namespace Sys2Proof.Machine

section Maps
variable {α : Type}

@[simp] theorem mfind_mput_same (m : SMap α) (k : Nat) (v : α) : mfind (mput m k v) k = some v := by
  induction m with
  | nil => simp [mput, mfind]
  | cons p t ih =>
    obtain ⟨a, w⟩ := p
    unfold mput
    split
    · simp [mfind]
    · split
      · simp [mfind]
      · rename_i h; simp only [mfind, if_neg (Ne.symm h)]; exact ih

theorem mfind_mput_other (m : SMap α) (k j : Nat) (v : α) (h : j ≠ k) : mfind (mput m k v) j = mfind m j := by
  induction m with
  | nil => simp [mput, mfind, Ne.symm h]
  | cons p t ih =>
    obtain ⟨a, w⟩ := p
    unfold mput
    split
    · simp [mfind, Ne.symm h]
    · split
      · rename_i e; simp [mfind, Ne.symm h, ← e]
      · simp only [mfind]; split
        · rfl
        · exact ih

theorem mfind_mput (m : SMap α) (k j : Nat) (v : α) : mfind (mput m k v) j = if j = k then some v else mfind m j := by
  split
  · rename_i h; rw [h, mfind_mput_same]
  · rename_i h; exact mfind_mput_other m k j v h

@[simp] theorem mget_mput_same (m : SMap α) (k : Nat) (v d : α) : mget (mput m k v) k d = v := by simp [mget]

theorem mget_mput_other (m : SMap α) (k j : Nat) (v d : α) (h : j ≠ k) : mget (mput m k v) j d = mget m j d := by
  simp [mget, mfind_mput_other m k j v h]

theorem mget_mput (m : SMap α) (k j : Nat) (v d : α) : mget (mput m k v) j d = if j = k then v else mget m j d := by
  split
  · rename_i h; rw [h, mget_mput_same]
  · rename_i h; exact mget_mput_other m k j v d h

theorem mget_mupd (m : SMap α) (k j : Nat) (d : α) (f : α → α) :
    mget (mupd m k d f) j d = if j = k then f (mget m k d) else mget m j d := mget_mput ..

theorem mfind_mdel (m : SMap α) (k j : Nat) : mfind (mdel m k) j = if j = k then none else mfind m j := by
  induction m with
  | nil => simp [mdel, mfind]
  | cons p t ih =>
    obtain ⟨a, w⟩ := p
    unfold mdel at ih ⊢
    by_cases h : a = k
    · subst h; simp only [List.filter_cons, ne_eq, not_true_eq_false, decide_false, Bool.false_eq_true, if_false, ih, mfind]
      by_cases g : j = a
      · simp [g]
      · simp [g, Ne.symm g]
    · simp only [List.filter_cons, ne_eq, h, not_false_eq_true, decide_true, if_true, mfind, ih]
      by_cases g : a = j
      · subst g; simp [h]
      · simp [g]

end Maps

theorem mem_sIns (x y : Nat) (l : List Nat) : y ∈ sIns x l ↔ y = x ∨ y ∈ l := by
  induction l with
  | nil => simp [sIns]
  | cons a t ih =>
    unfold sIns
    split
    · simp
    · split
      · rename_i h; subst h; simp
      · simp [ih]; tauto

theorem mem_sDel (x y : Nat) (l : List Nat) : y ∈ sDel x l ↔ y ∈ l ∧ y ≠ x := by simp [sDel]

/-! ## updUnit -/

@[simp] theorem updUnit_now (s : State) (u : Nat) (f : UnitSt → UnitSt) : (s.updUnit u f).now = s.now := rfl
@[simp] theorem updUnit_freeCtr (s : State) (u : Nat) (f : UnitSt → UnitSt) : (s.updUnit u f).freeCtr = s.freeCtr := rfl
@[simp] theorem updUnit_dev (s : State) (u : Nat) (f : UnitSt → UnitSt) : (s.updUnit u f).dev = s.dev := rfl
@[simp] theorem updUnit_set (s : State) (u : Nat) (f : UnitSt → UnitSt) : (s.updUnit u f).set = s.set := rfl
@[simp] theorem updUnit_frm (s : State) (u : Nat) (f : UnitSt → UnitSt) : (s.updUnit u f).frm = s.frm := rfl
@[simp] theorem updUnit_beads (s : State) (u : Nat) (f : UnitSt → UnitSt) : (s.updUnit u f).beads = s.beads := rfl
@[simp] theorem updUnit_merges (s : State) (u : Nat) (f : UnitSt → UnitSt) : (s.updUnit u f).merges = s.merges := rfl
@[simp] theorem updUnit_mtWait (s : State) (u : Nat) (f : UnitSt → UnitSt) : (s.updUnit u f).mtWait = s.mtWait := rfl
@[simp] theorem updUnit_colls (s : State) (u : Nat) (f : UnitSt → UnitSt) : (s.updUnit u f).colls = s.colls := rfl
@[simp] theorem updUnit_early (s : State) (u : Nat) (f : UnitSt → UnitSt) : (s.updUnit u f).early = s.early := rfl
@[simp] theorem updUnit_clasps (s : State) (u : Nat) (f : UnitSt → UnitSt) : (s.updUnit u f).clasps = s.clasps := rfl
@[simp] theorem updUnit_claspSnap (s : State) (u : Nat) (f : UnitSt → UnitSt) : (s.updUnit u f).claspSnap = s.claspSnap := rfl
@[simp] theorem updUnit_stalledOps (s : State) (u : Nat) (f : UnitSt → UnitSt) : (s.updUnit u f).stalledOps = s.stalledOps := rfl
@[simp] theorem updUnit_sessions (s : State) (u : Nat) (f : UnitSt → UnitSt) : (s.updUnit u f).sessions = s.sessions := rfl
@[simp] theorem updUnit_quota (s : State) (u : Nat) (f : UnitSt → UnitSt) : (s.updUnit u f).quota = s.quota := rfl
@[simp] theorem updUnit_sesReserved (s : State) (u : Nat) (f : UnitSt → UnitSt) : (s.updUnit u f).sesReserved = s.sesReserved := rfl
@[simp] theorem updUnit_mem (s : State) (u : Nat) (f : UnitSt → UnitSt) : (s.updUnit u f).mem = s.mem := rfl
@[simp] theorem updUnit_bpm (s : State) (u : Nat) (f : UnitSt → UnitSt) : (s.updUnit u f).bpm = s.bpm := rfl
@[simp] theorem updUnit_fil (s : State) (u : Nat) (f : UnitSt → UnitSt) : (s.updUnit u f).fil = s.fil := rfl
@[simp] theorem updUnit_net (s : State) (u : Nat) (f : UnitSt → UnitSt) : (s.updUnit u f).net = s.net := rfl
@[simp] theorem updUnit_fns (s : State) (u : Nat) (f : UnitSt → UnitSt) : (s.updUnit u f).fns = s.fns := rfl
@[simp] theorem updUnit_wins (s : State) (u : Nat) (f : UnitSt → UnitSt) : (s.updUnit u f).wins = s.wins := rfl
@[simp] theorem updUnit_halves (s : State) (u : Nat) (f : UnitSt → UnitSt) : (s.updUnit u f).halves = s.halves := rfl
@[simp] theorem updUnit_perst (s : State) (u : Nat) (f : UnitSt → UnitSt) : (s.updUnit u f).perst = s.perst := rfl
@[simp] theorem updUnit_hmk (s : State) (u : Nat) (f : UnitSt → UnitSt) : (s.updUnit u f).hmk = s.hmk := rfl
@[simp] theorem updUnit_pwr (s : State) (u : Nat) (f : UnitSt → UnitSt) : (s.updUnit u f).pwr = s.pwr := rfl
@[simp] theorem updUnit_mgt (s : State) (u : Nat) (f : UnitSt → UnitSt) : (s.updUnit u f).mgt = s.mgt := rfl
@[simp] theorem updUnit_jtag (s : State) (u : Nat) (f : UnitSt → UnitSt) : (s.updUnit u f).jtag = s.jtag := rfl
@[simp] theorem updUnit_ras (s : State) (u : Nat) (f : UnitSt → UnitSt) : (s.updUnit u f).ras = s.ras := rfl
@[simp] theorem updUnit_errGlobal (s : State) (u : Nat) (f : UnitSt → UnitSt) : (s.updUnit u f).errGlobal = s.errGlobal := rfl
@[simp] theorem updUnit_errUnit (s : State) (u : Nat) (f : UnitSt → UnitSt) : (s.updUnit u f).errUnit = s.errUnit := rfl
@[simp] theorem updUnit_errCnt (s : State) (u : Nat) (f : UnitSt → UnitSt) : (s.updUnit u f).errCnt = s.errCnt := rfl
@[simp] theorem updUnit_filFi (s : State) (u : Nat) (f : UnitSt → UnitSt) : (s.updUnit u f).filFi = s.filFi := rfl
@[simp] theorem updUnit_netFi (s : State) (u : Nat) (f : UnitSt → UnitSt) : (s.updUnit u f).netFi = s.netFi := rfl
@[simp] theorem updUnit_sel (s : State) (u : Nat) (f : UnitSt → UnitSt) : (s.updUnit u f).sel = s.sel := rfl
@[simp] theorem updUnit_serial (s : State) (u : Nat) (f : UnitSt → UnitSt) : (s.updUnit u f).serial = s.serial := rfl
@[simp] theorem updUnit_out (s : State) (u : Nat) (f : UnitSt → UnitSt) : (s.updUnit u f).out = s.out := rfl
@[simp] theorem updUnit_pending (s : State) (u : Nat) (f : UnitSt → UnitSt) : (s.updUnit u f).pending = s.pending := rfl

/-! ## updClasp -/

@[simp] theorem updClasp_now (s : State) (id : Nat) (f : Clasp → Clasp) : (s.updClasp id f).now = s.now := rfl
@[simp] theorem updClasp_freeCtr (s : State) (id : Nat) (f : Clasp → Clasp) : (s.updClasp id f).freeCtr = s.freeCtr := rfl
@[simp] theorem updClasp_dev (s : State) (id : Nat) (f : Clasp → Clasp) : (s.updClasp id f).dev = s.dev := rfl
@[simp] theorem updClasp_set (s : State) (id : Nat) (f : Clasp → Clasp) : (s.updClasp id f).set = s.set := rfl
@[simp] theorem updClasp_frm (s : State) (id : Nat) (f : Clasp → Clasp) : (s.updClasp id f).frm = s.frm := rfl
@[simp] theorem updClasp_beads (s : State) (id : Nat) (f : Clasp → Clasp) : (s.updClasp id f).beads = s.beads := rfl
@[simp] theorem updClasp_units (s : State) (id : Nat) (f : Clasp → Clasp) : (s.updClasp id f).units = s.units := rfl
@[simp] theorem updClasp_merges (s : State) (id : Nat) (f : Clasp → Clasp) : (s.updClasp id f).merges = s.merges := rfl
@[simp] theorem updClasp_mtWait (s : State) (id : Nat) (f : Clasp → Clasp) : (s.updClasp id f).mtWait = s.mtWait := rfl
@[simp] theorem updClasp_colls (s : State) (id : Nat) (f : Clasp → Clasp) : (s.updClasp id f).colls = s.colls := rfl
@[simp] theorem updClasp_early (s : State) (id : Nat) (f : Clasp → Clasp) : (s.updClasp id f).early = s.early := rfl
@[simp] theorem updClasp_claspSnap (s : State) (id : Nat) (f : Clasp → Clasp) : (s.updClasp id f).claspSnap = s.claspSnap := rfl
@[simp] theorem updClasp_stalledOps (s : State) (id : Nat) (f : Clasp → Clasp) : (s.updClasp id f).stalledOps = s.stalledOps := rfl
@[simp] theorem updClasp_sessions (s : State) (id : Nat) (f : Clasp → Clasp) : (s.updClasp id f).sessions = s.sessions := rfl
@[simp] theorem updClasp_quota (s : State) (id : Nat) (f : Clasp → Clasp) : (s.updClasp id f).quota = s.quota := rfl
@[simp] theorem updClasp_sesReserved (s : State) (id : Nat) (f : Clasp → Clasp) : (s.updClasp id f).sesReserved = s.sesReserved := rfl
@[simp] theorem updClasp_mem (s : State) (id : Nat) (f : Clasp → Clasp) : (s.updClasp id f).mem = s.mem := rfl
@[simp] theorem updClasp_bpm (s : State) (id : Nat) (f : Clasp → Clasp) : (s.updClasp id f).bpm = s.bpm := rfl
@[simp] theorem updClasp_fil (s : State) (id : Nat) (f : Clasp → Clasp) : (s.updClasp id f).fil = s.fil := rfl
@[simp] theorem updClasp_net (s : State) (id : Nat) (f : Clasp → Clasp) : (s.updClasp id f).net = s.net := rfl
@[simp] theorem updClasp_fns (s : State) (id : Nat) (f : Clasp → Clasp) : (s.updClasp id f).fns = s.fns := rfl
@[simp] theorem updClasp_wins (s : State) (id : Nat) (f : Clasp → Clasp) : (s.updClasp id f).wins = s.wins := rfl
@[simp] theorem updClasp_halves (s : State) (id : Nat) (f : Clasp → Clasp) : (s.updClasp id f).halves = s.halves := rfl
@[simp] theorem updClasp_perst (s : State) (id : Nat) (f : Clasp → Clasp) : (s.updClasp id f).perst = s.perst := rfl
@[simp] theorem updClasp_hmk (s : State) (id : Nat) (f : Clasp → Clasp) : (s.updClasp id f).hmk = s.hmk := rfl
@[simp] theorem updClasp_pwr (s : State) (id : Nat) (f : Clasp → Clasp) : (s.updClasp id f).pwr = s.pwr := rfl
@[simp] theorem updClasp_mgt (s : State) (id : Nat) (f : Clasp → Clasp) : (s.updClasp id f).mgt = s.mgt := rfl
@[simp] theorem updClasp_jtag (s : State) (id : Nat) (f : Clasp → Clasp) : (s.updClasp id f).jtag = s.jtag := rfl
@[simp] theorem updClasp_ras (s : State) (id : Nat) (f : Clasp → Clasp) : (s.updClasp id f).ras = s.ras := rfl
@[simp] theorem updClasp_errGlobal (s : State) (id : Nat) (f : Clasp → Clasp) : (s.updClasp id f).errGlobal = s.errGlobal := rfl
@[simp] theorem updClasp_errUnit (s : State) (id : Nat) (f : Clasp → Clasp) : (s.updClasp id f).errUnit = s.errUnit := rfl
@[simp] theorem updClasp_errCnt (s : State) (id : Nat) (f : Clasp → Clasp) : (s.updClasp id f).errCnt = s.errCnt := rfl
@[simp] theorem updClasp_filFi (s : State) (id : Nat) (f : Clasp → Clasp) : (s.updClasp id f).filFi = s.filFi := rfl
@[simp] theorem updClasp_netFi (s : State) (id : Nat) (f : Clasp → Clasp) : (s.updClasp id f).netFi = s.netFi := rfl
@[simp] theorem updClasp_sel (s : State) (id : Nat) (f : Clasp → Clasp) : (s.updClasp id f).sel = s.sel := rfl
@[simp] theorem updClasp_serial (s : State) (id : Nat) (f : Clasp → Clasp) : (s.updClasp id f).serial = s.serial := rfl
@[simp] theorem updClasp_out (s : State) (id : Nat) (f : Clasp → Clasp) : (s.updClasp id f).out = s.out := rfl
@[simp] theorem updClasp_pending (s : State) (id : Nat) (f : Clasp → Clasp) : (s.updClasp id f).pending = s.pending := rfl

/-! ## updColl -/

@[simp] theorem updColl_now (s : State) (i : Nat) (f : Coll → Coll) : (s.updColl i f).now = s.now := rfl
@[simp] theorem updColl_freeCtr (s : State) (i : Nat) (f : Coll → Coll) : (s.updColl i f).freeCtr = s.freeCtr := rfl
@[simp] theorem updColl_dev (s : State) (i : Nat) (f : Coll → Coll) : (s.updColl i f).dev = s.dev := rfl
@[simp] theorem updColl_set (s : State) (i : Nat) (f : Coll → Coll) : (s.updColl i f).set = s.set := rfl
@[simp] theorem updColl_frm (s : State) (i : Nat) (f : Coll → Coll) : (s.updColl i f).frm = s.frm := rfl
@[simp] theorem updColl_beads (s : State) (i : Nat) (f : Coll → Coll) : (s.updColl i f).beads = s.beads := rfl
@[simp] theorem updColl_units (s : State) (i : Nat) (f : Coll → Coll) : (s.updColl i f).units = s.units := rfl
@[simp] theorem updColl_merges (s : State) (i : Nat) (f : Coll → Coll) : (s.updColl i f).merges = s.merges := rfl
@[simp] theorem updColl_mtWait (s : State) (i : Nat) (f : Coll → Coll) : (s.updColl i f).mtWait = s.mtWait := rfl
@[simp] theorem updColl_early (s : State) (i : Nat) (f : Coll → Coll) : (s.updColl i f).early = s.early := rfl
@[simp] theorem updColl_clasps (s : State) (i : Nat) (f : Coll → Coll) : (s.updColl i f).clasps = s.clasps := rfl
@[simp] theorem updColl_claspSnap (s : State) (i : Nat) (f : Coll → Coll) : (s.updColl i f).claspSnap = s.claspSnap := rfl
@[simp] theorem updColl_stalledOps (s : State) (i : Nat) (f : Coll → Coll) : (s.updColl i f).stalledOps = s.stalledOps := rfl
@[simp] theorem updColl_sessions (s : State) (i : Nat) (f : Coll → Coll) : (s.updColl i f).sessions = s.sessions := rfl
@[simp] theorem updColl_quota (s : State) (i : Nat) (f : Coll → Coll) : (s.updColl i f).quota = s.quota := rfl
@[simp] theorem updColl_sesReserved (s : State) (i : Nat) (f : Coll → Coll) : (s.updColl i f).sesReserved = s.sesReserved := rfl
@[simp] theorem updColl_mem (s : State) (i : Nat) (f : Coll → Coll) : (s.updColl i f).mem = s.mem := rfl
@[simp] theorem updColl_bpm (s : State) (i : Nat) (f : Coll → Coll) : (s.updColl i f).bpm = s.bpm := rfl
@[simp] theorem updColl_fil (s : State) (i : Nat) (f : Coll → Coll) : (s.updColl i f).fil = s.fil := rfl
@[simp] theorem updColl_net (s : State) (i : Nat) (f : Coll → Coll) : (s.updColl i f).net = s.net := rfl
@[simp] theorem updColl_fns (s : State) (i : Nat) (f : Coll → Coll) : (s.updColl i f).fns = s.fns := rfl
@[simp] theorem updColl_wins (s : State) (i : Nat) (f : Coll → Coll) : (s.updColl i f).wins = s.wins := rfl
@[simp] theorem updColl_halves (s : State) (i : Nat) (f : Coll → Coll) : (s.updColl i f).halves = s.halves := rfl
@[simp] theorem updColl_perst (s : State) (i : Nat) (f : Coll → Coll) : (s.updColl i f).perst = s.perst := rfl
@[simp] theorem updColl_hmk (s : State) (i : Nat) (f : Coll → Coll) : (s.updColl i f).hmk = s.hmk := rfl
@[simp] theorem updColl_pwr (s : State) (i : Nat) (f : Coll → Coll) : (s.updColl i f).pwr = s.pwr := rfl
@[simp] theorem updColl_mgt (s : State) (i : Nat) (f : Coll → Coll) : (s.updColl i f).mgt = s.mgt := rfl
@[simp] theorem updColl_jtag (s : State) (i : Nat) (f : Coll → Coll) : (s.updColl i f).jtag = s.jtag := rfl
@[simp] theorem updColl_ras (s : State) (i : Nat) (f : Coll → Coll) : (s.updColl i f).ras = s.ras := rfl
@[simp] theorem updColl_errGlobal (s : State) (i : Nat) (f : Coll → Coll) : (s.updColl i f).errGlobal = s.errGlobal := rfl
@[simp] theorem updColl_errUnit (s : State) (i : Nat) (f : Coll → Coll) : (s.updColl i f).errUnit = s.errUnit := rfl
@[simp] theorem updColl_errCnt (s : State) (i : Nat) (f : Coll → Coll) : (s.updColl i f).errCnt = s.errCnt := rfl
@[simp] theorem updColl_filFi (s : State) (i : Nat) (f : Coll → Coll) : (s.updColl i f).filFi = s.filFi := rfl
@[simp] theorem updColl_netFi (s : State) (i : Nat) (f : Coll → Coll) : (s.updColl i f).netFi = s.netFi := rfl
@[simp] theorem updColl_sel (s : State) (i : Nat) (f : Coll → Coll) : (s.updColl i f).sel = s.sel := rfl
@[simp] theorem updColl_serial (s : State) (i : Nat) (f : Coll → Coll) : (s.updColl i f).serial = s.serial := rfl
@[simp] theorem updColl_out (s : State) (i : Nat) (f : Coll → Coll) : (s.updColl i f).out = s.out := rfl
@[simp] theorem updColl_pending (s : State) (i : Nat) (f : Coll → Coll) : (s.updColl i f).pending = s.pending := rfl

/-! ## updMerge -/

@[simp] theorem updMerge_now (s : State) (i : Nat) (f : Merge → Merge) : (s.updMerge i f).now = s.now := rfl
@[simp] theorem updMerge_freeCtr (s : State) (i : Nat) (f : Merge → Merge) : (s.updMerge i f).freeCtr = s.freeCtr := rfl
@[simp] theorem updMerge_dev (s : State) (i : Nat) (f : Merge → Merge) : (s.updMerge i f).dev = s.dev := rfl
@[simp] theorem updMerge_set (s : State) (i : Nat) (f : Merge → Merge) : (s.updMerge i f).set = s.set := rfl
@[simp] theorem updMerge_frm (s : State) (i : Nat) (f : Merge → Merge) : (s.updMerge i f).frm = s.frm := rfl
@[simp] theorem updMerge_beads (s : State) (i : Nat) (f : Merge → Merge) : (s.updMerge i f).beads = s.beads := rfl
@[simp] theorem updMerge_units (s : State) (i : Nat) (f : Merge → Merge) : (s.updMerge i f).units = s.units := rfl
@[simp] theorem updMerge_mtWait (s : State) (i : Nat) (f : Merge → Merge) : (s.updMerge i f).mtWait = s.mtWait := rfl
@[simp] theorem updMerge_colls (s : State) (i : Nat) (f : Merge → Merge) : (s.updMerge i f).colls = s.colls := rfl
@[simp] theorem updMerge_early (s : State) (i : Nat) (f : Merge → Merge) : (s.updMerge i f).early = s.early := rfl
@[simp] theorem updMerge_clasps (s : State) (i : Nat) (f : Merge → Merge) : (s.updMerge i f).clasps = s.clasps := rfl
@[simp] theorem updMerge_claspSnap (s : State) (i : Nat) (f : Merge → Merge) : (s.updMerge i f).claspSnap = s.claspSnap := rfl
@[simp] theorem updMerge_stalledOps (s : State) (i : Nat) (f : Merge → Merge) : (s.updMerge i f).stalledOps = s.stalledOps := rfl
@[simp] theorem updMerge_sessions (s : State) (i : Nat) (f : Merge → Merge) : (s.updMerge i f).sessions = s.sessions := rfl
@[simp] theorem updMerge_quota (s : State) (i : Nat) (f : Merge → Merge) : (s.updMerge i f).quota = s.quota := rfl
@[simp] theorem updMerge_sesReserved (s : State) (i : Nat) (f : Merge → Merge) : (s.updMerge i f).sesReserved = s.sesReserved := rfl
@[simp] theorem updMerge_mem (s : State) (i : Nat) (f : Merge → Merge) : (s.updMerge i f).mem = s.mem := rfl
@[simp] theorem updMerge_bpm (s : State) (i : Nat) (f : Merge → Merge) : (s.updMerge i f).bpm = s.bpm := rfl
@[simp] theorem updMerge_fil (s : State) (i : Nat) (f : Merge → Merge) : (s.updMerge i f).fil = s.fil := rfl
@[simp] theorem updMerge_net (s : State) (i : Nat) (f : Merge → Merge) : (s.updMerge i f).net = s.net := rfl
@[simp] theorem updMerge_fns (s : State) (i : Nat) (f : Merge → Merge) : (s.updMerge i f).fns = s.fns := rfl
@[simp] theorem updMerge_wins (s : State) (i : Nat) (f : Merge → Merge) : (s.updMerge i f).wins = s.wins := rfl
@[simp] theorem updMerge_halves (s : State) (i : Nat) (f : Merge → Merge) : (s.updMerge i f).halves = s.halves := rfl
@[simp] theorem updMerge_perst (s : State) (i : Nat) (f : Merge → Merge) : (s.updMerge i f).perst = s.perst := rfl
@[simp] theorem updMerge_hmk (s : State) (i : Nat) (f : Merge → Merge) : (s.updMerge i f).hmk = s.hmk := rfl
@[simp] theorem updMerge_pwr (s : State) (i : Nat) (f : Merge → Merge) : (s.updMerge i f).pwr = s.pwr := rfl
@[simp] theorem updMerge_mgt (s : State) (i : Nat) (f : Merge → Merge) : (s.updMerge i f).mgt = s.mgt := rfl
@[simp] theorem updMerge_jtag (s : State) (i : Nat) (f : Merge → Merge) : (s.updMerge i f).jtag = s.jtag := rfl
@[simp] theorem updMerge_ras (s : State) (i : Nat) (f : Merge → Merge) : (s.updMerge i f).ras = s.ras := rfl
@[simp] theorem updMerge_errGlobal (s : State) (i : Nat) (f : Merge → Merge) : (s.updMerge i f).errGlobal = s.errGlobal := rfl
@[simp] theorem updMerge_errUnit (s : State) (i : Nat) (f : Merge → Merge) : (s.updMerge i f).errUnit = s.errUnit := rfl
@[simp] theorem updMerge_errCnt (s : State) (i : Nat) (f : Merge → Merge) : (s.updMerge i f).errCnt = s.errCnt := rfl
@[simp] theorem updMerge_filFi (s : State) (i : Nat) (f : Merge → Merge) : (s.updMerge i f).filFi = s.filFi := rfl
@[simp] theorem updMerge_netFi (s : State) (i : Nat) (f : Merge → Merge) : (s.updMerge i f).netFi = s.netFi := rfl
@[simp] theorem updMerge_sel (s : State) (i : Nat) (f : Merge → Merge) : (s.updMerge i f).sel = s.sel := rfl
@[simp] theorem updMerge_serial (s : State) (i : Nat) (f : Merge → Merge) : (s.updMerge i f).serial = s.serial := rfl
@[simp] theorem updMerge_out (s : State) (i : Nat) (f : Merge → Merge) : (s.updMerge i f).out = s.out := rfl
@[simp] theorem updMerge_pending (s : State) (i : Nat) (f : Merge → Merge) : (s.updMerge i f).pending = s.pending := rfl

/-! ## updSub -/

@[simp] theorem updSub_now (s : State) (k : Nat) (f : SubCh → SubCh) : (s.updSub k f).now = s.now := rfl
@[simp] theorem updSub_freeCtr (s : State) (k : Nat) (f : SubCh → SubCh) : (s.updSub k f).freeCtr = s.freeCtr := rfl
@[simp] theorem updSub_dev (s : State) (k : Nat) (f : SubCh → SubCh) : (s.updSub k f).dev = s.dev := rfl
@[simp] theorem updSub_set (s : State) (k : Nat) (f : SubCh → SubCh) : (s.updSub k f).set = s.set := rfl
@[simp] theorem updSub_frm (s : State) (k : Nat) (f : SubCh → SubCh) : (s.updSub k f).frm = s.frm := rfl
@[simp] theorem updSub_beads (s : State) (k : Nat) (f : SubCh → SubCh) : (s.updSub k f).beads = s.beads := rfl
@[simp] theorem updSub_units (s : State) (k : Nat) (f : SubCh → SubCh) : (s.updSub k f).units = s.units := rfl
@[simp] theorem updSub_merges (s : State) (k : Nat) (f : SubCh → SubCh) : (s.updSub k f).merges = s.merges := rfl
@[simp] theorem updSub_mtWait (s : State) (k : Nat) (f : SubCh → SubCh) : (s.updSub k f).mtWait = s.mtWait := rfl
@[simp] theorem updSub_colls (s : State) (k : Nat) (f : SubCh → SubCh) : (s.updSub k f).colls = s.colls := rfl
@[simp] theorem updSub_early (s : State) (k : Nat) (f : SubCh → SubCh) : (s.updSub k f).early = s.early := rfl
@[simp] theorem updSub_clasps (s : State) (k : Nat) (f : SubCh → SubCh) : (s.updSub k f).clasps = s.clasps := rfl
@[simp] theorem updSub_claspSnap (s : State) (k : Nat) (f : SubCh → SubCh) : (s.updSub k f).claspSnap = s.claspSnap := rfl
@[simp] theorem updSub_stalledOps (s : State) (k : Nat) (f : SubCh → SubCh) : (s.updSub k f).stalledOps = s.stalledOps := rfl
@[simp] theorem updSub_sessions (s : State) (k : Nat) (f : SubCh → SubCh) : (s.updSub k f).sessions = s.sessions := rfl
@[simp] theorem updSub_quota (s : State) (k : Nat) (f : SubCh → SubCh) : (s.updSub k f).quota = s.quota := rfl
@[simp] theorem updSub_sesReserved (s : State) (k : Nat) (f : SubCh → SubCh) : (s.updSub k f).sesReserved = s.sesReserved := rfl
@[simp] theorem updSub_mem (s : State) (k : Nat) (f : SubCh → SubCh) : (s.updSub k f).mem = s.mem := rfl
@[simp] theorem updSub_bpm (s : State) (k : Nat) (f : SubCh → SubCh) : (s.updSub k f).bpm = s.bpm := rfl
@[simp] theorem updSub_net (s : State) (k : Nat) (f : SubCh → SubCh) : (s.updSub k f).net = s.net := rfl
@[simp] theorem updSub_fns (s : State) (k : Nat) (f : SubCh → SubCh) : (s.updSub k f).fns = s.fns := rfl
@[simp] theorem updSub_wins (s : State) (k : Nat) (f : SubCh → SubCh) : (s.updSub k f).wins = s.wins := rfl
@[simp] theorem updSub_halves (s : State) (k : Nat) (f : SubCh → SubCh) : (s.updSub k f).halves = s.halves := rfl
@[simp] theorem updSub_perst (s : State) (k : Nat) (f : SubCh → SubCh) : (s.updSub k f).perst = s.perst := rfl
@[simp] theorem updSub_hmk (s : State) (k : Nat) (f : SubCh → SubCh) : (s.updSub k f).hmk = s.hmk := rfl
@[simp] theorem updSub_pwr (s : State) (k : Nat) (f : SubCh → SubCh) : (s.updSub k f).pwr = s.pwr := rfl
@[simp] theorem updSub_mgt (s : State) (k : Nat) (f : SubCh → SubCh) : (s.updSub k f).mgt = s.mgt := rfl
@[simp] theorem updSub_jtag (s : State) (k : Nat) (f : SubCh → SubCh) : (s.updSub k f).jtag = s.jtag := rfl
@[simp] theorem updSub_ras (s : State) (k : Nat) (f : SubCh → SubCh) : (s.updSub k f).ras = s.ras := rfl
@[simp] theorem updSub_errGlobal (s : State) (k : Nat) (f : SubCh → SubCh) : (s.updSub k f).errGlobal = s.errGlobal := rfl
@[simp] theorem updSub_errUnit (s : State) (k : Nat) (f : SubCh → SubCh) : (s.updSub k f).errUnit = s.errUnit := rfl
@[simp] theorem updSub_errCnt (s : State) (k : Nat) (f : SubCh → SubCh) : (s.updSub k f).errCnt = s.errCnt := rfl
@[simp] theorem updSub_filFi (s : State) (k : Nat) (f : SubCh → SubCh) : (s.updSub k f).filFi = s.filFi := rfl
@[simp] theorem updSub_netFi (s : State) (k : Nat) (f : SubCh → SubCh) : (s.updSub k f).netFi = s.netFi := rfl
@[simp] theorem updSub_sel (s : State) (k : Nat) (f : SubCh → SubCh) : (s.updSub k f).sel = s.sel := rfl
@[simp] theorem updSub_serial (s : State) (k : Nat) (f : SubCh → SubCh) : (s.updSub k f).serial = s.serial := rfl
@[simp] theorem updSub_out (s : State) (k : Nat) (f : SubCh → SubCh) : (s.updSub k f).out = s.out := rfl
@[simp] theorem updSub_pending (s : State) (k : Nat) (f : SubCh → SubCh) : (s.updSub k f).pending = s.pending := rfl

/-! ## setConn -/

@[simp] theorem setConn_now (s : State) (i : Nat) (c : SpdmConn) : (s.setConn i c).now = s.now := rfl
@[simp] theorem setConn_freeCtr (s : State) (i : Nat) (c : SpdmConn) : (s.setConn i c).freeCtr = s.freeCtr := rfl
@[simp] theorem setConn_dev (s : State) (i : Nat) (c : SpdmConn) : (s.setConn i c).dev = s.dev := rfl
@[simp] theorem setConn_set (s : State) (i : Nat) (c : SpdmConn) : (s.setConn i c).set = s.set := rfl
@[simp] theorem setConn_frm (s : State) (i : Nat) (c : SpdmConn) : (s.setConn i c).frm = s.frm := rfl
@[simp] theorem setConn_beads (s : State) (i : Nat) (c : SpdmConn) : (s.setConn i c).beads = s.beads := rfl
@[simp] theorem setConn_units (s : State) (i : Nat) (c : SpdmConn) : (s.setConn i c).units = s.units := rfl
@[simp] theorem setConn_merges (s : State) (i : Nat) (c : SpdmConn) : (s.setConn i c).merges = s.merges := rfl
@[simp] theorem setConn_mtWait (s : State) (i : Nat) (c : SpdmConn) : (s.setConn i c).mtWait = s.mtWait := rfl
@[simp] theorem setConn_colls (s : State) (i : Nat) (c : SpdmConn) : (s.setConn i c).colls = s.colls := rfl
@[simp] theorem setConn_early (s : State) (i : Nat) (c : SpdmConn) : (s.setConn i c).early = s.early := rfl
@[simp] theorem setConn_clasps (s : State) (i : Nat) (c : SpdmConn) : (s.setConn i c).clasps = s.clasps := rfl
@[simp] theorem setConn_claspSnap (s : State) (i : Nat) (c : SpdmConn) : (s.setConn i c).claspSnap = s.claspSnap := rfl
@[simp] theorem setConn_stalledOps (s : State) (i : Nat) (c : SpdmConn) : (s.setConn i c).stalledOps = s.stalledOps := rfl
@[simp] theorem setConn_sessions (s : State) (i : Nat) (c : SpdmConn) : (s.setConn i c).sessions = s.sessions := rfl
@[simp] theorem setConn_quota (s : State) (i : Nat) (c : SpdmConn) : (s.setConn i c).quota = s.quota := rfl
@[simp] theorem setConn_sesReserved (s : State) (i : Nat) (c : SpdmConn) : (s.setConn i c).sesReserved = s.sesReserved := rfl
@[simp] theorem setConn_mem (s : State) (i : Nat) (c : SpdmConn) : (s.setConn i c).mem = s.mem := rfl
@[simp] theorem setConn_bpm (s : State) (i : Nat) (c : SpdmConn) : (s.setConn i c).bpm = s.bpm := rfl
@[simp] theorem setConn_fil (s : State) (i : Nat) (c : SpdmConn) : (s.setConn i c).fil = s.fil := rfl
@[simp] theorem setConn_net (s : State) (i : Nat) (c : SpdmConn) : (s.setConn i c).net = s.net := rfl
@[simp] theorem setConn_fns (s : State) (i : Nat) (c : SpdmConn) : (s.setConn i c).fns = s.fns := rfl
@[simp] theorem setConn_wins (s : State) (i : Nat) (c : SpdmConn) : (s.setConn i c).wins = s.wins := rfl
@[simp] theorem setConn_halves (s : State) (i : Nat) (c : SpdmConn) : (s.setConn i c).halves = s.halves := rfl
@[simp] theorem setConn_perst (s : State) (i : Nat) (c : SpdmConn) : (s.setConn i c).perst = s.perst := rfl
@[simp] theorem setConn_hmk (s : State) (i : Nat) (c : SpdmConn) : (s.setConn i c).hmk = s.hmk := rfl
@[simp] theorem setConn_pwr (s : State) (i : Nat) (c : SpdmConn) : (s.setConn i c).pwr = s.pwr := rfl
@[simp] theorem setConn_jtag (s : State) (i : Nat) (c : SpdmConn) : (s.setConn i c).jtag = s.jtag := rfl
@[simp] theorem setConn_ras (s : State) (i : Nat) (c : SpdmConn) : (s.setConn i c).ras = s.ras := rfl
@[simp] theorem setConn_errGlobal (s : State) (i : Nat) (c : SpdmConn) : (s.setConn i c).errGlobal = s.errGlobal := rfl
@[simp] theorem setConn_errUnit (s : State) (i : Nat) (c : SpdmConn) : (s.setConn i c).errUnit = s.errUnit := rfl
@[simp] theorem setConn_errCnt (s : State) (i : Nat) (c : SpdmConn) : (s.setConn i c).errCnt = s.errCnt := rfl
@[simp] theorem setConn_filFi (s : State) (i : Nat) (c : SpdmConn) : (s.setConn i c).filFi = s.filFi := rfl
@[simp] theorem setConn_netFi (s : State) (i : Nat) (c : SpdmConn) : (s.setConn i c).netFi = s.netFi := rfl
@[simp] theorem setConn_sel (s : State) (i : Nat) (c : SpdmConn) : (s.setConn i c).sel = s.sel := rfl
@[simp] theorem setConn_serial (s : State) (i : Nat) (c : SpdmConn) : (s.setConn i c).serial = s.serial := rfl
@[simp] theorem setConn_out (s : State) (i : Nat) (c : SpdmConn) : (s.setConn i c).out = s.out := rfl
@[simp] theorem setConn_pending (s : State) (i : Nat) (c : SpdmConn) : (s.setConn i c).pending = s.pending := rfl

/-! ## memWrite -/

@[simp] theorem memWrite_now (s : State) (a : Nat) (bs : List Byte) : (s.memWrite a bs).now = s.now := rfl
@[simp] theorem memWrite_freeCtr (s : State) (a : Nat) (bs : List Byte) : (s.memWrite a bs).freeCtr = s.freeCtr := rfl
@[simp] theorem memWrite_dev (s : State) (a : Nat) (bs : List Byte) : (s.memWrite a bs).dev = s.dev := rfl
@[simp] theorem memWrite_set (s : State) (a : Nat) (bs : List Byte) : (s.memWrite a bs).set = s.set := rfl
@[simp] theorem memWrite_frm (s : State) (a : Nat) (bs : List Byte) : (s.memWrite a bs).frm = s.frm := rfl
@[simp] theorem memWrite_beads (s : State) (a : Nat) (bs : List Byte) : (s.memWrite a bs).beads = s.beads := rfl
@[simp] theorem memWrite_units (s : State) (a : Nat) (bs : List Byte) : (s.memWrite a bs).units = s.units := rfl
@[simp] theorem memWrite_merges (s : State) (a : Nat) (bs : List Byte) : (s.memWrite a bs).merges = s.merges := rfl
@[simp] theorem memWrite_mtWait (s : State) (a : Nat) (bs : List Byte) : (s.memWrite a bs).mtWait = s.mtWait := rfl
@[simp] theorem memWrite_colls (s : State) (a : Nat) (bs : List Byte) : (s.memWrite a bs).colls = s.colls := rfl
@[simp] theorem memWrite_early (s : State) (a : Nat) (bs : List Byte) : (s.memWrite a bs).early = s.early := rfl
@[simp] theorem memWrite_clasps (s : State) (a : Nat) (bs : List Byte) : (s.memWrite a bs).clasps = s.clasps := rfl
@[simp] theorem memWrite_claspSnap (s : State) (a : Nat) (bs : List Byte) : (s.memWrite a bs).claspSnap = s.claspSnap := rfl
@[simp] theorem memWrite_stalledOps (s : State) (a : Nat) (bs : List Byte) : (s.memWrite a bs).stalledOps = s.stalledOps := rfl
@[simp] theorem memWrite_sessions (s : State) (a : Nat) (bs : List Byte) : (s.memWrite a bs).sessions = s.sessions := rfl
@[simp] theorem memWrite_quota (s : State) (a : Nat) (bs : List Byte) : (s.memWrite a bs).quota = s.quota := rfl
@[simp] theorem memWrite_sesReserved (s : State) (a : Nat) (bs : List Byte) : (s.memWrite a bs).sesReserved = s.sesReserved := rfl
@[simp] theorem memWrite_bpm (s : State) (a : Nat) (bs : List Byte) : (s.memWrite a bs).bpm = s.bpm := rfl
@[simp] theorem memWrite_fil (s : State) (a : Nat) (bs : List Byte) : (s.memWrite a bs).fil = s.fil := rfl
@[simp] theorem memWrite_net (s : State) (a : Nat) (bs : List Byte) : (s.memWrite a bs).net = s.net := rfl
@[simp] theorem memWrite_fns (s : State) (a : Nat) (bs : List Byte) : (s.memWrite a bs).fns = s.fns := rfl
@[simp] theorem memWrite_wins (s : State) (a : Nat) (bs : List Byte) : (s.memWrite a bs).wins = s.wins := rfl
@[simp] theorem memWrite_halves (s : State) (a : Nat) (bs : List Byte) : (s.memWrite a bs).halves = s.halves := rfl
@[simp] theorem memWrite_perst (s : State) (a : Nat) (bs : List Byte) : (s.memWrite a bs).perst = s.perst := rfl
@[simp] theorem memWrite_hmk (s : State) (a : Nat) (bs : List Byte) : (s.memWrite a bs).hmk = s.hmk := rfl
@[simp] theorem memWrite_pwr (s : State) (a : Nat) (bs : List Byte) : (s.memWrite a bs).pwr = s.pwr := rfl
@[simp] theorem memWrite_mgt (s : State) (a : Nat) (bs : List Byte) : (s.memWrite a bs).mgt = s.mgt := rfl
@[simp] theorem memWrite_jtag (s : State) (a : Nat) (bs : List Byte) : (s.memWrite a bs).jtag = s.jtag := rfl
@[simp] theorem memWrite_ras (s : State) (a : Nat) (bs : List Byte) : (s.memWrite a bs).ras = s.ras := rfl
@[simp] theorem memWrite_errGlobal (s : State) (a : Nat) (bs : List Byte) : (s.memWrite a bs).errGlobal = s.errGlobal := rfl
@[simp] theorem memWrite_errUnit (s : State) (a : Nat) (bs : List Byte) : (s.memWrite a bs).errUnit = s.errUnit := rfl
@[simp] theorem memWrite_errCnt (s : State) (a : Nat) (bs : List Byte) : (s.memWrite a bs).errCnt = s.errCnt := rfl
@[simp] theorem memWrite_filFi (s : State) (a : Nat) (bs : List Byte) : (s.memWrite a bs).filFi = s.filFi := rfl
@[simp] theorem memWrite_netFi (s : State) (a : Nat) (bs : List Byte) : (s.memWrite a bs).netFi = s.netFi := rfl
@[simp] theorem memWrite_sel (s : State) (a : Nat) (bs : List Byte) : (s.memWrite a bs).sel = s.sel := rfl
@[simp] theorem memWrite_serial (s : State) (a : Nat) (bs : List Byte) : (s.memWrite a bs).serial = s.serial := rfl
@[simp] theorem memWrite_out (s : State) (a : Nat) (bs : List Byte) : (s.memWrite a bs).out = s.out := rfl
@[simp] theorem memWrite_pending (s : State) (a : Nat) (bs : List Byte) : (s.memWrite a bs).pending = s.pending := rfl

/-! ## memFlush -/

@[simp] theorem memFlush_now (s : State) (a n : Nat) : (s.memFlush a n).now = s.now := rfl
@[simp] theorem memFlush_freeCtr (s : State) (a n : Nat) : (s.memFlush a n).freeCtr = s.freeCtr := rfl
@[simp] theorem memFlush_dev (s : State) (a n : Nat) : (s.memFlush a n).dev = s.dev := rfl
@[simp] theorem memFlush_set (s : State) (a n : Nat) : (s.memFlush a n).set = s.set := rfl
@[simp] theorem memFlush_frm (s : State) (a n : Nat) : (s.memFlush a n).frm = s.frm := rfl
@[simp] theorem memFlush_beads (s : State) (a n : Nat) : (s.memFlush a n).beads = s.beads := rfl
@[simp] theorem memFlush_units (s : State) (a n : Nat) : (s.memFlush a n).units = s.units := rfl
@[simp] theorem memFlush_merges (s : State) (a n : Nat) : (s.memFlush a n).merges = s.merges := rfl
@[simp] theorem memFlush_mtWait (s : State) (a n : Nat) : (s.memFlush a n).mtWait = s.mtWait := rfl
@[simp] theorem memFlush_colls (s : State) (a n : Nat) : (s.memFlush a n).colls = s.colls := rfl
@[simp] theorem memFlush_early (s : State) (a n : Nat) : (s.memFlush a n).early = s.early := rfl
@[simp] theorem memFlush_clasps (s : State) (a n : Nat) : (s.memFlush a n).clasps = s.clasps := rfl
@[simp] theorem memFlush_claspSnap (s : State) (a n : Nat) : (s.memFlush a n).claspSnap = s.claspSnap := rfl
@[simp] theorem memFlush_stalledOps (s : State) (a n : Nat) : (s.memFlush a n).stalledOps = s.stalledOps := rfl
@[simp] theorem memFlush_sessions (s : State) (a n : Nat) : (s.memFlush a n).sessions = s.sessions := rfl
@[simp] theorem memFlush_quota (s : State) (a n : Nat) : (s.memFlush a n).quota = s.quota := rfl
@[simp] theorem memFlush_sesReserved (s : State) (a n : Nat) : (s.memFlush a n).sesReserved = s.sesReserved := rfl
@[simp] theorem memFlush_bpm (s : State) (a n : Nat) : (s.memFlush a n).bpm = s.bpm := rfl
@[simp] theorem memFlush_fil (s : State) (a n : Nat) : (s.memFlush a n).fil = s.fil := rfl
@[simp] theorem memFlush_net (s : State) (a n : Nat) : (s.memFlush a n).net = s.net := rfl
@[simp] theorem memFlush_fns (s : State) (a n : Nat) : (s.memFlush a n).fns = s.fns := rfl
@[simp] theorem memFlush_wins (s : State) (a n : Nat) : (s.memFlush a n).wins = s.wins := rfl
@[simp] theorem memFlush_halves (s : State) (a n : Nat) : (s.memFlush a n).halves = s.halves := rfl
@[simp] theorem memFlush_perst (s : State) (a n : Nat) : (s.memFlush a n).perst = s.perst := rfl
@[simp] theorem memFlush_hmk (s : State) (a n : Nat) : (s.memFlush a n).hmk = s.hmk := rfl
@[simp] theorem memFlush_pwr (s : State) (a n : Nat) : (s.memFlush a n).pwr = s.pwr := rfl
@[simp] theorem memFlush_mgt (s : State) (a n : Nat) : (s.memFlush a n).mgt = s.mgt := rfl
@[simp] theorem memFlush_jtag (s : State) (a n : Nat) : (s.memFlush a n).jtag = s.jtag := rfl
@[simp] theorem memFlush_ras (s : State) (a n : Nat) : (s.memFlush a n).ras = s.ras := rfl
@[simp] theorem memFlush_errGlobal (s : State) (a n : Nat) : (s.memFlush a n).errGlobal = s.errGlobal := rfl
@[simp] theorem memFlush_errUnit (s : State) (a n : Nat) : (s.memFlush a n).errUnit = s.errUnit := rfl
@[simp] theorem memFlush_errCnt (s : State) (a n : Nat) : (s.memFlush a n).errCnt = s.errCnt := rfl
@[simp] theorem memFlush_filFi (s : State) (a n : Nat) : (s.memFlush a n).filFi = s.filFi := rfl
@[simp] theorem memFlush_netFi (s : State) (a n : Nat) : (s.memFlush a n).netFi = s.netFi := rfl
@[simp] theorem memFlush_sel (s : State) (a n : Nat) : (s.memFlush a n).sel = s.sel := rfl
@[simp] theorem memFlush_serial (s : State) (a n : Nat) : (s.memFlush a n).serial = s.serial := rfl
@[simp] theorem memFlush_out (s : State) (a n : Nat) : (s.memFlush a n).out = s.out := rfl
@[simp] theorem memFlush_pending (s : State) (a n : Nat) : (s.memFlush a n).pending = s.pending := rfl

/-! ## memMark -/

@[simp] theorem memMark_now (s : State) (a n : Nat) : (s.memMark a n).now = s.now := rfl
@[simp] theorem memMark_freeCtr (s : State) (a n : Nat) : (s.memMark a n).freeCtr = s.freeCtr := rfl
@[simp] theorem memMark_dev (s : State) (a n : Nat) : (s.memMark a n).dev = s.dev := rfl
@[simp] theorem memMark_set (s : State) (a n : Nat) : (s.memMark a n).set = s.set := rfl
@[simp] theorem memMark_frm (s : State) (a n : Nat) : (s.memMark a n).frm = s.frm := rfl
@[simp] theorem memMark_beads (s : State) (a n : Nat) : (s.memMark a n).beads = s.beads := rfl
@[simp] theorem memMark_units (s : State) (a n : Nat) : (s.memMark a n).units = s.units := rfl
@[simp] theorem memMark_merges (s : State) (a n : Nat) : (s.memMark a n).merges = s.merges := rfl
@[simp] theorem memMark_mtWait (s : State) (a n : Nat) : (s.memMark a n).mtWait = s.mtWait := rfl
@[simp] theorem memMark_colls (s : State) (a n : Nat) : (s.memMark a n).colls = s.colls := rfl
@[simp] theorem memMark_early (s : State) (a n : Nat) : (s.memMark a n).early = s.early := rfl
@[simp] theorem memMark_clasps (s : State) (a n : Nat) : (s.memMark a n).clasps = s.clasps := rfl
@[simp] theorem memMark_claspSnap (s : State) (a n : Nat) : (s.memMark a n).claspSnap = s.claspSnap := rfl
@[simp] theorem memMark_stalledOps (s : State) (a n : Nat) : (s.memMark a n).stalledOps = s.stalledOps := rfl
@[simp] theorem memMark_sessions (s : State) (a n : Nat) : (s.memMark a n).sessions = s.sessions := rfl
@[simp] theorem memMark_quota (s : State) (a n : Nat) : (s.memMark a n).quota = s.quota := rfl
@[simp] theorem memMark_sesReserved (s : State) (a n : Nat) : (s.memMark a n).sesReserved = s.sesReserved := rfl
@[simp] theorem memMark_bpm (s : State) (a n : Nat) : (s.memMark a n).bpm = s.bpm := rfl
@[simp] theorem memMark_fil (s : State) (a n : Nat) : (s.memMark a n).fil = s.fil := rfl
@[simp] theorem memMark_net (s : State) (a n : Nat) : (s.memMark a n).net = s.net := rfl
@[simp] theorem memMark_fns (s : State) (a n : Nat) : (s.memMark a n).fns = s.fns := rfl
@[simp] theorem memMark_wins (s : State) (a n : Nat) : (s.memMark a n).wins = s.wins := rfl
@[simp] theorem memMark_halves (s : State) (a n : Nat) : (s.memMark a n).halves = s.halves := rfl
@[simp] theorem memMark_perst (s : State) (a n : Nat) : (s.memMark a n).perst = s.perst := rfl
@[simp] theorem memMark_hmk (s : State) (a n : Nat) : (s.memMark a n).hmk = s.hmk := rfl
@[simp] theorem memMark_pwr (s : State) (a n : Nat) : (s.memMark a n).pwr = s.pwr := rfl
@[simp] theorem memMark_mgt (s : State) (a n : Nat) : (s.memMark a n).mgt = s.mgt := rfl
@[simp] theorem memMark_jtag (s : State) (a n : Nat) : (s.memMark a n).jtag = s.jtag := rfl
@[simp] theorem memMark_ras (s : State) (a n : Nat) : (s.memMark a n).ras = s.ras := rfl
@[simp] theorem memMark_errGlobal (s : State) (a n : Nat) : (s.memMark a n).errGlobal = s.errGlobal := rfl
@[simp] theorem memMark_errUnit (s : State) (a n : Nat) : (s.memMark a n).errUnit = s.errUnit := rfl
@[simp] theorem memMark_errCnt (s : State) (a n : Nat) : (s.memMark a n).errCnt = s.errCnt := rfl
@[simp] theorem memMark_filFi (s : State) (a n : Nat) : (s.memMark a n).filFi = s.filFi := rfl
@[simp] theorem memMark_netFi (s : State) (a n : Nat) : (s.memMark a n).netFi = s.netFi := rfl
@[simp] theorem memMark_sel (s : State) (a n : Nat) : (s.memMark a n).sel = s.sel := rfl
@[simp] theorem memMark_serial (s : State) (a n : Nat) : (s.memMark a n).serial = s.serial := rfl
@[simp] theorem memMark_out (s : State) (a n : Nat) : (s.memMark a n).out = s.out := rfl
@[simp] theorem memMark_pending (s : State) (a n : Nat) : (s.memMark a n).pending = s.pending := rfl

/-! ## memWriteC -/

@[simp] theorem memWriteC_now (s : State) (a : Nat) (bs : List Byte) : (s.memWriteC a bs).now = s.now := rfl
@[simp] theorem memWriteC_freeCtr (s : State) (a : Nat) (bs : List Byte) : (s.memWriteC a bs).freeCtr = s.freeCtr := rfl
@[simp] theorem memWriteC_dev (s : State) (a : Nat) (bs : List Byte) : (s.memWriteC a bs).dev = s.dev := rfl
@[simp] theorem memWriteC_set (s : State) (a : Nat) (bs : List Byte) : (s.memWriteC a bs).set = s.set := rfl
@[simp] theorem memWriteC_frm (s : State) (a : Nat) (bs : List Byte) : (s.memWriteC a bs).frm = s.frm := rfl
@[simp] theorem memWriteC_beads (s : State) (a : Nat) (bs : List Byte) : (s.memWriteC a bs).beads = s.beads := rfl
@[simp] theorem memWriteC_units (s : State) (a : Nat) (bs : List Byte) : (s.memWriteC a bs).units = s.units := rfl
@[simp] theorem memWriteC_merges (s : State) (a : Nat) (bs : List Byte) : (s.memWriteC a bs).merges = s.merges := rfl
@[simp] theorem memWriteC_mtWait (s : State) (a : Nat) (bs : List Byte) : (s.memWriteC a bs).mtWait = s.mtWait := rfl
@[simp] theorem memWriteC_colls (s : State) (a : Nat) (bs : List Byte) : (s.memWriteC a bs).colls = s.colls := rfl
@[simp] theorem memWriteC_early (s : State) (a : Nat) (bs : List Byte) : (s.memWriteC a bs).early = s.early := rfl
@[simp] theorem memWriteC_clasps (s : State) (a : Nat) (bs : List Byte) : (s.memWriteC a bs).clasps = s.clasps := rfl
@[simp] theorem memWriteC_claspSnap (s : State) (a : Nat) (bs : List Byte) : (s.memWriteC a bs).claspSnap = s.claspSnap := rfl
@[simp] theorem memWriteC_stalledOps (s : State) (a : Nat) (bs : List Byte) : (s.memWriteC a bs).stalledOps = s.stalledOps := rfl
@[simp] theorem memWriteC_sessions (s : State) (a : Nat) (bs : List Byte) : (s.memWriteC a bs).sessions = s.sessions := rfl
@[simp] theorem memWriteC_quota (s : State) (a : Nat) (bs : List Byte) : (s.memWriteC a bs).quota = s.quota := rfl
@[simp] theorem memWriteC_sesReserved (s : State) (a : Nat) (bs : List Byte) : (s.memWriteC a bs).sesReserved = s.sesReserved := rfl
@[simp] theorem memWriteC_bpm (s : State) (a : Nat) (bs : List Byte) : (s.memWriteC a bs).bpm = s.bpm := rfl
@[simp] theorem memWriteC_fil (s : State) (a : Nat) (bs : List Byte) : (s.memWriteC a bs).fil = s.fil := rfl
@[simp] theorem memWriteC_net (s : State) (a : Nat) (bs : List Byte) : (s.memWriteC a bs).net = s.net := rfl
@[simp] theorem memWriteC_fns (s : State) (a : Nat) (bs : List Byte) : (s.memWriteC a bs).fns = s.fns := rfl
@[simp] theorem memWriteC_wins (s : State) (a : Nat) (bs : List Byte) : (s.memWriteC a bs).wins = s.wins := rfl
@[simp] theorem memWriteC_halves (s : State) (a : Nat) (bs : List Byte) : (s.memWriteC a bs).halves = s.halves := rfl
@[simp] theorem memWriteC_perst (s : State) (a : Nat) (bs : List Byte) : (s.memWriteC a bs).perst = s.perst := rfl
@[simp] theorem memWriteC_hmk (s : State) (a : Nat) (bs : List Byte) : (s.memWriteC a bs).hmk = s.hmk := rfl
@[simp] theorem memWriteC_pwr (s : State) (a : Nat) (bs : List Byte) : (s.memWriteC a bs).pwr = s.pwr := rfl
@[simp] theorem memWriteC_mgt (s : State) (a : Nat) (bs : List Byte) : (s.memWriteC a bs).mgt = s.mgt := rfl
@[simp] theorem memWriteC_jtag (s : State) (a : Nat) (bs : List Byte) : (s.memWriteC a bs).jtag = s.jtag := rfl
@[simp] theorem memWriteC_ras (s : State) (a : Nat) (bs : List Byte) : (s.memWriteC a bs).ras = s.ras := rfl
@[simp] theorem memWriteC_errGlobal (s : State) (a : Nat) (bs : List Byte) : (s.memWriteC a bs).errGlobal = s.errGlobal := rfl
@[simp] theorem memWriteC_errUnit (s : State) (a : Nat) (bs : List Byte) : (s.memWriteC a bs).errUnit = s.errUnit := rfl
@[simp] theorem memWriteC_errCnt (s : State) (a : Nat) (bs : List Byte) : (s.memWriteC a bs).errCnt = s.errCnt := rfl
@[simp] theorem memWriteC_filFi (s : State) (a : Nat) (bs : List Byte) : (s.memWriteC a bs).filFi = s.filFi := rfl
@[simp] theorem memWriteC_netFi (s : State) (a : Nat) (bs : List Byte) : (s.memWriteC a bs).netFi = s.netFi := rfl
@[simp] theorem memWriteC_sel (s : State) (a : Nat) (bs : List Byte) : (s.memWriteC a bs).sel = s.sel := rfl
@[simp] theorem memWriteC_serial (s : State) (a : Nat) (bs : List Byte) : (s.memWriteC a bs).serial = s.serial := rfl
@[simp] theorem memWriteC_out (s : State) (a : Nat) (bs : List Byte) : (s.memWriteC a bs).out = s.out := rfl
@[simp] theorem memWriteC_pending (s : State) (a : Nat) (bs : List Byte) : (s.memWriteC a bs).pending = s.pending := rfl

/-! ## memUndef -/

@[simp] theorem memUndef_now (s : State) (a n : Nat) : (s.memUndef a n).now = s.now := rfl
@[simp] theorem memUndef_dev (s : State) (a n : Nat) : (s.memUndef a n).dev = s.dev := rfl
@[simp] theorem memUndef_set (s : State) (a n : Nat) : (s.memUndef a n).set = s.set := rfl
@[simp] theorem memUndef_frm (s : State) (a n : Nat) : (s.memUndef a n).frm = s.frm := rfl
@[simp] theorem memUndef_beads (s : State) (a n : Nat) : (s.memUndef a n).beads = s.beads := rfl
@[simp] theorem memUndef_units (s : State) (a n : Nat) : (s.memUndef a n).units = s.units := rfl
@[simp] theorem memUndef_merges (s : State) (a n : Nat) : (s.memUndef a n).merges = s.merges := rfl
@[simp] theorem memUndef_mtWait (s : State) (a n : Nat) : (s.memUndef a n).mtWait = s.mtWait := rfl
@[simp] theorem memUndef_colls (s : State) (a n : Nat) : (s.memUndef a n).colls = s.colls := rfl
@[simp] theorem memUndef_early (s : State) (a n : Nat) : (s.memUndef a n).early = s.early := rfl
@[simp] theorem memUndef_clasps (s : State) (a n : Nat) : (s.memUndef a n).clasps = s.clasps := rfl
@[simp] theorem memUndef_claspSnap (s : State) (a n : Nat) : (s.memUndef a n).claspSnap = s.claspSnap := rfl
@[simp] theorem memUndef_stalledOps (s : State) (a n : Nat) : (s.memUndef a n).stalledOps = s.stalledOps := rfl
@[simp] theorem memUndef_sessions (s : State) (a n : Nat) : (s.memUndef a n).sessions = s.sessions := rfl
@[simp] theorem memUndef_quota (s : State) (a n : Nat) : (s.memUndef a n).quota = s.quota := rfl
@[simp] theorem memUndef_sesReserved (s : State) (a n : Nat) : (s.memUndef a n).sesReserved = s.sesReserved := rfl
@[simp] theorem memUndef_bpm (s : State) (a n : Nat) : (s.memUndef a n).bpm = s.bpm := rfl
@[simp] theorem memUndef_fil (s : State) (a n : Nat) : (s.memUndef a n).fil = s.fil := rfl
@[simp] theorem memUndef_net (s : State) (a n : Nat) : (s.memUndef a n).net = s.net := rfl
@[simp] theorem memUndef_fns (s : State) (a n : Nat) : (s.memUndef a n).fns = s.fns := rfl
@[simp] theorem memUndef_wins (s : State) (a n : Nat) : (s.memUndef a n).wins = s.wins := rfl
@[simp] theorem memUndef_halves (s : State) (a n : Nat) : (s.memUndef a n).halves = s.halves := rfl
@[simp] theorem memUndef_perst (s : State) (a n : Nat) : (s.memUndef a n).perst = s.perst := rfl
@[simp] theorem memUndef_hmk (s : State) (a n : Nat) : (s.memUndef a n).hmk = s.hmk := rfl
@[simp] theorem memUndef_pwr (s : State) (a n : Nat) : (s.memUndef a n).pwr = s.pwr := rfl
@[simp] theorem memUndef_mgt (s : State) (a n : Nat) : (s.memUndef a n).mgt = s.mgt := rfl
@[simp] theorem memUndef_jtag (s : State) (a n : Nat) : (s.memUndef a n).jtag = s.jtag := rfl
@[simp] theorem memUndef_ras (s : State) (a n : Nat) : (s.memUndef a n).ras = s.ras := rfl
@[simp] theorem memUndef_errGlobal (s : State) (a n : Nat) : (s.memUndef a n).errGlobal = s.errGlobal := rfl
@[simp] theorem memUndef_errUnit (s : State) (a n : Nat) : (s.memUndef a n).errUnit = s.errUnit := rfl
@[simp] theorem memUndef_errCnt (s : State) (a n : Nat) : (s.memUndef a n).errCnt = s.errCnt := rfl
@[simp] theorem memUndef_filFi (s : State) (a n : Nat) : (s.memUndef a n).filFi = s.filFi := rfl
@[simp] theorem memUndef_netFi (s : State) (a n : Nat) : (s.memUndef a n).netFi = s.netFi := rfl
@[simp] theorem memUndef_sel (s : State) (a n : Nat) : (s.memUndef a n).sel = s.sel := rfl
@[simp] theorem memUndef_serial (s : State) (a n : Nat) : (s.memUndef a n).serial = s.serial := rfl
@[simp] theorem memUndef_out (s : State) (a n : Nat) : (s.memUndef a n).out = s.out := rfl
@[simp] theorem memUndef_pending (s : State) (a n : Nat) : (s.memUndef a n).pending = s.pending := rfl

/-! ## setBead -/

@[simp] theorem setBead_now (s : State) (b : Nat) (x : Bead) : (s.setBead b x).now = s.now := rfl
@[simp] theorem setBead_freeCtr (s : State) (b : Nat) (x : Bead) : (s.setBead b x).freeCtr = s.freeCtr := rfl
@[simp] theorem setBead_dev (s : State) (b : Nat) (x : Bead) : (s.setBead b x).dev = s.dev := rfl
@[simp] theorem setBead_set (s : State) (b : Nat) (x : Bead) : (s.setBead b x).set = s.set := rfl
@[simp] theorem setBead_frm (s : State) (b : Nat) (x : Bead) : (s.setBead b x).frm = s.frm := rfl
@[simp] theorem setBead_units (s : State) (b : Nat) (x : Bead) : (s.setBead b x).units = s.units := rfl
@[simp] theorem setBead_merges (s : State) (b : Nat) (x : Bead) : (s.setBead b x).merges = s.merges := rfl
@[simp] theorem setBead_mtWait (s : State) (b : Nat) (x : Bead) : (s.setBead b x).mtWait = s.mtWait := rfl
@[simp] theorem setBead_colls (s : State) (b : Nat) (x : Bead) : (s.setBead b x).colls = s.colls := rfl
@[simp] theorem setBead_early (s : State) (b : Nat) (x : Bead) : (s.setBead b x).early = s.early := rfl
@[simp] theorem setBead_clasps (s : State) (b : Nat) (x : Bead) : (s.setBead b x).clasps = s.clasps := rfl
@[simp] theorem setBead_claspSnap (s : State) (b : Nat) (x : Bead) : (s.setBead b x).claspSnap = s.claspSnap := rfl
@[simp] theorem setBead_stalledOps (s : State) (b : Nat) (x : Bead) : (s.setBead b x).stalledOps = s.stalledOps := rfl
@[simp] theorem setBead_sessions (s : State) (b : Nat) (x : Bead) : (s.setBead b x).sessions = s.sessions := rfl
@[simp] theorem setBead_quota (s : State) (b : Nat) (x : Bead) : (s.setBead b x).quota = s.quota := rfl
@[simp] theorem setBead_sesReserved (s : State) (b : Nat) (x : Bead) : (s.setBead b x).sesReserved = s.sesReserved := rfl
@[simp] theorem setBead_mem (s : State) (b : Nat) (x : Bead) : (s.setBead b x).mem = s.mem := rfl
@[simp] theorem setBead_bpm (s : State) (b : Nat) (x : Bead) : (s.setBead b x).bpm = s.bpm := rfl
@[simp] theorem setBead_fil (s : State) (b : Nat) (x : Bead) : (s.setBead b x).fil = s.fil := rfl
@[simp] theorem setBead_net (s : State) (b : Nat) (x : Bead) : (s.setBead b x).net = s.net := rfl
@[simp] theorem setBead_fns (s : State) (b : Nat) (x : Bead) : (s.setBead b x).fns = s.fns := rfl
@[simp] theorem setBead_wins (s : State) (b : Nat) (x : Bead) : (s.setBead b x).wins = s.wins := rfl
@[simp] theorem setBead_halves (s : State) (b : Nat) (x : Bead) : (s.setBead b x).halves = s.halves := rfl
@[simp] theorem setBead_perst (s : State) (b : Nat) (x : Bead) : (s.setBead b x).perst = s.perst := rfl
@[simp] theorem setBead_hmk (s : State) (b : Nat) (x : Bead) : (s.setBead b x).hmk = s.hmk := rfl
@[simp] theorem setBead_pwr (s : State) (b : Nat) (x : Bead) : (s.setBead b x).pwr = s.pwr := rfl
@[simp] theorem setBead_mgt (s : State) (b : Nat) (x : Bead) : (s.setBead b x).mgt = s.mgt := rfl
@[simp] theorem setBead_jtag (s : State) (b : Nat) (x : Bead) : (s.setBead b x).jtag = s.jtag := rfl
@[simp] theorem setBead_ras (s : State) (b : Nat) (x : Bead) : (s.setBead b x).ras = s.ras := rfl
@[simp] theorem setBead_errGlobal (s : State) (b : Nat) (x : Bead) : (s.setBead b x).errGlobal = s.errGlobal := rfl
@[simp] theorem setBead_errUnit (s : State) (b : Nat) (x : Bead) : (s.setBead b x).errUnit = s.errUnit := rfl
@[simp] theorem setBead_errCnt (s : State) (b : Nat) (x : Bead) : (s.setBead b x).errCnt = s.errCnt := rfl
@[simp] theorem setBead_filFi (s : State) (b : Nat) (x : Bead) : (s.setBead b x).filFi = s.filFi := rfl
@[simp] theorem setBead_netFi (s : State) (b : Nat) (x : Bead) : (s.setBead b x).netFi = s.netFi := rfl
@[simp] theorem setBead_sel (s : State) (b : Nat) (x : Bead) : (s.setBead b x).sel = s.sel := rfl
@[simp] theorem setBead_serial (s : State) (b : Nat) (x : Bead) : (s.setBead b x).serial = s.serial := rfl
@[simp] theorem setBead_out (s : State) (b : Nat) (x : Bead) : (s.setBead b x).out = s.out := rfl
@[simp] theorem setBead_pending (s : State) (b : Nat) (x : Bead) : (s.setBead b x).pending = s.pending := rfl

/-! ## updBead -/

@[simp] theorem updBead_now (s : State) (b : Nat) (f : Bead → Bead) : (s.updBead b f).now = s.now := rfl
@[simp] theorem updBead_freeCtr (s : State) (b : Nat) (f : Bead → Bead) : (s.updBead b f).freeCtr = s.freeCtr := rfl
@[simp] theorem updBead_dev (s : State) (b : Nat) (f : Bead → Bead) : (s.updBead b f).dev = s.dev := rfl
@[simp] theorem updBead_set (s : State) (b : Nat) (f : Bead → Bead) : (s.updBead b f).set = s.set := rfl
@[simp] theorem updBead_frm (s : State) (b : Nat) (f : Bead → Bead) : (s.updBead b f).frm = s.frm := rfl
@[simp] theorem updBead_units (s : State) (b : Nat) (f : Bead → Bead) : (s.updBead b f).units = s.units := rfl
@[simp] theorem updBead_merges (s : State) (b : Nat) (f : Bead → Bead) : (s.updBead b f).merges = s.merges := rfl
@[simp] theorem updBead_mtWait (s : State) (b : Nat) (f : Bead → Bead) : (s.updBead b f).mtWait = s.mtWait := rfl
@[simp] theorem updBead_colls (s : State) (b : Nat) (f : Bead → Bead) : (s.updBead b f).colls = s.colls := rfl
@[simp] theorem updBead_early (s : State) (b : Nat) (f : Bead → Bead) : (s.updBead b f).early = s.early := rfl
@[simp] theorem updBead_clasps (s : State) (b : Nat) (f : Bead → Bead) : (s.updBead b f).clasps = s.clasps := rfl
@[simp] theorem updBead_claspSnap (s : State) (b : Nat) (f : Bead → Bead) : (s.updBead b f).claspSnap = s.claspSnap := rfl
@[simp] theorem updBead_stalledOps (s : State) (b : Nat) (f : Bead → Bead) : (s.updBead b f).stalledOps = s.stalledOps := rfl
@[simp] theorem updBead_sessions (s : State) (b : Nat) (f : Bead → Bead) : (s.updBead b f).sessions = s.sessions := rfl
@[simp] theorem updBead_quota (s : State) (b : Nat) (f : Bead → Bead) : (s.updBead b f).quota = s.quota := rfl
@[simp] theorem updBead_sesReserved (s : State) (b : Nat) (f : Bead → Bead) : (s.updBead b f).sesReserved = s.sesReserved := rfl
@[simp] theorem updBead_mem (s : State) (b : Nat) (f : Bead → Bead) : (s.updBead b f).mem = s.mem := rfl
@[simp] theorem updBead_bpm (s : State) (b : Nat) (f : Bead → Bead) : (s.updBead b f).bpm = s.bpm := rfl
@[simp] theorem updBead_fil (s : State) (b : Nat) (f : Bead → Bead) : (s.updBead b f).fil = s.fil := rfl
@[simp] theorem updBead_net (s : State) (b : Nat) (f : Bead → Bead) : (s.updBead b f).net = s.net := rfl
@[simp] theorem updBead_fns (s : State) (b : Nat) (f : Bead → Bead) : (s.updBead b f).fns = s.fns := rfl
@[simp] theorem updBead_wins (s : State) (b : Nat) (f : Bead → Bead) : (s.updBead b f).wins = s.wins := rfl
@[simp] theorem updBead_halves (s : State) (b : Nat) (f : Bead → Bead) : (s.updBead b f).halves = s.halves := rfl
@[simp] theorem updBead_perst (s : State) (b : Nat) (f : Bead → Bead) : (s.updBead b f).perst = s.perst := rfl
@[simp] theorem updBead_hmk (s : State) (b : Nat) (f : Bead → Bead) : (s.updBead b f).hmk = s.hmk := rfl
@[simp] theorem updBead_pwr (s : State) (b : Nat) (f : Bead → Bead) : (s.updBead b f).pwr = s.pwr := rfl
@[simp] theorem updBead_mgt (s : State) (b : Nat) (f : Bead → Bead) : (s.updBead b f).mgt = s.mgt := rfl
@[simp] theorem updBead_jtag (s : State) (b : Nat) (f : Bead → Bead) : (s.updBead b f).jtag = s.jtag := rfl
@[simp] theorem updBead_ras (s : State) (b : Nat) (f : Bead → Bead) : (s.updBead b f).ras = s.ras := rfl
@[simp] theorem updBead_errGlobal (s : State) (b : Nat) (f : Bead → Bead) : (s.updBead b f).errGlobal = s.errGlobal := rfl
@[simp] theorem updBead_errUnit (s : State) (b : Nat) (f : Bead → Bead) : (s.updBead b f).errUnit = s.errUnit := rfl
@[simp] theorem updBead_errCnt (s : State) (b : Nat) (f : Bead → Bead) : (s.updBead b f).errCnt = s.errCnt := rfl
@[simp] theorem updBead_filFi (s : State) (b : Nat) (f : Bead → Bead) : (s.updBead b f).filFi = s.filFi := rfl
@[simp] theorem updBead_netFi (s : State) (b : Nat) (f : Bead → Bead) : (s.updBead b f).netFi = s.netFi := rfl
@[simp] theorem updBead_sel (s : State) (b : Nat) (f : Bead → Bead) : (s.updBead b f).sel = s.sel := rfl
@[simp] theorem updBead_serial (s : State) (b : Nat) (f : Bead → Bead) : (s.updBead b f).serial = s.serial := rfl
@[simp] theorem updBead_out (s : State) (b : Nat) (f : Bead → Bead) : (s.updBead b f).out = s.out := rfl
@[simp] theorem updBead_pending (s : State) (b : Nat) (f : Bead → Bead) : (s.updBead b f).pending = s.pending := rfl

/-! ## updFn -/

@[simp] theorem updFn_now (s : State) (k : Nat) (g : PcieFn → PcieFn) : (s.updFn k g).now = s.now := rfl
@[simp] theorem updFn_freeCtr (s : State) (k : Nat) (g : PcieFn → PcieFn) : (s.updFn k g).freeCtr = s.freeCtr := rfl
@[simp] theorem updFn_dev (s : State) (k : Nat) (g : PcieFn → PcieFn) : (s.updFn k g).dev = s.dev := rfl
@[simp] theorem updFn_set (s : State) (k : Nat) (g : PcieFn → PcieFn) : (s.updFn k g).set = s.set := rfl
@[simp] theorem updFn_frm (s : State) (k : Nat) (g : PcieFn → PcieFn) : (s.updFn k g).frm = s.frm := rfl
@[simp] theorem updFn_beads (s : State) (k : Nat) (g : PcieFn → PcieFn) : (s.updFn k g).beads = s.beads := rfl
@[simp] theorem updFn_units (s : State) (k : Nat) (g : PcieFn → PcieFn) : (s.updFn k g).units = s.units := rfl
@[simp] theorem updFn_merges (s : State) (k : Nat) (g : PcieFn → PcieFn) : (s.updFn k g).merges = s.merges := rfl
@[simp] theorem updFn_mtWait (s : State) (k : Nat) (g : PcieFn → PcieFn) : (s.updFn k g).mtWait = s.mtWait := rfl
@[simp] theorem updFn_colls (s : State) (k : Nat) (g : PcieFn → PcieFn) : (s.updFn k g).colls = s.colls := rfl
@[simp] theorem updFn_early (s : State) (k : Nat) (g : PcieFn → PcieFn) : (s.updFn k g).early = s.early := rfl
@[simp] theorem updFn_clasps (s : State) (k : Nat) (g : PcieFn → PcieFn) : (s.updFn k g).clasps = s.clasps := rfl
@[simp] theorem updFn_claspSnap (s : State) (k : Nat) (g : PcieFn → PcieFn) : (s.updFn k g).claspSnap = s.claspSnap := rfl
@[simp] theorem updFn_stalledOps (s : State) (k : Nat) (g : PcieFn → PcieFn) : (s.updFn k g).stalledOps = s.stalledOps := rfl
@[simp] theorem updFn_sessions (s : State) (k : Nat) (g : PcieFn → PcieFn) : (s.updFn k g).sessions = s.sessions := rfl
@[simp] theorem updFn_quota (s : State) (k : Nat) (g : PcieFn → PcieFn) : (s.updFn k g).quota = s.quota := rfl
@[simp] theorem updFn_sesReserved (s : State) (k : Nat) (g : PcieFn → PcieFn) : (s.updFn k g).sesReserved = s.sesReserved := rfl
@[simp] theorem updFn_mem (s : State) (k : Nat) (g : PcieFn → PcieFn) : (s.updFn k g).mem = s.mem := rfl
@[simp] theorem updFn_bpm (s : State) (k : Nat) (g : PcieFn → PcieFn) : (s.updFn k g).bpm = s.bpm := rfl
@[simp] theorem updFn_fil (s : State) (k : Nat) (g : PcieFn → PcieFn) : (s.updFn k g).fil = s.fil := rfl
@[simp] theorem updFn_net (s : State) (k : Nat) (g : PcieFn → PcieFn) : (s.updFn k g).net = s.net := rfl
@[simp] theorem updFn_wins (s : State) (k : Nat) (g : PcieFn → PcieFn) : (s.updFn k g).wins = s.wins := rfl
@[simp] theorem updFn_halves (s : State) (k : Nat) (g : PcieFn → PcieFn) : (s.updFn k g).halves = s.halves := rfl
@[simp] theorem updFn_perst (s : State) (k : Nat) (g : PcieFn → PcieFn) : (s.updFn k g).perst = s.perst := rfl
@[simp] theorem updFn_hmk (s : State) (k : Nat) (g : PcieFn → PcieFn) : (s.updFn k g).hmk = s.hmk := rfl
@[simp] theorem updFn_pwr (s : State) (k : Nat) (g : PcieFn → PcieFn) : (s.updFn k g).pwr = s.pwr := rfl
@[simp] theorem updFn_mgt (s : State) (k : Nat) (g : PcieFn → PcieFn) : (s.updFn k g).mgt = s.mgt := rfl
@[simp] theorem updFn_jtag (s : State) (k : Nat) (g : PcieFn → PcieFn) : (s.updFn k g).jtag = s.jtag := rfl
@[simp] theorem updFn_ras (s : State) (k : Nat) (g : PcieFn → PcieFn) : (s.updFn k g).ras = s.ras := rfl
@[simp] theorem updFn_errGlobal (s : State) (k : Nat) (g : PcieFn → PcieFn) : (s.updFn k g).errGlobal = s.errGlobal := rfl
@[simp] theorem updFn_errUnit (s : State) (k : Nat) (g : PcieFn → PcieFn) : (s.updFn k g).errUnit = s.errUnit := rfl
@[simp] theorem updFn_errCnt (s : State) (k : Nat) (g : PcieFn → PcieFn) : (s.updFn k g).errCnt = s.errCnt := rfl
@[simp] theorem updFn_filFi (s : State) (k : Nat) (g : PcieFn → PcieFn) : (s.updFn k g).filFi = s.filFi := rfl
@[simp] theorem updFn_netFi (s : State) (k : Nat) (g : PcieFn → PcieFn) : (s.updFn k g).netFi = s.netFi := rfl
@[simp] theorem updFn_sel (s : State) (k : Nat) (g : PcieFn → PcieFn) : (s.updFn k g).sel = s.sel := rfl
@[simp] theorem updFn_serial (s : State) (k : Nat) (g : PcieFn → PcieFn) : (s.updFn k g).serial = s.serial := rfl
@[simp] theorem updFn_out (s : State) (k : Nat) (g : PcieFn → PcieFn) : (s.updFn k g).out = s.out := rfl
@[simp] theorem updFn_pending (s : State) (k : Nat) (g : PcieFn → PcieFn) : (s.updFn k g).pending = s.pending := rfl

/-! ## updWin -/

@[simp] theorem updWin_now (s : State) (w : Nat) (g : UserWin → UserWin) : (s.updWin w g).now = s.now := rfl
@[simp] theorem updWin_freeCtr (s : State) (w : Nat) (g : UserWin → UserWin) : (s.updWin w g).freeCtr = s.freeCtr := rfl
@[simp] theorem updWin_dev (s : State) (w : Nat) (g : UserWin → UserWin) : (s.updWin w g).dev = s.dev := rfl
@[simp] theorem updWin_set (s : State) (w : Nat) (g : UserWin → UserWin) : (s.updWin w g).set = s.set := rfl
@[simp] theorem updWin_frm (s : State) (w : Nat) (g : UserWin → UserWin) : (s.updWin w g).frm = s.frm := rfl
@[simp] theorem updWin_beads (s : State) (w : Nat) (g : UserWin → UserWin) : (s.updWin w g).beads = s.beads := rfl
@[simp] theorem updWin_units (s : State) (w : Nat) (g : UserWin → UserWin) : (s.updWin w g).units = s.units := rfl
@[simp] theorem updWin_merges (s : State) (w : Nat) (g : UserWin → UserWin) : (s.updWin w g).merges = s.merges := rfl
@[simp] theorem updWin_mtWait (s : State) (w : Nat) (g : UserWin → UserWin) : (s.updWin w g).mtWait = s.mtWait := rfl
@[simp] theorem updWin_colls (s : State) (w : Nat) (g : UserWin → UserWin) : (s.updWin w g).colls = s.colls := rfl
@[simp] theorem updWin_early (s : State) (w : Nat) (g : UserWin → UserWin) : (s.updWin w g).early = s.early := rfl
@[simp] theorem updWin_clasps (s : State) (w : Nat) (g : UserWin → UserWin) : (s.updWin w g).clasps = s.clasps := rfl
@[simp] theorem updWin_claspSnap (s : State) (w : Nat) (g : UserWin → UserWin) : (s.updWin w g).claspSnap = s.claspSnap := rfl
@[simp] theorem updWin_stalledOps (s : State) (w : Nat) (g : UserWin → UserWin) : (s.updWin w g).stalledOps = s.stalledOps := rfl
@[simp] theorem updWin_sessions (s : State) (w : Nat) (g : UserWin → UserWin) : (s.updWin w g).sessions = s.sessions := rfl
@[simp] theorem updWin_quota (s : State) (w : Nat) (g : UserWin → UserWin) : (s.updWin w g).quota = s.quota := rfl
@[simp] theorem updWin_sesReserved (s : State) (w : Nat) (g : UserWin → UserWin) : (s.updWin w g).sesReserved = s.sesReserved := rfl
@[simp] theorem updWin_mem (s : State) (w : Nat) (g : UserWin → UserWin) : (s.updWin w g).mem = s.mem := rfl
@[simp] theorem updWin_bpm (s : State) (w : Nat) (g : UserWin → UserWin) : (s.updWin w g).bpm = s.bpm := rfl
@[simp] theorem updWin_fil (s : State) (w : Nat) (g : UserWin → UserWin) : (s.updWin w g).fil = s.fil := rfl
@[simp] theorem updWin_net (s : State) (w : Nat) (g : UserWin → UserWin) : (s.updWin w g).net = s.net := rfl
@[simp] theorem updWin_fns (s : State) (w : Nat) (g : UserWin → UserWin) : (s.updWin w g).fns = s.fns := rfl
@[simp] theorem updWin_halves (s : State) (w : Nat) (g : UserWin → UserWin) : (s.updWin w g).halves = s.halves := rfl
@[simp] theorem updWin_perst (s : State) (w : Nat) (g : UserWin → UserWin) : (s.updWin w g).perst = s.perst := rfl
@[simp] theorem updWin_hmk (s : State) (w : Nat) (g : UserWin → UserWin) : (s.updWin w g).hmk = s.hmk := rfl
@[simp] theorem updWin_pwr (s : State) (w : Nat) (g : UserWin → UserWin) : (s.updWin w g).pwr = s.pwr := rfl
@[simp] theorem updWin_mgt (s : State) (w : Nat) (g : UserWin → UserWin) : (s.updWin w g).mgt = s.mgt := rfl
@[simp] theorem updWin_jtag (s : State) (w : Nat) (g : UserWin → UserWin) : (s.updWin w g).jtag = s.jtag := rfl
@[simp] theorem updWin_ras (s : State) (w : Nat) (g : UserWin → UserWin) : (s.updWin w g).ras = s.ras := rfl
@[simp] theorem updWin_errGlobal (s : State) (w : Nat) (g : UserWin → UserWin) : (s.updWin w g).errGlobal = s.errGlobal := rfl
@[simp] theorem updWin_errUnit (s : State) (w : Nat) (g : UserWin → UserWin) : (s.updWin w g).errUnit = s.errUnit := rfl
@[simp] theorem updWin_errCnt (s : State) (w : Nat) (g : UserWin → UserWin) : (s.updWin w g).errCnt = s.errCnt := rfl
@[simp] theorem updWin_filFi (s : State) (w : Nat) (g : UserWin → UserWin) : (s.updWin w g).filFi = s.filFi := rfl
@[simp] theorem updWin_netFi (s : State) (w : Nat) (g : UserWin → UserWin) : (s.updWin w g).netFi = s.netFi := rfl
@[simp] theorem updWin_sel (s : State) (w : Nat) (g : UserWin → UserWin) : (s.updWin w g).sel = s.sel := rfl
@[simp] theorem updWin_serial (s : State) (w : Nat) (g : UserWin → UserWin) : (s.updWin w g).serial = s.serial := rfl
@[simp] theorem updWin_out (s : State) (w : Nat) (g : UserWin → UserWin) : (s.updWin w g).out = s.out := rfl
@[simp] theorem updWin_pending (s : State) (w : Nat) (g : UserWin → UserWin) : (s.updWin w g).pending = s.pending := rfl

/-! ## emit -/

@[simp] theorem emit_now (s : State) (o : Out) : (s.emit o).now = s.now := rfl
@[simp] theorem emit_freeCtr (s : State) (o : Out) : (s.emit o).freeCtr = s.freeCtr := rfl
@[simp] theorem emit_dev (s : State) (o : Out) : (s.emit o).dev = s.dev := rfl
@[simp] theorem emit_set (s : State) (o : Out) : (s.emit o).set = s.set := rfl
@[simp] theorem emit_frm (s : State) (o : Out) : (s.emit o).frm = s.frm := rfl
@[simp] theorem emit_beads (s : State) (o : Out) : (s.emit o).beads = s.beads := rfl
@[simp] theorem emit_units (s : State) (o : Out) : (s.emit o).units = s.units := rfl
@[simp] theorem emit_merges (s : State) (o : Out) : (s.emit o).merges = s.merges := rfl
@[simp] theorem emit_mtWait (s : State) (o : Out) : (s.emit o).mtWait = s.mtWait := rfl
@[simp] theorem emit_colls (s : State) (o : Out) : (s.emit o).colls = s.colls := rfl
@[simp] theorem emit_early (s : State) (o : Out) : (s.emit o).early = s.early := rfl
@[simp] theorem emit_clasps (s : State) (o : Out) : (s.emit o).clasps = s.clasps := rfl
@[simp] theorem emit_claspSnap (s : State) (o : Out) : (s.emit o).claspSnap = s.claspSnap := rfl
@[simp] theorem emit_stalledOps (s : State) (o : Out) : (s.emit o).stalledOps = s.stalledOps := rfl
@[simp] theorem emit_sessions (s : State) (o : Out) : (s.emit o).sessions = s.sessions := rfl
@[simp] theorem emit_quota (s : State) (o : Out) : (s.emit o).quota = s.quota := rfl
@[simp] theorem emit_sesReserved (s : State) (o : Out) : (s.emit o).sesReserved = s.sesReserved := rfl
@[simp] theorem emit_mem (s : State) (o : Out) : (s.emit o).mem = s.mem := rfl
@[simp] theorem emit_bpm (s : State) (o : Out) : (s.emit o).bpm = s.bpm := rfl
@[simp] theorem emit_fil (s : State) (o : Out) : (s.emit o).fil = s.fil := rfl
@[simp] theorem emit_net (s : State) (o : Out) : (s.emit o).net = s.net := rfl
@[simp] theorem emit_fns (s : State) (o : Out) : (s.emit o).fns = s.fns := rfl
@[simp] theorem emit_wins (s : State) (o : Out) : (s.emit o).wins = s.wins := rfl
@[simp] theorem emit_halves (s : State) (o : Out) : (s.emit o).halves = s.halves := rfl
@[simp] theorem emit_perst (s : State) (o : Out) : (s.emit o).perst = s.perst := rfl
@[simp] theorem emit_hmk (s : State) (o : Out) : (s.emit o).hmk = s.hmk := rfl
@[simp] theorem emit_pwr (s : State) (o : Out) : (s.emit o).pwr = s.pwr := rfl
@[simp] theorem emit_mgt (s : State) (o : Out) : (s.emit o).mgt = s.mgt := rfl
@[simp] theorem emit_jtag (s : State) (o : Out) : (s.emit o).jtag = s.jtag := rfl
@[simp] theorem emit_ras (s : State) (o : Out) : (s.emit o).ras = s.ras := rfl
@[simp] theorem emit_errGlobal (s : State) (o : Out) : (s.emit o).errGlobal = s.errGlobal := rfl
@[simp] theorem emit_errUnit (s : State) (o : Out) : (s.emit o).errUnit = s.errUnit := rfl
@[simp] theorem emit_errCnt (s : State) (o : Out) : (s.emit o).errCnt = s.errCnt := rfl
@[simp] theorem emit_filFi (s : State) (o : Out) : (s.emit o).filFi = s.filFi := rfl
@[simp] theorem emit_netFi (s : State) (o : Out) : (s.emit o).netFi = s.netFi := rfl
@[simp] theorem emit_sel (s : State) (o : Out) : (s.emit o).sel = s.sel := rfl
@[simp] theorem emit_serial (s : State) (o : Out) : (s.emit o).serial = s.serial := rfl
@[simp] theorem emit_pending (s : State) (o : Out) : (s.emit o).pending = s.pending := rfl

/-! ## count -/

@[simp] theorem count_now (s : State) (i : Nat) : (s.count i).now = s.now := rfl
@[simp] theorem count_freeCtr (s : State) (i : Nat) : (s.count i).freeCtr = s.freeCtr := rfl
@[simp] theorem count_dev (s : State) (i : Nat) : (s.count i).dev = s.dev := rfl
@[simp] theorem count_set (s : State) (i : Nat) : (s.count i).set = s.set := rfl
@[simp] theorem count_frm (s : State) (i : Nat) : (s.count i).frm = s.frm := rfl
@[simp] theorem count_beads (s : State) (i : Nat) : (s.count i).beads = s.beads := rfl
@[simp] theorem count_units (s : State) (i : Nat) : (s.count i).units = s.units := rfl
@[simp] theorem count_merges (s : State) (i : Nat) : (s.count i).merges = s.merges := rfl
@[simp] theorem count_mtWait (s : State) (i : Nat) : (s.count i).mtWait = s.mtWait := rfl
@[simp] theorem count_colls (s : State) (i : Nat) : (s.count i).colls = s.colls := rfl
@[simp] theorem count_early (s : State) (i : Nat) : (s.count i).early = s.early := rfl
@[simp] theorem count_clasps (s : State) (i : Nat) : (s.count i).clasps = s.clasps := rfl
@[simp] theorem count_claspSnap (s : State) (i : Nat) : (s.count i).claspSnap = s.claspSnap := rfl
@[simp] theorem count_stalledOps (s : State) (i : Nat) : (s.count i).stalledOps = s.stalledOps := rfl
@[simp] theorem count_sessions (s : State) (i : Nat) : (s.count i).sessions = s.sessions := rfl
@[simp] theorem count_quota (s : State) (i : Nat) : (s.count i).quota = s.quota := rfl
@[simp] theorem count_sesReserved (s : State) (i : Nat) : (s.count i).sesReserved = s.sesReserved := rfl
@[simp] theorem count_mem (s : State) (i : Nat) : (s.count i).mem = s.mem := rfl
@[simp] theorem count_bpm (s : State) (i : Nat) : (s.count i).bpm = s.bpm := rfl
@[simp] theorem count_fil (s : State) (i : Nat) : (s.count i).fil = s.fil := rfl
@[simp] theorem count_net (s : State) (i : Nat) : (s.count i).net = s.net := rfl
@[simp] theorem count_fns (s : State) (i : Nat) : (s.count i).fns = s.fns := rfl
@[simp] theorem count_wins (s : State) (i : Nat) : (s.count i).wins = s.wins := rfl
@[simp] theorem count_halves (s : State) (i : Nat) : (s.count i).halves = s.halves := rfl
@[simp] theorem count_perst (s : State) (i : Nat) : (s.count i).perst = s.perst := rfl
@[simp] theorem count_hmk (s : State) (i : Nat) : (s.count i).hmk = s.hmk := rfl
@[simp] theorem count_pwr (s : State) (i : Nat) : (s.count i).pwr = s.pwr := rfl
@[simp] theorem count_mgt (s : State) (i : Nat) : (s.count i).mgt = s.mgt := rfl
@[simp] theorem count_jtag (s : State) (i : Nat) : (s.count i).jtag = s.jtag := rfl
@[simp] theorem count_ras (s : State) (i : Nat) : (s.count i).ras = s.ras := rfl
@[simp] theorem count_errGlobal (s : State) (i : Nat) : (s.count i).errGlobal = s.errGlobal := rfl
@[simp] theorem count_errUnit (s : State) (i : Nat) : (s.count i).errUnit = s.errUnit := rfl
@[simp] theorem count_filFi (s : State) (i : Nat) : (s.count i).filFi = s.filFi := rfl
@[simp] theorem count_netFi (s : State) (i : Nat) : (s.count i).netFi = s.netFi := rfl
@[simp] theorem count_sel (s : State) (i : Nat) : (s.count i).sel = s.sel := rfl
@[simp] theorem count_serial (s : State) (i : Nat) : (s.count i).serial = s.serial := rfl
@[simp] theorem count_out (s : State) (i : Nat) : (s.count i).out = s.out := rfl
@[simp] theorem count_pending (s : State) (i : Nat) : (s.count i).pending = s.pending := rfl

/-! ## at -/

@[simp] theorem at_freeCtr (s : State) (t : Nat) : (s.at t).freeCtr = s.freeCtr := rfl
@[simp] theorem at_dev (s : State) (t : Nat) : (s.at t).dev = s.dev := rfl
@[simp] theorem at_set (s : State) (t : Nat) : (s.at t).set = s.set := rfl
@[simp] theorem at_frm (s : State) (t : Nat) : (s.at t).frm = s.frm := rfl
@[simp] theorem at_beads (s : State) (t : Nat) : (s.at t).beads = s.beads := rfl
@[simp] theorem at_units (s : State) (t : Nat) : (s.at t).units = s.units := rfl
@[simp] theorem at_merges (s : State) (t : Nat) : (s.at t).merges = s.merges := rfl
@[simp] theorem at_mtWait (s : State) (t : Nat) : (s.at t).mtWait = s.mtWait := rfl
@[simp] theorem at_colls (s : State) (t : Nat) : (s.at t).colls = s.colls := rfl
@[simp] theorem at_early (s : State) (t : Nat) : (s.at t).early = s.early := rfl
@[simp] theorem at_clasps (s : State) (t : Nat) : (s.at t).clasps = s.clasps := rfl
@[simp] theorem at_claspSnap (s : State) (t : Nat) : (s.at t).claspSnap = s.claspSnap := rfl
@[simp] theorem at_stalledOps (s : State) (t : Nat) : (s.at t).stalledOps = s.stalledOps := rfl
@[simp] theorem at_sessions (s : State) (t : Nat) : (s.at t).sessions = s.sessions := rfl
@[simp] theorem at_quota (s : State) (t : Nat) : (s.at t).quota = s.quota := rfl
@[simp] theorem at_sesReserved (s : State) (t : Nat) : (s.at t).sesReserved = s.sesReserved := rfl
@[simp] theorem at_mem (s : State) (t : Nat) : (s.at t).mem = s.mem := rfl
@[simp] theorem at_bpm (s : State) (t : Nat) : (s.at t).bpm = s.bpm := rfl
@[simp] theorem at_fil (s : State) (t : Nat) : (s.at t).fil = s.fil := rfl
@[simp] theorem at_net (s : State) (t : Nat) : (s.at t).net = s.net := rfl
@[simp] theorem at_fns (s : State) (t : Nat) : (s.at t).fns = s.fns := rfl
@[simp] theorem at_wins (s : State) (t : Nat) : (s.at t).wins = s.wins := rfl
@[simp] theorem at_halves (s : State) (t : Nat) : (s.at t).halves = s.halves := rfl
@[simp] theorem at_perst (s : State) (t : Nat) : (s.at t).perst = s.perst := rfl
@[simp] theorem at_hmk (s : State) (t : Nat) : (s.at t).hmk = s.hmk := rfl
@[simp] theorem at_pwr (s : State) (t : Nat) : (s.at t).pwr = s.pwr := rfl
@[simp] theorem at_mgt (s : State) (t : Nat) : (s.at t).mgt = s.mgt := rfl
@[simp] theorem at_jtag (s : State) (t : Nat) : (s.at t).jtag = s.jtag := rfl
@[simp] theorem at_ras (s : State) (t : Nat) : (s.at t).ras = s.ras := rfl
@[simp] theorem at_errGlobal (s : State) (t : Nat) : (s.at t).errGlobal = s.errGlobal := rfl
@[simp] theorem at_errUnit (s : State) (t : Nat) : (s.at t).errUnit = s.errUnit := rfl
@[simp] theorem at_errCnt (s : State) (t : Nat) : (s.at t).errCnt = s.errCnt := rfl
@[simp] theorem at_filFi (s : State) (t : Nat) : (s.at t).filFi = s.filFi := rfl
@[simp] theorem at_netFi (s : State) (t : Nat) : (s.at t).netFi = s.netFi := rfl
@[simp] theorem at_sel (s : State) (t : Nat) : (s.at t).sel = s.sel := rfl
@[simp] theorem at_serial (s : State) (t : Nat) : (s.at t).serial = s.serial := rfl
@[simp] theorem at_out (s : State) (t : Nat) : (s.at t).out = s.out := rfl
@[simp] theorem at_pending (s : State) (t : Nat) : (s.at t).pending = s.pending := rfl

/-! ## setPage -/

@[simp] theorem setPage_now (s : State) (f : Nat) (p : Page) : (s.setPage f p).now = s.now := rfl
@[simp] theorem setPage_freeCtr (s : State) (f : Nat) (p : Page) : (s.setPage f p).freeCtr = s.freeCtr := rfl
@[simp] theorem setPage_dev (s : State) (f : Nat) (p : Page) : (s.setPage f p).dev = s.dev := rfl
@[simp] theorem setPage_set (s : State) (f : Nat) (p : Page) : (s.setPage f p).set = s.set := rfl
@[simp] theorem setPage_frm (s : State) (f : Nat) (p : Page) : (s.setPage f p).frm = s.frm := rfl
@[simp] theorem setPage_beads (s : State) (f : Nat) (p : Page) : (s.setPage f p).beads = s.beads := rfl
@[simp] theorem setPage_units (s : State) (f : Nat) (p : Page) : (s.setPage f p).units = s.units := rfl
@[simp] theorem setPage_merges (s : State) (f : Nat) (p : Page) : (s.setPage f p).merges = s.merges := rfl
@[simp] theorem setPage_mtWait (s : State) (f : Nat) (p : Page) : (s.setPage f p).mtWait = s.mtWait := rfl
@[simp] theorem setPage_colls (s : State) (f : Nat) (p : Page) : (s.setPage f p).colls = s.colls := rfl
@[simp] theorem setPage_early (s : State) (f : Nat) (p : Page) : (s.setPage f p).early = s.early := rfl
@[simp] theorem setPage_clasps (s : State) (f : Nat) (p : Page) : (s.setPage f p).clasps = s.clasps := rfl
@[simp] theorem setPage_claspSnap (s : State) (f : Nat) (p : Page) : (s.setPage f p).claspSnap = s.claspSnap := rfl
@[simp] theorem setPage_stalledOps (s : State) (f : Nat) (p : Page) : (s.setPage f p).stalledOps = s.stalledOps := rfl
@[simp] theorem setPage_sessions (s : State) (f : Nat) (p : Page) : (s.setPage f p).sessions = s.sessions := rfl
@[simp] theorem setPage_quota (s : State) (f : Nat) (p : Page) : (s.setPage f p).quota = s.quota := rfl
@[simp] theorem setPage_sesReserved (s : State) (f : Nat) (p : Page) : (s.setPage f p).sesReserved = s.sesReserved := rfl
@[simp] theorem setPage_mem (s : State) (f : Nat) (p : Page) : (s.setPage f p).mem = s.mem := rfl
@[simp] theorem setPage_fil (s : State) (f : Nat) (p : Page) : (s.setPage f p).fil = s.fil := rfl
@[simp] theorem setPage_net (s : State) (f : Nat) (p : Page) : (s.setPage f p).net = s.net := rfl
@[simp] theorem setPage_fns (s : State) (f : Nat) (p : Page) : (s.setPage f p).fns = s.fns := rfl
@[simp] theorem setPage_wins (s : State) (f : Nat) (p : Page) : (s.setPage f p).wins = s.wins := rfl
@[simp] theorem setPage_halves (s : State) (f : Nat) (p : Page) : (s.setPage f p).halves = s.halves := rfl
@[simp] theorem setPage_perst (s : State) (f : Nat) (p : Page) : (s.setPage f p).perst = s.perst := rfl
@[simp] theorem setPage_hmk (s : State) (f : Nat) (p : Page) : (s.setPage f p).hmk = s.hmk := rfl
@[simp] theorem setPage_pwr (s : State) (f : Nat) (p : Page) : (s.setPage f p).pwr = s.pwr := rfl
@[simp] theorem setPage_mgt (s : State) (f : Nat) (p : Page) : (s.setPage f p).mgt = s.mgt := rfl
@[simp] theorem setPage_jtag (s : State) (f : Nat) (p : Page) : (s.setPage f p).jtag = s.jtag := rfl
@[simp] theorem setPage_ras (s : State) (f : Nat) (p : Page) : (s.setPage f p).ras = s.ras := rfl
@[simp] theorem setPage_errGlobal (s : State) (f : Nat) (p : Page) : (s.setPage f p).errGlobal = s.errGlobal := rfl
@[simp] theorem setPage_errUnit (s : State) (f : Nat) (p : Page) : (s.setPage f p).errUnit = s.errUnit := rfl
@[simp] theorem setPage_errCnt (s : State) (f : Nat) (p : Page) : (s.setPage f p).errCnt = s.errCnt := rfl
@[simp] theorem setPage_filFi (s : State) (f : Nat) (p : Page) : (s.setPage f p).filFi = s.filFi := rfl
@[simp] theorem setPage_netFi (s : State) (f : Nat) (p : Page) : (s.setPage f p).netFi = s.netFi := rfl
@[simp] theorem setPage_sel (s : State) (f : Nat) (p : Page) : (s.setPage f p).sel = s.sel := rfl
@[simp] theorem setPage_serial (s : State) (f : Nat) (p : Page) : (s.setPage f p).serial = s.serial := rfl
@[simp] theorem setPage_out (s : State) (f : Nat) (p : Page) : (s.setPage f p).out = s.out := rfl
@[simp] theorem setPage_pending (s : State) (f : Nat) (p : Page) : (s.setPage f p).pending = s.pending := rfl

/-! ## updPtp -/

@[simp] theorem updPtp_now (s : State) (f : Ptp → Ptp) : (s.updPtp f).now = s.now := rfl
@[simp] theorem updPtp_freeCtr (s : State) (f : Ptp → Ptp) : (s.updPtp f).freeCtr = s.freeCtr := rfl
@[simp] theorem updPtp_dev (s : State) (f : Ptp → Ptp) : (s.updPtp f).dev = s.dev := rfl
@[simp] theorem updPtp_set (s : State) (f : Ptp → Ptp) : (s.updPtp f).set = s.set := rfl
@[simp] theorem updPtp_frm (s : State) (f : Ptp → Ptp) : (s.updPtp f).frm = s.frm := rfl
@[simp] theorem updPtp_beads (s : State) (f : Ptp → Ptp) : (s.updPtp f).beads = s.beads := rfl
@[simp] theorem updPtp_units (s : State) (f : Ptp → Ptp) : (s.updPtp f).units = s.units := rfl
@[simp] theorem updPtp_merges (s : State) (f : Ptp → Ptp) : (s.updPtp f).merges = s.merges := rfl
@[simp] theorem updPtp_mtWait (s : State) (f : Ptp → Ptp) : (s.updPtp f).mtWait = s.mtWait := rfl
@[simp] theorem updPtp_colls (s : State) (f : Ptp → Ptp) : (s.updPtp f).colls = s.colls := rfl
@[simp] theorem updPtp_early (s : State) (f : Ptp → Ptp) : (s.updPtp f).early = s.early := rfl
@[simp] theorem updPtp_clasps (s : State) (f : Ptp → Ptp) : (s.updPtp f).clasps = s.clasps := rfl
@[simp] theorem updPtp_claspSnap (s : State) (f : Ptp → Ptp) : (s.updPtp f).claspSnap = s.claspSnap := rfl
@[simp] theorem updPtp_stalledOps (s : State) (f : Ptp → Ptp) : (s.updPtp f).stalledOps = s.stalledOps := rfl
@[simp] theorem updPtp_sessions (s : State) (f : Ptp → Ptp) : (s.updPtp f).sessions = s.sessions := rfl
@[simp] theorem updPtp_quota (s : State) (f : Ptp → Ptp) : (s.updPtp f).quota = s.quota := rfl
@[simp] theorem updPtp_sesReserved (s : State) (f : Ptp → Ptp) : (s.updPtp f).sesReserved = s.sesReserved := rfl
@[simp] theorem updPtp_mem (s : State) (f : Ptp → Ptp) : (s.updPtp f).mem = s.mem := rfl
@[simp] theorem updPtp_bpm (s : State) (f : Ptp → Ptp) : (s.updPtp f).bpm = s.bpm := rfl
@[simp] theorem updPtp_fil (s : State) (f : Ptp → Ptp) : (s.updPtp f).fil = s.fil := rfl
@[simp] theorem updPtp_fns (s : State) (f : Ptp → Ptp) : (s.updPtp f).fns = s.fns := rfl
@[simp] theorem updPtp_wins (s : State) (f : Ptp → Ptp) : (s.updPtp f).wins = s.wins := rfl
@[simp] theorem updPtp_halves (s : State) (f : Ptp → Ptp) : (s.updPtp f).halves = s.halves := rfl
@[simp] theorem updPtp_perst (s : State) (f : Ptp → Ptp) : (s.updPtp f).perst = s.perst := rfl
@[simp] theorem updPtp_hmk (s : State) (f : Ptp → Ptp) : (s.updPtp f).hmk = s.hmk := rfl
@[simp] theorem updPtp_pwr (s : State) (f : Ptp → Ptp) : (s.updPtp f).pwr = s.pwr := rfl
@[simp] theorem updPtp_mgt (s : State) (f : Ptp → Ptp) : (s.updPtp f).mgt = s.mgt := rfl
@[simp] theorem updPtp_jtag (s : State) (f : Ptp → Ptp) : (s.updPtp f).jtag = s.jtag := rfl
@[simp] theorem updPtp_ras (s : State) (f : Ptp → Ptp) : (s.updPtp f).ras = s.ras := rfl
@[simp] theorem updPtp_errGlobal (s : State) (f : Ptp → Ptp) : (s.updPtp f).errGlobal = s.errGlobal := rfl
@[simp] theorem updPtp_errUnit (s : State) (f : Ptp → Ptp) : (s.updPtp f).errUnit = s.errUnit := rfl
@[simp] theorem updPtp_errCnt (s : State) (f : Ptp → Ptp) : (s.updPtp f).errCnt = s.errCnt := rfl
@[simp] theorem updPtp_filFi (s : State) (f : Ptp → Ptp) : (s.updPtp f).filFi = s.filFi := rfl
@[simp] theorem updPtp_netFi (s : State) (f : Ptp → Ptp) : (s.updPtp f).netFi = s.netFi := rfl
@[simp] theorem updPtp_sel (s : State) (f : Ptp → Ptp) : (s.updPtp f).sel = s.sel := rfl
@[simp] theorem updPtp_serial (s : State) (f : Ptp → Ptp) : (s.updPtp f).serial = s.serial := rfl
@[simp] theorem updPtp_out (s : State) (f : Ptp → Ptp) : (s.updPtp f).out = s.out := rfl
@[simp] theorem updPtp_pending (s : State) (f : Ptp → Ptp) : (s.updPtp f).pending = s.pending := rfl

/-! ## setHalves -/

@[simp] theorem setHalves_now (s : State) (h : Halves) : (s.setHalves h).now = s.now := rfl
@[simp] theorem setHalves_freeCtr (s : State) (h : Halves) : (s.setHalves h).freeCtr = s.freeCtr := rfl
@[simp] theorem setHalves_dev (s : State) (h : Halves) : (s.setHalves h).dev = s.dev := rfl
@[simp] theorem setHalves_set (s : State) (h : Halves) : (s.setHalves h).set = s.set := rfl
@[simp] theorem setHalves_frm (s : State) (h : Halves) : (s.setHalves h).frm = s.frm := rfl
@[simp] theorem setHalves_beads (s : State) (h : Halves) : (s.setHalves h).beads = s.beads := rfl
@[simp] theorem setHalves_units (s : State) (h : Halves) : (s.setHalves h).units = s.units := rfl
@[simp] theorem setHalves_merges (s : State) (h : Halves) : (s.setHalves h).merges = s.merges := rfl
@[simp] theorem setHalves_mtWait (s : State) (h : Halves) : (s.setHalves h).mtWait = s.mtWait := rfl
@[simp] theorem setHalves_colls (s : State) (h : Halves) : (s.setHalves h).colls = s.colls := rfl
@[simp] theorem setHalves_early (s : State) (h : Halves) : (s.setHalves h).early = s.early := rfl
@[simp] theorem setHalves_clasps (s : State) (h : Halves) : (s.setHalves h).clasps = s.clasps := rfl
@[simp] theorem setHalves_claspSnap (s : State) (h : Halves) : (s.setHalves h).claspSnap = s.claspSnap := rfl
@[simp] theorem setHalves_stalledOps (s : State) (h : Halves) : (s.setHalves h).stalledOps = s.stalledOps := rfl
@[simp] theorem setHalves_sessions (s : State) (h : Halves) : (s.setHalves h).sessions = s.sessions := rfl
@[simp] theorem setHalves_quota (s : State) (h : Halves) : (s.setHalves h).quota = s.quota := rfl
@[simp] theorem setHalves_sesReserved (s : State) (h : Halves) : (s.setHalves h).sesReserved = s.sesReserved := rfl
@[simp] theorem setHalves_mem (s : State) (h : Halves) : (s.setHalves h).mem = s.mem := rfl
@[simp] theorem setHalves_bpm (s : State) (h : Halves) : (s.setHalves h).bpm = s.bpm := rfl
@[simp] theorem setHalves_fil (s : State) (h : Halves) : (s.setHalves h).fil = s.fil := rfl
@[simp] theorem setHalves_net (s : State) (h : Halves) : (s.setHalves h).net = s.net := rfl
@[simp] theorem setHalves_fns (s : State) (h : Halves) : (s.setHalves h).fns = s.fns := rfl
@[simp] theorem setHalves_wins (s : State) (h : Halves) : (s.setHalves h).wins = s.wins := rfl
@[simp] theorem setHalves_perst (s : State) (h : Halves) : (s.setHalves h).perst = s.perst := rfl
@[simp] theorem setHalves_hmk (s : State) (h : Halves) : (s.setHalves h).hmk = s.hmk := rfl
@[simp] theorem setHalves_pwr (s : State) (h : Halves) : (s.setHalves h).pwr = s.pwr := rfl
@[simp] theorem setHalves_mgt (s : State) (h : Halves) : (s.setHalves h).mgt = s.mgt := rfl
@[simp] theorem setHalves_jtag (s : State) (h : Halves) : (s.setHalves h).jtag = s.jtag := rfl
@[simp] theorem setHalves_ras (s : State) (h : Halves) : (s.setHalves h).ras = s.ras := rfl
@[simp] theorem setHalves_errGlobal (s : State) (h : Halves) : (s.setHalves h).errGlobal = s.errGlobal := rfl
@[simp] theorem setHalves_errUnit (s : State) (h : Halves) : (s.setHalves h).errUnit = s.errUnit := rfl
@[simp] theorem setHalves_errCnt (s : State) (h : Halves) : (s.setHalves h).errCnt = s.errCnt := rfl
@[simp] theorem setHalves_filFi (s : State) (h : Halves) : (s.setHalves h).filFi = s.filFi := rfl
@[simp] theorem setHalves_netFi (s : State) (h : Halves) : (s.setHalves h).netFi = s.netFi := rfl
@[simp] theorem setHalves_sel (s : State) (h : Halves) : (s.setHalves h).sel = s.sel := rfl
@[simp] theorem setHalves_serial (s : State) (h : Halves) : (s.setHalves h).serial = s.serial := rfl
@[simp] theorem setHalves_out (s : State) (h : Halves) : (s.setHalves h).out = s.out := rfl
@[simp] theorem setHalves_pending (s : State) (h : Halves) : (s.setHalves h).pending = s.pending := rfl

/-! ## updSes -/

@[simp] theorem updSes_now (s : State) (i : Nat) (f : Session → Session) : (s.updSes i f).now = s.now := rfl
@[simp] theorem updSes_freeCtr (s : State) (i : Nat) (f : Session → Session) : (s.updSes i f).freeCtr = s.freeCtr := rfl
@[simp] theorem updSes_dev (s : State) (i : Nat) (f : Session → Session) : (s.updSes i f).dev = s.dev := rfl
@[simp] theorem updSes_set (s : State) (i : Nat) (f : Session → Session) : (s.updSes i f).set = s.set := rfl
@[simp] theorem updSes_frm (s : State) (i : Nat) (f : Session → Session) : (s.updSes i f).frm = s.frm := rfl
@[simp] theorem updSes_beads (s : State) (i : Nat) (f : Session → Session) : (s.updSes i f).beads = s.beads := rfl
@[simp] theorem updSes_units (s : State) (i : Nat) (f : Session → Session) : (s.updSes i f).units = s.units := rfl
@[simp] theorem updSes_merges (s : State) (i : Nat) (f : Session → Session) : (s.updSes i f).merges = s.merges := rfl
@[simp] theorem updSes_mtWait (s : State) (i : Nat) (f : Session → Session) : (s.updSes i f).mtWait = s.mtWait := rfl
@[simp] theorem updSes_colls (s : State) (i : Nat) (f : Session → Session) : (s.updSes i f).colls = s.colls := rfl
@[simp] theorem updSes_early (s : State) (i : Nat) (f : Session → Session) : (s.updSes i f).early = s.early := rfl
@[simp] theorem updSes_clasps (s : State) (i : Nat) (f : Session → Session) : (s.updSes i f).clasps = s.clasps := rfl
@[simp] theorem updSes_claspSnap (s : State) (i : Nat) (f : Session → Session) : (s.updSes i f).claspSnap = s.claspSnap := rfl
@[simp] theorem updSes_stalledOps (s : State) (i : Nat) (f : Session → Session) : (s.updSes i f).stalledOps = s.stalledOps := rfl
@[simp] theorem updSes_quota (s : State) (i : Nat) (f : Session → Session) : (s.updSes i f).quota = s.quota := rfl
@[simp] theorem updSes_sesReserved (s : State) (i : Nat) (f : Session → Session) : (s.updSes i f).sesReserved = s.sesReserved := rfl
@[simp] theorem updSes_mem (s : State) (i : Nat) (f : Session → Session) : (s.updSes i f).mem = s.mem := rfl
@[simp] theorem updSes_bpm (s : State) (i : Nat) (f : Session → Session) : (s.updSes i f).bpm = s.bpm := rfl
@[simp] theorem updSes_fil (s : State) (i : Nat) (f : Session → Session) : (s.updSes i f).fil = s.fil := rfl
@[simp] theorem updSes_net (s : State) (i : Nat) (f : Session → Session) : (s.updSes i f).net = s.net := rfl
@[simp] theorem updSes_fns (s : State) (i : Nat) (f : Session → Session) : (s.updSes i f).fns = s.fns := rfl
@[simp] theorem updSes_wins (s : State) (i : Nat) (f : Session → Session) : (s.updSes i f).wins = s.wins := rfl
@[simp] theorem updSes_halves (s : State) (i : Nat) (f : Session → Session) : (s.updSes i f).halves = s.halves := rfl
@[simp] theorem updSes_perst (s : State) (i : Nat) (f : Session → Session) : (s.updSes i f).perst = s.perst := rfl
@[simp] theorem updSes_hmk (s : State) (i : Nat) (f : Session → Session) : (s.updSes i f).hmk = s.hmk := rfl
@[simp] theorem updSes_pwr (s : State) (i : Nat) (f : Session → Session) : (s.updSes i f).pwr = s.pwr := rfl
@[simp] theorem updSes_mgt (s : State) (i : Nat) (f : Session → Session) : (s.updSes i f).mgt = s.mgt := rfl
@[simp] theorem updSes_jtag (s : State) (i : Nat) (f : Session → Session) : (s.updSes i f).jtag = s.jtag := rfl
@[simp] theorem updSes_ras (s : State) (i : Nat) (f : Session → Session) : (s.updSes i f).ras = s.ras := rfl
@[simp] theorem updSes_errGlobal (s : State) (i : Nat) (f : Session → Session) : (s.updSes i f).errGlobal = s.errGlobal := rfl
@[simp] theorem updSes_errUnit (s : State) (i : Nat) (f : Session → Session) : (s.updSes i f).errUnit = s.errUnit := rfl
@[simp] theorem updSes_errCnt (s : State) (i : Nat) (f : Session → Session) : (s.updSes i f).errCnt = s.errCnt := rfl
@[simp] theorem updSes_filFi (s : State) (i : Nat) (f : Session → Session) : (s.updSes i f).filFi = s.filFi := rfl
@[simp] theorem updSes_netFi (s : State) (i : Nat) (f : Session → Session) : (s.updSes i f).netFi = s.netFi := rfl
@[simp] theorem updSes_sel (s : State) (i : Nat) (f : Session → Session) : (s.updSes i f).sel = s.sel := rfl
@[simp] theorem updSes_serial (s : State) (i : Nat) (f : Session → Session) : (s.updSes i f).serial = s.serial := rfl
@[simp] theorem updSes_out (s : State) (i : Nat) (f : Session → Session) : (s.updSes i f).out = s.out := rfl
@[simp] theorem updSes_pending (s : State) (i : Nat) (f : Session → Session) : (s.updSes i f).pending = s.pending := rfl

/-! ## flashQueue -/

@[simp] theorem flashQueue_now (s : State) (r : FlashReq) : (s.flashQueue r).now = s.now := rfl
@[simp] theorem flashQueue_freeCtr (s : State) (r : FlashReq) : (s.flashQueue r).freeCtr = s.freeCtr := rfl
@[simp] theorem flashQueue_dev (s : State) (r : FlashReq) : (s.flashQueue r).dev = s.dev := rfl
@[simp] theorem flashQueue_set (s : State) (r : FlashReq) : (s.flashQueue r).set = s.set := rfl
@[simp] theorem flashQueue_frm (s : State) (r : FlashReq) : (s.flashQueue r).frm = s.frm := rfl
@[simp] theorem flashQueue_beads (s : State) (r : FlashReq) : (s.flashQueue r).beads = s.beads := rfl
@[simp] theorem flashQueue_units (s : State) (r : FlashReq) : (s.flashQueue r).units = s.units := rfl
@[simp] theorem flashQueue_merges (s : State) (r : FlashReq) : (s.flashQueue r).merges = s.merges := rfl
@[simp] theorem flashQueue_mtWait (s : State) (r : FlashReq) : (s.flashQueue r).mtWait = s.mtWait := rfl
@[simp] theorem flashQueue_colls (s : State) (r : FlashReq) : (s.flashQueue r).colls = s.colls := rfl
@[simp] theorem flashQueue_early (s : State) (r : FlashReq) : (s.flashQueue r).early = s.early := rfl
@[simp] theorem flashQueue_clasps (s : State) (r : FlashReq) : (s.flashQueue r).clasps = s.clasps := rfl
@[simp] theorem flashQueue_claspSnap (s : State) (r : FlashReq) : (s.flashQueue r).claspSnap = s.claspSnap := rfl
@[simp] theorem flashQueue_stalledOps (s : State) (r : FlashReq) : (s.flashQueue r).stalledOps = s.stalledOps := rfl
@[simp] theorem flashQueue_sessions (s : State) (r : FlashReq) : (s.flashQueue r).sessions = s.sessions := rfl
@[simp] theorem flashQueue_quota (s : State) (r : FlashReq) : (s.flashQueue r).quota = s.quota := rfl
@[simp] theorem flashQueue_sesReserved (s : State) (r : FlashReq) : (s.flashQueue r).sesReserved = s.sesReserved := rfl
@[simp] theorem flashQueue_mem (s : State) (r : FlashReq) : (s.flashQueue r).mem = s.mem := rfl
@[simp] theorem flashQueue_bpm (s : State) (r : FlashReq) : (s.flashQueue r).bpm = s.bpm := rfl
@[simp] theorem flashQueue_fil (s : State) (r : FlashReq) : (s.flashQueue r).fil = s.fil := rfl
@[simp] theorem flashQueue_net (s : State) (r : FlashReq) : (s.flashQueue r).net = s.net := rfl
@[simp] theorem flashQueue_fns (s : State) (r : FlashReq) : (s.flashQueue r).fns = s.fns := rfl
@[simp] theorem flashQueue_wins (s : State) (r : FlashReq) : (s.flashQueue r).wins = s.wins := rfl
@[simp] theorem flashQueue_halves (s : State) (r : FlashReq) : (s.flashQueue r).halves = s.halves := rfl
@[simp] theorem flashQueue_perst (s : State) (r : FlashReq) : (s.flashQueue r).perst = s.perst := rfl
@[simp] theorem flashQueue_pwr (s : State) (r : FlashReq) : (s.flashQueue r).pwr = s.pwr := rfl
@[simp] theorem flashQueue_mgt (s : State) (r : FlashReq) : (s.flashQueue r).mgt = s.mgt := rfl
@[simp] theorem flashQueue_jtag (s : State) (r : FlashReq) : (s.flashQueue r).jtag = s.jtag := rfl
@[simp] theorem flashQueue_ras (s : State) (r : FlashReq) : (s.flashQueue r).ras = s.ras := rfl
@[simp] theorem flashQueue_errGlobal (s : State) (r : FlashReq) : (s.flashQueue r).errGlobal = s.errGlobal := rfl
@[simp] theorem flashQueue_errUnit (s : State) (r : FlashReq) : (s.flashQueue r).errUnit = s.errUnit := rfl
@[simp] theorem flashQueue_errCnt (s : State) (r : FlashReq) : (s.flashQueue r).errCnt = s.errCnt := rfl
@[simp] theorem flashQueue_filFi (s : State) (r : FlashReq) : (s.flashQueue r).filFi = s.filFi := rfl
@[simp] theorem flashQueue_netFi (s : State) (r : FlashReq) : (s.flashQueue r).netFi = s.netFi := rfl
@[simp] theorem flashQueue_sel (s : State) (r : FlashReq) : (s.flashQueue r).sel = s.sel := rfl
@[simp] theorem flashQueue_serial (s : State) (r : FlashReq) : (s.flashQueue r).serial = s.serial := rfl
@[simp] theorem flashQueue_out (s : State) (r : FlashReq) : (s.flashQueue r).out = s.out := rfl
@[simp] theorem flashQueue_pending (s : State) (r : FlashReq) : (s.flashQueue r).pending = s.pending := rfl

/-! ## returnSes -/

@[simp] theorem returnSes_now (s : State) (v : Nat) : (s.returnSes v).now = s.now := rfl
@[simp] theorem returnSes_freeCtr (s : State) (v : Nat) : (s.returnSes v).freeCtr = s.freeCtr := rfl
@[simp] theorem returnSes_dev (s : State) (v : Nat) : (s.returnSes v).dev = s.dev := rfl
@[simp] theorem returnSes_set (s : State) (v : Nat) : (s.returnSes v).set = s.set := rfl
@[simp] theorem returnSes_frm (s : State) (v : Nat) : (s.returnSes v).frm = s.frm := rfl
@[simp] theorem returnSes_beads (s : State) (v : Nat) : (s.returnSes v).beads = s.beads := rfl
@[simp] theorem returnSes_units (s : State) (v : Nat) : (s.returnSes v).units = s.units := rfl
@[simp] theorem returnSes_merges (s : State) (v : Nat) : (s.returnSes v).merges = s.merges := rfl
@[simp] theorem returnSes_mtWait (s : State) (v : Nat) : (s.returnSes v).mtWait = s.mtWait := rfl
@[simp] theorem returnSes_colls (s : State) (v : Nat) : (s.returnSes v).colls = s.colls := rfl
@[simp] theorem returnSes_early (s : State) (v : Nat) : (s.returnSes v).early = s.early := rfl
@[simp] theorem returnSes_clasps (s : State) (v : Nat) : (s.returnSes v).clasps = s.clasps := rfl
@[simp] theorem returnSes_claspSnap (s : State) (v : Nat) : (s.returnSes v).claspSnap = s.claspSnap := rfl
@[simp] theorem returnSes_stalledOps (s : State) (v : Nat) : (s.returnSes v).stalledOps = s.stalledOps := rfl
@[simp] theorem returnSes_sessions (s : State) (v : Nat) : (s.returnSes v).sessions = s.sessions := rfl
@[simp] theorem returnSes_sesReserved (s : State) (v : Nat) : (s.returnSes v).sesReserved = s.sesReserved := rfl
@[simp] theorem returnSes_mem (s : State) (v : Nat) : (s.returnSes v).mem = s.mem := rfl
@[simp] theorem returnSes_bpm (s : State) (v : Nat) : (s.returnSes v).bpm = s.bpm := rfl
@[simp] theorem returnSes_fil (s : State) (v : Nat) : (s.returnSes v).fil = s.fil := rfl
@[simp] theorem returnSes_net (s : State) (v : Nat) : (s.returnSes v).net = s.net := rfl
@[simp] theorem returnSes_fns (s : State) (v : Nat) : (s.returnSes v).fns = s.fns := rfl
@[simp] theorem returnSes_wins (s : State) (v : Nat) : (s.returnSes v).wins = s.wins := rfl
@[simp] theorem returnSes_halves (s : State) (v : Nat) : (s.returnSes v).halves = s.halves := rfl
@[simp] theorem returnSes_perst (s : State) (v : Nat) : (s.returnSes v).perst = s.perst := rfl
@[simp] theorem returnSes_hmk (s : State) (v : Nat) : (s.returnSes v).hmk = s.hmk := rfl
@[simp] theorem returnSes_pwr (s : State) (v : Nat) : (s.returnSes v).pwr = s.pwr := rfl
@[simp] theorem returnSes_mgt (s : State) (v : Nat) : (s.returnSes v).mgt = s.mgt := rfl
@[simp] theorem returnSes_jtag (s : State) (v : Nat) : (s.returnSes v).jtag = s.jtag := rfl
@[simp] theorem returnSes_ras (s : State) (v : Nat) : (s.returnSes v).ras = s.ras := rfl
@[simp] theorem returnSes_errGlobal (s : State) (v : Nat) : (s.returnSes v).errGlobal = s.errGlobal := rfl
@[simp] theorem returnSes_errUnit (s : State) (v : Nat) : (s.returnSes v).errUnit = s.errUnit := rfl
@[simp] theorem returnSes_errCnt (s : State) (v : Nat) : (s.returnSes v).errCnt = s.errCnt := rfl
@[simp] theorem returnSes_filFi (s : State) (v : Nat) : (s.returnSes v).filFi = s.filFi := rfl
@[simp] theorem returnSes_netFi (s : State) (v : Nat) : (s.returnSes v).netFi = s.netFi := rfl
@[simp] theorem returnSes_sel (s : State) (v : Nat) : (s.returnSes v).sel = s.sel := rfl
@[simp] theorem returnSes_serial (s : State) (v : Nat) : (s.returnSes v).serial = s.serial := rfl
@[simp] theorem returnSes_out (s : State) (v : Nat) : (s.returnSes v).out = s.out := rfl
@[simp] theorem returnSes_pending (s : State) (v : Nat) : (s.returnSes v).pending = s.pending := rfl

/-! ## Named parts after their updates -/

theorem updBead_bead (s : State) (b c : Nat) (f : Bead → Bead) : (s.updBead b f).bead c = if c = b then f (s.bead b) else s.bead c := mget_mput ..
theorem setBead_bead (s : State) (b c : Nat) (x : Bead) : (s.setBead b x).bead c = if c = b then x else s.bead c := mget_mput ..
theorem updClasp_clasp (s : State) (i j : Nat) (f : Clasp → Clasp) : (s.updClasp i f).clasp j = if j = i then f (s.clasp i) else s.clasp j := mget_mput ..
theorem updFn_fn (s : State) (i j : Nat) (f : PcieFn → PcieFn) : (s.updFn i f).fn j = if j = i then f (s.fn i) else s.fn j := mget_mput ..
theorem updWin_win (s : State) (i j : Nat) (f : UserWin → UserWin) : (s.updWin i f).win j = if j = i then f (s.win i) else s.win j := mget_mput ..
theorem updUnit_unitSt (s : State) (i j : Nat) (f : UnitSt → UnitSt) :
    (s.updUnit i f).unitSt j = if j = i then f (s.unitSt i) else s.unitSt j := mget_mput ..
theorem updSes_ses (s : State) (i j : Nat) (f : Session → Session) : (s.updSes i f).ses j = if j = i then f (s.ses i) else s.ses j := mget_mput ..
theorem setPage_page (s : State) (i j : Nat) (p : Page) : (s.setPage i p).page j = if j = i then p else s.page j := mget_mput ..
theorem updSub_sub (s : State) (i j : Nat) (f : SubCh → SubCh) : (s.updSub i f).sub j = if j = i then f (s.sub i) else s.sub j := mget_mput ..
theorem setConn_conn (s : State) (i j : Nat) (c : SpdmConn) : (s.setConn i c).conn j = if j = i then c else s.conn j := mget_mput ..

/-! ## Devices that run -/

theorem unlessDown_of_running {s : State} (h : s.halted = false) (o : Host.Outcome State Fault Refusal) : s.unlessDown o = o := by
  simp [State.unlessDown, h]

theorem unlessOff_of_clocks {s : State} (h : s.clocksOff = false) (o : Host.Outcome State Fault Refusal) : s.unlessOff o = o := by
  simp [State.unlessOff, h]

end Sys2Proof.Machine
end

