-- ==== Sys2Proof/Laws/Clasp.lean ====
section
/-! SUPPORT. What a write through the directory and the settling of a clasp do. -/

set_option Elab.async false

namespace Sys2Proof.Machine

/-! ## Package memory -/

theorem MemState.putBytes_other (m : MemState) (a x : Nat) (bs : List Byte) (h : x < a ∨ a + bs.length ≤ x) :
    (m.putBytes a bs).ram.read x = m.ram.read x := by
  induction bs generalizing m a with
  | nil => rfl
  | cons v t ih =>
    simp only [List.length_cons] at h
    unfold MemState.putBytes
    rw [ih _ _ (by omega)]
    split
    · rfl
    · exact Bytes.read_write_other _ _ _ _ (by omega)

theorem MemState.write_other (m : MemState) (a x : Nat) (bs : List Byte) (h : x < a ∨ a + bs.length ≤ x) :
    (m.write a bs).ram.read x = m.ram.read x := MemState.putBytes_other m a x bs h

theorem MemState.putBytes_core (m : MemState) (a : Nat) (bs : List Byte) : (m.putBytes a bs).core = m.core := by
  induction bs generalizing m a with
  | nil => rfl
  | cons v t ih => unfold MemState.putBytes; rw [ih]; split <;> rfl

/-- A flush stores only to the lines of dirty copies that it writes back. -/
theorem MemState.flush_other (m : MemState) (a n x : Nat) (h : ¬ m.touches a n x) : (m.flush a n).ram.read x = m.ram.read x := by
  unfold MemState.flush
  show (List.foldl _ m _).ram.read x = _
  have key : ∀ (l : List (Nat × CoreLine)) (k : MemState), (∀ p, p ∈ l → p.2.dirty = true → ¬ (p.1 * 64 ≤ x ∧ x < p.1 * 64 + p.2.bytes.length)) →
      (l.foldl (fun m p =>
        if p.2.dirty then
          let m := m.write (p.1 * 64) p.2.bytes
          if p.2.poison then m.mark (p.1 * 64) 64 else m
        else m) k).ram.read x = k.ram.read x := by
    intro l
    induction l with
    | nil => intros; rfl
    | cons p t ih =>
      intro k hk
      rw [List.foldl_cons, ih _ (fun q hq => hk q (List.mem_cons_of_mem _ hq))]
      split
      · rename_i d
        have := hk p List.mem_cons_self d
        split <;> exact MemState.write_other _ _ _ _ (by omega)
      · rfl
  refine key _ _ (fun p hp hd hx => h (.inr ⟨p, ?_⟩))
  simp only [List.mem_filter, List.contains_iff_mem] at hp
  exact ⟨hp.1, hd, hp.2, hx.1, hx.2⟩

theorem MemState.flush_core (m : MemState) (a n : Nat) : (m.flush a n).core = m.core.filter (fun p => !(granules 64 a n).contains p.1) := by
  unfold MemState.flush
  have key : ∀ (l : List (Nat × CoreLine)) (k : MemState), (l.foldl (fun m p =>
        if p.2.dirty then
          let m := m.write (p.1 * 64) p.2.bytes
          if p.2.poison then m.mark (p.1 * 64) 64 else m
        else m) k).core = k.core := by
    intro l
    induction l with
    | nil => intros; rfl
    | cons p t ih =>
      intro k
      rw [List.foldl_cons, ih]
      split
      · split <;> exact MemState.putBytes_core ..
      · rfl
  show (List.foldl _ m _).core.filter _ = _
  rw [key]

theorem memWriteC_read (s : State) (a x : Nat) (bs : List Byte) (h : ¬ s.mem.touches a bs.length x) :
    (s.memWriteC a bs).mem.ram.read x = s.mem.ram.read x := by
  show ((s.mem.flush a bs.length).write a bs).ram.read x = _
  rw [MemState.write_other, MemState.flush_other _ _ _ _ h]
  have : ¬ (a ≤ x ∧ x < a + bs.length) := fun g => h (.inl g)
  omega

/-- What a later write touches, an earlier state's would have touched: copies only go. -/
theorem MemState.touches_of_core {m k : MemState} {a n x : Nat} (hc : ∀ p, p ∈ k.core → p ∈ m.core) (h : k.touches a n x) : m.touches a n x := by
  rcases h with h | ⟨p, hp, r⟩
  · exact .inl h
  · exact .inr ⟨p, hc p hp, r⟩

theorem memWriteC_core (s : State) (a : Nat) (bs : List Byte) : ∀ p, p ∈ (s.memWriteC a bs).mem.core → p ∈ s.mem.core := by
  intro p hp
  have : (s.memWriteC a bs).mem.core = s.mem.core.filter (fun p => !(granules 64 a bs.length).contains p.1) := by
    show ((s.mem.flush a bs.length).putBytes a bs).core = _
    rw [MemState.putBytes_core, MemState.flush_core]
  rw [this] at hp
  exact List.mem_of_mem_filter hp

/-! ## Completion of waits -/

/-- A wait's completion stores no byte but its notify word's, and changes no bead but the waiter. -/
theorem completeWait_spec (s : State) (id : Nat) (who : Waiter) (c : Nat) (e : Bool) :
    let t := s.completeWait id who c e
    (∀ x, ¬ s.notifyTouches who x → t.mem.ram.read x = s.mem.ram.read x) ∧ (∀ p, p ∈ t.mem.core → p ∈ s.mem.core) ∧
    (∀ b, t.bead b = if who = .bead b then { s.bead b with wake := some e } else s.bead b) := by
  cases who with
  | bead b =>
    refine ⟨fun x _ => rfl, fun p h => h, fun c => ?_⟩
    simp only [State.completeWait, updBead_bead, Waiter.bead.injEq]
    by_cases h : c = b
    · subst h; simp
    · simp [h, Ne.symm h]
  | remote p k =>
    have k1 := kept_tell s p 0x0002 [k, if e then St.clpError else 0, c]
    refine ⟨fun x _ => ?_, fun p h => ?_, fun b => ?_⟩
    · show (s.tell _ _ _).mem.ram.read x = _
      rw [k1.mem_eq (by decide)]
    · have := k1.mem_eq (by decide)
      simpa [State.completeWait, this] using h
    · simp only [State.completeWait, State.bead, k1.beads_eq (by decide)]; simp
  | notify w n =>
    have hb : ∀ b, (s.completeWait id (.notify w n) c e).bead b = s.bead b := by
      intro b
      have k2 : Kept 0x20c0220000 s (s.completeWait id (.notify w n) c e) := kept_notify ..
      simp only [State.bead, k2.beads_eq (by decide)]
    have hl : ∀ a, (leBytes 8 a).length = 8 := by intro a; rfl
    refine ⟨fun x hx => ?_, fun p h => ?_, fun b => by simp [hb]⟩
    · cases w with
      | some w =>
        simp only [State.completeWait, State.notify]
        split
        · exact memWriteC_read _ _ _ _ (by rw [hl]; exact hx)
        · rw [(kept_raiseU ..).mem_eq (by decide)]
      | none =>
        simp only [State.completeWait, State.notify]
        split
        · exact memWriteC_read _ _ _ _ (by rw [hl]; exact hx)
        · rw [(kept_raiseG ..).mem_eq (by decide)]
    · cases w with
      | some w =>
        simp only [State.completeWait, State.notify] at h
        split at h
        · exact memWriteC_core _ _ _ _ h
        · rwa [(kept_raiseU ..).mem_eq (by decide)] at h
      | none =>
        simp only [State.completeWait, State.notify] at h
        split at h
        · exact memWriteC_core _ _ _ _ h
        · rwa [(kept_raiseG ..).mem_eq (by decide)] at h

theorem completeWait_notifyTouches (s : State) (id : Nat) (who o : Waiter) (c : Nat) (e : Bool) (x : Nat)
    (h : (s.completeWait id who c e).notifyTouches o x) : s.notifyTouches o x := by
  have k := kept_completeWait s id who c e
  cases o with
  | bead b => exact h
  | remote p k => exact h
  | notify w n =>
    unfold State.notifyTouches at h ⊢
    have a : (s.completeWait id who c e).notifyAt w n = s.notifyAt w n := by
      cases w with
      | none => simp only [State.notifyAt, k.sel_eq (by decide)]
      | some w => simp only [State.notifyAt, State.win, k.wins_eq (by decide)]
    simp only [a] at h
    exact MemState.touches_of_core (completeWait_spec s id who c e).2.1 h

theorem completeWaits_spec (id c : Nat) (e : Bool) (ws : List ClaspWait) (s : State) :
    let t := ws.foldl (fun s w => s.completeWait id w.who c e) s
    (∀ x, (∀ w, w ∈ ws → ¬ s.notifyTouches w.who x) → t.mem.ram.read x = s.mem.ram.read x) ∧
    (∀ b, t.bead b = if ws.any (fun w => w.who == .bead b) then { s.bead b with wake := some e } else s.bead b) := by
  induction ws generalizing s with
  | nil => exact ⟨fun _ _ => rfl, fun b => by simp⟩
  | cons w t ih =>
    obtain ⟨h1, h2⟩ := ih (s.completeWait id w.who c e)
    obtain ⟨g1, _, g3⟩ := completeWait_spec s id w.who c e
    refine ⟨fun x hx => ?_, fun b => ?_⟩
    · rw [List.foldl_cons, h1 x, g1 x (hx w List.mem_cons_self)]
      exact fun v hv hn => hx v (List.mem_cons_of_mem _ hv) (completeWait_notifyTouches s id w.who v.who c e x hn)
    · rw [List.foldl_cons, h2 b, g3 b]
      by_cases a : w.who = .bead b <;> by_cases d : t.any (fun w => w.who == .bead b) = true <;> simp [a, d]

theorem settle_takes (s : State) (id : Nat) : ClaspTakes s (s.settle id) id (s.clasp id).counter (s.clasp id).err := by
  have kf := kept_fireMsix (s.wakeWaits id) id
  have k := kept_settle s id
  let s1 := s.updClasp id (fun c => { c with waits := c.waits.filter (fun w => !c.meets w.target) })
  let ws := (s.clasp id).waits.filter (fun w => (s.clasp id).meets w.target)
  have hw : s.wakeWaits id = ws.foldl (fun u w => u.completeWait id w.who (s.clasp id).counter (s.clasp id).err) s1 := by
    unfold State.wakeWaits; rfl
  have kw : ∀ (c : Nat) (e : Bool) (l : List ClaspWait) (u : State), (l.foldl (fun s w => s.completeWait id w.who c e) u).clasps = u.clasps := by
    intro c e l
    induction l with
    | nil => intro u; rfl
    | cons w t ih => intro u; rw [List.foldl_cons, ih]; exact (kept_completeWait ..).clasps_eq (by decide)
  have hc : (s.settle id).clasps = s1.clasps := by
    show ((s.wakeWaits id).fireMsix id).clasps = _
    rw [kf.clasps_eq (by decide), hw, kw]
  have hcl : ∀ i, (s.settle id).clasp i = s1.clasp i := fun i => by unfold State.clasp; rw [hc]
  obtain ⟨m, b⟩ := completeWaits_spec id (s.clasp id).counter (s.clasp id).err ws s1
  refine ⟨?_, ?_, ?_, ?_, ?_, k.sameBut _ (by intro p; cases p <;> decide)⟩
  · rw [hcl]; simp [s1, updClasp_clasp]
  · rw [hcl]; simp [s1, updClasp_clasp, Clasp.meets]
  · intro i hi; rw [hcl]; simp [s1, updClasp_clasp, hi]
  · intro c
    have : (s.settle id).bead c = (s.wakeWaits id).bead c := by
      unfold State.bead; rw [show (s.settle id).beads = _ from kf.beads_eq (by decide)]
    rw [this, hw, b c]
    simp only [ws, List.any_filter, Clasp.meets, s1, State.bead, updClasp_beads, Bool.and_comm]
  · intro x hx
    have : (s.settle id).mem = (s.wakeWaits id).mem := kf.mem_eq (by decide)
    rw [this, hw, m x]
    · rfl
    · intro w hw2 hn
      simp only [ws, List.mem_filter, Clasp.meets, Bool.or_eq_true, decide_eq_true_eq] at hw2
      exact hx w hw2.1 hw2.2 hn

/-- A change of the clasp's own counter and flag, then the settling. -/
theorem ClaspTakes.after {s u t : State} {id c : Nat} {e : Bool} (hw : (u.clasp id).waits = (s.clasp id).waits)
    (ho : ∀ i, i ≠ id → u.clasp i = s.clasp i) (k : Kept 0x2080200800 s u) (h : ClaspTakes u t id c e) : ClaspTakes s t id c e := by
  have hn : ∀ w x, u.notifyTouches w x ↔ s.notifyTouches w x := by
    intro w x
    cases w with
    | bead b => exact Iff.rfl
    | remote p q => exact Iff.rfl
    | notify w n =>
      have a : u.notifyAt w n = s.notifyAt w n := by
        cases w with
        | none => simp only [State.notifyAt, k.sel_eq (by decide)]
        | some w => simp only [State.notifyAt, State.win, k.wins_eq (by decide)]
      simp only [State.notifyTouches, a, k.mem_eq (by decide)]
  refine ⟨h.value, by rw [h.waits, hw], fun i hi => by rw [h.others i hi, ho i hi], fun b => ?_, fun x hx => ?_,
    (k.sameBut _ (by intro p; cases p <;> decide)).trans h.frame⟩
  · rw [h.woken b, hw]; simp only [State.bead, k.beads_eq (by decide)]
  · rw [h.bytes x (fun w hm hs hh => hx w (by rwa [hw] at hm) hs ((hn _ _).1 hh)), k.mem_eq (by decide)]

theorem claspAdd_clasps (s : State) (id n : Nat) : (s.claspAdd id n).clasps = mput s.clasps id
    (if (s.clasp id).counter + n ≤ claspMax then { s.clasp id with counter := (s.clasp id).counter + n }
     else { s.clasp id with counter := claspMax, err := true }) := by
  unfold State.claspAdd
  dsimp only
  split
  · rfl
  · split
    · rw [(kept_raiseU ..).clasps_eq (by decide)]; rfl
    · rfl

theorem claspAdd_clasp (s : State) (id n : Nat) :
    ((s.claspAdd id n).clasp id).counter = min ((s.clasp id).counter + n) (2 ^ 32 - 1) ∧
    ((s.claspAdd id n).clasp id).err = ((s.clasp id).err || decide (2 ^ 32 ≤ (s.clasp id).counter + n)) ∧
    ((s.claspAdd id n).clasp id).waits = (s.clasp id).waits ∧ ∀ i, i ≠ id → (s.claspAdd id n).clasp i = s.clasp i := by
  have h : ∀ i, (s.claspAdd id n).clasp i = if i = id then _ else s.clasp i := fun i => by
    unfold State.clasp; rw [claspAdd_clasps]; exact mget_mput ..
  rw [h id, if_pos rfl]
  refine ⟨?_, ?_, ?_, fun i hi => by rw [h i, if_neg hi]⟩ <;> unfold claspMax <;> split <;> simp <;> omega

end Sys2Proof.Machine
end

