-- ==== Sys2Proof/Laws/KeptPages.lean ====
section
/-! SUPPORT. What the operations of Machine/Pages.lean may touch. -/

set_option Elab.async false
set_option linter.unusedTactic false
set_option linter.unreachableTactic false

namespace Sys2Proof.Machine

theorem kept_setPage (s : State) (f : Nat) (p : Page) : Kept 0x40000 s (State.setPage s f p) := by
  unfold State.setPage
  repeat' first
    | decide
    | with_reducible exact Kept.refl _ _
    | with_reducible assumption
    | with_reducible refine Kept.ite ?_ ?_
    | with_reducible (show Kept _ _ _; refine Kept.mk ?_)
    | split
    | dsimp only

theorem kept_takePage (s : State) (owner f : Nat) : Kept 0x40000 s (State.takePage s owner f) := by
  unfold State.takePage
  repeat' first
    | decide
    | with_reducible exact Kept.refl _ _
    | with_reducible assumption
    | with_reducible refine Kept.ite ?_ ?_
    | with_reducible apply Kept.step (kept_setPage _ _ _)
    | with_reducible (show Kept _ _ _; refine Kept.mk ?_)
    | split
    | dsimp only

theorem kept_takePages (s : State) (owner n : Nat) (ps : List PoolRec) (got : List Nat) : Kept 0x40000 s (s.takePages owner n ps got).1 := by
  induction n generalizing s got with
  | zero => exact Kept.refl _ _
  | succ n ih =>
    unfold State.takePages
    split
    · exact Kept.refl _ _
    · exact (kept_takePage _ _ _).trans (ih _ _)

theorem kept_mkObject (s : State) (frames : List Nat) : Kept 0x40002 s (State.mkObject s frames).1 := by
  unfold State.mkObject
  repeat' first
    | decide
    | dsimp only
    | with_reducible exact Kept.refl _ _
    | with_reducible assumption
    | with_reducible refine Kept.ite ?_ ?_
    | with_reducible apply Kept.step (kept_fresh _)
    | with_reducible refine Kept.snd_eq ‹_ = (_, _)› (Kept.of (kept_fresh _) ?_)
    | with_reducible apply Kept.step (kept_setPage _ _ _)
    | with_reducible refine Kept.foldl (fun _ _ => ?_) ?_
    | with_reducible (show Kept _ _ _; refine Kept.mk ?_)
    | split
    | dsimp only

theorem kept_allocate (s : State) (owner kind n : Nat) (pools : List PoolRec) : Kept 0x40002 s (State.allocate s owner kind n pools).1 := by
  unfold State.allocate
  repeat' first
    | decide
    | dsimp only
    | with_reducible exact Kept.refl _ _
    | with_reducible assumption
    | with_reducible refine Kept.ite ?_ ?_
    | with_reducible apply Kept.step (kept_takePages _ _ _ _ _)
    | with_reducible refine Kept.fst_eq ‹_ = (_, _)› (Kept.of (kept_takePages _ _ _ _ _) ?_)
    | with_reducible apply Kept.step (kept_mkObject _ _)
    | with_reducible refine Kept.fst_eq ‹_ = (_, _)› (Kept.of (kept_mkObject _ _) ?_)
    | with_reducible refine Kept.fst_eq3 ‹_ = (_, _, _)› (Kept.of (kept_mkObject _ _) ?_)
    | with_reducible refine Kept.foldl (fun _ _ => ?_) ?_
    | with_reducible (show Kept _ _ _; refine Kept.mk ?_)
    | split
    | dsimp only

theorem kept_quarantine (s : State) (h : Nat) : Kept 0x40000 s (State.quarantine s h) := by
  unfold State.quarantine
  repeat' first
    | decide
    | with_reducible exact Kept.refl _ _
    | with_reducible assumption
    | with_reducible refine Kept.ite ?_ ?_
    | with_reducible apply Kept.step (kept_setPage _ _ _)
    | with_reducible refine Kept.foldl (fun _ _ => ?_) ?_
    | with_reducible (show Kept _ _ _; refine Kept.mk ?_)
    | split
    | dsimp only

theorem kept_freeObj (s : State) (requester : Option Nat) (h : Nat) : Kept 0x2040240000 s (State.freeObj s requester h).1 := by
  unfold State.freeObj
  repeat' first
    | decide
    | dsimp only
    | with_reducible exact Kept.refl _ _
    | with_reducible assumption
    | with_reducible refine Kept.ite ?_ ?_
    | with_reducible apply Kept.step (kept_raiseG _ _ _ _ _ _)
    | with_reducible apply Kept.step (kept_quarantine _ _)
    | with_reducible (show Kept _ _ _; refine Kept.mk ?_)
    | split
    | dsimp only

theorem kept_dropObj (s : State) (h : Nat) : Kept 0x40000 s (State.dropObj s h) := by
  unfold State.dropObj
  repeat' first
    | decide
    | with_reducible exact Kept.refl _ _
    | with_reducible assumption
    | with_reducible refine Kept.ite ?_ ?_
    | with_reducible apply Kept.step (kept_quarantine _ _)
    | with_reducible (show Kept _ _ _; refine Kept.mk ?_)
    | split
    | dsimp only

theorem kept_retirePage (s : State) (f : Nat) : Kept 0x40000 s (State.retirePage s f) := by
  unfold State.retirePage
  repeat' first
    | decide
    | with_reducible exact Kept.refl _ _
    | with_reducible assumption
    | with_reducible refine Kept.ite ?_ ?_
    | with_reducible (show Kept _ _ _; refine Kept.mk ?_)
    | split
    | dsimp only

theorem kept_endQuarantine (s : State) (f : Nat) : Kept 0x40000 s (State.endQuarantine s f) := by
  unfold State.endQuarantine
  repeat' first
    | decide
    | with_reducible exact Kept.refl _ _
    | with_reducible assumption
    | with_reducible refine Kept.ite ?_ ?_
    | with_reducible apply Kept.step (kept_retirePage _ _)
    | with_reducible apply Kept.step (kept_setPage _ _ _)
    | with_reducible (show Kept _ _ _; refine Kept.mk ?_)
    | split
    | dsimp only

theorem kept_dropLists (s : State) : Kept 0x40000 s (State.dropLists s) := by
  unfold State.dropLists
  repeat' first
    | decide
    | with_reducible exact Kept.refl _ _
    | with_reducible assumption
    | with_reducible refine Kept.ite ?_ ?_
    | with_reducible (show Kept _ _ _; refine Kept.mk ?_)
    | split
    | dsimp only

end Sys2Proof.Machine
end

