-- ==== Sys2Proof/Laws/KeptTensor.lean ====
section
/-! SUPPORT. What the operations of Machine/Tensor.lean may touch. -/

set_option Elab.async false
set_option linter.unusedTactic false
set_option linter.unreachableTactic false

namespace Sys2Proof.Machine


theorem keptM_wrLift (c : Ctx) (kind x off : Nat) (bs : List PByte) (rsn : Nat) :
    KeptM 0x20060 (getS >>= fun a => liftE (a.wrBytes c kind x off bs rsn) >>= fun s => modS (fun _ => s)) := by
  intro t
  show Kept _ t.s (leftBy ((liftE (t.s.wrBytes c kind x off bs rsn) >>= fun s => modS (fun _ => s)) t))
  cases h : t.s.wrBytes c kind x off bs rsn with
  | error e => exact Kept.refl _ _
  | ok s => exact kept_wrBytes _ _ _ _ _ _ _ _ h

theorem keptM_drawFree : KeptM 0x2 drawFree := fun t => kept_fresh t.s

theorem keptM_drawKey : KeptM 0x2 drawKey := fun t => kept_fresh t.s

theorem keptM_rd (c : Ctx) (kind x off n rsn : Nat) : KeptM 0x20000 (rd c kind x off n rsn) := by
  unfold rd
  repeat' first
    | decide
    | with_reducible exact KeptM.pure _
    | with_reducible exact KeptM.getS
    | with_reducible exact KeptM.get
    | with_reducible exact KeptM.throw _
    | with_reducible exact KeptM.notePoison _
    | with_reducible exact KeptM.liftE _
    | with_reducible refine KeptM.bind ?_ (fun _ => ?_)
    | with_reducible refine KeptM.ite ?_ ?_
    | with_reducible refine KeptM.forM (fun _ => ?_)
    | with_reducible refine KeptM.mapM (fun _ => ?_)
    | with_reducible refine KeptM.foldlM (fun _ _ => ?_) _
    | with_reducible refine KeptM.map ?_
    | with_reducible refine KeptM.modS (fun _ => ?_)
    | with_reducible apply KeptM.use (keptM_liftE )
    | with_reducible apply Kept.step (kept_meterRead _ _ _ _ _ _)
    | with_reducible exact Kept.refl _ _
    | with_reducible assumption
    | with_reducible (show Kept _ _ _; refine Kept.mk ?_)
    | split
    | dsimp only

theorem keptM_wr (c : Ctx) (kind x off : Nat) (bs : List PByte) (rsn : Nat) : KeptM 0x20060 (wr c kind x off bs rsn) := by
  unfold wr
  exact KeptM.bind (KeptM.notePoison _) (fun _ => keptM_wrLift c kind x off bs rsn)

theorem keptM_rdDense (c : Ctx) (d : Desc) (xs : List Nat) (n rsn : Nat) : KeptM 0x20000 (rdDense c d xs n rsn) := by
  unfold rdDense
  repeat' first
    | decide
    | with_reducible exact KeptM.pure _
    | with_reducible exact KeptM.getS
    | with_reducible exact KeptM.get
    | with_reducible exact KeptM.throw _
    | with_reducible exact KeptM.notePoison _
    | with_reducible exact KeptM.liftE _
    | with_reducible refine KeptM.bind ?_ (fun _ => ?_)
    | with_reducible refine KeptM.ite ?_ ?_
    | with_reducible refine KeptM.forM (fun _ => ?_)
    | with_reducible refine KeptM.mapM (fun _ => ?_)
    | with_reducible refine KeptM.foldlM (fun _ _ => ?_) _
    | with_reducible refine KeptM.map ?_
    | with_reducible refine KeptM.modS (fun _ => ?_)
    | with_reducible apply KeptM.use (keptM_rd _ _ _ _ _ _)
    | with_reducible exact Kept.refl _ _
    | with_reducible assumption
    | with_reducible (show Kept _ _ _; refine Kept.mk ?_)
    | split
    | dsimp only

theorem keptM_rdDir (c : Ctx) (d : Desc) (w : Nat) : KeptM 0x20000 (rdDir c d w) := by
  unfold rdDir
  repeat' first
    | decide
    | with_reducible exact KeptM.pure _
    | with_reducible exact KeptM.getS
    | with_reducible exact KeptM.get
    | with_reducible exact KeptM.throw _
    | with_reducible exact KeptM.notePoison _
    | with_reducible exact KeptM.liftE _
    | with_reducible refine KeptM.bind ?_ (fun _ => ?_)
    | with_reducible refine KeptM.ite ?_ ?_
    | with_reducible refine KeptM.forM (fun _ => ?_)
    | with_reducible refine KeptM.mapM (fun _ => ?_)
    | with_reducible refine KeptM.foldlM (fun _ _ => ?_) _
    | with_reducible refine KeptM.map ?_
    | with_reducible refine KeptM.modS (fun _ => ?_)
    | with_reducible apply KeptM.use (keptM_rd _ _ _ _ _ _)
    | with_reducible exact Kept.refl _ _
    | with_reducible assumption
    | with_reducible (show Kept _ _ _; refine Kept.mk ?_)
    | split
    | dsimp only

theorem keptM_rdBlock (c : Ctx) (d : Desc) (xs : List Nat) (g n : Nat) : KeptM 0x20000 (rdBlock c d xs g n) := by
  unfold rdBlock
  repeat' first
    | decide
    | with_reducible exact KeptM.pure _
    | with_reducible exact KeptM.getS
    | with_reducible exact KeptM.get
    | with_reducible exact KeptM.throw _
    | with_reducible exact KeptM.notePoison _
    | with_reducible exact KeptM.liftE _
    | with_reducible refine KeptM.bind ?_ (fun _ => ?_)
    | with_reducible refine KeptM.ite ?_ ?_
    | with_reducible refine KeptM.forM (fun _ => ?_)
    | with_reducible refine KeptM.mapM (fun _ => ?_)
    | with_reducible refine KeptM.foldlM (fun _ _ => ?_) _
    | with_reducible refine KeptM.map ?_
    | with_reducible refine KeptM.modS (fun _ => ?_)
    | with_reducible apply KeptM.use (keptM_rdDir _ _ _)
    | with_reducible apply KeptM.use (keptM_rd _ _ _ _ _ _)
    | with_reducible exact Kept.refl _ _
    | with_reducible assumption
    | with_reducible (show Kept _ _ _; refine Kept.mk ?_)
    | split
    | dsimp only

theorem keptM_rdStored (c : Ctx) (d : Desc) (xs : List Nat) (rsn : Nat) : KeptM 0x20000 (rdStored c d xs rsn) := by
  unfold rdStored
  repeat' first
    | decide
    | with_reducible exact KeptM.pure _
    | with_reducible exact KeptM.getS
    | with_reducible exact KeptM.get
    | with_reducible exact KeptM.throw _
    | with_reducible exact KeptM.notePoison _
    | with_reducible exact KeptM.liftE _
    | with_reducible refine KeptM.bind ?_ (fun _ => ?_)
    | with_reducible refine KeptM.ite ?_ ?_
    | with_reducible refine KeptM.forM (fun _ => ?_)
    | with_reducible refine KeptM.mapM (fun _ => ?_)
    | with_reducible refine KeptM.foldlM (fun _ _ => ?_) _
    | with_reducible refine KeptM.map ?_
    | with_reducible refine KeptM.modS (fun _ => ?_)
    | with_reducible apply KeptM.use (keptM_rdDense _ _ _ _ _)
    | with_reducible apply KeptM.use (keptM_rdBlock _ _ _ _ _)
    | with_reducible exact Kept.refl _ _
    | with_reducible assumption
    | with_reducible (show Kept _ _ _; refine Kept.mk ?_)
    | split
    | dsimp only

theorem keptM_rdScale (c : Ctx) (d : Desc) (xs : List Nat) (blk : Nat) : KeptM 0x20000 (rdScale c d xs blk) := by
  unfold rdScale
  repeat' first
    | decide
    | with_reducible exact KeptM.pure _
    | with_reducible exact KeptM.getS
    | with_reducible exact KeptM.get
    | with_reducible exact KeptM.throw _
    | with_reducible exact KeptM.notePoison _
    | with_reducible exact KeptM.liftE _
    | with_reducible refine KeptM.bind ?_ (fun _ => ?_)
    | with_reducible refine KeptM.ite ?_ ?_
    | with_reducible refine KeptM.forM (fun _ => ?_)
    | with_reducible refine KeptM.mapM (fun _ => ?_)
    | with_reducible refine KeptM.foldlM (fun _ _ => ?_) _
    | with_reducible refine KeptM.map ?_
    | with_reducible refine KeptM.modS (fun _ => ?_)
    | with_reducible apply KeptM.use (keptM_rd _ _ _ _ _ _)
    | with_reducible exact Kept.refl _ _
    | with_reducible assumption
    | with_reducible (show Kept _ _ _; refine Kept.mk ?_)
    | split
    | dsimp only

theorem keptM_rdRun (c : Ctx) (d : Desc) (xs : List Nat) (rsn : Nat) (sc : Bool) : KeptM 0x20000 (rdRun c d xs rsn sc) := by
  unfold rdRun
  repeat' first
    | decide
    | with_reducible exact KeptM.pure _
    | with_reducible exact KeptM.getS
    | with_reducible exact KeptM.get
    | with_reducible exact KeptM.throw _
    | with_reducible exact KeptM.notePoison _
    | with_reducible exact KeptM.liftE _
    | with_reducible refine KeptM.bind ?_ (fun _ => ?_)
    | with_reducible refine KeptM.ite ?_ ?_
    | with_reducible refine KeptM.forM (fun _ => ?_)
    | with_reducible refine KeptM.mapM (fun _ => ?_)
    | with_reducible refine KeptM.foldlM (fun _ _ => ?_) _
    | with_reducible refine KeptM.map ?_
    | with_reducible refine KeptM.modS (fun _ => ?_)
    | with_reducible apply KeptM.use (keptM_rdScale _ _ _ _)
    | with_reducible apply KeptM.use (keptM_rdStored _ _ _ _)
    | with_reducible exact Kept.refl _ _
    | with_reducible assumption
    | with_reducible (show Kept _ _ _; refine Kept.mk ?_)
    | split
    | dsimp only

theorem keptM_wrRun (c : Ctx) (d : Desc) (xs : List Nat) (es : List AccElem) (bad : Bool) : KeptM 0x20060 (wrRun c d xs es bad) := by
  unfold wrRun
  repeat' first
    | decide
    | with_reducible exact KeptM.pure _
    | with_reducible exact KeptM.getS
    | with_reducible exact KeptM.get
    | with_reducible exact KeptM.throw _
    | with_reducible exact KeptM.notePoison _
    | with_reducible exact KeptM.liftE _
    | with_reducible refine KeptM.bind ?_ (fun _ => ?_)
    | with_reducible refine KeptM.ite ?_ ?_
    | with_reducible refine KeptM.forM (fun _ => ?_)
    | with_reducible refine KeptM.mapM (fun _ => ?_)
    | with_reducible refine KeptM.foldlM (fun _ _ => ?_) _
    | with_reducible refine KeptM.map ?_
    | with_reducible refine KeptM.modS (fun _ => ?_)
    | with_reducible apply KeptM.use (keptM_wr _ _ _ _ _ _)
    | with_reducible exact Kept.refl _ _
    | with_reducible assumption
    | with_reducible (show Kept _ _ _; refine Kept.mk ?_)
    | split
    | dsimp only

theorem keptM_wrScales (c : Ctx) (d : Desc) (xs : List Nat) (scs : List PByte) : KeptM 0x20060 (wrScales c d xs scs) := by
  unfold wrScales
  repeat' first
    | decide
    | with_reducible exact KeptM.pure _
    | with_reducible exact KeptM.getS
    | with_reducible exact KeptM.get
    | with_reducible exact KeptM.throw _
    | with_reducible exact KeptM.notePoison _
    | with_reducible exact KeptM.liftE _
    | with_reducible refine KeptM.bind ?_ (fun _ => ?_)
    | with_reducible refine KeptM.ite ?_ ?_
    | with_reducible refine KeptM.forM (fun _ => ?_)
    | with_reducible refine KeptM.mapM (fun _ => ?_)
    | with_reducible refine KeptM.foldlM (fun _ _ => ?_) _
    | with_reducible refine KeptM.map ?_
    | with_reducible refine KeptM.modS (fun _ => ?_)
    | with_reducible apply KeptM.use (keptM_wr _ _ _ _ _ _)
    | with_reducible exact Kept.refl _ _
    | with_reducible assumption
    | with_reducible (show Kept _ _ _; refine Kept.mk ?_)
    | split
    | dsimp only

theorem keptM_wrFree (c : Ctx) (kind x off n rsn : Nat) : KeptM 0x20062 (wrFree c kind x off n rsn) := by
  unfold wrFree
  repeat' first
    | decide
    | with_reducible exact KeptM.pure _
    | with_reducible exact KeptM.getS
    | with_reducible exact KeptM.get
    | with_reducible exact KeptM.throw _
    | with_reducible exact KeptM.notePoison _
    | with_reducible exact KeptM.liftE _
    | with_reducible refine KeptM.bind ?_ (fun _ => ?_)
    | with_reducible refine KeptM.ite ?_ ?_
    | with_reducible refine KeptM.forM (fun _ => ?_)
    | with_reducible refine KeptM.mapM (fun _ => ?_)
    | with_reducible refine KeptM.foldlM (fun _ _ => ?_) _
    | with_reducible refine KeptM.map ?_
    | with_reducible refine KeptM.modS (fun _ => ?_)
    | with_reducible (show Kept _ _ (State.updBead _ _ _); first | apply Kept.step (kept_updBead _ _ _) | (refine Kept.of (kept_updBead _ _ _ ?hf) ?_; case hf => (intro _ h; (try dsimp only); first | exact h | exact Bead.wf_spUndefine _ _ _ _ h | exact Bead.wf_spWrite _ _ _ h | exact Bead.wf_accUndefine _ _ _ _ (Bead.wf_spUndefine _ _ _ _ h) | exact Bead.wf_accUndefine _ _ _ _ h | (unfold Bead.accPut; exact h) | (unfold Bead.spMark; exact h) | exact Bead.wf_foldl (fun _ _ h => h) h | exact Bead.wf_foldl (fun _ _ h => Bead.wf_accPut _ _ _ _ _ h) h | exact Bead.wf_accUndefine _ _ _ _ (Bead.wf_foldl (fun _ _ h => Bead.wf_spUndefine _ _ _ _ h) h) | (repeat' split <;> exact h))))
    | with_reducible apply KeptM.use (keptM_liftE )
    | with_reducible apply Kept.step (kept_memUndef _ _ _)
    | with_reducible apply Kept.step (kept_updSlice _ _ _)
    | with_reducible exact Kept.refl _ _
    | with_reducible assumption
    | with_reducible (show Kept _ _ _; refine Kept.mk ?_)
    | split
    | dsimp only

theorem keptM_wrUndef (c : Ctx) (d : Desc) : KeptM 0x20062 (wrUndef c d) := by
  unfold wrUndef
  repeat' first
    | decide
    | with_reducible exact KeptM.pure _
    | with_reducible exact KeptM.getS
    | with_reducible exact KeptM.get
    | with_reducible exact KeptM.throw _
    | with_reducible exact KeptM.notePoison _
    | with_reducible exact KeptM.liftE _
    | with_reducible refine KeptM.bind ?_ (fun _ => ?_)
    | with_reducible refine KeptM.ite ?_ ?_
    | with_reducible refine KeptM.forM (fun _ => ?_)
    | with_reducible refine KeptM.mapM (fun _ => ?_)
    | with_reducible refine KeptM.foldlM (fun _ _ => ?_) _
    | with_reducible refine KeptM.map ?_
    | with_reducible refine KeptM.modS (fun _ => ?_)
    | with_reducible apply KeptM.use (keptM_wrFree _ _ _ _ _ _)
    | with_reducible exact Kept.refl _ _
    | with_reducible assumption
    | with_reducible (show Kept _ _ _; refine Kept.mk ?_)
    | split
    | dsimp only

theorem keptM_rdIndex (c : Ctx) (d : Desc) : KeptM 0x20000 (rdIndex c d) := by
  unfold rdIndex
  repeat' first
    | decide
    | with_reducible exact KeptM.pure _
    | with_reducible exact KeptM.getS
    | with_reducible exact KeptM.get
    | with_reducible exact KeptM.throw _
    | with_reducible exact KeptM.notePoison _
    | with_reducible exact KeptM.liftE _
    | with_reducible refine KeptM.bind ?_ (fun _ => ?_)
    | with_reducible refine KeptM.ite ?_ ?_
    | with_reducible refine KeptM.forM (fun _ => ?_)
    | with_reducible refine KeptM.mapM (fun _ => ?_)
    | with_reducible refine KeptM.foldlM (fun _ _ => ?_) _
    | with_reducible refine KeptM.map ?_
    | with_reducible refine KeptM.modS (fun _ => ?_)
    | with_reducible apply KeptM.use (keptM_rdDense _ _ _ _ _)
    | with_reducible exact Kept.refl _ _
    | with_reducible assumption
    | with_reducible (show Kept _ _ _; refine Kept.mk ?_)
    | split
    | dsimp only

theorem keptM_addRun (c : Ctx) (d : Desc) (xs : List Nat) (es : List AccElem) : KeptM 0x20060 (addRun c d xs es) := by
  unfold addRun
  repeat' first
    | decide
    | with_reducible exact KeptM.pure _
    | with_reducible exact KeptM.getS
    | with_reducible exact KeptM.get
    | with_reducible exact KeptM.throw _
    | with_reducible exact KeptM.notePoison _
    | with_reducible exact KeptM.liftE _
    | with_reducible refine KeptM.bind ?_ (fun _ => ?_)
    | with_reducible refine KeptM.ite ?_ ?_
    | with_reducible refine KeptM.forM (fun _ => ?_)
    | with_reducible refine KeptM.mapM (fun _ => ?_)
    | with_reducible refine KeptM.foldlM (fun _ _ => ?_) _
    | with_reducible refine KeptM.map ?_
    | with_reducible refine KeptM.modS (fun _ => ?_)
    | with_reducible apply KeptM.use (keptM_rdDense _ _ _ _ _)
    | with_reducible apply KeptM.use (keptM_wr _ _ _ _ _ _)
    | with_reducible exact Kept.refl _ _
    | with_reducible assumption
    | with_reducible (show Kept _ _ _; refine Kept.mk ?_)
    | split
    | dsimp only

end Sys2Proof.Machine
end

