-- ==== Sys2Proof/Laws/KeptMoves.lean ====
section
/-! SUPPORT. What the operations of Machine/Moves.lean may touch. -/

set_option Elab.async false
set_option linter.unusedTactic false
set_option linter.unreachableTactic false

namespace Sys2Proof.Machine

theorem keptM_entryUndef (c : Ctx) (d : Desc) : KeptM 0x22 (entryUndef c d) := by
  unfold entryUndef
  repeat' first
    | decide
    | with_reducible exact KeptM.pure _
    | with_reducible exact KeptM.getS
    | with_reducible exact KeptM.get
    | with_reducible exact KeptM.throw _
    | with_reducible exact KeptM.notePoison _
    | with_reducible exact KeptM.liftE _
    | with_reducible refine KeptM.bind ?_ (fun _ => ?_)
    | with_reducible refine KeptM.ite ?_ ?_
    | with_reducible refine KeptM.forM (fun _ => ?_)
    | with_reducible refine KeptM.mapM (fun _ => ?_)
    | with_reducible refine KeptM.foldlM (fun _ _ => ?_) _
    | with_reducible refine KeptM.map ?_
    | with_reducible refine KeptM.modS (fun _ => ?_)
    | with_reducible (show Kept _ _ (State.updBead _ _ _); first | apply Kept.step (kept_updBead _ _ _) | (refine Kept.of (kept_updBead _ _ _ ?hf) ?_; case hf => (intro _ h; (try dsimp only); first | exact h | exact Bead.wf_spUndefine _ _ _ _ h | exact Bead.wf_spWrite _ _ _ h | exact Bead.wf_accUndefine _ _ _ _ (Bead.wf_spUndefine _ _ _ _ h) | exact Bead.wf_accUndefine _ _ _ _ h | (unfold Bead.accPut; exact h) | (unfold Bead.spMark; exact h) | exact Bead.wf_foldl (fun _ _ h => h) h | exact Bead.wf_foldl (fun _ _ h => Bead.wf_accPut _ _ _ _ _ h) h | exact Bead.wf_accUndefine _ _ _ _ (Bead.wf_foldl (fun _ _ h => Bead.wf_spUndefine _ _ _ _ h) h) | (repeat' split <;> exact h))))
    | with_reducible exact Kept.refl _ _
    | with_reducible assumption
    | with_reducible (show Kept _ _ _; refine Kept.mk ?_)
    | split
    | dsimp only

theorem keptM_objUndef (c : Ctx) (h : Nat) : KeptM 0x20062 (objUndef c h) := by
  unfold objUndef
  repeat' first
    | decide
    | with_reducible exact KeptM.pure _
    | with_reducible exact KeptM.getS
    | with_reducible exact KeptM.get
    | with_reducible exact KeptM.throw _
    | with_reducible exact KeptM.notePoison _
    | with_reducible exact KeptM.liftE _
    | with_reducible refine KeptM.bind ?_ (fun _ => ?_)
    | with_reducible refine KeptM.ite ?_ ?_
    | with_reducible refine KeptM.forM (fun _ => ?_)
    | with_reducible refine KeptM.mapM (fun _ => ?_)
    | with_reducible refine KeptM.foldlM (fun _ _ => ?_) _
    | with_reducible refine KeptM.map ?_
    | with_reducible refine KeptM.modS (fun _ => ?_)
    | with_reducible apply KeptM.use (keptM_wrFree _ _ _ _ _ _)
    | with_reducible exact Kept.refl _ _
    | with_reducible assumption
    | with_reducible (show Kept _ _ _; refine Kept.mk ?_)
    | split
    | dsimp only

theorem keptM_moveUndef (c : Ctx) (m : Move) : KeptM 0x20062 (moveUndef c m) := by
  unfold moveUndef
  repeat' first
    | decide
    | with_reducible exact KeptM.pure _
    | with_reducible exact KeptM.getS
    | with_reducible exact KeptM.get
    | with_reducible exact KeptM.throw _
    | with_reducible exact KeptM.notePoison _
    | with_reducible exact KeptM.liftE _
    | with_reducible refine KeptM.bind ?_ (fun _ => ?_)
    | with_reducible refine KeptM.ite ?_ ?_
    | with_reducible refine KeptM.forM (fun _ => ?_)
    | with_reducible refine KeptM.mapM (fun _ => ?_)
    | with_reducible refine KeptM.foldlM (fun _ _ => ?_) _
    | with_reducible refine KeptM.map ?_
    | with_reducible refine KeptM.modS (fun _ => ?_)
    | with_reducible apply KeptM.use (keptM_wrUndef _ _)
    | with_reducible apply KeptM.use (keptM_entryUndef _ _)
    | with_reducible apply KeptM.use (keptM_objUndef _ _)
    | with_reducible apply KeptM.use (keptM_wrFree _ _ _ _ _ _)
    | with_reducible exact Kept.refl _ _
    | with_reducible assumption
    | with_reducible (show Kept _ _ _; refine Kept.mk ?_)
    | split
    | dsimp only

theorem keptM_gatherRun (c : Ctx) (m : Move) (g : Option (List (Int × Bool))) (xs : List Nat) : KeptM 0x20000 (gatherRun c m g xs) := by
  unfold gatherRun
  repeat' first
    | decide
    | with_reducible exact KeptM.pure _
    | with_reducible exact KeptM.getS
    | with_reducible exact KeptM.get
    | with_reducible exact KeptM.throw _
    | with_reducible exact KeptM.notePoison _
    | with_reducible exact KeptM.liftE _
    | with_reducible refine KeptM.bind ?_ (fun _ => ?_)
    | with_reducible refine KeptM.ite ?_ ?_
    | with_reducible refine KeptM.forM (fun _ => ?_)
    | with_reducible refine KeptM.mapM (fun _ => ?_)
    | with_reducible refine KeptM.foldlM (fun _ _ => ?_) _
    | with_reducible refine KeptM.map ?_
    | with_reducible refine KeptM.modS (fun _ => ?_)
    | with_reducible apply KeptM.use (keptM_rdRun _ _ _ _ _)
    | with_reducible exact Kept.refl _ _
    | with_reducible assumption
    | with_reducible (show Kept _ _ _; refine Kept.mk ?_)
    | split
    | dsimp only

theorem keptM_putRun (c : Ctx) (m : Move) (ys : List Nat) (r : Run) (n : Nat) : KeptM 0x20060 (putRun c m ys r n) := by
  unfold putRun
  repeat' first
    | decide
    | with_reducible exact KeptM.pure _
    | with_reducible exact KeptM.getS
    | with_reducible exact KeptM.get
    | with_reducible exact KeptM.throw _
    | with_reducible exact KeptM.notePoison _
    | with_reducible exact KeptM.liftE _
    | with_reducible refine KeptM.bind ?_ (fun _ => ?_)
    | with_reducible refine KeptM.ite ?_ ?_
    | with_reducible refine KeptM.forM (fun _ => ?_)
    | with_reducible refine KeptM.mapM (fun _ => ?_)
    | with_reducible refine KeptM.foldlM (fun _ _ => ?_) _
    | with_reducible refine KeptM.map ?_
    | with_reducible refine KeptM.modS (fun _ => ?_)
    | with_reducible apply KeptM.use (keptM_addRun _ _ _ _)
    | with_reducible apply KeptM.use (keptM_wrRun _ _ _ _ _)
    | with_reducible apply KeptM.use (keptM_wr _ _ _ _ _ _)
    | with_reducible apply KeptM.use (keptM_wrScales _ _ _ _)
    | with_reducible exact Kept.refl _ _
    | with_reducible assumption
    | with_reducible (show Kept _ _ _; refine Kept.mk ?_)
    | split
    | dsimp only

theorem keptM_moveStraight (c : Ctx) (m : Move) (g t : Option (List (Int × Bool))) : KeptM 0x20060 (moveStraight c m g t) := by
  unfold moveStraight
  repeat' first
    | decide
    | with_reducible exact KeptM.pure _
    | with_reducible exact KeptM.getS
    | with_reducible exact KeptM.get
    | with_reducible exact KeptM.throw _
    | with_reducible exact KeptM.notePoison _
    | with_reducible exact KeptM.liftE _
    | with_reducible refine KeptM.bind ?_ (fun _ => ?_)
    | with_reducible refine KeptM.ite ?_ ?_
    | with_reducible refine KeptM.forM (fun _ => ?_)
    | with_reducible refine KeptM.mapM (fun _ => ?_)
    | with_reducible refine KeptM.foldlM (fun _ _ => ?_) _
    | with_reducible refine KeptM.map ?_
    | with_reducible refine KeptM.modS (fun _ => ?_)
    | with_reducible apply KeptM.use (keptM_gatherRun _ _ _ _)
    | with_reducible apply KeptM.use (keptM_putRun _ _ _ _ _)
    | with_reducible exact Kept.refl _ _
    | with_reducible assumption
    | with_reducible (show Kept _ _ _; refine Kept.mk ?_)
    | split
    | dsimp only

theorem keptM_moveTurned (c : Ctx) (m : Move) (g t : Option (List (Int × Bool))) : KeptM 0x20060 (moveTurned c m g t) := by
  unfold moveTurned
  repeat' first
    | decide
    | with_reducible exact KeptM.pure _
    | with_reducible exact KeptM.getS
    | with_reducible exact KeptM.get
    | with_reducible exact KeptM.throw _
    | with_reducible exact KeptM.notePoison _
    | with_reducible exact KeptM.liftE _
    | with_reducible refine KeptM.bind ?_ (fun _ => ?_)
    | with_reducible refine KeptM.ite ?_ ?_
    | with_reducible refine KeptM.forM (fun _ => ?_)
    | with_reducible refine KeptM.mapM (fun _ => ?_)
    | with_reducible refine KeptM.foldlM (fun _ _ => ?_) _
    | with_reducible refine KeptM.map ?_
    | with_reducible refine KeptM.modS (fun _ => ?_)
    | with_reducible apply KeptM.use (keptM_gatherRun _ _ _ _)
    | with_reducible apply KeptM.use (keptM_putRun _ _ _ _ _)
    | with_reducible exact Kept.refl _ _
    | with_reducible assumption
    | with_reducible refine Kept.foldl (fun _ _ => ?_) ?_
    | with_reducible (show Kept _ _ _; refine Kept.mk ?_)
    | split
    | dsimp only

theorem keptM_moveElems (c : Ctx) (m : Move) : KeptM 0x20060 (moveElems c m) := by
  unfold moveElems
  repeat' first
    | decide
    | with_reducible exact KeptM.pure _
    | with_reducible exact KeptM.getS
    | with_reducible exact KeptM.get
    | with_reducible exact KeptM.throw _
    | with_reducible exact KeptM.notePoison _
    | with_reducible exact KeptM.liftE _
    | with_reducible refine KeptM.bind ?_ (fun _ => ?_)
    | with_reducible refine KeptM.ite ?_ ?_
    | with_reducible refine KeptM.forM (fun _ => ?_)
    | with_reducible refine KeptM.mapM (fun _ => ?_)
    | with_reducible refine KeptM.foldlM (fun _ _ => ?_) _
    | with_reducible refine KeptM.map ?_
    | with_reducible refine KeptM.modS (fun _ => ?_)
    | with_reducible apply KeptM.use (keptM_rdIndex _ _)
    | with_reducible apply KeptM.use (keptM_moveTurned _ _ _ _)
    | with_reducible apply KeptM.use (keptM_moveStraight _ _ _ _)
    | with_reducible exact Kept.refl _ _
    | with_reducible assumption
    | with_reducible (show Kept _ _ _; refine Kept.mk ?_)
    | split
    | dsimp only

theorem keptM_copyScales (c : Ctx) (m : Move) : KeptM 0x20060 (copyScales c m) := by
  unfold copyScales
  repeat' first
    | decide
    | with_reducible exact KeptM.pure _
    | with_reducible exact KeptM.getS
    | with_reducible exact KeptM.get
    | with_reducible exact KeptM.throw _
    | with_reducible exact KeptM.notePoison _
    | with_reducible exact KeptM.liftE _
    | with_reducible refine KeptM.bind ?_ (fun _ => ?_)
    | with_reducible refine KeptM.ite ?_ ?_
    | with_reducible refine KeptM.forM (fun _ => ?_)
    | with_reducible refine KeptM.mapM (fun _ => ?_)
    | with_reducible refine KeptM.foldlM (fun _ _ => ?_) _
    | with_reducible refine KeptM.map ?_
    | with_reducible refine KeptM.modS (fun _ => ?_)
    | with_reducible apply KeptM.use (keptM_rdScale _ _ _ _)
    | with_reducible apply KeptM.use (keptM_wrScales _ _ _ _)
    | with_reducible exact Kept.refl _ _
    | with_reducible assumption
    | with_reducible (show Kept _ _ _; refine Kept.mk ?_)
    | split
    | dsimp only

theorem keptM_moveBlock (c : Ctx) (m : Move) : KeptM 0x20060 (moveBlock c m) := by
  unfold moveBlock
  repeat' first
    | decide
    | with_reducible exact KeptM.pure _
    | with_reducible exact KeptM.getS
    | with_reducible exact KeptM.get
    | with_reducible exact KeptM.throw _
    | with_reducible exact KeptM.notePoison _
    | with_reducible exact KeptM.liftE _
    | with_reducible refine KeptM.bind ?_ (fun _ => ?_)
    | with_reducible refine KeptM.ite ?_ ?_
    | with_reducible refine KeptM.forM (fun _ => ?_)
    | with_reducible refine KeptM.mapM (fun _ => ?_)
    | with_reducible refine KeptM.foldlM (fun _ _ => ?_) _
    | with_reducible refine KeptM.map ?_
    | with_reducible refine KeptM.modS (fun _ => ?_)
    | with_reducible apply KeptM.use (keptM_rdDir _ _ _)
    | with_reducible apply KeptM.use (keptM_wr _ _ _ _ _ _)
    | with_reducible apply KeptM.use (keptM_rd _ _ _ _ _ _)
    | with_reducible apply KeptM.use (keptM_copyScales _ _)
    | with_reducible exact Kept.refl _ _
    | with_reducible assumption
    | with_reducible (show Kept _ _ _; refine Kept.mk ?_)
    | split
    | dsimp only

theorem keptM_moveTwoFour (c : Ctx) (m : Move) : KeptM 0x20060 (moveTwoFour c m) := by
  unfold moveTwoFour
  repeat' first
    | decide
    | with_reducible exact KeptM.pure _
    | with_reducible exact KeptM.getS
    | with_reducible exact KeptM.get
    | with_reducible exact KeptM.throw _
    | with_reducible exact KeptM.notePoison _
    | with_reducible exact KeptM.liftE _
    | with_reducible refine KeptM.bind ?_ (fun _ => ?_)
    | with_reducible refine KeptM.ite ?_ ?_
    | with_reducible refine KeptM.forM (fun _ => ?_)
    | with_reducible refine KeptM.mapM (fun _ => ?_)
    | with_reducible refine KeptM.foldlM (fun _ _ => ?_) _
    | with_reducible refine KeptM.map ?_
    | with_reducible refine KeptM.modS (fun _ => ?_)
    | with_reducible apply KeptM.use (keptM_rd _ _ _ _ _ _)
    | with_reducible apply KeptM.use (keptM_wr _ _ _ _ _ _)
    | with_reducible apply KeptM.use (keptM_copyScales _ _)
    | with_reducible exact Kept.refl _ _
    | with_reducible assumption
    | with_reducible (show Kept _ _ _; refine Kept.mk ?_)
    | split
    | dsimp only

theorem keptM_readBlocks (c : Ctx) (m : Move) (xs : List Nat) : KeptM 0x20000 (readBlocks c m xs) := by
  unfold readBlocks
  repeat' first
    | decide
    | with_reducible exact KeptM.pure _
    | with_reducible exact KeptM.getS
    | with_reducible exact KeptM.get
    | with_reducible exact KeptM.throw _
    | with_reducible exact KeptM.notePoison _
    | with_reducible exact KeptM.liftE _
    | with_reducible refine KeptM.bind ?_ (fun _ => ?_)
    | with_reducible refine KeptM.ite ?_ ?_
    | with_reducible refine KeptM.forM (fun _ => ?_)
    | with_reducible refine KeptM.mapM (fun _ => ?_)
    | with_reducible refine KeptM.foldlM (fun _ _ => ?_) _
    | with_reducible refine KeptM.map ?_
    | with_reducible refine KeptM.modS (fun _ => ?_)
    | with_reducible apply KeptM.use (keptM_rdRun _ _ _ _ _)
    | with_reducible exact Kept.refl _ _
    | with_reducible assumption
    | with_reducible (show Kept _ _ _; refine Kept.mk ?_)
    | split
    | dsimp only

theorem keptM_segOf (d : Desc) (bs : List Blk) : KeptM 0x2 (segOf d bs) := by
  unfold segOf
  repeat' first
    | decide
    | with_reducible exact KeptM.pure _
    | with_reducible exact KeptM.getS
    | with_reducible exact KeptM.get
    | with_reducible exact KeptM.throw _
    | with_reducible exact KeptM.notePoison _
    | with_reducible exact KeptM.liftE _
    | with_reducible refine KeptM.bind ?_ (fun _ => ?_)
    | with_reducible refine KeptM.ite ?_ ?_
    | with_reducible refine KeptM.forM (fun _ => ?_)
    | with_reducible refine KeptM.mapM (fun _ => ?_)
    | with_reducible refine KeptM.foldlM (fun _ _ => ?_) _
    | with_reducible refine KeptM.map ?_
    | with_reducible refine KeptM.modS (fun _ => ?_)
    | with_reducible apply KeptM.use (keptM_drawKey )
    | with_reducible exact Kept.refl _ _
    | with_reducible assumption
    | with_reducible refine Kept.foldl (fun _ _ => ?_) ?_
    | with_reducible (show Kept _ _ _; refine Kept.mk ?_)
    | split
    | dsimp only

theorem keptM_compressSegs (c : Ctx) (m : Move) : KeptM 0x20002 (compressSegs c m) := by
  unfold compressSegs
  repeat' first
    | decide
    | with_reducible exact KeptM.pure _
    | with_reducible exact KeptM.getS
    | with_reducible exact KeptM.get
    | with_reducible exact KeptM.throw _
    | with_reducible exact KeptM.notePoison _
    | with_reducible exact KeptM.liftE _
    | with_reducible refine KeptM.bind ?_ (fun _ => ?_)
    | with_reducible refine KeptM.ite ?_ ?_
    | with_reducible refine KeptM.forM (fun _ => ?_)
    | with_reducible refine KeptM.mapM (fun _ => ?_)
    | with_reducible refine KeptM.foldlM (fun _ _ => ?_) _
    | with_reducible refine KeptM.map ?_
    | with_reducible refine KeptM.modS (fun _ => ?_)
    | with_reducible apply KeptM.use (keptM_readBlocks _ _ _)
    | with_reducible apply KeptM.use (keptM_segOf _ _)
    | with_reducible exact Kept.refl _ _
    | with_reducible assumption
    | with_reducible (show Kept _ _ _; refine Kept.mk ?_)
    | split
    | dsimp only

/-- The state that an execution starts from. -/
theorem KeptM.ofGet {m : Nat} {β : Type} {f : State → CmdM β} (h : ∀ t : CSt, Kept m t.s (leftBy (f t.s t))) : KeptM m (Machine.getS >>= f) := h

theorem KeptM.after {m : Nat} {α β : Type} {x : CmdM α} {f : α → CmdM β} {t : CSt} {s : State} (hx : Kept m s (leftBy (x t))) (hf : ∀ a, KeptM m (f a)) :
    Kept m s (leftBy ((x >>= f) t)) := by
  show Kept m s (leftBy (EStateM.bind x f t))
  unfold EStateM.bind
  split
  · rename_i a t' e
    rw [e] at hx
    exact hx.trans (hf a t')
  · rename_i a t' e
    rw [e] at hx
    exact hx

theorem keptM_storeObj (c : Ctx) (n : Nat) : KeptM 0x40042 (storeObj c n) := by
  unfold storeObj
  refine KeptM.ofGet (fun t => ?_)
  dsimp only
  refine KeptM.after ?_ (fun _ => ?_)
  · show Kept _ _ (State.updSlice _ _ _)
    refine Kept.of (kept_updSlice _ _ _) ?_
    refine Kept.of (kept_mkObject _ _) ?_
    refine Kept.foldl (fun _ _ => ?_) ?_
    · exact (kept_setPage _ _ _).mono (by decide)
    · exact (kept_takePages _ _ _ _ _).mono (by decide)
  · repeat' first
      | exact KeptM.pure _
      | exact KeptM.throw _
      | refine KeptM.ite ?_ ?_

theorem keptM_putSegs (c : Ctx) (kind dir val sh v0 : Nat) (shadow : Bool) (segs : List Seg) : KeptM 0x20060 (putSegs c kind dir val sh v0 shadow segs) := by
  unfold putSegs
  repeat' first
    | decide
    | with_reducible exact KeptM.pure _
    | with_reducible exact KeptM.getS
    | with_reducible exact KeptM.get
    | with_reducible exact KeptM.throw _
    | with_reducible exact KeptM.notePoison _
    | with_reducible exact KeptM.liftE _
    | with_reducible refine KeptM.bind ?_ (fun _ => ?_)
    | with_reducible refine KeptM.ite ?_ ?_
    | with_reducible refine KeptM.forM (fun _ => ?_)
    | with_reducible refine KeptM.mapM (fun _ => ?_)
    | with_reducible refine KeptM.foldlM (fun _ _ => ?_) _
    | with_reducible refine KeptM.map ?_
    | with_reducible refine KeptM.modS (fun _ => ?_)
    | with_reducible apply KeptM.use (keptM_wr _ _ _ _ _ _)
    | with_reducible exact Kept.refl _ _
    | with_reducible assumption
    | with_reducible refine Kept.foldl (fun _ _ => ?_) ?_
    | with_reducible (show Kept _ _ _; refine Kept.mk ?_)
    | split
    | dsimp only

theorem keptM_putEntry (c : Ctx) (d : Desc) (off n x : Nat) : KeptM 0x20 (putEntry c d off n x) := by
  unfold putEntry
  repeat' first
    | decide
    | with_reducible exact KeptM.pure _
    | with_reducible exact KeptM.getS
    | with_reducible exact KeptM.get
    | with_reducible exact KeptM.throw _
    | with_reducible exact KeptM.notePoison _
    | with_reducible exact KeptM.liftE _
    | with_reducible refine KeptM.bind ?_ (fun _ => ?_)
    | with_reducible refine KeptM.ite ?_ ?_
    | with_reducible refine KeptM.forM (fun _ => ?_)
    | with_reducible refine KeptM.mapM (fun _ => ?_)
    | with_reducible refine KeptM.foldlM (fun _ _ => ?_) _
    | with_reducible refine KeptM.map ?_
    | with_reducible refine KeptM.modS (fun _ => ?_)
    | with_reducible apply Kept.step (kept_putSp _ _ _ _)
    | with_reducible exact Kept.refl _ _
    | with_reducible assumption
    | with_reducible (show Kept _ _ _; refine Kept.mk ?_)
    | split
    | dsimp only

theorem keptM_moveCompress (c : Ctx) (m : Move) : KeptM 0x60062 (moveCompress c m) := by
  unfold moveCompress
  repeat' first
    | decide
    | with_reducible exact KeptM.pure _
    | with_reducible exact KeptM.getS
    | with_reducible exact KeptM.get
    | with_reducible exact KeptM.throw _
    | with_reducible exact KeptM.notePoison _
    | with_reducible exact KeptM.liftE _
    | with_reducible refine KeptM.bind ?_ (fun _ => ?_)
    | with_reducible refine KeptM.ite ?_ ?_
    | with_reducible refine KeptM.forM (fun _ => ?_)
    | with_reducible refine KeptM.mapM (fun _ => ?_)
    | with_reducible refine KeptM.foldlM (fun _ _ => ?_) _
    | with_reducible refine KeptM.map ?_
    | with_reducible refine KeptM.modS (fun _ => ?_)
    | with_reducible apply KeptM.use (keptM_putEntry _ _ _ _ _)
    | with_reducible apply KeptM.use (keptM_compressSegs _ _)
    | with_reducible apply KeptM.use (keptM_putSegs _ _ _ _ _ _ _ _)
    | with_reducible apply KeptM.use (keptM_copyScales _ _)
    | with_reducible apply KeptM.use (keptM_storeObj _ _)
    | with_reducible exact Kept.refl _ _
    | with_reducible assumption
    | with_reducible refine Kept.foldl (fun _ _ => ?_) ?_
    | with_reducible (show Kept _ _ _; refine Kept.mk ?_)
    | split
    | dsimp only

theorem keptM_moveRun (c : Ctx) (m : Move) : KeptM 0x60062 (moveRun c m) := by
  unfold moveRun
  repeat' first
    | decide
    | with_reducible exact KeptM.pure _
    | with_reducible exact KeptM.getS
    | with_reducible exact KeptM.get
    | with_reducible exact KeptM.throw _
    | with_reducible exact KeptM.notePoison _
    | with_reducible exact KeptM.liftE _
    | with_reducible refine KeptM.bind ?_ (fun _ => ?_)
    | with_reducible refine KeptM.ite ?_ ?_
    | with_reducible refine KeptM.forM (fun _ => ?_)
    | with_reducible refine KeptM.mapM (fun _ => ?_)
    | with_reducible refine KeptM.foldlM (fun _ _ => ?_) _
    | with_reducible refine KeptM.map ?_
    | with_reducible refine KeptM.modS (fun _ => ?_)
    | with_reducible apply KeptM.use (keptM_moveUndef _ _)
    | with_reducible apply KeptM.use (keptM_moveCompress _ _)
    | with_reducible apply KeptM.use (keptM_moveElems _ _)
    | with_reducible apply KeptM.use (keptM_moveTwoFour _ _)
    | with_reducible apply KeptM.use (keptM_moveBlock _ _)
    | with_reducible exact Kept.refl _ _
    | with_reducible assumption
    | with_reducible (show Kept _ _ _; refine Kept.mk ?_)
    | split
    | dsimp only

end Sys2Proof.Machine
end

