-- ==== Sys2Proof/Laws/KeptCompute.lean ====
section
/-! SUPPORT. What the operations of Machine/Compute.lean may touch. -/

set_option Elab.async false
set_option linter.unusedTactic false
set_option linter.unreachableTactic false

namespace Sys2Proof.Machine

theorem keptM_rdGroupScales (c : Ctx) (d : Desc) (xs : List Nat) (g : Nat) : KeptM 0x20000 (rdGroupScales c d xs g) := by
  unfold rdGroupScales
  repeat' first
    | decide
    | with_reducible exact KeptM.pure _
    | with_reducible exact KeptM.getS
    | with_reducible exact KeptM.get
    | with_reducible exact KeptM.throw _
    | with_reducible exact KeptM.notePoison _
    | with_reducible exact KeptM.liftE _
    | with_reducible refine KeptM.bind ?_ (fun _ => ?_)
    | with_reducible refine KeptM.ite ?_ ?_
    | with_reducible refine KeptM.forM (fun _ => ?_)
    | with_reducible refine KeptM.mapM (fun _ => ?_)
    | with_reducible refine KeptM.foldlM (fun _ _ => ?_) _
    | with_reducible refine KeptM.map ?_
    | with_reducible refine KeptM.modS (fun _ => ?_)
    | with_reducible apply KeptM.use (keptM_rdScale _ _ _ _)
    | with_reducible exact Kept.refl _ _
    | with_reducible assumption
    | with_reducible (show Kept _ _ _; refine Kept.mk ?_)
    | split
    | dsimp only

theorem keptM_rdGroup (c : Ctx) (d : Desc) (pos : Option (List Nat)) (g : Nat) : KeptM 0x20000 (rdGroup c d pos g) := by
  unfold rdGroup
  repeat' first
    | decide
    | with_reducible exact KeptM.pure _
    | with_reducible exact KeptM.getS
    | with_reducible exact KeptM.get
    | with_reducible exact KeptM.throw _
    | with_reducible exact KeptM.notePoison _
    | with_reducible exact KeptM.liftE _
    | with_reducible refine KeptM.bind ?_ (fun _ => ?_)
    | with_reducible refine KeptM.ite ?_ ?_
    | with_reducible refine KeptM.forM (fun _ => ?_)
    | with_reducible refine KeptM.mapM (fun _ => ?_)
    | with_reducible refine KeptM.foldlM (fun _ _ => ?_) _
    | with_reducible refine KeptM.map ?_
    | with_reducible refine KeptM.modS (fun _ => ?_)
    | with_reducible apply KeptM.use (keptM_rd _ _ _ _ _ _)
    | with_reducible apply KeptM.use (keptM_rdGroupScales _ _ _ _)
    | with_reducible apply KeptM.use (keptM_rdDir _ _ _)
    | with_reducible exact Kept.refl _ _
    | with_reducible assumption
    | with_reducible (show Kept _ _ _; refine Kept.mk ?_)
    | split
    | dsimp only

theorem keptM_groupPresent (c : Ctx) (d : Desc) (xs : List Nat) (g : Nat) : KeptM 0x20000 (groupPresent c d xs g) := by
  unfold groupPresent
  repeat' first
    | decide
    | with_reducible exact KeptM.pure _
    | with_reducible exact KeptM.getS
    | with_reducible exact KeptM.get
    | with_reducible exact KeptM.throw _
    | with_reducible exact KeptM.notePoison _
    | with_reducible exact KeptM.liftE _
    | with_reducible refine KeptM.bind ?_ (fun _ => ?_)
    | with_reducible refine KeptM.ite ?_ ?_
    | with_reducible refine KeptM.forM (fun _ => ?_)
    | with_reducible refine KeptM.mapM (fun _ => ?_)
    | with_reducible refine KeptM.foldlM (fun _ _ => ?_) _
    | with_reducible refine KeptM.map ?_
    | with_reducible refine KeptM.modS (fun _ => ?_)
    | with_reducible apply KeptM.use (keptM_rdDir _ _ _)
    | with_reducible exact Kept.refl _ _
    | with_reducible assumption
    | with_reducible (show Kept _ _ _; refine Kept.mk ?_)
    | split
    | dsimp only

theorem keptM_selection (c : Ctx) (j : Job) : KeptM 0x20000 (selection c j) := by
  unfold selection
  repeat' first
    | decide
    | with_reducible exact KeptM.pure _
    | with_reducible exact KeptM.getS
    | with_reducible exact KeptM.get
    | with_reducible exact KeptM.throw _
    | with_reducible exact KeptM.notePoison _
    | with_reducible exact KeptM.liftE _
    | with_reducible refine KeptM.bind ?_ (fun _ => ?_)
    | with_reducible refine KeptM.ite ?_ ?_
    | with_reducible refine KeptM.forM (fun _ => ?_)
    | with_reducible refine KeptM.mapM (fun _ => ?_)
    | with_reducible refine KeptM.foldlM (fun _ _ => ?_) _
    | with_reducible refine KeptM.map ?_
    | with_reducible refine KeptM.modS (fun _ => ?_)
    | with_reducible apply KeptM.use (keptM_rd _ _ _ _ _ _)
    | with_reducible exact Kept.refl _ _
    | with_reducible assumption
    | with_reducible (show Kept _ _ _; refine Kept.mk ?_)
    | split
    | dsimp only

theorem keptM_presence (c : Ctx) (d : Desc) (runs : List (List Nat)) (kgs : List Nat) : KeptM 0x20000 (presence c d runs kgs) := by
  unfold presence
  repeat' first
    | decide
    | with_reducible exact KeptM.pure _
    | with_reducible exact KeptM.getS
    | with_reducible exact KeptM.get
    | with_reducible exact KeptM.throw _
    | with_reducible exact KeptM.notePoison _
    | with_reducible exact KeptM.liftE _
    | with_reducible refine KeptM.bind ?_ (fun _ => ?_)
    | with_reducible refine KeptM.ite ?_ ?_
    | with_reducible refine KeptM.forM (fun _ => ?_)
    | with_reducible refine KeptM.mapM (fun _ => ?_)
    | with_reducible refine KeptM.foldlM (fun _ _ => ?_) _
    | with_reducible refine KeptM.map ?_
    | with_reducible refine KeptM.modS (fun _ => ?_)
    | with_reducible apply KeptM.use (keptM_groupPresent _ _ _ _)
    | with_reducible exact Kept.refl _ _
    | with_reducible assumption
    | with_reducible (show Kept _ _ _; refine Kept.mk ?_)
    | split
    | dsimp only

theorem keptM_scan (c : Ctx) (j : Job) : KeptM 0x20000 (scan c j) := by
  unfold scan
  repeat' first
    | decide
    | with_reducible exact KeptM.pure _
    | with_reducible exact KeptM.getS
    | with_reducible exact KeptM.get
    | with_reducible exact KeptM.throw _
    | with_reducible exact KeptM.notePoison _
    | with_reducible exact KeptM.liftE _
    | with_reducible refine KeptM.bind ?_ (fun _ => ?_)
    | with_reducible refine KeptM.ite ?_ ?_
    | with_reducible refine KeptM.forM (fun _ => ?_)
    | with_reducible refine KeptM.mapM (fun _ => ?_)
    | with_reducible refine KeptM.foldlM (fun _ _ => ?_) _
    | with_reducible refine KeptM.map ?_
    | with_reducible refine KeptM.modS (fun _ => ?_)
    | with_reducible apply KeptM.use (keptM_selection _ _)
    | with_reducible apply KeptM.use (keptM_presence _ _ _ _)
    | with_reducible exact Kept.refl _ _
    | with_reducible assumption
    | with_reducible (show Kept _ _ _; refine Kept.mk ?_)
    | split
    | dsimp only

theorem keptM_preloadElem (c : Ctx) (j : Job) (d : Desc) (row col : Nat) : KeptM 0x20000 (preloadElem c j d row col) := by
  unfold preloadElem
  repeat' first
    | decide
    | with_reducible exact KeptM.pure _
    | with_reducible exact KeptM.getS
    | with_reducible exact KeptM.get
    | with_reducible exact KeptM.throw _
    | with_reducible exact KeptM.notePoison _
    | with_reducible exact KeptM.liftE _
    | with_reducible refine KeptM.bind ?_ (fun _ => ?_)
    | with_reducible refine KeptM.ite ?_ ?_
    | with_reducible refine KeptM.forM (fun _ => ?_)
    | with_reducible refine KeptM.mapM (fun _ => ?_)
    | with_reducible refine KeptM.foldlM (fun _ _ => ?_) _
    | with_reducible refine KeptM.map ?_
    | with_reducible refine KeptM.modS (fun _ => ?_)
    | with_reducible apply KeptM.use (keptM_rd _ _ _ _ _ _)
    | with_reducible apply KeptM.use (keptM_rdScale _ _ _ _)
    | with_reducible exact Kept.refl _ _
    | with_reducible assumption
    | with_reducible (show Kept _ _ _; refine Kept.mk ?_)
    | split
    | dsimp only

theorem keptM_updAcc (b slot r q : Nat) (f : AccElem → AccElem) : KeptM 0x20 (updAcc b slot r q f) := by
  unfold updAcc
  repeat' first
    | decide
    | with_reducible exact KeptM.pure _
    | with_reducible exact KeptM.getS
    | with_reducible exact KeptM.get
    | with_reducible exact KeptM.throw _
    | with_reducible exact KeptM.notePoison _
    | with_reducible exact KeptM.liftE _
    | with_reducible refine KeptM.bind ?_ (fun _ => ?_)
    | with_reducible refine KeptM.ite ?_ ?_
    | with_reducible refine KeptM.forM (fun _ => ?_)
    | with_reducible refine KeptM.mapM (fun _ => ?_)
    | with_reducible refine KeptM.foldlM (fun _ _ => ?_) _
    | with_reducible refine KeptM.map ?_
    | with_reducible refine KeptM.modS (fun _ => ?_)
    | with_reducible (show Kept _ _ (State.updBead _ _ _); first | apply Kept.step (kept_updBead _ _ _) | (refine Kept.of (kept_updBead _ _ _ ?hf) ?_; case hf => (intro _ h; (try dsimp only); first | exact h | exact Bead.wf_spUndefine _ _ _ _ h | exact Bead.wf_spWrite _ _ _ h | exact Bead.wf_accUndefine _ _ _ _ (Bead.wf_spUndefine _ _ _ _ h) | exact Bead.wf_accUndefine _ _ _ _ h | (unfold Bead.accPut; exact h) | (unfold Bead.spMark; exact h) | exact Bead.wf_foldl (fun _ _ h => h) h | exact Bead.wf_foldl (fun _ _ h => Bead.wf_accPut _ _ _ _ _ h) h | exact Bead.wf_accUndefine _ _ _ _ (Bead.wf_foldl (fun _ _ h => Bead.wf_spUndefine _ _ _ _ h) h) | (repeat' split <;> exact h))))
    | with_reducible exact Kept.refl _ _
    | with_reducible assumption
    | with_reducible (show Kept _ _ _; refine Kept.mk ?_)
    | split
    | dsimp only

theorem keptM_overTile {m : Nat} (j : Job) (f : Nat → Nat → Nat → Nat → Nat → CmdM Unit) (h : ∀ a b c d e, KeptM m (f a b c d e)) :
    KeptM m (overTile j f) :=
  KeptM.forM (fun _ => KeptM.forM (fun _ => KeptM.forM (fun _ => h _ _ _ _ _)))

theorem keptM_startSlots (c : Ctx) (j : Job) (x : Scan) : KeptM 0x20020 (startSlots c j x) := by
  unfold startSlots
  repeat' first
    | decide
    | with_reducible exact KeptM.pure _
    | with_reducible exact KeptM.getS
    | with_reducible exact KeptM.get
    | with_reducible exact KeptM.throw _
    | with_reducible exact KeptM.notePoison _
    | with_reducible exact KeptM.liftE _
    | with_reducible refine KeptM.bind ?_ (fun _ => ?_)
    | with_reducible refine KeptM.ite ?_ ?_
    | with_reducible refine KeptM.forM (fun _ => ?_)
    | with_reducible refine KeptM.mapM (fun _ => ?_)
    | with_reducible refine KeptM.foldlM (fun _ _ => ?_) _
    | with_reducible refine KeptM.map ?_
    | with_reducible refine KeptM.modS (fun _ => ?_)
    | with_reducible refine keptM_overTile _ _ (fun _ _ _ _ _ => ?_)
    | with_reducible apply KeptM.use (keptM_preloadElem _ _ _ _ _)
    | with_reducible apply KeptM.use (keptM_updAcc _ _ _ _ _)
    | with_reducible exact Kept.refl _ _
    | with_reducible assumption
    | with_reducible (show Kept _ _ _; refine Kept.mk ?_)
    | split
    | dsimp only

theorem keptM_rdPlace (c : Ctx) (d : Desc) (pos : Option (List Nat)) (o : Option Nat) : KeptM 0x20000 (rdPlace c d pos o) := by
  cases o with
  | none => exact KeptM.pure _
  | some g => exact keptM_rdGroup c d pos g

theorem keptM_sweep (c : Ctx) (j : Job) (x : Scan) (g : Gran) (done : List Nat) : KeptM 0x20020 (sweep c j x g done) := by
  unfold sweep
  repeat' first
    | decide
    | with_reducible exact KeptM.pure _
    | with_reducible exact KeptM.getS
    | with_reducible exact KeptM.get
    | with_reducible exact KeptM.throw _
    | with_reducible exact KeptM.notePoison _
    | with_reducible exact KeptM.liftE _
    | with_reducible refine KeptM.bind ?_ (fun _ => ?_)
    | with_reducible refine KeptM.ite ?_ ?_
    | with_reducible refine KeptM.forM (fun _ => ?_)
    | with_reducible refine KeptM.mapM (fun _ => ?_)
    | with_reducible refine KeptM.foldlM (fun _ _ => ?_) _
    | with_reducible refine KeptM.map ?_
    | with_reducible refine KeptM.modS (fun _ => ?_)
    | with_reducible apply KeptM.use (keptM_rdPlace _ _ _ _)
    | with_reducible apply KeptM.use (keptM_updAcc _ _ _ _ _)
    | with_reducible exact Kept.refl _ _
    | with_reducible assumption
    | with_reducible (show Kept _ _ _; refine Kept.mk ?_)
    | split
    | dsimp only

theorem keptM_countScan (b : Nat) (j : Job) (x : Scan) : KeptM 0x20 (countScan b j x) := by
  unfold countScan
  repeat' first
    | decide
    | with_reducible exact KeptM.pure _
    | with_reducible exact KeptM.getS
    | with_reducible exact KeptM.get
    | with_reducible exact KeptM.throw _
    | with_reducible exact KeptM.notePoison _
    | with_reducible exact KeptM.liftE _
    | with_reducible refine KeptM.bind ?_ (fun _ => ?_)
    | with_reducible refine KeptM.ite ?_ ?_
    | with_reducible refine KeptM.forM (fun _ => ?_)
    | with_reducible refine KeptM.mapM (fun _ => ?_)
    | with_reducible refine KeptM.foldlM (fun _ _ => ?_) _
    | with_reducible refine KeptM.map ?_
    | with_reducible refine KeptM.modS (fun _ => ?_)
    | with_reducible (show Kept _ _ (State.updBead _ _ _); first | apply Kept.step (kept_updBead _ _ _) | (refine Kept.of (kept_updBead _ _ _ ?hf) ?_; case hf => (intro _ h; (try dsimp only); first | exact h | exact Bead.wf_spUndefine _ _ _ _ h | exact Bead.wf_spWrite _ _ _ h | exact Bead.wf_accUndefine _ _ _ _ (Bead.wf_spUndefine _ _ _ _ h) | exact Bead.wf_accUndefine _ _ _ _ h | (unfold Bead.accPut; exact h) | (unfold Bead.spMark; exact h) | exact Bead.wf_foldl (fun _ _ h => h) h | exact Bead.wf_foldl (fun _ _ h => Bead.wf_accPut _ _ _ _ _ h) h | exact Bead.wf_accUndefine _ _ _ _ (Bead.wf_foldl (fun _ _ h => Bead.wf_spUndefine _ _ _ _ h) h) | (repeat' split <;> exact h))))
    | with_reducible exact Kept.refl _ _
    | with_reducible assumption
    | with_reducible refine Kept.foldl (fun _ _ => ?_) ?_
    | with_reducible (show Kept _ _ _; refine Kept.mk ?_)
    | split
    | dsimp only

theorem keptM_tileUndef (c : Ctx) (j : Job) : KeptM 0x22 (tileUndef c j) := by
  unfold tileUndef
  repeat' first
    | decide
    | with_reducible exact KeptM.pure _
    | with_reducible exact KeptM.getS
    | with_reducible exact KeptM.get
    | with_reducible exact KeptM.throw _
    | with_reducible exact KeptM.notePoison _
    | with_reducible exact KeptM.liftE _
    | with_reducible refine KeptM.bind ?_ (fun _ => ?_)
    | with_reducible refine KeptM.ite ?_ ?_
    | with_reducible refine KeptM.forM (fun _ => ?_)
    | with_reducible refine KeptM.mapM (fun _ => ?_)
    | with_reducible refine KeptM.foldlM (fun _ _ => ?_) _
    | with_reducible refine KeptM.map ?_
    | with_reducible refine KeptM.modS (fun _ => ?_)
    | with_reducible (show Kept _ _ (State.updBead _ _ _); first | apply Kept.step (kept_updBead _ _ _) | (refine Kept.of (kept_updBead _ _ _ ?hf) ?_; case hf => (intro _ h; (try dsimp only); first | exact h | exact Bead.wf_spUndefine _ _ _ _ h | exact Bead.wf_spWrite _ _ _ h | exact Bead.wf_accUndefine _ _ _ _ (Bead.wf_spUndefine _ _ _ _ h) | exact Bead.wf_accUndefine _ _ _ _ h | (unfold Bead.accPut; exact h) | (unfold Bead.spMark; exact h) | exact Bead.wf_foldl (fun _ _ h => h) h | exact Bead.wf_foldl (fun _ _ h => Bead.wf_accPut _ _ _ _ _ h) h | exact Bead.wf_accUndefine _ _ _ _ (Bead.wf_foldl (fun _ _ h => Bead.wf_spUndefine _ _ _ _ h) h) | (repeat' split <;> exact h))))
    | with_reducible exact Kept.refl _ _
    | with_reducible assumption
    | with_reducible (show Kept _ _ _; refine Kept.mk ?_)
    | split
    | dsimp only

theorem keptM_computeTile (c : Ctx) (j : Job) : KeptM 0x20022 (computeTile c j) := by
  unfold computeTile
  repeat' first
    | decide
    | with_reducible exact KeptM.pure _
    | with_reducible exact KeptM.getS
    | with_reducible exact KeptM.get
    | with_reducible exact KeptM.throw _
    | with_reducible exact KeptM.notePoison _
    | with_reducible exact KeptM.liftE _
    | with_reducible refine KeptM.bind ?_ (fun _ => ?_)
    | with_reducible refine KeptM.ite ?_ ?_
    | with_reducible refine KeptM.forM (fun _ => ?_)
    | with_reducible refine KeptM.mapM (fun _ => ?_)
    | with_reducible refine KeptM.foldlM (fun _ _ => ?_) _
    | with_reducible refine KeptM.map ?_
    | with_reducible refine KeptM.modS (fun _ => ?_)
    | with_reducible apply KeptM.use (keptM_tileUndef _ _)
    | with_reducible apply KeptM.use (keptM_scan _ _)
    | with_reducible apply KeptM.use (keptM_startSlots _ _ _)
    | with_reducible apply KeptM.use (keptM_sweep _ _ _ _ _)
    | with_reducible refine keptM_overTile _ _ (fun _ _ _ _ _ => ?_)
    | with_reducible apply KeptM.use (keptM_updAcc _ _ _ _ _)
    | with_reducible apply KeptM.use (keptM_countScan _ _ _)
    | with_reducible exact Kept.refl _ _
    | with_reducible assumption
    | with_reducible refine Kept.foldl (fun _ _ => ?_) ?_
    | with_reducible (show Kept _ _ _; refine Kept.mk ?_)
    | split
    | dsimp only

theorem keptM_wrSeg (c : Ctx) (d : Desc) (xs : List Nat) (k0 : Nat) (es : List AccElem) : KeptM 0x20060 (wrSeg c d xs k0 es) := by
  unfold wrSeg
  repeat' first
    | decide
    | with_reducible exact KeptM.pure _
    | with_reducible exact KeptM.getS
    | with_reducible exact KeptM.get
    | with_reducible exact KeptM.throw _
    | with_reducible exact KeptM.notePoison _
    | with_reducible exact KeptM.liftE _
    | with_reducible refine KeptM.bind ?_ (fun _ => ?_)
    | with_reducible refine KeptM.ite ?_ ?_
    | with_reducible refine KeptM.forM (fun _ => ?_)
    | with_reducible refine KeptM.mapM (fun _ => ?_)
    | with_reducible refine KeptM.foldlM (fun _ _ => ?_) _
    | with_reducible refine KeptM.map ?_
    | with_reducible refine KeptM.modS (fun _ => ?_)
    | with_reducible apply KeptM.use (keptM_wr _ _ _ _ _ _)
    | with_reducible exact Kept.refl _ _
    | with_reducible assumption
    | with_reducible (show Kept _ _ _; refine Kept.mk ?_)
    | split
    | dsimp only

theorem keptM_formScores (c : Ctx) (j : Job) (w : CmdWord) (d : Desc) : KeptM 0x20062 (formScores c j w d) := by
  unfold formScores
  repeat' first
    | decide
    | with_reducible exact KeptM.pure _
    | with_reducible exact KeptM.getS
    | with_reducible exact KeptM.get
    | with_reducible exact KeptM.throw _
    | with_reducible exact KeptM.notePoison _
    | with_reducible exact KeptM.liftE _
    | with_reducible refine KeptM.bind ?_ (fun _ => ?_)
    | with_reducible refine KeptM.ite ?_ ?_
    | with_reducible refine KeptM.forM (fun _ => ?_)
    | with_reducible refine KeptM.mapM (fun _ => ?_)
    | with_reducible refine KeptM.foldlM (fun _ _ => ?_) _
    | with_reducible refine KeptM.map ?_
    | with_reducible refine KeptM.modS (fun _ => ?_)
    | with_reducible apply KeptM.use (keptM_wrUndef _ _)
    | with_reducible apply KeptM.use (keptM_drawFree )
    | with_reducible apply KeptM.use (keptM_wrSeg _ _ _ _ _)
    | with_reducible exact Kept.refl _ _
    | with_reducible assumption
    | with_reducible (show Kept _ _ _; refine Kept.mk ?_)
    | split
    | dsimp only

theorem keptM_emitMask (c : Ctx) (f : Nat) (w : CmdWord) (sd md : Desc) : KeptM 0x20062 (emitMask c f w sd md) := by
  unfold emitMask
  repeat' first
    | decide
    | with_reducible exact KeptM.pure _
    | with_reducible exact KeptM.getS
    | with_reducible exact KeptM.get
    | with_reducible exact KeptM.throw _
    | with_reducible exact KeptM.notePoison _
    | with_reducible exact KeptM.liftE _
    | with_reducible refine KeptM.bind ?_ (fun _ => ?_)
    | with_reducible refine KeptM.ite ?_ ?_
    | with_reducible refine KeptM.forM (fun _ => ?_)
    | with_reducible refine KeptM.mapM (fun _ => ?_)
    | with_reducible refine KeptM.foldlM (fun _ _ => ?_) _
    | with_reducible refine KeptM.map ?_
    | with_reducible refine KeptM.modS (fun _ => ?_)
    | with_reducible apply KeptM.use (keptM_wrUndef _ _)
    | with_reducible apply KeptM.use (keptM_rdDense _ _ _ _ _)
    | with_reducible apply KeptM.use (keptM_wrRun _ _ _ _ _)
    | with_reducible exact Kept.refl _ _
    | with_reducible assumption
    | with_reducible refine Kept.foldl (fun _ _ => ?_) ?_
    | with_reducible (show Kept _ _ _; refine Kept.mk ?_)
    | split
    | dsimp only

theorem keptM_loupeRun (c : Ctx) (w : CmdWord) : KeptM 0x20062 (loupeRun c w) := by
  unfold loupeRun
  repeat' first
    | decide
    | with_reducible exact KeptM.pure _
    | with_reducible exact KeptM.getS
    | with_reducible exact KeptM.get
    | with_reducible exact KeptM.throw _
    | with_reducible exact KeptM.notePoison _
    | with_reducible exact KeptM.liftE _
    | with_reducible refine KeptM.bind ?_ (fun _ => ?_)
    | with_reducible refine KeptM.ite ?_ ?_
    | with_reducible refine KeptM.forM (fun _ => ?_)
    | with_reducible refine KeptM.mapM (fun _ => ?_)
    | with_reducible refine KeptM.foldlM (fun _ _ => ?_) _
    | with_reducible refine KeptM.map ?_
    | with_reducible refine KeptM.modS (fun _ => ?_)
    | with_reducible apply KeptM.use (keptM_emitMask _ _ _ _ _)
    | with_reducible apply KeptM.use (keptM_computeTile _ _)
    | with_reducible apply KeptM.use (keptM_formScores _ _ _ _)
    | with_reducible exact Kept.refl _ _
    | with_reducible assumption
    | with_reducible (show Kept _ _ _; refine Kept.mk ?_)
    | split
    | dsimp only

end Sys2Proof.Machine
end

