-- ==== Sys2Proof/Laws/KeptAccum.lean ====
section
/-! SUPPORT. What the operations of Machine/Accum.lean may touch. -/

set_option Elab.async false
set_option linter.unusedTactic false
set_option linter.unreachableTactic false

namespace Sys2Proof.Machine

theorem keptM_countNans (b n : Nat) : KeptM 0x20 (countNans b n) := by
  unfold countNans
  repeat' first
    | decide
    | with_reducible exact KeptM.pure _
    | with_reducible exact KeptM.getS
    | with_reducible exact KeptM.get
    | with_reducible exact KeptM.throw _
    | with_reducible exact KeptM.notePoison _
    | with_reducible exact KeptM.liftE _
    | with_reducible refine KeptM.bind ?_ (fun _ => ?_)
    | with_reducible refine KeptM.ite ?_ ?_
    | with_reducible refine KeptM.forM (fun _ => ?_)
    | with_reducible refine KeptM.mapM (fun _ => ?_)
    | with_reducible refine KeptM.foldlM (fun _ _ => ?_) _
    | with_reducible refine KeptM.map ?_
    | with_reducible refine KeptM.modS (fun _ => ?_)
    | with_reducible (show Kept _ _ (State.updBead _ _ _); first | apply Kept.step (kept_updBead _ _ _) | (refine Kept.of (kept_updBead _ _ _ ?hf) ?_; case hf => (intro _ h; (try dsimp only); first | exact h | exact Bead.wf_spUndefine _ _ _ _ h | exact Bead.wf_spWrite _ _ _ h | exact Bead.wf_accUndefine _ _ _ _ (Bead.wf_spUndefine _ _ _ _ h) | exact Bead.wf_accUndefine _ _ _ _ h | (unfold Bead.accPut; exact h) | (unfold Bead.spMark; exact h) | exact Bead.wf_foldl (fun _ _ h => h) h | exact Bead.wf_foldl (fun _ _ h => Bead.wf_accPut _ _ _ _ _ h) h | exact Bead.wf_accUndefine _ _ _ _ (Bead.wf_foldl (fun _ _ h => Bead.wf_spUndefine _ _ _ _ h) h) | (repeat' split <;> exact h))))
    | with_reducible exact Kept.refl _ _
    | with_reducible assumption
    | with_reducible (show Kept _ _ _; refine Kept.mk ?_)
    | split
    | dsimp only

theorem keptM_wrScaleAt (c : Ctx) (d : Desc) (xs : List Nat) (k0 : Nat) (scs : List PByte) : KeptM 0x20060 (wrScaleAt c d xs k0 scs) := by
  unfold wrScaleAt
  repeat' first
    | decide
    | with_reducible exact KeptM.pure _
    | with_reducible exact KeptM.getS
    | with_reducible exact KeptM.get
    | with_reducible exact KeptM.throw _
    | with_reducible exact KeptM.notePoison _
    | with_reducible exact KeptM.liftE _
    | with_reducible refine KeptM.bind ?_ (fun _ => ?_)
    | with_reducible refine KeptM.ite ?_ ?_
    | with_reducible refine KeptM.forM (fun _ => ?_)
    | with_reducible refine KeptM.mapM (fun _ => ?_)
    | with_reducible refine KeptM.foldlM (fun _ _ => ?_) _
    | with_reducible refine KeptM.map ?_
    | with_reducible refine KeptM.modS (fun _ => ?_)
    | with_reducible apply KeptM.use (keptM_wr _ _ _ _ _ _)
    | with_reducible exact Kept.refl _ _
    | with_reducible assumption
    | with_reducible (show Kept _ _ _; refine Kept.mk ?_)
    | split
    | dsimp only

theorem keptM_putSeg (c : Ctx) (d : Desc) (xs : List Nat) (k0 : Nat) (g : Seg64) : KeptM 0x20060 (putSeg c d xs k0 g) := by
  unfold putSeg
  repeat' first
    | decide
    | with_reducible exact KeptM.pure _
    | with_reducible exact KeptM.getS
    | with_reducible exact KeptM.get
    | with_reducible exact KeptM.throw _
    | with_reducible exact KeptM.notePoison _
    | with_reducible exact KeptM.liftE _
    | with_reducible refine KeptM.bind ?_ (fun _ => ?_)
    | with_reducible refine KeptM.ite ?_ ?_
    | with_reducible refine KeptM.forM (fun _ => ?_)
    | with_reducible refine KeptM.mapM (fun _ => ?_)
    | with_reducible refine KeptM.foldlM (fun _ _ => ?_) _
    | with_reducible refine KeptM.map ?_
    | with_reducible refine KeptM.modS (fun _ => ?_)
    | with_reducible apply KeptM.use (keptM_countNans _ _)
    | with_reducible apply KeptM.use (keptM_wrSeg _ _ _ _ _)
    | with_reducible apply KeptM.use (keptM_wrScaleAt _ _ _ _ _)
    | with_reducible exact Kept.refl _ _
    | with_reducible assumption
    | with_reducible (show Kept _ _ _; refine Kept.mk ?_)
    | split
    | dsimp only

theorem keptM_undefHulls (c : Ctx) (rs : List Rng) : KeptM 0x20062 (undefHulls c rs) := by
  unfold undefHulls
  repeat' first
    | decide
    | with_reducible exact KeptM.pure _
    | with_reducible exact KeptM.getS
    | with_reducible exact KeptM.get
    | with_reducible exact KeptM.throw _
    | with_reducible exact KeptM.notePoison _
    | with_reducible exact KeptM.liftE _
    | with_reducible refine KeptM.bind ?_ (fun _ => ?_)
    | with_reducible refine KeptM.ite ?_ ?_
    | with_reducible refine KeptM.forM (fun _ => ?_)
    | with_reducible refine KeptM.mapM (fun _ => ?_)
    | with_reducible refine KeptM.foldlM (fun _ _ => ?_) _
    | with_reducible refine KeptM.map ?_
    | with_reducible refine KeptM.modS (fun _ => ?_)
    | with_reducible apply KeptM.use (keptM_wrFree _ _ _ _ _ _)
    | with_reducible exact Kept.refl _ _
    | with_reducible assumption
    | with_reducible (show Kept _ _ _; refine Kept.mk ?_)
    | split
    | dsimp only

theorem keptM_drainRun (c : Ctx) (w : CmdWord) : KeptM 0x20062 (drainRun c w) := by
  unfold drainRun
  repeat' first
    | decide
    | with_reducible exact KeptM.pure _
    | with_reducible exact KeptM.getS
    | with_reducible exact KeptM.get
    | with_reducible exact KeptM.throw _
    | with_reducible exact KeptM.notePoison _
    | with_reducible exact KeptM.liftE _
    | with_reducible refine KeptM.bind ?_ (fun _ => ?_)
    | with_reducible refine KeptM.ite ?_ ?_
    | with_reducible refine KeptM.forM (fun _ => ?_)
    | with_reducible refine KeptM.mapM (fun _ => ?_)
    | with_reducible refine KeptM.foldlM (fun _ _ => ?_) _
    | with_reducible refine KeptM.map ?_
    | with_reducible refine KeptM.modS (fun _ => ?_)
    | with_reducible apply KeptM.use (keptM_undefHulls _ _)
    | with_reducible apply KeptM.use (keptM_putSeg _ _ _ _ _)
    | with_reducible exact Kept.refl _ _
    | with_reducible assumption
    | with_reducible (show Kept _ _ _; refine Kept.mk ?_)
    | split
    | dsimp only

theorem keptM_spillSlots (c : Ctx) (slot n sp : Nat) : KeptM 0x20060 (spillSlots c slot n sp) := by
  unfold spillSlots
  repeat' first
    | decide
    | with_reducible exact KeptM.pure _
    | with_reducible exact KeptM.getS
    | with_reducible exact KeptM.get
    | with_reducible exact KeptM.throw _
    | with_reducible exact KeptM.notePoison _
    | with_reducible exact KeptM.liftE _
    | with_reducible refine KeptM.bind ?_ (fun _ => ?_)
    | with_reducible refine KeptM.ite ?_ ?_
    | with_reducible refine KeptM.forM (fun _ => ?_)
    | with_reducible refine KeptM.mapM (fun _ => ?_)
    | with_reducible refine KeptM.foldlM (fun _ _ => ?_) _
    | with_reducible refine KeptM.map ?_
    | with_reducible refine KeptM.modS (fun _ => ?_)
    | with_reducible apply KeptM.use (keptM_wr _ _ _ _ _ _)
    | with_reducible exact Kept.refl _ _
    | with_reducible assumption
    | with_reducible (show Kept _ _ _; refine Kept.mk ?_)
    | split
    | dsimp only

theorem keptM_fillSlots (c : Ctx) (slot n sp : Nat) (f : AccElem → AccElem → AccElem) : KeptM 0x20020 (fillSlots c slot n sp f) := by
  unfold fillSlots
  repeat' first
    | decide
    | with_reducible exact KeptM.pure _
    | with_reducible exact KeptM.getS
    | with_reducible exact KeptM.get
    | with_reducible exact KeptM.throw _
    | with_reducible exact KeptM.notePoison _
    | with_reducible exact KeptM.liftE _
    | with_reducible refine KeptM.bind ?_ (fun _ => ?_)
    | with_reducible refine KeptM.ite ?_ ?_
    | with_reducible refine KeptM.forM (fun _ => ?_)
    | with_reducible refine KeptM.mapM (fun _ => ?_)
    | with_reducible refine KeptM.foldlM (fun _ _ => ?_) _
    | with_reducible refine KeptM.map ?_
    | with_reducible refine KeptM.modS (fun _ => ?_)
    | with_reducible apply KeptM.use (keptM_rd _ _ _ _ _ _)
    | with_reducible (show Kept _ _ (State.updBead _ _ _); first | apply Kept.step (kept_updBead _ _ _) | (refine Kept.of (kept_updBead _ _ _ ?hf) ?_; case hf => (intro _ h; (try dsimp only); first | exact h | exact Bead.wf_spUndefine _ _ _ _ h | exact Bead.wf_spWrite _ _ _ h | exact Bead.wf_accUndefine _ _ _ _ (Bead.wf_spUndefine _ _ _ _ h) | exact Bead.wf_accUndefine _ _ _ _ h | (unfold Bead.accPut; exact h) | (unfold Bead.spMark; exact h) | exact Bead.wf_foldl (fun _ _ h => h) h | exact Bead.wf_foldl (fun _ _ h => Bead.wf_accPut _ _ _ _ _ h) h | exact Bead.wf_accUndefine _ _ _ _ (Bead.wf_foldl (fun _ _ h => Bead.wf_spUndefine _ _ _ _ h) h) | (repeat' split <;> exact h))))
    | with_reducible exact Kept.refl _ _
    | with_reducible assumption
    | with_reducible refine Kept.foldl (fun _ _ => ?_) ?_
    | with_reducible (show Kept _ _ _; refine Kept.mk ?_)
    | split
    | dsimp only

theorem keptM_spillRun (c : Ctx) (w : CmdWord) : KeptM 0x20060 (spillRun c w) := by
  unfold spillRun
  repeat' first
    | decide
    | with_reducible exact KeptM.pure _
    | with_reducible exact KeptM.getS
    | with_reducible exact KeptM.get
    | with_reducible exact KeptM.throw _
    | with_reducible exact KeptM.notePoison _
    | with_reducible exact KeptM.liftE _
    | with_reducible refine KeptM.bind ?_ (fun _ => ?_)
    | with_reducible refine KeptM.ite ?_ ?_
    | with_reducible refine KeptM.forM (fun _ => ?_)
    | with_reducible refine KeptM.mapM (fun _ => ?_)
    | with_reducible refine KeptM.foldlM (fun _ _ => ?_) _
    | with_reducible refine KeptM.map ?_
    | with_reducible refine KeptM.modS (fun _ => ?_)
    | with_reducible apply KeptM.use (keptM_spillSlots _ _ _ _)
    | with_reducible exact Kept.refl _ _
    | with_reducible assumption
    | with_reducible (show Kept _ _ _; refine Kept.mk ?_)
    | split
    | dsimp only

theorem keptM_fillRun (c : Ctx) (w : CmdWord) : KeptM 0x20020 (fillRun c w) := by
  unfold fillRun
  repeat' first
    | decide
    | with_reducible exact KeptM.pure _
    | with_reducible exact KeptM.getS
    | with_reducible exact KeptM.get
    | with_reducible exact KeptM.throw _
    | with_reducible exact KeptM.notePoison _
    | with_reducible exact KeptM.liftE _
    | with_reducible refine KeptM.bind ?_ (fun _ => ?_)
    | with_reducible refine KeptM.ite ?_ ?_
    | with_reducible refine KeptM.forM (fun _ => ?_)
    | with_reducible refine KeptM.mapM (fun _ => ?_)
    | with_reducible refine KeptM.foldlM (fun _ _ => ?_) _
    | with_reducible refine KeptM.map ?_
    | with_reducible refine KeptM.modS (fun _ => ?_)
    | with_reducible apply KeptM.use (keptM_fillSlots _ _ _ _ _)
    | with_reducible exact Kept.refl _ _
    | with_reducible assumption
    | with_reducible (show Kept _ _ _; refine Kept.mk ?_)
    | split
    | dsimp only

end Sys2Proof.Machine
end

