-- ==== Sys2Proof/Laws/KeptVector.lean ====
section
/-! SUPPORT. What the operations of Machine/Vector.lean may touch. -/

set_option Elab.async false
set_option linter.unusedTactic false
set_option linter.unreachableTactic false

namespace Sys2Proof.Machine

theorem keptM_rdWork (c : Ctx) (d : Desc) (xs : List Nat) : KeptM 0x20000 (rdWork c d xs) := by
  unfold rdWork
  repeat' first
    | decide
    | with_reducible exact KeptM.pure _
    | with_reducible exact KeptM.getS
    | with_reducible exact KeptM.get
    | with_reducible exact KeptM.throw _
    | with_reducible exact KeptM.notePoison _
    | with_reducible exact KeptM.liftE _
    | with_reducible refine KeptM.bind ?_ (fun _ => ?_)
    | with_reducible refine KeptM.ite ?_ ?_
    | with_reducible refine KeptM.forM (fun _ => ?_)
    | with_reducible refine KeptM.mapM (fun _ => ?_)
    | with_reducible refine KeptM.foldlM (fun _ _ => ?_) _
    | with_reducible refine KeptM.map ?_
    | with_reducible refine KeptM.modS (fun _ => ?_)
    | with_reducible apply KeptM.use (keptM_rdDense _ _ _ _ _)
    | with_reducible apply KeptM.use (keptM_rdScale _ _ _ _)
    | with_reducible exact Kept.refl _ _
    | with_reducible assumption
    | with_reducible (show Kept _ _ _; refine Kept.mk ?_)
    | split
    | dsimp only

theorem keptM_convOut (c : Ctx) (d : Desc) (ovf : Bool) (vs : List (Fp × Bool)) : KeptM 0x20 (convOut c d ovf vs) := by
  unfold convOut
  repeat' first
    | decide
    | with_reducible exact KeptM.pure _
    | with_reducible exact KeptM.getS
    | with_reducible exact KeptM.get
    | with_reducible exact KeptM.throw _
    | with_reducible exact KeptM.notePoison _
    | with_reducible exact KeptM.liftE _
    | with_reducible refine KeptM.bind ?_ (fun _ => ?_)
    | with_reducible refine KeptM.ite ?_ ?_
    | with_reducible refine KeptM.forM (fun _ => ?_)
    | with_reducible refine KeptM.mapM (fun _ => ?_)
    | with_reducible refine KeptM.foldlM (fun _ _ => ?_) _
    | with_reducible refine KeptM.map ?_
    | with_reducible refine KeptM.modS (fun _ => ?_)
    | with_reducible apply KeptM.use (keptM_countNans _ _)
    | with_reducible exact Kept.refl _ _
    | with_reducible assumption
    | with_reducible (show Kept _ _ _; refine Kept.mk ?_)
    | split
    | dsimp only

theorem keptM_vopRows (c : Ctx) (v : Vop) : KeptM 0x20060 (vopRows c v) := by
  unfold vopRows
  repeat' first
    | decide
    | with_reducible exact KeptM.pure _
    | with_reducible exact KeptM.getS
    | with_reducible exact KeptM.get
    | with_reducible exact KeptM.throw _
    | with_reducible exact KeptM.notePoison _
    | with_reducible exact KeptM.liftE _
    | with_reducible refine KeptM.bind ?_ (fun _ => ?_)
    | with_reducible refine KeptM.ite ?_ ?_
    | with_reducible refine KeptM.forM (fun _ => ?_)
    | with_reducible refine KeptM.mapM (fun _ => ?_)
    | with_reducible refine KeptM.foldlM (fun _ _ => ?_) _
    | with_reducible refine KeptM.map ?_
    | with_reducible refine KeptM.modS (fun _ => ?_)
    | with_reducible apply KeptM.use (keptM_rdWork _ _ _)
    | with_reducible apply KeptM.use (keptM_wrRun _ _ _ _ _)
    | with_reducible apply KeptM.use (keptM_convOut _ _ _ _)
    | with_reducible exact Kept.refl _ _
    | with_reducible assumption
    | with_reducible (show Kept _ _ _; refine Kept.mk ?_)
    | split
    | dsimp only

theorem keptM_vopTopk (c : Ctx) (v : Vop) : KeptM 0x20062 (vopTopk c v) := by
  unfold vopTopk
  repeat' first
    | decide
    | with_reducible exact KeptM.pure _
    | with_reducible exact KeptM.getS
    | with_reducible exact KeptM.get
    | with_reducible exact KeptM.throw _
    | with_reducible exact KeptM.notePoison _
    | with_reducible exact KeptM.liftE _
    | with_reducible refine KeptM.bind ?_ (fun _ => ?_)
    | with_reducible refine KeptM.ite ?_ ?_
    | with_reducible refine KeptM.forM (fun _ => ?_)
    | with_reducible refine KeptM.mapM (fun _ => ?_)
    | with_reducible refine KeptM.foldlM (fun _ _ => ?_) _
    | with_reducible refine KeptM.map ?_
    | with_reducible refine KeptM.modS (fun _ => ?_)
    | with_reducible apply KeptM.use (keptM_rdWork _ _ _)
    | with_reducible apply KeptM.use (keptM_drawKey )
    | with_reducible apply KeptM.use (keptM_wrSeg _ _ _ _ _)
    | with_reducible apply KeptM.use (keptM_convOut _ _ _ _)
    | with_reducible exact Kept.refl _ _
    | with_reducible assumption
    | with_reducible (show Kept _ _ _; refine Kept.mk ?_)
    | split
    | dsimp only

theorem keptM_vopRoute (c : Ctx) (v : Vop) : KeptM 0x20062 (vopRoute c v) := by
  unfold vopRoute
  repeat' first
    | decide
    | with_reducible exact KeptM.pure _
    | with_reducible exact KeptM.getS
    | with_reducible exact KeptM.get
    | with_reducible exact KeptM.throw _
    | with_reducible exact KeptM.notePoison _
    | with_reducible exact KeptM.liftE _
    | with_reducible refine KeptM.bind ?_ (fun _ => ?_)
    | with_reducible refine KeptM.ite ?_ ?_
    | with_reducible refine KeptM.forM (fun _ => ?_)
    | with_reducible refine KeptM.mapM (fun _ => ?_)
    | with_reducible refine KeptM.foldlM (fun _ _ => ?_) _
    | with_reducible refine KeptM.map ?_
    | with_reducible refine KeptM.modS (fun _ => ?_)
    | with_reducible apply KeptM.use (keptM_rdDense _ _ _ _ _)
    | with_reducible apply KeptM.use (keptM_drawKey )
    | with_reducible apply KeptM.use (keptM_wrSeg _ _ _ _ _)
    | with_reducible exact Kept.refl _ _
    | with_reducible assumption
    | with_reducible refine Kept.foldl (fun _ _ => ?_) ?_
    | with_reducible (show Kept _ _ _; refine Kept.mk ?_)
    | split
    | dsimp only

theorem keptM_vopPsum (c : Ctx) (v : Vop) : KeptM 0x20060 (vopPsum c v) := by
  unfold vopPsum
  repeat' first
    | decide
    | with_reducible exact KeptM.pure _
    | with_reducible exact KeptM.getS
    | with_reducible exact KeptM.get
    | with_reducible exact KeptM.throw _
    | with_reducible exact KeptM.notePoison _
    | with_reducible exact KeptM.liftE _
    | with_reducible refine KeptM.bind ?_ (fun _ => ?_)
    | with_reducible refine KeptM.ite ?_ ?_
    | with_reducible refine KeptM.forM (fun _ => ?_)
    | with_reducible refine KeptM.mapM (fun _ => ?_)
    | with_reducible refine KeptM.foldlM (fun _ _ => ?_) _
    | with_reducible refine KeptM.map ?_
    | with_reducible refine KeptM.modS (fun _ => ?_)
    | with_reducible apply KeptM.use (keptM_rdDense _ _ _ _ _)
    | with_reducible apply KeptM.use (keptM_wrRun _ _ _ _ _)
    | with_reducible apply KeptM.use (keptM_convOut _ _ _ _)
    | with_reducible exact Kept.refl _ _
    | with_reducible assumption
    | with_reducible refine Kept.foldl (fun _ _ => ?_) ?_
    | with_reducible (show Kept _ _ _; refine Kept.mk ?_)
    | split
    | dsimp only

theorem keptM_vopRun (c : Ctx) (w : CmdWord) : KeptM 0x20062 (vopRun c w) := by
  unfold vopRun
  repeat' first
    | decide
    | with_reducible exact KeptM.pure _
    | with_reducible exact KeptM.getS
    | with_reducible exact KeptM.get
    | with_reducible exact KeptM.throw _
    | with_reducible exact KeptM.notePoison _
    | with_reducible exact KeptM.liftE _
    | with_reducible refine KeptM.bind ?_ (fun _ => ?_)
    | with_reducible refine KeptM.ite ?_ ?_
    | with_reducible refine KeptM.forM (fun _ => ?_)
    | with_reducible refine KeptM.mapM (fun _ => ?_)
    | with_reducible refine KeptM.foldlM (fun _ _ => ?_) _
    | with_reducible refine KeptM.map ?_
    | with_reducible refine KeptM.modS (fun _ => ?_)
    | with_reducible apply KeptM.use (keptM_undefHulls _ _)
    | with_reducible apply KeptM.use (keptM_vopTopk _ _)
    | with_reducible apply KeptM.use (keptM_vopRoute _ _)
    | with_reducible apply KeptM.use (keptM_vopPsum _ _)
    | with_reducible apply KeptM.use (keptM_vopRows _ _)
    | with_reducible exact Kept.refl _ _
    | with_reducible assumption
    | with_reducible (show Kept _ _ _; refine Kept.mk ?_)
    | split
    | dsimp only

theorem keptM_redRun (c : Ctx) (w : CmdWord) : KeptM 0x20062 (redRun c w) := by
  unfold redRun
  repeat' first
    | decide
    | with_reducible exact KeptM.pure _
    | with_reducible exact KeptM.getS
    | with_reducible exact KeptM.get
    | with_reducible exact KeptM.throw _
    | with_reducible exact KeptM.notePoison _
    | with_reducible exact KeptM.liftE _
    | with_reducible refine KeptM.bind ?_ (fun _ => ?_)
    | with_reducible refine KeptM.ite ?_ ?_
    | with_reducible refine KeptM.forM (fun _ => ?_)
    | with_reducible refine KeptM.mapM (fun _ => ?_)
    | with_reducible refine KeptM.foldlM (fun _ _ => ?_) _
    | with_reducible refine KeptM.map ?_
    | with_reducible refine KeptM.modS (fun _ => ?_)
    | with_reducible apply KeptM.use (keptM_undefHulls _ _)
    | with_reducible apply KeptM.use (keptM_rdWork _ _ _)
    | with_reducible apply KeptM.use (keptM_drawKey )
    | with_reducible apply KeptM.use (keptM_wrSeg _ _ _ _ _)
    | with_reducible apply KeptM.use (keptM_convOut _ _ _ _)
    | with_reducible exact Kept.refl _ _
    | with_reducible assumption
    | with_reducible (show Kept _ _ _; refine Kept.mk ?_)
    | split
    | dsimp only

end Sys2Proof.Machine
end

