-- ==== Sys2Proof/Laws/KeptMergeTree.lean ====
section
/-! SUPPORT. What the operations of Machine/MergeTree.lean may touch. -/

set_option Elab.async false
set_option linter.unusedTactic false
set_option linter.unreachableTactic false

namespace Sys2Proof.Machine

theorem keptM_rdElem32 (c : Ctx) (d : Desc) (j : Nat) : KeptM 0x20000 (rdElem32 c d j) := by
  unfold rdElem32
  repeat' first
    | decide
    | with_reducible exact KeptM.pure _
    | with_reducible exact KeptM.getS
    | with_reducible exact KeptM.get
    | with_reducible exact KeptM.throw _
    | with_reducible exact KeptM.notePoison _
    | with_reducible exact KeptM.liftE _
    | with_reducible refine KeptM.bind ?_ (fun _ => ?_)
    | with_reducible refine KeptM.ite ?_ ?_
    | with_reducible refine KeptM.forM (fun _ => ?_)
    | with_reducible refine KeptM.mapM (fun _ => ?_)
    | with_reducible refine KeptM.foldlM (fun _ _ => ?_) _
    | with_reducible refine KeptM.map ?_
    | with_reducible refine KeptM.modS (fun _ => ?_)
    | with_reducible apply KeptM.use (keptM_rd _ _ _ _ _ _)
    | with_reducible exact Kept.refl _ _
    | with_reducible assumption
    | with_reducible (show Kept _ _ _; refine Kept.mk ?_)
    | split
    | dsimp only

theorem kept_openMerge (s : State) (c : Ctx) (mseq : Nat) : Kept 0x80 s (State.openMerge s c mseq).1 := by
  unfold State.openMerge
  repeat' first
    | decide
    | dsimp only
    | with_reducible exact Kept.refl _ _
    | with_reducible assumption
    | with_reducible refine Kept.ite ?_ ?_
    | with_reducible (show Kept _ _ _; refine Kept.mk ?_)
    | split
    | dsimp only

theorem kept_updMerge (s : State) (i : Nat) (f : Merge → Merge) : Kept 0x80 s (State.updMerge s i f) := by
  unfold State.updMerge
  repeat' first
    | decide
    | with_reducible exact Kept.refl _ _
    | with_reducible assumption
    | with_reducible refine Kept.ite ?_ ?_
    | with_reducible (show Kept _ _ _; refine Kept.mk ?_)
    | split
    | dsimp only

theorem kept_mtReserve (s : State) (c : Ctx) (w : CmdWord) : Kept 0x80 s (State.mtReserve s c w) := by
  unfold State.mtReserve
  repeat' first
    | decide
    | with_reducible exact Kept.refl _ _
    | with_reducible assumption
    | with_reducible refine Kept.ite ?_ ?_
    | with_reducible apply Kept.step (kept_openMerge _ _ _)
    | with_reducible refine Kept.fst_eq ‹_ = (_, _)› (Kept.of (kept_openMerge _ _ _) ?_)
    | with_reducible refine Kept.fst_eq3 ‹_ = (_, _, _)› (Kept.of (kept_openMerge _ _ _) ?_)
    | with_reducible apply Kept.step (kept_updMerge _ _ _)
    | with_reducible (show Kept _ _ _; refine Kept.mk ?_)
    | split
    | dsimp only

theorem keptM_pushRun (c : Ctx) (w : CmdWord) : KeptM 0x20082 (pushRun c w) := by
  unfold pushRun
  refine KeptM.ofGet (fun t => ?_)
  dsimp only
  refine KeptM.after (m := 0x20082) ?_ (fun _ => ?_)
  · exact (kept_openMerge t.s c (fld w 39 32)).mono (by decide)
  · repeat' first
    | decide
      | with_reducible exact KeptM.pure _
      | with_reducible exact KeptM.getS
      | with_reducible exact KeptM.get
      | with_reducible exact KeptM.throw _
      | with_reducible exact KeptM.notePoison _
      | with_reducible exact KeptM.liftE _
      | with_reducible refine KeptM.bind ?_ (fun _ => ?_)
      | with_reducible refine KeptM.ite ?_ ?_
      | with_reducible refine KeptM.forM (fun _ => ?_)
      | with_reducible refine KeptM.mapM (fun _ => ?_)
      | with_reducible refine KeptM.foldlM (fun _ _ => ?_) _
      | with_reducible refine KeptM.map ?_
      | with_reducible refine KeptM.modS (fun _ => ?_)
      | with_reducible apply Kept.step (kept_openMerge _ _ _)
      | with_reducible refine Kept.fst_eq ‹_ = (_, _)› (Kept.of (kept_openMerge _ _ _) ?_)
      | with_reducible refine Kept.fst_eq3 ‹_ = (_, _, _)› (Kept.of (kept_openMerge _ _ _) ?_)
      | with_reducible apply Kept.step (kept_updMerge _ _ _)
      | with_reducible apply KeptM.use (keptM_drawKey )
      | with_reducible apply KeptM.use (keptM_rdDense _ _ _ _ _)
      | with_reducible apply KeptM.use (keptM_rdElem32 _ _ _)
      | with_reducible exact Kept.refl _ _
      | with_reducible assumption
      | with_reducible (show Kept _ _ _; refine Kept.mk ?_)
      | split
      | dsimp only

theorem keptM_putPullRow (c : Ctx) (f : MtFixed) (d : Desc) (w : CmdWord) (row : Nat) (r : MtRecord) : KeptM 0x20060 (putPullRow c f d w row r) := by
  unfold putPullRow
  repeat' first
    | decide
    | with_reducible exact KeptM.pure _
    | with_reducible exact KeptM.getS
    | with_reducible exact KeptM.get
    | with_reducible exact KeptM.throw _
    | with_reducible exact KeptM.notePoison _
    | with_reducible exact KeptM.liftE _
    | with_reducible refine KeptM.bind ?_ (fun _ => ?_)
    | with_reducible refine KeptM.ite ?_ ?_
    | with_reducible refine KeptM.forM (fun _ => ?_)
    | with_reducible refine KeptM.mapM (fun _ => ?_)
    | with_reducible refine KeptM.foldlM (fun _ _ => ?_) _
    | with_reducible refine KeptM.map ?_
    | with_reducible refine KeptM.modS (fun _ => ?_)
    | with_reducible apply KeptM.use (keptM_countNans _ _)
    | with_reducible apply KeptM.use (keptM_wrRun _ _ _ _ _)
    | with_reducible exact Kept.refl _ _
    | with_reducible assumption
    | with_reducible (show Kept _ _ _; refine Kept.mk ?_)
    | split
    | dsimp only

theorem keptM_putPull (c : Ctx) (f : MtFixed) (w : CmdWord) (ents : Bytes) (rs : List MtRecord) : KeptM 0x20062 (putPull c f w ents rs) := by
  unfold putPull
  repeat' first
    | decide
    | with_reducible exact KeptM.pure _
    | with_reducible exact KeptM.getS
    | with_reducible exact KeptM.get
    | with_reducible exact KeptM.throw _
    | with_reducible exact KeptM.notePoison _
    | with_reducible exact KeptM.liftE _
    | with_reducible refine KeptM.bind ?_ (fun _ => ?_)
    | with_reducible refine KeptM.ite ?_ ?_
    | with_reducible refine KeptM.forM (fun _ => ?_)
    | with_reducible refine KeptM.mapM (fun _ => ?_)
    | with_reducible refine KeptM.foldlM (fun _ _ => ?_) _
    | with_reducible refine KeptM.map ?_
    | with_reducible refine KeptM.modS (fun _ => ?_)
    | with_reducible apply KeptM.use (keptM_undefHulls _ _)
    | with_reducible apply KeptM.use (keptM_wrRun _ _ _ _ _)
    | with_reducible apply KeptM.use (keptM_putPullRow _ _ _ _ _ _)
    | with_reducible apply KeptM.use (keptM_wrSeg _ _ _ _ _)
    | with_reducible apply KeptM.use (keptM_wr _ _ _ _ _ _)
    | with_reducible exact Kept.refl _ _
    | with_reducible assumption
    | with_reducible (show Kept _ _ _; refine Kept.mk ?_)
    | split
    | dsimp only

theorem keptM_pullRun (c : Ctx) (idx : Nat) (w : CmdWord) (names : List Nat) : KeptM 0x80 (pullRun c idx w names) := by
  unfold pullRun
  refine KeptM.ofGet (fun t => ?_)
  generalize e : t.s.openMerge c (fld w 39 32) = p
  obtain ⟨s, i⟩ := p
  exact Kept.of (kept_updMerge s i (fun m => { m with pulls := m.pulls ++ [{ rank := c.rank, bead := c.b, idx, word := w, ents := (s.bead c.b).entries names }] })) (Kept.fst_eq e ((kept_openMerge t.s c (fld w 39 32)).mono (by decide)))

end Sys2Proof.Machine
end

