-- ==== Sys2Proof/Laws/KeptSlice.lean ====
section
/-! SUPPORT. What the operations of Machine/Slice.lean may touch. -/

set_option Elab.async false
set_option linter.unusedTactic false
set_option linter.unreachableTactic false

namespace Sys2Proof.Machine

theorem kept_writeCompl (s : State) (uid : Nat) (sl : Slice) (outcome runNs slipNs poisoned : Nat) : Kept 0x100020000 s (State.writeCompl s uid sl outcome runNs slipNs poisoned) := by
  unfold State.writeCompl
  repeat' first
    | decide
    | with_reducible exact Kept.refl _ _
    | with_reducible assumption
    | with_reducible refine Kept.ite ?_ ?_
    | with_reducible apply Kept.step (kept_memWrite _ _ _)
    | with_reducible apply Kept.step (kept_count _ _)
    | with_reducible (show Kept _ _ _; refine Kept.mk ?_)
    | split
    | dsimp only

theorem kept_leafRec (s : State) (b rank idx : Nat) (f : Flt) (covered : Bool) : Kept 0x2080200000 s (State.leafRec s b rank idx f covered) := by
  unfold State.leafRec
  repeat' first
    | decide
    | with_reducible exact Kept.refl _ _
    | with_reducible assumption
    | with_reducible refine Kept.ite ?_ ?_
    | with_reducible apply Kept.step (kept_raiseU _ _ _ _ _ _ _)
    | with_reducible (show Kept _ _ _; refine Kept.mk ?_)
    | split
    | dsimp only

theorem kept_noteLoose (s : State) (uid status : Nat) : Kept 0x42 s (State.noteLoose s uid status) := by
  unfold State.noteLoose
  repeat' first
    | decide
    | with_reducible exact Kept.refl _ _
    | with_reducible assumption
    | with_reducible refine Kept.ite ?_ ?_
    | with_reducible apply Kept.step (kept_fresh _)
    | with_reducible refine Kept.snd_eq ‹_ = (_, _)› (Kept.of (kept_fresh _) ?_)
    | with_reducible apply Kept.step (kept_updSlice _ _ _)
    | with_reducible (show Kept _ _ _; refine Kept.mk ?_)
    | split
    | dsimp only

theorem kept_stopLeaf (s : State) (b : Nat) : Kept 0x922 s (State.stopLeaf s b) := by
  unfold State.stopLeaf
  repeat' first
    | decide
    | with_reducible exact Kept.refl _ _
    | with_reducible assumption
    | with_reducible refine Kept.ite ?_ ?_
    | with_reducible apply Kept.step (kept_withdrawBead _ _)
    | with_reducible (show Kept _ _ (State.updBead _ _ _); first | apply Kept.step (kept_updBead _ _ _) | (refine Kept.of (kept_updBead _ _ _ ?hf) ?_; case hf => (intro _ h; (try dsimp only); first | exact h | exact Bead.wf_spUndefine _ _ _ _ h | exact Bead.wf_spWrite _ _ _ h | exact Bead.wf_accUndefine _ _ _ _ (Bead.wf_spUndefine _ _ _ _ h) | exact Bead.wf_accUndefine _ _ _ _ h | (unfold Bead.accPut; exact h) | (unfold Bead.spMark; exact h) | exact Bead.wf_foldl (fun _ _ h => h) h | exact Bead.wf_foldl (fun _ _ h => Bead.wf_accPut _ _ _ _ _ h) h | exact Bead.wf_accUndefine _ _ _ _ (Bead.wf_foldl (fun _ _ h => Bead.wf_spUndefine _ _ _ _ h) h) | (repeat' split <;> exact h))))
    | with_reducible refine Kept.foldl (fun _ _ => ?_) ?_
    | with_reducible (show Kept _ _ _; refine Kept.mk ?_)
    | split
    | dsimp only

theorem kept_updFed (s : State) (fedUid : Nat) (g : Fed → Fed) : Kept 0x100000 s (State.updFed s fedUid g) := by
  unfold State.updFed
  repeat' first
    | decide
    | with_reducible exact Kept.refl _ _
    | with_reducible assumption
    | with_reducible refine Kept.ite ?_ ?_
    | with_reducible (show Kept _ _ _; refine Kept.mk ?_)
    | split
    | dsimp only

theorem kept_tellFed (s : State) (f : FedRec) (kind : Nat) (fields : List Nat) : Kept 0x2040300002 s (State.tellFed s f kind fields) := by
  unfold State.tellFed
  repeat' first
    | decide
    | with_reducible exact Kept.refl _ _
    | with_reducible assumption
    | with_reducible refine Kept.ite ?_ ?_
    | with_reducible apply Kept.step (kept_tell _ _ _ _)
    | with_reducible refine Kept.foldl (fun _ _ => ?_) ?_
    | with_reducible (show Kept _ _ _; refine Kept.mk ?_)
    | split
    | dsimp only

theorem kept_discardOpen (s : State) (sl : Slice) : Kept 0x680 s (State.discardOpen s sl) := by
  unfold State.discardOpen
  repeat' first
    | decide
    | with_reducible exact Kept.refl _ _
    | with_reducible assumption
    | with_reducible refine Kept.ite ?_ ?_
    | with_reducible (show Kept _ _ _; refine Kept.mk ?_)
    | split
    | dsimp only

theorem kept_tellColls (s : State) (uid : Nat) (sl : Slice) (status : Nat) : Kept 0x2040300002 s (State.tellColls s uid sl status) := by
  unfold State.tellColls
  repeat' first
    | decide
    | with_reducible exact Kept.refl _ _
    | with_reducible assumption
    | with_reducible refine Kept.ite ?_ ?_
    | with_reducible apply Kept.step (kept_tellFed _ _ _ _)
    | with_reducible refine Kept.foldl (fun _ _ => ?_) ?_
    | with_reducible (show Kept _ _ _; refine Kept.mk ?_)
    | split
    | dsimp only

theorem kept_failSlice (s : State) (uid outcome : Nat) (dependsOn : Option Nat) : Kept 0x21c0762fe2 s (State.failSlice s uid outcome dependsOn) := by
  unfold State.failSlice
  repeat' first
    | decide
    | with_reducible exact Kept.refl _ _
    | with_reducible assumption
    | with_reducible refine Kept.ite ?_ ?_
    | with_reducible apply Kept.step (kept_tellColls _ _ _ _)
    | with_reducible apply Kept.step (kept_stopLeaf _ _)
    | with_reducible apply Kept.step (kept_memUndef _ _ _)
    | with_reducible apply Kept.step (kept_dropObj _ _)
    | with_reducible apply Kept.step (kept_discardOpen _ _)
    | with_reducible apply Kept.step (kept_updUnit _ _ _)
    | with_reducible apply Kept.step (kept_fresh _)
    | with_reducible refine Kept.snd_eq ‹_ = (_, _)› (Kept.of (kept_fresh _) ?_)
    | with_reducible apply Kept.step (kept_writeCompl _ _ _ _ _ _ _)
    | with_reducible apply Kept.step (kept_opFail _ _)
    | with_reducible refine Kept.foldl (fun _ _ => ?_) ?_
    | with_reducible (show Kept _ _ _; refine Kept.mk ?_)
    | split
    | dsimp only

theorem kept_fedDecide (s : State) (f : FedRec) : Kept 0x21c0762fe2 s (State.fedDecide s f) := by
  unfold State.fedDecide
  repeat' first
    | decide
    | with_reducible exact Kept.refl _ _
    | with_reducible assumption
    | with_reducible refine Kept.ite ?_ ?_
    | with_reducible apply Kept.step (kept_updFed _ _ _)
    | with_reducible apply Kept.step (kept_tellFed _ _ _ _)
    | with_reducible apply Kept.step (kept_updSlice _ _ _)
    | with_reducible apply Kept.step (kept_noteLoose _ _ _)
    | with_reducible apply Kept.step (kept_failSlice _ _ _ _)
    | with_reducible (show Kept _ _ _; refine Kept.mk ?_)
    | split
    | dsimp only

theorem kept_fedReport (s : State) (f : FedRec) (rank status : Nat) : Kept 0x21c0762fe2 s (State.fedReport s f rank status) := by
  unfold State.fedReport
  repeat' first
    | decide
    | with_reducible exact Kept.refl _ _
    | with_reducible assumption
    | with_reducible refine Kept.ite ?_ ?_
    | with_reducible apply Kept.step (kept_updFed _ _ _)
    | with_reducible apply Kept.step (kept_fedDecide _ _)
    | with_reducible (show Kept _ _ _; refine Kept.mk ?_)
    | split
    | dsimp only

theorem kept_fedLocal (s : State) (uid status : Nat) : Kept 0x21c0762fe2 s (State.fedLocal s uid status) := by
  unfold State.fedLocal
  repeat' first
    | decide
    | with_reducible exact Kept.refl _ _
    | with_reducible assumption
    | with_reducible refine Kept.ite ?_ ?_
    | with_reducible apply Kept.step (kept_fedReport _ _ _ _)
    | with_reducible apply Kept.step (kept_tell _ _ _ _)
    | with_reducible (show Kept _ _ _; refine Kept.mk ?_)
    | split
    | dsimp only

theorem kept_failLeaf (s : State) (b rank idx uid : Nat) (f : Flt) (outcome : Nat) (covered : Bool) (dependsOn : Option Nat) : Kept 0x21e0762fe2 s (State.failLeaf s b rank idx uid f outcome covered dependsOn) := by
  unfold State.failLeaf
  repeat' first
    | decide
    | with_reducible exact Kept.refl _ _
    | with_reducible assumption
    | with_reducible refine Kept.ite ?_ ?_
    | with_reducible apply Kept.step (kept_traceCmd _ _ _ _ _ _)
    | with_reducible apply Kept.step (kept_traceFault _ _)
    | with_reducible apply Kept.step (kept_leafRec _ _ _ _ _ _)
    | with_reducible apply Kept.step (kept_updSlice _ _ _)
    | with_reducible apply Kept.step (kept_failSlice _ _ _ _)
    | with_reducible apply Kept.step (kept_fedLocal _ _ _)
    | with_reducible (show Kept _ _ _; refine Kept.mk ?_)
    | split
    | dsimp only

end Sys2Proof.Machine
end

