-- ==== Sys2Proof/Laws/KeptCollective.lean ====
section
/-! SUPPORT. What the operations of Machine/Collective.lean may touch. -/

set_option Elab.async false
set_option linter.unusedTactic false
set_option linter.unreachableTactic false

namespace Sys2Proof.Machine

theorem keptM_rdMap (c : Ctx) (u : Fused) (row : Nat) : KeptM 0x20002 (rdMap c u row) := by
  unfold rdMap
  repeat' first
    | decide
    | with_reducible exact KeptM.pure _
    | with_reducible exact KeptM.getS
    | with_reducible exact KeptM.get
    | with_reducible exact KeptM.throw _
    | with_reducible exact KeptM.notePoison _
    | with_reducible exact KeptM.liftE _
    | with_reducible refine KeptM.bind ?_ (fun _ => ?_)
    | with_reducible refine KeptM.ite ?_ ?_
    | with_reducible refine KeptM.forM (fun _ => ?_)
    | with_reducible refine KeptM.mapM (fun _ => ?_)
    | with_reducible refine KeptM.foldlM (fun _ _ => ?_) _
    | with_reducible refine KeptM.map ?_
    | with_reducible refine KeptM.modS (fun _ => ?_)
    | with_reducible apply KeptM.use (keptM_drawKey )
    | with_reducible apply KeptM.use (keptM_rdDense _ _ _ _ _)
    | with_reducible exact Kept.refl _ _
    | with_reducible assumption
    | with_reducible (show Kept _ _ _; refine Kept.mk ?_)
    | split
    | dsimp only

theorem keptM_sendPayloads (h : CollHdr) (u : Fused) (es : List (List AccElem)) (way : List (Nat × Nat)) : KeptM 0x2000000000 (sendPayloads h u es way) := by
  unfold sendPayloads
  repeat' first
    | decide
    | with_reducible exact KeptM.pure _
    | with_reducible exact KeptM.getS
    | with_reducible exact KeptM.get
    | with_reducible exact KeptM.throw _
    | with_reducible exact KeptM.notePoison _
    | with_reducible exact KeptM.liftE _
    | with_reducible refine KeptM.bind ?_ (fun _ => ?_)
    | with_reducible refine KeptM.ite ?_ ?_
    | with_reducible refine KeptM.forM (fun _ => ?_)
    | with_reducible refine KeptM.mapM (fun _ => ?_)
    | with_reducible refine KeptM.foldlM (fun _ _ => ?_) _
    | with_reducible refine KeptM.map ?_
    | with_reducible refine KeptM.modS (fun _ => ?_)
    | with_reducible apply Kept.step (kept_emit _ _)
    | with_reducible exact Kept.refl _ _
    | with_reducible assumption
    | with_reducible (show Kept _ _ _; refine Kept.mk ?_)
    | split
    | dsimp only

theorem kept_updColl (s : State) (i : Nat) (f : Coll → Coll) : Kept 0x200 s (State.updColl s i f) := by
  unfold State.updColl
  repeat' first
    | decide
    | with_reducible exact Kept.refl _ _
    | with_reducible assumption
    | with_reducible refine Kept.ite ?_ ?_
    | with_reducible (show Kept _ _ _; refine Kept.mk ?_)
    | split
    | dsimp only

theorem kept_openColl (s : State) (serial seq : Nat) : Kept 0x200 s (State.openColl s serial seq).1 := by
  unfold State.openColl
  repeat' first
    | decide
    | dsimp only
    | with_reducible exact Kept.refl _ _
    | with_reducible assumption
    | with_reducible refine Kept.ite ?_ ?_
    | with_reducible (show Kept _ _ _; refine Kept.mk ?_)
    | split
    | dsimp only

theorem keptM_fuseRun (c : Ctx) (idx : Nat) (w : CmdWord) (names : List Nat) : KeptM 0x2000020262 (fuseRun c idx w names) := by
  unfold fuseRun
  repeat' first
    | decide
    | with_reducible exact KeptM.pure _
    | with_reducible exact KeptM.getS
    | with_reducible exact KeptM.get
    | with_reducible exact KeptM.throw _
    | with_reducible exact KeptM.notePoison _
    | with_reducible exact KeptM.liftE _
    | with_reducible refine KeptM.bind ?_ (fun _ => ?_)
    | with_reducible refine KeptM.ite ?_ ?_
    | with_reducible refine KeptM.forM (fun _ => ?_)
    | with_reducible refine KeptM.mapM (fun _ => ?_)
    | with_reducible refine KeptM.foldlM (fun _ _ => ?_) _
    | with_reducible refine KeptM.map ?_
    | with_reducible refine KeptM.modS (fun _ => ?_)
    | with_reducible apply KeptM.use (keptM_undefHulls _ _)
    | with_reducible apply Kept.step (kept_openColl _ _ _)
    | with_reducible refine Kept.fst_eq ‹_ = (_, _)› (Kept.of (kept_openColl _ _ _) ?_)
    | with_reducible refine Kept.fst_eq3 ‹_ = (_, _, _)› (Kept.of (kept_openColl _ _ _) ?_)
    | with_reducible apply Kept.step (kept_updColl _ _ _)
    | with_reducible (show Kept _ _ (State.updBead _ _ _); first | apply Kept.step (kept_updBead _ _ _) | (refine Kept.of (kept_updBead _ _ _ ?hf) ?_; case hf => (intro _ h; (try dsimp only); first | exact h | exact Bead.wf_spUndefine _ _ _ _ h | exact Bead.wf_spWrite _ _ _ h | exact Bead.wf_accUndefine _ _ _ _ (Bead.wf_spUndefine _ _ _ _ h) | exact Bead.wf_accUndefine _ _ _ _ h | (unfold Bead.accPut; exact h) | (unfold Bead.spMark; exact h) | exact Bead.wf_foldl (fun _ _ h => h) h | exact Bead.wf_foldl (fun _ _ h => Bead.wf_accPut _ _ _ _ _ h) h | exact Bead.wf_accUndefine _ _ _ _ (Bead.wf_foldl (fun _ _ h => Bead.wf_spUndefine _ _ _ _ h) h) | (repeat' split <;> exact h))))
    | with_reducible apply KeptM.use (keptM_countNans _ _)
    | with_reducible apply KeptM.use (keptM_rdMap _ _ _)
    | with_reducible apply KeptM.use (keptM_sendPayloads _ _ _ _)
    | with_reducible exact Kept.refl _ _
    | with_reducible assumption
    | with_reducible refine Kept.foldl (fun _ _ => ?_) ?_
    | with_reducible (show Kept _ _ _; refine Kept.mk ?_)
    | split
    | dsimp only

theorem kept_failColl (s : State) (uid i status : Nat) : Kept 0x21c0762fe2 s (State.failColl s uid i status) := by
  unfold State.failColl
  repeat' first
    | decide
    | with_reducible exact Kept.refl _ _
    | with_reducible assumption
    | with_reducible refine Kept.ite ?_ ?_
    | with_reducible apply Kept.step (kept_leafRec _ _ _ _ _ _)
    | with_reducible apply Kept.step (kept_updSlice _ _ _)
    | with_reducible apply Kept.step (kept_opFail _ _)
    | with_reducible apply Kept.step (kept_failSlice _ _ _ _)
    | with_reducible apply Kept.step (kept_fedLocal _ _ _)
    | with_reducible refine Kept.foldl (fun _ _ => ?_) ?_
    | with_reducible (show Kept _ _ _; refine Kept.mk ?_)
    | split
    | dsimp only

theorem kept_work {m : Nat} {s t : State} (x : CmdM Unit) (hx : KeptM m x) (h : Kept m s t) : Kept m s (t.work x).1 := by
  have := hx { s := t }
  unfold State.work
  revert this
  split <;> (rename_i e; rw [e]; exact fun k => h.trans k)

theorem kept_noteStatus (s : State) (b idx status : Nat) : Kept 0x20 s (State.noteStatus s b idx status) := by
  unfold State.noteStatus
  repeat' first
    | decide
    | with_reducible exact Kept.refl _ _
    | with_reducible assumption
    | with_reducible refine Kept.ite ?_ ?_
    | with_reducible (show Kept _ _ (State.updBead _ _ _); first | apply Kept.step (kept_updBead _ _ _) | (refine Kept.of (kept_updBead _ _ _ ?hf) ?_; case hf => (intro _ h; (try dsimp only); first | exact h | exact Bead.wf_spUndefine _ _ _ _ h | exact Bead.wf_spWrite _ _ _ h | exact Bead.wf_accUndefine _ _ _ _ (Bead.wf_spUndefine _ _ _ _ h) | exact Bead.wf_accUndefine _ _ _ _ h | (unfold Bead.accPut; exact h) | (unfold Bead.spMark; exact h) | exact Bead.wf_foldl (fun _ _ h => h) h | exact Bead.wf_foldl (fun _ _ h => Bead.wf_accPut _ _ _ _ _ h) h | exact Bead.wf_accUndefine _ _ _ _ (Bead.wf_foldl (fun _ _ h => Bead.wf_spUndefine _ _ _ _ h) h) | (repeat' split <;> exact h))))
    | with_reducible (show Kept _ _ _; refine Kept.mk ?_)
    | split
    | dsimp only

theorem keptM_placeRows (c : Ctx) (u : Fused) (h : CollHdr) (rows : List Byte) (poison : List Bool) : KeptM 0x20060 (placeRows c u h rows poison) := by
  unfold placeRows
  repeat' first
    | decide
    | with_reducible exact KeptM.pure _
    | with_reducible exact KeptM.getS
    | with_reducible exact KeptM.get
    | with_reducible exact KeptM.throw _
    | with_reducible exact KeptM.notePoison _
    | with_reducible exact KeptM.liftE _
    | with_reducible refine KeptM.bind ?_ (fun _ => ?_)
    | with_reducible refine KeptM.ite ?_ ?_
    | with_reducible refine KeptM.forM (fun _ => ?_)
    | with_reducible refine KeptM.mapM (fun _ => ?_)
    | with_reducible refine KeptM.foldlM (fun _ _ => ?_) _
    | with_reducible refine KeptM.map ?_
    | with_reducible refine KeptM.modS (fun _ => ?_)
    | with_reducible apply KeptM.use (keptM_wrSeg _ _ _ _ _)
    | with_reducible exact Kept.refl _ _
    | with_reducible assumption
    | with_reducible (show Kept _ _ _; refine Kept.mk ?_)
    | split
    | dsimp only

theorem keptM_putCount (c : Ctx) (u : Fused) (n : Nat) : KeptM 0x20060 (putCount c u n) := by
  unfold putCount
  repeat' first
    | decide
    | with_reducible exact KeptM.pure _
    | with_reducible exact KeptM.getS
    | with_reducible exact KeptM.get
    | with_reducible exact KeptM.throw _
    | with_reducible exact KeptM.notePoison _
    | with_reducible exact KeptM.liftE _
    | with_reducible refine KeptM.bind ?_ (fun _ => ?_)
    | with_reducible refine KeptM.ite ?_ ?_
    | with_reducible refine KeptM.forM (fun _ => ?_)
    | with_reducible refine KeptM.mapM (fun _ => ?_)
    | with_reducible refine KeptM.foldlM (fun _ _ => ?_) _
    | with_reducible refine KeptM.map ?_
    | with_reducible refine KeptM.modS (fun _ => ?_)
    | with_reducible apply KeptM.use (keptM_wr _ _ _ _ _ _)
    | with_reducible exact Kept.refl _ _
    | with_reducible assumption
    | with_reducible (show Kept _ _ _; refine Kept.mk ?_)
    | split
    | dsimp only

theorem kept_takeRows (s : State) (c : Ctx) (i : Nat) (p : CollPart) (h : CollHdr) (rows : List Byte) (poison : List Bool) : Kept 0x20260 s (State.takeRows s c i p h rows poison) := by
  unfold State.takeRows
  repeat' first
    | decide
    | with_reducible exact Kept.refl _ _
    | with_reducible assumption
    | with_reducible refine Kept.ite ?_ ?_
    | with_reducible refine kept_work _ ?_ ?_
    | with_reducible apply KeptM.use (keptM_placeRows _ _ _ _ _)
    | with_reducible refine KeptM.ok_step (keptM_placeRows _ _ _ _ _) ‹_ = EStateM.Result.ok _ _› ?_
    | with_reducible refine KeptM.error_step (keptM_placeRows _ _ _ _ _) ‹_ = EStateM.Result.error _ _› ?_
    | with_reducible apply Kept.step (kept_updColl _ _ _)
    | with_reducible apply KeptM.use (keptM_putCount _ _ _)
    | with_reducible refine KeptM.ok_step (keptM_putCount _ _ _) ‹_ = EStateM.Result.ok _ _› ?_
    | with_reducible refine KeptM.error_step (keptM_putCount _ _ _) ‹_ = EStateM.Result.error _ _› ?_
    | with_reducible apply Kept.step (kept_noteStatus _ _ _ _)
    | with_reducible (show Kept _ _ _; refine Kept.mk ?_)
    | split
    | dsimp only

theorem kept_rxColl (s : State) (h : CollHdr) (rows : List Byte) (poison : List Bool) : Kept 0x21c0762fe2 s (State.rxColl s h rows poison).1 := by
  unfold State.rxColl
  repeat' first
    | decide
    | dsimp only
    | with_reducible exact Kept.refl _ _
    | with_reducible assumption
    | with_reducible refine Kept.ite ?_ ?_
    | with_reducible apply Kept.step (kept_failColl _ _ _ _)
    | with_reducible apply Kept.step (kept_takeRows _ _ _ _ _ _ _)
    | with_reducible (show Kept _ _ _; refine Kept.mk ?_)
    | split
    | dsimp only

theorem kept_takeEarly (s : State) (b seq : Nat) : Kept 0x21c0762fe2 s (State.takeEarly s b seq) := by
  unfold State.takeEarly
  repeat' first
    | decide
    | with_reducible exact Kept.refl _ _
    | with_reducible assumption
    | with_reducible refine Kept.ite ?_ ?_
    | with_reducible apply Kept.step (kept_rxColl _ _ _ _)
    | with_reducible refine Kept.fst_eq ‹_ = (_, _)› (Kept.of (kept_rxColl _ _ _ _) ?_)
    | with_reducible refine Kept.fst_eq3 ‹_ = (_, _, _)› (Kept.of (kept_rxColl _ _ _ _) ?_)
    | with_reducible refine Kept.foldl (fun _ _ => ?_) ?_
    | with_reducible (show Kept _ _ _; refine Kept.mk ?_)
    | split
    | dsimp only

theorem keptM_putReduced (c : Ctx) (u : Fused) (rs : List MtRecord) : KeptM 0x20060 (putReduced c u rs) := by
  unfold putReduced
  repeat' first
    | decide
    | with_reducible exact KeptM.pure _
    | with_reducible exact KeptM.getS
    | with_reducible exact KeptM.get
    | with_reducible exact KeptM.throw _
    | with_reducible exact KeptM.notePoison _
    | with_reducible exact KeptM.liftE _
    | with_reducible refine KeptM.bind ?_ (fun _ => ?_)
    | with_reducible refine KeptM.ite ?_ ?_
    | with_reducible refine KeptM.forM (fun _ => ?_)
    | with_reducible refine KeptM.mapM (fun _ => ?_)
    | with_reducible refine KeptM.foldlM (fun _ _ => ?_) _
    | with_reducible refine KeptM.map ?_
    | with_reducible refine KeptM.modS (fun _ => ?_)
    | with_reducible apply KeptM.use (keptM_putSeg _ _ _ _ _)
    | with_reducible exact Kept.refl _ _
    | with_reducible assumption
    | with_reducible (show Kept _ _ _; refine Kept.mk ?_)
    | split
    | dsimp only

theorem kept_rxReduce (s : State) (uid seq rank : Nat) (others : List MtStream) : Kept 0x20260 s (State.rxReduce s uid seq rank others) := by
  unfold State.rxReduce
  repeat' first
    | decide
    | with_reducible exact Kept.refl _ _
    | with_reducible assumption
    | with_reducible refine Kept.ite ?_ ?_
    | with_reducible refine kept_work _ ?_ ?_
    | with_reducible apply KeptM.use (keptM_putReduced _ _ _)
    | with_reducible refine KeptM.ok_step (keptM_putReduced _ _ _) ‹_ = EStateM.Result.ok _ _› ?_
    | with_reducible refine KeptM.error_step (keptM_putReduced _ _ _) ‹_ = EStateM.Result.error _ _› ?_
    | with_reducible apply Kept.step (kept_updColl _ _ _)
    | with_reducible apply Kept.step (kept_noteStatus _ _ _ _)
    | with_reducible (show Kept _ _ _; refine Kept.mk ?_)
    | split
    | dsimp only

theorem kept_closeColl (s : State) (size serial seq local' : Nat) : Kept 0x200 s (State.closeColl s size serial seq local') := by
  unfold State.closeColl
  repeat' first
    | decide
    | with_reducible exact Kept.refl _ _
    | with_reducible assumption
    | with_reducible refine Kept.ite ?_ ?_
    | with_reducible (show Kept _ _ _; refine Kept.mk ?_)
    | split
    | dsimp only

theorem kept_failPulls (s : State) (uid status : Nat) (ps : List MtPull) : Kept 0x21c0762fe2 s (State.failPulls s uid status ps) := by
  unfold State.failPulls
  repeat' first
    | decide
    | with_reducible exact Kept.refl _ _
    | with_reducible assumption
    | with_reducible refine Kept.ite ?_ ?_
    | with_reducible apply Kept.step (kept_leafRec _ _ _ _ _ _)
    | with_reducible apply Kept.step (kept_updSlice _ _ _)
    | with_reducible apply Kept.step (kept_failSlice _ _ _ _)
    | with_reducible apply Kept.step (kept_fedLocal _ _ _)
    | with_reducible refine Kept.foldl (fun _ _ => ?_) ?_
    | with_reducible (show Kept _ _ _; refine Kept.mk ?_)
    | split
    | dsimp only

theorem kept_rxMerge (s : State) (uid mseq rank : Nat) (others : List MtStream) : Kept 0x21c0762fe2 s (State.rxMerge s uid mseq rank others) := by
  unfold State.rxMerge
  repeat' first
    | decide
    | with_reducible exact Kept.refl _ _
    | with_reducible assumption
    | with_reducible refine Kept.ite ?_ ?_
    | with_reducible apply Kept.step (kept_failPulls _ _ _ _)
    | with_reducible apply KeptM.use (keptM_putPull _ _ _ _ _)
    | with_reducible refine KeptM.ok_step (keptM_putPull _ _ _ _ _) ‹_ = EStateM.Result.ok _ _› ?_
    | with_reducible refine KeptM.error_step (keptM_putPull _ _ _ _ _) ‹_ = EStateM.Result.error _ _› ?_
    | with_reducible apply Kept.step (kept_noteStatus _ _ _ _)
    | with_reducible apply Kept.step (kept_updMerge _ _ _)
    | with_reducible (show Kept _ _ _; refine Kept.mk ?_)
    | split
    | dsimp only

theorem kept_mtExpire (s : State) (uid mseq : Nat) : Kept 0x21c0762fe2 s (State.mtExpire s uid mseq) := by
  unfold State.mtExpire
  repeat' first
    | decide
    | with_reducible exact Kept.refl _ _
    | with_reducible assumption
    | with_reducible refine Kept.ite ?_ ?_
    | with_reducible apply Kept.step (kept_failPulls _ _ _ _)
    | with_reducible (show Kept _ _ _; refine Kept.mk ?_)
    | split
    | dsimp only

theorem kept_collExpire (s : State) (uid seq : Nat) : Kept 0x21c0762fe2 s (State.collExpire s uid seq) := by
  unfold State.collExpire
  repeat' first
    | decide
    | with_reducible exact Kept.refl _ _
    | with_reducible assumption
    | with_reducible refine Kept.ite ?_ ?_
    | with_reducible apply Kept.step (kept_failColl _ _ _ _)
    | with_reducible (show Kept _ _ _; refine Kept.mk ?_)
    | split
    | dsimp only

theorem kept_rxCollFail (s : State) (group epoch seq status : Nat) : Kept 0x21c0762fe2 s (State.rxCollFail s group epoch seq status) := by
  unfold State.rxCollFail
  repeat' first
    | decide
    | with_reducible exact Kept.refl _ _
    | with_reducible assumption
    | with_reducible refine Kept.ite ?_ ?_
    | with_reducible apply Kept.step (kept_failColl _ _ _ _)
    | with_reducible (show Kept _ _ _; refine Kept.mk ?_)
    | split
    | dsimp only

end Sys2Proof.Machine
end

