-- ==== Sys2Proof/Laws/Failure.lean ====
section
/-! SUPPORT. The failure of a slice: what it leaves of the slice, its leaves, its clasps and the other units. -/

set_option Elab.async false

namespace Sys2Proof.Machine

/-! ## Operations that change beads in their wakes alone, and leave error flags set -/

/-- Beads keep all but their wakes, and clasps keep a set error flag. -/
def Wakes (s t : State) : Prop :=
  (∀ b, ∃ k, t.bead b = { s.bead b with wake := k }) ∧ ∀ id, (s.clasp id).err = true → (t.clasp id).err = true

theorem Wakes.refl (s : State) : Wakes s s := ⟨fun _ => ⟨_, rfl⟩, fun _ h => h⟩

theorem Wakes.trans {s t u : State} (h : Wakes s t) (g : Wakes t u) : Wakes s u := by
  refine ⟨fun b => ?_, fun id e => g.2 id (h.2 id e)⟩
  obtain ⟨k, hk⟩ := h.1 b
  obtain ⟨j, hj⟩ := g.1 b
  exact ⟨j, by rw [hj, hk]⟩

theorem Wakes.foldl {α : Type} (l : List α) (f : State → α → State) (h : ∀ s a, Wakes s (f s a)) (s : State) : Wakes s (l.foldl f s) := by
  induction l generalizing s with
  | nil => exact Wakes.refl s
  | cons a t ih => exact (h s a).trans (ih _)

/-- Beads and clasps untouched. -/
theorem Wakes.of {s t : State} (hb : t.beads = s.beads) (hc : t.clasps = s.clasps) : Wakes s t :=
  ⟨fun b => ⟨(s.bead b).wake, by unfold State.bead; rw [hb]⟩, fun id e => by unfold State.clasp at *; rwa [hc]⟩

theorem wakes_completeWait (s : State) (id : Nat) (who : Waiter) (c : Nat) (e : Bool) : Wakes s (s.completeWait id who c e) := by
  refine ⟨fun b => ?_, fun i h => ?_⟩
  · rw [(completeWait_spec s id who c e).2.2 b]
    split
    · exact ⟨_, rfl⟩
    · exact ⟨_, rfl⟩
  · unfold State.clasp at *; rwa [(kept_completeWait ..).clasps_eq (by decide)]

theorem wakes_settle (s : State) (id : Nat) : Wakes s (s.settle id) := by
  have h := settle_takes s id
  refine ⟨fun b => ?_, fun i e => ?_⟩
  · rw [h.woken b]; split
    · exact ⟨_, rfl⟩
    · exact ⟨_, rfl⟩
  · by_cases c : i = id
    · subst c; rw [h.value.2]; exact e
    · rw [h.others i c]; exact e

theorem wakes_claspAdd (s : State) (id n : Nat) : Wakes s (s.claspAdd id n) := by
  refine ⟨fun b => ⟨_, by unfold State.bead; rw [(kept_claspAdd ..).beads_eq (by decide)]⟩, fun i e => ?_⟩
  obtain ⟨_, h2, _, h4⟩ := claspAdd_clasp s id n
  by_cases c : i = id
  · subst c; rw [h2, e]; rfl
  · rw [h4 i c]; exact e

theorem wakes_postWait (s : State) (who : Waiter) (id t : Nat) : Wakes s (s.postWait who id t) := by
  unfold State.postWait
  dsimp only
  split
  · exact wakes_completeWait ..
  · refine ⟨fun b => ⟨_, rfl⟩, fun i e => ?_⟩
    rw [updClasp_clasp]; split
    · rename_i c; subst c; exact e
    · exact e

theorem wakes_arriveCore (s : State) (who : Waiter) (id t : Nat) : Wakes s (s.arriveCore who id t) :=
  ((wakes_claspAdd ..).trans (wakes_settle ..)).trans (wakes_postWait ..)

theorem wakes_resumeStalled (s : State) : Wakes s s.resumeStalled := by
  unfold State.resumeStalled
  refine Wakes.foldl _ _ (fun s p => ?_) s
  dsimp only
  split
  · have h : Wakes s { s with stalledOps := s.stalledOps.erase p } := Wakes.of rfl rfl
    split
    · split
      · exact h.trans (wakes_postWait ..)
      · exact h.trans (wakes_arriveCore ..)
    · exact h
  · exact Wakes.refl s

theorem wakes_opFail (s : State) (id : Nat) : Wakes s (s.opFail id) := by
  refine Wakes.trans (Wakes.trans (t := s.updClasp id (fun c => { c with err := true })) ⟨fun b => ⟨_, rfl⟩, fun i e => ?_⟩ (wakes_settle ..)) (wakes_resumeStalled ..)
  rw [updClasp_clasp]; split
  · rfl
  · exact e

theorem opFail_err (s : State) (id : Nat) : ((s.opFail id).clasp id).err = true := by
  refine (wakes_resumeStalled _).2 id ((wakes_settle _ id).2 id ?_)
  rw [updClasp_clasp, if_pos rfl]

theorem opFails (ids : List Nat) (s : State) : Wakes s (ids.foldl State.opFail s) ∧ ∀ id, id ∈ ids → ((ids.foldl State.opFail s).clasp id).err = true := by
  induction ids generalizing s with
  | nil => exact ⟨Wakes.refl s, fun _ h => by cases h⟩
  | cons a t ih =>
    obtain ⟨h1, h2⟩ := ih (s.opFail a)
    refine ⟨(wakes_opFail s a).trans h1, fun id h => ?_⟩
    rcases List.mem_cons.1 h with rfl | h
    · exact h1.2 _ (opFail_err s _)
    · exact h2 id h

/-! ## Stopped leaves -/

/-- A stopped leaf. -/
def Stopped (x : Bead) : Prop := x.phase = .stopped ∧ x.window = [] ∧ x.held = none

theorem stopLeaf_bead (s : State) (b c : Nat) : (c = b → Stopped ((s.stopLeaf b).bead c)) ∧ (c ≠ b → (s.stopLeaf b).bead c = s.bead c) := by
  refine ⟨fun h => ?_, fun h => ?_⟩
  · subst h
    simp only [State.stopLeaf, updBead_bead, if_true]
    exact ⟨rfl, rfl, rfl⟩
  · simp only [State.stopLeaf, updBead_bead, if_neg h]
    show (s.withdrawBead b).bead c = _
    unfold State.withdrawBead
    rw [updBead_bead, if_neg h]; rfl

theorem stopLeaves (bs : List Nat) (s : State) : ∀ c, (c ∈ bs → Stopped ((bs.foldl State.stopLeaf s).bead c)) ∧
    (c ∉ bs → (bs.foldl State.stopLeaf s).bead c = s.bead c) ∧ (Stopped (s.bead c) → Stopped ((bs.foldl State.stopLeaf s).bead c)) := by
  induction bs generalizing s with
  | nil => exact fun c => ⟨fun h => (by cases h), fun _ => rfl, fun h => h⟩
  | cons a t ih =>
    intro c
    obtain ⟨h1, h2, h3⟩ := ih (s.stopLeaf a) c
    obtain ⟨g1, g2⟩ := stopLeaf_bead s a c
    refine ⟨fun h => ?_, fun h => ?_, fun h => ?_⟩
    · by_cases e : c = a
      · exact h3 (g1 e)
      · exact h1 ((List.mem_cons.1 h).resolve_left e)
    · simp only [List.mem_cons, not_or] at h
      rw [List.foldl_cons, h2 h.2, g2 h.1]
    · by_cases e : c = a
      · exact h3 (g1 e)
      · exact h3 (by rw [g2 e]; exact h)

theorem kept_foldl {α : Type} {m : Nat} (l : List α) (f : State → α → State) (h : ∀ s a, Kept m s (f s a)) (s : State) : Kept m s (l.foldl f s) := by
  induction l generalizing s with
  | nil => exact Kept.refl _ _
  | cons a t ih => exact (h s a).trans (ih _)

theorem failSlice_none {s : State} {uid : Nat} (h : (s.unitSt uid).slice = none) (o : Nat) (d : Option Nat) : s.failSlice uid o d = s := by
  unfold State.failSlice; rw [h]

/-- What follows the stopping of the leaves, up to the signals of the outgoing clasps. -/
theorem failSlice_fails {s : State} {uid : Nat} {sl : Slice} (h : (s.unitSt uid).slice = some sl) (o : Nat) (d : Option Nat) :
    SliceFails s (s.failSlice uid o d) uid sl := by
  have kf := (kept_failSlice s uid o d).sameBut failParts (by intro p; cases p <;> decide)
  have key : ∃ s2 s6 : State, ∃ r, s.failSlice uid o d = (if s.set.cur.s1 uid then s6 else sl.header.outClasps.foldl State.opFail s6) ∧
      (∀ c, (c ∈ sl.beads → Stopped (s2.bead c)) ∧ (c ∉ sl.beads → s2.bead c = s.bead c)) ∧ s6.beads = s2.beads ∧
      s6.units = mput s.units uid { s.unitSt uid with slice := none, slip := 0, replay := if s.set.cur.s1 uid then none else some r } ∧ r.header = sl.header := by
    unfold State.failSlice
    rw [h]
    dsimp only
    generalize h1 : s.tellColls uid sl ((sl.fault.map (·.status)).getD 0) = s1
    have k1 : Kept 0x2040300002 s s1 := h1 ▸ kept_tellColls ..
    generalize h2 : sl.beads.foldl State.stopLeaf s1 = s2
    have k2 : Kept 0x922 s1 s2 := h2 ▸ kept_foldl _ _ (fun s b => kept_stopLeaf s b) _
    have l2 := stopLeaves sl.beads s1
    rw [h2] at l2
    generalize h3 : sl.work.foldl (fun s r => s.memUndef r.1 r.2) s2 = s3
    have k3 : Kept 0x20002 s2 s3 := h3 ▸ kept_foldl _ _ (fun s r => kept_memUndef s _ _) _
    generalize h4 : sl.objs.foldl State.dropObj s3 = s4
    have k4 : Kept 0x40000 s3 s4 := h4 ▸ kept_foldl _ _ (fun s r => kept_dropObj s _) _
    generalize h5 : s4.discardOpen sl = s5
    have k5 : Kept 0x680 s4 s5 := h5 ▸ kept_discardOpen ..
    have hu : s5.units = s.units := by
      rw [k5.units_eq (by decide), k4.units_eq (by decide), k3.units_eq (by decide), k2.units_eq (by decide), k1.units_eq (by decide)]
    refine ⟨s2, _, { header := sl.header, batch := sl.batch.map (fun b => { b with stage := 0 }), dependsOn := d }, rfl, fun c => ⟨(l2 c).1, fun hc => ?_⟩, ?_, ?_, rfl⟩
    · rw [(l2 c).2.1 hc]; unfold State.bead; rw [k1.beads_eq (by decide)]
    · rw [(kept_writeCompl ..).beads_eq (by decide)]
      show s5.beads = _
      rw [k5.beads_eq (by decide), k4.beads_eq (by decide), k3.beads_eq (by decide)]
    · rw [(kept_writeCompl ..).units_eq (by decide)]
      show mput s5.units uid _ = _
      rw [hu]; rfl
  obtain ⟨s2, s6, r, he, hb, hs, hu, hr⟩ := key
  have hbeads : ∀ c, s6.bead c = s2.bead c := fun c => by unfold State.bead; rw [hs]
  have hw : Wakes s6 (s.failSlice uid o d) := by
    rw [he]; split
    · exact Wakes.refl _
    · exact (opFails _ _).1
  have hunits : (s.failSlice uid o d).units = s6.units := by
    rw [he]; split
    · rfl
    · exact (kept_foldl _ _ (fun s b => kept_opFail s b) _).units_eq (by decide)
  have hun : ∀ v, (s.failSlice uid o d).unitSt v = if v = uid then { s.unitSt uid with slice := none, slip := 0, replay := if s.set.cur.s1 uid then none else some r } else s.unitSt v := by
    intro v; unfold State.unitSt; rw [hunits, hu]; exact mget_mput ..
  refine ⟨by rw [hun, if_pos rfl], fun b hm => ?_, fun b hm => ?_, fun hn => ⟨r, ?_, hr⟩, fun hn id hi => ?_, fun v hv => by rw [hun, if_neg hv], kf⟩
  · obtain ⟨k, hk⟩ := hw.1 b
    have := (hb b).1 hm
    rw [← hbeads] at this
    rw [hk]; exact this
  · obtain ⟨k, hk⟩ := hw.1 b
    exact ⟨k, by rw [hk, hbeads, (hb b).2 hm]⟩
  · rw [hun, if_pos rfl, hn]; rfl
  · rw [he, hn]; exact (opFails _ _).2 id hi

/-- What a failure leaves survives operations that keep slices, beads but for their wakes, and error flags. -/
theorem SliceFails.then {s t u : State} {uid : Nat} {sl : Slice} (h : SliceFails s t uid sl) (w : Wakes t u) (f : SameBut failParts t u)
    (hs : ∀ v, (u.unitSt v).slice = (t.unitSt v).slice) (hr : (u.unitSt uid).replay = (t.unitSt uid).replay) : SliceFails s u uid sl := by
  refine ⟨by rw [hs]; exact h.gone, fun b hm => ?_, fun b hm => ?_, fun hn => by rw [hr]; exact h.replay hn,
    fun hn id hi => w.2 id (h.clasps hn id hi), fun v hv => by rw [hs]; exact h.units v hv, h.frame.trans f⟩
  · obtain ⟨k, hk⟩ := w.1 b; rw [hk]; exact h.leaves b hm
  · obtain ⟨k, hk⟩ := w.1 b; obtain ⟨j, hj⟩ := h.others b hm; exact ⟨k, by rw [hk, hj]⟩

/-- Before the failure: operations that keep slices but for their faults, beads but for their wakes, and the setting. -/
theorem SliceFails.before {s t u : State} {uid : Nat} {sl sl' : Slice} (w : Wakes s t) (f : SameBut failParts s t)
    (hb : sl'.beads = sl.beads) (hh : sl'.header = sl.header) (hs : ∀ v, v ≠ uid → (t.unitSt v).slice = (s.unitSt v).slice)
    (h : SliceFails t u uid sl') : SliceFails s u uid sl := by
  have hset : t.set = s.set := f .set (by decide)
  refine ⟨h.gone, fun b hm => h.leaves b (by rw [hb]; exact hm), fun b hm => ?_, fun hn => ?_, fun hn id hi => ?_, fun v hv => by rw [h.units v hv, hs v hv], f.trans h.frame⟩
  · obtain ⟨k, hk⟩ := h.others b (by rw [hb]; exact hm); obtain ⟨j, hj⟩ := w.1 b; exact ⟨k, by rw [hk, hj]⟩
  · obtain ⟨r, h1, h2⟩ := h.replay (by rw [hset]; exact hn); exact ⟨r, h1, by rw [h2, hh]⟩
  · exact h.clasps (by rw [hset]; exact hn) id (by rw [hh]; exact hi)

/-- The report of a part whose unit runs no slice keeps slices, beads and clasps. -/
theorem fedLocal_none (s : State) (uid status : Nat) (h : (s.unitSt uid).slice = none) :
    (s.fedLocal uid status).beads = s.beads ∧ (s.fedLocal uid status).clasps = s.clasps ∧
    (∀ v, ((s.fedLocal uid status).unitSt v).slice = (s.unitSt v).slice) ∧ (∀ v, ((s.fedLocal uid status).unitSt v).replay = (s.unitSt v).replay) := by
  unfold State.fedLocal
  split
  · exact ⟨rfl, rfl, fun _ => rfl, fun _ => rfl⟩
  · rename_i f hf
    have hl : f.localUid = uid := by
      unfold Setting.fedOf at hf
      simpa using List.find?_some hf
    split
    · unfold State.fedReport
      generalize hg : s.updFed f.fedUid _ = s1
      have k1 : Kept 0x100000 s s1 := hg ▸ kept_updFed ..
      have e1 : ∀ v, s1.unitSt v = s.unitSt v := fun v => by unfold State.unitSt; rw [k1.units_eq (by decide)]
      unfold State.fedDecide
      dsimp only
      split
      · exact ⟨k1.beads_eq (by decide), k1.clasps_eq (by decide), fun v => by rw [e1], fun v => by rw [e1]⟩
      · generalize hg2 : s1.updFed f.fedUid _ = s2
        have k2 : Kept 0x100000 s1 s2 := hg2 ▸ kept_updFed ..
        have upd : ∀ (t : State) (g : Slice → Slice), t.unitSt f.localUid = s.unitSt uid → (∀ v, t.unitSt v = s.unitSt v) →
            (∀ v, ((t.updSlice f.localUid g).unitSt v) = s.unitSt v) := by
          intro t g h1 h2 v
          unfold State.updSlice
          rw [updUnit_unitSt]
          split
          · rename_i e; subst e; rw [h1, h, hl]; cases hq : s.unitSt uid; simp_all
          · exact h2 v
        split
        · generalize hg3 : s2.tellFed f _ _ = s3
          have k3 : Kept 0x2040300002 s2 s3 := hg3 ▸ kept_tellFed ..
          have e3 : ∀ v, s3.unitSt v = s.unitSt v := fun v => by
            unfold State.unitSt; rw [k3.units_eq (by decide), k2.units_eq (by decide), k1.units_eq (by decide)]
          refine ⟨?_, ?_, fun v => ?_, fun v => ?_⟩
          · show s3.beads = _; rw [k3.beads_eq (by decide), k2.beads_eq (by decide), k1.beads_eq (by decide)]
          · show s3.clasps = _; rw [k3.clasps_eq (by decide), k2.clasps_eq (by decide), k1.clasps_eq (by decide)]
          · rw [upd s3 _ (by rw [e3, hl]) e3]
          · rw [upd s3 _ (by rw [e3, hl]) e3]
        · generalize hg3 : s2.tellFed f _ _ = s3
          have k3 : Kept 0x2040300002 s2 s3 := hg3 ▸ kept_tellFed ..
          have e3 : ∀ v, s3.unitSt v = s.unitSt v := fun v => by
            unfold State.unitSt; rw [k3.units_eq (by decide), k2.units_eq (by decide), k1.units_eq (by decide)]
          have e4 : ∀ v, (s3.noteLoose f.localUid (s1.fed f.fedUid).firstBad).unitSt v = s.unitSt v := upd s3 _ (by rw [e3, hl]) e3
          rw [failSlice_none (by rw [e4, hl, h])]
          refine ⟨?_, ?_, fun v => by rw [e4], fun v => by rw [e4]⟩
          · show s3.beads = _; rw [k3.beads_eq (by decide), k2.beads_eq (by decide), k1.beads_eq (by decide)]
          · show s3.clasps = _; rw [k3.clasps_eq (by decide), k2.clasps_eq (by decide), k1.clasps_eq (by decide)]
    · have k := kept_tell s (f.peerOf 0) 0x0023 [f.fedUid, (s.fed f.fedUid).epoch, status]
      exact ⟨k.beads_eq (by decide), k.clasps_eq (by decide), fun v => by unfold State.unitSt; rw [k.units_eq (by decide)],
        fun v => by unfold State.unitSt; rw [k.units_eq (by decide)]⟩

/-- A failure with its report to the federation. -/
theorem failFed_fails {s : State} {uid : Nat} {sl : Slice} (h : (s.unitSt uid).slice = some sl) (o : Nat) (d : Option Nat) (st : Nat) :
    SliceFails s ((s.failSlice uid o d).fedLocal uid st) uid sl := by
  have g := failSlice_fails h o d
  obtain ⟨h1, h2, h3, h4⟩ := fedLocal_none (s.failSlice uid o d) uid st g.gone
  exact g.then (Wakes.of h1 h2) ((kept_fedLocal ..).sameBut _ (by intro p; cases p <;> decide)) h3 (h4 uid)

/-- Noting a fault keeps what a failure needs. -/
theorem noteFault_slice (s : State) (uid : Nat) (f : SliceFault) {sl : Slice} (h : (s.unitSt uid).slice = some sl) :
    ((s.updSlice uid (·.noteFault f)).unitSt uid).slice = some (sl.noteFault f) ∧
    ∀ v, v ≠ uid → ((s.updSlice uid (·.noteFault f)).unitSt v).slice = (s.unitSt v).slice := by
  unfold State.updSlice
  refine ⟨by rw [updUnit_unitSt, if_pos rfl, h]; rfl, fun v hv => by rw [updUnit_unitSt, if_neg hv]⟩

/-- A leaf's fault fails its slice. -/
theorem failLeaf_fails {s : State} {uid : Nat} {sl : Slice} (h : (s.unitSt uid).slice = some sl) (b rank idx : Nat) (f : Flt) (o : Nat)
    (cov : Bool) (d : Option Nat) : SliceFails s (s.failLeaf b rank idx uid f o cov d) uid sl := by
  unfold State.failLeaf
  dsimp only
  generalize h1 : ((s.traceCmd b idx 0 3 f.status).traceFault b).leafRec b rank idx f cov = s1
  have k1 : Kept 0x20a0200000 s s1 := h1 ▸ (((kept_traceCmd ..).mono (by decide)).trans ((kept_traceFault ..).mono (by decide))).trans ((kept_leafRec ..).mono (by decide))
  have hu : ∀ v, s1.unitSt v = s.unitSt v := fun v => by unfold State.unitSt; rw [k1.units_eq (by decide)]
  obtain ⟨n1, n2⟩ := noteFault_slice s1 uid { status := f.status, rank, cmd := idx, reason := f.reason } (by rw [hu]; exact h)
  have k2 : Kept 0x20a0200040 s (s1.updSlice uid (·.noteFault { status := f.status, rank, cmd := idx, reason := f.reason })) :=
    (k1.mono (by decide)).trans ((kept_updSlice ..).mono (by decide))
  exact SliceFails.before (sl' := sl.noteFault { status := f.status, rank, cmd := idx, reason := f.reason }) (Wakes.of (k2.beads_eq (by decide)) (k2.clasps_eq (by decide))) (k2.sameBut _ (by intro p; cases p <;> decide))
    rfl rfl (fun v hv => by rw [n2 v hv, hu]) (failFed_fails n1 o d f.status)

end Sys2Proof.Machine
end

