-- ==== Sys2Proof/Laws/KeptBead.lean ====
section
/-! SUPPORT. What the operations of Machine/Bead.lean may touch. -/

set_option Elab.async false
set_option linter.unusedTactic false
set_option linter.unreachableTactic false

namespace Sys2Proof.Machine

theorem keptM_tdsetRun (c : Ctx) (w : CmdWord) : KeptM 0x20 (tdsetRun c w) := by
  unfold tdsetRun
  repeat' first
    | decide
    | with_reducible exact KeptM.pure _
    | with_reducible exact KeptM.getS
    | with_reducible exact KeptM.get
    | with_reducible exact KeptM.throw _
    | with_reducible exact KeptM.notePoison _
    | with_reducible exact KeptM.liftE _
    | with_reducible refine KeptM.bind ?_ (fun _ => ?_)
    | with_reducible refine KeptM.ite ?_ ?_
    | with_reducible refine KeptM.forM (fun _ => ?_)
    | with_reducible refine KeptM.mapM (fun _ => ?_)
    | with_reducible refine KeptM.foldlM (fun _ _ => ?_) _
    | with_reducible refine KeptM.map ?_
    | with_reducible refine KeptM.modS (fun _ => ?_)
    | with_reducible apply Kept.step (kept_putSp _ _ _ _)
    | with_reducible exact Kept.refl _ _
    | with_reducible assumption
    | with_reducible (show Kept _ _ _; refine Kept.mk ?_)
    | split
    | dsimp only

theorem keptM_effectOf (c : Ctx) (idx : Nat) (w : CmdWord) : KeptM 0x20000602e2 (effectOf c idx w) := by
  unfold effectOf
  repeat' first
    | decide
    | with_reducible exact KeptM.pure _
    | with_reducible exact KeptM.getS
    | with_reducible exact KeptM.get
    | with_reducible exact KeptM.throw _
    | with_reducible exact KeptM.notePoison _
    | with_reducible exact KeptM.liftE _
    | with_reducible refine KeptM.bind ?_ (fun _ => ?_)
    | with_reducible refine KeptM.ite ?_ ?_
    | with_reducible refine KeptM.forM (fun _ => ?_)
    | with_reducible refine KeptM.mapM (fun _ => ?_)
    | with_reducible refine KeptM.foldlM (fun _ _ => ?_) _
    | with_reducible refine KeptM.map ?_
    | with_reducible refine KeptM.modS (fun _ => ?_)
    | with_reducible (show Kept _ _ (State.updBead _ _ _); first | apply Kept.step (kept_updBead _ _ _) | (refine Kept.of (kept_updBead _ _ _ ?hf) ?_; case hf => (intro _ h; (try dsimp only); first | exact h | exact Bead.wf_spUndefine _ _ _ _ h | exact Bead.wf_spWrite _ _ _ h | exact Bead.wf_accUndefine _ _ _ _ (Bead.wf_spUndefine _ _ _ _ h) | exact Bead.wf_accUndefine _ _ _ _ h | (unfold Bead.accPut; exact h) | (unfold Bead.spMark; exact h) | exact Bead.wf_foldl (fun _ _ h => h) h | exact Bead.wf_foldl (fun _ _ h => Bead.wf_accPut _ _ _ _ _ h) h | exact Bead.wf_accUndefine _ _ _ _ (Bead.wf_foldl (fun _ _ h => Bead.wf_spUndefine _ _ _ _ h) h) | (repeat' split <;> exact h))))
    | with_reducible apply KeptM.use (keptM_tdsetRun _ _)
    | with_reducible apply KeptM.use (keptM_moveRun _ _)
    | with_reducible apply KeptM.use (keptM_computeTile _ _)
    | with_reducible apply KeptM.use (keptM_loupeRun _ _)
    | with_reducible apply KeptM.use (keptM_fuseRun _ _ _ _)
    | with_reducible apply KeptM.use (keptM_drainRun _ _)
    | with_reducible apply KeptM.use (keptM_spillRun _ _)
    | with_reducible apply KeptM.use (keptM_fillRun _ _)
    | with_reducible apply KeptM.use (keptM_vopRun _ _)
    | with_reducible apply KeptM.use (keptM_redRun _ _)
    | with_reducible apply KeptM.use (keptM_pushRun _ _)
    | with_reducible apply KeptM.use (keptM_pullRun _ _ _ _)
    | with_reducible apply KeptM.use (keptM_spillSlots _ _ _ _)
    | with_reducible apply KeptM.use (keptM_fillSlots _ _ _ _ _)
    | with_reducible exact Kept.refl _ _
    | with_reducible assumption
    | with_reducible (show Kept _ _ _; refine Kept.mk ?_)
    | split
    | dsimp only

theorem kept_beadSignal (s : State) (c : Ctx) (idx id n : Nat) : Kept 0x20c0722862 s (State.beadSignal s c idx id n) := by
  unfold State.beadSignal
  repeat' first
    | decide
    | with_reducible exact Kept.refl _ _
    | with_reducible assumption
    | with_reducible refine Kept.ite ?_ ?_
    | with_reducible apply Kept.step (kept_updSlice _ _ _)
    | with_reducible apply Kept.step (kept_opSignal _ _ _)
    | with_reducible (show Kept _ _ _; refine Kept.mk ?_)
    | split
    | dsimp only

theorem kept_settleS1 (s : State) (uid : Nat) (sl : Slice) : Kept 0x1000206e0 s (State.settleS1 s uid sl) := by
  unfold State.settleS1
  repeat' first
    | decide
    | with_reducible exact Kept.refl _ _
    | with_reducible assumption
    | with_reducible refine Kept.ite ?_ ?_
    | with_reducible apply Kept.step (kept_writeCompl _ _ _ _ _ _ _)
    | with_reducible (show Kept _ _ (State.updBead _ _ _); first | apply Kept.step (kept_updBead _ _ _) | (refine Kept.of (kept_updBead _ _ _ ?hf) ?_; case hf => (intro _ h; (try dsimp only); first | exact h | exact Bead.wf_spUndefine _ _ _ _ h | exact Bead.wf_spWrite _ _ _ h | exact Bead.wf_accUndefine _ _ _ _ (Bead.wf_spUndefine _ _ _ _ h) | exact Bead.wf_accUndefine _ _ _ _ h | (unfold Bead.accPut; exact h) | (unfold Bead.spMark; exact h) | exact Bead.wf_foldl (fun _ _ h => h) h | exact Bead.wf_foldl (fun _ _ h => Bead.wf_accPut _ _ _ _ _ h) h | exact Bead.wf_accUndefine _ _ _ _ (Bead.wf_foldl (fun _ _ h => Bead.wf_spUndefine _ _ _ _ h) h) | (repeat' split <;> exact h))))
    | with_reducible apply Kept.step (kept_discardOpen _ _)
    | with_reducible apply Kept.step (kept_updUnit _ _ _)
    | with_reducible refine Kept.foldl (fun _ _ => ?_) ?_
    | with_reducible (show Kept _ _ _; refine Kept.mk ?_)
    | split
    | dsimp only

theorem kept_leafEnd (s : State) (c : Ctx) : Kept 0x21c0762fe2 s (State.leafEnd s c) := by
  unfold State.leafEnd
  repeat' first
    | decide
    | with_reducible exact Kept.refl _ _
    | with_reducible assumption
    | with_reducible refine Kept.ite ?_ ?_
    | with_reducible (show Kept _ _ (State.updBead _ _ _); first | apply Kept.step (kept_updBead _ _ _) | (refine Kept.of (kept_updBead _ _ _ ?hf) ?_; case hf => (intro _ h; (try dsimp only); first | exact h | exact Bead.wf_spUndefine _ _ _ _ h | exact Bead.wf_spWrite _ _ _ h | exact Bead.wf_accUndefine _ _ _ _ (Bead.wf_spUndefine _ _ _ _ h) | exact Bead.wf_accUndefine _ _ _ _ h | (unfold Bead.accPut; exact h) | (unfold Bead.spMark; exact h) | exact Bead.wf_foldl (fun _ _ h => h) h | exact Bead.wf_foldl (fun _ _ h => Bead.wf_accPut _ _ _ _ _ h) h | exact Bead.wf_accUndefine _ _ _ _ (Bead.wf_foldl (fun _ _ h => Bead.wf_spUndefine _ _ _ _ h) h) | (repeat' split <;> exact h))))
    | with_reducible apply Kept.step (kept_updSlice _ _ _)
    | with_reducible apply Kept.step (kept_settleS1 _ _ _)
    | with_reducible apply Kept.step (kept_fedLocal _ _ _)
    | with_reducible (show Kept _ _ _; refine Kept.mk ?_)
    | split
    | dsimp only

theorem kept_finish (s : State) (c : Ctx) (f : InFlight) : Kept 0x21e0762fe2 s (State.finish s c f) := by
  unfold State.finish
  repeat' first
    | decide
    | with_reducible exact Kept.refl _ _
    | with_reducible assumption
    | with_reducible refine Kept.ite ?_ ?_
    | with_reducible apply Kept.step (kept_traceCmd _ _ _ _ _ _)
    | with_reducible apply Kept.step (kept_updSlice _ _ _)
    | with_reducible apply Kept.step (kept_beadSignal _ _ _ _ _)
    | with_reducible apply Kept.step (kept_leafEnd _ _)
    | with_reducible (show Kept _ _ _; refine Kept.mk ?_)
    | split
    | dsimp only

theorem kept_failCmd (s : State) (c : Ctx) (idx : Nat) (f : Flt) (dependsOn : Option Nat) : Kept 0x21e0762fe2 s (State.failCmd s c idx f dependsOn) := by
  unfold State.failCmd
  repeat' first
    | decide
    | with_reducible exact Kept.refl _ _
    | with_reducible assumption
    | with_reducible refine Kept.ite ?_ ?_
    | with_reducible apply Kept.step (kept_failLeaf _ _ _ _ _ _ _ _ _)
    | with_reducible (show Kept _ _ _; refine Kept.mk ?_)
    | split
    | dsimp only

theorem kept_hold (s : State) (c : Ctx) (idx : Nat) (w : CmdWord) (stage : HoldStage) : Kept 0x20 s (State.hold s c idx w stage) := by
  unfold State.hold
  repeat' first
    | decide
    | with_reducible exact Kept.refl _ _
    | with_reducible assumption
    | with_reducible refine Kept.ite ?_ ?_
    | with_reducible (show Kept _ _ (State.updBead _ _ _); first | apply Kept.step (kept_updBead _ _ _) | (refine Kept.of (kept_updBead _ _ _ ?hf) ?_; case hf => (intro _ h; (try dsimp only); first | exact h | exact Bead.wf_spUndefine _ _ _ _ h | exact Bead.wf_spWrite _ _ _ h | exact Bead.wf_accUndefine _ _ _ _ (Bead.wf_spUndefine _ _ _ _ h) | exact Bead.wf_accUndefine _ _ _ _ h | (unfold Bead.accPut; exact h) | (unfold Bead.spMark; exact h) | exact Bead.wf_foldl (fun _ _ h => h) h | exact Bead.wf_foldl (fun _ _ h => Bead.wf_accPut _ _ _ _ _ h) h | exact Bead.wf_accUndefine _ _ _ _ (Bead.wf_foldl (fun _ _ h => Bead.wf_spUndefine _ _ _ _ h) h) | (repeat' split <;> exact h))))
    | with_reducible (show Kept _ _ _; refine Kept.mk ?_)
    | split
    | dsimp only

theorem kept_afterFuse (s : State) (c : Ctx) (seq : Nat) : Kept 0x21c0762fe2 s (State.afterFuse s c seq) := by
  unfold State.afterFuse
  repeat' first
    | decide
    | with_reducible exact Kept.refl _ _
    | with_reducible assumption
    | with_reducible refine Kept.ite ?_ ?_
    | with_reducible apply Kept.step (kept_failColl _ _ _ _)
    | with_reducible apply Kept.step (kept_takeEarly _ _ _)
    | with_reducible (show Kept _ _ _; refine Kept.mk ?_)
    | split
    | dsimp only

theorem kept_enter (s : State) (c : Ctx) (f : InFlight) : Kept 0x20 s (State.enter s c f) := by
  unfold State.enter
  repeat' first
    | decide
    | with_reducible exact Kept.refl _ _
    | with_reducible assumption
    | with_reducible refine Kept.ite ?_ ?_
    | with_reducible (show Kept _ _ (State.updBead _ _ _); first | apply Kept.step (kept_updBead _ _ _) | (refine Kept.of (kept_updBead _ _ _ ?hf) ?_; case hf => (intro _ h; (try dsimp only); first | exact h | exact Bead.wf_spUndefine _ _ _ _ h | exact Bead.wf_spWrite _ _ _ h | exact Bead.wf_accUndefine _ _ _ _ (Bead.wf_spUndefine _ _ _ _ h) | exact Bead.wf_accUndefine _ _ _ _ h | (unfold Bead.accPut; exact h) | (unfold Bead.spMark; exact h) | exact Bead.wf_foldl (fun _ _ h => h) h | exact Bead.wf_foldl (fun _ _ h => Bead.wf_accPut _ _ _ _ _ h) h | exact Bead.wf_accUndefine _ _ _ _ (Bead.wf_foldl (fun _ _ h => Bead.wf_spUndefine _ _ _ _ h) h) | (repeat' split <;> exact h))))
    | with_reducible (show Kept _ _ _; refine Kept.mk ?_)
    | split
    | dsimp only

theorem kept_run (s : State) (c : Ctx) (idx : Nat) (w : CmdWord) : Kept 0x21e0762fe2 s (State.run s c idx w) := by
  unfold State.run
  repeat' first
    | decide
    | with_reducible exact Kept.refl _ _
    | with_reducible assumption
    | with_reducible refine Kept.ite ?_ ?_
    | with_reducible apply KeptM.use (keptM_effectOf _ _ _)
    | with_reducible refine KeptM.ok_step (keptM_effectOf _ _ _) ‹_ = EStateM.Result.ok _ _› ?_
    | with_reducible refine KeptM.error_step (keptM_effectOf _ _ _) ‹_ = EStateM.Result.error _ _› ?_
    | with_reducible apply Kept.step (kept_failCmd _ _ _ _ _)
    | with_reducible apply Kept.step (kept_enter _ _ _)
    | with_reducible apply Kept.step (kept_afterFuse _ _ _)
    | with_reducible (show Kept _ _ _; refine Kept.mk ?_)
    | split
    | dsimp only

theorem kept_issue (s : State) (c : Ctx) (idx : Nat) (w : CmdWord) : Kept 0x21e0762fe2 s (State.issue s c idx w) := by
  unfold State.issue
  repeat' first
    | decide
    | with_reducible exact Kept.refl _ _
    | with_reducible assumption
    | with_reducible refine Kept.ite ?_ ?_
    | with_reducible apply Kept.step (kept_traceCmd _ _ _ _ _ _)
    | with_reducible (show Kept _ _ (State.updBead _ _ _); first | apply Kept.step (kept_updBead _ _ _) | (refine Kept.of (kept_updBead _ _ _ ?hf) ?_; case hf => (intro _ h; (try dsimp only); first | exact h | exact Bead.wf_spUndefine _ _ _ _ h | exact Bead.wf_spWrite _ _ _ h | exact Bead.wf_accUndefine _ _ _ _ (Bead.wf_spUndefine _ _ _ _ h) | exact Bead.wf_accUndefine _ _ _ _ h | (unfold Bead.accPut; exact h) | (unfold Bead.spMark; exact h) | exact Bead.wf_foldl (fun _ _ h => h) h | exact Bead.wf_foldl (fun _ _ h => Bead.wf_accPut _ _ _ _ _ h) h | exact Bead.wf_accUndefine _ _ _ _ (Bead.wf_foldl (fun _ _ h => Bead.wf_spUndefine _ _ _ _ h) h) | (repeat' split <;> exact h))))
    | with_reducible apply Kept.step (kept_enter _ _ _)
    | with_reducible apply Kept.step (kept_finish _ _ _)
    | with_reducible apply Kept.step (kept_run _ _ _ _)
    | with_reducible (show Kept _ _ _; refine Kept.mk ?_)
    | split
    | dsimp only

theorem kept_runWaiting (n : Nat) (s : State) (c : Ctx) : Kept 0x21e0762fe2 s (State.runWaiting n s c) := by
  induction n generalizing s with
  | zero => exact Kept.refl _ _
  | succ n ih =>
    unfold State.runWaiting
    repeat' first
    | decide
      | with_reducible exact Kept.refl _ _
      | with_reducible assumption
      | with_reducible apply Kept.step (ih _)
      | with_reducible refine Kept.ite ?_ ?_
      | with_reducible apply Kept.step (kept_run _ _ _ _)
      | with_reducible (show Kept _ _ _; refine Kept.mk ?_)
      | split
      | dsimp only

theorem kept_runSignals (n : Nat) (s : State) (c : Ctx) : Kept 0x21e0762fe2 s (State.runSignals n s c) := by
  induction n generalizing s with
  | zero => exact Kept.refl _ _
  | succ n ih =>
    unfold State.runSignals
    repeat' first
    | decide
      | with_reducible exact Kept.refl _ _
      | with_reducible assumption
      | with_reducible apply Kept.step (ih _)
      | with_reducible refine Kept.ite ?_ ?_
      | with_reducible (show Kept _ _ (State.updBead _ _ _); first | apply Kept.step (kept_updBead _ _ _) | (refine Kept.of (kept_updBead _ _ _ ?hf) ?_; case hf => (intro _ h; (try dsimp only); first | exact h | exact Bead.wf_spUndefine _ _ _ _ h | exact Bead.wf_spWrite _ _ _ h | exact Bead.wf_accUndefine _ _ _ _ (Bead.wf_spUndefine _ _ _ _ h) | exact Bead.wf_accUndefine _ _ _ _ h | (unfold Bead.accPut; exact h) | (unfold Bead.spMark; exact h) | exact Bead.wf_foldl (fun _ _ h => h) h | exact Bead.wf_foldl (fun _ _ h => Bead.wf_accPut _ _ _ _ _ h) h | exact Bead.wf_accUndefine _ _ _ _ (Bead.wf_foldl (fun _ _ h => Bead.wf_spUndefine _ _ _ _ h) h) | (repeat' split <;> exact h))))
      | with_reducible apply Kept.step (kept_finish _ _ _)
      | with_reducible (show Kept _ _ _; refine Kept.mk ?_)
      | split
      | dsimp only

theorem kept_atTree (s : State) (c : Ctx) (idx : Nat) (w : CmdWord) : Kept 0x21e0762fe2 s (State.atTree s c idx w) := by
  unfold State.atTree
  repeat' first
    | decide
    | with_reducible exact Kept.refl _ _
    | with_reducible assumption
    | with_reducible refine Kept.ite ?_ ?_
    | with_reducible apply Kept.step (kept_issue _ _ _ _)
    | with_reducible apply Kept.step (kept_hold _ _ _ _ _)
    | with_reducible (show Kept _ _ _; refine Kept.mk ?_)
    | split
    | dsimp only

theorem kept_atPrescan (s : State) (c : Ctx) (idx : Nat) (w : CmdWord) : Kept 0x21e0762fe2 s (State.atPrescan s c idx w) := by
  unfold State.atPrescan
  repeat' first
    | decide
    | with_reducible exact Kept.refl _ _
    | with_reducible assumption
    | with_reducible refine Kept.ite ?_ ?_
    | with_reducible apply Kept.step (kept_hold _ _ _ _ _)
    | with_reducible apply Kept.step (kept_atTree _ _ _ _)
    | with_reducible (show Kept _ _ _; refine Kept.mk ?_)
    | split
    | dsimp only

theorem kept_atClasp (s : State) (c : Ctx) (idx : Nat) (w : CmdWord) : Kept 0x21e0762fe2 s (State.atClasp s c idx w) := by
  unfold State.atClasp
  repeat' first
    | decide
    | with_reducible exact Kept.refl _ _
    | with_reducible assumption
    | with_reducible refine Kept.ite ?_ ?_
    | with_reducible apply Kept.step (kept_atPrescan _ _ _ _)
    | with_reducible apply Kept.step (kept_issue _ _ _ _)
    | with_reducible apply Kept.step (kept_opReset _ _)
    | with_reducible apply Kept.step (kept_claspAdd _ _ _)
    | with_reducible apply Kept.step (kept_settle _ _)
    | with_reducible apply Kept.step (kept_resumeStalled _)
    | with_reducible apply Kept.step (kept_failCmd _ _ _ _ _)
    | with_reducible apply Kept.step (kept_traceCmd _ _ _ _ _ _)
    | with_reducible apply Kept.step (kept_postWait _ _ _ _)
    | with_reducible apply Kept.step (kept_hold _ _ _ _ _)
    | with_reducible (show Kept _ _ _; refine Kept.mk ?_)
    | split
    | dsimp only

theorem kept_atFence (s : State) (c : Ctx) (idx : Nat) (w : CmdWord) : Kept 0x21e0762fe2 s (State.atFence s c idx w) := by
  unfold State.atFence
  repeat' first
    | decide
    | with_reducible exact Kept.refl _ _
    | with_reducible assumption
    | with_reducible refine Kept.ite ?_ ?_
    | with_reducible apply Kept.step (kept_hold _ _ _ _ _)
    | with_reducible apply Kept.step (kept_atClasp _ _ _ _)
    | with_reducible (show Kept _ _ _; refine Kept.mk ?_)
    | split
    | dsimp only

theorem kept_atWait (s : State) (c : Ctx) (idx : Nat) (w : CmdWord) : Kept 0x21e0762fe2 s (State.atWait s c idx w) := by
  unfold State.atWait
  repeat' first
    | decide
    | with_reducible exact Kept.refl _ _
    | with_reducible assumption
    | with_reducible refine Kept.ite ?_ ?_
    | with_reducible apply Kept.step (kept_atFence _ _ _ _)
    | with_reducible apply Kept.step (kept_failCmd _ _ _ _ _)
    | with_reducible apply Kept.step (kept_traceCmd _ _ _ _ _ _)
    | with_reducible apply Kept.step (kept_postWait _ _ _ _)
    | with_reducible apply Kept.step (kept_hold _ _ _ _ _)
    | with_reducible (show Kept _ _ _; refine Kept.mk ?_)
    | split
    | dsimp only

theorem kept_decodeCmd (s : State) (c : Ctx) (idx : Nat) (w : CmdWord) : Kept 0x21e0762fe2 s (State.decodeCmd s c idx w) := by
  unfold State.decodeCmd
  repeat' first
    | decide
    | with_reducible exact Kept.refl _ _
    | with_reducible assumption
    | with_reducible refine Kept.ite ?_ ?_
    | with_reducible apply Kept.step (kept_traceCmd _ _ _ _ _ _)
    | with_reducible (show Kept _ _ (State.updBead _ _ _); first | apply Kept.step (kept_updBead _ _ _) | (refine Kept.of (kept_updBead _ _ _ ?hf) ?_; case hf => (intro _ h; (try dsimp only); first | exact h | exact Bead.wf_spUndefine _ _ _ _ h | exact Bead.wf_spWrite _ _ _ h | exact Bead.wf_accUndefine _ _ _ _ (Bead.wf_spUndefine _ _ _ _ h) | exact Bead.wf_accUndefine _ _ _ _ h | (unfold Bead.accPut; exact h) | (unfold Bead.spMark; exact h) | exact Bead.wf_foldl (fun _ _ h => h) h | exact Bead.wf_foldl (fun _ _ h => Bead.wf_accPut _ _ _ _ _ h) h | exact Bead.wf_accUndefine _ _ _ _ (Bead.wf_foldl (fun _ _ h => Bead.wf_spUndefine _ _ _ _ h) h) | (repeat' split <;> exact h))))
    | with_reducible apply Kept.step (kept_failCmd _ _ _ _ _)
    | with_reducible apply Kept.step (kept_mtReserve _ _ _)
    | with_reducible apply Kept.step (kept_atWait _ _ _ _)
    | with_reducible (show Kept _ _ _; refine Kept.mk ?_)
    | split
    | dsimp only

theorem kept_resumeMt (s : State) : Kept 0x21e0762fe2 s (State.resumeMt s) := by
  unfold State.resumeMt
  repeat' first
    | decide
    | with_reducible exact Kept.refl _ _
    | with_reducible assumption
    | with_reducible refine Kept.ite ?_ ?_
    | with_reducible apply Kept.step (kept_atTree _ _ _ _)
    | with_reducible refine Kept.foldl (fun _ _ => ?_) ?_
    | with_reducible (show Kept _ _ _; refine Kept.mk ?_)
    | split
    | dsimp only

theorem kept_beadCmd (s : State) (op : Nat) (b : Nat) (w : CmdWord) : Kept 0x21e0762fe2 s (State.beadCmd s op b w) := by
  unfold State.beadCmd
  repeat' first
    | decide
    | with_reducible exact Kept.refl _ _
    | with_reducible assumption
    | with_reducible refine Kept.ite ?_ ?_
    | with_reducible apply Kept.step (kept_decodeCmd _ _ _ _)
    | with_reducible apply Kept.step (kept_resumeMt _)
    | with_reducible (show Kept _ _ _; refine Kept.mk ?_)
    | split
    | dsimp only

theorem kept_complete (s : State) (b idx : Nat) : Kept 0x21e0762fe2 s (State.complete s b idx) := by
  unfold State.complete
  repeat' first
    | decide
    | with_reducible exact Kept.refl _ _
    | with_reducible assumption
    | with_reducible refine Kept.ite ?_ ?_
    | with_reducible apply Kept.step (kept_enter _ _ _)
    | with_reducible (show Kept _ _ (State.updBead _ _ _); first | apply Kept.step (kept_updBead _ _ _) | (refine Kept.of (kept_updBead _ _ _ ?hf) ?_; case hf => (intro _ h; (try dsimp only); first | exact h | exact Bead.wf_spUndefine _ _ _ _ h | exact Bead.wf_spWrite _ _ _ h | exact Bead.wf_accUndefine _ _ _ _ (Bead.wf_spUndefine _ _ _ _ h) | exact Bead.wf_accUndefine _ _ _ _ h | (unfold Bead.accPut; exact h) | (unfold Bead.spMark; exact h) | exact Bead.wf_foldl (fun _ _ h => h) h | exact Bead.wf_foldl (fun _ _ h => Bead.wf_accPut _ _ _ _ _ h) h | exact Bead.wf_accUndefine _ _ _ _ (Bead.wf_foldl (fun _ _ h => Bead.wf_spUndefine _ _ _ _ h) h) | (repeat' split <;> exact h))))
    | with_reducible apply Kept.step (kept_finish _ _ _)
    | with_reducible apply Kept.step (kept_closeColl _ _ _ _ _)
    | with_reducible apply Kept.step (kept_runWaiting _ _ _)
    | with_reducible apply Kept.step (kept_runSignals _ _ _)
    | with_reducible apply Kept.step (kept_atClasp _ _ _ _)
    | with_reducible apply Kept.step (kept_resumeMt _)
    | with_reducible (show Kept _ _ _; refine Kept.mk ?_)
    | split
    | dsimp only

theorem kept_prescanDone (s : State) (b : Nat) : Kept 0x21e0762fe2 s (State.prescanDone s b) := by
  unfold State.prescanDone
  repeat' first
    | decide
    | with_reducible exact Kept.refl _ _
    | with_reducible assumption
    | with_reducible refine Kept.ite ?_ ?_
    | with_reducible apply Kept.step (kept_atTree _ _ _ _)
    | with_reducible (show Kept _ _ _; refine Kept.mk ?_)
    | split
    | dsimp only

theorem kept_fetchLine (s : State) (b : Nat) : Kept 0x21e0762fe2 s (State.fetchLine s b) := by
  unfold State.fetchLine
  repeat' first
    | decide
    | with_reducible exact Kept.refl _ _
    | with_reducible assumption
    | with_reducible refine Kept.ite ?_ ?_
    | with_reducible apply Kept.step (kept_failCmd _ _ _ _ _)
    | with_reducible apply Kept.step (kept_meterMove _ _ _ _ _ _)
    | with_reducible apply Kept.step (kept_putSp _ _ _ _)
    | with_reducible (show Kept _ _ (State.updBead _ _ _); first | apply Kept.step (kept_updBead _ _ _) | (refine Kept.of (kept_updBead _ _ _ ?hf) ?_; case hf => (intro _ h; (try dsimp only); first | exact h | exact Bead.wf_spUndefine _ _ _ _ h | exact Bead.wf_spWrite _ _ _ h | exact Bead.wf_accUndefine _ _ _ _ (Bead.wf_spUndefine _ _ _ _ h) | exact Bead.wf_accUndefine _ _ _ _ h | (unfold Bead.accPut; exact h) | (unfold Bead.spMark; exact h) | exact Bead.wf_foldl (fun _ _ h => h) h | exact Bead.wf_foldl (fun _ _ h => Bead.wf_accPut _ _ _ _ _ h) h | exact Bead.wf_accUndefine _ _ _ _ (Bead.wf_foldl (fun _ _ h => Bead.wf_spUndefine _ _ _ _ h) h) | (repeat' split <;> exact h))))
    | with_reducible refine Kept.foldl (fun _ _ => ?_) ?_
    | with_reducible (show Kept _ _ _; refine Kept.mk ?_)
    | split
    | dsimp only

theorem kept_chainOver (s : State) (b : Nat) : Kept 0x21e0762fe2 s (State.chainOver s b) := by
  unfold State.chainOver
  repeat' first
    | decide
    | with_reducible exact Kept.refl _ _
    | with_reducible assumption
    | with_reducible refine Kept.ite ?_ ?_
    | with_reducible apply Kept.step (kept_failCmd _ _ _ _ _)
    | with_reducible (show Kept _ _ _; refine Kept.mk ?_)
    | split
    | dsimp only

theorem kept_acquire (s : State) (c : Ctx) (err : Bool) : Kept 0x21e0762fe2 s (State.acquire s c err) := by
  unfold State.acquire
  repeat' first
    | decide
    | with_reducible exact Kept.refl _ _
    | with_reducible assumption
    | with_reducible refine Kept.ite ?_ ?_
    | with_reducible (show Kept _ _ (State.updBead _ _ _); first | apply Kept.step (kept_updBead _ _ _) | (refine Kept.of (kept_updBead _ _ _ ?hf) ?_; case hf => (intro _ h; (try dsimp only); first | exact h | exact Bead.wf_spUndefine _ _ _ _ h | exact Bead.wf_spWrite _ _ _ h | exact Bead.wf_accUndefine _ _ _ _ (Bead.wf_spUndefine _ _ _ _ h) | exact Bead.wf_accUndefine _ _ _ _ h | (unfold Bead.accPut; exact h) | (unfold Bead.spMark; exact h) | exact Bead.wf_foldl (fun _ _ h => h) h | exact Bead.wf_foldl (fun _ _ h => Bead.wf_accPut _ _ _ _ _ h) h | exact Bead.wf_accUndefine _ _ _ _ (Bead.wf_foldl (fun _ _ h => Bead.wf_spUndefine _ _ _ _ h) h) | (repeat' split <;> exact h))))
    | with_reducible apply Kept.step (kept_fresh _)
    | with_reducible refine Kept.snd_eq ‹_ = (_, _)› (Kept.of (kept_fresh _) ?_)
    | with_reducible apply Kept.step (kept_failCmd _ _ _ _ _)
    | with_reducible (show Kept _ _ _; refine Kept.mk ?_)
    | split
    | dsimp only

theorem kept_wakeBead (s : State) (b : Nat) : Kept 0x21e0762fe2 s (State.wakeBead s b) := by
  unfold State.wakeBead
  repeat' first
    | decide
    | with_reducible exact Kept.refl _ _
    | with_reducible assumption
    | with_reducible refine Kept.ite ?_ ?_
    | with_reducible apply Kept.step (kept_acquire _ _ _)
    | with_reducible (show Kept _ _ (State.updBead _ _ _); first | apply Kept.step (kept_updBead _ _ _) | (refine Kept.of (kept_updBead _ _ _ ?hf) ?_; case hf => (intro _ h; (try dsimp only); first | exact h | exact Bead.wf_spUndefine _ _ _ _ h | exact Bead.wf_spWrite _ _ _ h | exact Bead.wf_accUndefine _ _ _ _ (Bead.wf_spUndefine _ _ _ _ h) | exact Bead.wf_accUndefine _ _ _ _ h | (unfold Bead.accPut; exact h) | (unfold Bead.spMark; exact h) | exact Bead.wf_foldl (fun _ _ h => h) h | exact Bead.wf_foldl (fun _ _ h => Bead.wf_accPut _ _ _ _ _ h) h | exact Bead.wf_accUndefine _ _ _ _ (Bead.wf_foldl (fun _ _ h => Bead.wf_spUndefine _ _ _ _ h) h) | (repeat' split <;> exact h))))
    | with_reducible apply Kept.step (kept_traceCmd _ _ _ _ _ _)
    | with_reducible apply Kept.step (kept_failCmd _ _ _ _ _)
    | with_reducible apply Kept.step (kept_atFence _ _ _ _)
    | with_reducible apply Kept.step (kept_issue _ _ _ _)
    | with_reducible (show Kept _ _ _; refine Kept.mk ?_)
    | split
    | dsimp only

theorem kept_waitExpire (s : State) (b : Nat) : Kept 0x21e0762fe2 s (State.waitExpire s b) := by
  unfold State.waitExpire
  repeat' first
    | decide
    | with_reducible exact Kept.refl _ _
    | with_reducible assumption
    | with_reducible refine Kept.ite ?_ ?_
    | with_reducible apply Kept.step (kept_failCmd _ _ _ _ _)
    | with_reducible (show Kept _ _ _; refine Kept.mk ?_)
    | split
    | dsimp only

theorem kept_overrun (s : State) (uid rank cycles : Nat) : Kept 0x2080200040 s (State.overrun s uid rank cycles) := by
  unfold State.overrun
  repeat' first
    | decide
    | with_reducible exact Kept.refl _ _
    | with_reducible assumption
    | with_reducible refine Kept.ite ?_ ?_
    | with_reducible apply Kept.step (kept_updSlice _ _ _)
    | with_reducible apply Kept.step (kept_raiseU _ _ _ _ _ _ _)
    | with_reducible (show Kept _ _ _; refine Kept.mk ?_)
    | split
    | dsimp only

theorem kept_preemptSave (s : State) (b : Nat) : Kept 0x21e0762fe2 s (State.preemptSave s b) := by
  unfold State.preemptSave
  repeat' first
    | decide
    | with_reducible exact Kept.refl _ _
    | with_reducible assumption
    | with_reducible refine Kept.ite ?_ ?_
    | with_reducible apply Kept.step (kept_failCmd _ _ _ _ _)
    | with_reducible refine kept_work _ ?_ ?_
    | with_reducible apply KeptM.use (keptM_spillSlots _ _ _ _)
    | with_reducible refine KeptM.ok_step (keptM_spillSlots _ _ _ _) ‹_ = EStateM.Result.ok _ _› ?_
    | with_reducible refine KeptM.error_step (keptM_spillSlots _ _ _ _) ‹_ = EStateM.Result.error _ _› ?_
    | with_reducible (show Kept _ _ (State.updBead _ _ _); first | apply Kept.step (kept_updBead _ _ _) | (refine Kept.of (kept_updBead _ _ _ ?hf) ?_; case hf => (intro _ h; (try dsimp only); first | exact h | exact Bead.wf_spUndefine _ _ _ _ h | exact Bead.wf_spWrite _ _ _ h | exact Bead.wf_accUndefine _ _ _ _ (Bead.wf_spUndefine _ _ _ _ h) | exact Bead.wf_accUndefine _ _ _ _ h | (unfold Bead.accPut; exact h) | (unfold Bead.spMark; exact h) | exact Bead.wf_foldl (fun _ _ h => h) h | exact Bead.wf_foldl (fun _ _ h => Bead.wf_accPut _ _ _ _ _ h) h | exact Bead.wf_accUndefine _ _ _ _ (Bead.wf_foldl (fun _ _ h => Bead.wf_spUndefine _ _ _ _ h) h) | (repeat' split <;> exact h))))
    | with_reducible apply Kept.step (kept_raiseU _ _ _ _ _ _ _)
    | with_reducible (show Kept _ _ _; refine Kept.mk ?_)
    | split
    | dsimp only

theorem kept_preemptBack (s : State) (b : Nat) : Kept 0x20020 s (State.preemptBack s b) := by
  unfold State.preemptBack
  repeat' first
    | decide
    | with_reducible exact Kept.refl _ _
    | with_reducible assumption
    | with_reducible refine Kept.ite ?_ ?_
    | with_reducible refine kept_work _ ?_ ?_
    | with_reducible apply KeptM.use (keptM_fillSlots _ _ _ _ _)
    | with_reducible refine KeptM.ok_step (keptM_fillSlots _ _ _ _ _) ‹_ = EStateM.Result.ok _ _› ?_
    | with_reducible refine KeptM.error_step (keptM_fillSlots _ _ _ _ _) ‹_ = EStateM.Result.error _ _› ?_
    | with_reducible (show Kept _ _ (State.updBead _ _ _); first | apply Kept.step (kept_updBead _ _ _) | (refine Kept.of (kept_updBead _ _ _ ?hf) ?_; case hf => (intro _ h; (try dsimp only); first | exact h | exact Bead.wf_spUndefine _ _ _ _ h | exact Bead.wf_spWrite _ _ _ h | exact Bead.wf_accUndefine _ _ _ _ (Bead.wf_spUndefine _ _ _ _ h) | exact Bead.wf_accUndefine _ _ _ _ h | (unfold Bead.accPut; exact h) | (unfold Bead.spMark; exact h) | exact Bead.wf_foldl (fun _ _ h => h) h | exact Bead.wf_foldl (fun _ _ h => Bead.wf_accPut _ _ _ _ _ h) h | exact Bead.wf_accUndefine _ _ _ _ (Bead.wf_foldl (fun _ _ h => Bead.wf_spUndefine _ _ _ _ h) h) | (repeat' split <;> exact h))))
    | with_reducible (show Kept _ _ _; refine Kept.mk ?_)
    | split
    | dsimp only

theorem kept_execNop (b : BeadId) (w : CmdWord) (s : State) : ∀ t', execNop b w s = .next t' → Kept 0x21e0762fe2 s t' := by
  intro t2 h
  unfold execNop at h
  refine kept_unlessDown h (fun t2 h => ?_)
  injection h with h; subst h
  repeat' first
    | decide
    | with_reducible exact Kept.refl _ _
    | with_reducible assumption
    | with_reducible refine Kept.ite ?_ ?_
    | with_reducible apply Kept.step (kept_beadCmd _ _ _ _)
    | with_reducible (show Kept _ _ _; refine Kept.mk ?_)
    | split
    | dsimp only

theorem kept_execEndChain (b : BeadId) (w : CmdWord) (t : Nat) (s : State) : ∀ t', execEndChain b w t s = .next t' → Kept 0x21e0762fe3 s t' := by
  intro t2 h
  unfold execEndChain at h
  refine kept_unlessDown h (fun t2 h => ?_)
  injection h with h; subst h
  repeat' first
    | decide
    | with_reducible exact Kept.refl _ _
    | with_reducible assumption
    | with_reducible refine Kept.ite ?_ ?_
    | with_reducible apply Kept.step (kept_at _ _)
    | with_reducible apply Kept.step (kept_beadCmd _ _ _ _)
    | with_reducible (show Kept _ _ _; refine Kept.mk ?_)
    | split
    | dsimp only

theorem kept_execFence (b : BeadId) (w : CmdWord) (s : State) : ∀ t', execFence b w s = .next t' → Kept 0x21e0762fe2 s t' := by
  intro t2 h
  unfold execFence at h
  refine kept_unlessDown h (fun t2 h => ?_)
  injection h with h; subst h
  repeat' first
    | decide
    | with_reducible exact Kept.refl _ _
    | with_reducible assumption
    | with_reducible refine Kept.ite ?_ ?_
    | with_reducible apply Kept.step (kept_beadCmd _ _ _ _)
    | with_reducible (show Kept _ _ _; refine Kept.mk ?_)
    | split
    | dsimp only

theorem kept_execTdset (b : BeadId) (w : CmdWord) (s : State) : ∀ t', execTdset b w s = .next t' → Kept 0x21e0762fe2 s t' := by
  intro t2 h
  unfold execTdset at h
  refine kept_unlessDown h (fun t2 h => ?_)
  injection h with h; subst h
  repeat' first
    | decide
    | with_reducible exact Kept.refl _ _
    | with_reducible assumption
    | with_reducible refine Kept.ite ?_ ?_
    | with_reducible apply Kept.step (kept_beadCmd _ _ _ _)
    | with_reducible (show Kept _ _ _; refine Kept.mk ?_)
    | split
    | dsimp only

theorem kept_execLoad (b : BeadId) (w : CmdWord) (s : State) : ∀ t', execLoad b w s = .next t' → Kept 0x21e0762fe2 s t' := by
  intro t2 h
  unfold execLoad at h
  refine kept_unlessDown h (fun t2 h => ?_)
  injection h with h; subst h
  repeat' first
    | decide
    | with_reducible exact Kept.refl _ _
    | with_reducible assumption
    | with_reducible refine Kept.ite ?_ ?_
    | with_reducible apply Kept.step (kept_beadCmd _ _ _ _)
    | with_reducible (show Kept _ _ _; refine Kept.mk ?_)
    | split
    | dsimp only

theorem kept_execStore (b : BeadId) (w : CmdWord) (s : State) : ∀ t', execStore b w s = .next t' → Kept 0x21e0762fe2 s t' := by
  intro t2 h
  unfold execStore at h
  refine kept_unlessDown h (fun t2 h => ?_)
  injection h with h; subst h
  repeat' first
    | decide
    | with_reducible exact Kept.refl _ _
    | with_reducible assumption
    | with_reducible refine Kept.ite ?_ ?_
    | with_reducible apply Kept.step (kept_beadCmd _ _ _ _)
    | with_reducible (show Kept _ _ _; refine Kept.mk ?_)
    | split
    | dsimp only

theorem kept_execCopy (b : BeadId) (w : CmdWord) (s : State) : ∀ t', execCopy b w s = .next t' → Kept 0x21e0762fe2 s t' := by
  intro t2 h
  unfold execCopy at h
  refine kept_unlessDown h (fun t2 h => ?_)
  injection h with h; subst h
  repeat' first
    | decide
    | with_reducible exact Kept.refl _ _
    | with_reducible assumption
    | with_reducible refine Kept.ite ?_ ?_
    | with_reducible apply Kept.step (kept_beadCmd _ _ _ _)
    | with_reducible (show Kept _ _ _; refine Kept.mk ?_)
    | split
    | dsimp only

theorem kept_execMma (b : BeadId) (w : CmdWord) (s : State) : ∀ t', execMma b w s = .next t' → Kept 0x21e0762fe2 s t' := by
  intro t2 h
  unfold execMma at h
  refine kept_unlessDown h (fun t2 h => ?_)
  injection h with h; subst h
  repeat' first
    | decide
    | with_reducible exact Kept.refl _ _
    | with_reducible assumption
    | with_reducible refine Kept.ite ?_ ?_
    | with_reducible apply Kept.step (kept_beadCmd _ _ _ _)
    | with_reducible (show Kept _ _ _; refine Kept.mk ?_)
    | split
    | dsimp only

theorem kept_execConv (b : BeadId) (w : CmdWord) (s : State) : ∀ t', execConv b w s = .next t' → Kept 0x21e0762fe2 s t' := by
  intro t2 h
  unfold execConv at h
  refine kept_unlessDown h (fun t2 h => ?_)
  injection h with h; subst h
  repeat' first
    | decide
    | with_reducible exact Kept.refl _ _
    | with_reducible assumption
    | with_reducible refine Kept.ite ?_ ?_
    | with_reducible apply Kept.step (kept_beadCmd _ _ _ _)
    | with_reducible (show Kept _ _ _; refine Kept.mk ?_)
    | split
    | dsimp only

theorem kept_execLoupe (b : BeadId) (w : CmdWord) (s : State) : ∀ t', execLoupe b w s = .next t' → Kept 0x21e0762fe2 s t' := by
  intro t2 h
  unfold execLoupe at h
  refine kept_unlessDown h (fun t2 h => ?_)
  injection h with h; subst h
  repeat' first
    | decide
    | with_reducible exact Kept.refl _ _
    | with_reducible assumption
    | with_reducible refine Kept.ite ?_ ?_
    | with_reducible apply Kept.step (kept_beadCmd _ _ _ _)
    | with_reducible (show Kept _ _ _; refine Kept.mk ?_)
    | split
    | dsimp only

theorem kept_execXmma (b : BeadId) (w : CmdWord) (s : State) : ∀ t', execXmma b w s = .next t' → Kept 0x21e0762fe2 s t' := by
  intro t2 h
  unfold execXmma at h
  refine kept_unlessDown h (fun t2 h => ?_)
  injection h with h; subst h
  repeat' first
    | decide
    | with_reducible exact Kept.refl _ _
    | with_reducible assumption
    | with_reducible refine Kept.ite ?_ ?_
    | with_reducible apply Kept.step (kept_beadCmd _ _ _ _)
    | with_reducible (show Kept _ _ _; refine Kept.mk ?_)
    | split
    | dsimp only

theorem kept_execDrain (b : BeadId) (w : CmdWord) (s : State) : ∀ t', execDrain b w s = .next t' → Kept 0x21e0762fe2 s t' := by
  intro t2 h
  unfold execDrain at h
  refine kept_unlessDown h (fun t2 h => ?_)
  injection h with h; subst h
  repeat' first
    | decide
    | with_reducible exact Kept.refl _ _
    | with_reducible assumption
    | with_reducible refine Kept.ite ?_ ?_
    | with_reducible apply Kept.step (kept_beadCmd _ _ _ _)
    | with_reducible (show Kept _ _ _; refine Kept.mk ?_)
    | split
    | dsimp only

theorem kept_execSpill (b : BeadId) (w : CmdWord) (s : State) : ∀ t', execSpill b w s = .next t' → Kept 0x21e0762fe2 s t' := by
  intro t2 h
  unfold execSpill at h
  refine kept_unlessDown h (fun t2 h => ?_)
  injection h with h; subst h
  repeat' first
    | decide
    | with_reducible exact Kept.refl _ _
    | with_reducible assumption
    | with_reducible refine Kept.ite ?_ ?_
    | with_reducible apply Kept.step (kept_beadCmd _ _ _ _)
    | with_reducible (show Kept _ _ _; refine Kept.mk ?_)
    | split
    | dsimp only

theorem kept_execFill (b : BeadId) (w : CmdWord) (s : State) : ∀ t', execFill b w s = .next t' → Kept 0x21e0762fe2 s t' := by
  intro t2 h
  unfold execFill at h
  refine kept_unlessDown h (fun t2 h => ?_)
  injection h with h; subst h
  repeat' first
    | decide
    | with_reducible exact Kept.refl _ _
    | with_reducible assumption
    | with_reducible refine Kept.ite ?_ ?_
    | with_reducible apply Kept.step (kept_beadCmd _ _ _ _)
    | with_reducible (show Kept _ _ _; refine Kept.mk ?_)
    | split
    | dsimp only

theorem kept_execXdrain (b : BeadId) (w : CmdWord) (s : State) : ∀ t', execXdrain b w s = .next t' → Kept 0x21e0762fe2 s t' := by
  intro t2 h
  unfold execXdrain at h
  refine kept_unlessDown h (fun t2 h => ?_)
  injection h with h; subst h
  repeat' first
    | decide
    | with_reducible exact Kept.refl _ _
    | with_reducible assumption
    | with_reducible refine Kept.ite ?_ ?_
    | with_reducible apply Kept.step (kept_beadCmd _ _ _ _)
    | with_reducible (show Kept _ _ _; refine Kept.mk ?_)
    | split
    | dsimp only

theorem kept_execVop (b : BeadId) (w : CmdWord) (s : State) : ∀ t', execVop b w s = .next t' → Kept 0x21e0762fe2 s t' := by
  intro t2 h
  unfold execVop at h
  refine kept_unlessDown h (fun t2 h => ?_)
  injection h with h; subst h
  repeat' first
    | decide
    | with_reducible exact Kept.refl _ _
    | with_reducible assumption
    | with_reducible refine Kept.ite ?_ ?_
    | with_reducible apply Kept.step (kept_beadCmd _ _ _ _)
    | with_reducible (show Kept _ _ _; refine Kept.mk ?_)
    | split
    | dsimp only

theorem kept_execRed (b : BeadId) (w : CmdWord) (s : State) : ∀ t', execRed b w s = .next t' → Kept 0x21e0762fe2 s t' := by
  intro t2 h
  unfold execRed at h
  refine kept_unlessDown h (fun t2 h => ?_)
  injection h with h; subst h
  repeat' first
    | decide
    | with_reducible exact Kept.refl _ _
    | with_reducible assumption
    | with_reducible refine Kept.ite ?_ ?_
    | with_reducible apply Kept.step (kept_beadCmd _ _ _ _)
    | with_reducible (show Kept _ _ _; refine Kept.mk ?_)
    | split
    | dsimp only

theorem kept_execMtpush (b : BeadId) (w : CmdWord) (s : State) : ∀ t', execMtpush b w s = .next t' → Kept 0x21e0762fe2 s t' := by
  intro t2 h
  unfold execMtpush at h
  refine kept_unlessDown h (fun t2 h => ?_)
  injection h with h; subst h
  repeat' first
    | decide
    | with_reducible exact Kept.refl _ _
    | with_reducible assumption
    | with_reducible refine Kept.ite ?_ ?_
    | with_reducible apply Kept.step (kept_beadCmd _ _ _ _)
    | with_reducible (show Kept _ _ _; refine Kept.mk ?_)
    | split
    | dsimp only

theorem kept_execMtpull (b : BeadId) (w : CmdWord) (s : State) : ∀ t', execMtpull b w s = .next t' → Kept 0x21e0762fe2 s t' := by
  intro t2 h
  unfold execMtpull at h
  refine kept_unlessDown h (fun t2 h => ?_)
  injection h with h; subst h
  repeat' first
    | decide
    | with_reducible exact Kept.refl _ _
    | with_reducible assumption
    | with_reducible refine Kept.ite ?_ ?_
    | with_reducible apply Kept.step (kept_beadCmd _ _ _ _)
    | with_reducible (show Kept _ _ _; refine Kept.mk ?_)
    | split
    | dsimp only

theorem kept_execClasp (b : BeadId) (w : CmdWord) (s : State) : ∀ t', execClasp b w s = .next t' → Kept 0x21e0762fe2 s t' := by
  intro t2 h
  unfold execClasp at h
  refine kept_unlessDown h (fun t2 h => ?_)
  injection h with h; subst h
  repeat' first
    | decide
    | with_reducible exact Kept.refl _ _
    | with_reducible assumption
    | with_reducible refine Kept.ite ?_ ?_
    | with_reducible apply Kept.step (kept_beadCmd _ _ _ _)
    | with_reducible (show Kept _ _ _; refine Kept.mk ?_)
    | split
    | dsimp only

theorem kept_execSave (b : BeadId) (w : CmdWord) (s : State) : ∀ t', execSave b w s = .next t' → Kept 0x21e0762fe2 s t' := by
  intro t2 h
  unfold execSave at h
  refine kept_unlessDown h (fun t2 h => ?_)
  injection h with h; subst h
  repeat' first
    | decide
    | with_reducible exact Kept.refl _ _
    | with_reducible assumption
    | with_reducible refine Kept.ite ?_ ?_
    | with_reducible apply Kept.step (kept_beadCmd _ _ _ _)
    | with_reducible (show Kept _ _ _; refine Kept.mk ?_)
    | split
    | dsimp only

theorem kept_execRestore (b : BeadId) (w : CmdWord) (s : State) : ∀ t', execRestore b w s = .next t' → Kept 0x21e0762fe2 s t' := by
  intro t2 h
  unfold execRestore at h
  refine kept_unlessDown h (fun t2 h => ?_)
  injection h with h; subst h
  repeat' first
    | decide
    | with_reducible exact Kept.refl _ _
    | with_reducible assumption
    | with_reducible refine Kept.ite ?_ ?_
    | with_reducible apply Kept.step (kept_beadCmd _ _ _ _)
    | with_reducible (show Kept _ _ _; refine Kept.mk ?_)
    | split
    | dsimp only

theorem kept_execDbgrd (b : BeadId) (w : CmdWord) (s : State) : ∀ t', execDbgrd b w s = .next t' → Kept 0x21e0762fe2 s t' := by
  intro t2 h
  unfold execDbgrd at h
  refine kept_unlessDown h (fun t2 h => ?_)
  injection h with h; subst h
  repeat' first
    | decide
    | with_reducible exact Kept.refl _ _
    | with_reducible assumption
    | with_reducible refine Kept.ite ?_ ?_
    | with_reducible apply Kept.step (kept_beadCmd _ _ _ _)
    | with_reducible (show Kept _ _ _; refine Kept.mk ?_)
    | split
    | dsimp only

theorem kept_execDbgwr (b : BeadId) (w : CmdWord) (s : State) : ∀ t', execDbgwr b w s = .next t' → Kept 0x21e0762fe2 s t' := by
  intro t2 h
  unfold execDbgwr at h
  refine kept_unlessDown h (fun t2 h => ?_)
  injection h with h; subst h
  repeat' first
    | decide
    | with_reducible exact Kept.refl _ _
    | with_reducible assumption
    | with_reducible refine Kept.ite ?_ ?_
    | with_reducible apply Kept.step (kept_beadCmd _ _ _ _)
    | with_reducible (show Kept _ _ _; refine Kept.mk ?_)
    | split
    | dsimp only

theorem kept_execCommandComplete (b : BeadId) (idx : Nat) (s : State) : ∀ t', execCommandComplete b idx s = .next t' → Kept 0x21e0762fe2 s t' := by
  intro t2 h
  unfold execCommandComplete at h
  refine kept_unlessDown h (fun t2 h => ?_)
  injection h with h; subst h
  repeat' first
    | decide
    | with_reducible exact Kept.refl _ _
    | with_reducible assumption
    | with_reducible refine Kept.ite ?_ ?_
    | with_reducible apply Kept.step (kept_complete _ _ _)
    | with_reducible (show Kept _ _ _; refine Kept.mk ?_)
    | split
    | dsimp only

theorem kept_execPrescanEnd (b : BeadId) (s : State) : ∀ t', execPrescanEnd b s = .next t' → Kept 0x21e0762fe2 s t' := by
  intro t2 h
  unfold execPrescanEnd at h
  refine kept_unlessDown h (fun t2 h => ?_)
  injection h with h; subst h
  repeat' first
    | decide
    | with_reducible exact Kept.refl _ _
    | with_reducible assumption
    | with_reducible refine Kept.ite ?_ ?_
    | with_reducible apply Kept.step (kept_prescanDone _ _)
    | with_reducible (show Kept _ _ _; refine Kept.mk ?_)
    | split
    | dsimp only

theorem kept_execChainFetch (b : BeadId) (s : State) : ∀ t', execChainFetch b s = .next t' → Kept 0x21e0762fe2 s t' := by
  intro t2 h
  unfold execChainFetch at h
  refine kept_unlessDown h (fun t2 h => ?_)
  injection h with h; subst h
  repeat' first
    | decide
    | with_reducible exact Kept.refl _ _
    | with_reducible assumption
    | with_reducible refine Kept.ite ?_ ?_
    | with_reducible apply Kept.step (kept_fetchLine _ _)
    | with_reducible apply Kept.step (kept_resumeMt _)
    | with_reducible (show Kept _ _ _; refine Kept.mk ?_)
    | split
    | dsimp only

theorem kept_execChainOverrun (b : BeadId) (s : State) : ∀ t', execChainOverrun b s = .next t' → Kept 0x21e0762fe2 s t' := by
  intro t2 h
  unfold execChainOverrun at h
  refine kept_unlessDown h (fun t2 h => ?_)
  injection h with h; subst h
  repeat' first
    | decide
    | with_reducible exact Kept.refl _ _
    | with_reducible assumption
    | with_reducible refine Kept.ite ?_ ?_
    | with_reducible apply Kept.step (kept_chainOver _ _)
    | with_reducible apply Kept.step (kept_resumeMt _)
    | with_reducible (show Kept _ _ _; refine Kept.mk ?_)
    | split
    | dsimp only

theorem kept_execClaspWake (b : BeadId) (t : Nat) (s : State) : ∀ t', execClaspWake b t s = .next t' → Kept 0x21e0762fe3 s t' := by
  intro t2 h
  unfold execClaspWake at h
  refine kept_unlessDown h (fun t2 h => ?_)
  injection h with h; subst h
  repeat' first
    | decide
    | with_reducible exact Kept.refl _ _
    | with_reducible assumption
    | with_reducible refine Kept.ite ?_ ?_
    | with_reducible apply Kept.step (kept_at _ _)
    | with_reducible apply Kept.step (kept_wakeBead _ _)
    | with_reducible apply Kept.step (kept_resumeMt _)
    | with_reducible (show Kept _ _ _; refine Kept.mk ?_)
    | split
    | dsimp only

theorem kept_execClpTimeout (b : BeadId) (s : State) : ∀ t', execClpTimeout b s = .next t' → Kept 0x21e0762fe2 s t' := by
  intro t2 h
  unfold execClpTimeout at h
  refine kept_unlessDown h (fun t2 h => ?_)
  injection h with h; subst h
  repeat' first
    | decide
    | with_reducible exact Kept.refl _ _
    | with_reducible assumption
    | with_reducible refine Kept.ite ?_ ?_
    | with_reducible apply Kept.step (kept_waitExpire _ _)
    | with_reducible apply Kept.step (kept_resumeMt _)
    | with_reducible (show Kept _ _ _; refine Kept.mk ?_)
    | split
    | dsimp only

theorem kept_execSliceOverrun (uid rank cycles : Nat) (s : State) : ∀ t', execSliceOverrun uid rank cycles s = .next t' → Kept 0x2080200040 s t' := by
  intro t2 h
  unfold execSliceOverrun at h
  refine kept_unlessDown h (fun t2 h => ?_)
  injection h with h; subst h
  repeat' first
    | decide
    | with_reducible exact Kept.refl _ _
    | with_reducible assumption
    | with_reducible refine Kept.ite ?_ ?_
    | with_reducible apply Kept.step (kept_overrun _ _ _ _)
    | with_reducible (show Kept _ _ _; refine Kept.mk ?_)
    | split
    | dsimp only

theorem kept_execPreempted (b : BeadId) (s : State) : ∀ t', execPreempted b s = .next t' → Kept 0x21e0762fe2 s t' := by
  intro t2 h
  unfold execPreempted at h
  refine kept_unlessDown h (fun t2 h => ?_)
  injection h with h; subst h
  repeat' first
    | decide
    | with_reducible exact Kept.refl _ _
    | with_reducible assumption
    | with_reducible refine Kept.ite ?_ ?_
    | with_reducible apply Kept.step (kept_preemptSave _ _)
    | with_reducible (show Kept _ _ _; refine Kept.mk ?_)
    | split
    | dsimp only

theorem kept_execCollTimeout (uid seq : Nat) (s : State) : ∀ t', execCollTimeout uid seq s = .next t' → Kept 0x21e0762fe2 s t' := by
  intro t2 h
  unfold execCollTimeout at h
  refine kept_unlessDown h (fun t2 h => ?_)
  injection h with h; subst h
  repeat' first
    | decide
    | with_reducible exact Kept.refl _ _
    | with_reducible assumption
    | with_reducible refine Kept.ite ?_ ?_
    | with_reducible apply Kept.step (kept_collExpire _ _ _)
    | with_reducible apply Kept.step (kept_resumeMt _)
    | with_reducible (show Kept _ _ _; refine Kept.mk ?_)
    | split
    | dsimp only

theorem kept_execMtTimeout (uid mseq : Nat) (s : State) : ∀ t', execMtTimeout uid mseq s = .next t' → Kept 0x21e0762fe2 s t' := by
  intro t2 h
  unfold execMtTimeout at h
  refine kept_unlessDown h (fun t2 h => ?_)
  injection h with h; subst h
  repeat' first
    | decide
    | with_reducible exact Kept.refl _ _
    | with_reducible assumption
    | with_reducible refine Kept.ite ?_ ?_
    | with_reducible apply Kept.step (kept_mtExpire _ _ _)
    | with_reducible apply Kept.step (kept_resumeMt _)
    | with_reducible (show Kept _ _ _; refine Kept.mk ?_)
    | split
    | dsimp only

theorem kept_execCollFail (_peer group epoch seq status : Nat) (s : State) : ∀ t', execCollFail _peer group epoch seq status s = .next t' → Kept 0x21e0762fe2 s t' := by
  intro t2 h
  unfold execCollFail at h
  refine kept_unlessDown h (fun t2 h => ?_)
  injection h with h; subst h
  repeat' first
    | decide
    | with_reducible exact Kept.refl _ _
    | with_reducible assumption
    | with_reducible refine Kept.ite ?_ ?_
    | with_reducible apply Kept.step (kept_rxCollFail _ _ _ _ _)
    | with_reducible apply Kept.step (kept_resumeMt _)
    | with_reducible (show Kept _ _ _; refine Kept.mk ?_)
    | split
    | dsimp only

end Sys2Proof.Machine
end

