-- ==== Sys2Proof/Laws/KeptSession.lean ====
section
/-! SUPPORT. What the operations of Machine/Session.lean may touch. -/

set_option Elab.async false
set_option linter.unusedTactic false
set_option linter.unreachableTactic false

namespace Sys2Proof.Machine

theorem kept_objWrite (s : State) (h off : Nat) (bs : List Byte) : Kept 0x20000 s (State.objWrite s h off bs) := by
  unfold State.objWrite
  repeat' first
    | decide
    | with_reducible exact Kept.refl _ _
    | with_reducible assumption
    | with_reducible refine Kept.ite ?_ ?_
    | with_reducible apply Kept.step (kept_memWrite _ _ _)
    | with_reducible refine Kept.foldl (fun _ _ => ?_) ?_
    | with_reducible (show Kept _ _ _; refine Kept.mk ?_)
    | split
    | dsimp only

theorem kept_objMark (s : State) (h n pois : Nat) : Kept 0x20000 s (State.objMark s h n pois) := by
  unfold State.objMark
  repeat' first
    | decide
    | with_reducible exact Kept.refl _ _
    | with_reducible assumption
    | with_reducible refine Kept.ite ?_ ?_
    | with_reducible apply Kept.step (kept_memMark _ _ _)
    | with_reducible refine Kept.foldl (fun _ _ => ?_) ?_
    | with_reducible (show Kept _ _ _; refine Kept.mk ?_)
    | split
    | dsimp only

theorem kept_putReply (s : State) (w : Nat) (r : Reply) : Kept 0x2000600000 s (State.putReply s w r) := by
  unfold State.putReply
  repeat' first
    | decide
    | with_reducible exact Kept.refl _ _
    | with_reducible assumption
    | with_reducible refine Kept.ite ?_ ?_
    | with_reducible apply Kept.step (kept_emit _ _)
    | with_reducible apply Kept.step (kept_updWin _ _ _)
    | with_reducible apply Kept.step (kept_msix _ _ _)
    | with_reducible (show Kept _ _ _; refine Kept.mk ?_)
    | split
    | dsimp only

theorem kept_pumpF (n : Nat) (s : State) (w : Nat) : Kept 0x2100600000 s (State.pumpF n s w) := by
  induction n generalizing s with
  | zero => exact Kept.refl _ _
  | succ n ih =>
    unfold State.pumpF
    repeat' first
    | decide
      | with_reducible exact Kept.refl _ _
      | with_reducible assumption
      | with_reducible apply Kept.step (ih _)
      | with_reducible refine Kept.ite ?_ ?_
      | with_reducible apply Kept.step (kept_updWin _ _ _)
      | with_reducible apply Kept.step (kept_putReply _ _ _)
      | with_reducible apply Kept.step (kept_count _ _)
      | with_reducible (show Kept _ _ _; refine Kept.mk ?_)
      | split
      | dsimp only

theorem kept_pump (s : State) (w : Nat) : Kept 0x2100600000 s (State.pump s w) := by
  unfold State.pump
  repeat' first
    | decide
    | with_reducible exact Kept.refl _ _
    | with_reducible assumption
    | with_reducible refine Kept.ite ?_ ?_
    | with_reducible apply Kept.step (kept_pumpF _ _ _)
    | with_reducible (show Kept _ _ _; refine Kept.mk ?_)
    | split
    | dsimp only

theorem kept_reply (s : State) (to' : ReplyTo) (m : SesMsg) : Kept 0x2140700002 s (State.reply s to' m) := by
  unfold State.reply
  repeat' first
    | decide
    | with_reducible exact Kept.refl _ _
    | with_reducible assumption
    | with_reducible refine Kept.ite ?_ ?_
    | with_reducible apply Kept.step (kept_netSend _ _ _ _ _)
    | with_reducible apply Kept.step (kept_count _ _)
    | with_reducible apply Kept.step (kept_updWin _ _ _)
    | with_reducible apply Kept.step (kept_pump _ _)
    | with_reducible (show Kept _ _ _; refine Kept.mk ?_)
    | split
    | dsimp only

theorem kept_refuse (s : State) (src : MsgFrom) (m : SesMsg) (status : Nat) : Kept 0x2140700002 s (State.refuse s src m status) := by
  unfold State.refuse
  repeat' first
    | decide
    | with_reducible exact Kept.refl _ _
    | with_reducible assumption
    | with_reducible refine Kept.ite ?_ ?_
    | with_reducible apply Kept.step (kept_reply _ _ _)
    | with_reducible (show Kept _ _ _; refine Kept.mk ?_)
    | split
    | dsimp only

theorem kept_updSes (s : State) (i : Nat) (f : Session → Session) : Kept 0x4000 s (State.updSes s i f) := by
  unfold State.updSes
  repeat' first
    | decide
    | with_reducible exact Kept.refl _ _
    | with_reducible assumption
    | with_reducible refine Kept.ite ?_ ?_
    | with_reducible (show Kept _ _ _; refine Kept.mk ?_)
    | split
    | dsimp only

theorem kept_reserveSes (s : State) (v : ServiceRec) : Kept 0x8000 s ((State.reserveSes s v).getD s) := by
  unfold State.reserveSes
  repeat' first
    | decide
    | with_reducible exact Kept.refl _ _
    | with_reducible rw [Option.getD_some]
    | with_reducible rw [Option.getD_none]
    | dsimp only
    | with_reducible exact Kept.refl _ _
    | with_reducible assumption
    | with_reducible refine Kept.ite ?_ ?_
    | with_reducible (show Kept _ _ _; refine Kept.mk ?_)
    | split
    | dsimp only

theorem kept_returnSes (s : State) (svc : Nat) : Kept 0x8000 s (State.returnSes s svc) := by
  unfold State.returnSes
  repeat' first
    | decide
    | with_reducible exact Kept.refl _ _
    | with_reducible assumption
    | with_reducible refine Kept.ite ?_ ?_
    | with_reducible (show Kept _ _ _; refine Kept.mk ?_)
    | split
    | dsimp only

theorem kept_quotaFor (s : State) (v : ServiceRec) : Kept 0x18000 s ((State.quotaFor s v).getD s) := by
  unfold State.quotaFor
  repeat' first
    | decide
    | with_reducible exact Kept.refl _ _
    | with_reducible rw [Option.getD_some]
    | with_reducible rw [Option.getD_none]
    | with_reducible exact Kept.mono (kept_reserveSes _ _) (by decide)
    | dsimp only
    | with_reducible exact Kept.refl _ _
    | with_reducible assumption
    | with_reducible refine Kept.ite ?_ ?_
    | with_reducible refine Kept.some_eq ‹_ = some _› (Kept.of (kept_reserveSes _ _) ?_)
    | with_reducible (show Kept _ _ _; refine Kept.mk ?_)
    | split
    | dsimp only

theorem kept_openAt (s : State) (i : Nat) (v : ServiceRec) (c : Client) (user : Nat) : Kept 0x4000 s (State.openAt s i v c user) := by
  unfold State.openAt
  repeat' first
    | decide
    | with_reducible exact Kept.refl _ _
    | with_reducible assumption
    | with_reducible refine Kept.ite ?_ ?_
    | with_reducible apply Kept.step (kept_updSes _ _ _)
    | with_reducible (show Kept _ _ _; refine Kept.mk ?_)
    | split
    | dsimp only

theorem kept_doOpen (s : State) (src : MsgFrom) (m : SesMsg) (hub : Nat) : Kept 0x214071c002 s (State.doOpen s src m hub) := by
  unfold State.doOpen
  repeat' first
    | decide
    | with_reducible exact Kept.refl _ _
    | with_reducible assumption
    | with_reducible refine Kept.ite ?_ ?_
    | with_reducible apply Kept.step (kept_refuse _ _ _ _)
    | with_reducible refine Kept.some_eq ‹_ = some _› (Kept.of (kept_quotaFor _ _) ?_)
    | with_reducible apply Kept.step (kept_returnSes _ _)
    | with_reducible apply Kept.step (kept_openAt _ _ _ _ _)
    | with_reducible apply Kept.step (kept_reply _ _ _)
    | with_reducible (show Kept _ _ _; refine Kept.mk ?_)
    | split
    | dsimp only

theorem kept_abortLane (s : State) (i : Nat) : Kept 0x40 s (State.abortLane s i) := by
  unfold State.abortLane
  repeat' first
    | decide
    | with_reducible exact Kept.refl _ _
    | with_reducible assumption
    | with_reducible refine Kept.ite ?_ ?_
    | with_reducible (show Kept _ _ _; refine Kept.mk ?_)
    | split
    | dsimp only

theorem kept_closeNow (s : State) (i status tag : Nat) : Kept 0x214074c002 s (State.closeNow s i status tag) := by
  unfold State.closeNow
  repeat' first
    | decide
    | with_reducible exact Kept.refl _ _
    | with_reducible assumption
    | with_reducible refine Kept.ite ?_ ?_
    | with_reducible apply Kept.step (kept_reply _ _ _)
    | with_reducible apply Kept.step (kept_dropObj _ _)
    | with_reducible apply Kept.step (kept_updSes _ _ _)
    | with_reducible apply Kept.step (kept_returnSes _ _)
    | with_reducible refine Kept.foldl (fun _ _ => ?_) ?_
    | with_reducible (show Kept _ _ _; refine Kept.mk ?_)
    | split
    | dsimp only

theorem kept_closeSes (s : State) (i status tag : Nat) : Kept 0x214074c042 s (State.closeSes s i status tag) := by
  unfold State.closeSes
  repeat' first
    | decide
    | with_reducible exact Kept.refl _ _
    | with_reducible assumption
    | with_reducible refine Kept.ite ?_ ?_
    | with_reducible apply Kept.step (kept_closeNow _ _ _ _)
    | with_reducible apply Kept.step (kept_updSes _ _ _)
    | with_reducible apply Kept.step (kept_abortLane _ _)
    | with_reducible apply Kept.step (kept_reply _ _ _)
    | with_reducible (show Kept _ _ _; refine Kept.mk ?_)
    | split
    | dsimp only

theorem kept_doRequest (s : State) (src : MsgFrom) (m : SesMsg) (t : Nat) : Kept 0x2140764002 s (State.doRequest s src m t) := by
  unfold State.doRequest
  repeat' first
    | decide
    | with_reducible exact Kept.refl _ _
    | with_reducible assumption
    | with_reducible refine Kept.ite ?_ ?_
    | with_reducible apply Kept.step (kept_refuse _ _ _ _)
    | with_reducible apply Kept.step (kept_allocate _ _ _ _ _)
    | with_reducible refine Kept.fst_eq ‹_ = (_, _)› (Kept.of (kept_allocate _ _ _ _ _) ?_)
    | with_reducible refine Kept.fst_eq3 ‹_ = (_, _, _)› (Kept.of (kept_allocate _ _ _ _ _) ?_)
    | with_reducible apply Kept.step (kept_objWrite _ _ _ _)
    | with_reducible apply Kept.step (kept_objMark _ _ _ _)
    | with_reducible apply Kept.step (kept_updSes _ _ _)
    | with_reducible (show Kept _ _ _; refine Kept.mk ?_)
    | split
    | dsimp only

theorem kept_doAbort (s : State) (src : MsgFrom) (m : SesMsg) : Kept 0x2140744042 s (State.doAbort s src m) := by
  unfold State.doAbort
  repeat' first
    | decide
    | with_reducible exact Kept.refl _ _
    | with_reducible assumption
    | with_reducible refine Kept.ite ?_ ?_
    | with_reducible apply Kept.step (kept_reply _ _ _)
    | with_reducible apply Kept.step (kept_refuse _ _ _ _)
    | with_reducible apply Kept.step (kept_dropObj _ _)
    | with_reducible apply Kept.step (kept_updSes _ _ _)
    | with_reducible apply Kept.step (kept_abortLane _ _)
    | with_reducible (show Kept _ _ _; refine Kept.mk ?_)
    | split
    | dsimp only

theorem kept_doClose (s : State) (src : MsgFrom) (m : SesMsg) : Kept 0x214074c042 s (State.doClose s src m) := by
  unfold State.doClose
  repeat' first
    | decide
    | with_reducible exact Kept.refl _ _
    | with_reducible assumption
    | with_reducible refine Kept.ite ?_ ?_
    | with_reducible apply Kept.step (kept_refuse _ _ _ _)
    | with_reducible apply Kept.step (kept_closeSes _ _ _ _)
    | with_reducible (show Kept _ _ _; refine Kept.mk ?_)
    | split
    | dsimp only

theorem kept_idleSes (s : State) (i t : Nat) : Kept 0x214074c002 s (State.idleSes s i t) := by
  unfold State.idleSes
  repeat' first
    | decide
    | with_reducible exact Kept.refl _ _
    | with_reducible assumption
    | with_reducible refine Kept.ite ?_ ?_
    | with_reducible apply Kept.step (kept_closeNow _ _ _ _)
    | with_reducible (show Kept _ _ _; refine Kept.mk ?_)
    | split
    | dsimp only

theorem kept_sesMessage (s : State) (src : MsgFrom) (m : SesMsg) (hub t : Nat) : Kept 0x214077c042 s (State.sesMessage s src m hub t) := by
  unfold State.sesMessage
  repeat' first
    | decide
    | with_reducible exact Kept.refl _ _
    | with_reducible assumption
    | with_reducible refine Kept.ite ?_ ?_
    | with_reducible apply Kept.step (kept_doOpen _ _ _ _)
    | with_reducible apply Kept.step (kept_doRequest _ _ _ _)
    | with_reducible apply Kept.step (kept_doAbort _ _ _)
    | with_reducible apply Kept.step (kept_doClose _ _ _)
    | with_reducible apply Kept.step (kept_refuse _ _ _ _)
    | with_reducible (show Kept _ _ _; refine Kept.mk ?_)
    | split
    | dsimp only

theorem kept_submit (s : State) (w : Nat) (hd : Nat) (m : SesMsg) (respAddr respMax : Nat) : Kept 0x2140700042 s (State.submit s w hd m respAddr respMax) := by
  unfold State.submit
  repeat' first
    | decide
    | with_reducible exact Kept.refl _ _
    | with_reducible assumption
    | with_reducible refine Kept.ite ?_ ?_
    | with_reducible apply Kept.step (kept_updUnit _ _ _)
    | with_reducible apply Kept.step (kept_refuse _ _ _ _)
    | with_reducible (show Kept _ _ _; refine Kept.mk ?_)
    | split
    | dsimp only

theorem kept_consume (s : State) (w k t : Nat) : Kept 0x214077c042 s (State.consume s w k t) := by
  unfold State.consume
  repeat' first
    | decide
    | with_reducible exact Kept.refl _ _
    | with_reducible assumption
    | with_reducible refine Kept.ite ?_ ?_
    | with_reducible apply Kept.step (kept_submit _ _ _ _ _ _)
    | with_reducible apply Kept.step (kept_refuse _ _ _ _)
    | with_reducible apply Kept.step (kept_sesMessage _ _ _ _ _)
    | with_reducible (show Kept _ _ _; refine Kept.mk ?_)
    | split
    | dsimp only

theorem kept_drainSqF (n : Nat) (s : State) (w t : Nat) : Kept 0x214077c042 s (State.drainSqF n s w t) := by
  induction n generalizing s with
  | zero => exact Kept.refl _ _
  | succ n ih =>
    unfold State.drainSqF
    repeat' first
    | decide
      | with_reducible exact Kept.refl _ _
      | with_reducible assumption
      | with_reducible apply Kept.step (ih _)
      | with_reducible refine Kept.ite ?_ ?_
      | with_reducible apply Kept.step (kept_updWin _ _ _)
      | with_reducible apply Kept.step (kept_consume _ _ _ _)
      | with_reducible (show Kept _ _ _; refine Kept.mk ?_)
      | split
      | dsimp only

theorem kept_drainSq (s : State) (w : Nat) : Kept 0x214077c042 s (State.drainSq s w) := by
  unfold State.drainSq
  repeat' first
    | decide
    | with_reducible exact Kept.refl _ _
    | with_reducible assumption
    | with_reducible refine Kept.ite ?_ ?_
    | with_reducible apply Kept.step (kept_drainSqF _ _ _ _)
    | with_reducible (show Kept _ _ _; refine Kept.mk ?_)
    | split
    | dsimp only

theorem kept_sqTail (s : State) (w x : Nat) : Kept 0x214077c042 s (State.sqTail s w x) := by
  unfold State.sqTail
  repeat' first
    | decide
    | with_reducible exact Kept.refl _ _
    | with_reducible assumption
    | with_reducible refine Kept.ite ?_ ?_
    | with_reducible apply Kept.step (kept_count _ _)
    | with_reducible apply Kept.step (kept_updWin _ _ _)
    | with_reducible apply Kept.step (kept_drainSq _ _)
    | with_reducible (show Kept _ _ _; refine Kept.mk ?_)
    | split
    | dsimp only

theorem kept_cqHead (s : State) (w x : Nat) : Kept 0x214077c042 s (State.cqHead s w x) := by
  unfold State.cqHead
  repeat' first
    | decide
    | with_reducible exact Kept.refl _ _
    | with_reducible assumption
    | with_reducible refine Kept.ite ?_ ?_
    | with_reducible apply Kept.step (kept_updWin _ _ _)
    | with_reducible apply Kept.step (kept_pump _ _)
    | with_reducible apply Kept.step (kept_drainSq _ _)
    | with_reducible (show Kept _ _ _; refine Kept.mk ?_)
    | split
    | dsimp only

theorem kept_entRead (s : State) (x : Nat) : Kept 0x800000000 s (State.entRead s x) := by
  unfold State.entRead
  repeat' first
    | decide
    | with_reducible exact Kept.refl _ _
    | with_reducible assumption
    | with_reducible refine Kept.ite ?_ ?_
    | with_reducible (show Kept _ _ _; refine Kept.mk ?_)
    | split
    | dsimp only

theorem kept_execOpenSes (src : MsgFrom) (m : SesMsg) (hub t : Nat) (s : State) : ∀ t', execOpenSes src m hub t s = .next t' → Kept 0x214071c003 s t' := by
  intro t2 h
  unfold execOpenSes at h
  refine kept_unlessDown h (fun t2 h => ?_)
  injection h with h; subst h
  repeat' first
    | decide
    | with_reducible exact Kept.refl _ _
    | with_reducible assumption
    | with_reducible refine Kept.ite ?_ ?_
    | with_reducible apply Kept.step (kept_at _ _)
    | with_reducible apply Kept.step (kept_doOpen _ _ _ _)
    | with_reducible (show Kept _ _ _; refine Kept.mk ?_)
    | split
    | dsimp only

theorem kept_execSesQuotaReserve (svc : Nat) (s : State) : ∀ t', execSesQuotaReserve svc s = .next t' → Kept 0x18000 s t' := by
  intro t2 h
  unfold execSesQuotaReserve at h
  refine kept_unlessDown h (fun t2 h => ?_)
  injection h with h; subst h
  repeat' first
    | decide
    | with_reducible exact Kept.refl _ _
    | with_reducible assumption
    | with_reducible refine Kept.ite ?_ ?_
    | with_reducible refine Kept.some_eq ‹_ = some _› (Kept.of (kept_reserveSes _ _) ?_)
    | with_reducible (show Kept _ _ _; refine Kept.mk ?_)
    | split
    | dsimp only

theorem kept_execRequest (src : MsgFrom) (m : SesMsg) (t : Nat) (s : State) : ∀ t', execRequest src m t s = .next t' → Kept 0x2140764003 s t' := by
  intro t2 h
  unfold execRequest at h
  refine kept_unlessDown h (fun t2 h => ?_)
  injection h with h; subst h
  repeat' first
    | decide
    | with_reducible exact Kept.refl _ _
    | with_reducible assumption
    | with_reducible refine Kept.ite ?_ ?_
    | with_reducible apply Kept.step (kept_at _ _)
    | with_reducible apply Kept.step (kept_doRequest _ _ _ _)
    | with_reducible (show Kept _ _ _; refine Kept.mk ?_)
    | split
    | dsimp only

theorem kept_execAbort (src : MsgFrom) (m : SesMsg) (s : State) : ∀ t', execAbort src m s = .next t' → Kept 0x2140744042 s t' := by
  intro t2 h
  unfold execAbort at h
  refine kept_unlessDown h (fun t2 h => ?_)
  injection h with h; subst h
  repeat' first
    | decide
    | with_reducible exact Kept.refl _ _
    | with_reducible assumption
    | with_reducible refine Kept.ite ?_ ?_
    | with_reducible apply Kept.step (kept_doAbort _ _ _)
    | with_reducible (show Kept _ _ _; refine Kept.mk ?_)
    | split
    | dsimp only

theorem kept_execClose (src : MsgFrom) (m : SesMsg) (s : State) : ∀ t', execClose src m s = .next t' → Kept 0x214074c042 s t' := by
  intro t2 h
  unfold execClose at h
  refine kept_unlessDown h (fun t2 h => ?_)
  injection h with h; subst h
  repeat' first
    | decide
    | with_reducible exact Kept.refl _ _
    | with_reducible assumption
    | with_reducible refine Kept.ite ?_ ?_
    | with_reducible apply Kept.step (kept_doClose _ _ _)
    | with_reducible (show Kept _ _ _; refine Kept.mk ?_)
    | split
    | dsimp only

theorem kept_execSesIdle (idx t : Nat) (s : State) : ∀ t', execSesIdle idx t s = .next t' → Kept 0x214074c003 s t' := by
  intro t2 h
  unfold execSesIdle at h
  refine kept_unlessDown h (fun t2 h => ?_)
  injection h with h; subst h
  repeat' first
    | decide
    | with_reducible exact Kept.refl _ _
    | with_reducible assumption
    | with_reducible refine Kept.ite ?_ ?_
    | with_reducible apply Kept.step (kept_at _ _)
    | with_reducible apply Kept.step (kept_idleSes _ _ _)
    | with_reducible (show Kept _ _ _; refine Kept.mk ?_)
    | split
    | dsimp only

end Sys2Proof.Machine
end

