-- ==== Sys2Proof/Laws/KeptSetting.lean ====
section
/-! SUPPORT. What the operations of Machine/Setting.lean may touch. -/

set_option Elab.async false
set_option linter.unusedTactic false
set_option linter.unreachableTactic false

namespace Sys2Proof.Machine

theorem kept_extend (s : State) (i d : Nat) : Kept 0x2000000 s (State.extend s i d) :=
  Kept.mk (Kept.refl _ _) (hk := fun h => h)


theorem kept_setFinish (s : State) (code record : Nat) : Kept 0x8 s (State.setFinish s code record) := by
  unfold State.setFinish
  repeat' first
    | decide
    | with_reducible exact Kept.refl _ _
    | with_reducible assumption
    | with_reducible refine Kept.ite ?_ ?_
    | with_reducible (show Kept _ _ _; refine Kept.mk ?_)
    | split
    | dsimp only

theorem kept_loadGo (s : State) (x : Nat) : Kept 0x2040200008 s (State.loadGo s x) := by
  unfold State.loadGo
  repeat' first
    | decide
    | with_reducible exact Kept.refl _ _
    | with_reducible assumption
    | with_reducible refine Kept.ite ?_ ?_
    | with_reducible apply Kept.step (kept_raiseG _ _ _ _ _ _)
    | with_reducible (show Kept _ _ _; refine Kept.mk ?_)
    | split
    | dsimp only

theorem kept_checkDone (s : State) : Kept 0x8 s (State.checkDone s) := by
  unfold State.checkDone
  repeat' first
    | decide
    | with_reducible exact Kept.refl _ _
    | with_reducible assumption
    | with_reducible refine Kept.ite ?_ ?_
    | with_reducible apply Kept.step (kept_setFinish _ _ _)
    | with_reducible (show Kept _ _ _; refine Kept.mk ?_)
    | split
    | dsimp only

theorem kept_place (s : State) (b pos : Nat) : Kept 0x22 s (State.place s b pos) := by
  unfold State.place
  repeat' first
    | decide
    | with_reducible exact Kept.refl _ _
    | with_reducible assumption
    | with_reducible refine Kept.ite ?_ ?_
    | with_reducible (show Kept _ _ (State.updBead _ _ _); first | apply Kept.step (kept_updBead _ _ _) | (refine Kept.of (kept_updBead _ _ _ ?hf) ?_; case hf => (intro _ h; (try dsimp only); first | exact h | exact Bead.wf_spUndefine _ _ _ _ h | exact Bead.wf_spWrite _ _ _ h | exact Bead.wf_accUndefine _ _ _ _ (Bead.wf_spUndefine _ _ _ _ h) | exact Bead.wf_accUndefine _ _ _ _ h | (unfold Bead.accPut; exact h) | (unfold Bead.spMark; exact h) | exact Bead.wf_foldl (fun _ _ h => h) h | exact Bead.wf_foldl (fun _ _ h => Bead.wf_accPut _ _ _ _ _ h) h | exact Bead.wf_accUndefine _ _ _ _ (Bead.wf_foldl (fun _ _ h => Bead.wf_spUndefine _ _ _ _ h) h) | (repeat' split <;> exact h))))
    | with_reducible apply Kept.step (kept_undefBead _ _)
    | with_reducible (show Kept _ _ _; refine Kept.mk ?_)
    | split
    | dsimp only

theorem kept_unplace (s : State) (b : Nat) : Kept 0x20 s (State.unplace s b) := by
  unfold State.unplace
  repeat' first
    | decide
    | with_reducible exact Kept.refl _ _
    | with_reducible assumption
    | with_reducible refine Kept.ite ?_ ?_
    | with_reducible (show Kept _ _ (State.updBead _ _ _); first | apply Kept.step (kept_updBead _ _ _) | (refine Kept.of (kept_updBead _ _ _ ?hf) ?_; case hf => (intro _ h; (try dsimp only); first | exact h | exact Bead.wf_spUndefine _ _ _ _ h | exact Bead.wf_spWrite _ _ _ h | exact Bead.wf_accUndefine _ _ _ _ (Bead.wf_spUndefine _ _ _ _ h) | exact Bead.wf_accUndefine _ _ _ _ h | (unfold Bead.accPut; exact h) | (unfold Bead.spMark; exact h) | exact Bead.wf_foldl (fun _ _ h => h) h | exact Bead.wf_foldl (fun _ _ h => Bead.wf_accPut _ _ _ _ _ h) h | exact Bead.wf_accUndefine _ _ _ _ (Bead.wf_foldl (fun _ _ h => Bead.wf_spUndefine _ _ _ _ h) h) | (repeat' split <;> exact h))))
    | with_reducible (show Kept _ _ _; refine Kept.mk ?_)
    | split
    | dsimp only

theorem kept_compose (s : State) (old new : Setting) : Kept 0x22 s (State.compose s old new) := by
  unfold State.compose
  repeat' first
    | decide
    | with_reducible exact Kept.refl _ _
    | with_reducible assumption
    | with_reducible refine Kept.ite ?_ ?_
    | with_reducible apply Kept.step (kept_unplace _ _)
    | with_reducible apply Kept.step (kept_undefBead _ _)
    | with_reducible apply Kept.step (kept_place _ _ _)
    | with_reducible (show Kept _ _ (State.updBead _ _ _); first | apply Kept.step (kept_updBead _ _ _) | (refine Kept.of (kept_updBead _ _ _ ?hf) ?_; case hf => (intro _ h; (try dsimp only); first | exact h | exact Bead.wf_spUndefine _ _ _ _ h | exact Bead.wf_spWrite _ _ _ h | exact Bead.wf_accUndefine _ _ _ _ (Bead.wf_spUndefine _ _ _ _ h) | exact Bead.wf_accUndefine _ _ _ _ h | (unfold Bead.accPut; exact h) | (unfold Bead.spMark; exact h) | exact Bead.wf_foldl (fun _ _ h => h) h | exact Bead.wf_foldl (fun _ _ h => Bead.wf_accPut _ _ _ _ _ h) h | exact Bead.wf_accUndefine _ _ _ _ (Bead.wf_foldl (fun _ _ h => Bead.wf_spUndefine _ _ _ _ h) h) | (repeat' split <;> exact h))))
    | with_reducible refine Kept.foldl (fun _ _ => ?_) ?_
    | with_reducible (show Kept _ _ _; refine Kept.mk ?_)
    | split
    | dsimp only

theorem kept_startClasps (s : State) (old new : Setting) (full : Bool) (carried : List BadRec) : Kept 0x20c0722822 s (State.startClasps s old new full carried) := by
  unfold State.startClasps
  repeat' first
    | decide
    | with_reducible exact Kept.refl _ _
    | with_reducible assumption
    | with_reducible refine Kept.ite ?_ ?_
    | with_reducible apply Kept.step (kept_completeWait _ _ _ _ _)
    | with_reducible apply Kept.step (kept_updClasp _ _ _)
    | with_reducible apply Kept.step (kept_settle _ _)
    | with_reducible apply Kept.step (kept_resumeStalled _)
    | with_reducible refine Kept.foldl (fun _ _ => ?_) ?_
    | with_reducible (show Kept _ _ _; refine Kept.mk ?_)
    | split
    | dsimp only

theorem kept_closeAtApply (s : State) (old new : Setting) : Kept 0x214074c042 s (State.closeAtApply s old new) := by
  unfold State.closeAtApply
  repeat' first
    | decide
    | with_reducible exact Kept.refl _ _
    | with_reducible assumption
    | with_reducible refine Kept.ite ?_ ?_
    | with_reducible apply Kept.step (kept_reply _ _ _)
    | with_reducible apply Kept.step (kept_dropObj _ _)
    | with_reducible apply Kept.step (kept_updUnit _ _ _)
    | with_reducible apply Kept.step (kept_closeNow _ _ _ _)
    | with_reducible refine Kept.foldl (fun _ _ => ?_) ?_
    | with_reducible (show Kept _ _ _; refine Kept.mk ?_)
    | split
    | dsimp only

theorem kept_remapPages (s : State) (old new : Setting) : Kept 0x40000 s (State.remapPages s old new) := by
  unfold State.remapPages
  repeat' first
    | decide
    | with_reducible exact Kept.refl _ _
    | with_reducible assumption
    | with_reducible refine Kept.ite ?_ ?_
    | with_reducible (show Kept _ _ _; refine Kept.mk ?_)
    | split
    | dsimp only

theorem kept_remapVaults (s : State) (old new : Setting) : Kept 0x20002 s (State.remapVaults s old new) := by
  unfold State.remapVaults
  repeat' first
    | decide
    | with_reducible exact Kept.refl _ _
    | with_reducible assumption
    | with_reducible refine Kept.ite ?_ ?_
    | with_reducible apply Kept.step (kept_memUndef _ _ _)
    | with_reducible refine Kept.foldl (fun _ _ => ?_) ?_
    | with_reducible (show Kept _ _ _; refine Kept.mk ?_)
    | split
    | dsimp only

theorem kept_fillZero (s : State) (a n : Nat) : Kept 0x20000 s (s.fillZero a n) :=
  Kept.mk (Kept.refl _ _) (hr := fun h => Bytes.wf_zeroFill a n h)


theorem kept_sendJoin (s : State) (f : FedRec) : Kept 0x2040300002 s (State.sendJoin s f) := by
  unfold State.sendJoin
  repeat' first
    | decide
    | with_reducible exact Kept.refl _ _
    | with_reducible assumption
    | with_reducible refine Kept.ite ?_ ?_
    | with_reducible apply Kept.step (kept_tell _ _ _ _)
    | with_reducible (show Kept _ _ _; refine Kept.mk ?_)
    | split
    | dsimp only

theorem kept_formFeds (s : State) (old new : Setting) (full : Bool) : Kept 0x2040300002 s (State.formFeds s old new full) := by
  unfold State.formFeds
  repeat' first
    | decide
    | with_reducible exact Kept.refl _ _
    | with_reducible assumption
    | with_reducible refine Kept.ite ?_ ?_
    | with_reducible apply Kept.step (kept_updFed _ _ _)
    | with_reducible apply Kept.step (kept_sendJoin _ _)
    | with_reducible refine Kept.foldl (fun _ _ => ?_) ?_
    | with_reducible (show Kept _ _ _; refine Kept.mk ?_)
    | split
    | dsimp only

theorem kept_carryUnits (s : State) (old new : Setting) : Kept 0x40 s (State.carryUnits s old new) := by
  unfold State.carryUnits
  repeat' first
    | decide
    | with_reducible exact Kept.refl _ _
    | with_reducible assumption
    | with_reducible refine Kept.ite ?_ ?_
    | with_reducible apply Kept.step (kept_updUnit _ _ _)
    | with_reducible refine Kept.foldl (fun _ _ => ?_) ?_
    | with_reducible (show Kept _ _ _; refine Kept.mk ?_)
    | split
    | dsimp only

theorem kept_carryQueues (s : State) (new : Setting) : Kept 0x80000000 s (State.carryQueues s new) := by
  unfold State.carryQueues
  repeat' first
    | decide
    | with_reducible exact Kept.refl _ _
    | with_reducible assumption
    | with_reducible refine Kept.ite ?_ ?_
    | with_reducible (show Kept _ _ _; refine Kept.mk ?_)
    | split
    | dsimp only

theorem kept_apply (s : State) (l : Loaded) (slot : Nat) : Kept 0x27c276e87e s (State.apply s l slot) := by
  unfold State.apply
  repeat' first
    | decide
    | with_reducible exact Kept.refl _ _
    | with_reducible assumption
    | with_reducible refine Kept.ite ?_ ?_
    | with_reducible apply Kept.step (kept_closeAtApply _ _ _)
    | with_reducible apply Kept.step (kept_remapVaults _ _ _)
    | with_reducible apply Kept.step (kept_remapPages _ _ _)
    | with_reducible apply Kept.step (kept_fillZero _ _ _)
    | with_reducible apply Kept.step (kept_compose _ _ _)
    | with_reducible apply Kept.step (kept_startClasps _ _ _ _ _)
    | with_reducible apply Kept.step (kept_carryUnits _ _ _)
    | with_reducible apply Kept.step (kept_carryQueues _ _)
    | with_reducible apply Kept.step (kept_formFeds _ _ _ _)
    | with_reducible apply Kept.step (kept_extend _ _ _)
    | with_reducible apply Kept.step (kept_setFinish _ _ _)
    | with_reducible refine Kept.foldl (fun _ _ => ?_) ?_
    | with_reducible (show Kept _ _ _; refine Kept.mk ?_)
    | split
    | dsimp only

theorem kept_tickLoad (s : State) : Kept 0x27c276e87e s (State.tickLoad s) := by
  unfold State.tickLoad
  repeat' first
    | decide
    | with_reducible exact Kept.refl _ _
    | with_reducible assumption
    | with_reducible refine Kept.ite ?_ ?_
    | with_reducible apply Kept.step (kept_setFinish _ _ _)
    | with_reducible apply Kept.step (kept_apply _ _ _)
    | with_reducible (show Kept _ _ _; refine Kept.mk ?_)
    | split
    | dsimp only

theorem kept_execSetCheckDone (s : State) : ∀ t', execSetCheckDone s = .next t' → Kept 0x8 s t' := by
  intro t2 h
  unfold execSetCheckDone at h
  refine kept_unlessDown h (fun t2 h => ?_)
  injection h with h; subst h
  repeat' first
    | decide
    | with_reducible exact Kept.refl _ _
    | with_reducible assumption
    | with_reducible refine Kept.ite ?_ ?_
    | with_reducible apply Kept.step (kept_checkDone _)
    | with_reducible (show Kept _ _ _; refine Kept.mk ?_)
    | split
    | dsimp only

theorem kept_execSetTimeout (s : State) : ∀ t', execSetTimeout s = .next t' → Kept 0x8 s t' := by
  intro t2 h
  unfold execSetTimeout at h
  refine kept_unlessDown h (fun t2 h => ?_)
  injection h with h; subst h
  repeat' first
    | decide
    | with_reducible exact Kept.refl _ _
    | with_reducible assumption
    | with_reducible refine Kept.ite ?_ ?_
    | with_reducible apply Kept.step (kept_setFinish _ _ _)
    | with_reducible (show Kept _ _ _; refine Kept.mk ?_)
    | split
    | dsimp only

end Sys2Proof.Machine
end

