-- ==== Sys2Proof/Laws/KeptCommit.lean ====
section
/-! SUPPORT. What the operations of Machine/Commit.lean may touch. -/

set_option Elab.async false
set_option linter.unusedTactic false
set_option linter.unreachableTactic false

namespace Sys2Proof.Machine

theorem kept_appendObj (s : State) (g h : Nat) : Kept 0x40000 s (State.appendObj s g h) := by
  unfold State.appendObj
  repeat' first
    | decide
    | with_reducible exact Kept.refl _ _
    | with_reducible assumption
    | with_reducible refine Kept.ite ?_ ?_
    | with_reducible apply Kept.step (kept_setPage _ _ _)
    | with_reducible refine Kept.foldl (fun _ _ => ?_) ?_
    | with_reducible (show Kept _ _ _; refine Kept.mk ?_)
    | split
    | dsimp only

theorem kept_applyEntry (s : State) (i e : Nat) : Kept 0x44000 s (State.applyEntry s i e) := by
  unfold State.applyEntry
  repeat' first
    | decide
    | with_reducible exact Kept.refl _ _
    | with_reducible assumption
    | with_reducible refine Kept.ite ?_ ?_
    | with_reducible apply Kept.step (kept_updSes _ _ _)
    | with_reducible apply Kept.step (kept_appendObj _ _ _)
    | with_reducible apply Kept.step (kept_dropObj _ _)
    | with_reducible (show Kept _ _ _; refine Kept.mk ?_)
    | split
    | dsimp only

theorem kept_sweep (s : State) (uid : Nat) (sl : Slice) (b : Batch) (applied : List Nat) : Kept 0x40000 s (State.sweep s uid sl b applied) := by
  unfold State.sweep
  repeat' first
    | decide
    | with_reducible exact Kept.refl _ _
    | with_reducible assumption
    | with_reducible refine Kept.ite ?_ ?_
    | with_reducible apply Kept.step (kept_dropObj _ _)
    | with_reducible refine Kept.foldl (fun _ _ => ?_) ?_
    | with_reducible (show Kept _ _ _; refine Kept.mk ?_)
    | split
    | dsimp only

theorem kept_lane (a : LaneAcc) (uid : Nat) (sl : Slice) (b : Batch) (j : Nat) (l : Lane) : Kept 0x44000 a.s (a.lane uid sl b j l).s := by
  unfold LaneAcc.lane
  split
  dsimp only
  repeat' first
    | decide
    | with_reducible exact Kept.refl _ _
    | with_reducible apply Kept.step (kept_updSes _ _ _)
    | with_reducible apply Kept.step (kept_applyEntry _ _ _)
    | with_reducible refine Kept.foldl (fun _ _ => ?_) ?_
    | split
    | dsimp only

theorem kept_lanes (a : LaneAcc) (uid : Nat) (sl : Slice) (b : Batch) : Kept 0x44000 a.s (a.lanes uid sl b).s := by
  unfold LaneAcc.lanes
  generalize (List.zip _ _) = l
  induction l generalizing a with
  | nil => exact Kept.refl _ _
  | cons p l ih => exact (kept_lane a uid sl b p.1 p.2).trans (ih _)

theorem kept_commitNow (s : State) (uid : Nat) : Kept 0x21e076eee2 s (s.commitNow uid) := by
  unfold State.commitNow
  repeat' first
    | decide
      | with_reducible exact Kept.refl _ _
      | with_reducible assumption
      | with_reducible apply Kept.step (kept_lanes _ _ _ _)
      | with_reducible refine Kept.ite ?_ ?_
      | with_reducible apply Kept.step (kept_sweep _ _ _ _ _)
      | with_reducible apply Kept.step (kept_writeCompl _ _ _ _ _ _ _)
      | with_reducible apply Kept.step (kept_opSignal _ _ _)
      | with_reducible (show Kept _ _ (State.updBead _ _ _); first | apply Kept.step (kept_updBead _ _ _) | (refine Kept.of (kept_updBead _ _ _ ?hf) ?_; case hf => (intro _ h; (try dsimp only); first | exact h | exact Bead.wf_spUndefine _ _ _ _ h | exact Bead.wf_spWrite _ _ _ h | exact Bead.wf_accUndefine _ _ _ _ (Bead.wf_spUndefine _ _ _ _ h) | exact Bead.wf_accUndefine _ _ _ _ h | (unfold Bead.accPut; exact h) | (unfold Bead.spMark; exact h) | exact Bead.wf_foldl (fun _ _ h => h) h | exact Bead.wf_foldl (fun _ _ h => Bead.wf_accPut _ _ _ _ _ h) h | exact Bead.wf_accUndefine _ _ _ _ (Bead.wf_foldl (fun _ _ h => Bead.wf_spUndefine _ _ _ _ h) h) | (repeat' split <;> exact h))))
      | with_reducible apply Kept.step (kept_discardOpen _ _)
      | with_reducible apply Kept.step (kept_traceFrame _ _ _)
      | with_reducible apply Kept.step (kept_updUnit _ _ _)
      | with_reducible apply Kept.step (kept_reply _ _ _)
      | with_reducible apply Kept.step (kept_closeNow _ _ _ _)
      | with_reducible refine Kept.foldl (fun _ _ => ?_) ?_
      | with_reducible (show Kept _ _ _; refine Kept.mk ?_)
      | split
      | dsimp only


theorem kept_execCommitPoint (uid t : Nat) (s : State) : ∀ t', execCommitPoint uid t s = .next t' → Kept 0x21e076eee3 s t' := by
  intro t2 h
  unfold execCommitPoint at h
  refine kept_unlessDown h (fun t2 h => ?_)
  injection h with h; subst h
  repeat' first
    | decide
    | with_reducible exact Kept.refl _ _
    | with_reducible assumption
    | with_reducible refine Kept.ite ?_ ?_
    | with_reducible apply Kept.step (kept_at _ _)
    | with_reducible apply Kept.step (kept_commitNow _ _)
    | with_reducible (show Kept _ _ _; refine Kept.mk ?_)
    | split
    | dsimp only

end Sys2Proof.Machine
end

