-- ==== Sys2Proof/Laws/KeptFaults.lean ====
section
/-! SUPPORT. What the operations of Machine/Faults.lean may touch. -/

set_option Elab.async false
set_option linter.unusedTactic false
set_option linter.unreachableTactic false

namespace Sys2Proof.Machine

theorem kept_abandonTest (s : State) (top b : Nat) (st : SelfTest) : Kept 0x20e0200000 s (State.abandonTest s top b st) := by
  unfold State.abandonTest
  repeat' first
    | decide
    | with_reducible exact Kept.refl _ _
    | with_reducible assumption
    | with_reducible refine Kept.ite ?_ ?_
    | with_reducible apply Kept.step (kept_raiseUG _ _ _ _ _ _)
    | with_reducible (show Kept _ _ _; refine Kept.mk ?_)
    | split
    | dsimp only

theorem kept_goDown (s : State) (top b : Nat) : Kept 0x20c0200040 s (State.goDown s top b) := by
  unfold State.goDown
  repeat' first
    | decide
    | with_reducible exact Kept.refl _ _
    | with_reducible assumption
    | with_reducible refine Kept.ite ?_ ?_
    | with_reducible apply Kept.step (kept_updUnit _ _ _)
    | with_reducible apply Kept.step (kept_raiseUG _ _ _ _ _ _)
    | with_reducible refine Kept.foldl (fun _ _ => ?_) ?_
    | with_reducible (show Kept _ _ _; refine Kept.mk ?_)
    | split
    | dsimp only

theorem kept_placeSpares (s : State) (top : Nat) : Kept 0x2080200062 s (State.placeSpares s top) := by
  unfold State.placeSpares
  repeat' first
    | decide
    | with_reducible exact Kept.refl _ _
    | with_reducible assumption
    | with_reducible refine Kept.ite ?_ ?_
    | with_reducible apply Kept.step (kept_place _ _ _)
    | with_reducible apply Kept.step (kept_updUnit _ _ _)
    | with_reducible apply Kept.step (kept_raiseU _ _ _ _ _ _ _)
    | with_reducible refine Kept.foldl (fun _ _ => ?_) ?_
    | with_reducible (show Kept _ _ _; refine Kept.mk ?_)
    | split
    | dsimp only

theorem kept_checkSpares (s : State) (top b : Nat) : Kept 0x20e0200040 s (State.checkSpares s top b) := by
  unfold State.checkSpares
  repeat' first
    | decide
    | with_reducible exact Kept.refl _ _
    | with_reducible assumption
    | with_reducible refine Kept.ite ?_ ?_
    | with_reducible apply Kept.step (kept_goDown _ _ _)
    | with_reducible apply Kept.step (kept_abandonTest _ _ _ _)
    | with_reducible (show Kept _ _ _; refine Kept.mk ?_)
    | split
    | dsimp only

theorem kept_interrupt (s : State) (b status : Nat) : Kept 0x21c0762fe2 s (State.interrupt s b status) := by
  unfold State.interrupt
  repeat' first
    | decide
    | with_reducible exact Kept.refl _ _
    | with_reducible assumption
    | with_reducible refine Kept.ite ?_ ?_
    | with_reducible apply Kept.step (kept_fresh _)
    | with_reducible refine Kept.snd_eq ‹_ = (_, _)› (Kept.of (kept_fresh _) ?_)
    | with_reducible apply Kept.step (kept_updSlice _ _ _)
    | with_reducible apply Kept.step (kept_failSlice _ _ _ _)
    | with_reducible apply Kept.step (kept_fedLocal _ _ _)
    | with_reducible (show Kept _ _ _; refine Kept.mk ?_)
    | split
    | dsimp only

theorem kept_loseBeads (s : State) (bs : List Nat) (status arg : Nat) : Kept 0x21e07e2fe2 s (State.loseBeads s bs status arg) := by
  unfold State.loseBeads
  repeat' first
    | decide
    | with_reducible exact Kept.refl _ _
    | with_reducible assumption
    | with_reducible refine Kept.ite ?_ ?_
    | with_reducible (show Kept _ _ (State.updBead _ _ _); first | apply Kept.step (kept_updBead _ _ _) | (refine Kept.of (kept_updBead _ _ _ ?hf) ?_; case hf => (intro _ h; (try dsimp only); first | exact h | exact Bead.wf_spUndefine _ _ _ _ h | exact Bead.wf_spWrite _ _ _ h | exact Bead.wf_accUndefine _ _ _ _ (Bead.wf_spUndefine _ _ _ _ h) | exact Bead.wf_accUndefine _ _ _ _ h | (unfold Bead.accPut; exact h) | (unfold Bead.spMark; exact h) | exact Bead.wf_foldl (fun _ _ h => h) h | exact Bead.wf_foldl (fun _ _ h => Bead.wf_accPut _ _ _ _ _ h) h | exact Bead.wf_accUndefine _ _ _ _ (Bead.wf_foldl (fun _ _ h => Bead.wf_spUndefine _ _ _ _ h) h) | (repeat' split <;> exact h))))
    | with_reducible apply Kept.step (kept_traceFault _ _)
    | with_reducible apply Kept.step (kept_raiseU _ _ _ _ _ _ _)
    | with_reducible apply Kept.step (kept_raiseG _ _ _ _ _ _)
    | with_reducible apply Kept.step (kept_interrupt _ _ _)
    | with_reducible apply Kept.step (kept_updUnit _ _ _)
    | with_reducible apply Kept.step (kept_checkSpares _ _ _)
    | with_reducible refine Kept.foldl (fun _ _ => ?_) ?_
    | with_reducible (show Kept _ _ _; refine Kept.mk ?_)
    | split
    | dsimp only

theorem kept_testEnd (s : State) (b : Nat) (pass : Bool) (result : Nat) : Kept 0x20e0280060 s (State.testEnd s b pass result) := by
  unfold State.testEnd
  repeat' first
    | decide
    | with_reducible exact Kept.refl _ _
    | with_reducible assumption
    | with_reducible refine Kept.ite ?_ ?_
    | with_reducible apply Kept.step (kept_raiseUG _ _ _ _ _ _)
    | with_reducible (show Kept _ _ (State.updBead _ _ _); first | apply Kept.step (kept_updBead _ _ _) | (refine Kept.of (kept_updBead _ _ _ ?hf) ?_; case hf => (intro _ h; (try dsimp only); first | exact h | exact Bead.wf_spUndefine _ _ _ _ h | exact Bead.wf_spWrite _ _ _ h | exact Bead.wf_accUndefine _ _ _ _ (Bead.wf_spUndefine _ _ _ _ h) | exact Bead.wf_accUndefine _ _ _ _ h | (unfold Bead.accPut; exact h) | (unfold Bead.spMark; exact h) | exact Bead.wf_foldl (fun _ _ h => h) h | exact Bead.wf_foldl (fun _ _ h => Bead.wf_accPut _ _ _ _ _ h) h | exact Bead.wf_accUndefine _ _ _ _ (Bead.wf_foldl (fun _ _ h => Bead.wf_spUndefine _ _ _ _ h) h) | (repeat' split <;> exact h))))
    | with_reducible apply Kept.step (kept_updUnit _ _ _)
    | with_reducible apply Kept.step (kept_checkSpares _ _ _)
    | with_reducible (show Kept _ _ _; refine Kept.mk ?_)
    | split
    | dsimp only

theorem kept_beadFails (s : State) (b status arg : Nat) : Kept 0x21e07e2fe2 s (State.beadFails s b status arg) := by
  unfold State.beadFails
  repeat' first
    | decide
    | with_reducible exact Kept.refl _ _
    | with_reducible assumption
    | with_reducible refine Kept.ite ?_ ?_
    | with_reducible apply Kept.step (kept_fresh _)
    | with_reducible refine Kept.snd_eq ‹_ = (_, _)› (Kept.of (kept_fresh _) ?_)
    | with_reducible apply Kept.step (kept_testEnd _ _ _ _)
    | with_reducible apply Kept.step (kept_loseBeads _ _ _ _)
    | with_reducible (show Kept _ _ _; refine Kept.mk ?_)
    | split
    | dsimp only

theorem kept_recompose (s : State) (top : Nat) : Kept 0x20c0200062 s (State.recompose s top) := by
  unfold State.recompose
  repeat' first
    | decide
    | with_reducible exact Kept.refl _ _
    | with_reducible assumption
    | with_reducible refine Kept.ite ?_ ?_
    | with_reducible apply Kept.step (kept_placeSpares _ _)
    | with_reducible apply Kept.step (kept_goDown _ _ _)
    | with_reducible (show Kept _ _ _; refine Kept.mk ?_)
    | split
    | dsimp only

theorem kept_startTest (s : State) (b : Nat) (st : SelfTest) : Kept 0x20000022 s (State.startTest s b st) := by
  unfold State.startTest
  repeat' first
    | decide
    | with_reducible exact Kept.refl _ _
    | with_reducible assumption
    | with_reducible refine Kept.ite ?_ ?_
    | with_reducible apply Kept.step (kept_undefBead _ _)
    | with_reducible (show Kept _ _ _; refine Kept.mk ?_)
    | split
    | dsimp only

theorem kept_requestTest (s : State) (b kind : Nat) (force : Bool) : Kept 0x20000022 s (State.requestTest s b kind force) := by
  unfold State.requestTest
  repeat' first
    | decide
    | with_reducible exact Kept.refl _ _
    | with_reducible assumption
    | with_reducible refine Kept.ite ?_ ?_
    | with_reducible apply Kept.step (kept_startTest _ _ _)
    | with_reducible (show Kept _ _ _; refine Kept.mk ?_)
    | split
    | dsimp only

theorem kept_stReq (s : State) (x : Nat) : Kept 0x2160200022 s (State.stReq s x) := by
  unfold State.stReq
  repeat' first
    | decide
    | with_reducible exact Kept.refl _ _
    | with_reducible assumption
    | with_reducible refine Kept.ite ?_ ?_
    | with_reducible apply Kept.step (kept_regacc _ _)
    | with_reducible apply Kept.step (kept_requestTest _ _ _ _)
    | with_reducible (show Kept _ _ _; refine Kept.mk ?_)
    | split
    | dsimp only

theorem kept_rasTick (s : State) : Kept 0x20e0200062 s (State.rasTick s) := by
  unfold State.rasTick
  repeat' first
    | decide
    | with_reducible exact Kept.refl _ _
    | with_reducible assumption
    | with_reducible refine Kept.ite ?_ ?_
    | with_reducible apply Kept.step (kept_place _ _ _)
    | with_reducible apply Kept.step (kept_startTest _ _ _)
    | with_reducible apply Kept.step (kept_raiseU _ _ _ _ _ _ _)
    | with_reducible apply Kept.step (kept_raiseUG _ _ _ _ _ _)
    | with_reducible apply Kept.step (kept_placeSpares _ _)
    | with_reducible apply Kept.step (kept_updUnit _ _ _)
    | with_reducible refine Kept.foldl (fun _ _ => ?_) ?_
    | with_reducible (show Kept _ _ _; refine Kept.mk ?_)
    | split
    | dsimp only

theorem kept_coreFault (s : State) (c : Nat) : Kept 0x20e0200000 s (State.coreFault s c) := by
  unfold State.coreFault
  repeat' first
    | decide
    | with_reducible exact Kept.refl _ _
    | with_reducible assumption
    | with_reducible refine Kept.ite ?_ ?_
    | with_reducible apply Kept.step (kept_raiseU _ _ _ _ _ _ _)
    | with_reducible apply Kept.step (kept_raiseG _ _ _ _ _ _)
    | with_reducible refine Kept.foldl (fun _ _ => ?_) ?_
    | with_reducible (show Kept _ _ _; refine Kept.mk ?_)
    | split
    | dsimp only

theorem kept_execFacetFault (b : BeadId) (f : Fin 4) (t : Nat) (s : State) : ∀ t', execFacetFault b f t s = .next t' → Kept 0x21e07e2fe3 s t' := by
  intro t2 h
  unfold execFacetFault at h
  refine kept_unlessDown h (fun t2 h => ?_)
  injection h with h; subst h
  repeat' first
    | decide
    | with_reducible exact Kept.refl _ _
    | with_reducible assumption
    | with_reducible refine Kept.ite ?_ ?_
    | with_reducible apply Kept.step (kept_at _ _)
    | with_reducible apply Kept.step (kept_beadFails _ _ _ _)
    | with_reducible apply Kept.step (kept_resumeMt _)
    | with_reducible (show Kept _ _ _; refine Kept.mk ?_)
    | split
    | dsimp only

theorem kept_execBeadFault (b : BeadId) (t : Nat) (s : State) : ∀ t', execBeadFault b t s = .next t' → Kept 0x21e07e2fe3 s t' := by
  intro t2 h
  unfold execBeadFault at h
  refine kept_unlessDown h (fun t2 h => ?_)
  injection h with h; subst h
  repeat' first
    | decide
    | with_reducible exact Kept.refl _ _
    | with_reducible assumption
    | with_reducible refine Kept.ite ?_ ?_
    | with_reducible apply Kept.step (kept_at _ _)
    | with_reducible apply Kept.step (kept_beadFails _ _ _ _)
    | with_reducible apply Kept.step (kept_resumeMt _)
    | with_reducible (show Kept _ _ _; refine Kept.mk ?_)
    | split
    | dsimp only

theorem kept_execBeadWatchdog (b : BeadId) (t : Nat) (s : State) : ∀ t', execBeadWatchdog b t s = .next t' → Kept 0x21e07e2fe3 s t' := by
  intro t2 h
  unfold execBeadWatchdog at h
  refine kept_unlessDown h (fun t2 h => ?_)
  injection h with h; subst h
  repeat' first
    | decide
    | with_reducible exact Kept.refl _ _
    | with_reducible assumption
    | with_reducible refine Kept.ite ?_ ?_
    | with_reducible apply Kept.step (kept_at _ _)
    | with_reducible apply Kept.step (kept_beadFails _ _ _ _)
    | with_reducible apply Kept.step (kept_resumeMt _)
    | with_reducible (show Kept _ _ _; refine Kept.mk ?_)
    | split
    | dsimp only

theorem kept_execStrandFault (die : Die) (strand : Fin 4) (t : Nat) (s : State) : ∀ t', execStrandFault die strand t s = .next t' → Kept 0x21e07e2fe3 s t' := by
  intro t2 h
  unfold execStrandFault at h
  refine kept_unlessDown h (fun t2 h => ?_)
  injection h with h; subst h
  repeat' first
    | decide
    | with_reducible exact Kept.refl _ _
    | with_reducible assumption
    | with_reducible refine Kept.ite ?_ ?_
    | with_reducible apply Kept.step (kept_at _ _)
    | with_reducible apply Kept.step (kept_loseBeads _ _ _ _)
    | with_reducible apply Kept.step (kept_resumeMt _)
    | with_reducible (show Kept _ _ _; refine Kept.mk ?_)
    | split
    | dsimp only

theorem kept_execHostCoreFault (c : Fin 48) (s : State) : ∀ t', execHostCoreFault c s = .next t' → Kept 0x20e0200000 s t' := by
  intro t2 h
  unfold execHostCoreFault at h
  refine kept_unlessDown h (fun t2 h => ?_)
  injection h with h; subst h
  repeat' first
    | decide
    | with_reducible exact Kept.refl _ _
    | with_reducible assumption
    | with_reducible refine Kept.ite ?_ ?_
    | with_reducible apply Kept.step (kept_coreFault _ _)
    | with_reducible (show Kept _ _ _; refine Kept.mk ?_)
    | split
    | dsimp only

theorem kept_execRecompositionDone (uid t : Nat) (s : State) : ∀ t', execRecompositionDone uid t s = .next t' → Kept 0x20c0200063 s t' := by
  intro t2 h
  unfold execRecompositionDone at h
  refine kept_unlessDown h (fun t2 h => ?_)
  injection h with h; subst h
  repeat' first
    | decide
    | with_reducible exact Kept.refl _ _
    | with_reducible assumption
    | with_reducible refine Kept.ite ?_ ?_
    | with_reducible apply Kept.step (kept_at _ _)
    | with_reducible apply Kept.step (kept_recompose _ _)
    | with_reducible (show Kept _ _ _; refine Kept.mk ?_)
    | split
    | dsimp only

theorem kept_execSelfTestEnd (b : BeadId) (pass : Bool) (result : Nat) (s : State) : ∀ t', execSelfTestEnd b pass result s = .next t' → Kept 0x20e0280060 s t' := by
  intro t2 h
  unfold execSelfTestEnd at h
  refine kept_unlessDown h (fun t2 h => ?_)
  injection h with h; subst h
  repeat' first
    | decide
    | with_reducible exact Kept.refl _ _
    | with_reducible assumption
    | with_reducible refine Kept.ite ?_ ?_
    | with_reducible apply Kept.step (kept_testEnd _ _ _ _)
    | with_reducible (show Kept _ _ _; refine Kept.mk ?_)
    | split
    | dsimp only

end Sys2Proof.Machine
end

