-- ==== Sys2Proof/Laws/KeptPower.lean ====
section
/-! SUPPORT. What the operations of Machine/Power.lean may touch. -/

set_option Elab.async false
set_option linter.unusedTactic false
set_option linter.unreachableTactic false

namespace Sys2Proof.Machine

theorem kept_pwrReq (s : State) (x : Nat) : Kept 0x2144200000 s (State.pwrReq s x) := by
  unfold State.pwrReq
  repeat' first
    | decide
    | with_reducible exact Kept.refl _ _
    | with_reducible assumption
    | with_reducible refine Kept.ite ?_ ?_
    | with_reducible apply Kept.step (kept_regacc _ _)
    | with_reducible (show Kept _ _ _; refine Kept.mk ?_)
    | split
    | dsimp only

theorem kept_pwrCap (s : State) (x : Nat) : Kept 0x2144200000 s (State.pwrCap s x) := by
  unfold State.pwrCap
  repeat' first
    | decide
    | with_reducible exact Kept.refl _ _
    | with_reducible assumption
    | with_reducible refine Kept.ite ?_ ?_
    | with_reducible apply Kept.step (kept_regacc _ _)
    | with_reducible (show Kept _ _ _; refine Kept.mk ?_)
    | split
    | dsimp only

theorem kept_pwrTick (s : State) : Kept 0x37e676f87f s (State.pwrTick s) := by
  unfold State.pwrTick
  repeat' first
    | decide
    | with_reducible exact Kept.refl _ _
    | with_reducible assumption
    | with_reducible refine Kept.ite ?_ ?_
    | with_reducible apply Kept.step (kept_tick _ _)
    | with_reducible (show Kept _ _ _; refine Kept.mk ?_)
    | split
    | dsimp only

theorem kept_preWarm (s : State) (uid : Nat) : Kept 0x4000000 s (State.preWarm s uid) := by
  unfold State.preWarm
  repeat' first
    | decide
    | with_reducible exact Kept.refl _ _
    | with_reducible assumption
    | with_reducible refine Kept.ite ?_ ?_
    | with_reducible (show Kept _ _ _; refine Kept.mk ?_)
    | split
    | dsimp only

theorem kept_execPowerSample (watts t : Nat) (s : State) : ∀ t', execPowerSample watts t s = .next t' → Kept 0x4000001 s t' := by
  intro t2 h
  unfold execPowerSample at h
  refine kept_unlessDown h (fun t2 h => ?_)
  injection h with h; subst h
  repeat' first
    | decide
    | with_reducible exact Kept.refl _ _
    | with_reducible assumption
    | with_reducible refine Kept.ite ?_ ?_
    | with_reducible apply Kept.step (kept_at _ _)
    | with_reducible (show Kept _ _ _; refine Kept.mk ?_)
    | split
    | dsimp only

theorem kept_execThermalEmergency (sensor : Fin 26) (temp : Nat) (s : State) : ∀ t', execThermalEmergency sensor temp s = .next t' → Kept 0x4000000 s t' := by
  intro t2 h
  unfold execThermalEmergency at h
  refine kept_unlessDown h (fun t2 h => ?_)
  injection h with h; subst h
  repeat' first
    | decide
    | with_reducible exact Kept.refl _ _
    | with_reducible assumption
    | with_reducible refine Kept.ite ?_ ?_
    | with_reducible (show Kept _ _ _; refine Kept.mk ?_)
    | split
    | dsimp only

theorem kept_execThermalStep (s : State) : ∀ t', execThermalStep s = .next t' → Kept 0x4000000 s t' := by
  intro t2 h
  unfold execThermalStep at h
  refine kept_unlessDown h (fun t2 h => ?_)
  injection h with h; subst h
  repeat' first
    | decide
    | with_reducible exact Kept.refl _ _
    | with_reducible assumption
    | with_reducible refine Kept.ite ?_ ?_
    | with_reducible (show Kept _ _ _; refine Kept.mk ?_)
    | split
    | dsimp only

theorem kept_execProchotN (low : Bool) (s : State) : ∀ t', execProchotN low s = .next t' → Kept 0x4000000 s t' := by
  intro t2 h
  unfold execProchotN at h
  refine kept_unlessDown h (fun t2 h => ?_)
  injection h with h; subst h
  repeat' first
    | decide
    | with_reducible exact Kept.refl _ _
    | with_reducible assumption
    | with_reducible refine Kept.ite ?_ ?_
    | with_reducible (show Kept _ _ _; refine Kept.mk ?_)
    | split
    | dsimp only

theorem kept_execThermtripN (sensor : Fin 26) (temp : Nat) (s : State) : ∀ t', execThermtripN sensor temp s = .next t' → Kept 0x4000000 s t' := by
  intro t2 h
  unfold execThermtripN at h
  refine kept_unlessDown h (fun t2 h => ?_)
  injection h with h; subst h
  repeat' first
    | decide
    | with_reducible exact Kept.refl _ _
    | with_reducible assumption
    | with_reducible refine Kept.ite ?_ ?_
    | with_reducible (show Kept _ _ _; refine Kept.mk ?_)
    | split
    | dsimp only

theorem kept_execVoltageLower (s : State) : ∀ t', execVoltageLower s = .next t' → Kept 0x4000000 s t' := by
  intro t2 h
  unfold execVoltageLower at h
  refine kept_unlessDown h (fun t2 h => ?_)
  injection h with h; subst h
  repeat' first
    | decide
    | with_reducible exact Kept.refl _ _
    | with_reducible assumption
    | with_reducible refine Kept.ite ?_ ?_
    | with_reducible (show Kept _ _ _; refine Kept.mk ?_)
    | split
    | dsimp only

theorem kept_execRailOutOfRange (s : State) : ∀ t', execRailOutOfRange s = .next t' → Kept 0x0 s t' := by
  intro t2 h
  cases h


theorem kept_execPreWarmSlippedStart (uid t : Nat) (s : State) : ∀ t', execPreWarmSlippedStart uid t s = .next t' → Kept 0x4000001 s t' := by
  intro t2 h
  unfold execPreWarmSlippedStart at h
  refine kept_unlessDown h (fun t2 h => ?_)
  injection h with h; subst h
  repeat' first
    | decide
    | with_reducible exact Kept.refl _ _
    | with_reducible assumption
    | with_reducible refine Kept.ite ?_ ?_
    | with_reducible apply Kept.step (kept_at _ _)
    | with_reducible apply Kept.step (kept_preWarm _ _)
    | with_reducible (show Kept _ _ _; refine Kept.mk ?_)
    | split
    | dsimp only

end Sys2Proof.Machine
end

