-- ==== Sys2Proof/Laws/KeptFrame.lean ====
section
/-! SUPPORT. What the operations of Machine/Frame.lean may touch. -/

set_option Elab.async false
set_option linter.unusedTactic false
set_option linter.unreachableTactic false

namespace Sys2Proof.Machine

theorem kept_missDeadlines (s : State) (svc e : Nat) : Kept 0x2140744002 s (State.missDeadlines s svc e) := by
  unfold State.missDeadlines
  repeat' first
    | decide
    | with_reducible exact Kept.refl _ _
    | with_reducible assumption
    | with_reducible refine Kept.ite ?_ ?_
    | with_reducible apply Kept.step (kept_updSes _ _ _)
    | with_reducible apply Kept.step (kept_reply _ _ _)
    | with_reducible apply Kept.step (kept_dropObj _ _)
    | with_reducible refine Kept.foldl (fun _ _ => ?_) ?_
    | with_reducible (show Kept _ _ _; refine Kept.mk ?_)
    | split
    | dsimp only

theorem kept_stageBatch (s t : State) (uid : Nat) (b b' : Batch) (h : s.stageBatch uid b = .ok (t, b')) : Kept 0x60002 s t := by
  unfold State.stageBatch at h
  have h0 : ∀ n, Kept 0x60002 s ((if n = 0 then (s, 0, 0) else s.allocate (s.set.cur.top uid) 0 n (s.set.cur.batchPool uid).toList) : State × Nat × Nat).1 := by
    intro n
    split
    · exact Kept.refl _ _
    · exact (kept_allocate _ _ _ _ _).mono (by decide)
  have h0 := h0 (ceilDiv (b.lanes.length * b.laneBytes) 4096)
  simp only [] at h
  generalize (if ceilDiv (b.lanes.length * b.laneBytes) 4096 = 0 then (s, 0, 0) else s.allocate (s.set.cur.top uid) 0 (ceilDiv (b.lanes.length * b.laneBytes) 4096) (s.set.cur.batchPool uid).toList : State × Nat × Nat) = x at h h0
  obtain ⟨s1, hh, st⟩ := x
  have h1 : ∀ l : List Nat, Kept 0x60002 s (l.foldl (fun s j => s.objWrite hh (j * b.laneBytes) (List.replicate 128 0)) s1) := fun l =>
    Kept.foldl (fun _ _ => (kept_objWrite _ _ _ _).mono (by decide)) h0
  dsimp only at h
  by_cases hst : st ≠ 0
  · rw [if_pos hst] at h
    exact nomatch h
  · rw [if_neg hst] at h
    injection h with h
    rw [Prod.mk.injEq] at h
    obtain ⟨h, -⟩ := h
    subst h
    split
    · exact Kept.of (kept_memWrite _ _ _) (h1 _)
    · exact h1 _


theorem kept_beginSlice (s : State) (uid : Nat) (h : Header) (batch : Option Batch) (replay : Bool) : Kept 0x30e0722862 s (State.beginSlice s uid h batch replay) := by
  unfold State.beginSlice
  repeat' first
    | decide
    | with_reducible exact Kept.refl _ _
    | with_reducible assumption
    | with_reducible refine Kept.ite ?_ ?_
    | with_reducible apply Kept.step (kept_updUnit _ _ _)
    | with_reducible apply Kept.step (kept_opReset _ _)
    | with_reducible apply Kept.step (kept_traceFrame _ _ _)
    | with_reducible (show Kept _ _ (State.updBead _ _ _); first | apply Kept.step (kept_updBead _ _ _) | (refine Kept.of (kept_updBead _ _ _ ?hf) ?_; case hf => (intro _ h; (try dsimp only); first | exact h | exact Bead.wf_spUndefine _ _ _ _ h | exact Bead.wf_spWrite _ _ _ h | exact Bead.wf_accUndefine _ _ _ _ (Bead.wf_spUndefine _ _ _ _ h) | exact Bead.wf_accUndefine _ _ _ _ h | (unfold Bead.accPut; exact h) | (unfold Bead.spMark; exact h) | exact Bead.wf_foldl (fun _ _ h => h) h | exact Bead.wf_foldl (fun _ _ h => Bead.wf_accPut _ _ _ _ _ h) h | exact Bead.wf_accUndefine _ _ _ _ (Bead.wf_foldl (fun _ _ h => Bead.wf_spUndefine _ _ _ _ h) h) | (repeat' split <;> exact h))))
    | with_reducible apply Kept.step (kept_opWait _ _ _ _)
    | with_reducible refine Kept.foldl (fun _ _ => ?_) ?_
    | with_reducible (show Kept _ _ _; refine Kept.mk ?_)
    | split
    | dsimp only

theorem kept_defer (s : State) (uid : Nat) : Kept 0x20e0200040 s (State.defer s uid) := by
  unfold State.defer
  repeat' first
    | decide
    | with_reducible exact Kept.refl _ _
    | with_reducible assumption
    | with_reducible refine Kept.ite ?_ ?_
    | with_reducible apply Kept.step (kept_raiseUG _ _ _ _ _ _)
    | with_reducible apply Kept.step (kept_updUnit _ _ _)
    | with_reducible apply Kept.step (kept_traceFrame _ _ _)
    | with_reducible (show Kept _ _ _; refine Kept.mk ?_)
    | split
    | dsimp only

theorem kept_startKept (s : State) (uid : Nat) (r : Replay) (replay : Bool) : Kept 0x30e0762862 s (State.startKept s uid r replay) := by
  unfold State.startKept
  repeat' first
    | decide
    | with_reducible exact Kept.refl _ _
    | with_reducible assumption
    | with_reducible refine Kept.ite ?_ ?_
    | with_reducible apply Kept.step (kept_raiseUG _ _ _ _ _ _)
    | with_reducible apply Kept.step (kept_updUnit _ _ _)
    | with_reducible apply Kept.step (kept_beginSlice _ _ _ _ _)
    | with_reducible refine Kept.trans ?_ ((kept_stageBatch _ _ _ _ _ ‹_ = Except.ok (_, _)›).mono (by decide))
    | with_reducible apply Kept.step (kept_raiseU _ _ _ _ _ _ _)
    | with_reducible (show Kept _ _ _; refine Kept.mk ?_)
    | split
    | dsimp only

theorem kept_admitService (s : State) (uid : Nat) (v : ServiceRec) : Kept 0x31e4766862 s (State.admitService s uid v) := by
  unfold State.admitService
  repeat' first
    | decide
    | with_reducible exact Kept.refl _ _
    | with_reducible assumption
    | with_reducible refine Kept.ite ?_ ?_
    | with_reducible apply Kept.step (kept_raiseUG _ _ _ _ _ _)
    | with_reducible apply Kept.step (kept_beginSlice _ _ _ _ _)
    | with_reducible apply Kept.step (kept_preWarm _ _)
    | with_reducible apply Kept.step (kept_missDeadlines _ _ _)
    | with_reducible refine Kept.trans ?_ ((kept_stageBatch _ _ _ _ _ ‹_ = Except.ok (_, _)›).mono (by decide))
    | with_reducible apply Kept.step (kept_raiseU _ _ _ _ _ _ _)
    | with_reducible apply Kept.step (kept_updSes _ _ _)
    | with_reducible refine Kept.foldl (fun _ _ => ?_) ?_
    | with_reducible (show Kept _ _ _; refine Kept.mk ?_)
    | split
    | dsimp only

theorem kept_tickS1 (s : State) (uid : Nat) : Kept 0x30e4722862 s (State.tickS1 s uid) := by
  unfold State.tickS1
  repeat' first
    | decide
    | with_reducible exact Kept.refl _ _
    | with_reducible assumption
    | with_reducible refine Kept.ite ?_ ?_
    | with_reducible apply Kept.step (kept_raiseUG _ _ _ _ _ _)
    | with_reducible apply Kept.step (kept_updUnit _ _ _)
    | with_reducible apply Kept.step (kept_beginSlice _ _ _ _ _)
    | with_reducible apply Kept.step (kept_preWarm _ _)
    | with_reducible (show Kept _ _ _; refine Kept.mk ?_)
    | split
    | dsimp only

theorem kept_tickUnit (s : State) (withheld : List Nat) (uid : Nat) : Kept 0x31e4766862 s (State.tickUnit s withheld uid) := by
  unfold State.tickUnit
  repeat' first
    | decide
    | with_reducible exact Kept.refl _ _
    | with_reducible assumption
    | with_reducible refine Kept.ite ?_ ?_
    | with_reducible apply Kept.step (kept_updSlice _ _ _)
    | with_reducible apply Kept.step (kept_defer _ _)
    | with_reducible apply Kept.step (kept_missDeadlines _ _ _)
    | with_reducible apply Kept.step (kept_raiseU _ _ _ _ _ _ _)
    | with_reducible apply Kept.step (kept_tickS1 _ _)
    | with_reducible apply Kept.step (kept_startKept _ _ _ _)
    | with_reducible apply Kept.step (kept_admitService _ _ _)
    | with_reducible (show Kept _ _ _; refine Kept.mk ?_)
    | split
    | dsimp only

theorem kept_resetPerFrame (s : State) : Kept 0x20c0722822 s (State.resetPerFrame s) := by
  unfold State.resetPerFrame
  repeat' first
    | decide
    | with_reducible exact Kept.refl _ _
    | with_reducible assumption
    | with_reducible refine Kept.ite ?_ ?_
    | with_reducible apply Kept.step (kept_opReset _ _)
    | with_reducible refine Kept.foldl (fun _ _ => ?_) ?_
    | with_reducible (show Kept _ _ _; refine Kept.mk ?_)
    | split
    | dsimp only

theorem kept_guarShort (s : State) : Kept 0x20c0200000 s (State.guarShort s) := by
  unfold State.guarShort
  repeat' first
    | decide
    | with_reducible exact Kept.refl _ _
    | with_reducible assumption
    | with_reducible refine Kept.ite ?_ ?_
    | with_reducible apply Kept.step (kept_raiseU _ _ _ _ _ _ _)
    | with_reducible apply Kept.step (kept_raiseG _ _ _ _ _ _)
    | with_reducible refine Kept.foldl (fun _ _ => ?_) ?_
    | with_reducible (show Kept _ _ _; refine Kept.mk ?_)
    | split
    | dsimp only

theorem kept_fixLength (s : State) : Kept 0x2040200010 s (State.fixLength s) := by
  unfold State.fixLength
  repeat' first
    | decide
    | with_reducible exact Kept.refl _ _
    | with_reducible assumption
    | with_reducible refine Kept.ite ?_ ?_
    | with_reducible apply Kept.step (kept_raiseG _ _ _ _ _ _)
    | with_reducible (show Kept _ _ _; refine Kept.mk ?_)
    | split
    | dsimp only

theorem kept_snapshot (s : State) : Kept 0x21020 s (s.snapshot) :=
  Kept.mk (Kept.refl _ _) (hs := fun h => by rw [List.all_map]; exact h)


theorem kept_openFrame (s : State) (t : Nat) : Kept 0x10 s (State.openFrame s t) := by
  unfold State.openFrame
  repeat' first
    | decide
    | with_reducible exact Kept.refl _ _
    | with_reducible assumption
    | with_reducible refine Kept.ite ?_ ?_
    | with_reducible (show Kept _ _ _; refine Kept.mk ?_)
    | split
    | dsimp only

theorem kept_tick (s : State) (t : Nat) : Kept 0x37e676f87f s (State.tick s t) := by
  unfold State.tick
  repeat' first
    | decide
    | with_reducible exact Kept.refl _ _
    | with_reducible assumption
    | with_reducible refine Kept.ite ?_ ?_
    | with_reducible apply Kept.step (kept_at _ _)
    | with_reducible apply Kept.step (kept_openFrame _ _)
    | with_reducible apply Kept.step (kept_traceFrame _ _ _)
    | with_reducible apply Kept.step (kept_snapshot _)
    | with_reducible apply Kept.step (kept_tickLoad _)
    | with_reducible apply Kept.step (kept_fixLength _)
    | with_reducible apply Kept.step (kept_emit _ _)
    | with_reducible apply Kept.step (kept_pwrTick _)
    | with_reducible apply Kept.step (kept_guarShort _)
    | with_reducible apply Kept.step (kept_rasTick _)
    | with_reducible apply Kept.step (kept_resetPerFrame _)
    | with_reducible apply Kept.step (kept_tickUnit _ _ _)
    | with_reducible refine Kept.foldl (fun _ _ => ?_) ?_
    | with_reducible (show Kept _ _ _; refine Kept.mk ?_)
    | split
    | dsimp only

theorem kept_guardHold (s : State) (uid : Nat) (sl : Slice) : Kept 0x20a0240860 s (State.guardHold s uid sl) := by
  unfold State.guardHold
  repeat' first
    | decide
    | with_reducible exact Kept.refl _ _
    | with_reducible assumption
    | with_reducible refine Kept.ite ?_ ?_
    | with_reducible apply Kept.step (kept_withdrawBead _ _)
    | with_reducible (show Kept _ _ (State.updBead _ _ _); first | apply Kept.step (kept_updBead _ _ _) | (refine Kept.of (kept_updBead _ _ _ ?hf) ?_; case hf => (intro _ h; (try dsimp only); first | exact h | exact Bead.wf_spUndefine _ _ _ _ h | exact Bead.wf_spWrite _ _ _ h | exact Bead.wf_accUndefine _ _ _ _ (Bead.wf_spUndefine _ _ _ _ h) | exact Bead.wf_accUndefine _ _ _ _ h | (unfold Bead.accPut; exact h) | (unfold Bead.spMark; exact h) | exact Bead.wf_foldl (fun _ _ h => h) h | exact Bead.wf_foldl (fun _ _ h => Bead.wf_accPut _ _ _ _ _ h) h | exact Bead.wf_accUndefine _ _ _ _ (Bead.wf_foldl (fun _ _ h => Bead.wf_spUndefine _ _ _ _ h) h) | (repeat' split <;> exact h))))
    | with_reducible apply Kept.step (kept_dropObj _ _)
    | with_reducible apply Kept.step (kept_updUnit _ _ _)
    | with_reducible apply Kept.step (kept_raiseU _ _ _ _ _ _ _)
    | with_reducible apply Kept.step (kept_traceFrame _ _ _)
    | with_reducible refine Kept.foldl (fun _ _ => ?_) ?_
    | with_reducible (show Kept _ _ _; refine Kept.mk ?_)
    | split
    | dsimp only

theorem kept_signalStart (s : State) (uid t : Nat) (sl : Slice) : Kept 0x20c4722862 s (State.signalStart s uid t sl) := by
  unfold State.signalStart
  repeat' first
    | decide
    | with_reducible exact Kept.refl _ _
    | with_reducible assumption
    | with_reducible refine Kept.ite ?_ ?_
    | with_reducible apply Kept.step (kept_updSlice _ _ _)
    | with_reducible apply Kept.step (kept_tellFed _ _ _ _)
    | with_reducible apply Kept.step (kept_updFed _ _ _)
    | with_reducible apply Kept.step (kept_opSignal _ _ _)
    | with_reducible (show Kept _ _ _; refine Kept.mk ?_)
    | split
    | dsimp only

theorem kept_startSlice (s : State) (uid t : Nat) : Kept 0x21e4762fe2 s (State.startSlice s uid t) := by
  unfold State.startSlice
  repeat' first
    | decide
    | with_reducible exact Kept.refl _ _
    | with_reducible assumption
    | with_reducible refine Kept.ite ?_ ?_
    | with_reducible apply Kept.step (kept_guardHold _ _ _)
    | with_reducible apply Kept.step (kept_signalStart _ _ _ _)
    | with_reducible apply Kept.step (kept_raiseU _ _ _ _ _ _ _)
    | with_reducible apply Kept.step (kept_noteLoose _ _ _)
    | with_reducible apply Kept.step (kept_failSlice _ _ _ _)
    | with_reducible apply Kept.step (kept_fedLocal _ _ _)
    | with_reducible (show Kept _ _ _; refine Kept.mk ?_)
    | split
    | dsimp only

theorem kept_execFrameTick (t : Nat) (s : State) : ∀ t', execFrameTick t s = .next t' → Kept 0x37e676f87f s t' := by
  intro t2 h
  unfold execFrameTick at h
  refine kept_unlessDown h (fun t2 h => ?_)
  injection h with h; subst h
  repeat' first
    | decide
    | with_reducible exact Kept.refl _ _
    | with_reducible assumption
    | with_reducible refine Kept.ite ?_ ?_
    | with_reducible apply Kept.step (kept_tick _ _)
    | with_reducible (show Kept _ _ _; refine Kept.mk ?_)
    | split
    | dsimp only

theorem kept_execSliceStart (uid t : Nat) (s : State) : ∀ t', execSliceStart uid t s = .next t' → Kept 0x21e4762fe3 s t' := by
  intro t2 h
  unfold execSliceStart at h
  refine kept_unlessDown h (fun t2 h => ?_)
  injection h with h; subst h
  repeat' first
    | decide
    | with_reducible exact Kept.refl _ _
    | with_reducible assumption
    | with_reducible refine Kept.ite ?_ ?_
    | with_reducible apply Kept.step (kept_at _ _)
    | with_reducible apply Kept.step (kept_startSlice _ _ _)
    | with_reducible (show Kept _ _ _; refine Kept.mk ?_)
    | split
    | dsimp only

theorem kept_fsyncEdge (s : State) (t : Nat) : Kept 0x2040200010 s (State.fsyncEdge s t) := by
  unfold State.fsyncEdge
  repeat' first
    | decide
    | with_reducible exact Kept.refl _ _
    | with_reducible assumption
    | with_reducible refine Kept.ite ?_ ?_
    | with_reducible apply Kept.step (kept_raiseG _ _ _ _ _ _)
    | with_reducible (show Kept _ _ _; refine Kept.mk ?_)
    | split
    | dsimp only

theorem kept_execFsyncInEdge (t : Nat) (s : State) : ∀ t', execFsyncInEdge t s = .next t' → Kept 0x2040200011 s t' := by
  intro t2 h
  unfold execFsyncInEdge at h
  refine kept_unlessDown h (fun t2 h => ?_)
  injection h with h; subst h
  repeat' first
    | decide
    | with_reducible exact Kept.refl _ _
    | with_reducible assumption
    | with_reducible refine Kept.ite ?_ ?_
    | with_reducible apply Kept.step (kept_at _ _)
    | with_reducible apply Kept.step (kept_fsyncEdge _ _)
    | with_reducible (show Kept _ _ _; refine Kept.mk ?_)
    | split
    | dsimp only

theorem kept_execFrmSyncLost (s : State) : ∀ t', execFrmSyncLost s = .next t' → Kept 0x2040200010 s t' := by
  intro t2 h
  unfold execFrmSyncLost at h
  refine kept_unlessDown h (fun t2 h => ?_)
  injection h with h; subst h
  repeat' first
    | decide
    | with_reducible exact Kept.refl _ _
    | with_reducible assumption
    | with_reducible refine Kept.ite ?_ ?_
    | with_reducible apply Kept.step (kept_raiseG _ _ _ _ _ _)
    | with_reducible (show Kept _ _ _; refine Kept.mk ?_)
    | split
    | dsimp only

end Sys2Proof.Machine
end

