-- ==== Sys2Proof/Laws/KeptMemory.lean ====
section
/-! SUPPORT. What the operations of Machine/Memory.lean may touch. -/

set_option Elab.async false
set_option linter.unusedTactic false
set_option linter.unreachableTactic false

namespace Sys2Proof.Machine

theorem kept_tellOwners (s : State) (us : List Nat) (status arg src : Nat) : Kept 0x20c0200000 s (State.tellOwners s us status arg src) := by
  unfold State.tellOwners
  repeat' first
    | decide
    | with_reducible exact Kept.refl _ _
    | with_reducible assumption
    | with_reducible refine Kept.ite ?_ ?_
    | with_reducible apply Kept.step (kept_raiseU _ _ _ _ _ _ _)
    | with_reducible apply Kept.step (kept_raiseG _ _ _ _ _ _)
    | with_reducible refine Kept.foldl (fun _ _ => ?_) ?_
    | with_reducible (show Kept _ _ _; refine Kept.mk ?_)
    | split
    | dsimp only

theorem kept_holePage (s : State) (kind f : Nat) : Kept 0x40000 s (State.holePage s kind f) := by
  unfold State.holePage
  repeat' first
    | decide
    | with_reducible exact Kept.refl _ _
    | with_reducible assumption
    | with_reducible refine Kept.ite ?_ ?_
    | with_reducible apply Kept.step (kept_setPage _ _ _)
    | with_reducible apply Kept.step (kept_retirePage _ _)
    | with_reducible (show Kept _ _ _; refine Kept.mk ?_)
    | split
    | dsimp only

theorem kept_holePages (s : State) (k pc : Nat) : Kept 0x40000 s (State.holePages s k pc) := by
  unfold State.holePages
  repeat' first
    | decide
    | with_reducible exact Kept.refl _ _
    | with_reducible assumption
    | with_reducible refine Kept.ite ?_ ?_
    | with_reducible apply Kept.step (kept_holePage _ _ _)
    | with_reducible refine Kept.foldl (fun _ _ => ?_) ?_
    | with_reducible (show Kept _ _ _; refine Kept.mk ?_)
    | split
    | dsimp only

theorem kept_retirePc (s : State) (k pc : Nat) : Kept 0x20c0260004 s (State.retirePc s k pc) := by
  unfold State.retirePc
  repeat' first
    | decide
    | with_reducible exact Kept.refl _ _
    | with_reducible assumption
    | with_reducible refine Kept.ite ?_ ?_
    | with_reducible apply Kept.step (kept_holePages _ _ _)
    | with_reducible apply Kept.step (kept_raiseU _ _ _ _ _ _ _)
    | with_reducible apply Kept.step (kept_raiseG _ _ _ _ _ _)
    | with_reducible refine Kept.foldl (fun _ _ => ?_) ?_
    | with_reducible (show Kept _ _ _; refine Kept.mk ?_)
    | split
    | dsimp only

theorem kept_losePages (s : State) (fs : List Nat) : Kept 0x40000 s (State.losePages s fs) := by
  unfold State.losePages
  repeat' first
    | decide
    | with_reducible exact Kept.refl _ _
    | with_reducible assumption
    | with_reducible refine Kept.ite ?_ ?_
    | with_reducible apply Kept.step (kept_setPage _ _ _)
    | with_reducible apply Kept.step (kept_retirePage _ _)
    | with_reducible apply Kept.step (kept_dropLists _)
    | with_reducible refine Kept.foldl (fun _ _ => ?_) ?_
    | with_reducible (show Kept _ _ _; refine Kept.mk ?_)
    | split
    | dsimp only

theorem kept_loseRecords (s : State) (o : Nat) : Kept 0xc0000000 s (State.loseRecords s o) := by
  unfold State.loseRecords
  repeat' first
    | decide
    | with_reducible exact Kept.refl _ _
    | with_reducible assumption
    | with_reducible refine Kept.ite ?_ ?_
    | with_reducible (show Kept _ _ _; refine Kept.mk ?_)
    | split
    | dsimp only

theorem kept_reserveError (s : State) (pa : Nat) : Kept 0x21c074c042 s (State.reserveError s pa) := by
  unfold State.reserveError
  repeat' first
    | decide
    | with_reducible exact Kept.refl _ _
    | with_reducible assumption
    | with_reducible refine Kept.ite ?_ ?_
    | with_reducible apply Kept.step (kept_losePages _ _)
    | with_reducible apply Kept.step (kept_closeSes _ _ _ _)
    | with_reducible apply Kept.step (kept_loseRecords _ _)
    | with_reducible (show Kept _ _ _; refine Kept.mk ?_)
    | split
    | dsimp only

theorem kept_noteUe (s : State) (pa : Nat) : Kept 0x20c0260004 s (State.noteUe s pa) := by
  unfold State.noteUe
  repeat' first
    | decide
    | with_reducible exact Kept.refl _ _
    | with_reducible assumption
    | with_reducible refine Kept.ite ?_ ?_
    | with_reducible apply Kept.step (kept_retirePc _ _ _)
    | with_reducible (show Kept _ _ _; refine Kept.mk ?_)
    | split
    | dsimp only

theorem kept_noteCe (s : State) (pa : Nat) : Kept 0x2040220000 s (State.noteCe s pa) := by
  unfold State.noteCe
  repeat' first
    | decide
    | with_reducible exact Kept.refl _ _
    | with_reducible assumption
    | with_reducible refine Kept.ite ?_ ?_
    | with_reducible apply Kept.step (kept_raiseG _ _ _ _ _ _)
    | with_reducible (show Kept _ _ _; refine Kept.mk ?_)
    | split
    | dsimp only

theorem kept_readMeets (s : State) (src pa : Nat) (e : MemErr) : Kept 0x21c076c046 s (State.readMeets s src pa e) := by
  unfold State.readMeets
  repeat' first
    | decide
    | with_reducible exact Kept.refl _ _
    | with_reducible assumption
    | with_reducible refine Kept.ite ?_ ?_
    | with_reducible apply Kept.step (kept_noteCe _ _)
    | with_reducible apply Kept.step (kept_memMark _ _ _)
    | with_reducible apply Kept.step (kept_raiseU _ _ _ _ _ _ _)
    | with_reducible apply Kept.step (kept_raiseG _ _ _ _ _ _)
    | with_reducible apply Kept.step (kept_noteUe _ _)
    | with_reducible apply Kept.step (kept_reserveError _ _)
    | with_reducible (show Kept _ _ _; refine Kept.mk ?_)
    | split
    | dsimp only

theorem kept_scrubPage (s : State) (pa : Nat) : Kept 0x40000 s (State.scrubPage s pa) := by
  unfold State.scrubPage
  repeat' first
    | decide
    | with_reducible exact Kept.refl _ _
    | with_reducible assumption
    | with_reducible refine Kept.ite ?_ ?_
    | with_reducible apply Kept.step (kept_retirePage _ _)
    | with_reducible apply Kept.step (kept_setPage _ _ _)
    | with_reducible (show Kept _ _ _; refine Kept.mk ?_)
    | split
    | dsimp only

theorem kept_scrub (s : State) (k line : Nat) (e : MemErr) : Kept 0x21c076c046 s (State.scrub s k line e) := by
  unfold State.scrub
  repeat' first
    | decide
    | with_reducible exact Kept.refl _ _
    | with_reducible assumption
    | with_reducible refine Kept.ite ?_ ?_
    | with_reducible apply Kept.step (kept_noteCe _ _)
    | with_reducible apply Kept.step (kept_memMark _ _ _)
    | with_reducible apply Kept.step (kept_tellOwners _ _ _ _ _)
    | with_reducible apply Kept.step (kept_scrubPage _ _)
    | with_reducible apply Kept.step (kept_noteUe _ _)
    | with_reducible apply Kept.step (kept_reserveError _ _)
    | with_reducible apply Kept.step (kept_raiseG _ _ _ _ _ _)
    | with_reducible (show Kept _ _ _; refine Kept.mk ?_)
    | split
    | dsimp only

theorem kept_execScrubLine (stack line : Nat) (e : MemErr) (s : State) : ∀ t', execScrubLine stack line e s = .next t' → Kept 0x21c076c046 s t' := by
  intro t2 h
  unfold execScrubLine at h
  refine kept_unlessDown h (fun t2 h => ?_)
  injection h with h; subst h
  repeat' first
    | decide
    | with_reducible exact Kept.refl _ _
    | with_reducible assumption
    | with_reducible refine Kept.ite ?_ ?_
    | with_reducible apply Kept.step (kept_scrub _ _ _ _)
    | with_reducible (show Kept _ _ _; refine Kept.mk ?_)
    | split
    | dsimp only

theorem kept_sramBad (s : State) (die : Nat) (g : Nat × Nat) : Kept 0x20c0220020 s (State.sramBad s die g) := by
  unfold State.sramBad
  repeat' first
    | decide
    | with_reducible exact Kept.refl _ _
    | with_reducible assumption
    | with_reducible refine Kept.ite ?_ ?_
    | with_reducible (show Kept _ _ (State.updBead _ _ _); first | apply Kept.step (kept_updBead _ _ _) | (refine Kept.of (kept_updBead _ _ _ ?hf) ?_; case hf => (intro _ h; (try dsimp only); first | exact h | exact Bead.wf_spUndefine _ _ _ _ h | exact Bead.wf_spWrite _ _ _ h | exact Bead.wf_accUndefine _ _ _ _ (Bead.wf_spUndefine _ _ _ _ h) | exact Bead.wf_accUndefine _ _ _ _ h | (unfold Bead.accPut; exact h) | (unfold Bead.spMark; exact h) | exact Bead.wf_foldl (fun _ _ h => h) h | exact Bead.wf_foldl (fun _ _ h => Bead.wf_accPut _ _ _ _ _ h) h | exact Bead.wf_accUndefine _ _ _ _ (Bead.wf_foldl (fun _ _ h => Bead.wf_spUndefine _ _ _ _ h) h) | (repeat' split <;> exact h))))
    | with_reducible apply Kept.step (kept_tellOwners _ _ _ _ _)
    | with_reducible apply Kept.step (kept_memMark _ _ _)
    | with_reducible (show Kept _ _ _; refine Kept.mk ?_)
    | split
    | dsimp only

theorem kept_execSramScrub (die : Die) (bad : List (Nat × Nat)) (s : State) : ∀ t', execSramScrub die bad s = .next t' → Kept 0x20c0220020 s t' := by
  intro t2 h
  unfold execSramScrub at h
  refine kept_unlessDown h (fun t2 h => ?_)
  injection h with h; subst h
  repeat' first
    | decide
    | with_reducible exact Kept.refl _ _
    | with_reducible assumption
    | with_reducible refine Kept.ite ?_ ?_
    | with_reducible apply Kept.step (kept_sramBad _ _ _)
    | with_reducible refine Kept.foldl (fun _ _ => ?_) ?_
    | with_reducible (show Kept _ _ _; refine Kept.mk ?_)
    | split
    | dsimp only

theorem kept_execPcRetire (stack : Fin 16) (pc : Fin 64) (s : State) : ∀ t', execPcRetire stack pc s = .next t' → Kept 0x20c0260004 s t' := by
  intro t2 h
  unfold execPcRetire at h
  refine kept_unlessDown h (fun t2 h => ?_)
  injection h with h; subst h
  repeat' first
    | decide
    | with_reducible exact Kept.refl _ _
    | with_reducible assumption
    | with_reducible refine Kept.ite ?_ ?_
    | with_reducible apply Kept.step (kept_retirePc _ _ _)
    | with_reducible (show Kept _ _ _; refine Kept.mk ?_)
    | split
    | dsimp only

theorem kept_execHbmRefresh2x (stack : Fin 16) (temp : Nat) (s : State) : ∀ t', execHbmRefresh2x stack temp s = .next t' → Kept 0x20000 s t' := by
  intro t2 h
  unfold execHbmRefresh2x at h
  refine kept_unlessDown h (fun t2 h => ?_)
  injection h with h; subst h
  repeat' first
    | decide
    | with_reducible exact Kept.refl _ _
    | with_reducible assumption
    | with_reducible refine Kept.ite ?_ ?_
    | with_reducible (show Kept _ _ _; refine Kept.mk ?_)
    | split
    | dsimp only

theorem kept_execHbmRefreshNormal (stack : Fin 16) (temp : Nat) (s : State) : ∀ t', execHbmRefreshNormal stack temp s = .next t' → Kept 0x20000 s t' := by
  intro t2 h
  unfold execHbmRefreshNormal at h
  refine kept_unlessDown h (fun t2 h => ?_)
  injection h with h; subst h
  repeat' first
    | decide
    | with_reducible exact Kept.refl _ _
    | with_reducible assumption
    | with_reducible refine Kept.ite ?_ ?_
    | with_reducible (show Kept _ _ _; refine Kept.mk ?_)
    | split
    | dsimp only

theorem kept_execStackSelfRefresh (stack : Fin 16) (s : State) : ∀ t', execStackSelfRefresh stack s = .next t' → Kept 0x20000 s t' := by
  intro t2 h
  unfold execStackSelfRefresh at h
  refine kept_unlessDown h (fun t2 h => ?_)
  injection h with h; subst h
  repeat' first
    | decide
    | with_reducible exact Kept.refl _ _
    | with_reducible assumption
    | with_reducible refine Kept.ite ?_ ?_
    | with_reducible (show Kept _ _ _; refine Kept.mk ?_)
    | split
    | dsimp only

theorem kept_bpmAllocReg (s : State) (w : Option Nat) (x : Nat) : Kept 0x100440002 s (State.bpmAllocReg s w x) := by
  unfold State.bpmAllocReg
  repeat' first
    | decide
    | with_reducible exact Kept.refl _ _
    | with_reducible assumption
    | with_reducible refine Kept.ite ?_ ?_
    | with_reducible apply Kept.step (kept_count _ _)
    | with_reducible apply Kept.step (kept_allocate _ _ _ _ _)
    | with_reducible refine Kept.fst_eq ‹_ = (_, _)› (Kept.of (kept_allocate _ _ _ _ _) ?_)
    | with_reducible refine Kept.fst_eq3 ‹_ = (_, _, _)› (Kept.of (kept_allocate _ _ _ _ _) ?_)
    | with_reducible apply Kept.step (kept_updWin _ _ _)
    | with_reducible (show Kept _ _ _; refine Kept.mk ?_)
    | split
    | dsimp only

theorem kept_bpmFreeReg (s : State) (w : Option Nat) (x : Nat) : Kept 0x2140640000 s (State.bpmFreeReg s w x) := by
  unfold State.bpmFreeReg
  repeat' first
    | decide
    | with_reducible exact Kept.refl _ _
    | with_reducible assumption
    | with_reducible refine Kept.ite ?_ ?_
    | with_reducible apply Kept.step (kept_count _ _)
    | with_reducible apply Kept.step (kept_freeObj _ _ _)
    | with_reducible refine Kept.fst_eq ‹_ = (_, _)› (Kept.of (kept_freeObj _ _ _) ?_)
    | with_reducible refine Kept.fst_eq3 ‹_ = (_, _, _)› (Kept.of (kept_freeObj _ _ _) ?_)
    | with_reducible apply Kept.step (kept_updWin _ _ _)
    | with_reducible (show Kept _ _ _; refine Kept.mk ?_)
    | split
    | dsimp only

theorem kept_execQuarantineEnd (pool : Nat) (s : State) : ∀ t', execQuarantineEnd pool s = .next t' → Kept 0x40000 s t' := by
  intro t2 h
  unfold execQuarantineEnd at h
  refine kept_unlessDown h (fun t2 h => ?_)
  injection h with h; subst h
  repeat' first
    | decide
    | with_reducible exact Kept.refl _ _
    | with_reducible assumption
    | with_reducible refine Kept.ite ?_ ?_
    | with_reducible apply Kept.step (kept_endQuarantine _ _)
    | with_reducible apply Kept.step (kept_dropLists _)
    | with_reducible refine Kept.foldl (fun _ _ => ?_) ?_
    | with_reducible (show Kept _ _ _; refine Kept.mk ?_)
    | split
    | dsimp only

end Sys2Proof.Machine
end

