-- ==== Sys2Proof/Laws/KeptInject.lean ====
section
/-! SUPPORT. What the operations of Machine/Inject.lean may touch. -/

set_option Elab.async false
set_option linter.unusedTactic false
set_option linter.unreachableTactic false

namespace Sys2Proof.Machine

theorem kept_inject (s : State) (ok : FiRec → Bool) : Kept 0x600100000 s (s.inject ok).1 := by
  unfold State.inject
  refine Kept.foldl_fst (fun u x => ?_) (Kept.refl _ _)
  split
  · exact Kept.refl _ _
  · dsimp only
    split
    · exact Kept.mk (Kept.refl _ _)
    · split
      · exact Kept.mk (Kept.refl _ _)
      · exact Kept.mk (Kept.refl _ _)


end Sys2Proof.Machine
end

