-- ==== Sys2Proof/Laws/KeptFederation.lean ====
section
/-! SUPPORT. What the operations of Machine/Federation.lean may touch. -/

set_option Elab.async false
set_option linter.unusedTactic false
set_option linter.unreachableTactic false

namespace Sys2Proof.Machine

theorem kept_tryForm (s : State) (f : FedRec) : Kept 0x20c0300002 s (State.tryForm s f) := by
  unfold State.tryForm
  repeat' first
    | decide
    | with_reducible exact Kept.refl _ _
    | with_reducible assumption
    | with_reducible refine Kept.ite ?_ ?_
    | with_reducible apply Kept.step (kept_raiseUG _ _ _ _ _ _)
    | with_reducible apply Kept.step (kept_tell _ _ _ _)
    | with_reducible apply Kept.step (kept_updFed _ _ _)
    | with_reducible refine Kept.foldl (fun _ _ => ?_) ?_
    | with_reducible (show Kept _ _ _; refine Kept.mk ?_)
    | split
    | dsimp only

theorem kept_dissolve (s : State) (f : FedRec) : Kept 0x21c0762fe2 s (State.dissolve s f) := by
  unfold State.dissolve
  repeat' first
    | decide
    | with_reducible exact Kept.refl _ _
    | with_reducible assumption
    | with_reducible refine Kept.ite ?_ ?_
    | with_reducible apply Kept.step (kept_raiseUG _ _ _ _ _ _)
    | with_reducible apply Kept.step (kept_updFed _ _ _)
    | with_reducible apply Kept.step (kept_noteLoose _ _ _)
    | with_reducible apply Kept.step (kept_failSlice _ _ _ _)
    | with_reducible apply Kept.step (kept_sendJoin _ _)
    | with_reducible (show Kept _ _ _; refine Kept.mk ?_)
    | split
    | dsimp only

theorem kept_fedJoin (s : State) (peer fedUid : Nat) (j : JoinBody) : Kept 0x21c0762fe2 s (State.fedJoin s peer fedUid j) := by
  unfold State.fedJoin
  repeat' first
    | decide
    | with_reducible exact Kept.refl _ _
    | with_reducible assumption
    | with_reducible refine Kept.ite ?_ ?_
    | with_reducible apply Kept.step (kept_dissolve _ _)
    | with_reducible apply Kept.step (kept_updFed _ _ _)
    | with_reducible apply Kept.step (kept_tryForm _ _)
    | with_reducible (show Kept _ _ _; refine Kept.mk ?_)
    | split
    | dsimp only

theorem kept_fedFormed (s : State) (peer fedUid version offset : Nat) : Kept 0x100000 s (State.fedFormed s peer fedUid version offset) := by
  unfold State.fedFormed
  repeat' first
    | decide
    | with_reducible exact Kept.refl _ _
    | with_reducible assumption
    | with_reducible refine Kept.ite ?_ ?_
    | with_reducible apply Kept.step (kept_updFed _ _ _)
    | with_reducible (show Kept _ _ _; refine Kept.mk ?_)
    | split
    | dsimp only

theorem kept_fedRetry (s : State) (fedUid : Nat) : Kept 0x20c0300002 s (State.fedRetry s fedUid) := by
  unfold State.fedRetry
  repeat' first
    | decide
    | with_reducible exact Kept.refl _ _
    | with_reducible assumption
    | with_reducible refine Kept.ite ?_ ?_
    | with_reducible apply Kept.step (kept_tryForm _ _)
    | with_reducible apply Kept.step (kept_sendJoin _ _)
    | with_reducible (show Kept _ _ _; refine Kept.mk ?_)
    | split
    | dsimp only

theorem kept_memberStart (s : State) (f : FedRec) (replay : Bool) : Kept 0x31e4762fe2 s (State.memberStart s f replay) := by
  unfold State.memberStart
  repeat' first
    | decide
    | with_reducible exact Kept.refl _ _
    | with_reducible assumption
    | with_reducible refine Kept.ite ?_ ?_
    | with_reducible apply Kept.step (kept_raiseUG _ _ _ _ _ _)
    | with_reducible apply Kept.step (kept_fedLocal _ _ _)
    | with_reducible apply Kept.step (kept_updUnit _ _ _)
    | with_reducible apply Kept.step (kept_beginSlice _ _ _ _ _)
    | with_reducible apply Kept.step (kept_signalStart _ _ _ _)
    | with_reducible (show Kept _ _ _; refine Kept.mk ?_)
    | split
    | dsimp only

theorem kept_fedStart (s : State) (peer fedUid epoch : Nat) (replay : Bool) : Kept 0x31e4762fe2 s (State.fedStart s peer fedUid epoch replay) := by
  unfold State.fedStart
  repeat' first
    | decide
    | with_reducible exact Kept.refl _ _
    | with_reducible assumption
    | with_reducible refine Kept.ite ?_ ?_
    | with_reducible apply Kept.step (kept_updFed _ _ _)
    | with_reducible apply Kept.step (kept_memberStart _ _ _)
    | with_reducible (show Kept _ _ _; refine Kept.mk ?_)
    | split
    | dsimp only

theorem kept_startWaiting (s : State) (f : FedRec) : Kept 0x31e4762fe2 s (State.startWaiting s f) := by
  unfold State.startWaiting
  repeat' first
    | decide
    | with_reducible exact Kept.refl _ _
    | with_reducible assumption
    | with_reducible refine Kept.ite ?_ ?_
    | with_reducible apply Kept.step (kept_updFed _ _ _)
    | with_reducible apply Kept.step (kept_memberStart _ _ _)
    | with_reducible (show Kept _ _ _; refine Kept.mk ?_)
    | split
    | dsimp only

theorem kept_fedReady (s : State) (peer fedUid epoch status : Nat) : Kept 0x21c0762fe2 s (State.fedReady s peer fedUid epoch status) := by
  unfold State.fedReady
  repeat' first
    | decide
    | with_reducible exact Kept.refl _ _
    | with_reducible assumption
    | with_reducible refine Kept.ite ?_ ?_
    | with_reducible apply Kept.step (kept_fedReport _ _ _ _)
    | with_reducible (show Kept _ _ _; refine Kept.mk ?_)
    | split
    | dsimp only

theorem kept_fedCommit (s : State) (peer fedUid epoch : Nat) : Kept 0x31e476efe2 s (State.fedCommit s peer fedUid epoch) := by
  unfold State.fedCommit
  repeat' first
    | decide
    | with_reducible exact Kept.refl _ _
    | with_reducible assumption
    | with_reducible refine Kept.ite ?_ ?_
    | with_reducible apply Kept.step (kept_commitNow _ _)
    | with_reducible apply Kept.step (kept_startWaiting _ _)
    | with_reducible (show Kept _ _ _; refine Kept.mk ?_)
    | split
    | dsimp only

theorem kept_fedAbort (s : State) (peer fedUid epoch status : Nat) : Kept 0x31e4762fe2 s (State.fedAbort s peer fedUid epoch status) := by
  unfold State.fedAbort
  repeat' first
    | decide
    | with_reducible exact Kept.refl _ _
    | with_reducible assumption
    | with_reducible refine Kept.ite ?_ ?_
    | with_reducible apply Kept.step (kept_noteLoose _ _ _)
    | with_reducible apply Kept.step (kept_failSlice _ _ _ _)
    | with_reducible apply Kept.step (kept_startWaiting _ _)
    | with_reducible (show Kept _ _ _; refine Kept.mk ?_)
    | split
    | dsimp only

theorem kept_remoteOp (s : State) (peer fedUid clasp op tag : Nat) : Kept 0x21c0722822 s (State.remoteOp s peer fedUid clasp op tag) := by
  unfold State.remoteOp
  repeat' first
    | decide
    | with_reducible exact Kept.refl _ _
    | with_reducible assumption
    | with_reducible refine Kept.ite ?_ ?_
    | with_reducible apply Kept.step (kept_refuseClasp _ _ _)
    | with_reducible apply Kept.step (kept_doSignal _ _ _ _)
    | with_reducible apply Kept.step (kept_doWait _ _ _ _)
    | with_reducible apply Kept.step (kept_doArrive _ _ _ _)
    | with_reducible apply Kept.step (kept_doReset _ _ _)
    | with_reducible apply Kept.step (kept_doFail _ _ _)
    | with_reducible (show Kept _ _ _; refine Kept.mk ?_)
    | split
    | dsimp only

theorem kept_remoteDone (s : State) (peer tag status : Nat) : Kept 0x100020 s (State.remoteDone s peer tag status) := by
  unfold State.remoteDone
  repeat' first
    | decide
    | with_reducible exact Kept.refl _ _
    | with_reducible assumption
    | with_reducible refine Kept.ite ?_ ?_
    | with_reducible (show Kept _ _ (State.updBead _ _ _); first | apply Kept.step (kept_updBead _ _ _) | (refine Kept.of (kept_updBead _ _ _ ?hf) ?_; case hf => (intro _ h; (try dsimp only); first | exact h | exact Bead.wf_spUndefine _ _ _ _ h | exact Bead.wf_spWrite _ _ _ h | exact Bead.wf_accUndefine _ _ _ _ (Bead.wf_spUndefine _ _ _ _ h) | exact Bead.wf_accUndefine _ _ _ _ h | (unfold Bead.accPut; exact h) | (unfold Bead.spMark; exact h) | exact Bead.wf_foldl (fun _ _ h => h) h | exact Bead.wf_foldl (fun _ _ h => Bead.wf_accPut _ _ _ _ _ h) h | exact Bead.wf_accUndefine _ _ _ _ (Bead.wf_foldl (fun _ _ h => Bead.wf_spUndefine _ _ _ _ h) h) | (repeat' split <;> exact h))))
    | with_reducible (show Kept _ _ _; refine Kept.mk ?_)
    | split
    | dsimp only

theorem kept_execClaspOp (peer fedUid clasp op tag _rank : Nat) (s : State) : ∀ t', execClaspOp peer fedUid clasp op tag _rank s = .next t' → Kept 0x21c0722822 s t' := by
  intro t2 h
  unfold execClaspOp at h
  refine kept_unlessDown h (fun t2 h => ?_)
  injection h with h; subst h
  repeat' first
    | decide
    | with_reducible exact Kept.refl _ _
    | with_reducible assumption
    | with_reducible refine Kept.ite ?_ ?_
    | with_reducible apply Kept.step (kept_remoteOp _ _ _ _ _ _)
    | with_reducible (show Kept _ _ _; refine Kept.mk ?_)
    | split
    | dsimp only

theorem kept_execClaspDone (peer tag status _counter : Nat) (s : State) : ∀ t', execClaspDone peer tag status _counter s = .next t' → Kept 0x100020 s t' := by
  intro t2 h
  unfold execClaspDone at h
  refine kept_unlessDown h (fun t2 h => ?_)
  injection h with h; subst h
  repeat' first
    | decide
    | with_reducible exact Kept.refl _ _
    | with_reducible assumption
    | with_reducible refine Kept.ite ?_ ?_
    | with_reducible apply Kept.step (kept_remoteDone _ _ _ _)
    | with_reducible (show Kept _ _ _; refine Kept.mk ?_)
    | split
    | dsimp only

theorem kept_execFedJoin (peer fedUid : Nat) (j : JoinBody) (s : State) : ∀ t', execFedJoin peer fedUid j s = .next t' → Kept 0x21c0762fe2 s t' := by
  intro t2 h
  unfold execFedJoin at h
  refine kept_unlessDown h (fun t2 h => ?_)
  injection h with h; subst h
  repeat' first
    | decide
    | with_reducible exact Kept.refl _ _
    | with_reducible assumption
    | with_reducible refine Kept.ite ?_ ?_
    | with_reducible apply Kept.step (kept_fedJoin _ _ _ _)
    | with_reducible (show Kept _ _ _; refine Kept.mk ?_)
    | split
    | dsimp only

theorem kept_execFedFormed (peer fedUid version offset : Nat) (s : State) : ∀ t', execFedFormed peer fedUid version offset s = .next t' → Kept 0x100000 s t' := by
  intro t2 h
  unfold execFedFormed at h
  refine kept_unlessDown h (fun t2 h => ?_)
  injection h with h; subst h
  repeat' first
    | decide
    | with_reducible exact Kept.refl _ _
    | with_reducible assumption
    | with_reducible refine Kept.ite ?_ ?_
    | with_reducible apply Kept.step (kept_fedFormed _ _ _ _ _)
    | with_reducible (show Kept _ _ _; refine Kept.mk ?_)
    | split
    | dsimp only

theorem kept_execFedRetry (fedUid : Nat) (s : State) : ∀ t', execFedRetry fedUid s = .next t' → Kept 0x20c0300002 s t' := by
  intro t2 h
  unfold execFedRetry at h
  refine kept_unlessDown h (fun t2 h => ?_)
  injection h with h; subst h
  repeat' first
    | decide
    | with_reducible exact Kept.refl _ _
    | with_reducible assumption
    | with_reducible refine Kept.ite ?_ ?_
    | with_reducible apply Kept.step (kept_fedRetry _ _)
    | with_reducible (show Kept _ _ _; refine Kept.mk ?_)
    | split
    | dsimp only

theorem kept_execFedStart (peer fedUid epoch _count : Nat) (replay : Bool) (s : State) : ∀ t', execFedStart peer fedUid epoch _count replay s = .next t' → Kept 0x31e4762fe2 s t' := by
  intro t2 h
  unfold execFedStart at h
  refine kept_unlessDown h (fun t2 h => ?_)
  injection h with h; subst h
  repeat' first
    | decide
    | with_reducible exact Kept.refl _ _
    | with_reducible assumption
    | with_reducible refine Kept.ite ?_ ?_
    | with_reducible apply Kept.step (kept_fedStart _ _ _ _ _)
    | with_reducible (show Kept _ _ _; refine Kept.mk ?_)
    | split
    | dsimp only

theorem kept_execFedReady (peer fedUid epoch status : Nat) (s : State) : ∀ t', execFedReady peer fedUid epoch status s = .next t' → Kept 0x21c0762fe2 s t' := by
  intro t2 h
  unfold execFedReady at h
  refine kept_unlessDown h (fun t2 h => ?_)
  injection h with h; subst h
  repeat' first
    | decide
    | with_reducible exact Kept.refl _ _
    | with_reducible assumption
    | with_reducible refine Kept.ite ?_ ?_
    | with_reducible apply Kept.step (kept_fedReady _ _ _ _ _)
    | with_reducible (show Kept _ _ _; refine Kept.mk ?_)
    | split
    | dsimp only

theorem kept_execFedCommit (peer fedUid epoch t : Nat) (s : State) : ∀ t', execFedCommit peer fedUid epoch t s = .next t' → Kept 0x31e476efe3 s t' := by
  intro t2 h
  unfold execFedCommit at h
  refine kept_unlessDown h (fun t2 h => ?_)
  injection h with h; subst h
  repeat' first
    | decide
    | with_reducible exact Kept.refl _ _
    | with_reducible assumption
    | with_reducible refine Kept.ite ?_ ?_
    | with_reducible apply Kept.step (kept_at _ _)
    | with_reducible apply Kept.step (kept_fedCommit _ _ _ _)
    | with_reducible (show Kept _ _ _; refine Kept.mk ?_)
    | split
    | dsimp only

theorem kept_execFedAbort (peer fedUid epoch status : Nat) (s : State) : ∀ t', execFedAbort peer fedUid epoch status s = .next t' → Kept 0x31e4762fe2 s t' := by
  intro t2 h
  unfold execFedAbort at h
  refine kept_unlessDown h (fun t2 h => ?_)
  injection h with h; subst h
  repeat' first
    | decide
    | with_reducible exact Kept.refl _ _
    | with_reducible assumption
    | with_reducible refine Kept.ite ?_ ?_
    | with_reducible apply Kept.step (kept_fedAbort _ _ _ _ _)
    | with_reducible (show Kept _ _ _; refine Kept.mk ?_)
    | split
    | dsimp only

end Sys2Proof.Machine
end

