-- ==== Sys2Proof/Laws/KeptNetwork.lean ====
section
/-! SUPPORT. What the operations of Machine/Network.lean may touch. -/

set_option Elab.async false
set_option linter.unusedTactic false
set_option linter.unreachableTactic false

namespace Sys2Proof.Machine

theorem kept_collsLost (s : State) (f : FedRec) : Kept 0x21c0762fe2 s (State.collsLost s f) := by
  unfold State.collsLost
  repeat' first
    | decide
    | with_reducible exact Kept.refl _ _
    | with_reducible assumption
    | with_reducible refine Kept.ite ?_ ?_
    | with_reducible apply Kept.step (kept_failColl _ _ _ _)
    | with_reducible (show Kept _ _ _; refine Kept.mk ?_)
    | split
    | dsimp only

theorem kept_losePeer (s : State) (p : Nat) : Kept 0x21c0762fe2 s (State.losePeer s p) := by
  unfold State.losePeer
  repeat' first
    | decide
    | with_reducible exact Kept.refl _ _
    | with_reducible assumption
    | with_reducible refine Kept.ite ?_ ?_
    | with_reducible apply Kept.step (kept_raiseG _ _ _ _ _ _)
    | with_reducible apply Kept.step (kept_resumeStalled _)
    | with_reducible (show Kept _ _ (State.updBead _ _ _); first | apply Kept.step (kept_updBead _ _ _) | (refine Kept.of (kept_updBead _ _ _ ?hf) ?_; case hf => (intro _ h; (try dsimp only); first | exact h | exact Bead.wf_spUndefine _ _ _ _ h | exact Bead.wf_spWrite _ _ _ h | exact Bead.wf_accUndefine _ _ _ _ (Bead.wf_spUndefine _ _ _ _ h) | exact Bead.wf_accUndefine _ _ _ _ h | (unfold Bead.accPut; exact h) | (unfold Bead.spMark; exact h) | exact Bead.wf_foldl (fun _ _ h => h) h | exact Bead.wf_foldl (fun _ _ h => Bead.wf_accPut _ _ _ _ _ h) h | exact Bead.wf_accUndefine _ _ _ _ (Bead.wf_foldl (fun _ _ h => Bead.wf_spUndefine _ _ _ _ h) h) | (repeat' split <;> exact h))))
    | with_reducible apply Kept.step (kept_collsLost _ _)
    | with_reducible apply Kept.step (kept_dissolve _ _)
    | with_reducible refine Kept.foldl (fun _ _ => ?_) ?_
    | with_reducible (show Kept _ _ _; refine Kept.mk ?_)
    | split
    | dsimp only

theorem kept_resend (s : State) (p v psn : Nat) : Kept 0x21c0762fe2 s (State.resend s p v psn) := by
  unfold State.resend
  repeat' first
    | decide
    | with_reducible exact Kept.refl _ _
    | with_reducible assumption
    | with_reducible refine Kept.ite ?_ ?_
    | with_reducible apply Kept.step (kept_losePeer _ _)
    | with_reducible apply Kept.step (kept_pickPath _ _)
    | with_reducible refine Kept.snd_eq ‹_ = (_, _)› (Kept.of (kept_pickPath _ _) ?_)
    | with_reducible apply Kept.step (kept_updPeer _ _ _)
    | with_reducible apply Kept.step (kept_putSeg _ _ _ _)
    | with_reducible (show Kept _ _ _; refine Kept.mk ?_)
    | split
    | dsimp only

theorem kept_resendPath (s : State) (p path : Nat) : Kept 0x21c0762fe2 s (State.resendPath s p path) := by
  unfold State.resendPath
  repeat' first
    | decide
    | with_reducible exact Kept.refl _ _
    | with_reducible assumption
    | with_reducible refine Kept.ite ?_ ?_
    | with_reducible apply Kept.step (kept_resend _ _ _ _)
    | with_reducible refine Kept.foldl (fun _ _ => ?_) ?_
    | with_reducible (show Kept _ _ _; refine Kept.mk ?_)
    | split
    | dsimp only

theorem kept_acked (s : State) (path : Nat) (g : Segment) : Kept 0x21c0762fe2 s (State.acked s path g) := by
  unfold State.acked
  repeat' first
    | decide
    | with_reducible exact Kept.refl _ _
    | with_reducible assumption
    | with_reducible refine Kept.ite ?_ ?_
    | with_reducible apply Kept.step (kept_updPeer _ _ _)
    | with_reducible apply Kept.step (kept_resend _ _ _ _)
    | with_reducible apply Kept.step (kept_pumpPeer _ _)
    | with_reducible refine Kept.foldl (fun _ _ => ?_) ?_
    | with_reducible (show Kept _ _ _; refine Kept.mk ?_)
    | split
    | dsimp only

theorem kept_sendAck (s : State) (p v : Nat) : Kept 0x2000100002 s (State.sendAck s p v) := by
  unfold State.sendAck
  repeat' first
    | decide
    | with_reducible exact Kept.refl _ _
    | with_reducible assumption
    | with_reducible refine Kept.ite ?_ ?_
    | with_reducible apply Kept.step (kept_pickPath _ _)
    | with_reducible refine Kept.snd_eq ‹_ = (_, _)› (Kept.of (kept_pickPath _ _) ?_)
    | with_reducible apply Kept.step (kept_putSeg _ _ _ _)
    | with_reducible (show Kept _ _ _; refine Kept.mk ?_)
    | split
    | dsimp only

theorem kept_vc0In (s : State) (p : Nat) (m : List Byte) : Kept 0x31e476efe2 s (State.vc0In s p m) := by
  unfold State.vc0In
  repeat' first
    | decide
    | with_reducible exact Kept.refl _ _
    | with_reducible assumption
    | with_reducible refine Kept.ite ?_ ?_
    | with_reducible apply Kept.step (kept_remoteOp _ _ _ _ _ _)
    | with_reducible apply Kept.step (kept_remoteDone _ _ _ _)
    | with_reducible apply Kept.step (kept_rxCollFail _ _ _ _ _)
    | with_reducible apply Kept.step (kept_fedJoin _ _ _ _)
    | with_reducible apply Kept.step (kept_fedFormed _ _ _ _ _)
    | with_reducible apply Kept.step (kept_fedStart _ _ _ _ _)
    | with_reducible apply Kept.step (kept_fedReady _ _ _ _ _)
    | with_reducible apply Kept.step (kept_fedCommit _ _ _ _)
    | with_reducible apply Kept.step (kept_fedAbort _ _ _ _ _)
    | with_reducible (show Kept _ _ _; refine Kept.mk ?_)
    | split
    | dsimp only

theorem kept_collIn (s : State) (p path : Nat) (m : List Byte) (pois : Nat) : Kept 0x21c0762fe2 s (State.collIn s p path m pois) := by
  unfold State.collIn
  repeat' first
    | decide
    | with_reducible exact Kept.refl _ _
    | with_reducible assumption
    | with_reducible refine Kept.ite ?_ ?_
    | with_reducible apply Kept.step (kept_rxColl _ _ _ _)
    | with_reducible refine Kept.fst_eq ‹_ = (_, _)› (Kept.of (kept_rxColl _ _ _ _) ?_)
    | with_reducible refine Kept.fst_eq3 ‹_ = (_, _, _)› (Kept.of (kept_rxColl _ _ _ _) ?_)
    | with_reducible apply Kept.step (kept_putCtl _ _ _ _ _ _)
    | with_reducible apply Kept.step (kept_tell _ _ _ _)
    | with_reducible (show Kept _ _ _; refine Kept.mk ?_)
    | split
    | dsimp only

theorem kept_message (s : State) (p path vc : Nat) (m : List Byte) (pois : Nat) : Kept 0x31e477efe2 s (State.message s p path vc m pois) := by
  unfold State.message
  repeat' first
    | decide
    | with_reducible exact Kept.refl _ _
    | with_reducible assumption
    | with_reducible refine Kept.ite ?_ ?_
    | with_reducible apply Kept.step (kept_vc0In _ _ _)
    | with_reducible apply Kept.step (kept_collIn _ _ _ _ _)
    | with_reducible apply Kept.step (kept_sesMessage _ _ _ _ _)
    | with_reducible refine Kept.foldl (fun _ _ => ?_) ?_
    | with_reducible (show Kept _ _ _; refine Kept.mk ?_)
    | split
    | dsimp only

theorem kept_deliverF (n : Nat) (s : State) (p path v : Nat) : Kept 0x31e477efe2 s (State.deliverF n s p path v) := by
  induction n generalizing s with
  | zero => exact Kept.refl _ _
  | succ n ih =>
    unfold State.deliverF
    repeat' first
    | decide
      | with_reducible exact Kept.refl _ _
      | with_reducible assumption
      | with_reducible apply Kept.step (ih _)
      | with_reducible refine Kept.ite ?_ ?_
      | with_reducible apply Kept.step (kept_updPeer _ _ _)
      | with_reducible apply Kept.step (kept_message _ _ _ _ _ _)
      | with_reducible (show Kept _ _ _; refine Kept.mk ?_)
      | split
      | dsimp only

theorem kept_dataIn (s : State) (path : Nat) (g : Segment) : Kept 0x31e477efe2 s (State.dataIn s path g) := by
  unfold State.dataIn
  repeat' first
    | decide
    | with_reducible exact Kept.refl _ _
    | with_reducible assumption
    | with_reducible refine Kept.ite ?_ ?_
    | with_reducible apply Kept.step (kept_acked _ _ _)
    | with_reducible apply Kept.step (kept_sendAck _ _ _)
    | with_reducible apply Kept.step (kept_updPeer _ _ _)
    | with_reducible apply Kept.step (kept_deliverF _ _ _ _ _)
    | with_reducible (show Kept _ _ _; refine Kept.mk ?_)
    | split
    | dsimp only

theorem kept_connect (s : State) (p : Nat) (h : HelloBody) (version : Nat) : Kept 0x2000100002 s (State.connect s p h version) := by
  unfold State.connect
  repeat' first
    | decide
    | with_reducible exact Kept.refl _ _
    | with_reducible assumption
    | with_reducible refine Kept.ite ?_ ?_
    | with_reducible apply Kept.step (kept_pumpPeer _ _)
    | with_reducible (show Kept _ _ _; refine Kept.mk ?_)
    | split
    | dsimp only

theorem kept_bye (s : State) (p path status : Nat) : Kept 0x2000000000 s (State.bye s p path status) := by
  unfold State.bye
  repeat' first
    | decide
    | with_reducible exact Kept.refl _ _
    | with_reducible assumption
    | with_reducible refine Kept.ite ?_ ?_
    | with_reducible apply Kept.step (kept_putCtl _ _ _ _ _ _)
    | with_reducible (show Kept _ _ _; refine Kept.mk ?_)
    | split
    | dsimp only

theorem kept_helloIn (s : State) (path : Nat) (g : Segment) (h : HelloBody) : Kept 0x2040300002 s (State.helloIn s path g h) := by
  unfold State.helloIn
  repeat' first
    | decide
    | with_reducible exact Kept.refl _ _
    | with_reducible assumption
    | with_reducible refine Kept.ite ?_ ?_
    | with_reducible apply Kept.step (kept_bye _ _ _ _)
    | with_reducible apply Kept.step (kept_raiseG _ _ _ _ _ _)
    | with_reducible apply Kept.step (kept_connect _ _ _ _)
    | with_reducible apply Kept.step (kept_putCtl _ _ _ _ _ _)
    | with_reducible (show Kept _ _ _; refine Kept.mk ?_)
    | split
    | dsimp only

theorem kept_helloAckIn (s : State) (g : Segment) (h : HelloBody) : Kept 0x2000100002 s (State.helloAckIn s g h) := by
  unfold State.helloAckIn
  repeat' first
    | decide
    | with_reducible exact Kept.refl _ _
    | with_reducible assumption
    | with_reducible refine Kept.ite ?_ ?_
    | with_reducible apply Kept.step (kept_connect _ _ _ _)
    | with_reducible (show Kept _ _ _; refine Kept.mk ?_)
    | split
    | dsimp only

theorem kept_byeIn (s : State) (p : Nat) : Kept 0x21c0762fe2 s (State.byeIn s p) := by
  unfold State.byeIn
  repeat' first
    | decide
    | with_reducible exact Kept.refl _ _
    | with_reducible assumption
    | with_reducible refine Kept.ite ?_ ?_
    | with_reducible apply Kept.step (kept_losePeer _ _)
    | with_reducible (show Kept _ _ _; refine Kept.mk ?_)
    | split
    | dsimp only

theorem kept_probeAcked (s : State) (p path : Nat) : Kept 0x100000 s (State.probeAcked s p path) := by
  unfold State.probeAcked
  repeat' first
    | decide
    | with_reducible exact Kept.refl _ _
    | with_reducible assumption
    | with_reducible refine Kept.ite ?_ ?_
    | with_reducible apply Kept.step (kept_updPeer _ _ _)
    | with_reducible (show Kept _ _ _; refine Kept.mk ?_)
    | split
    | dsimp only

theorem kept_rxLevel (s : State) (path : Nat) (f : Nat → Nat) : Kept 0x2000100000 s (State.rxLevel s path f) := by
  unfold State.rxLevel
  repeat' first
    | decide
    | with_reducible exact Kept.refl _ _
    | with_reducible assumption
    | with_reducible refine Kept.ite ?_ ?_
    | with_reducible apply Kept.step (kept_updPort _ _ _)
    | with_reducible apply Kept.step (kept_emit _ _)
    | with_reducible (show Kept _ _ _; refine Kept.mk ?_)
    | split
    | dsimp only

theorem kept_accept (s : State) (path : Nat) (g : Segment) : Kept 0x2000100000 s (State.accept s path g) := by
  unfold State.accept
  repeat' first
    | decide
    | with_reducible exact Kept.refl _ _
    | with_reducible assumption
    | with_reducible refine Kept.ite ?_ ?_
    | with_reducible apply Kept.step (kept_rxLevel _ _ _)
    | with_reducible (show Kept _ _ _; refine Kept.mk ?_)
    | split
    | dsimp only

theorem kept_frameIn (s : State) (path : Nat) (fcsOk crcOk ce : Bool) (prio : Nat) (g : Segment) : Kept 0x2600100000 s (State.frameIn s path fcsOk crcOk ce prio g) := by
  unfold State.frameIn
  repeat' first
    | decide
    | with_reducible exact Kept.refl _ _
    | with_reducible assumption
    | with_reducible refine Kept.ite ?_ ?_
    | with_reducible apply Kept.step (kept_updPort _ _ _)
    | with_reducible apply Kept.step (kept_inject _ _)
    | with_reducible refine Kept.fst_eq ‹_ = (_, _)› (Kept.of (kept_inject _ _) ?_)
    | with_reducible refine Kept.fst_eq3 ‹_ = (_, _, _)› (Kept.of (kept_inject _ _) ?_)
    | with_reducible apply Kept.step (kept_updPeer _ _ _)
    | with_reducible apply Kept.step (kept_accept _ _ _)
    | with_reducible refine Kept.foldl (fun _ _ => ?_) ?_
    | with_reducible (show Kept _ _ _; refine Kept.mk ?_)
    | split
    | dsimp only

theorem kept_takeSeg (s : State) (path : Nat) (g : Segment) : Kept 0x2000100000 s (State.takeSeg s path g) := by
  unfold State.takeSeg
  repeat' first
    | decide
    | with_reducible exact Kept.refl _ _
    | with_reducible assumption
    | with_reducible refine Kept.ite ?_ ?_
    | with_reducible apply Kept.step (kept_rxLevel _ _ _)
    | with_reducible (show Kept _ _ _; refine Kept.mk ?_)
    | split
    | dsimp only

theorem kept_ackIn (s : State) (path : Nat) (g : Segment) : Kept 0x21c0762fe2 s (State.ackIn s path g) := by
  unfold State.ackIn
  repeat' first
    | decide
    | with_reducible exact Kept.refl _ _
    | with_reducible assumption
    | with_reducible refine Kept.ite ?_ ?_
    | with_reducible apply Kept.step (kept_probeAcked _ _ _)
    | with_reducible apply Kept.step (kept_acked _ _ _)
    | with_reducible (show Kept _ _ _; refine Kept.mk ?_)
    | split
    | dsimp only

theorem kept_probeIn (s : State) (path : Nat) (g : Segment) : Kept 0x2000100000 s (State.probeIn s path g) := by
  unfold State.probeIn
  repeat' first
    | decide
    | with_reducible exact Kept.refl _ _
    | with_reducible assumption
    | with_reducible refine Kept.ite ?_ ?_
    | with_reducible apply Kept.step (kept_updPeer _ _ _)
    | with_reducible apply Kept.step (kept_putCtl _ _ _ _ _ _)
    | with_reducible (show Kept _ _ _; refine Kept.mk ?_)
    | split
    | dsimp only

theorem kept_earlyNakIn (s : State) (g : Segment) : Kept 0x2000000000 s (State.earlyNakIn s g) := by
  unfold State.earlyNakIn
  repeat' first
    | decide
    | with_reducible exact Kept.refl _ _
    | with_reducible assumption
    | with_reducible refine Kept.ite ?_ ?_
    | with_reducible apply Kept.step (kept_emit _ _)
    | with_reducible (show Kept _ _ _; refine Kept.mk ?_)
    | split
    | dsimp only

theorem kept_pathDown (s : State) (path : Nat) : Kept 0x21c0762fe2 s (State.pathDown s path) := by
  unfold State.pathDown
  repeat' first
    | decide
    | with_reducible exact Kept.refl _ _
    | with_reducible assumption
    | with_reducible refine Kept.ite ?_ ?_
    | with_reducible apply Kept.step (kept_updPort _ _ _)
    | with_reducible apply Kept.step (kept_raiseG _ _ _ _ _ _)
    | with_reducible apply Kept.step (kept_resendPath _ _ _)
    | with_reducible apply Kept.step (kept_losePeer _ _)
    | with_reducible refine Kept.foldl (fun _ _ => ?_) ?_
    | with_reducible (show Kept _ _ _; refine Kept.mk ?_)
    | split
    | dsimp only

theorem kept_suspect (s : State) (p path : Nat) : Kept 0x21c0762fe2 s (State.suspect s p path) := by
  unfold State.suspect
  repeat' first
    | decide
    | with_reducible exact Kept.refl _ _
    | with_reducible assumption
    | with_reducible refine Kept.ite ?_ ?_
    | with_reducible apply Kept.step (kept_updPeer _ _ _)
    | with_reducible apply Kept.step (kept_raiseG _ _ _ _ _ _)
    | with_reducible apply Kept.step (kept_resendPath _ _ _)
    | with_reducible apply Kept.step (kept_losePeer _ _)
    | with_reducible (show Kept _ _ _; refine Kept.mk ?_)
    | split
    | dsimp only

theorem kept_probe (s : State) (p path : Nat) : Kept 0x2000100000 s (State.probe s p path) := by
  unfold State.probe
  repeat' first
    | decide
    | with_reducible exact Kept.refl _ _
    | with_reducible assumption
    | with_reducible refine Kept.ite ?_ ?_
    | with_reducible apply Kept.step (kept_updPeer _ _ _)
    | with_reducible apply Kept.step (kept_putCtl _ _ _ _ _ _)
    | with_reducible (show Kept _ _ _; refine Kept.mk ?_)
    | split
    | dsimp only

theorem kept_pfc (s : State) (path : Nat) (on : Bool) : Kept 0x2000100002 s (State.pfc s path on) := by
  unfold State.pfc
  repeat' first
    | decide
    | with_reducible exact Kept.refl _ _
    | with_reducible assumption
    | with_reducible refine Kept.ite ?_ ?_
    | with_reducible apply Kept.step (kept_updPort _ _ _)
    | with_reducible apply Kept.step (kept_pumpPeer _ _)
    | with_reducible refine Kept.foldl (fun _ _ => ?_) ?_
    | with_reducible (show Kept _ _ _; refine Kept.mk ?_)
    | split
    | dsimp only

theorem kept_timeout (s : State) (p v psn : Nat) : Kept 0x21c0762fe2 s (State.timeout s p v psn) := by
  unfold State.timeout
  repeat' first
    | decide
    | with_reducible exact Kept.refl _ _
    | with_reducible assumption
    | with_reducible refine Kept.ite ?_ ?_
    | with_reducible apply Kept.step (kept_losePeer _ _)
    | with_reducible apply Kept.step (kept_resend _ _ _ _)
    | with_reducible (show Kept _ _ _; refine Kept.mk ?_)
    | split
    | dsimp only

theorem kept_execEthFrameRx (path : Fin 32) (fcsOk crcOk ce : Bool) (prio : Nat) (g : Segment) (s : State) : ∀ t', execEthFrameRx path fcsOk crcOk ce prio g s = .next t' → Kept 0x2600100000 s t' := by
  intro t2 h
  unfold execEthFrameRx at h
  refine kept_unlessDown h (fun t2 h => ?_)
  injection h with h; subst h
  repeat' first
    | decide
    | with_reducible exact Kept.refl _ _
    | with_reducible assumption
    | with_reducible refine Kept.ite ?_ ?_
    | with_reducible apply Kept.step (kept_frameIn _ _ _ _ _ _ _)
    | with_reducible (show Kept _ _ _; refine Kept.mk ?_)
    | split
    | dsimp only

theorem kept_execPfcPause (path : Fin 32) (on : Bool) (s : State) : ∀ t', execPfcPause path on s = .next t' → Kept 0x2000100002 s t' := by
  intro t2 h
  unfold execPfcPause at h
  refine kept_unlessDown h (fun t2 h => ?_)
  injection h with h; subst h
  repeat' first
    | decide
    | with_reducible exact Kept.refl _ _
    | with_reducible assumption
    | with_reducible refine Kept.ite ?_ ?_
    | with_reducible apply Kept.step (kept_pfc _ _ _)
    | with_reducible (show Kept _ _ _; refine Kept.mk ?_)
    | split
    | dsimp only

theorem kept_execData (path : Fin 32) (g : Segment) (s : State) : ∀ t', execData path g s = .next t' → Kept 0x31e477efe2 s t' := by
  intro t2 h
  unfold execData at h
  refine kept_unlessDown h (fun t2 h => ?_)
  injection h with h; subst h
  repeat' first
    | decide
    | with_reducible exact Kept.refl _ _
    | with_reducible assumption
    | with_reducible refine Kept.ite ?_ ?_
    | with_reducible apply Kept.step (kept_takeSeg _ _ _)
    | with_reducible apply Kept.step (kept_dataIn _ _ _)
    | with_reducible (show Kept _ _ _; refine Kept.mk ?_)
    | split
    | dsimp only

theorem kept_execAck (path : Fin 32) (g : Segment) (s : State) : ∀ t', execAck path g s = .next t' → Kept 0x21c0762fe2 s t' := by
  intro t2 h
  unfold execAck at h
  refine kept_unlessDown h (fun t2 h => ?_)
  injection h with h; subst h
  repeat' first
    | decide
    | with_reducible exact Kept.refl _ _
    | with_reducible assumption
    | with_reducible refine Kept.ite ?_ ?_
    | with_reducible apply Kept.step (kept_takeSeg _ _ _)
    | with_reducible apply Kept.step (kept_ackIn _ _ _)
    | with_reducible (show Kept _ _ _; refine Kept.mk ?_)
    | split
    | dsimp only

theorem kept_execHello (path : Fin 32) (g : Segment) (h : HelloBody) (s : State) : ∀ t', execHello path g h s = .next t' → Kept 0x2040300002 s t' := by
  intro t2 h
  unfold execHello at h
  refine kept_unlessDown h (fun t2 h => ?_)
  injection h with h; subst h
  repeat' first
    | decide
    | with_reducible exact Kept.refl _ _
    | with_reducible assumption
    | with_reducible refine Kept.ite ?_ ?_
    | with_reducible apply Kept.step (kept_takeSeg _ _ _)
    | with_reducible apply Kept.step (kept_helloIn _ _ _ _)
    | with_reducible (show Kept _ _ _; refine Kept.mk ?_)
    | split
    | dsimp only

theorem kept_execHelloAck (path : Fin 32) (g : Segment) (h : HelloBody) (s : State) : ∀ t', execHelloAck path g h s = .next t' → Kept 0x2000100002 s t' := by
  intro t2 h
  unfold execHelloAck at h
  refine kept_unlessDown h (fun t2 h => ?_)
  injection h with h; subst h
  repeat' first
    | decide
    | with_reducible exact Kept.refl _ _
    | with_reducible assumption
    | with_reducible refine Kept.ite ?_ ?_
    | with_reducible apply Kept.step (kept_takeSeg _ _ _)
    | with_reducible apply Kept.step (kept_helloAckIn _ _ _)
    | with_reducible (show Kept _ _ _; refine Kept.mk ?_)
    | split
    | dsimp only

theorem kept_execProbe (path : Fin 32) (g : Segment) (s : State) : ∀ t', execProbe path g s = .next t' → Kept 0x2000100000 s t' := by
  intro t2 h
  unfold execProbe at h
  refine kept_unlessDown h (fun t2 h => ?_)
  injection h with h; subst h
  repeat' first
    | decide
    | with_reducible exact Kept.refl _ _
    | with_reducible assumption
    | with_reducible refine Kept.ite ?_ ?_
    | with_reducible apply Kept.step (kept_takeSeg _ _ _)
    | with_reducible apply Kept.step (kept_probeIn _ _ _)
    | with_reducible (show Kept _ _ _; refine Kept.mk ?_)
    | split
    | dsimp only

theorem kept_execBye (path : Fin 32) (g : Segment) (s : State) : ∀ t', execBye path g s = .next t' → Kept 0x21c0762fe2 s t' := by
  intro t2 h
  unfold execBye at h
  refine kept_unlessDown h (fun t2 h => ?_)
  injection h with h; subst h
  repeat' first
    | decide
    | with_reducible exact Kept.refl _ _
    | with_reducible assumption
    | with_reducible refine Kept.ite ?_ ?_
    | with_reducible apply Kept.step (kept_takeSeg _ _ _)
    | with_reducible apply Kept.step (kept_byeIn _ _)
    | with_reducible (show Kept _ _ _; refine Kept.mk ?_)
    | split
    | dsimp only

theorem kept_execEarlyNak (path : Fin 32) (g : Segment) (s : State) : ∀ t', execEarlyNak path g s = .next t' → Kept 0x2000100000 s t' := by
  intro t2 h
  unfold execEarlyNak at h
  refine kept_unlessDown h (fun t2 h => ?_)
  injection h with h; subst h
  repeat' first
    | decide
    | with_reducible exact Kept.refl _ _
    | with_reducible assumption
    | with_reducible refine Kept.ite ?_ ?_
    | with_reducible apply Kept.step (kept_takeSeg _ _ _)
    | with_reducible apply Kept.step (kept_earlyNakIn _ _)
    | with_reducible (show Kept _ _ _; refine Kept.mk ?_)
    | split
    | dsimp only

theorem kept_execAckTimer (peer vc : Nat) (s : State) : ∀ t', execAckTimer peer vc s = .next t' → Kept 0x2000100002 s t' := by
  intro t2 h
  unfold execAckTimer at h
  refine kept_unlessDown h (fun t2 h => ?_)
  injection h with h; subst h
  repeat' first
    | decide
    | with_reducible exact Kept.refl _ _
    | with_reducible assumption
    | with_reducible refine Kept.ite ?_ ?_
    | with_reducible apply Kept.step (kept_sendAck _ _ _)
    | with_reducible (show Kept _ _ _; refine Kept.mk ?_)
    | split
    | dsimp only

theorem kept_execRetransmitTimeout (peer vc psn t : Nat) (s : State) : ∀ t', execRetransmitTimeout peer vc psn t s = .next t' → Kept 0x21c0762fe3 s t' := by
  intro t2 h
  unfold execRetransmitTimeout at h
  refine kept_unlessDown h (fun t2 h => ?_)
  injection h with h; subst h
  repeat' first
    | decide
    | with_reducible exact Kept.refl _ _
    | with_reducible assumption
    | with_reducible refine Kept.ite ?_ ?_
    | with_reducible apply Kept.step (kept_at _ _)
    | with_reducible apply Kept.step (kept_timeout _ _ _ _)
    | with_reducible (show Kept _ _ _; refine Kept.mk ?_)
    | split
    | dsimp only

theorem kept_execCongestionInterval (t : Nat) (s : State) : ∀ t', execCongestionInterval t s = .next t' → Kept 0x100001 s t' := by
  intro t2 h
  unfold execCongestionInterval at h
  refine kept_unlessDown h (fun t2 h => ?_)
  injection h with h; subst h
  repeat' first
    | decide
    | with_reducible exact Kept.refl _ _
    | with_reducible assumption
    | with_reducible refine Kept.ite ?_ ?_
    | with_reducible apply Kept.step (kept_at _ _)
    | with_reducible (show Kept _ _ _; refine Kept.mk ?_)
    | split
    | dsimp only

theorem kept_execNetPortDown (path : Fin 32) (s : State) : ∀ t', execNetPortDown path s = .next t' → Kept 0x21c0762fe2 s t' := by
  intro t2 h
  unfold execNetPortDown at h
  refine kept_unlessDown h (fun t2 h => ?_)
  injection h with h; subst h
  repeat' first
    | decide
    | with_reducible exact Kept.refl _ _
    | with_reducible assumption
    | with_reducible refine Kept.ite ?_ ?_
    | with_reducible apply Kept.step (kept_pathDown _ _)
    | with_reducible (show Kept _ _ _; refine Kept.mk ?_)
    | split
    | dsimp only

theorem kept_execNetPathSuspect (peer : Nat) (path : Fin 32) (s : State) : ∀ t', execNetPathSuspect peer path s = .next t' → Kept 0x21c0762fe2 s t' := by
  intro t2 h
  unfold execNetPathSuspect at h
  refine kept_unlessDown h (fun t2 h => ?_)
  injection h with h; subst h
  repeat' first
    | decide
    | with_reducible exact Kept.refl _ _
    | with_reducible assumption
    | with_reducible refine Kept.ite ?_ ?_
    | with_reducible apply Kept.step (kept_suspect _ _ _)
    | with_reducible (show Kept _ _ _; refine Kept.mk ?_)
    | split
    | dsimp only

theorem kept_execProbeTimer (peer : Nat) (path : Fin 32) (s : State) : ∀ t', execProbeTimer peer path s = .next t' → Kept 0x2000100000 s t' := by
  intro t2 h
  unfold execProbeTimer at h
  refine kept_unlessDown h (fun t2 h => ?_)
  injection h with h; subst h
  repeat' first
    | decide
    | with_reducible exact Kept.refl _ _
    | with_reducible assumption
    | with_reducible refine Kept.ite ?_ ?_
    | with_reducible apply Kept.step (kept_probe _ _ _)
    | with_reducible (show Kept _ _ _; refine Kept.mk ?_)
    | split
    | dsimp only

theorem kept_execPeerIdleRemove (peer t : Nat) (s : State) : ∀ t', execPeerIdleRemove peer t s = .next t' → Kept 0x2000100003 s t' := by
  intro t2 h
  unfold execPeerIdleRemove at h
  refine kept_unlessDown h (fun t2 h => ?_)
  injection h with h; subst h
  repeat' first
    | decide
    | with_reducible exact Kept.refl _ _
    | with_reducible assumption
    | with_reducible refine Kept.ite ?_ ?_
    | with_reducible apply Kept.step (kept_at _ _)
    | with_reducible apply Kept.step (kept_pickPath _ _)
    | with_reducible refine Kept.snd_eq ‹_ = (_, _)› (Kept.of (kept_pickPath _ _) ?_)
    | with_reducible apply Kept.step (kept_bye _ _ _ _)
    | with_reducible (show Kept _ _ _; refine Kept.mk ?_)
    | split
    | dsimp only

theorem kept_execPcsBlockLock (path : Fin 32) (s : State) : ∀ t', execPcsBlockLock path s = .next t' → Kept 0x2000100002 s t' := by
  intro t2 h
  unfold execPcsBlockLock at h
  refine kept_unlessDown h (fun t2 h => ?_)
  injection h with h; subst h
  repeat' first
    | decide
    | with_reducible exact Kept.refl _ _
    | with_reducible assumption
    | with_reducible refine Kept.ite ?_ ?_
    | with_reducible apply Kept.step (kept_updPort _ _ _)
    | with_reducible apply Kept.step (kept_pumpPeer _ _)
    | with_reducible refine Kept.foldl (fun _ _ => ?_) ?_
    | with_reducible (show Kept _ _ _; refine Kept.mk ?_)
    | split
    | dsimp only

end Sys2Proof.Machine
end

