-- ==== Sys2Proof/Laws/KeptPtp.lean ====
section
/-! SUPPORT. What the operations of Machine/Ptp.lean may touch. -/

set_option Elab.async false
set_option linter.unusedTactic false
set_option linter.unreachableTactic false

namespace Sys2Proof.Machine

theorem kept_updPtp (s : State) (f : Ptp → Ptp) : Kept 0x100000 s (State.updPtp s f) := by
  unfold State.updPtp
  repeat' first
    | decide
    | with_reducible exact Kept.refl _ _
    | with_reducible assumption
    | with_reducible refine Kept.ite ?_ ?_
    | with_reducible (show Kept _ _ _; refine Kept.mk ?_)
    | split
    | dsimp only

theorem kept_ptpGain (s : State) : Kept 0x2040300010 s (State.ptpGain s) := by
  unfold State.ptpGain
  repeat' first
    | decide
    | with_reducible exact Kept.refl _ _
    | with_reducible assumption
    | with_reducible refine Kept.ite ?_ ?_
    | with_reducible apply Kept.step (kept_updPtp _ _)
    | with_reducible apply Kept.step (kept_raiseG _ _ _ _ _ _)
    | with_reducible (show Kept _ _ _; refine Kept.mk ?_)
    | split
    | dsimp only

theorem kept_ptpLose (s : State) : Kept 0x2040300010 s (State.ptpLose s) := by
  unfold State.ptpLose
  repeat' first
    | decide
    | with_reducible exact Kept.refl _ _
    | with_reducible assumption
    | with_reducible refine Kept.ite ?_ ?_
    | with_reducible apply Kept.step (kept_updPtp _ _)
    | with_reducible apply Kept.step (kept_raiseG _ _ _ _ _ _)
    | with_reducible (show Kept _ _ _; refine Kept.mk ?_)
    | split
    | dsimp only

theorem kept_ptpSync (s : State) (master origin rx : Nat) : Kept 0x2040300012 s (State.ptpSync s master origin rx) := by
  unfold State.ptpSync
  repeat' first
    | decide
    | with_reducible exact Kept.refl _ _
    | with_reducible assumption
    | with_reducible refine Kept.ite ?_ ?_
    | with_reducible apply Kept.step (kept_fresh _)
    | with_reducible refine Kept.snd_eq ‹_ = (_, _)› (Kept.of (kept_fresh _) ?_)
    | with_reducible apply Kept.step (kept_updPtp _ _)
    | with_reducible apply Kept.step (kept_ptpGain _)
    | with_reducible apply Kept.step (kept_ptpLose _)
    | with_reducible (show Kept _ _ _; refine Kept.mk ?_)
    | split
    | dsimp only

theorem kept_execPtpSync (master origin rx : Nat) (s : State) : ∀ t', execPtpSync master origin rx s = .next t' → Kept 0x2040300012 s t' := by
  intro t2 h
  unfold execPtpSync at h
  refine kept_unlessDown h (fun t2 h => ?_)
  injection h with h; subst h
  repeat' first
    | decide
    | with_reducible exact Kept.refl _ _
    | with_reducible assumption
    | with_reducible refine Kept.ite ?_ ?_
    | with_reducible apply Kept.step (kept_ptpSync _ _ _ _)
    | with_reducible (show Kept _ _ _; refine Kept.mk ?_)
    | split
    | dsimp only

theorem kept_execPtpDelayResp (master reqTx respRx : Nat) (s : State) : ∀ t', execPtpDelayResp master reqTx respRx s = .next t' → Kept 0x100000 s t' := by
  intro t2 h
  unfold execPtpDelayResp at h
  refine kept_unlessDown h (fun t2 h => ?_)
  injection h with h; subst h
  repeat' first
    | decide
    | with_reducible exact Kept.refl _ _
    | with_reducible assumption
    | with_reducible refine Kept.ite ?_ ?_
    | with_reducible apply Kept.step (kept_updPtp _ _)
    | with_reducible (show Kept _ _ _; refine Kept.mk ?_)
    | split
    | dsimp only

theorem kept_execPtpAnnounce (master prio t : Nat) (s : State) : ∀ t', execPtpAnnounce master prio t s = .next t' → Kept 0x100001 s t' := by
  intro t2 h
  unfold execPtpAnnounce at h
  refine kept_unlessDown h (fun t2 h => ?_)
  injection h with h; subst h
  repeat' first
    | decide
    | with_reducible exact Kept.refl _ _
    | with_reducible assumption
    | with_reducible refine Kept.ite ?_ ?_
    | with_reducible apply Kept.step (kept_at _ _)
    | with_reducible apply Kept.step (kept_updPtp _ _)
    | with_reducible (show Kept _ _ _; refine Kept.mk ?_)
    | split
    | dsimp only

theorem kept_execPtpAnnounceTimeout (s : State) : ∀ t', execPtpAnnounceTimeout s = .next t' → Kept 0x2040300010 s t' := by
  intro t2 h
  unfold execPtpAnnounceTimeout at h
  refine kept_unlessDown h (fun t2 h => ?_)
  injection h with h; subst h
  repeat' first
    | decide
    | with_reducible exact Kept.refl _ _
    | with_reducible assumption
    | with_reducible refine Kept.ite ?_ ?_
    | with_reducible apply Kept.step (kept_updPtp _ _)
    | with_reducible apply Kept.step (kept_ptpLose _)
    | with_reducible (show Kept _ _ _; refine Kept.mk ?_)
    | split
    | dsimp only

theorem kept_execPpsInEdge (t : Nat) (s : State) : ∀ t', execPpsInEdge t s = .next t' → Kept 0x100001 s t' := by
  intro t2 h
  unfold execPpsInEdge at h
  refine kept_unlessDown h (fun t2 h => ?_)
  injection h with h; subst h
  repeat' first
    | decide
    | with_reducible exact Kept.refl _ _
    | with_reducible assumption
    | with_reducible refine Kept.ite ?_ ?_
    | with_reducible apply Kept.step (kept_at _ _)
    | with_reducible apply Kept.step (kept_updPtp _ _)
    | with_reducible (show Kept _ _ _; refine Kept.mk ?_)
    | split
    | dsimp only

end Sys2Proof.Machine
end

