-- ==== Sys2Proof/Laws/KeptFabric.lean ====
section
/-! SUPPORT. What the operations of Machine/Fabric.lean may touch. -/

set_option Elab.async false
set_option linter.unusedTactic false
set_option linter.unreachableTactic false

namespace Sys2Proof.Machine

theorem kept_arrive (s : State) (x : Xfer) : Kept 0x80000 s (State.arrive s x) := by
  unfold State.arrive
  repeat' first
    | decide
    | with_reducible exact Kept.refl _ _
    | with_reducible assumption
    | with_reducible refine Kept.ite ?_ ?_
    | with_reducible (show Kept _ _ _; refine Kept.mk ?_)
    | split
    | dsimp only

theorem kept_respond (s : State) (x : Xfer) : Kept 0x80000 s (State.respond s x) := by
  unfold State.respond
  repeat' first
    | decide
    | with_reducible exact Kept.refl _ _
    | with_reducible assumption
    | with_reducible refine Kept.ite ?_ ?_
    | with_reducible (show Kept _ _ _; refine Kept.mk ?_)
    | split
    | dsimp only

theorem kept_takeTag (s : State) (x : Xfer) : Kept 0x80000 s (State.takeTag s x) := by
  unfold State.takeTag
  repeat' first
    | decide
    | with_reducible exact Kept.refl _ _
    | with_reducible assumption
    | with_reducible refine Kept.ite ?_ ?_
    | with_reducible (show Kept _ _ _; refine Kept.mk ?_)
    | split
    | dsimp only

theorem kept_giveTag (s : State) (agent tag : Nat) : Kept 0x80000 s (State.giveTag s agent tag) := by
  unfold State.giveTag
  repeat' first
    | decide
    | with_reducible exact Kept.refl _ _
    | with_reducible assumption
    | with_reducible refine Kept.ite ?_ ?_
    | with_reducible (show Kept _ _ _; refine Kept.mk ?_)
    | split
    | dsimp only

theorem kept_abandon (s : State) (x : Xfer) : Kept 0x80000 s (State.abandon s x) := by
  unfold State.abandon
  repeat' first
    | decide
    | with_reducible exact Kept.refl _ _
    | with_reducible assumption
    | with_reducible refine Kept.ite ?_ ?_
    | with_reducible apply Kept.step (kept_giveTag _ _ _)
    | with_reducible (show Kept _ _ _; refine Kept.mk ?_)
    | split
    | dsimp only

theorem kept_toReset (s : State) (x : Xfer) (ack : Bool) : Kept 0x80000 s (State.toReset s x ack) := by
  unfold State.toReset
  repeat' first
    | decide
    | with_reducible exact Kept.refl _ _
    | with_reducible assumption
    | with_reducible refine Kept.ite ?_ ?_
    | with_reducible apply Kept.step (kept_respond _ _)
    | with_reducible (show Kept _ _ _; refine Kept.mk ?_)
    | split
    | dsimp only

theorem kept_rdAt (s : State) (x : Xfer) (e : MemErr) : Kept 0x21c07ec046 s (State.rdAt s x e) := by
  unfold State.rdAt
  repeat' first
    | decide
    | with_reducible exact Kept.refl _ _
    | with_reducible assumption
    | with_reducible refine Kept.ite ?_ ?_
    | with_reducible apply Kept.step (kept_arrive _ _)
    | with_reducible apply Kept.step (kept_toReset _ _ _)
    | with_reducible apply Kept.step (kept_takeTag _ _)
    | with_reducible apply Kept.step (kept_readMeets _ _ _ _)
    | with_reducible apply Kept.step (kept_respond _ _)
    | with_reducible (show Kept _ _ _; refine Kept.mk ?_)
    | split
    | dsimp only

theorem kept_vaultWrite (s : State) (src a : Nat) (bs : List PByte) (e : MemErr) : Kept 0x21c076c046 s (State.vaultWrite s src a bs e) := by
  unfold State.vaultWrite
  repeat' first
    | decide
    | with_reducible exact Kept.refl _ _
    | with_reducible assumption
    | with_reducible refine Kept.ite ?_ ?_
    | with_reducible apply Kept.step (kept_readMeets _ _ _ _)
    | with_reducible apply Kept.step (kept_memWrite _ _ _)
    | with_reducible apply Kept.step (kept_memMark _ _ _)
    | with_reducible refine Kept.foldl (fun _ _ => ?_) ?_
    | with_reducible (show Kept _ _ _; refine Kept.mk ?_)
    | split
    | dsimp only

theorem kept_wrAt (s : State) (x : Xfer) (e : MemErr) : Kept 0x21c07ec046 s (State.wrAt s x e) := by
  unfold State.wrAt
  repeat' first
    | decide
    | with_reducible exact Kept.refl _ _
    | with_reducible assumption
    | with_reducible refine Kept.ite ?_ ?_
    | with_reducible apply Kept.step (kept_arrive _ _)
    | with_reducible apply Kept.step (kept_abandon _ _)
    | with_reducible apply Kept.step (kept_takeTag _ _)
    | with_reducible apply Kept.step (kept_toReset _ _ _)
    | with_reducible apply Kept.step (kept_vaultWrite _ _ _ _ _)
    | with_reducible apply Kept.step (kept_respond _ _)
    | with_reducible (show Kept _ _ _; refine Kept.mk ?_)
    | split
    | dsimp only

theorem kept_addAt (s : State) (x : Xfer) (e : MemErr) (fmt : Nat) : Kept 0x21c07ec046 s (State.addAt s x e fmt) := by
  unfold State.addAt
  repeat' first
    | decide
    | with_reducible exact Kept.refl _ _
    | with_reducible assumption
    | with_reducible refine Kept.ite ?_ ?_
    | with_reducible apply Kept.step (kept_arrive _ _)
    | with_reducible apply Kept.step (kept_abandon _ _)
    | with_reducible apply Kept.step (kept_takeTag _ _)
    | with_reducible apply Kept.step (kept_toReset _ _ _)
    | with_reducible apply Kept.step (kept_readMeets _ _ _ _)
    | with_reducible apply Kept.step (kept_vaultWrite _ _ _ _ _)
    | with_reducible apply Kept.step (kept_respond _ _)
    | with_reducible apply Kept.step (kept_memUndef _ _ _)
    | with_reducible (show Kept _ _ _; refine Kept.mk ?_)
    | split
    | dsimp only

theorem kept_dataBack (s : State) (x : Xfer) : Kept 0x80000 s (State.dataBack s x) := by
  unfold State.dataBack
  repeat' first
    | decide
    | with_reducible exact Kept.refl _ _
    | with_reducible assumption
    | with_reducible refine Kept.ite ?_ ?_
    | with_reducible apply Kept.step (kept_arrive _ _)
    | with_reducible apply Kept.step (kept_giveTag _ _ _)
    | with_reducible (show Kept _ _ _; refine Kept.mk ?_)
    | split
    | dsimp only

theorem kept_faultSender (s : State) (a status : Nat) : Kept 0x21e0762fe2 s (State.faultSender s a status) := by
  unfold State.faultSender
  repeat' first
    | decide
    | with_reducible exact Kept.refl _ _
    | with_reducible assumption
    | with_reducible refine Kept.ite ?_ ?_
    | with_reducible apply Kept.step (kept_failLeaf _ _ _ _ _ _ _ _ _)
    | with_reducible (show Kept _ _ _; refine Kept.mk ?_)
    | split
    | dsimp only

theorem kept_ackBack (s : State) (x : Xfer) : Kept 0x21e07e2fe2 s (State.ackBack s x) := by
  unfold State.ackBack
  repeat' first
    | decide
    | with_reducible exact Kept.refl _ _
    | with_reducible assumption
    | with_reducible refine Kept.ite ?_ ?_
    | with_reducible apply Kept.step (kept_dataBack _ _)
    | with_reducible apply Kept.step (kept_faultSender _ _ _)
    | with_reducible apply Kept.step (kept_failColl _ _ _ _)
    | with_reducible (show Kept _ _ _; refine Kept.mk ?_)
    | split
    | dsimp only

theorem kept_deliverAt (s : State) (x : Xfer) (d : Delivery) : Kept 0x21c07fefe2 s (State.deliverAt s x d) := by
  unfold State.deliverAt
  repeat' first
    | decide
    | with_reducible exact Kept.refl _ _
    | with_reducible assumption
    | with_reducible refine Kept.ite ?_ ?_
    | with_reducible apply Kept.step (kept_arrive _ _)
    | with_reducible apply Kept.step (kept_abandon _ _)
    | with_reducible apply Kept.step (kept_takeTag _ _)
    | with_reducible apply Kept.step (kept_toReset _ _ _)
    | with_reducible apply Kept.step (kept_rxColl _ _ _ _)
    | with_reducible refine Kept.fst_eq ‹_ = (_, _)› (Kept.of (kept_rxColl _ _ _ _) ?_)
    | with_reducible refine Kept.fst_eq3 ‹_ = (_, _, _)› (Kept.of (kept_rxColl _ _ _ _) ?_)
    | with_reducible apply Kept.step (kept_respond _ _)
    | with_reducible apply Kept.step (kept_rxMerge _ _ _ _ _)
    | with_reducible apply Kept.step (kept_rxReduce _ _ _ _ _)
    | with_reducible apply Kept.step (kept_sesMessage _ _ _ _ _)
    | with_reducible (show Kept _ _ _; refine Kept.mk ?_)
    | split
    | dsimp only

theorem kept_bpmAt (s : State) (x : Xfer) (q : BpmReq) : Kept 0x20402c0002 s (State.bpmAt s x q) := by
  unfold State.bpmAt
  repeat' first
    | decide
    | with_reducible exact Kept.refl _ _
    | with_reducible assumption
    | with_reducible refine Kept.ite ?_ ?_
    | with_reducible apply Kept.step (kept_arrive _ _)
    | with_reducible apply Kept.step (kept_toReset _ _ _)
    | with_reducible apply Kept.step (kept_takeTag _ _)
    | with_reducible apply Kept.step (kept_freeObj _ _ _)
    | with_reducible refine Kept.fst_eq ‹_ = (_, _)› (Kept.of (kept_freeObj _ _ _) ?_)
    | with_reducible refine Kept.fst_eq3 ‹_ = (_, _, _)› (Kept.of (kept_freeObj _ _ _) ?_)
    | with_reducible apply Kept.step (kept_allocate _ _ _ _ _)
    | with_reducible refine Kept.fst_eq ‹_ = (_, _)› (Kept.of (kept_allocate _ _ _ _ _) ?_)
    | with_reducible refine Kept.fst_eq3 ‹_ = (_, _, _)› (Kept.of (kept_allocate _ _ _ _ _) ?_)
    | with_reducible apply Kept.step (kept_respond _ _)
    | with_reducible (show Kept _ _ _; refine Kept.mk ?_)
    | split
    | dsimp only

theorem kept_updSub (s : State) (k : Nat) (f : SubCh → SubCh) : Kept 0x80000 s (State.updSub s k f) := by
  unfold State.updSub
  repeat' first
    | decide
    | with_reducible exact Kept.refl _ _
    | with_reducible assumption
    | with_reducible refine Kept.ite ?_ ?_
    | with_reducible (show Kept _ _ _; refine Kept.mk ?_)
    | split
    | dsimp only

theorem kept_forward (s : State) (k die : Nat) (xs : List Xfer) : Kept 0x80000 s (State.forward s k die xs) := by
  unfold State.forward
  repeat' first
    | decide
    | with_reducible exact Kept.refl _ _
    | with_reducible assumption
    | with_reducible refine Kept.ite ?_ ?_
    | with_reducible refine Kept.foldl (fun _ _ => ?_) ?_
    | with_reducible (show Kept _ _ _; refine Kept.mk ?_)
    | split
    | dsimp only

theorem kept_countSlots (s : State) (c : SubChId) (xs : List Xfer) : Kept 0x80000 s (State.countSlots s c xs) := by
  unfold State.countSlots
  repeat' first
    | decide
    | with_reducible exact Kept.refl _ _
    | with_reducible assumption
    | with_reducible refine Kept.ite ?_ ?_
    | with_reducible refine Kept.foldl (fun _ _ => ?_) ?_
    | with_reducible (show Kept _ _ _; refine Kept.mk ?_)
    | split
    | dsimp only

theorem kept_replay (s : State) (link k : Nat) : Kept 0x2040280000 s (State.replay s link k) := by
  unfold State.replay
  repeat' first
    | decide
    | with_reducible exact Kept.refl _ _
    | with_reducible assumption
    | with_reducible refine Kept.ite ?_ ?_
    | with_reducible apply Kept.step (kept_updSub _ _ _)
    | with_reducible apply Kept.step (kept_raiseG _ _ _ _ _ _)
    | with_reducible (show Kept _ _ _; refine Kept.mk ?_)
    | split
    | dsimp only

theorem kept_trailer (s : State) (c : SubChId) (ack : Nat) (nak : Bool) : Kept 0x2040280000 s (State.trailer s c ack nak) := by
  unfold State.trailer
  repeat' first
    | decide
    | with_reducible exact Kept.refl _ _
    | with_reducible assumption
    | with_reducible refine Kept.ite ?_ ?_
    | with_reducible apply Kept.step (kept_updSub _ _ _)
    | with_reducible apply Kept.step (kept_replay _ _ _)
    | with_reducible (show Kept _ _ _; refine Kept.mk ?_)
    | split
    | dsimp only

theorem kept_groupIn (s : State) (c : SubChId) (gseq : Nat) (crcOk : Bool) (xs : List Xfer) (ack : Nat) (nak : Bool) : Kept 0x2640380000 s (State.groupIn s c gseq crcOk xs ack nak) := by
  unfold State.groupIn
  repeat' first
    | decide
    | with_reducible exact Kept.refl _ _
    | with_reducible assumption
    | with_reducible refine Kept.ite ?_ ?_
    | with_reducible apply Kept.step (kept_countSlots _ _ _)
    | with_reducible apply Kept.step (kept_updSub _ _ _)
    | with_reducible apply Kept.step (kept_inject _ _)
    | with_reducible refine Kept.fst_eq ‹_ = (_, _)› (Kept.of (kept_inject _ _) ?_)
    | with_reducible refine Kept.fst_eq3 ‹_ = (_, _, _)› (Kept.of (kept_inject _ _) ?_)
    | with_reducible apply Kept.step (kept_trailer _ _ _ _)
    | with_reducible apply Kept.step (kept_forward _ _ _ _)
    | with_reducible refine Kept.foldl (fun _ _ => ?_) ?_
    | with_reducible (show Kept _ _ _; refine Kept.mk ?_)
    | split
    | dsimp only

theorem kept_execRd (x : Xfer) (e : MemErr) (s : State) : ∀ t', execRd x e s = .next t' → Kept 0x21c07ec046 s t' := by
  intro t2 h
  unfold execRd at h
  refine kept_unlessDown h (fun t2 h => ?_)
  injection h with h; subst h
  repeat' first
    | decide
    | with_reducible exact Kept.refl _ _
    | with_reducible assumption
    | with_reducible refine Kept.ite ?_ ?_
    | with_reducible apply Kept.step (kept_rdAt _ _ _)
    | with_reducible (show Kept _ _ _; refine Kept.mk ?_)
    | split
    | dsimp only

theorem kept_execWr (x : Xfer) (e : MemErr) (s : State) : ∀ t', execWr x e s = .next t' → Kept 0x21c07ec046 s t' := by
  intro t2 h
  unfold execWr at h
  refine kept_unlessDown h (fun t2 h => ?_)
  injection h with h; subst h
  repeat' first
    | decide
    | with_reducible exact Kept.refl _ _
    | with_reducible assumption
    | with_reducible refine Kept.ite ?_ ?_
    | with_reducible apply Kept.step (kept_wrAt _ _ _)
    | with_reducible (show Kept _ _ _; refine Kept.mk ?_)
    | split
    | dsimp only

theorem kept_execAddX (x : Xfer) (e : MemErr) (fmt : Nat) (s : State) : ∀ t', execAddX x e fmt s = .next t' → Kept 0x21c07ec046 s t' := by
  intro t2 h
  unfold execAddX at h
  refine kept_unlessDown h (fun t2 h => ?_)
  injection h with h; subst h
  repeat' first
    | decide
    | with_reducible exact Kept.refl _ _
    | with_reducible assumption
    | with_reducible refine Kept.ite ?_ ?_
    | with_reducible apply Kept.step (kept_addAt _ _ _ _)
    | with_reducible (show Kept _ _ _; refine Kept.mk ?_)
    | split
    | dsimp only

theorem kept_execRdData (x : Xfer) (s : State) : ∀ t', execRdData x s = .next t' → Kept 0x80000 s t' := by
  intro t2 h
  unfold execRdData at h
  refine kept_unlessDown h (fun t2 h => ?_)
  injection h with h; subst h
  repeat' first
    | decide
    | with_reducible exact Kept.refl _ _
    | with_reducible assumption
    | with_reducible refine Kept.ite ?_ ?_
    | with_reducible apply Kept.step (kept_dataBack _ _)
    | with_reducible (show Kept _ _ _; refine Kept.mk ?_)
    | split
    | dsimp only

theorem kept_execWrAck (x : Xfer) (s : State) : ∀ t', execWrAck x s = .next t' → Kept 0x21e07e2fe2 s t' := by
  intro t2 h
  unfold execWrAck at h
  refine kept_unlessDown h (fun t2 h => ?_)
  injection h with h; subst h
  repeat' first
    | decide
    | with_reducible exact Kept.refl _ _
    | with_reducible assumption
    | with_reducible refine Kept.ite ?_ ?_
    | with_reducible apply Kept.step (kept_ackBack _ _)
    | with_reducible (show Kept _ _ _; refine Kept.mk ?_)
    | split
    | dsimp only

theorem kept_execFrame (x : Xfer) (s : State) : ∀ t', execFrame x s = .next t' → Kept 0x80000 s t' := by
  intro t2 h
  unfold execFrame at h
  refine kept_unlessDown h (fun t2 h => ?_)
  injection h with h; subst h
  repeat' first
    | decide
    | with_reducible exact Kept.refl _ _
    | with_reducible assumption
    | with_reducible refine Kept.ite ?_ ?_
    | with_reducible apply Kept.step (kept_arrive _ _)
    | with_reducible (show Kept _ _ _; refine Kept.mk ?_)
    | split
    | dsimp only

theorem kept_execDeliver (x : Xfer) (d : Delivery) (s : State) : ∀ t', execDeliver x d s = .next t' → Kept 0x21c07fefe2 s t' := by
  intro t2 h
  unfold execDeliver at h
  refine kept_unlessDown h (fun t2 h => ?_)
  injection h with h; subst h
  repeat' first
    | decide
    | with_reducible exact Kept.refl _ _
    | with_reducible assumption
    | with_reducible refine Kept.ite ?_ ?_
    | with_reducible apply Kept.step (kept_deliverAt _ _ _)
    | with_reducible (show Kept _ _ _; refine Kept.mk ?_)
    | split
    | dsimp only

theorem kept_execCollEarlyResend (x : Xfer) (d : Delivery) (s : State) : ∀ t', execCollEarlyResend x d s = .next t' → Kept 0x21c07fefe2 s t' := by
  intro t2 h
  unfold execCollEarlyResend at h
  refine kept_unlessDown h (fun t2 h => ?_)
  injection h with h; subst h
  repeat' first
    | decide
    | with_reducible exact Kept.refl _ _
    | with_reducible assumption
    | with_reducible refine Kept.ite ?_ ?_
    | with_reducible apply Kept.step (kept_deliverAt _ _ _)
    | with_reducible (show Kept _ _ _; refine Kept.mk ?_)
    | split
    | dsimp only

theorem kept_execBpm (x : Xfer) (req : BpmReq) (s : State) : ∀ t', execBpm x req s = .next t' → Kept 0x20402c0002 s t' := by
  intro t2 h
  unfold execBpm at h
  refine kept_unlessDown h (fun t2 h => ?_)
  injection h with h; subst h
  repeat' first
    | decide
    | with_reducible exact Kept.refl _ _
    | with_reducible assumption
    | with_reducible refine Kept.ite ?_ ?_
    | with_reducible apply Kept.step (kept_bpmAt _ _ _)
    | with_reducible (show Kept _ _ _; refine Kept.mk ?_)
    | split
    | dsimp only

theorem kept_execFilGroupRx (ch : SubChId) (gseq : Nat) (crcOk : Bool) (xs : List Xfer) (ack : Nat) (nak : Bool) (s : State) : ∀ t', execFilGroupRx ch gseq crcOk xs ack nak s = .next t' → Kept 0x2640380000 s t' := by
  intro t2 h
  unfold execFilGroupRx at h
  refine kept_unlessDown h (fun t2 h => ?_)
  injection h with h; subst h
  repeat' first
    | decide
    | with_reducible exact Kept.refl _ _
    | with_reducible assumption
    | with_reducible refine Kept.ite ?_ ?_
    | with_reducible apply Kept.step (kept_groupIn _ _ _ _ _ _ _)
    | with_reducible (show Kept _ _ _; refine Kept.mk ?_)
    | split
    | dsimp only

theorem kept_execFilAckTimeout (ch : SubChId) (s : State) : ∀ t', execFilAckTimeout ch s = .next t' → Kept 0x2040280000 s t' := by
  intro t2 h
  unfold execFilAckTimeout at h
  refine kept_unlessDown h (fun t2 h => ?_)
  injection h with h; subst h
  repeat' first
    | decide
    | with_reducible exact Kept.refl _ _
    | with_reducible assumption
    | with_reducible refine Kept.ite ?_ ?_
    | with_reducible apply Kept.step (kept_replay _ _ _)
    | with_reducible (show Kept _ _ _; refine Kept.mk ?_)
    | split
    | dsimp only

theorem kept_execFilLaneSpared (link : Fin 14) (module lane : Nat) (s : State) : ∀ t', execFilLaneSpared link module lane s = .next t' → Kept 0x2040280000 s t' := by
  intro t2 h
  unfold execFilLaneSpared at h
  refine kept_unlessDown h (fun t2 h => ?_)
  injection h with h; subst h
  repeat' first
    | decide
    | with_reducible exact Kept.refl _ _
    | with_reducible assumption
    | with_reducible refine Kept.ite ?_ ?_
    | with_reducible apply Kept.step (kept_updSub _ _ _)
    | with_reducible apply Kept.step (kept_raiseG _ _ _ _ _ _)
    | with_reducible refine Kept.foldl (fun _ _ => ?_) ?_
    | with_reducible (show Kept _ _ _; refine Kept.mk ?_)
    | split
    | dsimp only

theorem kept_execFilRemapDone (link : Fin 14) (module : Nat) (s : State) : ∀ t', execFilRemapDone link module s = .next t' → Kept 0x2040280000 s t' := by
  intro t2 h
  unfold execFilRemapDone at h
  refine kept_unlessDown h (fun t2 h => ?_)
  injection h with h; subst h
  repeat' first
    | decide
    | with_reducible exact Kept.refl _ _
    | with_reducible assumption
    | with_reducible refine Kept.ite ?_ ?_
    | with_reducible apply Kept.step (kept_updSub _ _ _)
    | with_reducible apply Kept.step (kept_replay _ _ _)
    | with_reducible refine Kept.foldl (fun _ _ => ?_) ?_
    | with_reducible (show Kept _ _ _; refine Kept.mk ?_)
    | split
    | dsimp only

end Sys2Proof.Machine
end

