-- ==== Sys2Proof/Laws/KeptFunctions.lean ====
section
/-! SUPPORT. What the operations of Machine/Functions.lean may touch. -/

set_option Elab.async false
set_option linter.unusedTactic false
set_option linter.unreachableTactic false

namespace Sys2Proof.Machine

theorem kept_resetWindow (s : State) (w : Nat) : Kept 0x100400000 s (State.resetWindow s w) := by
  unfold State.resetWindow
  repeat' first
    | decide
    | with_reducible exact Kept.refl _ _
    | with_reducible assumption
    | with_reducible refine Kept.ite ?_ ?_
    | with_reducible apply Kept.step (kept_updWin _ _ _)
    | with_reducible (show Kept _ _ _; refine Kept.mk ?_)
    | split
    | dsimp only

theorem kept_dropHalves (s : State) (f : Nat) : Kept 0x800000 s (State.dropHalves s f) := by
  unfold State.dropHalves
  repeat' first
    | decide
    | with_reducible exact Kept.refl _ _
    | with_reducible assumption
    | with_reducible refine Kept.ite ?_ ?_
    | with_reducible (show Kept _ _ _; refine Kept.mk ?_)
    | split
    | dsimp only

theorem kept_resetFunction (s : State) (f : Nat) : Kept 0x100e00000 s (State.resetFunction s f) := by
  unfold State.resetFunction
  repeat' first
    | decide
    | with_reducible exact Kept.refl _ _
    | with_reducible assumption
    | with_reducible refine Kept.ite ?_ ?_
    | with_reducible apply Kept.step (kept_resetWindow _ _)
    | with_reducible apply Kept.step (kept_dropHalves _ _)
    | with_reducible apply Kept.step (kept_updFn _ _ _)
    | with_reducible refine Kept.foldl (fun _ _ => ?_) ?_
    | with_reducible (show Kept _ _ _; refine Kept.mk ?_)
    | split
    | dsimp only

theorem kept_pcieReset (s : State) (f : Nat) : Kept 0x100e00000 s (State.pcieReset s f) := by
  unfold State.pcieReset
  repeat' first
    | decide
    | with_reducible exact Kept.refl _ _
    | with_reducible assumption
    | with_reducible refine Kept.ite ?_ ?_
    | with_reducible apply Kept.step (kept_resetFunction _ _)
    | with_reducible apply Kept.step (kept_updFn _ _ _)
    | with_reducible (show Kept _ _ _; refine Kept.mk ?_)
    | split
    | dsimp only

end Sys2Proof.Machine
end

