-- ==== Sys2Proof/Laws/KeptFlash.lean ====
section
/-! SUPPORT. What the operations of Machine/Flash.lean may touch. -/

set_option Elab.async false
set_option linter.unusedTactic false
set_option linter.unreachableTactic false

namespace Sys2Proof.Machine


/-- The flash, the backup and the parameters stay in canonical form when each does. -/
theorem hmk_wf {h k : HmkState} (hf : h.flash.wf = true → k.flash.wf = true) (hb : h.backup.wf = true → k.backup.wf = true)
    (hp : h.params.wf = true → k.params.wf = true) :
    (h.flash.wf && h.backup.wf && h.params.wf) = true → (k.flash.wf && k.backup.wf && k.params.wf) = true := by
  simp only [Bool.and_eq_true]
  exact fun c => ⟨⟨hf c.1.1, hb c.1.2⟩, hp c.2⟩

theorem wf_paramWrite (f : Bytes) (e : List Byte → List Byte) (b : Bool) (h : f.wf = true) : (paramWrite f e b).wf = true := by
  unfold paramWrite
  split
  · dsimp only
    split
    · exact Bytes.wf_writeL _ _ (Bytes.wf_writeL _ _ h)
    · exact Bytes.wf_writeL _ _ h
  · exact Bytes.wf_writeL _ _ (Bytes.wf_writeL _ _ h)

theorem wf_dirWrite (f : Bytes) (d : Dir) (h : f.wf = true) : (dirWrite f d).wf = true := by
  unfold dirWrite
  split
  exact Bytes.wf_writeL _ _ h

theorem kept_flashQueue (s : State) (r : FlashReq) : Kept 0x2000000 s (State.flashQueue s r) := by
  unfold State.flashQueue
  repeat' first
    | decide
    | with_reducible exact Kept.refl _ _
    | with_reducible assumption
    | with_reducible refine Kept.ite ?_ ?_
    | with_reducible (show Kept _ _ _; refine Kept.mk ?_)
    | (refine Kept.mk ?_ (hk := hmk_wf ?hkf (fun h => h) ?hkp) <;> [skip; (case hkf => intro h; with_reducible first | exact h | exact Bytes.wf_writeL _ _ h | exact Bytes.wf_undefine _ _ _ h | exact Bytes.wf_writeL _ _ (Bytes.wf_undefine _ _ _ h) | exact wf_paramWrite _ _ _ h | exact wf_dirWrite _ _ h); (case hkp => intro h; with_reducible first | exact h | exact Bytes.wf_writeL _ _ h)])
    | split
    | dsimp only

theorem kept_logEvent (s : State) : Kept 0x2000002 s (State.logEvent s) := by
  unfold State.logEvent
  repeat' first
    | decide
    | with_reducible exact Kept.refl _ _
    | with_reducible assumption
    | with_reducible refine Kept.ite ?_ ?_
    | with_reducible (show Kept _ _ _; refine Kept.mk ?_)
    | (refine Kept.mk ?_ (hk := hmk_wf ?hkf (fun h => h) ?hkp) <;> [skip; (case hkf => intro h; with_reducible first | exact h | exact Bytes.wf_writeL _ _ h | exact Bytes.wf_undefine _ _ _ h | exact Bytes.wf_writeL _ _ (Bytes.wf_undefine _ _ _ h) | exact wf_paramWrite _ _ _ h | exact wf_dirWrite _ _ h); (case hkp => intro h; with_reducible first | exact h | exact Bytes.wf_writeL _ _ h)])
    | split
    | dsimp only

theorem kept_flashReport (s : State) (report status : Nat) : Kept 0x8000000 s (State.flashReport s report status) := by
  unfold State.flashReport
  repeat' first
    | decide
    | with_reducible exact Kept.refl _ _
    | with_reducible assumption
    | with_reducible refine Kept.ite ?_ ?_
    | with_reducible (show Kept _ _ _; refine Kept.mk ?_)
    | (refine Kept.mk ?_ (hk := hmk_wf ?hkf (fun h => h) ?hkp) <;> [skip; (case hkf => intro h; with_reducible first | exact h | exact Bytes.wf_writeL _ _ h | exact Bytes.wf_undefine _ _ _ h | exact Bytes.wf_writeL _ _ (Bytes.wf_undefine _ _ _ h) | exact wf_paramWrite _ _ _ h | exact wf_dirWrite _ _ h); (case hkp => intro h; with_reducible first | exact h | exact Bytes.wf_writeL _ _ h)])
    | split
    | dsimp only

theorem kept_flashSpoil (s : State) (off n : Nat) : Kept 0x2000002 s (State.flashSpoil s off n) := by
  unfold State.flashSpoil
  repeat' first
    | decide
    | with_reducible exact Kept.refl _ _
    | with_reducible assumption
    | with_reducible refine Kept.ite ?_ ?_
    | with_reducible (show Kept _ _ _; refine Kept.mk ?_)
    | (refine Kept.mk ?_ (hk := hmk_wf ?hkf (fun h => h) ?hkp) <;> [skip; (case hkf => intro h; with_reducible first | exact h | exact Bytes.wf_writeL _ _ h | exact Bytes.wf_undefine _ _ _ h | exact Bytes.wf_writeL _ _ (Bytes.wf_undefine _ _ _ h) | exact wf_paramWrite _ _ _ h | exact wf_dirWrite _ _ h); (case hkp => intro h; with_reducible first | exact h | exact Bytes.wf_writeL _ _ h)])
    | split
    | dsimp only

theorem kept_flashFail (s : State) (r : FlashReq) : Kept 0x2000002 s (State.flashFail s r) := by
  unfold State.flashFail
  repeat' first
    | decide
    | with_reducible exact Kept.refl _ _
    | with_reducible assumption
    | with_reducible refine Kept.ite ?_ ?_
    | with_reducible apply Kept.step (kept_flashSpoil _ _ _)
    | with_reducible (show Kept _ _ _; refine Kept.mk ?_)
    | (refine Kept.mk ?_ (hk := hmk_wf ?hkf (fun h => h) ?hkp) <;> [skip; (case hkf => intro h; with_reducible first | exact h | exact Bytes.wf_writeL _ _ h | exact Bytes.wf_undefine _ _ _ h | exact Bytes.wf_writeL _ _ (Bytes.wf_undefine _ _ _ h) | exact wf_paramWrite _ _ _ h | exact wf_dirWrite _ _ h); (case hkp => intro h; with_reducible first | exact h | exact Bytes.wf_writeL _ _ h)])
    | split
    | dsimp only

theorem kept_useParams (s : State) (off : Nat) (d : List Byte) : Kept 0x2000000 s (State.useParams s off d) := by
  unfold State.useParams
  repeat' first
    | decide
    | with_reducible exact Kept.refl _ _
    | with_reducible assumption
    | with_reducible refine Kept.ite ?_ ?_
    | with_reducible (show Kept _ _ _; refine Kept.mk ?_)
    | (refine Kept.mk ?_ (hk := hmk_wf ?hkf (fun h => h) ?hkp) <;> [skip; (case hkf => intro h; with_reducible first | exact h | exact Bytes.wf_writeL _ _ h | exact Bytes.wf_undefine _ _ _ h | exact Bytes.wf_writeL _ _ (Bytes.wf_undefine _ _ _ h) | exact wf_paramWrite _ _ _ h | exact wf_dirWrite _ _ h); (case hkp => intro h; with_reducible first | exact h | exact Bytes.wf_writeL _ _ h)])
    | split
    | dsimp only

theorem kept_flashDone (s : State) (r : FlashReq) : Kept 0xa000002 s (State.flashDone s r) := by
  unfold State.flashDone
  repeat' first
    | decide
    | with_reducible exact Kept.refl _ _
    | with_reducible assumption
    | with_reducible refine Kept.ite ?_ ?_
    | with_reducible apply Kept.step (kept_logEvent _)
    | with_reducible apply Kept.step (kept_useParams _ _ _)
    | with_reducible apply Kept.step (kept_flashReport _ _ _)
    | with_reducible apply Kept.step (kept_extend _ _ _)
    | with_reducible (show Kept _ _ _; refine Kept.mk ?_)
    | (refine Kept.mk ?_ (hk := hmk_wf ?hkf (fun h => h) ?hkp) <;> [skip; (case hkf => intro h; with_reducible first | exact h | exact Bytes.wf_writeL _ _ h | exact Bytes.wf_undefine _ _ _ h | exact Bytes.wf_writeL _ _ (Bytes.wf_undefine _ _ _ h) | exact wf_paramWrite _ _ _ h | exact wf_dirWrite _ _ h); (case hkp => intro h; with_reducible first | exact h | exact Bytes.wf_writeL _ _ h)])
    | split
    | dsimp only

theorem kept_flashWrite (s : State) (ok1 ok2 : Bool) : Kept 0x204a200002 s (State.flashWrite s ok1 ok2) := by
  unfold State.flashWrite
  repeat' first
    | decide
    | with_reducible exact Kept.refl _ _
    | with_reducible assumption
    | with_reducible refine Kept.ite ?_ ?_
    | with_reducible apply Kept.step (kept_flashReport _ _ _)
    | with_reducible apply Kept.step (kept_flashDone _ _)
    | with_reducible apply Kept.step (kept_flashFail _ _)
    | with_reducible apply Kept.step (kept_raiseG _ _ _ _ _ _)
    | with_reducible apply Kept.step (kept_flashQueue _ _)
    | with_reducible (show Kept _ _ _; refine Kept.mk ?_)
    | (refine Kept.mk ?_ (hk := hmk_wf ?hkf (fun h => h) ?hkp) <;> [skip; (case hkf => intro h; with_reducible first | exact h | exact Bytes.wf_writeL _ _ h | exact Bytes.wf_undefine _ _ _ h | exact Bytes.wf_writeL _ _ (Bytes.wf_undefine _ _ _ h) | exact wf_paramWrite _ _ _ h | exact wf_dirWrite _ _ h); (case hkp => intro h; with_reducible first | exact h | exact Bytes.wf_writeL _ _ h)])
    | split
    | dsimp only

theorem kept_execFlashWrite (ok1 ok2 : Bool) (s : State) : ∀ t', execFlashWrite ok1 ok2 s = .next t' → Kept 0x204a200002 s t' := by
  intro t2 h
  unfold execFlashWrite at h
  refine kept_unlessOff h (fun t2 h => ?_)
  injection h with h; subst h
  repeat' first
    | decide
    | with_reducible exact Kept.refl _ _
    | with_reducible assumption
    | with_reducible refine Kept.ite ?_ ?_
    | with_reducible apply Kept.step (kept_flashWrite _ _ _)
    | with_reducible (show Kept _ _ _; refine Kept.mk ?_)
    | (refine Kept.mk ?_ (hk := hmk_wf ?hkf (fun h => h) ?hkp) <;> [skip; (case hkf => intro h; with_reducible first | exact h | exact Bytes.wf_writeL _ _ h | exact Bytes.wf_undefine _ _ _ h | exact Bytes.wf_writeL _ _ (Bytes.wf_undefine _ _ _ h) | exact wf_paramWrite _ _ _ h | exact wf_dirWrite _ _ h); (case hkp => intro h; with_reducible first | exact h | exact Bytes.wf_writeL _ _ h)])
    | split
    | dsimp only

theorem kept_offerBundle (s : State) (bundle : List Byte) (confirm : Bool) (report : Nat) : Kept 0x2000000 s (State.offerBundle s bundle confirm report).1 := by
  unfold State.offerBundle
  repeat' first
    | decide
    | dsimp only
    | with_reducible exact Kept.refl _ _
    | with_reducible assumption
    | with_reducible refine Kept.ite ?_ ?_
    | with_reducible apply Kept.step (kept_flashQueue _ _)
    | with_reducible (show Kept _ _ _; refine Kept.mk ?_)
    | (refine Kept.mk ?_ (hk := hmk_wf ?hkf (fun h => h) ?hkp) <;> [skip; (case hkf => intro h; with_reducible first | exact h | exact Bytes.wf_writeL _ _ h | exact Bytes.wf_undefine _ _ _ h | exact Bytes.wf_writeL _ _ (Bytes.wf_undefine _ _ _ h) | exact wf_paramWrite _ _ _ h | exact wf_dirWrite _ _ h); (case hkp => intro h; with_reducible first | exact h | exact Bytes.wf_writeL _ _ h)])
    | split
    | dsimp only

theorem kept_fwupConfirm (s : State) (raise : Bool) : Kept 0x2000000 s (State.fwupConfirm s raise) := by
  unfold State.fwupConfirm
  repeat' first
    | decide
    | with_reducible exact Kept.refl _ _
    | with_reducible assumption
    | with_reducible refine Kept.ite ?_ ?_
    | with_reducible apply Kept.step (kept_flashQueue _ _)
    | with_reducible (show Kept _ _ _; refine Kept.mk ?_)
    | (refine Kept.mk ?_ (hk := hmk_wf ?hkf (fun h => h) ?hkp) <;> [skip; (case hkf => intro h; with_reducible first | exact h | exact Bytes.wf_writeL _ _ h | exact Bytes.wf_undefine _ _ _ h | exact Bytes.wf_writeL _ _ (Bytes.wf_undefine _ _ _ h) | exact wf_paramWrite _ _ _ h | exact wf_dirWrite _ _ h); (case hkp => intro h; with_reducible first | exact h | exact Bytes.wf_writeL _ _ h)])
    | split
    | dsimp only

theorem kept_fwupCtrl (s : State) (x : Nat) : Kept 0x10a000000 s (State.fwupCtrl s x) := by
  unfold State.fwupCtrl
  repeat' first
    | decide
    | with_reducible exact Kept.refl _ _
    | with_reducible assumption
    | with_reducible refine Kept.ite ?_ ?_
    | with_reducible apply Kept.step (kept_fwupConfirm _ _)
    | with_reducible apply Kept.step (kept_count _ _)
    | with_reducible apply Kept.step (kept_offerBundle _ _ _ _)
    | with_reducible refine Kept.fst_eq ‹_ = (_, _)› (Kept.of (kept_offerBundle _ _ _ _) ?_)
    | with_reducible refine Kept.fst_eq3 ‹_ = (_, _, _)› (Kept.of (kept_offerBundle _ _ _ _) ?_)
    | with_reducible (show Kept _ _ _; refine Kept.mk ?_)
    | (refine Kept.mk ?_ (hk := hmk_wf ?hkf (fun h => h) ?hkp) <;> [skip; (case hkf => intro h; with_reducible first | exact h | exact Bytes.wf_writeL _ _ h | exact Bytes.wf_undefine _ _ _ h | exact Bytes.wf_writeL _ _ (Bytes.wf_undefine _ _ _ h) | exact wf_paramWrite _ _ _ h | exact wf_dirWrite _ _ h); (case hkp => intro h; with_reducible first | exact h | exact Bytes.wf_writeL _ _ h)])
    | split
    | dsimp only

theorem kept_execPldmFirmwareUpdate (bundle : List Byte) (confirm : Bool) (s : State) : ∀ t', execPldmFirmwareUpdate bundle confirm s = .next t' → Kept 0x2002000000 s t' := by
  intro t2 h
  unfold execPldmFirmwareUpdate at h
  refine kept_unlessOff h (fun t2 h => ?_)
  injection h with h; subst h
  repeat' first
    | decide
    | with_reducible exact Kept.refl _ _
    | with_reducible assumption
    | with_reducible refine Kept.ite ?_ ?_
    | with_reducible apply Kept.step (kept_offerBundle _ _ _ _)
    | with_reducible refine Kept.fst_eq ‹_ = (_, _)› (Kept.of (kept_offerBundle _ _ _ _) ?_)
    | with_reducible refine Kept.fst_eq3 ‹_ = (_, _, _)› (Kept.of (kept_offerBundle _ _ _ _) ?_)
    | with_reducible apply Kept.step (kept_emit _ _)
    | with_reducible (show Kept _ _ _; refine Kept.mk ?_)
    | (refine Kept.mk ?_ (hk := hmk_wf ?hkf (fun h => h) ?hkp) <;> [skip; (case hkf => intro h; with_reducible first | exact h | exact Bytes.wf_writeL _ _ h | exact Bytes.wf_undefine _ _ _ h | exact Bytes.wf_writeL _ _ (Bytes.wf_undefine _ _ _ h) | exact wf_paramWrite _ _ _ h | exact wf_dirWrite _ _ h); (case hkp => intro h; with_reducible first | exact h | exact Bytes.wf_writeL _ _ h)])
    | split
    | dsimp only

theorem kept_paramCtrl (s : State) (x : Nat) : Kept 0x10a000000 s (State.paramCtrl s x) := by
  unfold State.paramCtrl
  repeat' first
    | decide
    | with_reducible exact Kept.refl _ _
    | with_reducible assumption
    | with_reducible refine Kept.ite ?_ ?_
    | with_reducible apply Kept.step (kept_count _ _)
    | with_reducible apply Kept.step (kept_flashQueue _ _)
    | with_reducible (show Kept _ _ _; refine Kept.mk ?_)
    | (refine Kept.mk ?_ (hk := hmk_wf ?hkf (fun h => h) ?hkp) <;> [skip; (case hkf => intro h; with_reducible first | exact h | exact Bytes.wf_writeL _ _ h | exact Bytes.wf_undefine _ _ _ h | exact Bytes.wf_writeL _ _ (Bytes.wf_undefine _ _ _ h) | exact wf_paramWrite _ _ _ h | exact wf_dirWrite _ _ h); (case hkp => intro h; with_reducible first | exact h | exact Bytes.wf_writeL _ _ h)])
    | split
    | dsimp only

theorem kept_execPldmParamUpdate (upd : List Byte) (s : State) : ∀ t', execPldmParamUpdate upd s = .next t' → Kept 0x2002000000 s t' := by
  intro t2 h
  unfold execPldmParamUpdate at h
  refine kept_unlessOff h (fun t2 h => ?_)
  injection h with h; subst h
  repeat' first
    | decide
    | with_reducible exact Kept.refl _ _
    | with_reducible assumption
    | with_reducible refine Kept.ite ?_ ?_
    | with_reducible apply Kept.step (kept_flashQueue _ _)
    | with_reducible apply Kept.step (kept_emit _ _)
    | with_reducible (show Kept _ _ _; refine Kept.mk ?_)
    | (refine Kept.mk ?_ (hk := hmk_wf ?hkf (fun h => h) ?hkp) <;> [skip; (case hkf => intro h; with_reducible first | exact h | exact Bytes.wf_writeL _ _ h | exact Bytes.wf_undefine _ _ _ h | exact Bytes.wf_writeL _ _ (Bytes.wf_undefine _ _ _ h) | exact wf_paramWrite _ _ _ h | exact wf_dirWrite _ _ h); (case hkp => intro h; with_reducible first | exact h | exact Bytes.wf_writeL _ _ h)])
    | split
    | dsimp only

theorem kept_extCtrl (s : State) (x : Nat) : Kept 0x2142200000 s (State.extCtrl s x) := by
  unfold State.extCtrl
  repeat' first
    | decide
    | with_reducible exact Kept.refl _ _
    | with_reducible assumption
    | with_reducible refine Kept.ite ?_ ?_
    | with_reducible apply Kept.step (kept_count _ _)
    | with_reducible apply Kept.step (kept_regacc _ _)
    | with_reducible apply Kept.step (kept_extend _ _ _)
    | with_reducible (show Kept _ _ _; refine Kept.mk ?_)
    | (refine Kept.mk ?_ (hk := hmk_wf ?hkf (fun h => h) ?hkp) <;> [skip; (case hkf => intro h; with_reducible first | exact h | exact Bytes.wf_writeL _ _ h | exact Bytes.wf_undefine _ _ _ h | exact Bytes.wf_writeL _ _ (Bytes.wf_undefine _ _ _ h) | exact wf_paramWrite _ _ _ h | exact wf_dirWrite _ _ h); (case hkp => intro h; with_reducible first | exact h | exact Bytes.wf_writeL _ _ h)])
    | split
    | dsimp only

theorem kept_newNonce (s : State) : Kept 0x2000000 s (State.newNonce s) := by
  unfold State.newNonce
  repeat' first
    | decide
    | with_reducible exact Kept.refl _ _
    | with_reducible assumption
    | with_reducible refine Kept.ite ?_ ?_
    | with_reducible (show Kept _ _ _; refine Kept.mk ?_)
    | (refine Kept.mk ?_ (hk := hmk_wf ?hkf (fun h => h) ?hkp) <;> [skip; (case hkf => intro h; with_reducible first | exact h | exact Bytes.wf_writeL _ _ h | exact Bytes.wf_undefine _ _ _ h | exact Bytes.wf_writeL _ _ (Bytes.wf_undefine _ _ _ h) | exact wf_paramWrite _ _ _ h | exact wf_dirWrite _ _ h); (case hkp => intro h; with_reducible first | exact h | exact Bytes.wf_writeL _ _ h)])
    | split
    | dsimp only

theorem kept_dbgCtrl (s : State) (x : Nat) : Kept 0x2000004 s (State.dbgCtrl s x) := by
  unfold State.dbgCtrl
  repeat' first
    | decide
    | with_reducible exact Kept.refl _ _
    | with_reducible assumption
    | with_reducible refine Kept.ite ?_ ?_
    | with_reducible apply Kept.step (kept_extend _ _ _)
    | with_reducible (show Kept _ _ _; refine Kept.mk ?_)
    | (refine Kept.mk ?_ (hk := hmk_wf ?hkf (fun h => h) ?hkp) <;> [skip; (case hkf => intro h; with_reducible first | exact h | exact Bytes.wf_writeL _ _ h | exact Bytes.wf_undefine _ _ _ h | exact Bytes.wf_writeL _ _ (Bytes.wf_undefine _ _ _ h) | exact wf_paramWrite _ _ _ h | exact wf_dirWrite _ _ h); (case hkp => intro h; with_reducible first | exact h | exact Bytes.wf_writeL _ _ h)])
    | split
    | dsimp only

end Sys2Proof.Machine
end

