-- ==== Sys2Proof/Laws/KeptBoot.lean ====
section
/-! SUPPORT. What the operations of Machine/Boot.lean may touch. -/

set_option Elab.async false
set_option linter.unusedTactic false
set_option linter.unreachableTactic false

namespace Sys2Proof.Machine


theorem Bytes.wf_ofCells (l : List (Nat × Byte)) : (Bytes.ofCells l).wf = true := by
  have h : ∀ (l : List (Nat × Byte)) (m : Bytes), m.wf = true → (l.foldl (fun m c => m.write c.1 c.2) m).wf = true := by
    intro l
    induction l with
    | nil => exact fun _ h => h
    | cons c l ih => exact fun m h => ih _ (Bytes.wf_write _ _ h)
  exact h l {} rfl

theorem kept_powerUp (s : State) (i : BootIn) : Kept 0x3fffffffff s (s.powerUp i) :=
  Kept.mk (Kept.refl _ _) (hr := fun _ => rfl) (hs := fun _ => rfl)
    (hk := hmk_wf (fun h => by
        show ((i.flash.map Bytes.ofCells).getD s.hmk.flash).wf = true
        cases i.flash with
        | none => exact h
        | some l => exact Bytes.wf_ofCells l) (fun _ => Bytes.wf_ofCells _) (fun _ => rfl))

theorem kept_warmBase (s : State) : Kept 0x3fffffffff s s.warmBase :=
  Kept.mk (Kept.refl _ _) (hr := fun _ => rfl) (hs := fun _ => rfl)

theorem kept_readParams (s : State) (f : Bytes) : Kept 0x2042200004 s (State.readParams s f) := by
  unfold State.readParams
  generalize paramTaken f = p
  rcases p with _ | ⟨k, b⟩
  · refine Kept.of (kept_raiseG _ _ _ _ _ _) ?_
    exact Kept.mk (Kept.refl _ _) (hk := hmk_wf (fun h => h) (fun h => h) (fun _ => rfl))
  · exact Kept.mk (Kept.refl _ _) (hk := hmk_wf (fun h => h) (fun h => h) (fun _ => Bytes.wf_writeL _ _ rfl))


theorem kept_revert (s : State) (d : Dir) : Kept 0x2042200000 s (State.revert s d) := by
  unfold State.revert
  repeat' first
    | decide
    | with_reducible exact Kept.refl _ _
    | with_reducible assumption
    | with_reducible refine Kept.ite ?_ ?_
    | with_reducible apply Kept.step (kept_raiseG _ _ _ _ _ _)
    | with_reducible (show Kept _ _ _; refine Kept.mk ?_)
    | (refine Kept.mk ?_ (hk := hmk_wf ?hkf (fun h => h) ?hkp) <;> [skip; (case hkf => intro h; with_reducible first | exact h | exact Bytes.wf_writeL _ _ h | exact Bytes.wf_undefine _ _ _ h | exact Bytes.wf_writeL _ _ (Bytes.wf_undefine _ _ _ h) | exact wf_paramWrite _ _ _ h | exact wf_dirWrite _ _ h); (case hkp => intro h; with_reducible first | exact h | exact Bytes.wf_writeL _ _ rfl | exact rfl)])
    | split
    | dsimp only

theorem kept_trialBegin (s : State) : Kept 0x2042200000 s (State.trialBegin s) := by
  unfold State.trialBegin
  repeat' first
    | decide
    | with_reducible exact Kept.refl _ _
    | with_reducible assumption
    | with_reducible refine Kept.ite ?_ ?_
    | with_reducible apply Kept.step (kept_revert _ _)
    | with_reducible (show Kept _ _ _; refine Kept.mk ?_)
    | (refine Kept.mk ?_ (hk := hmk_wf ?hkf (fun h => h) ?hkp) <;> [skip; (case hkf => intro h; with_reducible first | exact h | exact Bytes.wf_writeL _ _ h | exact Bytes.wf_undefine _ _ _ h | exact Bytes.wf_writeL _ _ (Bytes.wf_undefine _ _ _ h) | exact wf_paramWrite _ _ _ h | exact wf_dirWrite _ _ h); (case hkp => intro h; with_reducible first | exact h | exact Bytes.wf_writeL _ _ rfl | exact rfl)])
    | split
    | dsimp only

theorem kept_loadSlot (s : State) (f : Bytes) (slot : Nat) : Kept 0x2000000 s (State.loadSlot s f slot).1 := by
  unfold State.loadSlot
  repeat' first
    | decide
    | dsimp only
    | with_reducible exact Kept.refl _ _
    | with_reducible assumption
    | with_reducible refine Kept.ite ?_ ?_
    | with_reducible apply Kept.step (kept_extend _ _ _)
    | with_reducible (show Kept _ _ _; refine Kept.mk ?_)
    | (refine Kept.mk ?_ (hk := hmk_wf ?hkf (fun h => h) ?hkp) <;> [skip; (case hkf => intro h; with_reducible first | exact h | exact Bytes.wf_writeL _ _ h | exact Bytes.wf_undefine _ _ _ h | exact Bytes.wf_writeL _ _ (Bytes.wf_undefine _ _ _ h) | exact wf_paramWrite _ _ _ h | exact wf_dirWrite _ _ h); (case hkp => intro h; with_reducible first | exact h | exact Bytes.wf_writeL _ _ rfl | exact rfl)])
    | split
    | dsimp only

theorem kept_firmware (s : State) (f : Bytes) : Kept 0x20c2200000 s (State.firmware s f).1 := by
  unfold State.firmware
  dsimp only
  have h0 := kept_loadSlot s f (((dirTaken f).map (·.2.active)).getD 0)
  generalize s.loadSlot f (((dirTaken f).map (·.2.active)).getD 0) = x at h0 ⊢
  obtain ⟨s1, r⟩ := x
  rcases r with ⟨m1, e1⟩ | cs
  · dsimp only at h0 ⊢
    have h1 := kept_loadSlot (s1.raiseG St.hmkSlotFallback) f (1 - ((dirTaken f).map (·.2.active)).getD 0)
    have h2 := kept_raiseG s1 St.hmkSlotFallback 0 schedAgent 0xFFFF false
    generalize (s1.raiseG St.hmkSlotFallback).loadSlot f (1 - ((dirTaken f).map (·.2.active)).getD 0) = y at h1 ⊢
    obtain ⟨s2, r2⟩ := y
    rcases r2 with ⟨m2, e2⟩ | cs
    · exact (h0.mono (by decide)).trans ((h2.mono (by decide)).trans (h1.mono (by decide)))
    · exact (h0.mono (by decide)).trans ((h2.mono (by decide)).trans (h1.mono (by decide)))
  · exact h0.mono (by decide)


theorem kept_limit (s : State) (step status : Nat) : Kept 0x2042200004 s (State.limit s step status) := by
  unfold State.limit
  repeat' first
    | decide
    | with_reducible exact Kept.refl _ _
    | with_reducible assumption
    | with_reducible refine Kept.ite ?_ ?_
    | with_reducible apply Kept.step (kept_raiseG _ _ _ _ _ _)
    | with_reducible (show Kept _ _ _; refine Kept.mk ?_)
    | (refine Kept.mk ?_ (hk := hmk_wf ?hkf (fun h => h) ?hkp) <;> [skip; (case hkf => intro h; with_reducible first | exact h | exact Bytes.wf_writeL _ _ h | exact Bytes.wf_undefine _ _ _ h | exact Bytes.wf_writeL _ _ (Bytes.wf_undefine _ _ _ h) | exact wf_paramWrite _ _ _ h | exact wf_dirWrite _ _ h); (case hkp => intro h; with_reducible first | exact h | exact Bytes.wf_writeL _ _ rfl | exact rfl)])
    | split
    | dsimp only

theorem kept_pickImage (s : State) (l : List (List Byte)) : Kept 0x8 s (s.pickImage l).1 := by
  induction l generalizing s with
  | nil => exact Kept.refl _ _
  | cons img rest ih =>
    unfold State.pickImage
    split
    · exact Kept.refl _ _
    · split
      · exact (kept_setFinish _ _ _).mono (by decide)
      · exact ((kept_setFinish _ _ _).mono (by decide)).trans (ih _)

theorem kept_bringUp (s : State) (i : BootIn) : Kept 0x20c0260026 s (State.bringUp s i).1 := by
  unfold State.bringUp
  dsimp only
  refine Kept.foldl (fun u b => ?_) ?_
  · refine Kept.of (kept_updBead _ _ _) ?_
    split
    · exact Kept.refl _ _
    · exact Kept.of (kept_undefBead _ _) (Kept.refl _ _)
  · refine Kept.foldl (fun u b => ?_) ?_
    · split
      · exact Kept.of (kept_retirePc _ _ _) (Kept.refl _ _)
      · exact Kept.refl _ _
    · exact Kept.mk (Kept.refl _ _) (hr := fun _ => rfl)


theorem kept_holeAgain (s : State) : Kept 0x40000 s (State.holeAgain s) := by
  unfold State.holeAgain
  repeat' first
    | decide
    | with_reducible exact Kept.refl _ _
    | with_reducible assumption
    | with_reducible refine Kept.ite ?_ ?_
    | with_reducible apply Kept.step (kept_holePages _ _ _)
    | with_reducible refine Kept.foldl (fun _ _ => ?_) ?_
    | with_reducible (show Kept _ _ _; refine Kept.mk ?_)
    | (refine Kept.mk ?_ (hk := hmk_wf ?hkf (fun h => h) ?hkp) <;> [skip; (case hkf => intro h; with_reducible first | exact h | exact Bytes.wf_writeL _ _ h | exact Bytes.wf_undefine _ _ _ h | exact Bytes.wf_writeL _ _ (Bytes.wf_undefine _ _ _ h) | exact wf_paramWrite _ _ _ h | exact wf_dirWrite _ _ h); (case hkp => intro h; with_reducible first | exact h | exact Bytes.wf_writeL _ _ rfl | exact rfl)])
    | split
    | dsimp only

theorem kept_installF (n : Nat) (s : State) (ms : Nat) (r : Option (Loaded × List (List Byte))) : Kept 0x27c276e87e s (State.installF n s ms r).1 := by
  induction n generalizing s r with
  | zero => exact Kept.refl _ _
  | succ n ih =>
    rcases r with _ | ⟨l, rest⟩ <;> unfold State.installF <;> dsimp only
    · repeat' first
    | decide
      | with_reducible exact Kept.refl _ _
      | with_reducible assumption
      | with_reducible apply Kept.step (ih _ _)
      | with_reducible refine Kept.ite ?_ ?_
      | with_reducible apply Kept.step (kept_apply _ _ _)
      | with_reducible apply Kept.step (kept_holeAgain _)
      | with_reducible apply Kept.step (kept_raiseG _ _ _ _ _ _)
      | with_reducible apply Kept.step (kept_setFinish _ _ _)
      | with_reducible apply Kept.step (kept_pickImage _ _)
      | with_reducible refine Kept.fst_eq3 ‹_ = (_, _, _)› (Kept.of (kept_pickImage _ _) ?_)
      | with_reducible apply Kept.step (kept_extend _ _ _)
      | with_reducible (show Kept _ _ _; refine Kept.mk ?_)
      | (refine Kept.mk ?_ (hk := hmk_wf ?hkf (fun h => h) ?hkp) <;> [skip; (case hkf => intro h; with_reducible first | exact h | exact Bytes.wf_writeL _ _ h | exact Bytes.wf_undefine _ _ _ h | exact Bytes.wf_writeL _ _ (Bytes.wf_undefine _ _ _ h) | exact wf_paramWrite _ _ _ h | exact wf_dirWrite _ _ h); (case hkp => intro h; with_reducible first | exact h | exact Bytes.wf_writeL _ _ rfl | exact rfl)])
      | split
      | dsimp only
    · repeat' first
    | decide
      | with_reducible exact Kept.refl _ _
      | with_reducible assumption
      | with_reducible apply Kept.step (ih _ _)
      | with_reducible refine Kept.ite ?_ ?_
      | with_reducible apply Kept.step (kept_apply _ _ _)
      | with_reducible apply Kept.step (kept_holeAgain _)
      | with_reducible apply Kept.step (kept_raiseG _ _ _ _ _ _)
      | with_reducible apply Kept.step (kept_setFinish _ _ _)
      | with_reducible apply Kept.step (kept_pickImage _ _)
      | with_reducible refine Kept.fst_eq3 ‹_ = (_, _, _)› (Kept.of (kept_pickImage _ _) ?_)
      | with_reducible apply Kept.step (kept_extend _ _ _)
      | with_reducible (show Kept _ _ _; refine Kept.mk ?_)
      | (refine Kept.mk ?_ (hk := hmk_wf ?hkf (fun h => h) ?hkp) <;> [skip; (case hkf => intro h; with_reducible first | exact h | exact Bytes.wf_writeL _ _ h | exact Bytes.wf_undefine _ _ _ h | exact Bytes.wf_writeL _ _ (Bytes.wf_undefine _ _ _ h) | exact wf_paramWrite _ _ _ h | exact wf_dirWrite _ _ h); (case hkp => intro h; with_reducible first | exact h | exact Bytes.wf_writeL _ _ rfl | exact rfl)])
      | split
      | dsimp only

theorem kept_becomeReady (s : State) : Kept 0x2000014 s (State.becomeReady s) := by
  unfold State.becomeReady
  repeat' first
    | decide
    | with_reducible exact Kept.refl _ _
    | with_reducible assumption
    | with_reducible refine Kept.ite ?_ ?_
    | with_reducible apply Kept.step (kept_fwupConfirm _ _)
    | with_reducible (show Kept _ _ _; refine Kept.mk ?_)
    | (refine Kept.mk ?_ (hk := hmk_wf ?hkf (fun h => h) ?hkp) <;> [skip; (case hkf => intro h; with_reducible first | exact h | exact Bytes.wf_writeL _ _ h | exact Bytes.wf_undefine _ _ _ h | exact Bytes.wf_writeL _ _ (Bytes.wf_undefine _ _ _ h) | exact wf_paramWrite _ _ _ h | exact wf_dirWrite _ _ h); (case hkp => intro h; with_reducible first | exact h | exact Bytes.wf_writeL _ _ rfl | exact rfl)])
    | split
    | dsimp only

theorem kept_finishBoot (s : State) (i : BootIn) (ms : Nat) (l : Option (Loaded × List (List Byte))) : Kept 0x27c276e87e s (State.finishBoot s i ms l) := by
  unfold State.finishBoot
  repeat' first
    | decide
    | with_reducible exact Kept.refl _ _
    | with_reducible assumption
    | with_reducible refine Kept.ite ?_ ?_
    | with_reducible apply Kept.step (kept_bringUp _ _)
    | with_reducible refine Kept.fst_eq ‹_ = (_, _)› (Kept.of (kept_bringUp _ _) ?_)
    | with_reducible refine Kept.fst_eq3 ‹_ = (_, _, _)› (Kept.of (kept_bringUp _ _) ?_)
    | with_reducible apply Kept.step (kept_limit _ _ _)
    | with_reducible apply Kept.step (kept_installF _ _ _ _)
    | with_reducible refine Kept.fst_eq ‹_ = (_, _)› (Kept.of (kept_installF _ _ _ _) ?_)
    | with_reducible apply Kept.step (kept_becomeReady _)
    | with_reducible (show Kept _ _ _; refine Kept.mk ?_)
    | (refine Kept.mk ?_ (hk := hmk_wf ?hkf (fun h => h) ?hkp) <;> [skip; (case hkf => intro h; with_reducible first | exact h | exact Bytes.wf_writeL _ _ h | exact Bytes.wf_undefine _ _ _ h | exact Bytes.wf_writeL _ _ (Bytes.wf_undefine _ _ _ h) | exact wf_paramWrite _ _ _ h | exact wf_dirWrite _ _ h); (case hkp => intro h; with_reducible first | exact h | exact Bytes.wf_writeL _ _ rfl | exact rfl)])
    | split
    | dsimp only

theorem kept_bootRest (s : State) (f : Bytes) (i : BootIn) (slot : Nat) (cs : List Comp) : Kept 0x27c276e87e s (State.bootRest s f i slot cs) := by
  have hk : ∀ (s : State) (off : SMap (Nat × Nat)), Kept 0x2000000 s { s with hmk := { s.hmk with slot, versions := cs.map Comp.version, svns := cs.map Comp.svn, offers := off, stage := 6, useBackup := f == s.hmk.backup } } :=
    fun s off => Kept.mk (Kept.refl _ _)
  have hd : ∀ s : State, Kept 0x4 s { s with dev := { s.dev with untested := true } } := fun s => Kept.mk (Kept.refl _ _)
  unfold State.bootRest
  extract_lets tested offers h1 s1 s2 d1 s3
  have k2 : Kept 0x27c276e87e s s2 := ((hk s offers).mono (by decide)).trans ((kept_extend _ _ _).mono (by decide))
  have k3 : Kept 0x27c276e87e s s3 := by
    show Kept _ _ (if tested = true then s2 else _)
    split
    · exact k2
    · exact k2.trans (((hd _).mono (by decide)).trans ((kept_raiseG _ _ _ _ _ _).mono (by decide)))
  split
  · exact k2.trans ((kept_limit _ _ _).mono (by decide))
  · have kp := kept_pickImage s3 (s3.storedImages f)
    generalize s3.pickImage (s3.storedImages f) = p at kp ⊢
    obtain ⟨s4, l, b⟩ := p
    have k4 : Kept 0x27c276e87e s s4 := k3.trans (kp.mono (by decide))
    cases b
    · exact k4.trans ((kept_finishBoot _ _ _ _).mono (by decide))
    · exact k4.trans ((kept_limit _ _ _).mono (by decide))


theorem kept_bootOnce (s : State) (i : BootIn) : Kept 0x3fffffffff s (State.bootOnce s i) := by
  unfold State.bootOnce
  extract_lets s1 h1 s2 s3
  have k1 : Kept 0x3fffffffff s s1 := ((kept_powerUp s i).mono (by decide)).trans
    (((kept_extend _ _ _).mono (by decide)).trans ((kept_readParams _ _).mono (by decide)))
  clear_value s1
  split
  · exact k1.trans (Kept.mk (Kept.refl _ _))
  · have k2 : Kept 0x3fffffffff s s2 := k1.trans ((kept_trialBegin _).mono (by decide))
    clear_value s2
    have hl : ∀ (u : State) (n e : Nat), Kept 0x3fffffffff s u → Kept 0x3fffffffff s (u.limit n e) := fun u n e h => h.trans ((kept_limit _ _ _).mono (by decide))
    have hb : ∀ (u : State) (f : Bytes) (n : Nat) (cs : List Comp), Kept 0x3fffffffff s u → Kept 0x3fffffffff s (u.bootRest f i n cs) :=
      fun u f n cs h => h.trans ((kept_bootRest _ _ _ _ _).mono (by decide))
    have k3 : Kept 0x3fffffffff s s3 := by
      have kf := kept_firmware s2 s2.hmk.flash
      subst s3
      generalize s2.firmware s2.hmk.flash = p at kf ⊢
      obtain ⟨u, r⟩ := p
      have ku : Kept 0x3fffffffff s u := k2.trans (kf.mono (by decide))
      rcases r with ⟨m, e⟩ | ⟨slot, cs⟩
      · cases m
        · exact hl _ _ _ ku
        · dsimp only
          have hq : ∀ v : State, Kept 0x3fffffffff s v → Kept 0x3fffffffff s (match v.firmware v.hmk.backup with
              | (s, .ok (slot, cs)) => s.bootRest s.hmk.backup i slot cs
              | (s, .error (false, e)) => s.limit 5 e
              | (s, .error (true, _)) =>
                ({ s with dev := { s.dev with bootFailed := true }, hmk := { s.hmk with stage := 2, err := St.hmkBootFailed } }).raiseG St.hmkBootFailed) := by
            intro v kb
            have kg := kept_firmware v v.hmk.backup
            generalize v.firmware v.hmk.backup = q at kg ⊢
            obtain ⟨w, r2⟩ := q
            have kw : Kept 0x3fffffffff s w := kb.trans (kg.mono (by decide))
            rcases r2 with ⟨m2, e2⟩ | ⟨slot, cs⟩
            · cases m2
              · exact hl _ _ _ kw
              · exact kw.trans (Kept.of (kept_raiseG _ _ _ _ _ _) (Kept.mk (Kept.refl _ _)))
            · exact hb _ _ _ _ kw
          cases paramTaken u.hmk.backup with
          | none => exact hq _ ku
          | some x =>
            dsimp only
            generalize hv : State.readParams _ _ = v
            refine hq v ?_
            subst hv
            refine ku.trans ?_
            refine Kept.trans ?_ ((kept_readParams _ _).mono (by decide))
            exact Kept.mk (Kept.refl _ _)
      · exact hb _ _ _ _ ku
    clear_value s3
    split
    · exact k3
    · exact k3.trans ((kept_flashQueue _ _).mono (by decide))


theorem kept_boot (s : State) (i : BootIn) : Kept 0x3fffffffff s (State.boot s i) := by
  unfold State.boot
  repeat' first
    | decide
    | with_reducible exact Kept.refl _ _
    | with_reducible assumption
    | with_reducible refine Kept.ite ?_ ?_
    | with_reducible apply Kept.step (kept_bootOnce _ _)
    | with_reducible apply Kept.step (kept_revert _ _)
    | with_reducible apply Kept.step (kept_logEvent _)
    | with_reducible apply Kept.step (kept_raiseG _ _ _ _ _ _)
    | with_reducible (show Kept _ _ _; refine Kept.mk ?_)
    | (refine Kept.mk ?_ (hk := hmk_wf ?hkf (fun h => h) ?hkp) <;> [skip; (case hkf => intro h; with_reducible first | exact h | exact Bytes.wf_writeL _ _ h | exact Bytes.wf_undefine _ _ _ h | exact Bytes.wf_writeL _ _ (Bytes.wf_undefine _ _ _ h) | exact wf_paramWrite _ _ _ h | exact wf_dirWrite _ _ h); (case hkp => intro h; with_reducible first | exact h | exact Bytes.wf_writeL _ _ rfl | exact rfl)])
    | split
    | dsimp only

theorem kept_execPorstN (i : BootIn) (s : State) : ∀ t', execPorstN i s = .next t' → Kept 0x3fffffffff s t' := by
  intro t2 h
  unfold execPorstN at h
  injection h with h; subst h
  repeat' first
    | decide
    | with_reducible exact Kept.refl _ _
    | with_reducible assumption
    | with_reducible refine Kept.ite ?_ ?_
    | with_reducible apply Kept.step (kept_boot _ _)
    | with_reducible (show Kept _ _ _; refine Kept.mk ?_)
    | (refine Kept.mk ?_ (hk := hmk_wf ?hkf (fun h => h) ?hkp) <;> [skip; (case hkf => intro h; with_reducible first | exact h | exact Bytes.wf_writeL _ _ h | exact Bytes.wf_undefine _ _ _ h | exact Bytes.wf_writeL _ _ (Bytes.wf_undefine _ _ _ h) | exact wf_paramWrite _ _ _ h | exact wf_dirWrite _ _ h); (case hkp => intro h; with_reducible first | exact h | exact Bytes.wf_writeL _ _ rfl | exact rfl)])
    | split
    | dsimp only

theorem kept_execTrialWatchdog (i : BootIn) (s : State) : ∀ t', execTrialWatchdog i s = .next t' → Kept 0x3fffffffff s t' := by
  intro t2 h
  unfold execTrialWatchdog at h
  refine kept_unlessDown h (fun t2 h => ?_)
  injection h with h; subst h
  repeat' first
    | decide
    | with_reducible exact Kept.refl _ _
    | with_reducible assumption
    | with_reducible refine Kept.ite ?_ ?_
    | with_reducible apply Kept.step (kept_boot _ _)
    | with_reducible (show Kept _ _ _; refine Kept.mk ?_)
    | (refine Kept.mk ?_ (hk := hmk_wf ?hkf (fun h => h) ?hkp) <;> [skip; (case hkf => intro h; with_reducible first | exact h | exact Bytes.wf_writeL _ _ h | exact Bytes.wf_undefine _ _ _ h | exact Bytes.wf_writeL _ _ (Bytes.wf_undefine _ _ _ h) | exact wf_paramWrite _ _ _ h | exact wf_dirWrite _ _ h); (case hkp => intro h; with_reducible first | exact h | exact Bytes.wf_writeL _ _ rfl | exact rfl)])
    | split
    | dsimp only

theorem kept_mgtResetReg (s : State) (x : Nat) (i : BootIn) : Kept 0x3fffffffff s (State.mgtResetReg s x i) := by
  unfold State.mgtResetReg
  repeat' first
    | decide
    | with_reducible exact Kept.refl _ _
    | with_reducible assumption
    | with_reducible refine Kept.ite ?_ ?_
    | with_reducible apply Kept.step (kept_boot _ _)
    | with_reducible apply Kept.step (kept_regacc _ _)
    | with_reducible (show Kept _ _ _; refine Kept.mk ?_)
    | (refine Kept.mk ?_ (hk := hmk_wf ?hkf (fun h => h) ?hkp) <;> [skip; (case hkf => intro h; with_reducible first | exact h | exact Bytes.wf_writeL _ _ h | exact Bytes.wf_undefine _ _ _ h | exact Bytes.wf_writeL _ _ (Bytes.wf_undefine _ _ _ h) | exact wf_paramWrite _ _ _ h | exact wf_dirWrite _ _ h); (case hkp => intro h; with_reducible first | exact h | exact Bytes.wf_writeL _ _ rfl | exact rfl)])
    | split
    | dsimp only

theorem kept_warmReset (s : State) (i : BootIn) : Kept 0x3fffffffff s (State.warmReset s i) := by
  unfold State.warmReset
  repeat' first
    | decide
    | with_reducible exact Kept.refl _ _
    | with_reducible assumption
    | with_reducible refine Kept.ite ?_ ?_
    | with_reducible apply Kept.step (kept_logEvent _)
    | with_reducible apply Kept.step (kept_warmBase _)
    | with_reducible apply Kept.step (kept_resetFunction _ _)
    | with_reducible apply Kept.step (kept_finishBoot _ _ _ _)
    | with_reducible refine Kept.foldl (fun _ _ => ?_) ?_
    | with_reducible (show Kept _ _ _; refine Kept.mk ?_)
    | (refine Kept.mk ?_ (hk := hmk_wf ?hkf (fun h => h) ?hkp) <;> [skip; (case hkf => intro h; with_reducible first | exact h | exact Bytes.wf_writeL _ _ h | exact Bytes.wf_undefine _ _ _ h | exact Bytes.wf_writeL _ _ (Bytes.wf_undefine _ _ _ h) | exact wf_paramWrite _ _ _ h | exact wf_dirWrite _ _ h); (case hkp => intro h; with_reducible first | exact h | exact Bytes.wf_writeL _ _ rfl | exact rfl)])
    | split
    | dsimp only

theorem kept_execCdieLoss (_die : Die) (i : BootIn) (s : State) : ∀ t', execCdieLoss _die i s = .next t' → Kept 0x3fffffffff s t' := by
  intro t2 h
  unfold execCdieLoss at h
  refine kept_unlessDown h (fun t2 h => ?_)
  injection h with h; subst h
  repeat' first
    | decide
    | with_reducible exact Kept.refl _ _
    | with_reducible assumption
    | with_reducible refine Kept.ite ?_ ?_
    | with_reducible apply Kept.step (kept_warmReset _ _)
    | with_reducible (show Kept _ _ _; refine Kept.mk ?_)
    | (refine Kept.mk ?_ (hk := hmk_wf ?hkf (fun h => h) ?hkp) <;> [skip; (case hkf => intro h; with_reducible first | exact h | exact Bytes.wf_writeL _ _ h | exact Bytes.wf_undefine _ _ _ h | exact Bytes.wf_writeL _ _ (Bytes.wf_undefine _ _ _ h) | exact wf_paramWrite _ _ _ h | exact wf_dirWrite _ _ h); (case hkp => intro h; with_reducible first | exact h | exact Bytes.wf_writeL _ _ rfl | exact rfl)])
    | split
    | dsimp only

theorem kept_execHubLoss (_hub : Fin 2) (s : State) : ∀ t', execHubLoss _hub s = .next t' → Kept 0x3fffffffff s t' := by
  intro t2 h
  unfold execHubLoss at h
  refine kept_unlessDown h (fun t2 h => ?_)
  injection h with h
  subst h
  exact Kept.trans (Kept.of (kept_warmBase _) ((kept_logEvent s).mono (by decide))) (Kept.mk (Kept.refl _ _))


theorem kept_execFilSubchLost (ch : SubChId) (i : BootIn) (s : State) : ∀ t', execFilSubchLost ch i s = .next t' → Kept 0x3fffffffff s t' := by
  intro t2 h
  unfold execFilSubchLost at h
  refine kept_unlessDown h (fun t2 h => ?_)
  injection h with h; subst h
  repeat' first
    | decide
    | with_reducible exact Kept.refl _ _
    | with_reducible assumption
    | with_reducible refine Kept.ite ?_ ?_
    | with_reducible apply Kept.step (kept_updSub _ _ _)
    | with_reducible apply Kept.step (kept_warmReset _ _)
    | with_reducible apply Kept.step (kept_raiseG _ _ _ _ _ _)
    | with_reducible refine Kept.foldl (fun _ _ => ?_) ?_
    | with_reducible (show Kept _ _ _; refine Kept.mk ?_)
    | (refine Kept.mk ?_ (hk := hmk_wf ?hkf (fun h => h) ?hkp) <;> [skip; (case hkf => intro h; with_reducible first | exact h | exact Bytes.wf_writeL _ _ h | exact Bytes.wf_undefine _ _ _ h | exact Bytes.wf_writeL _ _ (Bytes.wf_undefine _ _ _ h) | exact wf_paramWrite _ _ _ h | exact wf_dirWrite _ _ h); (case hkp => intro h; with_reducible first | exact h | exact Bytes.wf_writeL _ _ rfl | exact rfl)])
    | split
    | dsimp only

theorem kept_execSchedTakeover (reported : Bool) (t : Nat) (i : BootIn) (s : State) : ∀ t', execSchedTakeover reported t i s = .next t' → Kept 0x3fffffffff s t' := by
  intro t2 h
  unfold execSchedTakeover at h
  refine kept_unlessDown h (fun t2 h => ?_)
  injection h with h; subst h
  repeat' first
    | decide
    | with_reducible exact Kept.refl _ _
    | with_reducible assumption
    | with_reducible refine Kept.ite ?_ ?_
    | with_reducible apply Kept.step (kept_at _ _)
    | with_reducible apply Kept.step (kept_warmReset _ _)
    | with_reducible apply Kept.step (kept_raiseG _ _ _ _ _ _)
    | with_reducible apply Kept.step (kept_tick _ _)
    | with_reducible (show Kept _ _ _; refine Kept.mk ?_)
    | (refine Kept.mk ?_ (hk := hmk_wf ?hkf (fun h => h) ?hkp) <;> [skip; (case hkf => intro h; with_reducible first | exact h | exact Bytes.wf_writeL _ _ h | exact Bytes.wf_undefine _ _ _ h | exact Bytes.wf_writeL _ _ (Bytes.wf_undefine _ _ _ h) | exact wf_paramWrite _ _ _ h | exact wf_dirWrite _ _ h); (case hkp => intro h; with_reducible first | exact h | exact Bytes.wf_writeL _ _ rfl | exact rfl)])
    | split
    | dsimp only

theorem kept_execSchedStandbyLost (s : State) : ∀ t', execSchedStandbyLost s = .next t' → Kept 0x2040200010 s t' := by
  intro t2 h
  unfold execSchedStandbyLost at h
  refine kept_unlessDown h (fun t2 h => ?_)
  injection h with h; subst h
  repeat' first
    | decide
    | with_reducible exact Kept.refl _ _
    | with_reducible assumption
    | with_reducible refine Kept.ite ?_ ?_
    | with_reducible apply Kept.step (kept_raiseG _ _ _ _ _ _)
    | with_reducible (show Kept _ _ _; refine Kept.mk ?_)
    | (refine Kept.mk ?_ (hk := hmk_wf ?hkf (fun h => h) ?hkp) <;> [skip; (case hkf => intro h; with_reducible first | exact h | exact Bytes.wf_writeL _ _ h | exact Bytes.wf_undefine _ _ _ h | exact Bytes.wf_writeL _ _ (Bytes.wf_undefine _ _ _ h) | exact wf_paramWrite _ _ _ h | exact wf_dirWrite _ _ h); (case hkp => intro h; with_reducible first | exact h | exact Bytes.wf_writeL _ _ rfl | exact rfl)])
    | split
    | dsimp only

end Sys2Proof.Machine
end

