-- ==== Sys2Proof/Laws/KeptRegWrite.lean ====
section
/-! SUPPORT. What the operations of Machine/RegWrite.lean may touch. -/

set_option Elab.async false
set_option linter.unusedTactic false
set_option linter.unreachableTactic false

namespace Sys2Proof.Machine

theorem kept_wrMbox (s : State) (f o x : Nat) : Kept 0x100200000 s (State.wrMbox s f o x) := by
  unfold State.wrMbox
  repeat' first
    | decide
    | with_reducible exact Kept.refl _ _
    | with_reducible assumption
    | with_reducible refine Kept.ite ?_ ?_
    | with_reducible apply Kept.step (kept_updFn _ _ _)
    | with_reducible apply Kept.step (kept_count _ _)
    | with_reducible (show Kept _ _ _; refine Kept.mk ?_)
    | split
    | dsimp only

theorem kept_setHeadG (s : State) (x : Nat) : Kept 0x2140200000 s (State.setHeadG s x) := by
  unfold State.setHeadG
  repeat' first
    | decide
    | with_reducible exact Kept.refl _ _
    | with_reducible assumption
    | with_reducible refine Kept.ite ?_ ?_
    | with_reducible apply Kept.step (kept_regacc _ _)
    | with_reducible (show Kept _ _ _; refine Kept.mk ?_)
    | split
    | dsimp only

theorem kept_setHeadU (s : State) (u x : Nat) : Kept 0x21c0200000 s (State.setHeadU s u x) := by
  unfold State.setHeadU
  repeat' first
    | decide
    | with_reducible exact Kept.refl _ _
    | with_reducible assumption
    | with_reducible refine Kept.ite ?_ ?_
    | with_reducible apply Kept.step (kept_regacc _ _)
    | with_reducible (show Kept _ _ _; refine Kept.mk ?_)
    | split
    | dsimp only

theorem kept_updQueue (s : State) (u : Nat) (f : ErrQueue → ErrQueue) : Kept 0x80000000 s (State.updQueue s u f) := by
  unfold State.updQueue
  repeat' first
    | decide
    | with_reducible exact Kept.refl _ _
    | with_reducible assumption
    | with_reducible refine Kept.ite ?_ ?_
    | with_reducible (show Kept _ _ _; refine Kept.mk ?_)
    | split
    | dsimp only

theorem kept_wrUwinFunc (s : State) (w x : Nat) : Kept 0x2140600000 s (State.wrUwinFunc s w x) := by
  unfold State.wrUwinFunc
  repeat' first
    | decide
    | with_reducible exact Kept.refl _ _
    | with_reducible assumption
    | with_reducible refine Kept.ite ?_ ?_
    | with_reducible apply Kept.step (kept_regacc _ _)
    | with_reducible apply Kept.step (kept_resetWindow _ _)
    | with_reducible apply Kept.step (kept_updWin _ _ _)
    | with_reducible (show Kept _ _ _; refine Kept.mk ?_)
    | split
    | dsimp only

theorem kept_wrWinC (s : State) (x : Nat) : Kept 0x2140200000 s (State.wrWinC s x) := by
  unfold State.wrWinC
  repeat' first
    | decide
    | with_reducible exact Kept.refl _ _
    | with_reducible assumption
    | with_reducible refine Kept.ite ?_ ?_
    | with_reducible apply Kept.step (kept_updFn _ _ _)
    | with_reducible apply Kept.step (kept_regacc _ _)
    | with_reducible (show Kept _ _ _; refine Kept.mk ?_)
    | split
    | dsimp only

theorem kept_wrCfg (s : State) (w o x : Nat) : Kept 0x400000 s (State.wrCfg s w o x) := by
  unfold State.wrCfg
  repeat' first
    | decide
    | with_reducible exact Kept.refl _ _
    | with_reducible assumption
    | with_reducible refine Kept.ite ?_ ?_
    | with_reducible apply Kept.step (kept_updWin _ _ _)
    | with_reducible (show Kept _ _ _; refine Kept.mk ?_)
    | split
    | dsimp only

theorem kept_wrDev (s : State) (o x : Nat) : Kept 0x2940600000 s (State.wrDev s o x) := by
  unfold State.wrDev
  repeat' first
    | decide
    | with_reducible exact Kept.refl _ _
    | with_reducible assumption
    | with_reducible refine Kept.ite ?_ ?_
    | with_reducible apply Kept.step (kept_wrCfg _ _ _ _)
    | with_reducible apply Kept.step (kept_wrMbox _ _ _ _)
    | with_reducible apply Kept.step (kept_wrUwinFunc _ _ _)
    | with_reducible apply Kept.step (kept_regacc _ _)
    | with_reducible apply Kept.step (kept_wrWinC _ _)
    | with_reducible (show Kept _ _ _; refine Kept.mk ?_)
    | split
    | dsimp only

theorem kept_wrSet (s : State) (o x : Nat) : Kept 0x2040200008 s (State.wrSet s o x) := by
  unfold State.wrSet
  repeat' first
    | decide
    | with_reducible exact Kept.refl _ _
    | with_reducible assumption
    | with_reducible refine Kept.ite ?_ ?_
    | with_reducible apply Kept.step (kept_loadGo _ _)
    | with_reducible (show Kept _ _ _; refine Kept.mk ?_)
    | split
    | dsimp only

theorem kept_setPtr (s : State) (u x : Nat) : Kept 0x40 s (State.setPtr s u x) := by
  unfold State.setPtr
  repeat' first
    | decide
    | with_reducible exact Kept.refl _ _
    | with_reducible assumption
    | with_reducible refine Kept.ite ?_ ?_
    | with_reducible apply Kept.step (kept_updUnit _ _ _)
    | with_reducible (show Kept _ _ _; refine Kept.mk ?_)
    | split
    | dsimp only

theorem kept_wrFrm (s : State) (o x : Nat) : Kept 0x2940200050 s (State.wrFrm s o x) := by
  unfold State.wrFrm
  repeat' first
    | decide
    | with_reducible exact Kept.refl _ _
    | with_reducible assumption
    | with_reducible refine Kept.ite ?_ ?_
    | with_reducible apply Kept.step (kept_setPtr _ _ _)
    | with_reducible apply Kept.step (kept_regacc _ _)
    | with_reducible (show Kept _ _ _; refine Kept.mk ?_)
    | split
    | dsimp only

theorem kept_wrSes (s : State) (o x : Nat) : Kept 0x800000000 s (State.wrSes s o x) := by
  unfold State.wrSes
  repeat' first
    | decide
    | with_reducible exact Kept.refl _ _
    | with_reducible assumption
    | with_reducible refine Kept.ite ?_ ?_
    | with_reducible apply Kept.step (kept_entRead _ _)
    | with_reducible (show Kept _ _ _; refine Kept.mk ?_)
    | split
    | dsimp only

theorem kept_wrClp (s : State) (v : Via) (o x : Nat) : Kept 0x29c0722822 s (State.wrClp s v o x) := by
  unfold State.wrClp
  repeat' first
    | decide
    | with_reducible exact Kept.refl _ _
    | with_reducible assumption
    | with_reducible refine Kept.ite ?_ ?_
    | with_reducible apply Kept.step (kept_clpOp _ _ _)
    | with_reducible apply Kept.step (kept_regacc _ _)
    | with_reducible (show Kept _ _ _; refine Kept.mk ?_)
    | split
    | dsimp only

theorem kept_wrBpm (s : State) (o x : Nat) : Kept 0x2940640002 s (State.wrBpm s o x) := by
  unfold State.wrBpm
  repeat' first
    | decide
    | with_reducible exact Kept.refl _ _
    | with_reducible assumption
    | with_reducible refine Kept.ite ?_ ?_
    | with_reducible apply Kept.step (kept_bpmAllocReg _ _ _)
    | with_reducible apply Kept.step (kept_bpmFreeReg _ _ _)
    | with_reducible (show Kept _ _ _; refine Kept.mk ?_)
    | split
    | dsimp only

theorem kept_wrMem (s : State) (o x : Nat) : Kept 0x800020000 s (State.wrMem s o x) := by
  unfold State.wrMem
  repeat' first
    | decide
    | with_reducible exact Kept.refl _ _
    | with_reducible assumption
    | with_reducible refine Kept.ite ?_ ?_
    | with_reducible (show Kept _ _ _; refine Kept.mk ?_)
    | split
    | dsimp only

theorem kept_wrFil (s : State) (o x : Nat) : Kept 0x200080000 s (State.wrFil s o x) := by
  unfold State.wrFil
  repeat' first
    | decide
    | with_reducible exact Kept.refl _ _
    | with_reducible assumption
    | with_reducible refine Kept.ite ?_ ?_
    | with_reducible (show Kept _ _ _; refine Kept.mk ?_)
    | split
    | dsimp only

theorem kept_addrCmd (s : State) (x : Nat) : Kept 0x100000 s (State.addrCmd s x) := by
  unfold State.addrCmd
  repeat' first
    | decide
    | with_reducible exact Kept.refl _ _
    | with_reducible assumption
    | with_reducible refine Kept.ite ?_ ?_
    | with_reducible (show Kept _ _ _; refine Kept.mk ?_)
    | split
    | dsimp only

theorem kept_wrNet (s : State) (o x : Nat) : Kept 0xc00100000 s (State.wrNet s o x) := by
  unfold State.wrNet
  repeat' first
    | decide
    | with_reducible exact Kept.refl _ _
    | with_reducible assumption
    | with_reducible refine Kept.ite ?_ ?_
    | with_reducible apply Kept.step (kept_updPort _ _ _)
    | with_reducible apply Kept.step (kept_addrCmd _ _)
    | with_reducible (show Kept _ _ _; refine Kept.mk ?_)
    | split
    | dsimp only

theorem kept_wrHmk (s : State) (o x : Nat) : Kept 0x2142200004 s (State.wrHmk s o x) := by
  unfold State.wrHmk
  repeat' first
    | decide
    | with_reducible exact Kept.refl _ _
    | with_reducible assumption
    | with_reducible refine Kept.ite ?_ ?_
    | with_reducible apply Kept.step (kept_extCtrl _ _)
    | with_reducible apply Kept.step (kept_dbgCtrl _ _)
    | with_reducible (show Kept _ _ _; refine Kept.mk ?_)
    | split
    | dsimp only

theorem kept_wrPwr (s : State) (o x : Nat) : Kept 0x2144200000 s (State.wrPwr s o x) := by
  unfold State.wrPwr
  repeat' first
    | decide
    | with_reducible exact Kept.refl _ _
    | with_reducible assumption
    | with_reducible refine Kept.ite ?_ ?_
    | with_reducible apply Kept.step (kept_pwrReq _ _)
    | with_reducible apply Kept.step (kept_pwrCap _ _)
    | with_reducible (show Kept _ _ _; refine Kept.mk ?_)
    | split
    | dsimp only

theorem kept_wrErr (s : State) (o x : Nat) : Kept 0x29c0200000 s (State.wrErr s o x) := by
  unfold State.wrErr
  repeat' first
    | decide
    | with_reducible exact Kept.refl _ _
    | with_reducible assumption
    | with_reducible refine Kept.ite ?_ ?_
    | with_reducible apply Kept.step (kept_setHeadG _ _)
    | with_reducible apply Kept.step (kept_setHeadU _ _ _)
    | with_reducible apply Kept.step (kept_updQueue _ _ _)
    | with_reducible (show Kept _ _ _; refine Kept.mk ?_)
    | split
    | dsimp only

theorem kept_wrDbg (s : State) (o x : Nat) : Kept 0x820000000 s (State.wrDbg s o x) := by
  unfold State.wrDbg
  repeat' first
    | decide
    | with_reducible exact Kept.refl _ _
    | with_reducible assumption
    | with_reducible refine Kept.ite ?_ ?_
    | with_reducible (show Kept _ _ _; refine Kept.mk ?_)
    | split
    | dsimp only

theorem kept_uartSend (s : State) (x : Nat) : Kept 0x2000000000 s (State.uartSend s x) := by
  unfold State.uartSend
  repeat' first
    | decide
    | with_reducible exact Kept.refl _ _
    | with_reducible assumption
    | with_reducible refine Kept.ite ?_ ?_
    | with_reducible apply Kept.step (kept_emit _ _)
    | with_reducible (show Kept _ _ _; refine Kept.mk ?_)
    | split
    | dsimp only

theorem kept_wrMgt (s : State) (o x : Nat) : Kept 0x3fffffffff s (State.wrMgt s o x) := by
  unfold State.wrMgt
  repeat' first
    | decide
    | with_reducible exact Kept.refl _ _
    | with_reducible assumption
    | with_reducible refine Kept.ite ?_ ?_
    | with_reducible apply Kept.step (kept_regacc _ _)
    | with_reducible apply Kept.step (kept_uartSend _ _)
    | with_reducible apply Kept.step (kept_fwupCtrl _ _)
    | with_reducible apply Kept.step (kept_mgtResetReg _ _ _)
    | with_reducible apply Kept.step (kept_paramCtrl _ _)
    | with_reducible (show Kept _ _ _; refine Kept.mk ?_)
    | split
    | dsimp only

theorem kept_wrPreempt (s : State) (b x : Nat) : Kept 0x2140220020 s (State.wrPreempt s b x) := by
  unfold State.wrPreempt
  repeat' first
    | decide
    | with_reducible exact Kept.refl _ _
    | with_reducible assumption
    | with_reducible refine Kept.ite ?_ ?_
    | with_reducible apply Kept.step (kept_regacc _ _)
    | with_reducible (show Kept _ _ (State.updBead _ _ _); first | apply Kept.step (kept_updBead _ _ _) | (refine Kept.of (kept_updBead _ _ _ ?hf) ?_; case hf => (intro _ h; (try dsimp only); first | exact h | exact Bead.wf_spUndefine _ _ _ _ h | exact Bead.wf_spWrite _ _ _ h | exact Bead.wf_accUndefine _ _ _ _ (Bead.wf_spUndefine _ _ _ _ h) | exact Bead.wf_accUndefine _ _ _ _ h | (unfold Bead.accPut; exact h) | (unfold Bead.spMark; exact h) | exact Bead.wf_foldl (fun _ _ h => h) h | exact Bead.wf_foldl (fun _ _ h => Bead.wf_accPut _ _ _ _ _ h) h | exact Bead.wf_accUndefine _ _ _ _ (Bead.wf_foldl (fun _ _ h => Bead.wf_spUndefine _ _ _ _ h) h) | (repeat' split <;> exact h))))
    | with_reducible apply Kept.step (kept_preemptBack _ _)
    | with_reducible (show Kept _ _ _; refine Kept.mk ?_)
    | split
    | dsimp only

theorem kept_wrBead (s : State) (b o x : Nat) : Kept 0x2140220020 s (State.wrBead s b o x) := by
  unfold State.wrBead
  repeat' first
    | decide
    | with_reducible exact Kept.refl _ _
    | with_reducible assumption
    | with_reducible refine Kept.ite ?_ ?_
    | with_reducible apply Kept.step (kept_wrPreempt _ _ _)
    | with_reducible (show Kept _ _ (State.updBead _ _ _); first | apply Kept.step (kept_updBead _ _ _) | (refine Kept.of (kept_updBead _ _ _ ?hf) ?_; case hf => (intro _ h; (try dsimp only); first | exact h | exact Bead.wf_spUndefine _ _ _ _ h | exact Bead.wf_spWrite _ _ _ h | exact Bead.wf_accUndefine _ _ _ _ (Bead.wf_spUndefine _ _ _ _ h) | exact Bead.wf_accUndefine _ _ _ _ h | (unfold Bead.accPut; exact h) | (unfold Bead.spMark; exact h) | exact Bead.wf_foldl (fun _ _ h => h) h | exact Bead.wf_foldl (fun _ _ h => Bead.wf_accPut _ _ _ _ _ h) h | exact Bead.wf_accUndefine _ _ _ _ (Bead.wf_foldl (fun _ _ h => Bead.wf_spUndefine _ _ _ _ h) h) | (repeat' split <;> exact h))))
    | with_reducible (show Kept _ _ _; refine Kept.mk ?_)
    | split
    | dsimp only

theorem kept_wrA (s : State) (v : Via) (o x : Nat) : Kept 0x3fffffffff s (State.wrA s v o x) := by
  unfold State.wrA
  repeat' first
    | decide
    | with_reducible exact Kept.refl _ _
    | with_reducible assumption
    | with_reducible refine Kept.ite ?_ ?_
    | with_reducible apply Kept.step (kept_wrBead _ _ _ _)
    | with_reducible apply Kept.step (kept_wrDev _ _ _)
    | with_reducible apply Kept.step (kept_wrSet _ _ _)
    | with_reducible apply Kept.step (kept_wrFrm _ _ _)
    | with_reducible apply Kept.step (kept_wrSes _ _ _)
    | with_reducible apply Kept.step (kept_wrClp _ _ _ _)
    | with_reducible apply Kept.step (kept_wrMem _ _ _)
    | with_reducible apply Kept.step (kept_wrBpm _ _ _)
    | with_reducible apply Kept.step (kept_wrFil _ _ _)
    | with_reducible apply Kept.step (kept_wrNet _ _ _)
    | with_reducible apply Kept.step (kept_wrHmk _ _ _)
    | with_reducible apply Kept.step (kept_wrPwr _ _ _)
    | with_reducible apply Kept.step (kept_wrErr _ _ _)
    | with_reducible apply Kept.step (kept_wrDbg _ _ _)
    | with_reducible apply Kept.step (kept_wrMgt _ _ _)
    | with_reducible apply Kept.step (kept_stReq _ _)
    | with_reducible (show Kept _ _ _; refine Kept.mk ?_)
    | split
    | dsimp only

theorem kept_wrMsix (s : State) (w k x : Nat) : Kept 0x21c0720002 s (State.wrMsix s w k x) := by
  unfold State.wrMsix
  repeat' first
    | decide
    | with_reducible exact Kept.refl _ _
    | with_reducible assumption
    | with_reducible refine Kept.ite ?_ ?_
    | with_reducible apply Kept.step (kept_msix _ _ _)
    | with_reducible apply Kept.step (kept_updWin _ _ _)
    | with_reducible apply Kept.step (kept_regacc _ _)
    | with_reducible apply Kept.step (kept_count _ _)
    | with_reducible apply Kept.step (kept_notify _ _ _ _ _ _)
    | with_reducible apply Kept.step (kept_refuseClasp _ _ _)
    | with_reducible apply Kept.step (kept_fireEntry _ _ _)
    | with_reducible (show Kept _ _ _; refine Kept.mk ?_)
    | split
    | dsimp only

theorem kept_wrCq (s : State) (w : Nat) (ok : Bool) (f : UserWin → UserWin) : Kept 0x214077c042 s (State.wrCq s w ok f) := by
  unfold State.wrCq
  repeat' first
    | decide
    | with_reducible exact Kept.refl _ _
    | with_reducible assumption
    | with_reducible refine Kept.ite ?_ ?_
    | with_reducible apply Kept.step (kept_cqHead _ _ _)
    | with_reducible apply Kept.step (kept_regacc _ _)
    | with_reducible apply Kept.step (kept_updWin _ _ _)
    | with_reducible apply Kept.step (kept_pump _ _)
    | with_reducible apply Kept.step (kept_drainSq _ _)
    | with_reducible (show Kept _ _ _; refine Kept.mk ?_)
    | split
    | dsimp only

theorem kept_wrWin (s : State) (v : Via) (w o x : Nat) : Kept 0x21c077e862 s (State.wrWin s v w o x) := by
  unfold State.wrWin
  repeat' first
    | decide
    | with_reducible exact Kept.refl _ _
    | with_reducible assumption
    | with_reducible refine Kept.ite ?_ ?_
    | with_reducible apply Kept.step (kept_updWin _ _ _)
    | with_reducible apply Kept.step (kept_msix _ _ _)
    | with_reducible apply Kept.step (kept_wrMsix _ _ _ _)
    | with_reducible apply Kept.step (kept_regacc _ _)
    | with_reducible apply Kept.step (kept_setPtr _ _ _)
    | with_reducible apply Kept.step (kept_sqTail _ _ _)
    | with_reducible apply Kept.step (kept_wrCq _ _ _ _)
    | with_reducible apply Kept.step (kept_cqHead _ _ _)
    | with_reducible apply Kept.step (kept_count _ _)
    | with_reducible apply Kept.step (kept_clpOp _ _ _)
    | with_reducible apply Kept.step (kept_bpmAllocReg _ _ _)
    | with_reducible apply Kept.step (kept_bpmFreeReg _ _ _)
    | with_reducible apply Kept.step (kept_setHeadU _ _ _)
    | with_reducible apply Kept.step (kept_updQueue _ _ _)
    | with_reducible (show Kept _ _ _; refine Kept.mk ?_)
    | split
    | dsimp only

theorem kept_wrReg (s : State) (v : Via) (p : Space) (o x : Nat) : Kept 0x3fffffffff s (State.wrReg s v p o x) := by
  unfold State.wrReg
  repeat' first
    | decide
    | with_reducible exact Kept.refl _ _
    | with_reducible assumption
    | with_reducible refine Kept.ite ?_ ?_
    | with_reducible apply Kept.step (kept_wrA _ _ _ _)
    | with_reducible apply Kept.step (kept_wrWin _ _ _ _ _)
    | with_reducible apply Kept.step (kept_wrMbox _ _ _ _)
    | with_reducible (show Kept _ _ _; refine Kept.mk ?_)
    | split
    | dsimp only

end Sys2Proof.Machine
end

