-- ==== Sys2Proof/Laws/KeptRegisters.lean ====
section
/-! SUPPORT. What the operations of Machine/Registers.lean may touch. -/

set_option Elab.async false
set_option linter.unusedTactic false
set_option linter.unreachableTactic false

namespace Sys2Proof.Machine

theorem kept_countOpt (s : State) (c : Option Nat) : Kept 0x100000000 s (State.countOpt s c) := by
  unfold State.countOpt
  repeat' first
    | decide
    | with_reducible exact Kept.refl _ _
    | with_reducible assumption
    | with_reducible refine Kept.ite ?_ ?_
    | with_reducible apply Kept.step (kept_count _ _)
    | with_reducible (show Kept _ _ _; refine Kept.mk ?_)
    | split
    | dsimp only

theorem kept_answerBad (s : State) (v : Via) (ca : Bool) : Kept 0x2000000000 s (State.answerBad s v ca) := by
  unfold State.answerBad
  repeat' first
    | decide
    | with_reducible exact Kept.refl _ _
    | with_reducible assumption
    | with_reducible refine Kept.ite ?_ ?_
    | with_reducible apply Kept.step (kept_emit _ _)
    | with_reducible (show Kept _ _ _; refine Kept.mk ?_)
    | split
    | dsimp only

theorem kept_setHalves (s : State) (h : Halves) : Kept 0x800000 s (State.setHalves s h) := by
  unfold State.setHalves
  repeat' first
    | decide
    | with_reducible exact Kept.refl _ _
    | with_reducible assumption
    | with_reducible refine Kept.ite ?_ ?_
    | with_reducible (show Kept _ _ _; refine Kept.mk ?_)
    | split
    | dsimp only

theorem kept_rdBefore (s : State) (p : Space) (o : Nat) : Kept 0x2000000 s (State.rdBefore s p o) := by
  unfold State.rdBefore
  repeat' first
    | decide
    | with_reducible exact Kept.refl _ _
    | with_reducible assumption
    | with_reducible refine Kept.ite ?_ ?_
    | with_reducible apply Kept.step (kept_newNonce _)
    | with_reducible (show Kept _ _ _; refine Kept.mk ?_)
    | split
    | dsimp only

theorem kept_rdAfter (s : State) (p : Space) (o : Nat) : Kept 0x8000000 s (State.rdAfter s p o) := by
  unfold State.rdAfter
  repeat' first
    | decide
    | with_reducible exact Kept.refl _ _
    | with_reducible assumption
    | with_reducible refine Kept.ite ?_ ?_
    | with_reducible (show Kept _ _ _; refine Kept.mk ?_)
    | split
    | dsimp only

theorem kept_rdWord (s : State) (v : Via) (p : Space) (o : Nat) (four : Bool) : Kept 0xa800000 s (State.rdWord s v p o four).1 := by
  unfold State.rdWord
  repeat' first
    | decide
    | dsimp only
    | with_reducible exact Kept.refl _ _
    | with_reducible assumption
    | with_reducible refine Kept.ite ?_ ?_
    | with_reducible apply Kept.step (kept_rdBefore _ _ _)
    | with_reducible apply Kept.step (kept_rdAfter _ _ _)
    | with_reducible apply Kept.step (kept_setHalves _ _)
    | with_reducible (show Kept _ _ _; refine Kept.mk ?_)
    | split
    | dsimp only

theorem kept_rdWords (s : State) (v : Via) (p : Space) (os : List Nat) (four : Bool) : Kept 0xa800000 s (s.rdWords v p os four).1 := by
  induction os generalizing s with
  | nil => exact Kept.refl _ _
  | cons o os ih => exact ((kept_rdWord s v p o four).mono (by decide)).trans (ih _)

theorem kept_regRead (s : State) (v : Via) (off len : Nat) : Kept 0x210a800000 s (State.regRead s v off len) := by
  unfold State.regRead
  repeat' first
    | decide
    | with_reducible exact Kept.refl _ _
    | with_reducible assumption
    | with_reducible refine Kept.ite ?_ ?_
    | with_reducible apply Kept.step (kept_countOpt _ _)
    | with_reducible apply Kept.step (kept_answerBad _ _ _)
    | with_reducible apply Kept.step (kept_emit _ _)
    | with_reducible apply Kept.step (kept_rdWords _ _ _ _ _)
    | with_reducible refine Kept.fst_eq ‹_ = (_, _)› (Kept.of (kept_rdWords _ _ _ _ _) ?_)
    | with_reducible (show Kept _ _ _; refine Kept.mk ?_)
    | split
    | dsimp only

theorem kept_put (s : State) (v : Via) (p : Space) (o x : Nat) : Kept 0x3fffffffff s (State.put s v p o x) := by
  unfold State.put
  repeat' first
    | decide
    | with_reducible exact Kept.refl _ _
    | with_reducible assumption
    | with_reducible refine Kept.ite ?_ ?_
    | with_reducible apply Kept.step (kept_count _ _)
    | with_reducible apply Kept.step (kept_wrReg _ _ _ _ _)
    | with_reducible (show Kept _ _ _; refine Kept.mk ?_)
    | split
    | dsimp only

theorem kept_dropHeld (s : State) (v : Via) : Kept 0x800000 s (State.dropHeld s v) := by
  unfold State.dropHeld
  repeat' first
    | decide
    | with_reducible exact Kept.refl _ _
    | with_reducible assumption
    | with_reducible refine Kept.ite ?_ ?_
    | with_reducible apply Kept.step (kept_setHalves _ _)
    | with_reducible (show Kept _ _ _; refine Kept.mk ?_)
    | split
    | dsimp only

theorem kept_putHalf (s : State) (v : Via) (p : Space) (b o x : Nat) : Kept 0x3fffffffff s (State.putHalf s v p b o x) := by
  unfold State.putHalf
  repeat' first
    | decide
    | with_reducible exact Kept.refl _ _
    | with_reducible assumption
    | with_reducible refine Kept.ite ?_ ?_
    | with_reducible apply Kept.step (kept_dropHeld _ _)
    | with_reducible apply Kept.step (kept_regacc _ _)
    | with_reducible apply Kept.step (kept_setHalves _ _)
    | with_reducible apply Kept.step (kept_put _ _ _ _ _)
    | with_reducible (show Kept _ _ _; refine Kept.mk ?_)
    | split
    | dsimp only

theorem kept_putWords (s : State) (v : Via) (p : Space) : ∀ l : List (Nat × Nat), Kept 0x3fffffffff s (s.putWords v p l)
  | [] => Kept.refl _ _
  | [(o, x)] => (kept_put s v p o x).mono (by decide)
  | (o, x) :: (o2, y) :: t => by
    unfold State.putWords
    split
    · exact ((kept_put s v p o _).mono (by decide)).trans (kept_putWords _ v p t)
    · exact ((kept_put s v p o x).mono (by decide)).trans (kept_putWords _ v p ((o2, y) :: t))

theorem kept_regWrite (s : State) (v : Via) (off : Nat) (bytes : List Byte) : Kept 0x3fffffffff s (State.regWrite s v off bytes) := by
  unfold State.regWrite
  repeat' first
    | decide
    | with_reducible exact Kept.refl _ _
    | with_reducible assumption
    | with_reducible refine Kept.ite ?_ ?_
    | with_reducible apply Kept.step (kept_countOpt _ _)
    | with_reducible apply Kept.step (kept_answerBad _ _ _)
    | with_reducible apply Kept.step (kept_emit _ _)
    | with_reducible apply Kept.step (kept_dropHeld _ _)
    | with_reducible apply Kept.step (kept_put _ _ _ _ _)
    | with_reducible apply Kept.step (kept_regacc _ _)
    | with_reducible apply Kept.step (kept_putHalf _ _ _ _ _ _)
    | with_reducible apply Kept.step (kept_putWords _ _ _ _)
    | with_reducible (show Kept _ _ _; refine Kept.mk ?_)
    | split
    | dsimp only

theorem kept_writeA (s : State) (v : Via) (off n x : Nat) : Kept 0x3fffffffff s (State.writeA s v off n x) := by
  unfold State.writeA
  repeat' first
    | decide
    | with_reducible exact Kept.refl _ _
    | with_reducible assumption
    | with_reducible refine Kept.ite ?_ ?_
    | with_reducible apply Kept.step (kept_regWrite _ _ _ _)
    | with_reducible (show Kept _ _ _; refine Kept.mk ?_)
    | split
    | dsimp only

theorem kept_writeW (s : State) (v : Via) (off n x : Nat) : Kept 0x3fffffffff s (State.writeW s v off n x) := by
  unfold State.writeW
  repeat' first
    | decide
    | with_reducible exact Kept.refl _ _
    | with_reducible assumption
    | with_reducible refine Kept.ite ?_ ?_
    | with_reducible apply Kept.step (kept_regWrite _ _ _ _)
    | with_reducible (show Kept _ _ _; refine Kept.mk ?_)
    | split
    | dsimp only

theorem kept_writeAW (s : State) (v : Via) (offA offW n x : Nat) : Kept 0x3fffffffff s (State.writeAW s v offA offW n x) := by
  unfold State.writeAW
  repeat' first
    | decide
    | with_reducible exact Kept.refl _ _
    | with_reducible assumption
    | with_reducible refine Kept.ite ?_ ?_
    | with_reducible apply Kept.step (kept_regWrite _ _ _ _)
    | with_reducible (show Kept _ _ _; refine Kept.mk ?_)
    | split
    | dsimp only

theorem kept_execRegisterWrite (v : Via) (off : Nat) (bytes : List Byte) (s : State) : ∀ t', execRegisterWrite v off bytes s = .next t' → Kept 0x3fffffffff s t' := by
  intro t2 h
  unfold execRegisterWrite at h
  refine kept_unlessOff h (fun t2 h => ?_)
  injection h with h; subst h
  repeat' first
    | decide
    | with_reducible exact Kept.refl _ _
    | with_reducible assumption
    | with_reducible refine Kept.ite ?_ ?_
    | with_reducible apply Kept.step (kept_regWrite _ _ _ _)
    | with_reducible (show Kept _ _ _; refine Kept.mk ?_)
    | split
    | dsimp only

theorem kept_execRegisterRead (v : Via) (off len : Nat) (s : State) : ∀ t', execRegisterRead v off len s = .next t' → Kept 0x210a800000 s t' := by
  intro t2 h
  unfold execRegisterRead at h
  refine kept_unlessOff h (fun t2 h => ?_)
  injection h with h; subst h
  repeat' first
    | decide
    | with_reducible exact Kept.refl _ _
    | with_reducible assumption
    | with_reducible refine Kept.ite ?_ ?_
    | with_reducible apply Kept.step (kept_regRead _ _ _ _)
    | with_reducible (show Kept _ _ _; refine Kept.mk ?_)
    | split
    | dsimp only

theorem kept_execSetLoadGo (v : Via) (x : Nat) (s : State) : ∀ t', execSetLoadGo v x s = .next t' → Kept 0x3fffffffff s t' := by
  intro t2 h
  unfold execSetLoadGo at h
  refine kept_unlessOff h (fun t2 h => ?_)
  injection h with h; subst h
  repeat' first
    | decide
    | with_reducible exact Kept.refl _ _
    | with_reducible assumption
    | with_reducible refine Kept.ite ?_ ?_
    | with_reducible apply Kept.step (kept_writeA _ _ _ _ _)
    | with_reducible (show Kept _ _ _; refine Kept.mk ?_)
    | split
    | dsimp only

theorem kept_execClpOpSignal (v : Via) (x : Nat) (s : State) : ∀ t', execClpOpSignal v x s = .next t' → Kept 0x3fffffffff s t' := by
  intro t2 h
  unfold execClpOpSignal at h
  refine kept_unlessOff h (fun t2 h => ?_)
  injection h with h; subst h
  repeat' first
    | decide
    | with_reducible exact Kept.refl _ _
    | with_reducible assumption
    | with_reducible refine Kept.ite ?_ ?_
    | with_reducible apply Kept.step (kept_writeAW _ _ _ _ _ _)
    | with_reducible (show Kept _ _ _; refine Kept.mk ?_)
    | split
    | dsimp only

theorem kept_execClpOpWait (v : Via) (x : Nat) (s : State) : ∀ t', execClpOpWait v x s = .next t' → Kept 0x3fffffffff s t' := by
  intro t2 h
  unfold execClpOpWait at h
  refine kept_unlessOff h (fun t2 h => ?_)
  injection h with h; subst h
  repeat' first
    | decide
    | with_reducible exact Kept.refl _ _
    | with_reducible assumption
    | with_reducible refine Kept.ite ?_ ?_
    | with_reducible apply Kept.step (kept_writeAW _ _ _ _ _ _)
    | with_reducible (show Kept _ _ _; refine Kept.mk ?_)
    | split
    | dsimp only

theorem kept_execClpOpArrive (v : Via) (x : Nat) (s : State) : ∀ t', execClpOpArrive v x s = .next t' → Kept 0x3fffffffff s t' := by
  intro t2 h
  unfold execClpOpArrive at h
  refine kept_unlessOff h (fun t2 h => ?_)
  injection h with h; subst h
  repeat' first
    | decide
    | with_reducible exact Kept.refl _ _
    | with_reducible assumption
    | with_reducible refine Kept.ite ?_ ?_
    | with_reducible apply Kept.step (kept_writeAW _ _ _ _ _ _)
    | with_reducible (show Kept _ _ _; refine Kept.mk ?_)
    | split
    | dsimp only

theorem kept_execClpOpReset (v : Via) (x : Nat) (s : State) : ∀ t', execClpOpReset v x s = .next t' → Kept 0x3fffffffff s t' := by
  intro t2 h
  unfold execClpOpReset at h
  refine kept_unlessOff h (fun t2 h => ?_)
  injection h with h; subst h
  repeat' first
    | decide
    | with_reducible exact Kept.refl _ _
    | with_reducible assumption
    | with_reducible refine Kept.ite ?_ ?_
    | with_reducible apply Kept.step (kept_writeAW _ _ _ _ _ _)
    | with_reducible (show Kept _ _ _; refine Kept.mk ?_)
    | split
    | dsimp only

theorem kept_execClpOpFail (v : Via) (x : Nat) (s : State) : ∀ t', execClpOpFail v x s = .next t' → Kept 0x3fffffffff s t' := by
  intro t2 h
  unfold execClpOpFail at h
  refine kept_unlessOff h (fun t2 h => ?_)
  injection h with h; subst h
  repeat' first
    | decide
    | with_reducible exact Kept.refl _ _
    | with_reducible assumption
    | with_reducible refine Kept.ite ?_ ?_
    | with_reducible apply Kept.step (kept_writeAW _ _ _ _ _ _)
    | with_reducible (show Kept _ _ _; refine Kept.mk ?_)
    | split
    | dsimp only

theorem kept_execClpMsixArm (v : Via) (entry x : Nat) (s : State) : ∀ t', execClpMsixArm v entry x s = .next t' → Kept 0x3fffffffff s t' := by
  intro t2 h
  unfold execClpMsixArm at h
  refine kept_unlessOff h (fun t2 h => ?_)
  injection h with h; subst h
  repeat' first
    | decide
    | with_reducible exact Kept.refl _ _
    | with_reducible assumption
    | with_reducible refine Kept.ite ?_ ?_
    | with_reducible apply Kept.step (kept_writeW _ _ _ _ _)
    | with_reducible (show Kept _ _ _; refine Kept.mk ?_)
    | split
    | dsimp only

theorem kept_execSesSqTail (v : Via) (x : Nat) (s : State) : ∀ t', execSesSqTail v x s = .next t' → Kept 0x3fffffffff s t' := by
  intro t2 h
  unfold execSesSqTail at h
  refine kept_unlessOff h (fun t2 h => ?_)
  injection h with h; subst h
  repeat' first
    | decide
    | with_reducible exact Kept.refl _ _
    | with_reducible assumption
    | with_reducible refine Kept.ite ?_ ?_
    | with_reducible apply Kept.step (kept_writeW _ _ _ _ _)
    | with_reducible (show Kept _ _ _; refine Kept.mk ?_)
    | split
    | dsimp only

theorem kept_execSesCqHead (v : Via) (x : Nat) (s : State) : ∀ t', execSesCqHead v x s = .next t' → Kept 0x3fffffffff s t' := by
  intro t2 h
  unfold execSesCqHead at h
  refine kept_unlessOff h (fun t2 h => ?_)
  injection h with h; subst h
  repeat' first
    | decide
    | with_reducible exact Kept.refl _ _
    | with_reducible assumption
    | with_reducible refine Kept.ite ?_ ?_
    | with_reducible apply Kept.step (kept_writeW _ _ _ _ _)
    | with_reducible (show Kept _ _ _; refine Kept.mk ?_)
    | split
    | dsimp only

theorem kept_execSesEntRead (v : Via) (x : Nat) (s : State) : ∀ t', execSesEntRead v x s = .next t' → Kept 0x3fffffffff s t' := by
  intro t2 h
  unfold execSesEntRead at h
  refine kept_unlessOff h (fun t2 h => ?_)
  injection h with h; subst h
  repeat' first
    | decide
    | with_reducible exact Kept.refl _ _
    | with_reducible assumption
    | with_reducible refine Kept.ite ?_ ?_
    | with_reducible apply Kept.step (kept_writeA _ _ _ _ _)
    | with_reducible (show Kept _ _ _; refine Kept.mk ?_)
    | split
    | dsimp only

theorem kept_execBpmAlloc (v : Via) (x : Nat) (s : State) : ∀ t', execBpmAlloc v x s = .next t' → Kept 0x3fffffffff s t' := by
  intro t2 h
  unfold execBpmAlloc at h
  refine kept_unlessOff h (fun t2 h => ?_)
  injection h with h; subst h
  repeat' first
    | decide
    | with_reducible exact Kept.refl _ _
    | with_reducible assumption
    | with_reducible refine Kept.ite ?_ ?_
    | with_reducible apply Kept.step (kept_writeAW _ _ _ _ _ _)
    | with_reducible (show Kept _ _ _; refine Kept.mk ?_)
    | split
    | dsimp only

theorem kept_execBpmFree (v : Via) (x : Nat) (s : State) : ∀ t', execBpmFree v x s = .next t' → Kept 0x3fffffffff s t' := by
  intro t2 h
  unfold execBpmFree at h
  refine kept_unlessOff h (fun t2 h => ?_)
  injection h with h; subst h
  repeat' first
    | decide
    | with_reducible exact Kept.refl _ _
    | with_reducible assumption
    | with_reducible refine Kept.ite ?_ ?_
    | with_reducible apply Kept.step (kept_writeAW _ _ _ _ _ _)
    | with_reducible (show Kept _ _ _; refine Kept.mk ?_)
    | split
    | dsimp only

theorem kept_execDevUwinFunc (v : Via) (win : Fin 256) (x : Nat) (s : State) : ∀ t', execDevUwinFunc v win x s = .next t' → Kept 0x3fffffffff s t' := by
  intro t2 h
  unfold execDevUwinFunc at h
  refine kept_unlessOff h (fun t2 h => ?_)
  injection h with h; subst h
  repeat' first
    | decide
    | with_reducible exact Kept.refl _ _
    | with_reducible assumption
    | with_reducible refine Kept.ite ?_ ?_
    | with_reducible apply Kept.step (kept_writeA _ _ _ _ _)
    | with_reducible (show Kept _ _ _; refine Kept.mk ?_)
    | split
    | dsimp only

theorem kept_execDevWincBase (v : Via) (x : Nat) (s : State) : ∀ t', execDevWincBase v x s = .next t' → Kept 0x3fffffffff s t' := by
  intro t2 h
  unfold execDevWincBase at h
  refine kept_unlessOff h (fun t2 h => ?_)
  injection h with h; subst h
  repeat' first
    | decide
    | with_reducible exact Kept.refl _ _
    | with_reducible assumption
    | with_reducible refine Kept.ite ?_ ?_
    | with_reducible apply Kept.step (kept_writeA _ _ _ _ _)
    | with_reducible (show Kept _ _ _; refine Kept.mk ?_)
    | split
    | dsimp only

theorem kept_execFrmSlicePtr (v : Via) (x : Nat) (s : State) : ∀ t', execFrmSlicePtr v x s = .next t' → Kept 0x3fffffffff s t' := by
  intro t2 h
  unfold execFrmSlicePtr at h
  refine kept_unlessOff h (fun t2 h => ?_)
  injection h with h; subst h
  repeat' first
    | decide
    | with_reducible exact Kept.refl _ _
    | with_reducible assumption
    | with_reducible refine Kept.ite ?_ ?_
    | with_reducible apply Kept.step (kept_writeW _ _ _ _ _)
    | with_reducible (show Kept _ _ _; refine Kept.mk ?_)
    | split
    | dsimp only

theorem kept_execFrmUnitSlicePtr (v : Via) (x : Nat) (s : State) : ∀ t', execFrmUnitSlicePtr v x s = .next t' → Kept 0x3fffffffff s t' := by
  intro t2 h
  unfold execFrmUnitSlicePtr at h
  refine kept_unlessOff h (fun t2 h => ?_)
  injection h with h; subst h
  repeat' first
    | decide
    | with_reducible exact Kept.refl _ _
    | with_reducible assumption
    | with_reducible refine Kept.ite ?_ ?_
    | with_reducible apply Kept.step (kept_writeA _ _ _ _ _)
    | with_reducible (show Kept _ _ _; refine Kept.mk ?_)
    | split
    | dsimp only

theorem kept_execUartTxByte (v : Via) (x : Byte) (s : State) : ∀ t', execUartTxByte v x s = .next t' → Kept 0x3fffffffff s t' := by
  intro t2 h
  unfold execUartTxByte at h
  refine kept_unlessOff h (fun t2 h => ?_)
  injection h with h; subst h
  repeat' first
    | decide
    | with_reducible exact Kept.refl _ _
    | with_reducible assumption
    | with_reducible refine Kept.ite ?_ ?_
    | with_reducible apply Kept.step (kept_writeA _ _ _ _ _)
    | with_reducible (show Kept _ _ _; refine Kept.mk ?_)
    | split
    | dsimp only

theorem kept_readA (s : State) (v : Via) (off n : Nat) : Kept 0x210a800000 s (State.readA s v off n) := by
  unfold State.readA
  repeat' first
    | decide
    | with_reducible exact Kept.refl _ _
    | with_reducible assumption
    | with_reducible refine Kept.ite ?_ ?_
    | with_reducible apply Kept.step (kept_regRead _ _ _ _)
    | with_reducible (show Kept _ _ _; refine Kept.mk ?_)
    | split
    | dsimp only

theorem kept_execUartDataRead (v : Via) (s : State) : ∀ t', execUartDataRead v s = .next t' → Kept 0x210a800000 s t' := by
  intro t2 h
  unfold execUartDataRead at h
  refine kept_unlessOff h (fun t2 h => ?_)
  injection h with h; subst h
  repeat' first
    | decide
    | with_reducible exact Kept.refl _ _
    | with_reducible assumption
    | with_reducible refine Kept.ite ?_ ?_
    | with_reducible apply Kept.step (kept_readA _ _ _ _)
    | with_reducible (show Kept _ _ _; refine Kept.mk ?_)
    | split
    | dsimp only

theorem kept_execHmkDbgChalRead (v : Via) (s : State) : ∀ t', execHmkDbgChalRead v s = .next t' → Kept 0x210a800000 s t' := by
  intro t2 h
  unfold execHmkDbgChalRead at h
  refine kept_unlessOff h (fun t2 h => ?_)
  injection h with h; subst h
  repeat' first
    | decide
    | with_reducible exact Kept.refl _ _
    | with_reducible assumption
    | with_reducible refine Kept.ite ?_ ?_
    | with_reducible apply Kept.step (kept_readA _ _ _ _)
    | with_reducible (show Kept _ _ _; refine Kept.mk ?_)
    | split
    | dsimp only

theorem kept_execHmkExt (v : Via) (x : Nat) (s : State) : ∀ t', execHmkExt v x s = .next t' → Kept 0x3fffffffff s t' := by
  intro t2 h
  unfold execHmkExt at h
  refine kept_unlessOff h (fun t2 h => ?_)
  injection h with h; subst h
  repeat' first
    | decide
    | with_reducible exact Kept.refl _ _
    | with_reducible assumption
    | with_reducible refine Kept.ite ?_ ?_
    | with_reducible apply Kept.step (kept_writeA _ _ _ _ _)
    | with_reducible (show Kept _ _ _; refine Kept.mk ?_)
    | split
    | dsimp only

theorem kept_execHmkDbgRespGo (v : Via) (x : Nat) (s : State) : ∀ t', execHmkDbgRespGo v x s = .next t' → Kept 0x3fffffffff s t' := by
  intro t2 h
  unfold execHmkDbgRespGo at h
  refine kept_unlessOff h (fun t2 h => ?_)
  injection h with h; subst h
  repeat' first
    | decide
    | with_reducible exact Kept.refl _ _
    | with_reducible assumption
    | with_reducible refine Kept.ite ?_ ?_
    | with_reducible apply Kept.step (kept_writeA _ _ _ _ _)
    | with_reducible (show Kept _ _ _; refine Kept.mk ?_)
    | split
    | dsimp only

theorem kept_execFwupGo (v : Via) (x : Nat) (s : State) : ∀ t', execFwupGo v x s = .next t' → Kept 0x3fffffffff s t' := by
  intro t2 h
  unfold execFwupGo at h
  refine kept_unlessOff h (fun t2 h => ?_)
  injection h with h; subst h
  repeat' first
    | decide
    | with_reducible exact Kept.refl _ _
    | with_reducible assumption
    | with_reducible refine Kept.ite ?_ ?_
    | with_reducible apply Kept.step (kept_writeA _ _ _ _ _)
    | with_reducible (show Kept _ _ _; refine Kept.mk ?_)
    | split
    | dsimp only

theorem kept_execFwupConfirm (v : Via) (x : Nat) (s : State) : ∀ t', execFwupConfirm v x s = .next t' → Kept 0x3fffffffff s t' := by
  intro t2 h
  unfold execFwupConfirm at h
  refine kept_unlessOff h (fun t2 h => ?_)
  injection h with h; subst h
  repeat' first
    | decide
    | with_reducible exact Kept.refl _ _
    | with_reducible assumption
    | with_reducible refine Kept.ite ?_ ?_
    | with_reducible apply Kept.step (kept_writeA _ _ _ _ _)
    | with_reducible (show Kept _ _ _; refine Kept.mk ?_)
    | split
    | dsimp only

theorem kept_execParamSigned (v : Via) (x : Nat) (s : State) : ∀ t', execParamSigned v x s = .next t' → Kept 0x3fffffffff s t' := by
  intro t2 h
  unfold execParamSigned at h
  refine kept_unlessOff h (fun t2 h => ?_)
  injection h with h; subst h
  repeat' first
    | decide
    | with_reducible exact Kept.refl _ _
    | with_reducible assumption
    | with_reducible refine Kept.ite ?_ ?_
    | with_reducible apply Kept.step (kept_writeA _ _ _ _ _)
    | with_reducible (show Kept _ _ _; refine Kept.mk ?_)
    | split
    | dsimp only

theorem kept_execParamGeneral (v : Via) (x : Nat) (s : State) : ∀ t', execParamGeneral v x s = .next t' → Kept 0x3fffffffff s t' := by
  intro t2 h
  unfold execParamGeneral at h
  refine kept_unlessOff h (fun t2 h => ?_)
  injection h with h; subst h
  repeat' first
    | decide
    | with_reducible exact Kept.refl _ _
    | with_reducible assumption
    | with_reducible refine Kept.ite ?_ ?_
    | with_reducible apply Kept.step (kept_writeA _ _ _ _ _)
    | with_reducible (show Kept _ _ _; refine Kept.mk ?_)
    | split
    | dsimp only

theorem kept_execMgtReset (v : Via) (x : Nat) (i : BootIn) (s : State) : ∀ t', execMgtReset v x i s = .next t' → Kept 0x3fffffffff s t' := by
  intro t2 h
  unfold execMgtReset at h
  refine kept_unlessOff h (fun t2 h => ?_)
  injection h with h; subst h
  repeat' first
    | decide
    | with_reducible exact Kept.refl _ _
    | with_reducible assumption
    | with_reducible refine Kept.ite ?_ ?_
    | with_reducible apply Kept.step (kept_dropHeld _ _)
    | with_reducible apply Kept.step (kept_mgtResetReg _ _ _)
    | with_reducible apply Kept.step (kept_emit _ _)
    | with_reducible (show Kept _ _ _; refine Kept.mk ?_)
    | split
    | dsimp only

theorem kept_execPwrReq (v : Via) (x : Nat) (s : State) : ∀ t', execPwrReq v x s = .next t' → Kept 0x3fffffffff s t' := by
  intro t2 h
  unfold execPwrReq at h
  refine kept_unlessOff h (fun t2 h => ?_)
  injection h with h; subst h
  repeat' first
    | decide
    | with_reducible exact Kept.refl _ _
    | with_reducible assumption
    | with_reducible refine Kept.ite ?_ ?_
    | with_reducible apply Kept.step (kept_writeA _ _ _ _ _)
    | with_reducible (show Kept _ _ _; refine Kept.mk ?_)
    | split
    | dsimp only

theorem kept_execPwrCap (v : Via) (x : Nat) (s : State) : ∀ t', execPwrCap v x s = .next t' → Kept 0x3fffffffff s t' := by
  intro t2 h
  unfold execPwrCap at h
  refine kept_unlessOff h (fun t2 h => ?_)
  injection h with h; subst h
  repeat' first
    | decide
    | with_reducible exact Kept.refl _ _
    | with_reducible assumption
    | with_reducible refine Kept.ite ?_ ?_
    | with_reducible apply Kept.step (kept_writeA _ _ _ _ _)
    | with_reducible (show Kept _ _ _; refine Kept.mk ?_)
    | split
    | dsimp only

theorem kept_execRasStReq (v : Via) (x : Nat) (s : State) : ∀ t', execRasStReq v x s = .next t' → Kept 0x3fffffffff s t' := by
  intro t2 h
  unfold execRasStReq at h
  refine kept_unlessOff h (fun t2 h => ?_)
  injection h with h; subst h
  repeat' first
    | decide
    | with_reducible exact Kept.refl _ _
    | with_reducible assumption
    | with_reducible refine Kept.ite ?_ ?_
    | with_reducible apply Kept.step (kept_writeA _ _ _ _ _)
    | with_reducible (show Kept _ _ _; refine Kept.mk ?_)
    | split
    | dsimp only

theorem kept_execPreemptReq (v : Via) (b : BeadId) (x : Nat) (s : State) : ∀ t', execPreemptReq v b x s = .next t' → Kept 0x3fffffffff s t' := by
  intro t2 h
  unfold execPreemptReq at h
  refine kept_unlessOff h (fun t2 h => ?_)
  injection h with h; subst h
  repeat' first
    | decide
    | with_reducible exact Kept.refl _ _
    | with_reducible assumption
    | with_reducible refine Kept.ite ?_ ?_
    | with_reducible apply Kept.step (kept_writeA _ _ _ _ _)
    | with_reducible (show Kept _ _ _; refine Kept.mk ?_)
    | split
    | dsimp only

theorem kept_execPreemptResume (v : Via) (b : BeadId) (x : Nat) (s : State) : ∀ t', execPreemptResume v b x s = .next t' → Kept 0x3fffffffff s t' := by
  intro t2 h
  unfold execPreemptResume at h
  refine kept_unlessOff h (fun t2 h => ?_)
  injection h with h; subst h
  repeat' first
    | decide
    | with_reducible exact Kept.refl _ _
    | with_reducible assumption
    | with_reducible refine Kept.ite ?_ ?_
    | with_reducible apply Kept.step (kept_writeA _ _ _ _ _)
    | with_reducible (show Kept _ _ _; refine Kept.mk ?_)
    | split
    | dsimp only

theorem kept_execDbgMode (v : Via) (b : BeadId) (x : Nat) (s : State) : ∀ t', execDbgMode v b x s = .next t' → Kept 0x3fffffffff s t' := by
  intro t2 h
  unfold execDbgMode at h
  refine kept_unlessOff h (fun t2 h => ?_)
  injection h with h; subst h
  repeat' first
    | decide
    | with_reducible exact Kept.refl _ _
    | with_reducible assumption
    | with_reducible refine Kept.ite ?_ ?_
    | with_reducible apply Kept.step (kept_writeA _ _ _ _ _)
    | with_reducible (show Kept _ _ _; refine Kept.mk ?_)
    | split
    | dsimp only

theorem kept_execDbgTraceCtrl (v : Via) (buf : Fin 171) (x : Nat) (s : State) : ∀ t', execDbgTraceCtrl v buf x s = .next t' → Kept 0x3fffffffff s t' := by
  intro t2 h
  unfold execDbgTraceCtrl at h
  refine kept_unlessOff h (fun t2 h => ?_)
  injection h with h; subst h
  repeat' first
    | decide
    | with_reducible exact Kept.refl _ _
    | with_reducible assumption
    | with_reducible refine Kept.ite ?_ ?_
    | with_reducible apply Kept.step (kept_writeA _ _ _ _ _)
    | with_reducible (show Kept _ _ _; refine Kept.mk ?_)
    | split
    | dsimp only

theorem kept_execErrQHead (v : Via) (x : Nat) (s : State) : ∀ t', execErrQHead v x s = .next t' → Kept 0x3fffffffff s t' := by
  intro t2 h
  unfold execErrQHead at h
  refine kept_unlessOff h (fun t2 h => ?_)
  injection h with h; subst h
  repeat' first
    | decide
    | with_reducible exact Kept.refl _ _
    | with_reducible assumption
    | with_reducible refine Kept.ite ?_ ?_
    | with_reducible apply Kept.step (kept_writeAW _ _ _ _ _ _)
    | with_reducible (show Kept _ _ _; refine Kept.mk ?_)
    | split
    | dsimp only

theorem kept_execNetAddrWrite (v : Via) (x : Nat) (s : State) : ∀ t', execNetAddrWrite v x s = .next t' → Kept 0x3fffffffff s t' := by
  intro t2 h
  unfold execNetAddrWrite at h
  refine kept_unlessOff h (fun t2 h => ?_)
  injection h with h; subst h
  repeat' first
    | decide
    | with_reducible exact Kept.refl _ _
    | with_reducible assumption
    | with_reducible refine Kept.ite ?_ ?_
    | with_reducible apply Kept.step (kept_writeA _ _ _ _ _)
    | with_reducible (show Kept _ _ _; refine Kept.mk ?_)
    | split
    | dsimp only

theorem kept_execNetAddrRead (v : Via) (x : Nat) (s : State) : ∀ t', execNetAddrRead v x s = .next t' → Kept 0x3fffffffff s t' := by
  intro t2 h
  unfold execNetAddrRead at h
  refine kept_unlessOff h (fun t2 h => ?_)
  injection h with h; subst h
  repeat' first
    | decide
    | with_reducible exact Kept.refl _ _
    | with_reducible assumption
    | with_reducible refine Kept.ite ?_ ?_
    | with_reducible apply Kept.step (kept_writeA _ _ _ _ _)
    | with_reducible (show Kept _ _ _; refine Kept.mk ?_)
    | split
    | dsimp only

end Sys2Proof.Machine
end

