-- ==== Sys2Proof/Laws/KeptHostIf.lean ====
section
/-! SUPPORT. What the operations of Machine/HostIf.lean may touch. -/

set_option Elab.async false
set_option linter.unusedTactic false
set_option linter.unreachableTactic false

namespace Sys2Proof.Machine

theorem kept_execPerstN (hub : Fin 2) (asserted : Bool) (s : State) : ∀ t', execPerstN hub asserted s = .next t' → Kept 0x101e00000 s t' := by
  intro t2 h
  unfold execPerstN at h
  injection h with h; subst h
  repeat' first
    | decide
    | with_reducible exact Kept.refl _ _
    | with_reducible assumption
    | with_reducible refine Kept.ite ?_ ?_
    | with_reducible apply Kept.step (kept_pcieReset _ _)
    | with_reducible refine Kept.foldl (fun _ _ => ?_) ?_
    | with_reducible (show Kept _ _ _; refine Kept.mk ?_)
    | split
    | dsimp only

theorem kept_execFunctionLevelReset (f : Fin 66) (s : State) : ∀ t', execFunctionLevelReset f s = .next t' → Kept 0x100e00000 s t' := by
  intro t2 h
  unfold execFunctionLevelReset at h
  refine kept_unlessOff h (fun t2 h => ?_)
  injection h with h; subst h
  repeat' first
    | decide
    | with_reducible exact Kept.refl _ _
    | with_reducible assumption
    | with_reducible refine Kept.ite ?_ ?_
    | with_reducible apply Kept.step (kept_pcieReset _ _)
    | with_reducible (show Kept _ _ _; refine Kept.mk ?_)
    | split
    | dsimp only

theorem kept_execConfigurationRequest (f : Fin 66) (op : CfgOp) (s : State) : ∀ t', execConfigurationRequest f op s = .next t' → Kept 0x2100600000 s t' := by
  intro t2 h
  unfold execConfigurationRequest at h
  injection h with h; subst h
  repeat' first
    | decide
    | with_reducible exact Kept.refl _ _
    | with_reducible assumption
    | with_reducible refine Kept.ite ?_ ?_
    | with_reducible apply Kept.step (kept_emit _ _)
    | with_reducible apply Kept.step (kept_updFn _ _ _)
    | with_reducible apply Kept.step (kept_flushMsix _ _)
    | with_reducible apply Kept.step (kept_pump _ _)
    | with_reducible refine Kept.foldl (fun _ _ => ?_) ?_
    | with_reducible (show Kept _ _ _; refine Kept.mk ?_)
    | split
    | dsimp only

theorem kept_wake (s : State) (a : Nat) : Kept 0x20000 s (State.wake s a) := by
  unfold State.wake
  repeat' first
    | decide
    | with_reducible exact Kept.refl _ _
    | with_reducible assumption
    | with_reducible refine Kept.ite ?_ ?_
    | with_reducible (show Kept _ _ _; refine Kept.mk ?_)
    | split
    | dsimp only

theorem kept_winCBad (s : State) (f : Nat) (w : WinC) : Kept 0x2140200000 s (State.winCBad s f w) := by
  unfold State.winCBad
  repeat' first
    | decide
    | with_reducible exact Kept.refl _ _
    | with_reducible assumption
    | with_reducible refine Kept.ite ?_ ?_
    | with_reducible apply Kept.step (kept_count _ _)
    | with_reducible apply Kept.step (kept_raiseG _ _ _ _ _ _)
    | with_reducible apply Kept.step (kept_emit _ _)
    | with_reducible (show Kept _ _ _; refine Kept.mk ?_)
    | split
    | dsimp only

theorem kept_execWincRead (f : Fin 66) (off len : Nat) (s : State) : ∀ t', execWincRead f off len s = .next t' → Kept 0x2140220002 s t' := by
  intro t2 h
  unfold execWincRead at h
  refine kept_unlessOff h (fun t2 h => ?_)
  injection h with h; subst h
  repeat' first
    | decide
    | with_reducible exact Kept.refl _ _
    | with_reducible assumption
    | with_reducible refine Kept.ite ?_ ?_
    | with_reducible apply Kept.step (kept_emit _ _)
    | with_reducible apply Kept.step (kept_count _ _)
    | with_reducible apply Kept.step (kept_memFlush _ _ _)
    | with_reducible apply Kept.step (kept_wake _ _)
    | with_reducible apply Kept.step (kept_fresh _)
    | with_reducible refine Kept.snd_eq ‹_ = (_, _)› (Kept.of (kept_fresh _) ?_)
    | with_reducible apply Kept.step (kept_winCBad _ _ _)
    | with_reducible (show Kept _ _ _; refine Kept.mk ?_)
    | split
    | dsimp only

theorem kept_execWincWrite (f : Fin 66) (off : Nat) (bytes : List Byte) (poisoned : Bool) (s : State) : ∀ t', execWincWrite f off bytes poisoned s = .next t' → Kept 0x2140220020 s t' := by
  intro t2 h
  unfold execWincWrite at h
  refine kept_unlessOff h (fun t2 h => ?_)
  injection h with h; subst h
  repeat' first
    | decide
    | with_reducible exact Kept.refl _ _
    | with_reducible assumption
    | with_reducible refine Kept.ite ?_ ?_
    | with_reducible (show Kept _ _ (State.updBead _ _ _); first | apply Kept.step (kept_updBead _ _ _) | (refine Kept.of (kept_updBead _ _ _ ?hf) ?_; case hf => (intro _ h; (try dsimp only); first | exact h | exact Bead.wf_spUndefine _ _ _ _ h | exact Bead.wf_spWrite _ _ _ h | exact Bead.wf_accUndefine _ _ _ _ (Bead.wf_spUndefine _ _ _ _ h) | exact Bead.wf_accUndefine _ _ _ _ h | (unfold Bead.accPut; exact h) | (unfold Bead.spMark; exact h) | exact Bead.wf_foldl (fun _ _ h => h) h | exact Bead.wf_foldl (fun _ _ h => Bead.wf_accPut _ _ _ _ _ h) h | exact Bead.wf_accUndefine _ _ _ _ (Bead.wf_foldl (fun _ _ h => Bead.wf_spUndefine _ _ _ _ h) h) | (repeat' split <;> exact h))))
    | with_reducible apply Kept.step (kept_count _ _)
    | with_reducible apply Kept.step (kept_wake _ _)
    | with_reducible apply Kept.step (kept_memWriteC _ _ _)
    | with_reducible apply Kept.step (kept_memMark _ _ _)
    | with_reducible apply Kept.step (kept_winCBad _ _ _)
    | with_reducible (show Kept _ _ _; refine Kept.mk ?_)
    | split
    | dsimp only

theorem kept_answer (s : State) (f status : Nat) : Kept 0x200000 s (State.answer s f status) := by
  unfold State.answer
  repeat' first
    | decide
    | with_reducible exact Kept.refl _ _
    | with_reducible assumption
    | with_reducible refine Kept.ite ?_ ?_
    | with_reducible apply Kept.step (kept_updFn _ _ _)
    | with_reducible refine Kept.foldl (fun _ _ => ?_) ?_
    | with_reducible (show Kept _ _ _; refine Kept.mk ?_)
    | split
    | dsimp only

theorem kept_negotiate (s : State) (f : Nat) : Kept 0x200000 s (State.negotiate s f) := by
  unfold State.negotiate
  repeat' first
    | decide
    | with_reducible exact Kept.refl _ _
    | with_reducible assumption
    | with_reducible refine Kept.ite ?_ ?_
    | with_reducible apply Kept.step (kept_updFn _ _ _)
    | with_reducible apply Kept.step (kept_answer _ _ _)
    | with_reducible (show Kept _ _ _; refine Kept.mk ?_)
    | split
    | dsimp only

theorem kept_serveMbox (s : State) (f : Nat) : Kept 0x100e00000 s (State.serveMbox s f) := by
  unfold State.serveMbox
  repeat' first
    | decide
    | with_reducible exact Kept.refl _ _
    | with_reducible assumption
    | with_reducible refine Kept.ite ?_ ?_
    | with_reducible apply Kept.step (kept_count _ _)
    | with_reducible apply Kept.step (kept_answer _ _ _)
    | with_reducible apply Kept.step (kept_negotiate _ _)
    | with_reducible apply Kept.step (kept_resetFunction _ _)
    | with_reducible (show Kept _ _ _; refine Kept.mk ?_)
    | split
    | dsimp only

theorem kept_execNegotiate (f : Fin 66) (s : State) : ∀ t', execNegotiate f s = .next t' → Kept 0x100e00000 s t' := by
  intro t2 h
  unfold execNegotiate at h
  refine kept_unlessOff h (fun t2 h => ?_)
  injection h with h; subst h
  repeat' first
    | decide
    | with_reducible exact Kept.refl _ _
    | with_reducible assumption
    | with_reducible refine Kept.ite ?_ ?_
    | with_reducible apply Kept.step (kept_serveMbox _ _)
    | with_reducible (show Kept _ _ _; refine Kept.mk ?_)
    | split
    | dsimp only

theorem kept_execQuery (f : Fin 66) (s : State) : ∀ t', execQuery f s = .next t' → Kept 0x100e00000 s t' := by
  intro t2 h
  unfold execQuery at h
  refine kept_unlessOff h (fun t2 h => ?_)
  injection h with h; subst h
  repeat' first
    | decide
    | with_reducible exact Kept.refl _ _
    | with_reducible assumption
    | with_reducible refine Kept.ite ?_ ?_
    | with_reducible apply Kept.step (kept_serveMbox _ _)
    | with_reducible (show Kept _ _ _; refine Kept.mk ?_)
    | split
    | dsimp only

theorem kept_execRelease (f : Fin 66) (s : State) : ∀ t', execRelease f s = .next t' → Kept 0x100e00000 s t' := by
  intro t2 h
  unfold execRelease at h
  refine kept_unlessOff h (fun t2 h => ?_)
  injection h with h; subst h
  repeat' first
    | decide
    | with_reducible exact Kept.refl _ _
    | with_reducible assumption
    | with_reducible refine Kept.ite ?_ ?_
    | with_reducible apply Kept.step (kept_serveMbox _ _)
    | with_reducible (show Kept _ _ _; refine Kept.mk ?_)
    | split
    | dsimp only

theorem kept_execMboxResponse (f : Fin 66) (s : State) : ∀ t', execMboxResponse f s = .next t' → Kept 0x2100e00000 s t' := by
  intro t2 h
  unfold execMboxResponse at h
  refine kept_unlessOff h (fun t2 h => ?_)
  injection h with h; subst h
  repeat' first
    | decide
    | with_reducible exact Kept.refl _ _
    | with_reducible assumption
    | with_reducible refine Kept.ite ?_ ?_
    | with_reducible apply Kept.step (kept_serveMbox _ _)
    | with_reducible apply Kept.step (kept_updFn _ _ _)
    | with_reducible apply Kept.step (kept_msix _ _ _)
    | with_reducible (show Kept _ _ _; refine Kept.mk ?_)
    | split
    | dsimp only

theorem kept_coreLine (s : State) (g : Nat) : Kept 0x20002 s (State.coreLine s g).1 := by
  unfold State.coreLine
  repeat' first
    | decide
    | dsimp only
    | with_reducible exact Kept.refl _ _
    | with_reducible assumption
    | with_reducible refine Kept.ite ?_ ?_
    | with_reducible apply Kept.step (kept_fresh _)
    | with_reducible refine Kept.snd_eq ‹_ = (_, _)› (Kept.of (kept_fresh _) ?_)
    | with_reducible (show Kept _ _ _; refine Kept.mk ?_)
    | split
    | dsimp only

theorem kept_coreLoad (s : State) (a : Nat) (l : List (Nat × Nat)) : Kept 0x20002 s (s.coreLoad a l).1 := by
  induction l generalizing s with
  | nil => exact Kept.refl _ _
  | cons p t ih =>
    obtain ⟨o, l⟩ := p
    exact ((kept_coreLine s ((a + o) / 64)).mono (by decide)).trans (ih _)

theorem kept_coreStore (s : State) (a : Nat) (d : List Byte) : Kept 0x20002 s (State.coreStore s a d) := by
  unfold State.coreStore
  repeat' first
    | decide
    | with_reducible exact Kept.refl _ _
    | with_reducible assumption
    | with_reducible refine Kept.ite ?_ ?_
    | with_reducible apply Kept.step (kept_coreLine _ _)
    | with_reducible refine Kept.fst_eq ‹_ = (_, _)› (Kept.of (kept_coreLine _ _) ?_)
    | with_reducible refine Kept.fst_eq3 ‹_ = (_, _, _)› (Kept.of (kept_coreLine _ _) ?_)
    | with_reducible (show Kept _ _ _; refine Kept.mk ?_)
    | split
    | dsimp only

theorem kept_coreClean (s : State) (g : Nat) : Kept 0x20000 s (State.coreClean s g) := by
  unfold State.coreClean
  repeat' first
    | decide
    | with_reducible exact Kept.refl _ _
    | with_reducible assumption
    | with_reducible refine Kept.ite ?_ ?_
    | with_reducible apply Kept.step (kept_memFlush _ _ _)
    | with_reducible (show Kept _ _ _; refine Kept.mk ?_)
    | split
    | dsimp only

theorem kept_coreDo (s : State) (c a : Nat) (op : CoreAcc) : Kept 0x2000020002 s (State.coreDo s c a op) := by
  unfold State.coreDo
  repeat' first
    | decide
    | with_reducible exact Kept.refl _ _
    | with_reducible assumption
    | with_reducible refine Kept.ite ?_ ?_
    | with_reducible apply Kept.step (kept_coreLoad _ _ _)
    | with_reducible refine Kept.fst_eq ‹_ = (_, _)› (Kept.of (kept_coreLoad _ _ _) ?_)
    | with_reducible refine Kept.fst_eq3 ‹_ = (_, _, _)› (Kept.of (kept_coreLoad _ _ _) ?_)
    | with_reducible apply Kept.step (kept_emit _ _)
    | with_reducible apply Kept.step (kept_coreStore _ _ _)
    | with_reducible apply Kept.step (kept_coreClean _ _)
    | with_reducible apply Kept.step (kept_memFlush _ _ _)
    | with_reducible refine Kept.foldl (fun _ _ => ?_) ?_
    | with_reducible (show Kept _ _ _; refine Kept.mk ?_)
    | split
    | dsimp only

theorem kept_execHostCoreAccess (c : Fin 48) (addr : Nat) (a : CoreAcc) (s : State) : ∀ t', execHostCoreAccess c addr a s = .next t' → Kept 0x3fffffffff s t' := by
  intro t2 h
  unfold execHostCoreAccess at h
  refine kept_unlessDown h (fun t2 h => ?_)
  injection h with h; subst h
  repeat' first
    | decide
    | with_reducible exact Kept.refl _ _
    | with_reducible assumption
    | with_reducible refine Kept.ite ?_ ?_
    | with_reducible apply Kept.step (kept_emit _ _)
    | with_reducible apply Kept.step (kept_regRead _ _ _ _)
    | with_reducible apply Kept.step (kept_regWrite _ _ _ _)
    | with_reducible apply Kept.step (kept_raiseG _ _ _ _ _ _)
    | with_reducible apply Kept.step (kept_wake _ _)
    | with_reducible apply Kept.step (kept_coreDo _ _ _ _)
    | with_reducible (show Kept _ _ _; refine Kept.mk ?_)
    | split
    | dsimp only

end Sys2Proof.Machine
end

