-- ==== Sys2Proof/Laws/KeptMgmt.lean ====
section
/-! SUPPORT. What the operations of Machine/Mgmt.lean may touch. -/

set_option Elab.async false
set_option linter.unusedTactic false
set_option linter.unreachableTactic false

namespace Sys2Proof.Machine

theorem kept_execSensorRefresh (r : SensorIn) (s : State) : ∀ t', execSensorRefresh r s = .next t' → Kept 0xc000000 s t' := by
  intro t2 h
  unfold execSensorRefresh at h
  refine kept_unlessOff h (fun t2 h => ?_)
  injection h with h; subst h
  repeat' first
    | decide
    | with_reducible exact Kept.refl _ _
    | with_reducible assumption
    | with_reducible refine Kept.ite ?_ ?_
    | with_reducible refine Kept.foldl (fun _ _ => ?_) ?_
    | with_reducible (show Kept _ _ _; refine Kept.mk ?_)
    | split
    | dsimp only

theorem kept_mctpAnswer (s : State) (bind : Nat) (body : List Nat) : Kept 0x2008000000 s (State.mctpAnswer s bind body) := by
  unfold State.mctpAnswer
  repeat' first
    | decide
    | with_reducible exact Kept.refl _ _
    | with_reducible assumption
    | with_reducible refine Kept.ite ?_ ?_
    | with_reducible apply Kept.step (kept_emit _ _)
    | with_reducible (show Kept _ _ _; refine Kept.mk ?_)
    | split
    | dsimp only

theorem kept_mctpServe (s : State) (bind : Nat) (m : MctpMsg) : Kept 0x2008000000 s (State.mctpServe s bind m) := by
  unfold State.mctpServe
  repeat' first
    | decide
    | with_reducible exact Kept.refl _ _
    | with_reducible assumption
    | with_reducible refine Kept.ite ?_ ?_
    | with_reducible apply Kept.step (kept_mctpAnswer _ _ _)
    | with_reducible apply Kept.step (kept_emit _ _)
    | with_reducible (show Kept _ _ _; refine Kept.mk ?_)
    | split
    | dsimp only

theorem kept_execMctpPacket (bind : Fin 3) (pecOk : Bool) (m : MctpMsg) (s : State) : ∀ t', execMctpPacket bind pecOk m s = .next t' → Kept 0x2008000000 s t' := by
  intro t2 h
  unfold execMctpPacket at h
  refine kept_unlessOff h (fun t2 h => ?_)
  injection h with h; subst h
  repeat' first
    | decide
    | with_reducible exact Kept.refl _ _
    | with_reducible assumption
    | with_reducible refine Kept.ite ?_ ?_
    | with_reducible apply Kept.step (kept_mctpServe _ _ _)
    | with_reducible (show Kept _ _ _; refine Kept.mk ?_)
    | split
    | dsimp only

theorem kept_execSmbClkTimeout (s : State) : ∀ t', execSmbClkTimeout s = .next t' → Kept 0x8000000 s t' := by
  intro t2 h
  unfold execSmbClkTimeout at h
  refine kept_unlessOff h (fun t2 h => ?_)
  injection h with h; subst h
  repeat' first
    | decide
    | with_reducible exact Kept.refl _ _
    | with_reducible assumption
    | with_reducible refine Kept.ite ?_ ?_
    | with_reducible (show Kept _ _ _; refine Kept.mk ?_)
    | split
    | dsimp only

theorem kept_execSmbusAlertResponse (s : State) : ∀ t', execSmbusAlertResponse s = .next t' → Kept 0x2000000000 s t' := by
  intro t2 h
  unfold execSmbusAlertResponse at h
  refine kept_unlessOff h (fun t2 h => ?_)
  injection h with h; subst h
  repeat' first
    | decide
    | with_reducible exact Kept.refl _ _
    | with_reducible assumption
    | with_reducible refine Kept.ite ?_ ?_
    | with_reducible apply Kept.step (kept_emit _ _)
    | with_reducible (show Kept _ _ _; refine Kept.mk ?_)
    | split
    | dsimp only

theorem kept_setConn (s : State) (tr : Nat) (c : SpdmConn) : Kept 0x8000000 s (State.setConn s tr c) := by
  unfold State.setConn
  repeat' first
    | decide
    | with_reducible exact Kept.refl _ _
    | with_reducible assumption
    | with_reducible refine Kept.ite ?_ ?_
    | with_reducible (show Kept _ _ _; refine Kept.mk ?_)
    | split
    | dsimp only

theorem kept_spdmSend (s : State) (tr code : Nat) (r : SpdmReq) (body : List Nat) : Kept 0x2008000000 s (State.spdmSend s tr code r body) := by
  unfold State.spdmSend
  repeat' first
    | decide
    | with_reducible exact Kept.refl _ _
    | with_reducible assumption
    | with_reducible refine Kept.ite ?_ ?_
    | with_reducible apply Kept.step (kept_setConn _ _ _)
    | with_reducible apply Kept.step (kept_emit _ _)
    | with_reducible (show Kept _ _ _; refine Kept.mk ?_)
    | split
    | dsimp only

theorem kept_spdmErr (s : State) (tr e : Nat) : Kept 0x2000000000 s (State.spdmErr s tr e) := by
  unfold State.spdmErr
  repeat' first
    | decide
    | with_reducible exact Kept.refl _ _
    | with_reducible assumption
    | with_reducible refine Kept.ite ?_ ?_
    | with_reducible apply Kept.step (kept_emit _ _)
    | with_reducible (show Kept _ _ _; refine Kept.mk ?_)
    | split
    | dsimp only

theorem kept_spdmGate {m : Nat} {t s : State} (tr : Nat) (r : SpdmReq) (ready : SpdmConn → Bool) (act : State → State)
    (h : Kept m t s) (ha : Kept m t (act s)) (hm : 0x2000000000 ||| m = m := by decide) : Kept m t (State.spdmGate s tr r ready act) := by
  unfold State.spdmGate
  dsimp only
  repeat' refine Kept.ite ?_ ?_
  · exact h
  · exact h.trans ((kept_spdmErr _ _ _).mono hm)
  · exact h.trans ((kept_spdmErr _ _ _).mono hm)
  · exact h.trans ((kept_spdmErr _ _ _).mono hm)
  · exact ha


theorem kept_spdmNonce (s : State) : Kept 0x2000000 s (State.spdmNonce s).2 := by
  unfold State.spdmNonce
  repeat' first
    | decide
    | dsimp only
    | with_reducible exact Kept.refl _ _
    | with_reducible assumption
    | with_reducible refine Kept.ite ?_ ?_
    | with_reducible (show Kept _ _ _; refine Kept.mk ?_)
    | split
    | dsimp only

theorem kept_execGetVersion (tr : Fin 3) (r : SpdmReq) (s : State) : ∀ t', execGetVersion tr r s = .next t' → Kept 0x2008000000 s t' := by
  intro t2 h
  unfold execGetVersion at h
  refine kept_unlessOff h (fun t2 h => ?_)
  injection h with h; subst h
  repeat' first
    | decide
    | with_reducible exact Kept.refl _ _
    | with_reducible assumption
    | with_reducible refine Kept.ite ?_ ?_
    | with_reducible apply Kept.step (kept_spdmErr _ _ _)
    | with_reducible apply Kept.step (kept_setConn _ _ _)
    | with_reducible apply Kept.step (kept_spdmSend _ _ _ _ _)
    | with_reducible (show Kept _ _ _; refine Kept.mk ?_)
    | split
    | dsimp only

theorem kept_execGetCapabilities (tr : Fin 3) (r : SpdmReq) (s : State) : ∀ t', execGetCapabilities tr r s = .next t' → Kept 0x2008000000 s t' := by
  intro t2 h
  unfold execGetCapabilities at h
  refine kept_unlessOff h (fun t2 h => ?_)
  injection h with h; subst h
  repeat' first
    | decide
    | with_reducible exact Kept.refl _ _
    | with_reducible assumption
    | with_reducible refine Kept.ite ?_ ?_
    | with_reducible apply Kept.step (kept_spdmErr _ _ _)
    | with_reducible apply Kept.step (kept_setConn _ _ _)
    | with_reducible apply Kept.step (kept_spdmSend _ _ _ _ _)
    | with_reducible (show Kept _ _ _; refine Kept.mk ?_)
    | split
    | dsimp only

theorem kept_execNegotiateAlgorithms (tr : Fin 3) (r : SpdmReq) (s : State) : ∀ t', execNegotiateAlgorithms tr r s = .next t' → Kept 0x2008000000 s t' := by
  intro t2 h
  unfold execNegotiateAlgorithms at h
  refine kept_unlessOff h (fun t2 h => ?_)
  injection h with h; subst h
  repeat' first
    | decide
    | with_reducible exact Kept.refl _ _
    | with_reducible assumption
    | with_reducible refine Kept.ite ?_ ?_
    | with_reducible refine kept_spdmGate _ _ _ _ ?_ ?_
    | with_reducible apply Kept.step (kept_setConn _ _ _)
    | with_reducible apply Kept.step (kept_spdmSend _ _ _ _ _)
    | with_reducible (show Kept _ _ _; refine Kept.mk ?_)
    | split
    | dsimp only

theorem kept_execGetDigests (tr : Fin 3) (r : SpdmReq) (s : State) : ∀ t', execGetDigests tr r s = .next t' → Kept 0x2008000000 s t' := by
  intro t2 h
  unfold execGetDigests at h
  refine kept_unlessOff h (fun t2 h => ?_)
  injection h with h; subst h
  repeat' first
    | decide
    | with_reducible exact Kept.refl _ _
    | with_reducible assumption
    | with_reducible refine Kept.ite ?_ ?_
    | with_reducible refine kept_spdmGate _ _ _ _ ?_ ?_
    | with_reducible apply Kept.step (kept_spdmSend _ _ _ _ _)
    | with_reducible (show Kept _ _ _; refine Kept.mk ?_)
    | split
    | dsimp only

theorem kept_execGetCertificate (tr : Fin 3) (r : SpdmReq) (s : State) : ∀ t', execGetCertificate tr r s = .next t' → Kept 0x2008000000 s t' := by
  intro t2 h
  unfold execGetCertificate at h
  refine kept_unlessOff h (fun t2 h => ?_)
  injection h with h; subst h
  repeat' first
    | decide
    | with_reducible exact Kept.refl _ _
    | with_reducible assumption
    | with_reducible refine Kept.ite ?_ ?_
    | with_reducible refine kept_spdmGate _ _ _ _ ?_ ?_
    | with_reducible apply Kept.step (kept_spdmErr _ _ _)
    | with_reducible apply Kept.step (kept_spdmSend _ _ _ _ _)
    | with_reducible (show Kept _ _ _; refine Kept.mk ?_)
    | split
    | dsimp only

theorem kept_execChallenge (tr : Fin 3) (r : SpdmReq) (s : State) : ∀ t', execChallenge tr r s = .next t' → Kept 0x200a000000 s t' := by
  intro t2 h
  unfold execChallenge at h
  refine kept_unlessOff h (fun t2 h => ?_)
  injection h with h; subst h
  repeat' first
    | decide
    | with_reducible exact Kept.refl _ _
    | with_reducible assumption
    | with_reducible refine Kept.ite ?_ ?_
    | with_reducible refine kept_spdmGate _ _ _ _ ?_ ?_
    | with_reducible apply Kept.step (kept_spdmErr _ _ _)
    | with_reducible apply Kept.step (kept_spdmNonce _)
    | with_reducible refine Kept.snd_eq ‹_ = (_, _)› (Kept.of (kept_spdmNonce _) ?_)
    | with_reducible apply Kept.step (kept_spdmSend _ _ _ _ _)
    | with_reducible (show Kept _ _ _; refine Kept.mk ?_)
    | split
    | dsimp only

theorem kept_execGetMeasurements (tr : Fin 3) (r : SpdmReq) (s : State) : ∀ t', execGetMeasurements tr r s = .next t' → Kept 0x200a000000 s t' := by
  intro t2 h
  unfold execGetMeasurements at h
  refine kept_unlessOff h (fun t2 h => ?_)
  injection h with h; subst h
  repeat' first
    | decide
    | with_reducible exact Kept.refl _ _
    | with_reducible assumption
    | with_reducible refine Kept.ite ?_ ?_
    | with_reducible refine kept_spdmGate _ _ _ _ ?_ ?_
    | with_reducible apply Kept.step (kept_spdmErr _ _ _)
    | with_reducible apply Kept.step (kept_spdmNonce _)
    | with_reducible refine Kept.snd_eq ‹_ = (_, _)› (Kept.of (kept_spdmNonce _) ?_)
    | with_reducible apply Kept.step (kept_spdmSend _ _ _ _ _)
    | with_reducible (show Kept _ _ _; refine Kept.mk ?_)
    | split
    | dsimp only

theorem kept_execUartRxFrame (start stop : Bool) (x : Byte) (s : State) : ∀ t', execUartRxFrame start stop x s = .next t' → Kept 0x8000000 s t' := by
  intro t2 h
  unfold execUartRxFrame at h
  refine kept_unlessOff h (fun t2 h => ?_)
  injection h with h; subst h
  repeat' first
    | decide
    | with_reducible exact Kept.refl _ _
    | with_reducible assumption
    | with_reducible refine Kept.ite ?_ ?_
    | with_reducible (show Kept _ _ _; refine Kept.mk ?_)
    | split
    | dsimp only

theorem kept_execUartRearm (s : State) : ∀ t', execUartRearm s = .next t' → Kept 0x8000000 s t' := by
  intro t2 h
  unfold execUartRearm at h
  refine kept_unlessOff h (fun t2 h => ?_)
  injection h with h; subst h
  repeat' first
    | decide
    | with_reducible exact Kept.refl _ _
    | with_reducible assumption
    | with_reducible refine Kept.ite ?_ ?_
    | with_reducible (show Kept _ _ _; refine Kept.mk ?_)
    | split
    | dsimp only

theorem kept_loadIr (s : State) (tap : Fin 10) (code : Nat) : Kept 0x10000000 s (State.loadIr s tap code) := by
  unfold State.loadIr
  repeat' first
    | decide
    | with_reducible exact Kept.refl _ _
    | with_reducible assumption
    | with_reducible refine Kept.ite ?_ ?_
    | with_reducible (show Kept _ _ _; refine Kept.mk ?_)
    | split
    | dsimp only

theorem kept_bypassScan (s : State) (tap : Fin 10) (dr : Nat) : Kept 0x2000000000 s (State.bypassScan s tap dr) := by
  unfold State.bypassScan
  repeat' first
    | decide
    | with_reducible exact Kept.refl _ _
    | with_reducible assumption
    | with_reducible refine Kept.ite ?_ ?_
    | with_reducible apply Kept.step (kept_emit _ _)
    | with_reducible (show Kept _ _ _; refine Kept.mk ?_)
    | split
    | dsimp only

theorem kept_boundaryScan (s : State) (tap : Fin 10) (dr : Nat) : Kept 0x2010000002 s (State.boundaryScan s tap dr) := by
  unfold State.boundaryScan
  repeat' first
    | decide
    | with_reducible exact Kept.refl _ _
    | with_reducible assumption
    | with_reducible refine Kept.ite ?_ ?_
    | with_reducible apply Kept.step (kept_fresh _)
    | with_reducible refine Kept.snd_eq ‹_ = (_, _)› (Kept.of (kept_fresh _) ?_)
    | with_reducible apply Kept.step (kept_emit _ _)
    | with_reducible (show Kept _ _ _; refine Kept.mk ?_)
    | split
    | dsimp only

theorem kept_pinDrive {m : Nat} {t s : State} (tap : Fin 10) (code dr : Nat) (act : State → State)
    (h : Kept m t s) (ha : ∀ u, Kept m t u → Kept m t (act u)) (hm : 0x2010000000 ||| m = m := by decide) : Kept m t (State.pinDrive s tap code dr act) := by
  unfold State.pinDrive
  have hl : Kept m t (s.loadIr tap code) := h.trans ((kept_loadIr _ _ _).mono (by rw [← hm, ← Nat.or_assoc]; rfl))
  refine Kept.ite (ha _ hl) ?_
  have hb : 0x2000000000 ||| m = m := by rw [← hm, ← Nat.or_assoc]; rfl
  have hj : 0x10000000 ||| m = m := by rw [← hm, ← Nat.or_assoc]; rfl
  refine Kept.trans ?_ ((kept_bypassScan _ _ _).mono hb)
  refine hl.trans (Kept.mono ?_ hj)
  exact Kept.mk (Kept.refl _ _)


theorem kept_execIdcode (tap : Fin 10) (dr : Nat) (s : State) : ∀ t', execIdcode tap dr s = .next t' → Kept 0x2010000000 s t' := by
  intro t2 h
  unfold execIdcode at h
  injection h with h; subst h
  repeat' first
    | decide
    | with_reducible exact Kept.refl _ _
    | with_reducible assumption
    | with_reducible refine Kept.ite ?_ ?_
    | with_reducible apply Kept.step (kept_loadIr _ _ _)
    | with_reducible apply Kept.step (kept_emit _ _)
    | with_reducible (show Kept _ _ _; refine Kept.mk ?_)
    | split
    | dsimp only

theorem kept_execSamplePreload (tap : Fin 10) (dr : Nat) (s : State) : ∀ t', execSamplePreload tap dr s = .next t' → Kept 0x2010000002 s t' := by
  intro t2 h
  unfold execSamplePreload at h
  injection h with h; subst h
  repeat' first
    | decide
    | with_reducible exact Kept.refl _ _
    | with_reducible assumption
    | with_reducible refine Kept.ite ?_ ?_
    | with_reducible apply Kept.step (kept_loadIr _ _ _)
    | with_reducible apply Kept.step (kept_boundaryScan _ _ _)
    | with_reducible (show Kept _ _ _; refine Kept.mk ?_)
    | split
    | dsimp only

theorem kept_execExtest (tap : Fin 10) (dr : Nat) (s : State) : ∀ t', execExtest tap dr s = .next t' → Kept 0x2010000002 s t' := by
  intro t2 h
  unfold execExtest at h
  injection h with h; subst h
  repeat' first
    | decide
    | with_reducible exact Kept.refl _ _
    | with_reducible assumption
    | with_reducible refine Kept.ite ?_ ?_
    | with_reducible refine kept_pinDrive _ _ _ _ ?_ (fun _ _ => ?_)
    | with_reducible apply Kept.step (kept_boundaryScan _ _ _)
    | with_reducible (show Kept _ _ _; refine Kept.mk ?_)
    | split
    | dsimp only

theorem kept_execClamp (tap : Fin 10) (dr : Nat) (s : State) : ∀ t', execClamp tap dr s = .next t' → Kept 0x2010000000 s t' := by
  intro t2 h
  unfold execClamp at h
  injection h with h; subst h
  repeat' first
    | decide
    | with_reducible exact Kept.refl _ _
    | with_reducible assumption
    | with_reducible refine Kept.ite ?_ ?_
    | with_reducible refine kept_pinDrive _ _ _ _ ?_ (fun _ _ => ?_)
    | with_reducible apply Kept.step (kept_bypassScan _ _ _)
    | with_reducible (show Kept _ _ _; refine Kept.mk ?_)
    | split
    | dsimp only

theorem kept_execHighz (tap : Fin 10) (dr : Nat) (s : State) : ∀ t', execHighz tap dr s = .next t' → Kept 0x2010000000 s t' := by
  intro t2 h
  unfold execHighz at h
  injection h with h; subst h
  repeat' first
    | decide
    | with_reducible exact Kept.refl _ _
    | with_reducible assumption
    | with_reducible refine Kept.ite ?_ ?_
    | with_reducible refine kept_pinDrive _ _ _ _ ?_ (fun _ _ => ?_)
    | with_reducible apply Kept.step (kept_bypassScan _ _ _)
    | with_reducible (show Kept _ _ _; refine Kept.mk ?_)
    | split
    | dsimp only

theorem kept_execExtestPulse (tap : Fin 10) (dr : Nat) (s : State) : ∀ t', execExtestPulse tap dr s = .next t' → Kept 0x2010000002 s t' := by
  intro t2 h
  unfold execExtestPulse at h
  injection h with h; subst h
  repeat' first
    | decide
    | with_reducible exact Kept.refl _ _
    | with_reducible assumption
    | with_reducible refine Kept.ite ?_ ?_
    | with_reducible refine kept_pinDrive _ _ _ _ ?_ (fun _ _ => ?_)
    | with_reducible apply Kept.step (kept_boundaryScan _ _ _)
    | with_reducible (show Kept _ _ _; refine Kept.mk ?_)
    | split
    | dsimp only

theorem kept_execExtestTrain (tap : Fin 10) (dr : Nat) (s : State) : ∀ t', execExtestTrain tap dr s = .next t' → Kept 0x2010000002 s t' := by
  intro t2 h
  unfold execExtestTrain at h
  injection h with h; subst h
  repeat' first
    | decide
    | with_reducible exact Kept.refl _ _
    | with_reducible assumption
    | with_reducible refine Kept.ite ?_ ?_
    | with_reducible refine kept_pinDrive _ _ _ _ ?_ (fun _ _ => ?_)
    | with_reducible apply Kept.step (kept_boundaryScan _ _ _)
    | with_reducible (show Kept _ _ _; refine Kept.mk ?_)
    | split
    | dsimp only

theorem kept_execDbgAccess (tap : Fin 10) (dr : Nat) (s : State) : ∀ t', execDbgAccess tap dr s = .next t' → Kept 0x3fffffffff s t' := by
  intro t2 h
  unfold execDbgAccess at h
  injection h with h; subst h
  repeat' first
    | decide
    | with_reducible exact Kept.refl _ _
    | with_reducible assumption
    | with_reducible refine Kept.ite ?_ ?_
    | with_reducible apply Kept.step (kept_loadIr _ _ _)
    | with_reducible apply Kept.step (kept_regWrite _ _ _ _)
    | with_reducible apply Kept.step (kept_regRead _ _ _ _)
    | with_reducible (show Kept _ _ _; refine Kept.mk ?_)
    | split
    | dsimp only

theorem kept_execBypass (tap : Fin 10) (dr : Nat) (s : State) : ∀ t', execBypass tap dr s = .next t' → Kept 0x2010000000 s t' := by
  intro t2 h
  unfold execBypass at h
  injection h with h; subst h
  repeat' first
    | decide
    | with_reducible exact Kept.refl _ _
    | with_reducible assumption
    | with_reducible refine Kept.ite ?_ ?_
    | with_reducible apply Kept.step (kept_loadIr _ _ _)
    | with_reducible apply Kept.step (kept_bypassScan _ _ _)
    | with_reducible (show Kept _ _ _; refine Kept.mk ?_)
    | split
    | dsimp only

theorem kept_execTrstN (s : State) : ∀ t', execTrstN s = .next t' → Kept 0x10000000 s t' := by
  intro t2 h
  unfold execTrstN at h
  injection h with h; subst h
  repeat' first
    | decide
    | with_reducible exact Kept.refl _ _
    | with_reducible assumption
    | with_reducible refine Kept.ite ?_ ?_
    | with_reducible (show Kept _ _ _; refine Kept.mk ?_)
    | split
    | dsimp only

end Sys2Proof.Machine
end

