-- ==== Sys2Proof/Laws/Registers.lean ====
section
/-! SUPPORT. A whole write of one register, from the gate to the register's own effect. -/

set_option Elab.async false

namespace Sys2Proof.Machine

@[simp] theorem leBytes_length (n x : Nat) : (leBytes n x).length = n := by
  induction n generalizing x with
  | zero => rfl
  | succ k ih => simp [leBytes, ih]

theorem leNat_leBytes (n x : Nat) : leNat (leBytes n x) = x % 2 ^ (8 * n) := by
  induction n generalizing x with
  | zero => simp [leBytes, leNat, Nat.mod_one]
  | succ k ih =>
    simp only [leBytes, leNat, ih, BitVec.toNat_ofNat]
    rw [show 8 * (k + 1) = 8 + 8 * k by ring, Nat.pow_add, Nat.mod_mul]

/-- What a write of a whole register through the gate of a space does, when it needs no negotiated version or has one. -/
theorem put_of_negotiated {s : State} {v : Via} {p : Space} {o x : Nat}
    (h : needsAbi p o x = false ∨ s.negotiated v) : s.put v p o x = s.wrReg v p o x := by
  unfold State.put
  split
  · rename_i f hf
    rcases h with h | h
    · simp [h]
    · simp [h f hf]
  · rfl

theorem dropHeld_fns (s : State) (v : Via) : (s.dropHeld v).fns = s.fns := (kept_dropHeld s v).fns_eq (by decide)

theorem negotiated_dropHeld {s : State} {v : Via} (h : s.negotiated v) : (s.dropHeld v).negotiated v := fun f hf => by
  unfold State.fn; rw [dropHeld_fns]; exact h f hf

theorem regWrite_word {s : State} {v : Via} {p : Space} {o x : Nat} (hg : s.gate v o true = .ok p) (ho : o % 4 = 0)
    (hp : p.pair o = none) (ha : ∀ y, needsAbi p o y = false) :
    s.regWrite v o (leBytes 4 x) = (s.dropHeld v).wrReg v p o (x % 2 ^ 32) := by
  unfold State.regWrite
  have hw : wordsOk o 4 = true := by simp [wordsOk, ho]
  have hc : p.cuts o 4 = false := by simp [Space.cuts]
  simp only [leBytes_length, hg, hw, hc, Bool.not_true, Bool.or_false, Bool.false_eq_true, if_false, Nat.lt_irrefl, hp]
  simp only [Nat.reduceDiv, List.range_succ_eq_map, List.range_zero, List.map_nil, List.map_cons, Nat.mul_zero, Nat.add_zero, List.drop_zero]
  unfold State.putWords
  have ht : List.take 4 (leBytes 4 x) = leBytes 4 x := List.take_of_length_le (by simp)
  rw [ht, leNat_leBytes, put_of_negotiated (.inl (ha _))]

theorem regWrite_wide {s : State} {v : Via} {p : Space} {o x : Nat} (hg : s.gate v o true = .ok p) (ho : o % 8 = 0)
    (hp : p.pair o = some o) (hq : p.pair (o + 4) = some o) (ha : (∀ y, needsAbi p o y = false) ∨ s.negotiated v) :
    s.regWrite v o (leBytes 8 x) = (s.dropHeld v).wrReg v p o (x % 2 ^ 64) := by
  unfold State.regWrite
  have hw : wordsOk o 8 = true := by simp [wordsOk]; left; omega
  have hc : p.cuts o 8 = false := by simp [Space.cuts, hp, hq]
  simp only [leBytes_length, hg, hw, hc, Bool.not_true, Bool.or_false, Bool.false_eq_true, if_false, hp]
  rw [if_neg (by decide), if_neg (by decide)]
  have : (List.range (8 / 4)).map (fun i => (o + 4 * i, leNat (((leBytes 8 x).drop (4 * i)).take 4))) =
      [(o, leNat ((leBytes 8 x).take 4)), (o + 4, leNat ((leBytes 8 x).drop 4))] := by
    have ht : List.take 4 (List.drop 4 (leBytes 8 x)) = List.drop 4 (leBytes 8 x) := List.take_of_length_le (by simp)
    simp [List.range_succ, ht]
  rw [this]
  unfold State.putWords
  rw [if_pos hp]
  unfold State.putWords
  have e : leNat ((leBytes 8 x).take 4) + leNat ((leBytes 8 x).drop 4) * 2 ^ 32 = x % 2 ^ 64 := by
    have h1 : (leBytes 8 x).take 4 = leBytes 4 x := rfl
    have h2 : (leBytes 8 x).drop 4 = leBytes 4 (x / 2 ^ 32) := by
      simp only [leBytes, List.drop_succ_cons, List.drop_zero, Nat.div_div_eq_div_mul]; norm_num
    rw [h1, h2, leNat_leBytes, leNat_leBytes]
    have := Nat.mod_mul (x := x) (a := 2 ^ 32) (b := 2 ^ 32)
    norm_num at this ⊢
    omega
  rw [e, put_of_negotiated (ha.imp (fun h => h _) negotiated_dropHeld)]

theorem writeA_eq {s : State} {v : Via} {off : Nat} (h : s.reachesA v off) (o n x : Nat) : s.writeA v o n x = s.regWrite v o (leBytes n x) := by
  unfold State.writeA
  cases v <;> first | rfl | exact absurd h.1 (by simp [viaWindow])

theorem writeW_eq {s : State} {v : Via} {w off : Nat} (h : s.reachesW v w off) (o n x : Nat) : s.writeW v o n x = s.regWrite v o (leBytes n x) := by
  unfold State.writeW
  cases v <;> first | rfl | exact absurd h.1 (by simp [viaWindow])

/-- A row that writes a 32-bit register of window A. -/
theorem writeA_word {s : State} {v : Via} {o x : Nat} (h : s.reachesA v o) (ho : o % 4 = 0) (hp : Space.a.pair o = none)
    (ha : ∀ y, needsAbi .a o y = false) : s.writeA v o 4 x = (s.dropHeld v).wrA v o (x % 2 ^ 32) := by
  rw [writeA_eq h, regWrite_word h.2.1 ho hp ha]; rfl

/-- A row that writes a 64-bit register of window A. -/
theorem writeA_wide {s : State} {v : Via} {o x : Nat} (h : s.reachesA v o) (ho : o % 8 = 0) (hp : Space.a.pair o = some o)
    (hq : Space.a.pair (o + 4) = some o) (ha : (∀ y, needsAbi .a o y = false) ∨ s.negotiated v) :
    s.writeA v o 8 x = (s.dropHeld v).wrA v o (x % 2 ^ 64) := by
  rw [writeA_eq h, regWrite_wide h.2.1 ho hp hq ha]; rfl

/-- A row that writes a 32-bit register of a user window. -/
theorem writeW_word {s : State} {v : Via} {w o x : Nat} (h : s.reachesW v w o) (ho : o % 4 = 0) (hp : (Space.win w).pair o = none)
    (ha : (∀ y, needsAbi (.win w) o y = false)) : s.writeW v o 4 x = (s.dropHeld v).wrWin v w o (x % 2 ^ 32) := by
  rw [writeW_eq h, regWrite_word h.2 ho hp ha]; rfl

/-- A row that writes a 64-bit register of a user window. -/
theorem writeW_wide {s : State} {v : Via} {w o x : Nat} (h : s.reachesW v w o) (ho : o % 8 = 0) (hp : (Space.win w).pair o = some o)
    (hq : (Space.win w).pair (o + 4) = some o) (ha : (∀ y, needsAbi (.win w) o y = false) ∨ s.negotiated v) :
    s.writeW v o 8 x = (s.dropHeld v).wrWin v w o (x % 2 ^ 64) := by
  rw [writeW_eq h, regWrite_wide h.2 ho hp hq ha]; rfl

theorem bits_mod (x hi lo n : Nat) (h : hi < n) (hl : lo ≤ hi) : bits (x % 2 ^ n) hi lo = bits x hi lo := by
  unfold bits
  apply Nat.eq_of_testBit_eq
  intro i
  simp only [Nat.testBit_mod_two_pow]
  by_cases hi' : i < hi + 1 - lo
  · have : lo + i < n := by omega
    simp [hi', this]
  · simp [hi']

theorem bit_eq_testBit (x k : Nat) : bit x k = x.testBit k := by
  unfold bit
  rw [Nat.testBit_eq_decide_div_mod_eq, Nat.shiftRight_eq_div_pow]
  by_cases h : x / 2 ^ k % 2 = 1 <;> simp [h]

theorem bit_mod (x k n : Nat) (h : k < n) : bit (x % 2 ^ n) k = bit x k := by
  simp [bit_eq_testBit, Nat.testBit_mod_two_pow, h]

/-- Setting bits and clearing others. -/
theorem bit_withBits (x a b k : Nat) : bit (withBits x a b) k = ((bit x k || a.testBit k) && !b.testBit k) := by
  unfold withBits
  simp only [bit_eq_testBit, Nat.testBit_xor, Nat.testBit_and, Nat.testBit_or]
  cases x.testBit k <;> cases a.testBit k <;> cases b.testBit k <;> rfl

end Sys2Proof.Machine
end

