-- ==== Sys2Proof/WellFormed.lean ====
section
/-! DEFINITION. Well-formed commands: every operand in the range that its encoding in the spec can hold. A command that is not
well formed stands for nothing the outside could send; `exec` is total on it all the same. -/

namespace Sys2Proof

/-- Opcodes of the bead commands (Table 12-5). -/
def rowOpcodes : List Nat :=
  [0x00, 0x01, 0x02, 0x08, 0x10, 0x11, 0x12, 0x20, 0x21, 0x22, 0x23, 0x28, 0x29, 0x2A, 0x2B, 0x30, 0x31, 0x38, 0x39,
   0x40, 0x48, 0x49, 0x50, 0x51]

/-- A word carries the opcode of its row, or an opcode of no row, which every bead command rejects (R392). -/
def opIs (w : CmdWord) (op : Nat) : Bool := w.toNat % 256 == op || !rowOpcodes.contains (w.toNat % 256)

/-- A view that exists: two PFs, 66 functions, 256 windows and the function page, 48 host cores. -/
def viaOk : Via → Bool
  | .pf hub => decide (hub < 2)
  | .func f w => decide (f < 66 ∧ w ≤ 256)
  | .core c w => decide (c < 48 ∧ w < 256)
  | .mgmt => true
  | .jtag => true
  | .coreA c => decide (c < 48)

/-- Fields of a transfer header (Table 14-2), and one POISON tag for each 64-byte flit. -/
def xferOk (x : Xfer) : Bool :=
  decide (x.vc < 4 ∧ x.cls < 4 ∧ x.len ≤ 8 ∧ x.src < 2 ^ 16 ∧ x.dst < 2 ^ 16 ∧ x.tag < 2 ^ 14 ∧ x.addr < 2 ^ 48) &&
    (x.vc != 0 || x.cls == 0) && x.data.length == 64 * x.len && x.poison.length == x.len

/-- Fields of a segment header (Table 16-2). -/
def segOk (s : Segment) : Bool :=
  decide (s.hver < 256 ∧ s.type < 256 ∧ s.vc < 4 ∧ s.path < 32 ∧ s.src < 2 ^ 32 ∧ s.dst < 2 ^ 32 ∧ s.psn < 2 ^ 32 ∧ s.ackPsn < 2 ^ 32 ∧
    s.sack < 2 ^ 64 ∧ s.msgId < 2 ^ 32 ∧ s.msgOff < 2 ^ 32 ∧ s.poisonMap < 2 ^ 64 ∧ s.payload.length ≤ 4096)

/-- Fields of a session message header (Table 15-5). -/
def sesMsgOk (m : SesMsg) : Bool :=
  decide (m.type < 256 ∧ m.svc < 2 ^ 16 ∧ m.handle < 2 ^ 32 ∧ m.reqSeq < 2 ^ 32 ∧ m.budget < 2 ^ 32 ∧ m.status < 2 ^ 16 ∧
    m.appStatus < 2 ^ 16 ∧ m.tag < 2 ^ 64 ∧ m.commitFrame < 2 ^ 64 ∧ m.payload.length < 2 ^ 32)

/-- A peer, or a window with a reply address and size (Table 15-7). -/
def fromOk : MsgFrom → Bool
  | .peer p => decide (p < 2 ^ 32)
  | .sq w a m => decide (w < 256 ∧ a < 2 ^ 64 ∧ m < 2 ^ 32)

/-- An agent that exists. -/
def agentOk : ClaspAgent → Bool
  | .bead b => decide (b < 160)
  | .notify none n => decide (n < 4096)
  | .notify (some w) n => decide (w < 256 ∧ n < 4096)
  | .remote p _ => decide (p < 2 ^ 32)
  | .sched => true

/-- A request to a pool agent. -/
def bpmReqOk (r : BpmReq) : Bool := decide (r.kind < 2 ∧ r.owner < 2 ^ 16 ∧ 1 ≤ r.pages ∧ r.pages ≤ 65536 ∧ r.handle < 2 ^ 40)

/-- A host-core access to a 48-bit package address: loads and stores of up to 64 bytes. -/
def coreAccOk (addr : Nat) : CoreAcc → Bool
  | .load n => decide (addr < 2 ^ 48 ∧ 0 < n ∧ n ≤ 64)
  | .store d => decide (addr < 2 ^ 48 ∧ 0 < d.length ∧ d.length ≤ 64)
  | _ => decide (addr < 2 ^ 48)

/-- A vector of the function's table (R561); an aperture of 1 GiB to 1 TiB (Table 17-2). -/
def cfgOk (f : Fin 66) : CfgOp → Bool
  | .vectorMask v _ => decide (v < if f.val % 33 = 0 then 2048 else 256)
  | .resizeWinC l => decide (30 ≤ l ∧ l ≤ 40)
  | _ => true

/-- Fields of HELLO (Table 16-3) and FED_JOIN (Table 16-4). -/
def helloOk (h : HelloBody) : Bool := decide (h.verMin < 2 ^ 32 ∧ h.verMax < 2 ^ 32 ∧ h.features < 2 ^ 32 ∧ h.paths < 2 ^ 32)
def joinOk (j : JoinBody) : Bool :=
  decide (j.rank < 2 ^ 16 ∧ j.members < 2 ^ 16 ∧ j.totalLeaves < 2 ^ 32 ∧ j.leaves < 2 ^ 16 ∧ j.tag < 2 ^ 64 ∧ j.verMin < 2 ^ 32 ∧ j.verMax < 2 ^ 32)

/-- A collective header (Table 16-5) with a poison bit for each 64 bytes of rows; a pool agent's answer. -/
def deliveryOk : Delivery → Bool
  | .coll h rows poison => decide (h.nrows * h.rowBytes = rows.length) && poison.length == (rows.length + 63) / 64
  | .pool _ _ st h => decide (st < 2 ^ 16 ∧ h < 2 ^ 40)
  | .session hub m _ => decide (hub < 2) && sesMsgOk m
  | .merge uid _ _ _ => decide (uid < 2 ^ 16)
  | .reduce uid _ _ _ => decide (uid < 2 ^ 16)

/-- A flash of at most 512 MiB, stacks and beads that exist. -/
def bootOk (i : BootIn) : Bool :=
  (match i.flash with
    | some f => f.all (fun c => decide (c.1 < 2 ^ 29))
    | none => true) &&
  i.backup.all (fun c => decide (c.1 < 2 ^ 29)) && i.badPcs.all (fun p => decide (p.1 < 16 ∧ p.2 < 2 ^ 64)) &&
  i.badBeads.all (fun b => decide (b < 160))

/-- An SPDM request. -/
def spdmOk (r : SpdmReq) : Bool := decide (r.version < 256 ∧ r.slot < 256 ∧ r.index < 256 ∧ r.nonce < 2 ^ 256)

/-- 26 temperatures and eight currents (Table 17-6). -/
def sensorOk (r : SensorIn) : Bool := r.temps.length == 26 && r.currents.length == 8

/-- The check of a command. -/
def Instr.wf : Instr → Bool
  | .nop _ w => opIs w 0x00
  | .endChain _ w _ => opIs w 0x01
  | .fence _ w => opIs w 0x02
  | .tdset _ w => opIs w 0x08
  | .load _ w => opIs w 0x10
  | .store _ w => opIs w 0x11
  | .copy _ w => opIs w 0x12
  | .mma _ w => opIs w 0x20
  | .conv _ w => opIs w 0x21
  | .loupe _ w => opIs w 0x22
  | .xmma _ w => opIs w 0x23
  | .drain _ w => opIs w 0x28
  | .spill _ w => opIs w 0x29
  | .fill _ w => opIs w 0x2A
  | .xdrain _ w => opIs w 0x2B
  | .vop _ w => opIs w 0x30
  | .red _ w => opIs w 0x31
  | .mtpush _ w => opIs w 0x38
  | .mtpull _ w => opIs w 0x39
  | .clasp _ w => opIs w 0x40
  | .save _ w => opIs w 0x48
  | .restore _ w => opIs w 0x49
  | .dbgrd _ w => opIs w 0x50
  | .dbgwr _ w => opIs w 0x51
  | .commandComplete _ _ => true
  | .prescanEnd _ => true
  | .chainFetch _ => true
  | .chainOverrun _ => true
  | .claspWake _ _ => true
  | .clpTimeout _ => true
  | .sliceOverrun uid _ _ => decide (uid < 2 ^ 16)
  | .beadWatchdog _ _ => true
  | .frameTick _ => true
  | .sliceStart uid _ => decide (uid < 2 ^ 16)
  | .fsyncInEdge _ => true
  | .frmSyncLost => true
  | .commitPoint uid _ => decide (uid < 2 ^ 16)
  | .setLoadGo v x => viaOk v && decide (x < 2 ^ 32)
  | .setCheckDone => true
  | .setTimeout => true
  | .flashWrite _ _ => true
  | .claspSignal who id _ => agentOk who && decide (id < 2 ^ 16)
  | .claspWait who id _ => agentOk who && decide (id < 2 ^ 16)
  | .claspArrive who id _ => agentOk who && decide (id < 2 ^ 16)
  | .claspReset who id => agentOk who && decide (id < 2 ^ 16)
  | .claspFail who id => agentOk who && decide (id < 2 ^ 16)
  | .clpOpSignal v x => viaOk v && decide (x < 2 ^ 64) && bits x 18 16 == 0
  | .clpOpWait v x => viaOk v && decide (x < 2 ^ 64) && bits x 18 16 == 1
  | .clpOpArrive v x => viaOk v && decide (x < 2 ^ 64) && bits x 18 16 == 2
  | .clpOpReset v x => viaOk v && decide (x < 2 ^ 64) && bits x 18 16 == 3
  | .clpOpFail v x => viaOk v && decide (x < 2 ^ 64) && bits x 18 16 == 4
  | .clpMsixArm v entry x => viaOk v && decide (entry < 32) && decide (x < 2 ^ 32)
  | .openSes src m hub _ => fromOk src && sesMsgOk m && m.type == 1 && decide (hub < 2)
  | .sesQuotaReserve svc => decide (svc < 4096)
  | .request src m _ => fromOk src && sesMsgOk m && m.type == 3
  | .abort src m => fromOk src && sesMsgOk m && m.type == 5
  | .close src m => fromOk src && sesMsgOk m && m.type == 7
  | .sesIdle idx _ => decide (idx < 2097152)
  | .sesSqTail v x => viaOk v && decide (x < 2 ^ 32)
  | .sesCqHead v x => viaOk v && decide (x < 2 ^ 32)
  | .sesEntRead v x => viaOk v && decide (x < 2 ^ 32)
  | .bpmAlloc v x => viaOk v && decide (x < 2 ^ 64)
  | .bpmFree v x => viaOk v && decide (x < 2 ^ 64)
  | .quarantineEnd _ => true
  | .scrubLine stack _ _ => decide (stack < 16)
  | .sramScrub _ _ => true
  | .pcRetire _ _ => true
  | .hbmRefresh2x _ _ => true
  | .stackSelfRefresh _ => true
  | .rd x _ => xferOk x && x.op == .rd
  | .wr x _ => xferOk x && x.op == .wr
  | .addX x _ _ => xferOk x && x.op == .add
  | .rdData x => xferOk x && x.op == .rdData
  | .wrAck x => xferOk x && x.op == .wrAck
  | .frame x => xferOk x && x.op == .frame
  | .deliver x d => xferOk x && x.op == .deliver && deliveryOk d
  | .bpm x req => xferOk x && x.op == .bpm && bpmReqOk req
  | .filGroupRx _ gseq _ xs _ _ => decide (gseq < 256) && xs.all xferOk
  | .filAckTimeout _ => true
  | .filLaneSpared _ _ _ => true
  | .filRemapDone _ _ => true
  | .filSubchLost _ bi => bootOk bi
  | .ethFrameRx _ _ _ _ _ sg => segOk sg
  | .pfcPause _ _ => true
  | .data _ sg => segOk sg && sg.type == 0
  | .ack _ sg => segOk sg && sg.type == 1
  | .hello _ sg h => segOk sg && sg.type == 2 && helloOk h
  | .helloAck _ sg h => segOk sg && sg.type == 3 && helloOk h
  | .probe _ sg => segOk sg && sg.type == 4
  | .bye _ sg => segOk sg && sg.type == 5
  | .earlyNak _ sg => segOk sg && sg.type == 6
  | .ackTimer peer vc => decide (peer < 2 ^ 32) && decide (vc < 4)
  | .retransmitTimeout peer vc _ _ => decide (peer < 2 ^ 32) && decide (vc < 4)
  | .congestionInterval _ => true
  | .netPortDown _ => true
  | .netPathSuspect peer _ => decide (peer < 2 ^ 32)
  | .probeTimer peer _ => decide (peer < 2 ^ 32)
  | .peerIdleRemove peer _ => decide (peer < 2 ^ 32)
  | .claspOp peer fedUid cl _ _ _ => decide (peer < 2 ^ 32) && decide (0x1000 ≤ fedUid ∧ fedUid < 0xFFFF) && decide (cl < 2 ^ 16)
  | .claspDone peer _ status _ => decide (peer < 2 ^ 32) && decide (status < 2 ^ 16)
  | .collFail peer _ _ _ status => decide (peer < 2 ^ 32) && decide (status < 2 ^ 16)
  | .fedJoin peer fedUid j => decide (peer < 2 ^ 32) && decide (0x1000 ≤ fedUid ∧ fedUid < 0xFFFF) && joinOk j
  | .fedFormed peer fedUid _ _ => decide (peer < 2 ^ 32) && decide (0x1000 ≤ fedUid ∧ fedUid < 0xFFFF)
  | .fedStart peer fedUid _ _ _ => decide (peer < 2 ^ 32) && decide (0x1000 ≤ fedUid ∧ fedUid < 0xFFFF)
  | .fedReady peer fedUid _ status => decide (peer < 2 ^ 32) && decide (0x1000 ≤ fedUid ∧ fedUid < 0xFFFF) && decide (status < 2 ^ 16)
  | .fedCommit peer fedUid _ _ => decide (peer < 2 ^ 32) && decide (0x1000 ≤ fedUid ∧ fedUid < 0xFFFF)
  | .fedAbort peer fedUid _ status => decide (peer < 2 ^ 32) && decide (0x1000 ≤ fedUid ∧ fedUid < 0xFFFF) && decide (status < 2 ^ 16)
  | .fedRetry fedUid => decide (0x1000 ≤ fedUid ∧ fedUid < 0xFFFF)
  | .collTimeout uid _ => decide (uid < 2 ^ 16)
  | .collEarlyResend x d => xferOk x && deliveryOk d
  | .mtTimeout uid _ => decide (uid < 2 ^ 16)
  | .ptpSync _ _ _ => true
  | .ptpAnnounceTimeout => true
  | .ppsInEdge _ => true
  | .porstN bi => bootOk bi
  | .trialWatchdog bi => bootOk bi
  | .perstN _ _ => true
  | .functionLevelReset _ => true
  | .wincRead _ off len => decide (off + len ≤ 2 ^ 40)
  | .wincWrite _ off bytes _ => decide (off + bytes.length ≤ 2 ^ 40)
  | .devUwinFunc v _ x => viaOk v && decide (x < 2 ^ 32)
  | .devWincBase v x => viaOk v && decide (x < 2 ^ 64)
  | .negotiate _ => true
  | .query _ => true
  | .release _ => true
  | .mboxResponse _ => true
  | .frmSlicePtr v x => viaOk v && decide (x < 2 ^ 64)
  | .frmUnitSlicePtr v x => viaOk v && decide (x < 2 ^ 64)
  | .registerWrite v off bytes => viaOk v && decide (off + bytes.length ≤ 0x4000000) && !bytes.isEmpty
  | .mctpPacket _ _ _ => true
  | .smbClkTimeout => true
  | .sensorRefresh r => sensorOk r
  | .pldmFirmwareUpdate _ _ => true
  | .pldmParamUpdate _ => true
  | .getVersion _ r => spdmOk r
  | .getCapabilities _ r => spdmOk r
  | .negotiateAlgorithms _ r => spdmOk r
  | .getDigests _ r => spdmOk r
  | .getCertificate _ r => spdmOk r
  | .challenge _ r => spdmOk r
  | .getMeasurements _ r => spdmOk r
  | .uartRxFrame _ _ _ => true
  | .uartRearm => true
  | .uartTxByte v _ => viaOk v
  | .uartDataRead v => viaOk v
  | .idcode _ dr => decide (dr < 2 ^ 32)
  | .samplePreload _ _ => true
  | .extest _ _ => true
  | .clamp _ _ => true
  | .highz _ _ => true
  | .extestPulse _ _ => true
  | .extestTrain _ _ => true
  | .dbgAccess _ dr => decide (dr < 2 ^ 96)
  | .bypass _ _ => true
  | .trstN => true
  | .schedTakeover _ _ bi => bootOk bi
  | .schedStandbyLost => true
  | .fwupGo v x => viaOk v && decide (x < 2 ^ 32)
  | .fwupConfirm v x => viaOk v && decide (x < 2 ^ 32)
  | .mgtReset v x bi => viaOk v && decide (x < 2 ^ 32) && bootOk bi
  | .paramSigned v x => viaOk v && decide (x < 2 ^ 32)
  | .paramGeneral v x => viaOk v && decide (x < 2 ^ 32)
  | .hmkExt v x => viaOk v && decide (x < 2 ^ 32)
  | .hmkDbgChalRead v => viaOk v
  | .hmkDbgRespGo v x => viaOk v && decide (x < 2 ^ 32)
  | .pwrReq v x => viaOk v && decide (x < 2 ^ 32)
  | .pwrCap v x => viaOk v && decide (x < 2 ^ 32)
  | .powerSample watts _ => decide (watts < 2 ^ 16)
  | .thermalEmergency _ _ => true
  | .thermalStep => true
  | .prochotN _ => true
  | .thermtripN _ _ => true
  | .voltageLower => true
  | .railOutOfRange => true
  | .facetFault _ _ _ => true
  | .beadFault _ _ => true
  | .strandFault _ _ _ => true
  | .hostCoreFault _ => true
  | .recompositionDone uid _ => decide (uid < 2 ^ 16)
  | .cdieLoss _ bi => bootOk bi
  | .hubLoss _ => true
  | .rasStReq v x => viaOk v && decide (x < 2 ^ 32)
  | .selfTestEnd _ _ _ => true
  | .preemptReq v _ x => viaOk v && decide (x < 2 ^ 64)
  | .preempted _ => true
  | .preemptResume v _ x => viaOk v && decide (x < 2 ^ 64)
  | .dbgMode v _ x => viaOk v && decide (x < 2 ^ 32)
  | .dbgTraceCtrl v _ x => viaOk v && decide (x < 2 ^ 32)
  | .errQHead v x => viaOk v && decide (x < 2 ^ 32)
  | .netAddrWrite v x => viaOk v && decide (x < 2 ^ 32)
  | .netAddrRead v x => viaOk v && decide (x < 2 ^ 32)
  | .hostCoreAccess _ addr a => coreAccOk addr a
  | .registerRead v off len => viaOk v && decide (off + len ≤ 0x4000000 ∧ 0 < len)
  | .configurationRequest f op => cfgOk f op
  | .smbusAlertResponse => true
  | .ptpAnnounce _ _ _ => true
  | .ptpDelayResp _ _ _ => true
  | .hbmRefreshNormal _ _ => true
  | .pcsBlockLock _ => true
  | .preWarmSlippedStart uid _ => decide (uid < 2 ^ 16)

end Sys2Proof
end

