-- ==== Sys2Proof/Tests/Slice0.lean ====
section
/-! SUPPORT. The author's own tests: ill-formed commands that `Instr.wf` refuses; single steps whose results are worked out from the
spec's tables and examples; and, for each statement with hypotheses, a state and operands that meet them (`witness_<statement>`). A
clause that needs a signature to verify has a witness for what else it asks, since the primitive has no body (Config). -/

namespace Sys2Proof.Tests

open Sys2Proof Sys2Proof.Machine

set_option autoImplicit false
set_option Elab.async false

/-! ## Well-formedness: one ill-formed term for each check -/

def badXfer : Xfer := { op := .rd, vc := 4, len := 0, src := 0, dst := 0, tag := 0, addr := 0 }
def wrXfer : Xfer := { op := .wr, vc := 0, len := 1, src := 0, dst := 0, tag := 0, addr := 0, data := List.replicate 64 0, poison := [false] }
def rdXfer : Xfer := { op := .rd, vc := 0, len := 0, src := 0, dst := 0, tag := 0, addr := 0 }

theorem test_wf_opcode : (Instr.nop 0 0x10#256).wf = false ∧ (Instr.nop 0 0#256).wf = true ∧ (Instr.nop 0 0xFF#256).wf = true ∧
    (Instr.mma 0 0x21#256).wf = false := by decide
theorem test_wf_view : (Instr.pwrCap (.pf 2) 0).wf = false ∧ (Instr.pwrCap (.func 66 0) 0).wf = false ∧ (Instr.pwrCap (.core 0 256) 0).wf = false ∧
    (Instr.pwrCap (.coreA 48) 0).wf = false ∧ (Instr.pwrCap .mgmt (2 ^ 32)).wf = false ∧ (Instr.pwrCap .mgmt 3200).wf = true := by decide
theorem test_wf_xfer : (Instr.rd badXfer .none).wf = false ∧ (Instr.wr rdXfer .none).wf = false ∧ (Instr.rd { rdXfer with len := 1 } .none).wf = false ∧
    (Instr.rd { rdXfer with cls := 1 } .none).wf = false ∧ (Instr.rd rdXfer .none).wf = true ∧ (Instr.wr wrXfer .none).wf = true ∧
    (Instr.addX { wrXfer with op := .add, poison := [] } .none 0).wf = false ∧ (Instr.rdData rdXfer).wf = false ∧ (Instr.wrAck rdXfer).wf = false ∧
    (Instr.frame rdXfer).wf = false := by decide
theorem test_wf_segment : (Instr.data 0 { vc := 4 }).wf = false ∧ (Instr.data 0 { type := 1 }).wf = false ∧ (Instr.data 0 {}).wf = true ∧
    (Instr.ack 0 { type := 1, psn := 2 ^ 32 }).wf = false ∧ (Instr.ethFrameRx 0 true true false 0 { src := 2 ^ 32 }).wf = false := by decide
theorem test_wf_session_message : (Instr.openSes (.peer (2 ^ 32)) { type := 1 } 0 0).wf = false ∧ (Instr.openSes (.peer 0) { type := 3 } 0 0).wf = false ∧
    (Instr.openSes (.sq 256 0 0) { type := 1 } 0 0).wf = false ∧ (Instr.openSes (.peer 0) { type := 1 } 2 0).wf = false ∧
    (Instr.request (.peer 0) { type := 3, reqSeq := 2 ^ 32 } 0).wf = false ∧ (Instr.abort (.peer 0) { type := 4 }).wf = false ∧
    (Instr.close (.peer 0) { type := 7, svc := 2 ^ 16 }).wf = false ∧ (Instr.openSes (.peer 0) { type := 1 } 1 0).wf = true := by decide
theorem test_wf_sessions : (Instr.sesQuotaReserve 4096).wf = false ∧ (Instr.sesIdle 2097152 0).wf = false ∧ (Instr.sesIdle 2097151 0).wf = true ∧
    (Instr.sesSqTail .mgmt (2 ^ 32)).wf = false ∧ (Instr.bpmAlloc .mgmt (2 ^ 64)).wf = false := by decide
theorem test_wf_clasp_agent : (Instr.claspSignal (.bead 160) 0 0).wf = false ∧ (Instr.claspWait (.notify none 4096) 0 0).wf = false ∧
    (Instr.claspArrive (.notify (some 256) 0) 0 0).wf = false ∧ (Instr.claspReset (.remote (2 ^ 32) 0) 0).wf = false ∧ (Instr.claspFail .sched (2 ^ 16)).wf = false ∧
    (Instr.claspFail .sched 65535).wf = true := by decide
theorem test_wf_clasp_word : (Instr.clpOpSignal .mgmt 0x10000).wf = false ∧ (Instr.clpOpWait .mgmt 0).wf = false ∧ (Instr.clpOpArrive .mgmt 0x20000).wf = true ∧
    (Instr.clpOpReset .mgmt 0x40000).wf = false ∧ (Instr.clpOpFail .mgmt 0x30000).wf = false ∧ (Instr.clpMsixArm .mgmt 32 0).wf = false := by decide
theorem test_wf_units : (Instr.sliceStart (2 ^ 16) 0).wf = false ∧ (Instr.commitPoint (2 ^ 16) 0).wf = false ∧ (Instr.sliceOverrun (2 ^ 16) 0 0).wf = false ∧
    (Instr.recompositionDone (2 ^ 16) 0).wf = false ∧ (Instr.preWarmSlippedStart (2 ^ 16) 0).wf = false ∧ (Instr.collTimeout (2 ^ 16) 0).wf = false ∧
    (Instr.mtTimeout (2 ^ 16) 0).wf = false ∧ (Instr.powerSample (2 ^ 16) 0).wf = false ∧ (Instr.sliceStart 65535 0).wf = true := by decide
theorem test_wf_deliveries : (Instr.deliver { rdXfer with op := .deliver } (.coll { sig := 0, group := 0, srcRank := 0, dstRank := 0, seq := 0, epoch := 0, nrows := 1, rowBytes := 8 } [] [])).wf = false ∧
    (Instr.deliver { rdXfer with op := .deliver } (.merge (2 ^ 16) 0 0 [])).wf = false ∧ (Instr.deliver { rdXfer with op := .deliver } (.session 2 { type := 1 } (.peer 0))).wf = false ∧
    (Instr.deliver rdXfer (.merge 0 0 0 [])).wf = false ∧ (Instr.deliver { rdXfer with op := .deliver } (.pool 0 0 0 (2 ^ 40))).wf = false ∧
    (Instr.bpm { rdXfer with op := .bpm } { free := false, kind := 2, owner := 0, pages := 1, handle := 0 }).wf = false ∧
    (Instr.bpm { rdXfer with op := .bpm } { free := false, kind := 0, owner := 0, pages := 0, handle := 0 }).wf = false ∧
    (Instr.collEarlyResend badXfer (.merge 0 0 0 [])).wf = false ∧ (Instr.scrubLine 16 0 .none).wf = false ∧
    (Instr.filGroupRx ⟨0, 0, 0⟩ 256 true [] 0 false).wf = false := by decide
theorem test_wf_peers : (Instr.hello 0 { type := 2 } { verMin := 2 ^ 32, verMax := 0, features := 0, paths := 0, addrs := [] }).wf = false ∧
    (Instr.fedJoin 0 0x1000 { rank := 2 ^ 16, members := 0, totalLeaves := 0, leaves := 0, tag := 0, verMin := 0, verMax := 0 }).wf = false ∧
    (Instr.fedFormed 0 0xFFF 0 0).wf = false ∧ (Instr.fedCommit 0 0xFFFF 0 0).wf = false ∧ (Instr.fedRetry 0x1000).wf = true ∧ (Instr.fedReady 0 0xFFFE 0 (2 ^ 16)).wf = false ∧
    (Instr.claspOp (2 ^ 32) 0x1000 0 0 0 0).wf = false ∧ (Instr.claspDone 0 0 (2 ^ 16) 0).wf = false ∧ (Instr.collFail 0 0 0 0 (2 ^ 16)).wf = false ∧
    (Instr.ackTimer 0 4).wf = false ∧ (Instr.netPathSuspect (2 ^ 32) 0).wf = false ∧ (Instr.peerIdleRemove (2 ^ 32) 0).wf = false := by decide
theorem test_wf_boot : (Instr.porstN { flash := some [(2 ^ 29, 0)], backup := [] }).wf = false ∧ (Instr.porstN { flash := none, backup := [(2 ^ 29, 0)] }).wf = false ∧
    (Instr.trialWatchdog { flash := none, backup := [], badPcs := [(16, 0)] }).wf = false ∧ (Instr.cdieLoss 0 { flash := none, backup := [], badBeads := [160] }).wf = false ∧
    (Instr.porstN { flash := some [(0, 1)], backup := [] }).wf = true := by decide
theorem test_wf_ports : (Instr.getVersion 0 { version := 256, slot := 0, offset := 0, len := 0, index := 0, nonce := 0, sign := false, supported := true }).wf = false ∧
    (Instr.sensorRefresh { temps := [], currents := [] }).wf = false ∧ (Instr.dbgAccess 0 (2 ^ 96)).wf = false ∧ (Instr.idcode 0 (2 ^ 32)).wf = false ∧
    (Instr.uartTxByte (.pf 2) 0).wf = false ∧ (Instr.mgtReset (.pf 2) 0 { flash := none, backup := [] }).wf = false := by decide
theorem test_wf_host : (Instr.wincRead 0 (2 ^ 40) 1).wf = false ∧ (Instr.wincWrite 0 (2 ^ 40) [0] false).wf = false ∧ (Instr.registerRead .mgmt 0 0).wf = false ∧
    (Instr.registerRead .mgmt 0x4000000 1).wf = false ∧ (Instr.registerWrite .mgmt 0 []).wf = false ∧ (Instr.registerWrite .mgmt 0x3FFFFFF [0, 0]).wf = false ∧
    (Instr.hostCoreAccess 0 (2 ^ 48) (.load 1)).wf = false ∧ (Instr.hostCoreAccess 0 0 (.load 65)).wf = false ∧ (Instr.hostCoreAccess 0 0 (.store [])).wf = false ∧
    (Instr.configurationRequest 0 (.vectorMask 2048 true)).wf = false ∧ (Instr.configurationRequest 1 (.vectorMask 256 true)).wf = false ∧
    (Instr.configurationRequest 0 (.vectorMask 2047 true)).wf = true ∧ (Instr.configurationRequest 0 (.resizeWinC 41)).wf = false := by decide

/-! ## States for the statements' hypotheses -/

/-- A device after its boot, with the empty setting. -/
def up : State := { dev := { ready := true }, hmk := { stage := 11 } }

/-- A native unit of bead 5 alone, with a start clasp, and its clasps, service and window. -/
def unit5 : UnitRec := { uid := 5, startClasp := 1, spLen := 0x5F0000, slotCount := 64, descLast := 255 }
def st5 : Setting :=
  { units := [unit5], clasps := [⟨0, 16, 5, false, true, true⟩], services := [⟨7, 5, 3, true, false, 1, 2, 1⟩]
    regions := [⟨5, .const, false, 0x1000, 0x2000, 0x1000⟩, ⟨5, .work, false, 0x10000, 0x20000, 0x10000⟩]
    pools := [⟨5, 0, 0, 0x100000, 0x10000⟩] }

/-- A device with a setting. -/
def with' (t : Setting) (s : State) : State := { s with set := { s.set with cur := t } }
def dev5 : State := with' st5 up

def hdr5 : Header := { addr := 0x20000, bound := 1000, outClasps := [2], complAddr := 0x20100, leaves := [⟨0x10000, 4, 0, 1⟩] }
def sl5 : Slice := { serial := 1, uid := 5, header := hdr5, beads := [5], phase := .running }

/-- Bead 5 runs its slice and has the word next in its ring. -/
def leaf (w : CmdWord) : Bead :=
  { pos := some 5, phase := .running, sp := ({} : Bytes).writeL 0 (leBytes 32 w.toNat), chain := 0x10000, chainLen := 4, fetched := 2 }
def on5 (x : Bead) (sl : Slice) (s : State) : State := { s with beads := [(5, x)], units := [(5, { slice := some sl })] }
def runs (w : CmdWord) : State := on5 (leaf w) sl5 dev5
def ctx5 : Ctx := { serial := 1, grank := 0, size := 1, b := 5, pos := 5, u := unit5, uid := 5, top := 5, rank := 0, tb := st5.regions, s1 := false }

def stS1 : Setting := { st5 with units := [{ unit5 with s1 := true, startClasp := 0xFFFF }] }
def runsS1 (w : CmdWord) : State := on5 (leaf w) sl5 (with' stS1 up)
def ctxS1 : Ctx := { ctx5 with u := { unit5 with s1 := true, startClasp := 0xFFFF }, s1 := true }
def runsDbg (w : CmdWord) : State := on5 { leaf w with debug := true } sl5 dev5

/-- The hypotheses of the statements about the commands of a bead, but for the opcode, as one check. -/
def meets (s : State) (b : Nat) (w : CmdWord) (c : Ctx) : Bool :=
  !s.halted && (s.ctx? b == some c && (s.bead b).ready w && s.mtWait.isEmpty) &&
    ((decodeBad c ((s.taken c w).bead c.b).debug ((((s.taken c w).unitSt c.uid).slice.map (fun sl => sl.header.outClasps)).getD []) w).isNone &&
      (checkBad (s.taken c w) c w).isNone) &&
    (!waitEn w || !(s.clasp (waitId w)).err && decide (waitTgt w ≤ (s.clasp (waitId w)).counter))

theorem decodes_of_meets (s : State) (b : Nat) (w : CmdWord) (c : Ctx) (h : meets s b w c = true) :
    s.halted = false ∧ Decodes s b w c ∧ Legal s w c ∧ s.waitMet w := by
  simp only [meets, Bool.and_eq_true, Bool.not_eq_true', beq_iff_eq, List.isEmpty_iff, Option.isNone_iff_eq_none, Bool.or_eq_true, decide_eq_true_eq] at h
  obtain ⟨⟨⟨h1, ⟨h2, h3⟩, h4⟩, h5, h6⟩, h7⟩ := h
  exact ⟨h1, ⟨h2, h3, h4⟩, ⟨h5, h6⟩, fun h => by simpa [h] using h7⟩

/-- The words of the work rows that the statements' witnesses use, with the state and context of each. -/
def workWords : List (CmdWord × State × Ctx) :=
  ([0x08, 0x10, 0x11, 0x12, 0x20, BitVec.ofNat 256 (0x21 + 2 ^ 44 + 2 ^ 48 + 2 ^ 60 + 2 ^ 64), 0x22, 0x28, 0x29, 0x2A, 0x130, 0x31].map
      (fun w => (w, runs w, ctx5))) ++
    [(0x48, runsS1 0x48, ctxS1), (0x49, runsS1 0x49, ctxS1), (0x4050, runsDbg 0x4050, ctx5), (0x4051, runsDbg 0x4051, ctx5)]

theorem witness_BeadWorkRowsExecute_decodes : workWords.all (fun p => meets p.2.1 5 p.1 p.2.2) = true := by decide +kernel
theorem witness_BeadWorkRowsExecute_opcodes : workWords.map (fun p => opcodeOf p.1) =
    [0x08, 0x10, 0x11, 0x12, 0x20, 0x21, 0x22, 0x28, 0x29, 0x2A, 0x30, 0x31, 0x48, 0x49, 0x50, 0x51] := by decide +kernel
theorem witness_BeadWorkRowsExecute_noPrescan : (mmaJob (((runs 0x20).taken ctx5 0x20).bead 5) 0x20).prescans = false ∧
    (loupeJob (((runs 0x22).taken ctx5 0x22).bead 5) 0x22).prescans = false := by decide +kernel

/-- Does the command issue without a fault? -/
def issues (c : Ctx) (w : CmdWord) (s : State) : Bool :=
  match effectOf c (s.bead c.b).next w { s := s.issued c w } with
  | .ok _ _ => true
  | .error _ _ => false
/-- Entry 0 describes one element at unit address 0, which no region holds. -/
def hole : State := on5 { leaf 0x10 with sp := ((leaf 0x10).sp.writeL (0x5F8000 + 8) [1, 1]).writeL (0x5F8000 + 0x10) [1] } sl5 dev5
theorem witness_BeadWorkRowsExecute_issues : (workWords.take 8).all (fun p => issues p.2.2 p.1 p.2.1) = true ∧ issues ctx5 0x130 (runs 0x130) = true ∧
    issues ctx5 0x31 (runs 0x31) = true := by decide +kernel
theorem witness_BeadWorkRowsExecute_faults : meets hole 5 0x10 ctx5 = true ∧ issues ctx5 0x10 hole = false := by decide +kernel

/-- The word comes next behind a window. -/
def late (w : CmdWord) (l : List InFlight) : State :=
  on5 { leaf 0 with sp := ({} : Bytes).writeL 32 (leBytes 32 w.toNat), next := 1, window := l } sl5 dev5
def waiting (w : CmdWord) : InFlight := { idx := 0, word := w, pend := .hazard }
def mustWaitFor (s : State) (w : CmdWord) (c : Ctx) : Bool := (s.issued c w).mustWait c (s.bead c.b).next w
theorem witness_BeadWorkRowsExecute_hazard : workWords.all (fun p => !mustWaitFor p.2.1 p.1 p.2.2) = true ∧ meets (late 0x20 [waiting 0x20]) 5 0x20 ctx5 = true ∧
    mustWaitFor (late 0x20 [waiting 0x20]) 0x20 ctx5 = true ∧ mustWaitFor (late 0x31 [waiting 0x20]) 0x20 ctx5 = true := by decide +kernel

/-! Push, pull and fused rows: with room, and without room for the merge tree. -/

def pushW : CmdWord := BitVec.ofNat 256 (0x38 + 2 ^ 56)
/-- The merge tree of die 0 is full. -/
def full (s : State) : State := { s with merges := [{ slice := 9, mseq := 9, fixed := [(0, ⟨0, 0, 0, 16⟩)] }] }
theorem witness_PushPullAndFusedRowsExecute : [pushW, 0x39, 0x23, 0x2B].all (fun w => meets (runs w) 5 w ctx5 && meets (full (runs w)) 5 w ctx5) = true ∧
    (mmaJob (((runs 0x23).taken ctx5 0x23).bead 5) 0x23).prescans = false := by decide +kernel
def reduceW : CmdWord := BitVec.ofNat 256 (0x2B + 2 * 2 ^ 168)
theorem witness_PushPullAndFusedRowsExecute_room : ((runs pushW).decoded ctx5 pushW).mtRoom ctx5 pushW = true ∧
    ((full (runs pushW)).decoded ctx5 pushW).mtRoom ctx5 pushW = false ∧ ((runs 0x2B).decoded ctx5 0x2B).collRoom ctx5 0x2B = true ∧
    meets (full (runs reduceW)) 5 reduceW ctx5 = true ∧ ((full (runs reduceW)).decoded ctx5 reduceW).collRoom ctx5 reduceW = false ∧
    issues ctx5 pushW (runs pushW) = true ∧ issues ctx5 0x39 (runs 0x39) = true := by decide +kernel
theorem witness_PushPullAndFusedRowsExecute_hazard : [pushW, 0x39, 0x23, 0x2B].all (fun w => !mustWaitFor (runs w) w ctx5 &&
    meets (late w [waiting w]) 5 w ctx5 && mustWaitFor (late w [waiting w]) w ctx5) = true ∧
    ((late pushW [waiting pushW]).decoded ctx5 pushW).mtRoom ctx5 pushW = true ∧ ((late 0x2B [waiting 0x2B]).decoded ctx5 0x2B).collRoom ctx5 0x2B = true := by decide +kernel
theorem witness_TdsetCopiesDescriptor : mustWaitFor (runs 8) 8 ctx5 = false ∧ meets (runs 8) 5 8 ctx5 = true ∧ (hullCheck ctx5 (planOf (((runs 8).issued ctx5 8).bead 5) 8).hulls).isNone = true := by
  decide +kernel

/-! Instant rows, clasp words, waits. -/

def inWin (w : CmdWord) (i : Nat := 0) : InFlight := { idx := i, word := w }
/-- Changes bead 5. -/
def upd5 (s : State) (f : Bead → Bead) : State := { s with beads := [(5, f (s.bead 5))] }
/-- A clasp word that waits on clasp 3 for 1, and one that signals clasp 2 by 1. -/
def waitW : CmdWord := BitVec.ofNat 256 (3 * 2 ^ 192 + 2 ^ 224 + 2 ^ 248)
def sigW : CmdWord := BitVec.ofNat 256 (2 * 2 ^ 208 + 2 ^ 240 + 2 ^ 249)
/-- CLASP words: WAIT on clasp 3 for 1; SIGNAL of clasp 2, which is outgoing, and of clasp 3, which is not. -/
def cWait : CmdWord := BitVec.ofNat 256 (0x140 + 3 * 2 ^ 16 + 2 ^ 32)
def cSig2 : CmdWord := BitVec.ofNat 256 (0x40 + 2 * 2 ^ 16 + 2 ^ 32)
def cSig3 : CmdWord := BitVec.ofNat 256 (0x40 + 3 * 2 ^ 16 + 2 ^ 32)
def clasp3 (n : Nat) (e : Bool) (s : State) : State := { s with clasps := [(3, { counter := n, err := e })] }

theorem witness_InstantRowsComplete : [0x00, 0x01, 0x02].all (fun w => meets (runs w) 5 w ctx5 && !sigEn w) = true ∧ ((runs 1).unitSt 5).slice = some sl5 ∧
    meets (upd5 (runs 2) (fun x => { x with window := [inWin 8] })) 5 2 ctx5 = true ∧ ((runs 1).bead 5).window = [] ∧ ctx5.s1 = false ∧
    (runs 1).set.cur.fedOf 5 = none := by decide +kernel
theorem witness_InstantRowsComplete_twoLeaves : (on5 (leaf 1) { sl5 with beads := [5, 6] } dev5).ctx? 5 = some { ctx5 with size := 2 } ∧ 1 < [5, 6].length := by
  decide +kernel
theorem witness_ClaspRowActs : [cWait, cSig2, cSig3].all (fun w => meets (runs w) 5 w ctx5 && !sigEn w) = true ∧ meets (clasp3 1 false (runs cWait)) 5 cWait ctx5 = true ∧
    fld cWait 9 8 = 1 ∧ fld cSig2 9 8 = 0 ∧ fld cWait 31 16 = 3 ∧ fld cWait 63 32 = 1 ∧ ((runs cWait).clasp 3).counter < 1 ∧
    1 ≤ ((clasp3 1 false (runs cWait)).clasp 3).counter ∧ (fld cSig2 31 16) ∈ sl5.header.outClasps ∧ (fld cSig3 31 16) ∉ sl5.header.outClasps ∧
    (runs cSig3).stalledOps = [] := by decide +kernel
theorem witness_ClaspRowActs_due : meets (late cSig2 [waiting 0x39]) 5 cSig2 ctx5 = true ∧ sigEn cSig2 = false ∧ ((late cSig2 [waiting 0x39]).unitSt 5).slice = some sl5 ∧
    (late cSig2 [waiting 0x39]).writesDue ctx5 (waiting 0x39) = true ∧ ((runs cSig2).bead 5).window = [] := by decide +kernel
/-- The leaf may use descriptor 0 only; its TDSET names 1. -/
def noDesc : State := with' { st5 with units := [{ unit5 with descLast := 0 }] } (runs 0x108)
theorem witness_BadCommandsFailTheSlice : opcodeOf 0x03 ∉ opcodes ∧ (leaf 0x03).ready 0x03 = true ∧ (runs 0x03).ctx? 5 = some ctx5 ∧ (runs 0x03).mtWait = [] ∧
    decodeBad ctx5 false [2] 0x03 ≠ none ∧ noDesc.ctx? 5 = some { ctx5 with u := { unit5 with descLast := 0 } } ∧
    opcodeOf 0x108 = 8 ∧ (noDesc.bead 5).ready 0x108 = true ∧ (checkBad (noDesc.taken { ctx5 with u := { unit5 with descLast := 0 } } 0x108) { ctx5 with u := { unit5 with descLast := 0 } } 0x108).isSome = true ∧
    (leaf waitW).ready waitW = true ∧ waitEn waitW = true ∧ ((clasp3 0 true (runs waitW)).clasp (waitId waitW)).err = true ∧ 5 ∈ sl5.beads := by decide +kernel

def held (st : HoldStage) (w : CmdWord) (s : State) : State := upd5 s (fun x => { x with next := 1, held := some { idx := 0, word := w, stage := st, since := 0 } })
theorem witness_WaitsHoldAndWake_waits : (runs waitW).ctx? 5 = some ctx5 ∧ (leaf waitW).ready waitW = true ∧ opcodeOf waitW = 0 ∧
    (decodeBad ctx5 false [2] waitW).isNone = true ∧ (checkBad ((runs waitW).taken ctx5 waitW) ctx5 waitW).isNone = true ∧
    ((runs waitW).clasp (waitId waitW)).err = false ∧ ((runs waitW).clasp (waitId waitW)).counter < waitTgt waitW := by decide +kernel
theorem witness_WaitsHoldAndWake_wakes : let s := held .wait waitW (runs waitW)
    s.halted = false ∧ s.mtWait = [] ∧ s.ctx? 5 = some ctx5 ∧ (s.unitSt 5).slice = some sl5 ∧ (s.bead 5).wake = none ∧ (s.bead 5).phase = .running ∧
    (s.bead 5).held = some ⟨0, waitW, .wait, 0⟩ ∧ sigEn waitW = false ∧ ((upd5 s (fun x => { x with wake := some true })).bead 5).wake = some true ∧
    s.frm.count < 0 + s.set.cur.frame.collTimeout ∧ 0 + s.set.cur.frame.collTimeout ≤ ({ s with frm := { count := 2 } } : State).frm.count := by decide +kernel
theorem witness_WaitsHoldAndWake_prescan : let s := held .prescan 0x20 (runs 0x20)
    s.ctx? 5 = some ctx5 ∧ (s.bead 5).held = some ⟨0, 0x20, .prescan, 0⟩ ∧ opcodeOf 0x20 = 0x20 ∧
    ((s.traceCmd 5 0 0x20 1 0).updBead 5 (fun x => { x with held := none })).mustWait ctx5 0 0x20 = false ∧
    (match effectOf ctx5 0 0x20 { s := (s.traceCmd 5 0 0x20 1 0).updBead 5 (fun x => { x with held := none }) } with
      | .ok _ _ => true
      | .error _ _ => false) = true := by decide +kernel

/-! Chains. -/

def done (f : InFlight) (s : State) : State := upd5 s (fun x => { x with next := 1, window := [f] })
theorem witness_CommandCompleteRowActs : [0x10, sigW, 0x39].all (fun w => (done (inWin w) (runs 0)).ctx? 5 == some ctx5 &&
      ((done (inWin w) (runs 0)).bead 5).window.find? (fun g => g.idx == 0) == some (inWin w) && opcodeOf w != 1) = true ∧
    (done (inWin 0x10) (runs 0)).pendDone ctx5 (inWin 0x10) = true ∧ ((done (inWin 0x10) (runs 0)).bead 5).held = none ∧ sigEn 0x10 = false ∧ sigEn sigW = true ∧
    sigId sigW ∈ sl5.header.outClasps ∧ (inWin sigW).status = 0 ∧ (runs 0).stalledOps = [] ∧
    ({ (runs 0) with merges := [{ slice := 1, mseq := 0, pulls := [⟨0, 5, 0, 0x39, {}, false⟩] }] } : State).pendDone ctx5 { inWin 0x39 with pend := .pull 0 } = false := by
  decide +kernel
def pullDue : InFlight := { inWin 0x39 with pend := .pull 0 }
/-- A pull whose records are due, and behind it a command that signals. -/
def pulling : State := upd5 { (runs 0) with merges := [{ slice := 1, mseq := 0, pulls := [⟨0, 5, 0, 0x39, {}, false⟩] }] }
  (fun x => { x with next := 2, window := [pullDue, inWin sigW 1] })
theorem witness_CommandCompleteRowActs_due : pulling.ctx? 5 = some ctx5 ∧ (pulling.unitSt 5).slice = some sl5 ∧ (pulling.bead 5).held = none ∧
    (pulling.bead 5).window.find? (fun g => g.idx == 1) = some (inWin sigW 1) ∧ (pulling.bead 5).window.filter (fun g => g.idx != 1) = [pullDue] ∧
    pulling.pendDone ctx5 (inWin sigW 1) = true ∧ pulling.writesDue ctx5 pullDue = true ∧ opcodeOf sigW ≠ 1 ∧ opcodeOf sigW ≠ 0x40 := by decide +kernel
theorem witness_CommandCompleteRowActs_fence : let s := upd5 (done (inWin 0x10) (runs 0)) (fun x => { x with held := some ⟨1, 2, .fence, 0⟩ })
    (s.bead 5).held = some ⟨1, 2, .fence, 0⟩ ∧ opcodeOf 2 = 2 ∧ sigEn 2 = false ∧ (s.bead 5).window.filter (fun g => g.idx != 0) = [] ∧ s.ctx? 5 = some ctx5 := by decide +kernel
theorem witness_CommandCompleteRowActs_signals : sigId (BitVec.ofNat 256 (3 * 2 ^ 208 + 2 ^ 240 + 2 ^ 249)) ∉ sl5.header.outClasps := by decide +kernel

theorem witness_ChainFetchFillsRing : let s := runs 0
    s.halted = false ∧ s.mtWait = [] ∧ s.ctx? 5 = some ctx5 ∧ (s.unitSt 5).slice = some sl5 ∧ 5 ∈ sl5.beads ∧ (s.bead 5).phase = .running ∧ (s.bead 5).fetched < (s.bead 5).chainLen ∧
    (s.bead 5).fetched + 2 ≤ 0 + (s.bead 5).ringPages * 128 ∧ s.uaPa ctx5 ((s.bead 5).chain + 32 * 2) false St.rAccess = .ok 0x20040 ∧
    s.uaPa ctx5 0 false St.rAccess = .error ⟨St.regionFault, St.rAccess, 0⟩ := by
  refine ⟨by decide +kernel, by decide +kernel, by decide +kernel, by decide +kernel, by decide +kernel, by decide +kernel, by decide +kernel, by decide +kernel, by rfl, by rfl⟩
theorem witness_ChainFetchFillsRing_full : let s := upd5 (runs 0) (fun x => { x with fetched := 4 })
    (s.bead 5).chainLen ≤ (s.bead 5).fetched ∧ s.ctx? 5 = some ctx5 := by decide +kernel

theorem witness_OverrunRowsAct : let s := upd5 (runs 0) (fun x => { x with next := 4, fetched := 4 })
    s.halted = false ∧ s.mtWait = [] ∧ s.ctx? 5 = some ctx5 ∧ (s.unitSt 5).slice = some sl5 ∧ (s.bead 5).phase = .running ∧ (s.bead 5).held = none ∧
    (s.bead 5).next = (s.bead 5).chainLen ∧ ((runs 0).bead 5).next ≠ ((runs 0).bead 5).chainLen ∧ s.set.cur.s1 5 = false ∧ sl5.overrun = false ∧
    sl5.header.bound < 1001 ∧ ¬ sl5.header.bound < 1000 ∧ s.set.cur.top 5 ≠ 0xFFFF := by decide +kernel

def pre (p : LeafPhase) : State := upd5 (runsS1 0) (fun x => { x with phase := p, preemptArea := 16 })
theorem witness_PreemptionRowsAct : (pre .running).halted = false ∧ ((pre .running).bead 5).pos = some 5 ∧ (pre .running).reachesA .mgmt (0x1000008 + 5 * 0x10000) ∧
    (pre .running).set.cur.s1 ((pre .running).set.cur.top 5) = true ∧ dev5.set.cur.s1 (dev5.set.cur.top 5) = false ∧ ((pre .running).bead 5).phase = .running ∧
    ((pre .preempted).bead 5).phase = .preempted ∧ (pre .preempted).ctx? 5 = some ctxS1 ∧ (pre .preempting).ctx? 5 = some ctxS1 ∧
    inPart ctxS1.u (bits 0x1000 22 8 * 256) (64 * 20480) = true ∧ ((pre .preempting).bead 5).window = [] ∧
    ((upd5 (pre .preempting) (fun x => { x with window := [inWin 0] })).bead 5).window ≠ [] ∧ inPart ctxS1.u (16 * 256) (64 * 20480) = true ∧ 16 * 256 < 2 ^ 23 := by
  refine ⟨by decide +kernel, by decide +kernel, ⟨by decide +kernel, by decide +kernel, by decide +kernel⟩, ?_⟩
  decide +kernel

def coll0 : Coll := { slice := 1, seq := 0, parts := [⟨0, 5, 0, 0x2B, 7, {}, [], [], 0, 0, false⟩] }
/-- Slice 1 waits on a collective and a merge since frame 0, in frame `k`. -/
def waits (k : Nat) : State := { runs 0 with colls := [coll0], merges := [{ slice := 1, mseq := 3 }], frm := { count := k } }
theorem witness_CollectiveAndMergeTimeouts : (waits 2).halted = false ∧ (waits 2).mtWait = [] ∧ ((waits 2).unitSt 5).slice = some sl5 ∧ (waits 2).collIx sl5.serial 0 = some 0 ∧
    ((waits 2).coll 0).since + (waits 2).set.cur.frame.collTimeout ≤ (waits 2).frm.count ∧ (waits 1).frm.count < ((waits 1).coll 0).since + (waits 1).set.cur.frame.collTimeout ∧
    (waits 2).unitOfGroup 5 = some 5 ∧ (waits 2).epochOf 5 sl5 = 0 ∧ ((waits 2).collIx sl5.serial 0).isSome = true ∧ (waits 2).collIx sl5.serial 9 = none ∧
    (waits 2).epochOf 5 sl5 ≠ 1 := by decide +kernel
theorem witness_CollectiveAndMergeTimeouts_merge : (∃ m, m ∈ (waits 2).merges ∧ m.slice = sl5.serial ∧ m.mseq = 3 ∧ m.since + (waits 2).set.cur.frame.collTimeout ≤ (waits 2).frm.count) ∧
    ∀ m, m ∈ (waits 1).merges → m.slice = sl5.serial → m.mseq = 3 → (waits 1).frm.count < m.since + (waits 1).set.cur.frame.collTimeout := by
  refine ⟨⟨{ slice := 1, mseq := 3 }, ?_⟩, ?_⟩ <;> decide +kernel

/-! Faults and frames. -/

def spared : Setting := { st5 with spares := [⟨5, false, [6]⟩] }
def idleBead : State := { up with beads := [(7, {})] }
theorem witness_IdleBeadFaultLeavesService : idleBead.halted = false ∧ idleBead.mtWait = [] ∧ (idleBead.bead 7).inService = true ∧ (idleBead.bead 7).pos = none ∧
    mfind idleBead.ras.running 7 = none := by decide +kernel
theorem witness_FaultOfLeafInterruptsSlice_spare : let s := with' spared (runs 0)
    s.halted = false ∧ s.mtWait = [] ∧ (s.bead 5).pos = some 5 ∧ mfind s.ras.running 5 = none ∧ s.sliceOf 5 = some (5, sl5) ∧ (s.unitSt 5).slice = some sl5 ∧
    sl5.phase ≠ .committing ∧ sl5.phase ≠ .waiting ∧ s.set.cur.s1 (s.set.cur.top 5) = false ∧ (s.unitSt 5).failed = [] ∧ [5].length ≤ (s.spares 5).length ∧
    (s.unitSt 5).down = false ∧ ((done (inWin 0x10) s).bead 5).window ≠ [] ∧ (s.bead 5).window = [] := by decide +kernel
theorem witness_FaultOfLeafInterruptsSlice_noSpare : let s := runs 0
    (s.spares 5).length < [5].length ∧ s.testedOf 5 = [] ∧ (runsS1 0).sliceOf 5 = some (5, sl5) ∧ (runsS1 0).set.cur.s1 ((runsS1 0).set.cur.top 5) = true ∧
    s.sliceOf 5 = some (5, sl5) := by decide +kernel
theorem witness_FaultOfLeafInterruptsSlice_committing : let sl := { sl5 with phase := .committing }
    (on5 (leaf 0) sl dev5).sliceOf 5 = some (5, sl) ∧ ((on5 (leaf 0) sl dev5).bead 5).pos = some 5 ∧ sl.phase = .committing := by decide +kernel
/-- A self-test runs on bead 5. -/
def tested (s : State) : State := { s with ras := { s.ras with running := [(5, { kind := 0, force := true, home := some 5 })] } }
theorem witness_FaultOfLeafInterruptsSlice_tested : mfind (tested (runs 0)).ras.running 5 = some { kind := 0, force := true, home := some 5 } ∧
    ((tested (runs 0)).bead 5).pos = some 5 := by decide +kernel
theorem witness_StrandCoreAndTestRowsAct : (runs 0).halted = false ∧ (runs 0).mtWait = [] ∧ (runs 0).sliceOf 5 = some (5, sl5) ∧ 0 * 20 + 1 * 5 ≤ 5 ∧ 5 < 0 * 20 + 1 * 5 + 5 ∧
    ((runs 0).bead 5).pos ≠ none ∧ mfind (runs 0).ras.running 5 = none ∧ mfind (tested up).ras.running 5 = some { kind := 0, force := true, home := some 5 } ∧
    mfind ({ (runs 0).ras with running := [(5, { kind := 0, force := true })] } : RasState).running 5 = some { kind := 0, force := true } := by decide +kernel
/-- The leaf of position 5 has failed. -/
def lost5 (t : Setting) : State := { with' t up with beads := [(5, { pos := some 5, inService := false })], units := [(5, { failed := [5] })] }
theorem witness_RecompositionPlacesSpare : (lost5 spared).halted = false ∧ (lost5 spared).set.cur.s1 5 = false ∧ ((lost5 spared).unitSt 5).down = false ∧
    ((lost5 spared).unitSt 5).failed = [5] ∧ (lost5 spared).spares 5 = [6] ∧ (lost5 st5).spares 5 = [] ∧ (lost5 spared).beadAt 5 = some 5 ∧ (dev5.unitSt 5).failed = [] ∧
    mfind (lost5 st5).units 5 ≠ none ∧ (lost5 st5).set.cur.top 5 = 5 ∧ ((lost5 st5).unitSt 5).downBatch = none := by decide +kernel

def source (n : Nat) (s : State) : State := with' { s.set.cur with frame := { source := n, fsyncOutEn := true } } s
theorem witness_FrameTickOpensFrame : (runs 0).halted = false ∧ (runs 0).set.loaded = none ∧ (runs 0).set.cur.frame.source = 0 ∧ (source 2 dev5).set.cur.frame.source = 2 ∧
    (source 2 dev5).set.cur.frame.fsyncOutEn = true ∧ 5 ∈ (runs 0).set.cur.runners ∧ ((runs 0).unitSt 5).slice = some sl5 ∧ (runs 0).set.cur.s1 5 = false ∧
    (runs 0).set.cur.fedOf 5 = none ∧ (runs 0).set.cur.svcOf 5 ≠ none := by decide +kernel
/-- The edge at 125 µs belongs to the newest tick, one 10 ns later to the next. -/
theorem witness_FsyncEdgesAndHoldover : (source 2 dev5).halted = false ∧ dev5.set.cur.frame.source ≠ 2 ∧ (source 2 dev5).set.cur.frame.source = 2 ∧
    roundUp 125000000 10000 - (source 2 dev5).frm.tickAt ≤ (source 2 dev5).frm.tickAt + (source 2 dev5).frm.len * 10000 - roundUp 125000000 10000 ∧
    ¬ roundUp 125010000 10000 - (source 2 dev5).frm.tickAt ≤ (source 2 dev5).frm.tickAt + (source 2 dev5).frm.len * 10000 - roundUp 125010000 10000 ∧
    ({ source 2 dev5 with frm := { edgeOfTick := true } } : State).frm.edgeOfTick = true ∧ ({ source 2 dev5 with frm := { sinceEdge := 4 } } : State).sourceLost = true ∧
    ({ source 2 dev5 with frm := { sinceEdge := 3 } } : State).sourceLost = false ∧ (source 2 dev5).frm.holdover = false := by decide +kernel
def admitted (bound : Nat) : Slice := { sl5 with phase := .admitted, header := { hdr5 with bound := bound } }
def starts (bound : Nat) : State := on5 { leaf 0 with phase := .starting } (admitted bound)
    { dev5 with clasps := [(1, { waits := [⟨.bead 5, 1⟩] })] }
/-- The frame closes at 250 µs; the guard band is its last 12.5 µs. -/
theorem witness_SliceStartRowActs : (starts 1000).halted = false ∧ (starts 1000).stalledOps = [] ∧ (starts 1000).mtWait = [] ∧ (starts 1000).set.cur.fedOf 5 = none ∧
    ((starts 1000).unitSt 5).slice = some (admitted 1000) ∧ (admitted 1000).phase = .admitted ∧ sl5.phase ≠ .admitted ∧ (starts 1000).set.cur.s1 5 = false ∧
    250000000 ≤ 249999999 + (starts 1000).set.cur.frame.guardPct * (starts 1000).set.cur.frame.tf / 100 ∧ 250000000 < 249999999 + (starts 1000).boundPs 1000 ∧
    ¬ 250000000 ≤ 237499999 + (starts 1000).set.cur.frame.guardPct * (starts 1000).set.cur.frame.tf / 100 ∧ (admitted 0).header.bound = 0 ∧
    ((starts 1000).clasp 1).waits = [⟨.bead 5, 1⟩] ∧ 1 ≤ ((starts 1000).clasp 1).counter + 1 := by decide +kernel
def req0 : Request := ⟨0, 0, 0, false, 0, 0, 0, 0, 0, 0⟩
def lane0 : Lane := ⟨0, 0, req0, 0, 0, [], false, false⟩
def committing : Slice := { sl5 with phase := .committing, batch := some ⟨7, 0, [lane0], 128, 0, false, false⟩, heldSignals := [⟨0, 0, 2, 5⟩] }
theorem witness_CommitPointSettlesSlice : (on5 (leaf 0) committing dev5).halted = false ∧ (on5 (leaf 0) committing dev5).stalledOps = [] ∧
    ((on5 (leaf 0) committing dev5).unitSt 5).slice = some committing ∧ committing.phase = .committing ∧ sl5.phase ≠ .committing ∧
    committing.batch = some ⟨7, 0, [lane0], 128, 0, false, false⟩ ∧ lane0 ∈ [lane0] ∧ committing.heldSignals.all (fun h => h.clasp != 2) = false ∧
    committing.heldSignals.all (fun h => h.clasp != 3) = true := by decide +kernel

/-! Sessions. -/

def opens : SesMsg := { type := 1, svc := 7 }
def ses0 (e : Session) : State := { dev5 with sessions := [(0, e)], quota := [(7, 1)] }
def open0 : Session := { state := .opened, used := true, svc := 7 }
theorem witness_SessionOpensRequestsAndCloses_open : dev5.halted = false ∧ sesBad opens 1 = false ∧ dev5.svcFor (.peer 9) opens = some ⟨7, 5, 3, true, false, 1, 2, 1⟩ ∧
    dev5.set.cur.svcHere ⟨7, 5, 3, true, false, 1, 2, 1⟩ = true ∧ mget dev5.quota 7 0 < 2 ∧ (dev5.firstSes 0).orElse (fun _ => dev5.firstSes 1) = some 0 ∧
    mget ({ dev5 with sesReserved := [(7, 1)] } : State).sesReserved 7 0 ≠ 0 ∧ dev5.set.cur.svc? 7 = some ⟨7, 5, 3, true, false, 1, 2, 1⟩ := by decide +kernel
theorem witness_SessionOpensRequestsAndCloses_requests : sesBad { type := 3 } 3 = false ∧ (ses0 open0).genOk 0 = true ∧ ((ses0 open0).ses (sesIx 0)).state = .opened ∧
    0 = ((ses0 open0).ses 0).nextSeq ∧ sesBad { type := 5 } 5 = false ∧ sesBad { type := 7 } 7 = false ∧ (ses0 open0).laneOf 0 = none ∧
    ((ses0 { open0 with nextSeq := 1, queue := [req0] }).ses 0).queue.find? (fun x => x.reqSeq == 0) = some req0 ∧ 0 < ((ses0 { open0 with nextSeq := 1, queue := [req0] }).ses 0).nextSeq ∧
    (on5 (leaf 0) { committing with phase := .admitted } (ses0 { open0 with nextSeq := 1 })).laneOf 0 = some (false, lane0) ∧ lane0.req.reqSeq = 0 ∧ lane0.aborted = false ∧
    (on5 (leaf 0) committing (ses0 open0)).laneOf 0 = some (true, lane0) ∧ sesBad { type := 5 } 5 = false := by decide +kernel
/-- IDLE of service 7 is 1 ms: 10⁹ ps. -/
theorem witness_SessionOpensRequestsAndCloses_idle : let s := ses0 open0
    s.set.cur.svc? (s.ses 0).svc = some ⟨7, 5, 3, true, false, 1, 2, 1⟩ ∧ (s.ses 0).queue = [] ∧ (s.ses 0).inBatch = false ∧ (s.ses 0).lastAt + 1 * 10 ^ 9 ≤ 1000000000 ∧
    ¬ (s.ses 0).lastAt + 1 * 10 ^ 9 ≤ 999999999 := by decide +kernel
theorem witness_SessionMessagesRefused : sesBad { type := 1, rsv := 1 } 1 = true ∧ sesBad { type := 3, rsv := 1 } 3 = true ∧ sesBad { type := 5, rsv := 1 } 5 = true ∧
    sesBad { type := 7, rsv := 1 } 7 = true ∧ dev5.svcFor (.peer 9) { opens with svc := 8 } = none ∧ 2 ≤ mget ({ dev5 with quota := [(7, 2)] } : State).quota 7 0 ∧
    mget dev5.sesReserved 7 0 = 0 ∧ (ses0 open0).genOk (2 ^ 21) = false ∧ ((ses0 {}).ses 0).state ≠ .opened ∧ (ses0 {}).genOk 0 = true ∧ ((ses0 {}).ses 0).state = .free ∧
    1 ≠ ((ses0 open0).ses 0).nextSeq ∧ ((ses0 open0).ses 0).nextSeq ≤ 0 ∧ ((ses0 open0).ses 0).state ≠ .free := by decide +kernel

/-! The queue, power, memory. -/

theorem witness_StepRunsFront : ({ up with pending := [.thermalStep] } : State).pending = .thermalStep :: [] ∧ up.pending = [] := by decide +kernel
theorem witness_StepKeepsMemoriesCanonical : (runs 8).canonical = true ∧ ∃ t, step { runs 8 with pending := [.tdset 5 8] } = .next t := ⟨by decide +kernel, _, rfl⟩
theorem witness_CommandsOnlyAddToOutputs : ∃ t, exec (.prochotN true) up = .next t := ⟨_, rfl⟩
theorem witness_StoppedDeviceKeepsState : State.reset.clocksOff = true ∧ (Instr.thermalStep).needs ≠ .nothing ∧ (Instr.pwrCap .mgmt 3200).needs ≠ .nothing ∧
    ({ up with dev := { fatal := true } } : State).halted = true ∧ (Instr.thermalStep).needs = .running ∧ ({ up with dev := { fatal := true } } : State).clocksOff = false := by
  decide +kernel
/-- The cap is 3,200 W; 3,700 W is past the package's limit at 100 µs. -/
theorem witness_PowerSampleMovesCapThrottle : up.halted = false ∧ (let q : PwrState := { up.pwr with samples := [3199] }
      ¬ (q.cap < q.p10ms ∨ 3700 ≤ q.p100)) ∧ (let q : PwrState := { up.pwr with samples := [3700] }
      q.cap < q.p10ms ∨ 3700 ≤ q.p100) ∧ up.pwr.capClk = none ∧ ({ up.pwr with capClk := some 1800, sinceCapStep := 8 } : PwrState).sinceCapStep < 9 ∧
    9 ≤ ({ up.pwr with capClk := some 1800, sinceCapStep := 9 } : PwrState).sinceCapStep := by decide +kernel
theorem witness_ThermalAndRefreshRowsAct : up.halted = false := by decide +kernel
theorem witness_PcRetireSetsStatusBit : up.halted = false ∧ bit (mget ({ up.mem with retired := [(0, 2)] } : MemState).retired 0 0) 1 = true ∧
    bit (mget up.mem.retired 0 0) 1 = false := by decide +kernel
theorem witness_ScrubLineCountsAndPoisons : up.halted = false ∧ stackBytes ≤ stackBytes / 64 * 64 ∧ (stackBytes / 64 - 1) * 64 < stackBytes ∧
    up.mem.poisoned (1 * stackWindow + 0 * 64) 1 = false ∧ ({ up.mem with poison := [1 * stackWindow / 64] } : MemState).poisoned (1 * stackWindow + 0 * 64) 1 = true := by
  decide +kernel
theorem witness_SramScrubPoisonsBadGranules : up.halted = false ∧ (0, 0x5FFFFF) ∈ [(0, 0x5FFFFF), (20, 0)] ∧ 0x5FFFFF < 0x600000 ∧ (20, 0) ∈ [(0, 0x5FFFFF), (20, 0)] ∧
    0 < ({ pools := [⟨5, 2, 0, vaultBase, 4096⟩] } : Setting).vaultLen 0 := by decide +kernel
/-- Pages 0x100 to 0x103 of pool 0: in use, in quarantine, marked, waiting for slice 1. -/
def pages4 : SMap Page := [(0x100, { state := .alloc, head := true, owner := 5, gen := 1 }), (0x101, { state := .quarantine, owner := 5 }), (0x102, { state := .quarantine, mark := true }),
  (0x103, { state := .quarantine, waitsFor := [1] })]
def paged : State := { runs 0 with bpm := { pages := pages4, lists := [(0x100 + 2 ^ 32, [0x100])] } }
theorem witness_QuarantineEndFreesSettledPages : paged.halted = false ∧ paged.set.cur.pools[1]? = none ∧ paged.set.cur.pools[0]? = some ⟨5, 0, 0, 0x100000, 0x10000⟩ ∧
    (paged.page 0x100).state ≠ .quarantine ∧ (paged.page 0x103).waitsFor.any paged.sliceRuns = true ∧
    [0x101, 0x102].all (fun f => (paged.usedIn ⟨5, 0, 0, 0x100000, 0x10000⟩).any (fun x => x.1 == f) && (paged.page f).state == .quarantine && !(paged.page f).waitsFor.any paged.sliceRuns) = true ∧
    (paged.page 0x102).mark = true ∧ (paged.page 0x101).mark = false ∧ (paged.page 0x101).holed = false ∧
    (paged.usedIn ⟨5, 0, 0, 0x100000, 0x10000⟩).all (fun x => x.1 != 7) = true := by decide +kernel

/-! Clasps. -/

theorem witness_ClaspSignalResetFailSettle : (runs 0).halted = false ∧ (runs 0).stalledOps = [] ∧ (runs 0).mayClasp (.bead 5) 3 0 = true ∧ (runs 0).mayClasp (.bead 5) 3 3 = true := by
  decide +kernel
theorem witness_ClaspWaitArriveComplete : waiterOf (.bead 5) = some (.bead 5) ∧ (runs 0).mayClasp (.bead 5) 3 1 = true ∧ (runs 0).mayClasp (.bead 5) 3 2 = true ∧
    1 ≤ ((clasp3 1 false (runs 0)).clasp 3).counter ∧ ((runs 0).clasp 3).err = false ∧ ((runs 0).clasp 3).counter < 1 ∧ ((clasp3 0 true (runs 0)).clasp 3).err = true := by
  decide +kernel
theorem witness_ClaspRefusalsKeepClasps : up.halted = false ∧ up.mayClasp (.notify none 0) 3 0 = false ∧ up.mayClasp (.bead 5) 3 1 = false ∧ up.mayClasp (.bead 5) 3 2 = false ∧
    up.mayClasp (.bead 5) 3 3 = false ∧ ∀ p k, ClaspAgent.notify none 0 ≠ .remote p k := by
  refine ⟨by decide +kernel, by decide +kernel, by decide +kernel, by decide +kernel, by decide +kernel, ?_⟩
  intro p k h; cases h

/-! Registers of window A and of the user windows. -/

theorem reaches_up (o : Nat) (h : o < 0x4000000) : up.reachesA .mgmt o := by
  have : up.gateA o = .ok .a := by
    simp only [State.gateA, show ¬ 0x4000000 ≤ o by omega, if_false]
    rfl
  exact ⟨rfl, this, this⟩
theorem witness_PowerDebugNetworkRegisterRows : up.clocksOff = false ∧ up.reachesA .mgmt 0xA0000 ∧ up.reachesA .mgmt 0xA0008 ∧ up.reachesA .mgmt 0xE0000 ∧
    (∀ b : BeadId, up.reachesA .mgmt (0x1008000 + b.val * 0x10000)) ∧ (∀ k : Fin 171, up.reachesA .mgmt (0xC0000 + 4 * k.val)) ∧ up.reachesA .mgmt 0xB0004 ∧
    up.reachesA .mgmt 0x80524 ∧ up.reachesA .mgmt 0xD0004 := by
  refine ⟨rfl, reaches_up _ (by decide), reaches_up _ (by decide), reaches_up _ (by decide), fun b => reaches_up _ (by omega), fun k => reaches_up _ (by omega),
    reaches_up _ (by decide), reaches_up _ (by decide), reaches_up _ (by decide)⟩
theorem witness_PowerDebugNetworkRegisterRows_values : bits 5 7 0 ≤ 159 ∧ bits 5 9 8 ≠ 3 ∧ ((runs 0).bead (bits 5 7 0)).pos ≠ none ∧ ((runs 0).bead (bits 5 7 0)).inService = true ∧
    159 < bits 160 7 0 ∧ up.errGlobal.held < ahead up.errGlobal.tail 2 ∧ ahead up.errGlobal.tail 0 ≤ up.errGlobal.held ∧
    (List.replicate 32 (0 : Byte)).length = 32 ∧ bit 2 1 = true := by decide +kernel
theorem witness_SettingFrameWindowRegisterRows : up.reachesA .mgmt 0x1000C ∧ up.reachesA .mgmt 0x30004 ∧ (∀ w : Fin 256, up.reachesA .mgmt (0x100 + 4 * w.val)) ∧
    up.reachesA .mgmt 0x48 ∧ up.reachesA .mgmt 0x20028 := by
  refine ⟨reaches_up _ (by decide), reaches_up _ (by decide), fun w => reaches_up _ (by omega), reaches_up _ (by decide), reaches_up _ (by decide)⟩
/-- FUNC of three binds a VF, 1 to 32; unit 5 runs slices. -/
theorem witness_SettingFrameWindowRegisterRows_values : bits 3 1 0 = 3 ∧ bits 3 8 3 = 0 ∧ 32 < bits (3 + 33 * 8) 8 3 ∧ bits 1 1 0 ≠ 3 ∧ (up.win 0).func ≠ 1 % 4096 ∧
    (up.win 0).func = 0 % 4096 ∧ dev5.set.cur.runs 5 = true ∧ dev5.set.cur.runs 6 = false ∧ dev5.set.cur.winUnit 3 = some 5 := by decide +kernel
/-- Host core 0 works window 3. -/
theorem witness_SettingFrameWindowRegisterRows_window : dev5.reachesW (.core 0 3) 3 0x1000 ∧ dev5.negotiated (.core 0 3) :=
  ⟨⟨rfl, by decide +kernel⟩, fun f h => (by cases h)⟩
theorem witness_HallmarkRegisterRows : up.clocksOff = false ∧ up.reachesA .mgmt 0x90630 ∧ up.reachesA .mgmt 0x90700 ∧ up.reachesA .mgmt 0x907A0 ∧
    up.hmk.extBusy = false ∧ bits 9 3 0 < 10 ∧ 10 ≤ bits 10 3 0 ∧ up.hmk.nonceValid = false :=
  ⟨rfl, reaches_up _ (by decide), reaches_up _ (by decide), reaches_up _ (by decide), rfl, by decide, by decide, rfl⟩
/-- The unlock clause, for a device whose debug key verifies the response. -/
theorem witness_HallmarkRegisterRows_unlock (r : BitVec 768) : let s : State := { up with hmk := { up.hmk with params := ({} : Bytes).writeL 0xDF [1], nonceValid := true, dbgResp := r } }
    let sig := leBytes 96 r.toNat
    Config.ecdsaVerify 1 (Config.sha384 (leBytes 32 s.hmk.nonce.toNat ++ leBytes 8 hashLo)) (beNat (sig.take 48)) (beNat (sig.drop 48)) = true →
    beNat (s.hmk.params.readN 0x80 96) = 1 ∧ s.hmk.nonceValid = true := fun _ => ⟨(by decide +kernel : beNat ((({} : Bytes).writeL 0xDF [1]).readN 0x80 96) = 1), rfl⟩
theorem witness_UpdateAndResetRegisterRows : up.clocksOff = false ∧ up.reachesA .mgmt 0xD030C ∧ up.reachesA .mgmt 0xD010C ∧ up.reachesA .mgmt 0xD0200 ∧ up.reachesA .mgmt 0xD0004 ∧
    up.mgt.parBusy = false ∧ up.mgtBytes 0 4 = some (up.mem.ram.readN 0 4) ∧ up.mgtBytes (2 ^ 47) 4 = none ∧ 0x400 ≤ up.mgt.parOff ∧ up.mgt.parOff + 4 ≤ 0x10000 ∧
    bit 0 1 = false ∧ up.mgt.fwBusy = false ∧ dirTaken up.hmk.flash = none :=
  ⟨rfl, reaches_up _ (by decide), reaches_up _ (by decide), reaches_up _ (by decide), reaches_up _ (by decide), rfl, by decide +kernel, by decide +kernel, by decide, by decide, by decide,
    rfl, by decide +kernel⟩
def onTrial (trial : Bool) : Bytes := dirWrite {} { active := 0, trial, attempts := 0, confirm := 0, seq := 0 }
theorem witness_UpdateAndResetRegisterRows_confirm : (dirTaken (onTrial true)).any (fun p => p.2.trial && p.2.active == up.hmk.slot) = true ∧
    (dirTaken (onTrial false)).any (fun p => !p.2.trial) = true := by decide +kernel
def sigWord : Nat := 3 + 2 ^ 32
theorem witness_ClaspOperationWords : dev5.halted = false ∧ dev5.reachesA .mgmt 0x40000 ∧ dev5.negotiated .mgmt ∧ clpWordBad (clpWord sigWord 0 % 2 ^ 64) = false ∧
    clpWordBad (clpWord sigWord 1 % 2 ^ 64) = false ∧ clpWordBad (clpWord 3 3 % 2 ^ 64) = false ∧ clpWordBad (clpWord 3 4 % 2 ^ 64) = false ∧ clpWordBad (clpWord sigWord 3 % 2 ^ 64) = true ∧
    dev5.mayClasp (.notify none 0) 3 0 = true ∧ dev5.mayClasp (.notify none 0) 16 0 = false ∧ viaFunc .mgmt = false ∧ dev5.hostWaits (claspDie 3) < 4096 :=
  ⟨rfl, ⟨rfl, rfl, rfl⟩, fun f h => (by cases h), by decide +kernel, by decide +kernel, by decide +kernel, by decide +kernel, by decide +kernel, by decide +kernel, by decide +kernel, rfl,
    by decide +kernel⟩
theorem witness_ClaspOperationWords_function : viaFunc (.func 1 3) = true ∧ ({ dev5 with wins := [(3, { func := 3 + 8 })] } : State).winFn 3 = some 1 := by decide +kernel
theorem witness_MsixThresholdArms : dev5.clocksOff = false ∧ dev5.negotiated (.core 0 3) ∧ dev5.reachesW (.core 0 3) 3 (0x3100 + 16 * 31) ∧ (mget (dev5.win 3).msix 31 {}).arm = false ∧
    dev5.vecOk 3 2047 = true ∧ dev5.vecOk 3 2048 = false ∧ ((dev5.set.cur.clasp? (bits 3 15 0)).map (·.msix)).getD false = true ∧ dev5.mayClasp (.notify (some 3) 0) 3 1 = true ∧
    (dev5.clasp 3).err = false ∧ 0 ≤ (dev5.clasp 3).counter ∧ (dev5.clasp 3).counter < ({ target := 1 } : MsixEntry).target ∧ dev5.mayClasp (.notify (some 3) 0) 16 1 = false :=
  ⟨rfl, fun f h => (by cases h), ⟨rfl, by decide +kernel⟩, rfl, by decide +kernel, by decide +kernel, by decide +kernel, by decide +kernel, rfl, by decide, by decide +kernel, by decide +kernel⟩
theorem witness_RingAndPoolRegisters : dev5.clocksOff = false ∧ dev5.negotiated (.core 0 3) ∧ dev5.reachesW (.core 0 3) 3 0x2000 ∧ dev5.reachesW (.core 0 3) 3 0x2014 ∧
    dev5.reachesW (.core 0 3) 3 0x4010 ∧ dev5.reachesA .mgmt 0x60000 ∧ dev5.reachesA .mgmt 0x60010 ∧ dev5.hasSq 3 = true ∧ (dev5.win 3).replies = [] ∧
    (dev5.win 3).sqHead = (dev5.win 3).sqTail ∧ dev5.bpm.allocRes.busy = false ∧ dev5.bpm.freeRes.busy = false ∧ (dev5.win 3).freeRes.busy = false :=
  ⟨rfl, fun f h => (by cases h), ⟨rfl, by decide +kernel⟩, ⟨rfl, by decide +kernel⟩, ⟨rfl, by decide +kernel⟩, ⟨rfl, rfl, rfl⟩, ⟨rfl, rfl, rfl⟩, by decide +kernel, rfl, rfl, rfl, rfl, rfl⟩
/-- A pool of 16 pages: an ALLOC of 17 pages finds too few; page 0x100 is unit 5's. -/
theorem witness_RingAndPoolRegisters_values : ((dev5.set.cur.poolsOf 5 0).map dev5.freeIn).foldl (· + ·) 0 < 17 ∧ bits (17 * 2 ^ 32 + 5 * 2 ^ 16) 48 32 = 17 ∧
    paged.handleLive (0x100 + 2 ^ 32) = true ∧ paged.handleLive 0x100 = false ∧ (dev5.page 0x100).state = .free ∧ paged.set.cur.winUnit 3 = some 5 ∧
    ({ paged with bpm := { pages := [(0x100, { state := .alloc, head := true, owner := 6, gen := 1 })] } } : State).handleLive (0x100 + 2 ^ 32) = true ∧
    paged.set.cur.top (paged.set.cur.top 5) ≠ 6 := by decide +kernel

/-! The fabric. -/

/-- Transfers of bead 5 to stack 0's controller, on their way. -/
def rd0 : Xfer := { rdXfer with src := 5, dst := 0x30, tag := 3, addr := 0x20000 }
def wr0 : Xfer := { wrXfer with src := 5, dst := 0x30, tag := 3, addr := 0x20000 }
def add0 : Xfer := { wr0 with op := .add }
def ack0 (st : Nat) : Xfer := { rdXfer with op := .wrAck, vc := 1, src := 0x30, dst := 5, tag := 3, addr := st }
theorem witness_FabricAccessRowsAct : (runs 0).halted = false ∧ ({ underReset := [0x30] } : FilState).underReset.contains wr0.dst = true ∧ (runs 0).fil.underReset.contains wr0.dst = false ∧
    ((span 0 (rd0.addr % 8 + 1)).map (fun i => rd0.addr / 64 * 64 + 64 * i)).all (fun a => populated (runs 0).set.cur a) = true ∧ { wr0 with abandon := true }.abandon = true ∧
    wr0.abandon = false ∧ (granules 64 wr0.addr wr0.data.length).all (fun g => populated (runs 0).set.cur (g * 64)) = true ∧ 63 < wr0.data.length ∧
    (runs 0).mem.retiredAt (wr0.addr + 63) = false ∧ add0.data.length * 8 % ElemFmt.fp32.width = 0 ∧ (List.range 256).any (fun c => ElemFmt.ofCode c == some .fp32) = true ∧
    (List.range 256).any (fun c => (ElemFmt.ofCode c).isNone) = true ∧ (ack0 0).addr ≠ St.filDestReset ∧ (ack0 0).addr ≠ St.collMismatch ∧
    agentBead (ack0 0).dst = some 5 ∧ (runs 0).ctx? 5 = some ctx5 ∧ ((runs 0).unitSt 5).slice = some sl5 ∧ (runs 0).sliceOf 5 = some (5, sl5) := by decide +kernel
theorem witness_FabricAccessRowsAct_collective : ∃ k, k ∈ (waits 0).colls ∧ k.slice = sl5.serial := ⟨coll0, by decide +kernel⟩

def hdr0 (epoch : Nat) : CollHdr := { sig := 7, group := 5, srcRank := 0, dstRank := 0, seq := 0, epoch, nrows := 1, rowBytes := 8 }
def del0 : Xfer := { rdXfer with op := .deliver, src := 5, dst := 5 }
def sl7 : Slice := { sl5 with frame := 7 }
theorem witness_DeliverAndPoolRowsAct : (waits 0).halted = false ∧ del0.abandon = false ∧ { del0 with abandon := true }.abandon = true ∧
    (waits 0).fil.underReset.contains del0.dst = false ∧ ({ underReset := [5] } : FilState).underReset.contains del0.dst = true ∧ (waits 0).unitOfGroup (hdr0 0).group = some 5 ∧
    (on5 (leaf 0) sl7 dev5).unitOfGroup 5 = some 5 ∧ (hdr0 6).epoch < (on5 (leaf 0) sl7 dev5).epochOf 5 sl7 ∧ (waits 0).epochOf 5 sl5 ≤ (hdr0 0).epoch ∧
    sl5.beads[(hdr0 0).dstRank - (((waits 0).fedGroup 5).map (·.1)).getD 0]? = some 5 ∧ (waits 0).ctx? 5 = some ctx5 ∧ ctx5.grank = (hdr0 0).dstRank ∧
    ((waits 0).coll 0).parts.find? (fun p => p.bead == 5) = some ⟨0, 5, 0, 0x2B, 7, {}, [], [], 0, 0, false⟩ ∧ ((waits 0).collIx sl5.serial 0).isSome = true ∧
    ((runs 0).coll 0).parts.find? (fun p => p.bead == 5) = none ∧ ((runs 0).bead 5).collSeq ≤ 0 ∧ (runs 0).earlyBytes 5 + 64 + 65472 ≤ 65536 ∧ 65536 < (runs 0).earlyBytes 5 + 64 + 65473 := by
  decide +kernel
theorem witness_DeliverAndPoolRowsAct_pool : paged.handleLive (0x100 + 2 ^ 32) = true ∧ paged.handleLive 0x100 = false ∧ paged.agentUnit 5 = some 5 ∧
    paged.set.cur.top 5 = (paged.page 0x100).owner ∧ (paged.fil.underReset.contains del0.dst) = false := by decide +kernel
/-- A sub-channel with a group that waits for its acknowledgement, and one lost. -/
def linked (c : SubCh) : State := { dev5 with fil := { subs := [(0, c)] } }
theorem witness_FiligreeLinkRowsAct : up.halted = false ∧ ((linked { lost := true }).sub (chKey ⟨0, 0, 0⟩)).lost = true ∧ ((linked {}).sub (chKey ⟨0, 0, 0⟩)).lost = false ∧
    dev5.set.cur.fis = [] ∧ 0 = ((linked {}).sub 0).rxSeq ∧ 1 ≠ ((linked {}).sub 0).rxSeq ∧ isReserved rd0.op = false ∧ up.fil.reorder = [] ∧
    ((linked { unacked := [(0, [rd0])] }).sub 0).unacked ≠ [] ∧ ((linked { unacked := [(0, [rd0])] }).sub 0).replays = 0 ∧ ((linked {}).sub 0).unacked = [] ∧
    4 ≤ mget ({ spared := [(0, 4)] } : FilState).spared 0 0 ∧ mget ({ spared := [(0, 3)] } : FilState).spared 0 0 < 4 ∧ 17 ≤ dev5.working 0 0 := by decide +kernel
/-- 15 of the 32 sub-channels of link 0 are lost: 17 work; one more, and the next loss brings the link down. -/
def lostSubs (n : Nat) : State := { dev5 with fil := { subs := (List.range n).map (fun i => (i * 2 + 2, { lost := true })) } }
theorem witness_FiligreeLinkRowsAct_loss : (lostSubs 15).working 0 0 = 17 ∧ (lostSubs 16).working 0 0 < 17 ∧ ((lostSubs 16).sub (chKey ⟨0, 0, 0⟩)).lost = false := by decide +kernel

/-! The network. -/

/-- Two ports of one path each, both up, package 1; peer 9 at both. -/
def stNet : Setting := { st5 with
  netPkg := { encap := 1, pkgId := 1, pfcPrio := 3, maxPeers := 2 }, netPorts := [⟨0, 0, true, 1, 1⟩, ⟨1, 0, true, 2, 2⟩] }
def nine : Peer := { pkg := 9, connected := true, paths := 0x11, helloSent := true }
def net (x : Peer) : State := { with' stNet up with net := { ports := [(0, { up := [0] }), (1, { up := [0] })], peers := [(9, x)] } }
def alone (x : Peer) : State := { net x with net := { (net x).net with ports := [(0, { up := [0] })] } }
def out0 (n : Nat := 0) (path : Nat := 0) : SentSeg := { seg := { dst := 9, src := 1, psn := n, path } }
def sending (g : SentSeg) : Peer := { nine with vcs := [(0, { txPsn := 1, sent := [g] })] }
theorem witness_NetworkFramesAndPaths : (net nine).halted = false ∧ (net nine).pathUp 0 = true ∧ (net nine).pathUp 1 = false ∧ 2 ≠ (net nine).set.cur.netPkg.pfcPrio ∧
    3 = (net nine).set.cur.netPkg.pfcPrio ∧ (net nine).set.cur.fis = [] ∧ (net nine).net.reorder = [] ∧ ((net nine).port 0).xoffSent = false ∧
    1572864 < ({ rxBytes := 1572817 } : Port).rxBytes + 48 ∧ ({ rxBytes := 1572816 } : Port).rxBytes + 48 ≤ 1572864 ∧ (net nine).set.cur.netPkg.encap ≠ 0 ∧ dev5.set.cur.netPkg.encap = 0 ∧
    (net nine).peer? 9 = some nine ∧ (net nine).peer? 8 = none ∧ (net nine).set.cur.port? 0 = some ⟨0, 0, true, 1, 1⟩ ∧ 0 % 4 < subPorts 0 ∧ dev5.set.cur.port? 0 = none := by
  decide +kernel
theorem witness_NetworkFramesAndPaths_down : (net nine).net.peers.all (fun q => q.2.vcs.all (fun c => c.2.sent.all (·.seg.path != 0)) &&
      (!q.2.connected || ((net nine).peerPaths q.2).any (· != 0))) = true ∧ (net (sending (out0))).net.peers = [(9, sending out0)] ∧ out0.seg.path = 0 ∧ out0.sends < 7 ∧
    ((net (sending out0)).peerPaths (sending out0)).filter (fun j => j != 0 && !(net (sending out0)).paused j) = [4] := by decide +kernel
theorem witness_NetworkFramesAndPaths_suspect : let x : Peer := { nine with suspects := [{ path := 0 }] }
    x.suspects.any (·.path == 0) = true ∧ nine.suspects.any (·.path == 0) = false ∧ nine.vcs.all (fun c => c.2.sent.all (·.seg.path != 0)) = true ∧
    ((net nine).peerPaths nine).any (· != 0) = true ∧ ((alone nine).peerPaths nine).all (· == 0) = true ∧ (alone nine).stalledOps = [] ∧
    (alone nine).set.cur.feds.all (fun f => f.peers.all (fun r => r.2 != 9)) = true := by decide +kernel

def ackNine : Segment := { type := 1, src := 9 }
theorem witness_TransportRowsAct_data : (net nine).halted = false ∧ (net nine).peer? 8 = none ∧ (net nine).peer? 9 = some nine ∧ nine.connected = true ∧ nine.busy = false ∧
    { nine with connected := false }.connected = false ∧ 2 ^ 31 ≤ ahead 0xFFFFFFFF (nine.vc 0).rxPsn ∧ ((net nine).peerPaths nine).filter (fun j => !(net nine).paused j) ≠ [] ∧
    64 < ahead 65 (nine.vc 0).rxPsn ∧ ahead 65 (nine.vc 0).rxPsn < 2 ^ 31 ∧ (nine.vc 0).rxAhead.contains 65 = false ∧ ahead 64 (nine.vc 0).rxPsn ≤ 64 ∧
    1 ≠ (nine.vc 0).rxNextMsg ∧ (nine.vc 0).rxMsgs.all (fun r => r.id != (nine.vc 0).rxNextMsg) = true ∧ (nine.vc 0).unackedRx < 7 ∧
    7 ≤ ({ nine with vcs := [(0, { unackedRx := 7 })] }.vc 0).unackedRx ∧ 0 = (nine.vc 0).rxPsn ∧ 0 = (nine.vc 0).rxNextMsg ∧ (nine.vc 0).rxMsgs = [] ∧ (nine.vc 0).rxAhead = [] := by
  decide +kernel
theorem witness_TransportRowsAct_done : (leBytes 2 2 ++ leBytes 30 0).length = 32 ∧ bfld (leBytes 2 2 ++ leBytes 30 0) 0 2 = 2 := by decide +kernel
theorem witness_TransportRowsAct_ack : let x : Peer := { nine with vcs := [(0, { txPsn := 5, sent := [out0] })] }
    nine.vcs.all (fun v => v.2.backlog.isEmpty) = true ∧ ackNine.sack = 0 ∧ ahead 0 (nine.vc 0).ackPsn < 2 ^ 31 ∧ x.vcs = [(0, x.vc 0)] ∧ (x.vc 0).sent = [out0] ∧
    (x.vc 0).backlog = [] ∧ out0.sends = 1 ∧ ackCovers 0 0xE out0.seg.psn = false ∧ 3 ≤ sackBeyond 0 0xE out0.seg.psn ∧ x.suspects = [] ∧
    ((alone x).peerPaths x).filter (fun j => !(alone x).paused j) = [0] := by decide +kernel
theorem witness_TransportRowsAct_probes : let x : Peer := { nine with suspects := [⟨0, 2, true⟩] }
    let y : Peer := { nine with suspects := [⟨0, 3, true⟩] }
    (⟨0, 2, true⟩ : Suspect) ∈ x.suspects ∧ (2 : Nat) ≠ 3 ∧ (∀ w, w ∈ y.suspects → w.path = 0 → w.probed = true ∧ w.acks = 3) ∧ 0x14 ≤ (leBytes 0x14 0).length ∧
    (leBytes 0x13 0).length < 0x14 ∧ (sending out0).busy = true ∧ (net nine).stalledOps = [] ∧ (net nine).set.cur.feds.all (fun f => f.peers.all (fun r => r.2 != 9)) = true := by decide +kernel
def hello : HelloBody := { verMin := 0, verMax := 0xFFFFFFFF, features := 7, paths := 0x11 }
theorem witness_TransportRowsAct_hello : let x : Peer := { nine with connected := false }
    let y : Peer := { pkg := 9 }
    (net x).peer? 9 = some x ∧ x.helloSent = true ∧ x.connected = false ∧ (net x).set.cur.netPkg.pkgId < 9 ∧ min (net x).tRange.2 0 < max (net x).tRange.1 0 ∧
    max (net x).tRange.1 hello.verMin ≤ min (net x).tRange.2 hello.verMax ∧ (net x).peer? 8 = none ∧ (net x).net.peers.length < (net x).set.cur.maxPeers ∧
    ({ net x with net := { (net x).net with peers := [(9, x), (10, x)] } } : State).set.cur.maxPeers ≤ 2 ∧ x.vcs = [] ∧ y.helloSent = false := by decide +kernel
theorem witness_TransportRowsAct_timers : let x : Peer := { nine with vcs := [(0, { unackedRx := 1 })] }
    let y : Peer := { nine with vcs := [(0, { sent := [out0] })] }
    (x.vc 0).unackedRx ≠ 0 ∧ (nine.vc 0).unackedRx = 0 ∧ (nine.vc 0).sent.find? (·.seg.psn == 0) = none ∧ (y.vc 0).sent.find? (·.seg.psn == 0) = some out0 ∧
    99999999 < out0.sentAt + out0.rto * 1000000 ∧ out0.sentAt + out0.rto * 1000000 ≤ 100000000 ∧ out0.sends < 7 ∧ 100000000 < y.lastAckAt + 2000000000 ∧
    y.lastAckAt + 2000000000 ≤ ((alone y).at 2000000000).now ∧ ((alone y).peerPaths y).filter (fun j => !(alone y).paused j) = [0] ∧ (net nine).peerIdle 9 nine = true ∧
    (net y).peerIdle 9 y = false ∧ ((net nine).at (10 ^ 13 - 1)).now < nine.lastBusyAt + 10 ^ 13 ∧ nine.lastBusyAt + 10 ^ 13 ≤ ((net nine).at (10 ^ 13)).now := by decide +kernel
theorem witness_TransportRowsAct_nak : ({ up with out := [.coll (collHdrOf []) [] []] } : State).out.find? (fun o => match o with
      | .coll k _ _ => k == collHdrOf []
      | _ => false) = some (.coll (collHdrOf []) [] []) := by decide +kernel
theorem witness_CrossedHelloOfLowerPackageStands : let x : Peer := { nine with connected := false }
    (net x).halted = false ∧ (net x).peer? 9 = some x ∧ x.helloSent = true ∧ x.connected = false ∧ 9 ≠ (net x).set.cur.netPkg.pkgId ∧ (net x).set.cur.netPkg.pkgId < 9 := by
  decide +kernel
theorem witness_CrossedHelloOfLowerPackageStands_answers : let x : Peer := { nine with connected := false }
    let s : State := { with' { stNet with netPkg := { stNet.netPkg with pkgId := 10 } } up with net := (net x).net }
    s.peer? 9 = some x ∧ 9 < s.set.cur.netPkg.pkgId ∧ max s.tRange.1 hello.verMin ≤ min s.tRange.2 hello.verMax := by decide +kernel

/-! Federations. -/

/-- Federation 0x1000 of packages 1 (rank `k` here) and 9; unit 5 is the local part. -/
def fedRec (k : Nat) : FedRec := ⟨0x1000, 5, k, 2, 2, 0, 0, [(k, 1), (1 - k, 9)]⟩
def stFed (k : Nat) : Setting := { stNet with feds := [fedRec k] }
def fed (k : Nat) (x : Fed) : State := { on5 (leaf 0) sl5 (with' (stFed k) up) with net := { (net nine).net with feds := [(0x1000, x)] } }
def formed : Fed := { fedUid := 0x1000, formed := true, epoch := 4, running := true }
def join1 (v : Nat) : JoinBody := ⟨1, 2, 2, 1, 0, v, v⟩
theorem witness_FederationRowsAct_claspOps : let s := fed 0 formed
    s.halted = false ∧ clpWordBad (2 ^ 32) = false ∧ clpWordBad (0x10000 + 2 ^ 32) = false ∧ clpWordBad 0x30000 = false ∧ clpWordBad 0x40000 = false ∧
    clpWordBad (0x20000 + 2 ^ 32) = false ∧ (s.fed 0x1000).formed = true ∧ (s.set.cur.peerFeds 9).any (·.fedUid == 0x1000) = true ∧ s.stalledOps = [] ∧
    (let g := with' { stFed 0 with accesses := [⟨0, 15, 0x1000, 0, 16⟩] } s; [0, 1, 2, 3].all (fun r => g.mayClasp (.remote 9 0) 3 r) = true ∧ g.hostWaits (claspDie 3) < 4096) ∧ s.mayClasp (.remote 9 0) 16 0 = false ∧
    bits (2 ^ 32) 18 16 = 0 ∧ bits (0x10000 + 2 ^ 32) 18 16 = 1 ∧ bits (0x20000 + 2 ^ 32) 18 16 = 2 := by decide +kernel
theorem witness_FederationRowsAct_done : let s : State := { up with net := { remoteOps := [⟨7, 9, some 5, 3⟩] } }
    s.net.remoteOps.find? (fun o => o.tag == 7 && o.peer == 9) = some ⟨7, 9, some 5, 3⟩ ∧ s.net.remoteOps.find? (fun o => o.tag == 8 && o.peer == 9) = none := by decide +kernel
theorem witness_FederationRowsAct_formation : let s := fed 0 { fedUid := 0x1000 }
    let js := s.ownJoin (fedRec 0) :: [⟨9, 1, 2, 2, 1, 0, 0, 0xFFFFFFFF⟩]
    up.set.cur.fed? 0x1000 = none ∧ s.set.cur.fed? 0x1000 = some (fedRec 0) ∧ (fedRec 0).rank = 0 ∧ (fedRec 0).peers.any (·.2 == 9) = true ∧ (fedRec 0).peers.all (·.2 != 8) = true ∧
    (s.fed 0x1000).formed = false ∧ [s.ownJoin (fedRec 0)].length < (fedRec 0).members ∧ (fedRec 0).members ≤ js.length ∧ (fedRec 0).agrees 1 js = true ∧
    (fedRec 0).agrees 2 js = false ∧ ((fedRec 0).version js).isSome = true ∧
    (fedRec 0).version (s.ownJoin (fedRec 0) :: [⟨9, 1, 2, 2, 1, 0, 0xFFFFFFFF, 0⟩]) = none := by decide +kernel
theorem witness_FederationRowsAct_rank0 : let s := fed 0 formed
    (s.fed 0x1000).formed = true ∧ (s.unitSt 5).slice = some sl5 ∧ sl5.phase ≠ .committing ∧ (s.fed 0x1000).running = true ∧ (fedRec 0).peers.find? (·.2 == 9) = some (1, 9) ∧
    (mput formed.ready 1 0).length < (fedRec 0).members ∧ (fedRec 0).members ≤ (mput [(0, 0)] 1 0).length ∧ (fedRec 0).peers.find? (·.2 == 8) = none := by decide +kernel
theorem witness_FederationRowsAct_member : let s := fed 1 formed
    s.set.cur.fed? 0x1000 = some (fedRec 1) ∧ (fedRec 1).rank ≠ 0 ∧ (fedRec 1).peerOf 0 = 9 ∧ (s.fed 0x1000).epoch = 4 ∧ (s.unitSt 5).slice = some sl5 ∧ (s.fed 0x1000).epoch ≠ 5 ∧
    (((fed 1 formed).updSlice 5 (fun sl => { sl with phase := .waiting })).unitSt 5).slice = some { sl5 with phase := .waiting } ∧ (fedRec 1).peerOf 0 ≠ 8 := by decide +kernel

theorem witness_FederationRowsAct_start_conditions : let s := with' (stFed 1) up
    (s.unitSt 5).slice = none ∧ (s.unitSt 5).replay = none ∧ (s.unitSt 5).down = false ∧ (s.unitSt 5).failed = [] := by decide +kernel

/-! Time. -/

def ptp (p : Ptp) : State := { up with net := { ptp := p } }
theorem witness_PtpRowsAct : (ptp { master := some 3 }).halted = false ∧ (ptp {}).net.ptp.master ≠ some 3 ∧ (ptp { master := some 3 }).net.ptp.master = some 3 ∧
    min 255 (15 + 1) < 17 ∧ 16 ≤ min 255 (({ good := 15 } : Ptp).good + 1) ∧ min 255 (({ good := 14 } : Ptp).good + 1) < 16 ∧ ({ locked := true, bad := 2 } : Ptp).bad + 1 < 4 ∧
    4 ≤ ({ locked := true, bad := 3 } : Ptp).bad + 1 ∧ (source 1 up).set.cur.frame.source = 1 ∧ up.set.cur.frame.source ≠ 1 := by decide +kernel

/-! Loads, flash, boot. -/

/-- A PARTIAL image of one GME record, over a setting that passes checks 9 to 12. -/
def gmeImg : List Byte := leBytes 4 0x49535347 ++ leBytes 4 2 ++ leBytes 4 248 ++ leBytes 2 128 ++ leBytes 2 1 ++ leBytes 8 1 ++ leBytes 10 0 ++ leBytes 1 4 ++ leBytes 1 1 ++
  leBytes 92 0 ++ leBytes 2 0xC ++ leBytes 2 16 ++ leBytes 4 1 ++ leBytes 8 (5 + 16 * 2 ^ 32) ++ leBytes 104 0
def stGme : Setting := { st5 with services := [], compats := [⟨1, 0, 2 ^ 32 - 1⟩, ⟨2, 0, 2 ^ 32 - 1⟩, ⟨3, 0, 2 ^ 32 - 1⟩] }
def checking : State := { with' stGme up with
  set := { phase := .checking, goLen := 248, cur := stGme }, mem := { ram := ({} : Bytes).writeL 0 gmeImg } }
theorem witness_LoadAndFlashRowsAct_checking : checking.halted = false ∧ checking.set.phase = .checking ∧ up.set.phase ≠ .checking ∧ checking.imageBytes = some gmeImg ∧
    ({ checking with set := { checking.set with goLen := 0 } } : State).imageBytes = none ∧ (checking.checkImage []).isOk = false := by decide +kernel
/-- The signature is a primitive that the spec does not define; an image that it verifies passes the other checks. -/
theorem witness_LoadAndFlashRowsAct_passes (h : checking.check2 gmeImg = true) :
    (match checking.checkImage gmeImg with
      | .ok l => (checking.check13 l.merged).isNone
      | .error _ => false) = true := by
  have hd : checking.checkHead gmeImg = none := by
    unfold State.checkHead
    rw [h]
    decide +kernel
  unfold State.checkImage
  rw [hd]
  decide +kernel
def load5 : Loaded := { image := gmeImg, merged := st5, full := true, untested := false, carried := [], fill := [] }
def loading (s : State) (ticks : Nat) : State := { s with set := { s.set with phase := .pending, ticks, loaded := some load5 } }
theorem witness_LoadAndFlashRowsAct_pending : (loading up 8).set.phase = .pending ∧ 8 ≤ (loading up 8).set.ticks ∧ (loading up 7).set.ticks < 8 ∧ (loading up 7).set.loaded = some load5 ∧
    (loading up 7).units.any (fun p => ((loading up 7).affectedBy load5).contains ((loading up 7).set.cur.top p.1) && p.2.busy) = false ∧
    (loading (runs 0) 7).units.any (fun p => ((loading (runs 0) 7).affectedBy load5).contains ((loading (runs 0) 7).set.cur.top p.1) && p.2.busy) = true ∧
    (loading up 7).check13 load5.merged = none ∧ ((loading { up with beads := [(5, { inService := false })] } 7).check13 load5.merged).isSome = true := by decide +kernel
def queued (k : FlashKind) : State := { up with hmk := { up.hmk with queue := [{ kind := k, off := 0x400, data := [1] }] } }
theorem witness_LoadAndFlashRowsAct_flash : up.clocksOff = false ∧ up.hmk.queue = [] ∧ (queued .event).hmk.queue = [⟨.event, 0x400, [1], 0⟩] ∧
    (queued .signed).signedOk [1] = false ∧ up.hmk.fwBusy = false ∧ (up.bundleComps []).isOk = false := by decide +kernel
/-- With no parameter key programmed an update of this device's HASH_LO and a higher number passes. -/
theorem witness_LoadAndFlashRowsAct_signed : up.signedOk (leBytes 8 hashLo ++ (leBytes 4 1 ++ leBytes 752 0)) = true := by
  have h1 : bfld (leBytes 8 hashLo ++ (leBytes 4 1 ++ leBytes 752 0)) 0 8 = hashLo := by
    have : ((leBytes 8 hashLo ++ (leBytes 4 1 ++ leBytes 752 0)).drop 0).take 8 = leBytes 8 hashLo := by simp [leBytes_length]
    unfold bfld
    rw [this, leNat_leBytes]
    exact Nat.mod_eq_of_lt (Nat.mod_lt _ (by decide))
  have h2 : bfld (leBytes 8 hashLo ++ (leBytes 4 1 ++ leBytes 752 0)) 8 4 = 1 := by
    have : ((leBytes 8 hashLo ++ (leBytes 4 1 ++ leBytes 752 0)).drop 8).take 4 = leBytes 4 1 := by simp [leBytes_length]
    unfold bfld
    rw [this, leNat_leBytes]
    decide
  have h3 : bfld (paramStored up.hmk.flash) 0x10 4 = 0 := by decide +kernel
  have h4 : beNat (up.hmk.params.readN 0x20 96) = 0 := by decide +kernel
  unfold State.signedOk
  simp only [h1, h2, h3, h4]
  simp
/-- A header at unit address 0x10000, for the start of a member's slice. -/
def hdrBytes : List Byte := leBytes 4 0x45434C53 ++ leBytes 2 1 ++ leBytes 2 1 ++ leBytes 4 1000 ++ leBytes 20 0 ++ List.replicate 32 0xFF ++ leBytes 8 0x10000 ++ leBytes 4 4 ++
  leBytes 2 0 ++ leBytes 2 1
theorem witness_FederationRowsAct_start : let s : State := { with' (stFed 1) up with mem := { ram := ({} : Bytes).writeL 0x20000 hdrBytes }, units := [(5, { slicePtr := 0x10000 })] }
    (s.unitSt 5).slice = none ∧ (s.unitSt 5).replay = none ∧ (s.unitSt 5).slicePtr ≠ 0 ∧ (s.header? 5 0x10000).isSome = true ∧ (s.unitSt 5).down = false ∧
    (s.unitSt 5).failed = [] := by decide +kernel
theorem witness_BootResetAndTakeover : up.halted = false ∧ up.onTrial = false ∧
    (let s : State := { up with dev := {}, hmk := { stage := 9, flash := onTrial true } }; s.onTrial = true ∧ s.dev.ready = false ∧ s.hmk.bscanHold = false ∧ s.hmk.stage ≠ 0 ∧ s.halted = false) ∧
    ({ standbyOk := true } : FrmState).standbyOk = true ∧ up.frm.standbyOk = false := by decide +kernel
theorem witness_BootResetAndTakeover_ready : (match exec (.porstN { flash := some [], backup := [] }) State.reset with
      | .next t => t.dev.bootFailed
      | _ => false) = true := by decide +kernel

/-! The host and the ports. -/

def fn1 (x : PcieFn) : State := { dev5 with fns := [(1, x)], wins := [(3, { func := 1 + 2 + 8 })] }
def mbox (op : Nat) : Mailbox := { req := BitVec.ofNat 512 (op + 0x01000000 * 2 ^ 32 + 0x0103FFFF * 2 ^ 64), busy := true, irqEn := true }
theorem witness_HostFunctionsAndMailbox : 0 ∉ up.perst ∧ 0 ∈ ({ up with perst := [0] } : State).perst ∧ up.clocksOff = false ∧ State.reset.hmk.stage = 0 ∧ up.hmk.stage ≠ 0 ∧
    ({ up.hmk with bscanHold := true } : HmkState).bscanHold = true ∧ up.hmk.bscanHold = false ∧ up.windowsOf 1 = [] ∧ 255 < msixTable 1 ∧ 2047 < msixTable 0 ∧
    (fn1 { mbox := mbox 1 }).mboxWaits 1 1 = true ∧ (fn1 { mbox := mbox 2 }).mboxWaits 1 2 = true ∧ (fn1 { mbox := mbox 3 }).mboxWaits 1 3 = true ∧ up.mboxWaits 1 1 = false ∧
    up.chooseAbi 0x01000000 0x0103FFFF = some 0x0103FFFF ∧ up.chooseAbi 0x02000000 0x02000000 = none ∧ ((fn1 { mbox := { mbox 1 with next := some 0 } }).fn 1).mbox.next = some 0 ∧
    (mbox 1).irqEn = true ∧ (fn1 { busMaster := true, msixEnable := true, unmasked := [0] }).msixOpen 1 0 = true := by decide +kernel
def dbg0 : State := { dev5 with beads := [(0, { debug := true })], fns := [(0, { winCBase := 0x20000000000, winCLog := 40 })] }
/-- Window C of a VF reaches the regions of its windows' units only; that of the PF everything. -/
theorem witness_HostMemoryAndRegisterAccess_winc : up.clocksOff = false ∧ (1 / 33) ∉ up.perst ∧ (dev5.winC 0 0x20000 64 false) = .mem 0x20000 ∧ inReserve 0x20000 = false ∧
    dbg0.winC 0 0x100 8 false = .scratch 0 0x100 ∧ ({ dbg0 with beads := [] } : State).winC 0 0x100 8 true = .shut ∧ (fn1 {}).winC 1 0 8 true = .denied ∧
    (fn1 {}).winC 1 0x20000 8 true = .mem 0x20000 ∧ (dev5.winC 0 (2 ^ 40) 1 false) = .ur ∧ 0 < [(0 : Byte)].length := by decide +kernel
theorem witness_HostMemoryAndRegisterAccess_core : dev5.halted = false ∧ ¬ (dev5.notUp = true ∨ 0 ∈ dev5.ras.haltedCores) ∧ aliasAt 0x20000 = none ∧ (scratchAt 0x20000).isNone = true ∧
    dev5.set.cur.linesOk 0x20000 8 = true ∧ dev5.set.cur.linesIn (dev5.set.cur.coreUnits 0) 0x20000 8 = true ∧ anyReserve 0x20000 8 = false ∧
    aliasAt (0x30004000000 + 3 * 0x10000 + 0x1000) = some (3, 0x1000) ∧ dev5.set.cur.linesIn (dev5.set.cur.coreUnits 1) 0x20000 8 = false ∧ 0x20000 % 64 + 64 ≤ 64 ∧
    mfind dev5.mem.core (0x20000 / 64) = none ∧ dev5.mem.poisoned (0x20000 / 64 * 64) 64 = false ∧
    mfind ({ core := [(0x800, { bytes := List.replicate 64 1, dirty := true })] } : MemState).core (0x20000 / 64) = some { bytes := List.replicate 64 1, dirty := true } := by
  decide +kernel
theorem witness_HostMemoryAndRegisterAccess_registers : up.gate .mgmt 0x4000000 false = .ur none ∧ ({ up with dev := {} } : State).gate .mgmt 0x20000 true = .zero none ∧
    up.gate (.coreA 0) 0 true = .fault 0 ∧ up.gate .mgmt 0xA0000 false = .ok .a ∧ wordsOk 2 4 = false ∧ Space.a.cuts 0x60004 8 = true ∧ Space.a.pair 0xA0000 = none ∧
    Space.a.pair 0x60000 = some 0x60000 ∧ Space.a.pair 0x60004 = some 0x60000 ∧ isClpOp .a 0x60000 = false ∧ dev5.gate (.core 0 3) 0x2000 true = .ok (.win 3) ∧
    (fn1 {}).gate (.func 1 3) 0x2000 true = .ok (.win 3) ∧ ((fn1 {}).fn 1).abi = 0 ∧ needsAbi (.win 3) 0x2000 0 = true ∧ needsAbi (.page 1) 0 0 = false := by decide +kernel
theorem witness_HostMemoryAndRegisterAccess_halves : mfind (({ up with halves := [{ via := .mgmt, captured := [(0x60000, 7)] }] } : State).halvesOf .mgmt).captured (Space.a.key (0x60004 - 4)) = some 7 ∧
    (({ up with halves := [{ via := .mgmt, held := some (0x60000, 5) }] } : State).halvesOf .mgmt).held = some (Space.a.key 0x60000, 5) := by decide +kernel
theorem witness_ManagementPortRowsAct : up.clocksOff = false ∧ up.mgmtUp = true ∧ State.reset.mgmtUp = false ∧ (1 - 1) ∉ up.perst ∧ (1 - 1) ∈ ({ up with perst := [0] } : State).perst ∧
    up.mgt.events = [] ∧ ({ events := [3] } : MgtState).events = 3 :: [] ∧ 5 < 6 ∧ (up.conn 0).version = 0 ∧ (up.conn 0).caps = false ∧ (up.conn 0).algs = false ∧ up.mgt.rxWait = false ∧
    64 ≤ (List.replicate 64 (⟨0, false, false⟩ : UartByte)).length ∧ 25 < 26 ∧ 0x12 ≠ (up.conn 0).version ∧ up.measures 17 ≠ none ∧ up.measures 18 = none := by decide +kernel
theorem witness_ManagementPortRowsAct_connected : let c : SpdmConn := { version := 0x12, caps := true, algs := true }
    (({ up with mgt := { spdm := [(0, c)] } } : State).conn 0) = c ∧ c.version ≠ 0 ∧ ({ version := 0x12 } : SpdmReq).version = c.version ∧ ({ version := 0x13 } : SpdmReq).version ≠ c.version ∧
    ({ version := 0x12 } : SpdmReq).slot = 0 := by decide +kernel
theorem witness_JtagRowsAct : ({ up.hmk with bscanHold := true } : HmkState).bscanHold = true ∧ up.hmk.bscanHold = false ∧ up.dev.debugUnlocked = false ∧
    ({ up with dev := { ready := true, debugUnlocked := true } } : State).clocksOff = false ∧ bit (2 ^ 90) 90 = true ∧ bit 0 90 = false ∧ bit (2 ^ 91) 91 = true := by decide +kernel
theorem witness_PageSpansPseudoChannels : (0 : Nat) / 4096 = 4095 / 4096 ∧ (63 : Nat) < 64 := by decide
theorem witness_EveryRowButOneAnswersNext : Instr.thermalStep ≠ .railOutOfRange := by decide

/-! ## Worked examples of the spec -/

/-- 01_ezver_model.md: index 0x0_4A21 of generation 0x013 has the handle 0x0260_4A21. -/
theorem test_session_handle : ({ up with sessions := [(0x4A21, { gen := 0x13 })] } : State).sesHandle 0x4A21 = 0x02604A21 ∧ sesIx 0x02604A21 = 0x4A21 ∧
    sesGen 0x02604A21 = 0x13 := by decide +kernel
/-- 02_package_hierarchy.md: bead 117 and C5. -/
theorem test_bead_117 : 117 / 20 = 5 ∧ scratchAt 0x20075000000 = some (117, 0) ∧ homeDie 0x7800000000 = 5 ∧ homeDie 0x8FFFFFFFFF = 5 ∧ homeDie 0x10500000000 = 5 ∧
    claspDie 40960 = 5 ∧ claspDie 49151 = 5 ∧ claspDie 49152 = 6 ∧ (route 5 8).length = 2 := by decide +kernel
/-- 14_filigree.md: a bead on C5 reaches stack M0 by C4 and C0, and the response by C1: links 3, 6 and 0, 7. -/
theorem test_route : route 5 0 = [(3, 1), (6, 1)] ∧ route 0 5 = [(0, 0), (7, 0)] := by decide +kernel
/-- 03_setting_image.md: Pennant's REGION record. -/
theorem test_region_record : regionOf { ord := 0, type := 2, flags := 0, bytes := [0x02, 0x00, 0x28, 0x00, 0x01, 0x00, 0x00, 0x00, 0x20, 0x01, 0x00, 0x00, 0x00, 0x00, 0x00, 0x00,
      0x00, 0x00, 0x00, 0x40, 0x00, 0x00, 0x00, 0x00, 0x00, 0x00, 0x00, 0x00, 0x18, 0x00, 0x00, 0x00, 0x00, 0x00, 0x00, 0x00, 0x06, 0x00, 0x00, 0x00] } =
    { owner := 0x120, cls := .const, zero := false, ua := 0x40000000, phys := 0x1800000000, len := 0x600000000 } := by decide +kernel
/-- 03_setting_image.md: the limit of a stack under the default scrub; 13_memory.md: the same with a pseudo-channel retired. -/
theorem test_bandwidth_limits : guarLimit 24 0 = 1636351 ∧ ({ up with mem := { retired := [(2, 1)] } } : State).limitNow 0 2 = 1610783 := by decide +kernel
/-- 04_frame_timing.md: 300,000 cycles are 150 µs at 2.0 GHz. -/
theorem test_bound_time : up.boundPs 300000 = 150000000 := by decide +kernel
/-- 04_frame_timing.md, Table 4-3: tick k + 1 after a step of 80 µs opens a frame of 281.25 µs, and the edge at 330 µs leaves 48.75 µs. -/
theorem test_slew : (match exec (.frameTick 250000000) (source 2 { up with frm := { ticked := true, resid := 80000 } }) with
      | .next t => (t.frm.len, t.frm.r, t.frm.slewing, match exec (.fsyncInEdge 330000000) t with
        | .next u => u.frm.resid
        | _ => (0 : Int))
      | _ => (0, 0, false, 0)) = ((28125, 80000, true, 48750) : Nat × Int × Bool × Int) := by decide +kernel
/-- 06_arithmetic.md: the mean and variance of 1, 3, 5 and 7; the sample variance is 0x40D5_5555. -/
theorem test_mean_variance : let t := mvOf ([1, 3, 5, 7].map Fp.ofInt)
    t.n = 4 ∧ encodeFp .fp32 t.meanOut = 0x40800000 ∧ encodeFp .fp32 (t.variance .fp32 false) = 0x40A00000 ∧ encodeFp .fp32 (t.variance .fp32 true) = 0x40D55555 := by decide +kernel
/-- 06_arithmetic.md, Table 6-6: 2³² + 1 rounds to 2³² in W40, 2³² + 2 is held. -/
theorem test_w40_rounding : encodeFp .w40 (Fp.ofInt (2 ^ 32 + 1)) = encodeFp .w40 (Fp.ofInt (2 ^ 32)) ∧ encodeFp .w40 (Fp.ofInt (2 ^ 32 + 2)) = encodeFp .w40 (Fp.ofInt (2 ^ 32)) + 1 := by
  decide +kernel
/-- 07_tiling.md: slots 24 to 39 of a leaf with slots 0 to 31. -/
theorem test_slot_span : slotsOk { uid := 5, slotCount := 32 } (24, 16) = false ∧ slotsOk { uid := 5, slotCount := 32 } (16, 16) = true := by decide
/-- 08_layouts.md: descriptor table entry 5. -/
theorem test_entry_5 : entryAt 5 = 0x5F8280 := by decide
/-- 12_commands.md: the Larkspur MMA. -/
def larkspur : CmdWord := BitVec.ofNat 256 (leNat [0x20, 0x01, 0x02, 0x00, 0x00, 0xA8, 0x2D, 0x00, 0xFF, 0x01, 0x00, 0x00, 0x00, 0x01, 0x00, 0x04])
theorem test_larkspur : let j := mmaJob {} larkspur
    opcodeOf larkspur = 0x20 ∧ fieldsOk 0x20 larkspur = true ∧ j.a.entry = 1 ∧ j.w.entry = 2 ∧ j.slot = 40 ∧ j.fCode = 2 ∧ j.n = 2 ∧ j.k = 12 ∧ j.acc = 0 ∧ j.theta = none ∧
    j.kg0 = 0 ∧ j.row0 = 256 ∧ j.cb0 = 4 ∧ j.slots = (40, 8) := by decide +kernel
/-- 12_commands.md: Corvid's clasp words, in bytes 24 to 31. -/
theorem test_corvid_clasp_words : let w : CmdWord := BitVec.ofNat 256 (leNat [0x74, 0x40, 0, 0, 0x0A, 0, 0, 0x01] * 2 ^ 192)
    let e : CmdWord := BitVec.ofNat 256 (leNat [0, 0, 0x75, 0x40, 0, 0, 0x01, 0x02] * 2 ^ 192 + 1)
    waitEn w = true ∧ waitId w = 16500 ∧ waitTgt w = 10 ∧ sigEn w = false ∧ opcodeOf e = 1 ∧ sigEn e = true ∧ sigId e = 16501 ∧ sigN e = 1 := by decide +kernel

/-! ## Single steps, their results read off the spec's tables -/

def after (i : Instr) (s : State) : State :=
  match exec i s with
  | .next t => t
  | _ => State.reset
/-- R471: a counter stops at 2³² − 1 and the error flag is set. -/
theorem test_clasp_saturates : let t := after (.claspSignal (.bead 5) 3 2) { runs 0 with clasps := [(3, { counter := 0xFFFFFFFE })] }
    (t.clasp 3).counter = 0xFFFFFFFF ∧ (t.clasp 3).err = true := by decide +kernel
/-- R440: an ALLOC of one page from unit 5's pool answers a handle; the page is allocated. -/
theorem test_alloc_one_page : let t := after (.bpmAlloc .mgmt (2 ^ 32 + 5 * 2 ^ 16)) dev5
    t.bpm.allocRes.done = true ∧ t.bpm.allocRes.status = 0 ∧ (t.page (hFrame t.bpm.allocRes.handle)).state = .alloc := by decide +kernel
/-- R395: TDSET copies 128 bytes into entry 0. -/
theorem test_tdset_copies : let t := after (.tdset 5 8) (runs 8)
    ((t.bead 5).sp.readN 0x5F8000 1 = [8]) ∧ (t.bead 5).next = 1 := by decide +kernel
/-- R639: a cap of 1,199 W is out of range, 1,200 W is taken. -/
theorem test_power_cap : (after (.pwrCap .mgmt 1199) up).pwr.capReq = 3200 ∧ (after (.pwrCap .mgmt 1200) up).pwr.capReq = 1200 := by decide +kernel
/-- R505: the frame that takes a port's buffer above 1.5 MiB sends XOFF, once. -/
theorem test_xoff : (after (.ethFrameRx 0 true true false 3 { src := 9 }) { net nine with net := { (net nine).net with ports := [(0, { up := [0], rxBytes := 1572864 })] } }).out =
    [.pause 0 true] := by decide +kernel
/-- R649: a rail out of range stops the model. -/
theorem test_rail_stops : exec .railOutOfRange up = .fault .railOutOfRange := rfl
/-- No row of the table gives bits. -/
theorem test_no_table_words : decodeTableWord 32 0 = none ∧ up.withFetchWord 32 0 = up := ⟨rfl, rfl⟩

end Sys2Proof.Tests
end

section
/-! PROOF. What the operations on a clasp do with nothing stalled, and the held signals of a slice. -/

namespace Sys2Proof.Machine

/-! ## The operations that change a clasp's value -/

theorem resumeStalled_nil {s : State} (h : s.stalledOps = []) : s.resumeStalled = s := by
  unfold State.resumeStalled
  rw [h]
  rfl

/-- A clasp whose value has changed settles; with nothing stalled, no other operation resumes. -/
theorem settle_resume_takes {s u : State} {id : Nat} (hs : s.stalledOps = []) (hw : (u.clasp id).waits = (s.clasp id).waits)
    (ho : ∀ i, i ≠ id → u.clasp i = s.clasp i) (k : Kept 0x2080200800 s u) :
    ClaspTakes s ((u.settle id).resumeStalled) id (u.clasp id).counter (u.clasp id).err := by
  have hr : (u.settle id).stalledOps = [] := by
    rw [(kept_settle u id).stalledOps_eq (by decide), k.stalledOps_eq (by decide), hs]
  rw [resumeStalled_nil hr]
  exact (settle_takes u id).after hw ho k

theorem opSignal_takes {s : State} (hs : s.stalledOps = []) (id n : Nat) :
    ClaspTakes s (s.opSignal id n) id (min ((s.clasp id).counter + n) (2 ^ 32 - 1))
      ((s.clasp id).err || decide (2 ^ 32 ≤ (s.clasp id).counter + n)) := by
  obtain ⟨hc, he, hw, ho⟩ := claspAdd_clasp s id n
  have h := settle_resume_takes hs hw ho (kept_claspAdd s id n)
  rwa [hc, he] at h

/-- A change of the value of one clasp alone, then the settling. -/
theorem updClasp_takes {s : State} (hs : s.stalledOps = []) (id : Nat) (g : Clasp → Clasp)
    (hg : (g (s.clasp id)).waits = (s.clasp id).waits) :
    ClaspTakes s ((((s.updClasp id g).settle id)).resumeStalled) id (g (s.clasp id)).counter (g (s.clasp id)).err := by
  have he : (s.updClasp id g).clasp id = g (s.clasp id) := by rw [updClasp_clasp, if_pos rfl]
  have h := settle_resume_takes (u := s.updClasp id g) hs (by rw [he, hg]) (fun i hi => by rw [updClasp_clasp, if_neg hi])
    ((kept_updClasp s id g).mono (by decide))
  rwa [he] at h

theorem opReset_takes {s : State} (hs : s.stalledOps = []) (id : Nat) : ClaspTakes s (s.opReset id) id 0 false :=
  updClasp_takes hs id (fun c => { c with counter := 0, err := false }) rfl

theorem opFail_takes {s : State} (hs : s.stalledOps = []) (id : Nat) : ClaspTakes s (s.opFail id) id (s.clasp id).counter true :=
  updClasp_takes hs id (fun c => { c with err := true }) rfl

/-! ## Held signals (R394) -/

/-- The increments that a list of held signals brings to a clasp. -/
def heldSum (hs : List HeldSignal) (id : Nat) : Nat := ((hs.filter (fun h => h.clasp == id)).map (·.n)).sum

theorem heldSum_cons (h : HeldSignal) (hs : List HeldSignal) (id : Nat) :
    heldSum (h :: hs) id = (if h.clasp = id then h.n else 0) + heldSum hs id := by
  unfold heldSum
  by_cases e : h.clasp = id <;> simp [e]

/-- Insertions one after the other permute what they insert. -/
theorem foldl_insert_perm {α : Type} {f : List α → α → List α} (hf : ∀ l a, (f l a).Perm (a :: l)) (xs acc : List α) :
    (xs.foldl f acc).Perm (xs ++ acc) := by
  induction xs generalizing acc with
  | nil => exact List.Perm.refl _
  | cons a t ih => exact (ih _).trans ((List.Perm.append_left t (hf acc a)).trans List.perm_middle)

/-- The commit's order only permutes the signals. -/
theorem heldOrder_perm (hs : List HeldSignal) : (heldOrder hs).Perm hs := by
  have h := foldl_insert_perm (f := fun l (h : HeldSignal) =>
    l.takeWhile (fun x => decide (x.rank < h.rank) || (x.rank == h.rank && decide (x.idx ≤ h.idx))) ++ [h] ++
      l.dropWhile (fun x => decide (x.rank < h.rank) || (x.rank == h.rank && decide (x.idx ≤ h.idx)))) (fun l h => ?_) hs []
  · rwa [List.append_nil] at h
  · rw [List.append_assoc, List.singleton_append]
    refine List.perm_middle.trans ?_
    rw [List.takeWhile_append_dropWhile]

/-- Signals made one after the other add up, held at the largest value (R471). -/
theorem opSignals_counter (hs : List HeldSignal) {s : State} (hst : s.stalledOps = []) (id : Nat) :
    ((hs.foldl (fun s h => s.opSignal h.clasp h.n) s).clasp id).counter =
      if hs.all (fun h => h.clasp != id) = true then (s.clasp id).counter
      else min ((s.clasp id).counter + heldSum hs id) (2 ^ 32 - 1) := by
  induction hs generalizing s with
  | nil => simp
  | cons h t ih =>
    have ht := opSignal_takes hst h.clasp h.n
    rw [List.foldl_cons, ih ((ht.frame .stalledOps (by decide)).trans hst), heldSum_cons]
    by_cases e : h.clasp = id
    · subst e
      rw [ht.value.1]
      simp only [List.all_cons, bne_self_eq_false, Bool.false_and, Bool.false_eq_true, if_false, if_true]
      split
      · rename_i ha
        have : heldSum t h.clasp = 0 := by
          have : t.filter (fun x => x.clasp == h.clasp) = [] :=
            List.filter_eq_nil_iff.2 (fun x hx => by simpa using List.all_eq_true.1 ha x hx)
          simp [heldSum, this]
        omega
      · omega
    · rw [ht.others id (Ne.symm e)]
      simp [e]

theorem heldOrder_signals (hs : List HeldSignal) {s : State} (hst : s.stalledOps = []) (id : Nat) :
    (((heldOrder hs).foldl (fun s h => s.opSignal h.clasp h.n) s).clasp id).counter =
      if hs.all (fun h => h.clasp != id) = true then (s.clasp id).counter
      else min ((s.clasp id).counter + ((hs.filter (fun h => h.clasp == id)).map (·.n)).foldl (· + ·) 0) (2 ^ 32 - 1) := by
  have hp := heldOrder_perm hs
  have hsum : heldSum (heldOrder hs) id = ((hs.filter (fun h => h.clasp == id)).map (·.n)).foldl (· + ·) 0 := by
    rw [← List.sum_eq_foldl]
    exact ((hp.filter _).map _).sum_eq
  rw [opSignals_counter _ hst, hp.all_eq, hsum]

end Sys2Proof.Machine
end

section
/-! PROOF. The commit of a slice in its stages (R496), and COMMIT_POINT (O43). -/

namespace Sys2Proof.Machine

/-! ## Named parts that an operation keeps -/

theorem Kept.unitSt_eq {m : Nat} {s t : State} (k : Kept m s t) (hb : m.testBit 6 = false) (v : Nat) : t.unitSt v = s.unitSt v := by
  unfold State.unitSt
  rw [k.units_eq hb]

theorem Kept.bead_eq {m : Nat} {s t : State} (k : Kept m s t) (hb : m.testBit 5 = false) (b : Nat) : t.bead b = s.bead b := by
  unfold State.bead
  rw [k.beads_eq hb]

theorem Kept.clasp_eq {m : Nat} {s t : State} (k : Kept m s t) (hb : m.testBit 11 = false) (i : Nat) : t.clasp i = s.clasp i := by
  unfold State.clasp
  rw [k.clasps_eq hb]

theorem Kept.ses_eq {m : Nat} {s t : State} (k : Kept m s t) (hb : m.testBit 14 = false) (i : Nat) : t.ses i = s.ses i := by
  unfold State.ses
  rw [k.sessions_eq hb]

/-! ## Sessions that have left their batch -/

/-- No session joins a batch from `s` to `t`. -/
def JoinsNoBatch (s t : State) : Prop := ∀ i, (s.ses i).inBatch = false → (t.ses i).inBatch = false

theorem JoinsNoBatch.of {s t : State} (h : t.sessions = s.sessions) : JoinsNoBatch s t :=
  fun i hi => by unfold State.ses at *; rwa [h]

theorem JoinsNoBatch.trans {s t u : State} (h : JoinsNoBatch s t) (g : JoinsNoBatch t u) : JoinsNoBatch s u :=
  fun i hi => g i (h i hi)

theorem JoinsNoBatch.foldl {α : Type} (l : List α) {f : State → α → State} (h : ∀ s a, JoinsNoBatch s (f s a)) (s : State) :
    JoinsNoBatch s (l.foldl f s) := by
  induction l generalizing s with
  | nil => exact fun _ hi => hi
  | cons a t ih => exact (h s a).trans (ih _)

theorem JoinsNoBatch.updSes (s : State) (i : Nat) {f : Session → Session} (hf : ∀ x, x.inBatch = false → (f x).inBatch = false) :
    JoinsNoBatch s (s.updSes i f) := by
  intro j hj
  rw [updSes_ses]
  split
  · rename_i e; subst e; exact hf _ hj
  · exact hj

theorem applyEntry_joinsNoBatch (s : State) (i e : Nat) : JoinsNoBatch s (s.applyEntry i e) := by
  have drop : ∀ h, JoinsNoBatch s (s.dropObj h) := fun h => .of ((kept_dropObj s h).sessions_eq (by decide))
  unfold State.applyEntry
  dsimp only
  split
  · split
    · exact .updSes _ _ fun _ h => h
    · exact (JoinsNoBatch.of ((kept_appendObj s _ _).sessions_eq (by decide))).trans (.updSes _ _ fun _ h => h)
  · split
    · exact .updSes _ _ fun _ h => h
    · exact (drop _).trans (.updSes _ _ fun _ h => h)
  · split
    · exact .updSes _ _ fun _ h => h
    · exact (drop _).trans (.updSes _ _ fun _ h => h)

/-- Session `i` has left its batch, and none has joined one. -/
def LeavesBatch (i : Nat) (s t : State) : Prop := JoinsNoBatch s t ∧ (t.ses i).inBatch = false

theorem LeavesBatch.updSes (s : State) (i : Nat) {f : Session → Session} (hf : ∀ x, (f x).inBatch = false) : LeavesBatch i s (s.updSes i f) :=
  ⟨.updSes _ _ fun _ _ => hf _, by rw [updSes_ses, if_pos rfl]; exact hf _⟩

theorem LeavesBatch.ite {c : Prop} [Decidable c] {i : Nat} {s : State} {a b : LaneAcc} (ha : LeavesBatch i s a.s) (hb : LeavesBatch i s b.s) :
    LeavesBatch i s (if c then a else b).s := by
  split <;> assumption

theorem lane_leavesBatch (a : LaneAcc) (uid : Nat) (sl : Slice) (b : Batch) (j : Nat) (l : Lane) :
    LeavesBatch l.index a.s (a.lane uid sl b j l).s := by
  have done : ∀ s : State, _ := fun s =>
    LeavesBatch.updSes s l.index (f := fun e => { e with inBatch := false, doneSeq := l.req.reqSeq }) fun _ => rfl
  have stamp : ∀ s : State, _ := fun s => JoinsNoBatch.updSes s l.index
    (f := fun e => { e with lastFrame := a.s.frm.count, lastAt := a.s.frm.tickAt }) fun _ h => h
  have applied : ∀ es, _ := fun es => JoinsNoBatch.foldl es (fun s e => applyEntry_joinsNoBatch s l.index e) a.s
  unfold LaneAcc.lane
  dsimp only
  refine .ite (done _) (.ite (done _) (.ite (done _) ?_))
  exact ⟨((applied _).trans (done _).1).trans (stamp _), stamp _ _ (done _).2⟩

theorem lanesFold_leavesBatch (uid : Nat) (sl : Slice) (b : Batch) (ps : List (Nat × Lane)) (a : LaneAcc) :
    JoinsNoBatch a.s (ps.foldl (fun a p => a.lane uid sl b p.1 p.2) a).s ∧
    ∀ l, l ∈ ps.map (·.2) → ((ps.foldl (fun a p => a.lane uid sl b p.1 p.2) a).s.ses l.index).inBatch = false := by
  induction ps generalizing a with
  | nil => exact ⟨fun _ h => h, fun _ h => by cases h⟩
  | cons p t ih =>
    obtain ⟨keep, out⟩ := ih (a.lane uid sl b p.1 p.2)
    obtain ⟨k1, o1⟩ := lane_leavesBatch a uid sl b p.1 p.2
    refine ⟨k1.trans keep, fun l hl => ?_⟩
    rcases List.mem_cons.1 hl with rfl | ht
    · exact keep _ o1
    · exact out l ht

/-- The sessions of a batch have left it once its lanes are settled (R496). -/
theorem lanes_leaveBatch (a : LaneAcc) (uid : Nat) (sl : Slice) (b : Batch) (l : Lane) (hl : l ∈ b.lanes) :
    ((a.lanes uid sl b).s.ses l.index).inBatch = false := by
  refine (lanesFold_leavesBatch uid sl b _ a).2 l ?_
  rwa [List.map_snd_zip (by simp)]

theorem closeNow_joinsNoBatch (s : State) (i status tag : Nat) : JoinsNoBatch s (s.closeNow i status tag) := by
  unfold State.closeNow
  dsimp only
  generalize hq : List.foldl _ s (s.ses i).queue = s1
  have h1 : JoinsNoBatch s s1 := hq ▸ .foldl _ (fun s r =>
    (JoinsNoBatch.of ((kept_reply ..).sessions_eq (by decide))).trans (.of ((kept_dropObj ..).sessions_eq (by decide)))) s
  generalize hd : List.foldl _ s1 (s.ses i).slots = s2
  have h2 : JoinsNoBatch s1 s2 := hd ▸ .foldl _ (fun s p => .of ((kept_dropObj ..).sessions_eq (by decide))) s1
  refine ((h1.trans h2).trans ?_).trans (.of ((kept_reply ..).sessions_eq (by decide)))
  exact (LeavesBatch.updSes s2 i (f := fun e => { e with state := .free, inBatch := false, closePending := false, slots := [], queue := [] }) fun _ => rfl).1

/-! ## The stages of a commit (R496) -/

/-- The leaf has nothing to run. -/
def Bead.idled (x : Bead) : Bead := { x with phase := .idle }

theorem idleLeaves (bs : List Nat) (s : State) (c : Nat) :
    (c ∈ bs ∨ (s.bead c).phase = .idle → ((bs.foldl (fun s b => s.updBead b Bead.idled) s).bead c).phase = .idle) := by
  induction bs generalizing s with
  | nil => exact fun h => h.resolve_left (by simp)
  | cons a t ih =>
    refine fun h => ih (s.updBead a Bead.idled) (or_iff_not_imp_left.2 fun hc => ?_)
    rw [updBead_bead]
    split
    · rfl
    · rename_i hn
      exact h.resolve_left (by simp [hn, hc])

/-- SLIP after the commit of a slice: 0 at a member of a federation but rank 0 (R173). -/
def State.commitSlip (s : State) (uid : Nat) (sl : Slice) : Nat :=
  if (s.set.cur.fedOf uid).any (fun f => f.rank != 0) then 0 else sl.slipAfter

/-- The lanes of the slice's batch, settled. -/
def State.settledLanes (s : State) (uid : Nat) (sl : Slice) : LaneAcc :=
  match sl.batch with
  | none => { s }
  | some b => ({ s } : LaneAcc).lanes uid sl b

/-- The session effects of a commit, with the slice's objects. -/
def State.commitEffects (s : State) (uid : Nat) (sl : Slice) : State :=
  let a := s.settledLanes uid sl
  match sl.batch with
  | none => a.s
  | some b => a.s.sweep uid sl b a.applied

/-- The commit up to its completion record. -/
def State.commitRecord (s : State) (uid : Nat) (sl : Slice) : State :=
  (s.commitEffects uid sl).writeCompl uid sl outCommitted ((sl.endAt - sl.startAt) / 1000) (s.commitSlip uid sl / 1000)
    (s.settledLanes uid sl).poisoned

/-- The held signals of a commit. -/
def State.makeHeld (s : State) (sl : Slice) : State := (heldOrder sl.heldSignals).foldl (fun s h => s.opSignal h.clasp h.n) s

/-- The unit's part of a commit: idle leaves, nothing open, no slice. -/
def State.freeUnit (s : State) (uid : Nat) (sl : Slice) (slip : Nat) : State :=
  (((sl.beads.foldl (fun s b => s.updBead b Bead.idled) s).discardOpen sl).traceFrame 4 uid).updUnit uid
    (fun u => { u with slice := none, slip })

/-- The answers and the closes of a commit. -/
def State.answerLanes (s : State) (rs : List (ReplyTo × SesMsg)) (ls : List Lane) : State :=
  ls.foldl (fun s l =>
    let e := s.ses l.index
    if e.closePending && s.sesHandle l.index == l.handle then s.closeNow l.index e.closeStatus e.closeTag else s)
    (rs.foldl (fun s r => s.reply r.1 r.2) s)

theorem commitNow_eq {s : State} {uid : Nat} {sl : Slice} (h : (s.unitSt uid).slice = some sl) :
    s.commitNow uid = (((s.commitRecord uid sl).makeHeld sl).freeUnit uid sl (s.commitSlip uid sl)).answerLanes
      (s.settledLanes uid sl).replies ((sl.batch.map (·.lanes)).getD []) := by
  unfold State.commitNow State.commitRecord State.commitEffects State.settledLanes
  rw [h]
  dsimp only
  cases sl.batch <;> rfl

theorem commitRecord_spec (s : State) (uid : Nat) (sl : Slice) : Kept 0x100064000 s (s.commitRecord uid sl) ∧
    ∀ b l, sl.batch = some b → l ∈ b.lanes → ((s.commitRecord uid sl).ses l.index).inBatch = false := by
  have kw : Kept 0x100020000 (s.commitEffects uid sl) (s.commitRecord uid sl) := kept_writeCompl ..
  have he : Kept 0x44000 s (s.commitEffects uid sl) ∧
      ∀ b l, sl.batch = some b → l ∈ b.lanes → ((s.commitEffects uid sl).ses l.index).inBatch = false := by
    unfold State.commitEffects State.settledLanes
    cases sl.batch with
    | none => exact ⟨Kept.refl _ s, fun b l e => by cases e⟩
    | some b =>
      have ks : Kept 0x40000 (({ s } : LaneAcc).lanes uid sl b).s _ := kept_sweep _ uid sl b (({ s } : LaneAcc).lanes uid sl b).applied
      refine ⟨(kept_lanes { s } uid sl b).trans (ks.mono (by decide)), fun b' l e hl => ?_⟩
      cases e
      exact (congrArg Session.inBatch (ks.ses_eq (by decide) _)).trans (lanes_leaveBatch { s } uid sl b l hl)
  refine ⟨(he.1.mono (by decide)).trans (kw.mono (by decide)), fun b l hb hl => ?_⟩
  rw [kw.ses_eq (by decide)]
  exact he.2 b l hb hl

theorem kept_makeHeld (s : State) (sl : Slice) : Kept 0x20c0722822 s (s.makeHeld sl) :=
  Kept.foldl (fun s h => kept_opSignal s h.clasp h.n) (Kept.refl _ s)

theorem answerLanes_spec (s : State) (rs : List (ReplyTo × SesMsg)) (ls : List Lane) :
    Kept 0x214074c002 s (s.answerLanes rs ls) ∧ JoinsNoBatch s (s.answerLanes rs ls) := by
  have kr : Kept 0x2140700002 s (rs.foldl (fun s r => s.reply r.1 r.2) s) := Kept.foldl (fun s r => kept_reply s r.1 r.2) (Kept.refl _ s)
  refine ⟨Kept.foldl (fun s l => ?_) (kr.mono (by decide)), (JoinsNoBatch.of (kr.sessions_eq (by decide))).trans (.foldl ls (fun s l => ?_) _)⟩
  · exact Kept.ite (kept_closeNow ..) (Kept.refl _ _)
  · dsimp only
    split
    · exact closeNow_joinsNoBatch _ _ _ _
    · exact fun _ hi => hi

/-! ## What a commit leaves -/

theorem kept_idleLeaves (bs : List Nat) (s : State) : Kept 0x20 s (bs.foldl (fun s b => s.updBead b Bead.idled) s) :=
  Kept.foldl (fun s b => kept_updBead s b Bead.idled) (Kept.refl _ s)

/-- The unit's part of a commit. -/
theorem freeUnit_spec (s : State) (uid : Nat) (sl : Slice) (slip : Nat) : let t := s.freeUnit uid sl slip
    Kept 0x200006e0 s t ∧ t.unitSt uid = { s.unitSt uid with slice := none, slip } ∧ (∀ v, v ≠ uid → t.unitSt v = s.unitSt v) ∧
    (∀ b, b ∈ sl.beads → (t.bead b).phase = .idle) ∧ (∀ x, x ∈ t.merges → x.slice ≠ sl.serial) ∧ (∀ x, x ∈ t.colls → x.slice ≠ sl.serial) := by
  unfold State.freeUnit
  generalize hi : sl.beads.foldl (fun s b => s.updBead b Bead.idled) s = s1
  have ki : Kept 0x20 s s1 := hi ▸ kept_idleLeaves ..
  have kd := kept_discardOpen s1 sl
  have kt := kept_traceFrame (s1.discardOpen sl) 4 uid
  have hu : ∀ v, ((s1.discardOpen sl).traceFrame 4 uid).unitSt v = s.unitSt v := fun v => by
    rw [kt.unitSt_eq (by decide), kd.unitSt_eq (by decide), ki.unitSt_eq (by decide)]
  refine ⟨(((ki.mono (by decide)).trans (kd.mono (by decide))).trans (kt.mono (by decide))).trans ((kept_updUnit ..).mono (by decide)),
    by rw [updUnit_unitSt, if_pos rfl, hu], fun v hv => by rw [updUnit_unitSt, if_neg hv, hu], fun b hb => ?_, fun x hx => ?_, fun x hx => ?_⟩
  · show (((s1.discardOpen sl).traceFrame 4 uid).bead b).phase = .idle
    rw [kt.bead_eq (by decide), kd.bead_eq (by decide), ← hi]
    exact idleLeaves _ _ _ (.inl hb)
  · rw [updUnit_merges, kt.merges_eq (by decide)] at hx
    simpa using (List.mem_filter.1 hx).2
  · rw [updUnit_colls, kt.colls_eq (by decide)] at hx
    simpa using (List.mem_filter.1 hx).2

/-- A commit ends the slice of its unit. -/
theorem commitNow_unit {s : State} {uid : Nat} {sl : Slice} (h : (s.unitSt uid).slice = some sl) : let t := s.commitNow uid
    t.unitSt uid = { s.unitSt uid with slice := none, slip := s.commitSlip uid sl } ∧ (∀ v, v ≠ uid → t.unitSt v = s.unitSt v) ∧
    (∀ b, b ∈ sl.beads → (t.bead b).phase = .idle) ∧ (∀ x, x ∈ t.merges → x.slice ≠ sl.serial) ∧ (∀ x, x ∈ t.colls → x.slice ≠ sl.serial) := by
  rw [commitNow_eq h]
  have ka := (answerLanes_spec (((s.commitRecord uid sl).makeHeld sl).freeUnit uid sl (s.commitSlip uid sl)) (s.settledLanes uid sl).replies
    ((sl.batch.map (·.lanes)).getD [])).1
  obtain ⟨-, hu, ho, hi, hm, hc⟩ := freeUnit_spec ((s.commitRecord uid sl).makeHeld sl) uid sl (s.commitSlip uid sl)
  have e : ∀ v, ((s.commitRecord uid sl).makeHeld sl).unitSt v = s.unitSt v := fun v => by
    rw [(kept_makeHeld ..).unitSt_eq (by decide), (commitRecord_spec s uid sl).1.unitSt_eq (by decide)]
  refine ⟨?_, fun v hv => ?_, fun b hb => ?_, fun x hx => ?_, fun x hx => ?_⟩
  · rw [ka.unitSt_eq (by decide), hu, e]
  · rw [ka.unitSt_eq (by decide), ho v hv, e]
  · rw [ka.bead_eq (by decide)]
    exact hi b hb
  · exact hm x (by rwa [ka.merges_eq (by decide)] at hx)
  · exact hc x (by rwa [ka.colls_eq (by decide)] at hx)

/-- A commit makes the held signals, and no other change of a counter (R394). -/
theorem commitNow_clasp {s : State} {uid : Nat} {sl : Slice} (h : (s.unitSt uid).slice = some sl) (hst : s.stalledOps = []) (id : Nat) :
    ((s.commitNow uid).clasp id).counter = if sl.heldSignals.all (fun h => h.clasp != id) = true then (s.clasp id).counter
      else min ((s.clasp id).counter + ((sl.heldSignals.filter (fun h => h.clasp == id)).map (·.n)).foldl (· + ·) 0) (2 ^ 32 - 1) := by
  have k1 := (commitRecord_spec s uid sl).1
  rw [commitNow_eq h, (answerLanes_spec ..).1.clasp_eq (by decide), (freeUnit_spec ..).1.clasp_eq (by decide), State.makeHeld,
    heldOrder_signals _ ((k1.stalledOps_eq (by decide)).trans hst), k1.clasp_eq (by decide)]

/-- A commit lets every session of the batch go. -/
theorem commitNow_batch {s : State} {uid : Nat} {sl : Slice} (h : (s.unitSt uid).slice = some sl) {b : Batch} {l : Lane}
    (hb : sl.batch = some b) (hl : l ∈ b.lanes) : ((s.commitNow uid).ses l.index).inBatch = false := by
  rw [commitNow_eq h]
  refine (answerLanes_spec ..).2 _ ?_
  rw [(freeUnit_spec ..).1.ses_eq (by decide), (kept_makeHeld ..).ses_eq (by decide)]
  exact (commitRecord_spec s uid sl).2 b l hb hl

/-! ## COMMIT_POINT -/

theorem exec_commitPoint_idle {s : State} (h : s.halted = false) {uid : Nat} (m : Nat)
    (hn : ∀ sl, (s.unitSt uid).slice = some sl → sl.phase ≠ .committing) : exec (.commitPoint uid m) s = .next (s.at m) := by
  refine (unlessDown_of_running h _).trans (congrArg _ ?_)
  have hn : ∀ sl, ((s.at m).unitSt uid).slice = some sl → sl.phase ≠ .committing := hn
  split
  · rename_i sl hs
    exact if_neg (hn sl hs)
  · rfl

theorem exec_commitPoint_committing {s : State} (h : s.halted = false) {uid : Nat} (m : Nat) {sl : Slice} (hs : (s.unitSt uid).slice = some sl)
    (hp : sl.phase = .committing) : exec (.commitPoint uid m) s = .next ((s.at m).commitNow uid) := by
  refine (unlessDown_of_running h _).trans (congrArg _ ?_)
  have hs : ((s.at m).unitSt uid).slice = some sl := hs
  rw [hs]
  exact if_pos hp

/-- Settles O43, by the stages of a commit: each stage's facts survive the later ones, which touch other parts. -/
theorem commitPointSettlesSlice : Obligations.CommitPointSettlesSlice := by
  unfold Obligations.CommitPointSettlesSlice
  intro uid m s hrun hst
  refine ⟨exec_commitPoint_idle hrun m, fun sl hs hp => ?_⟩
  have hs' : ((s.at m).unitSt uid).slice = some sl := hs
  have hex := exec_commitPoint_committing hrun m hs hp
  obtain ⟨hu, ho, hi, hm, hc⟩ := commitNow_unit hs'
  refine ⟨_, hex, (kept_execCommitPoint uid m s _ hex).sameBut _ (by intro p; cases p <;> decide), by rw [hu], ?_,
    fun v hv => congrArg UnitSt.slice (ho v hv), hi, hm, hc, fun b l hb hl => commitNow_batch hs' hb hl, commitNow_clasp hs' hst⟩
  rw [hu]
  show (s.at m).commitSlip uid sl = _
  unfold State.commitSlip Slice.slipAfter
  rw [at_set]
  by_cases hf : (s.set.cur.fedOf uid).any (fun f => f.rank != 0) = true <;> simp [hf]

end Sys2Proof.Machine
end

section
/-! PROOF. Clasp operations that cross packages (R484, R485, R523). -/

namespace Sys2Proof.Machine

/-! ## Operations of a remote package, with and without the right -/

section
variable {s : State} {p tag id n : Nat}

theorem doSignal_refused (h : s.mayClasp (.remote p tag) id 0 = false) :
    s.doSignal (.remote p tag) id n = s.tell p 2 [tag, St.clpNotGranted, 0] := by
  unfold State.doSignal
  rw [h]
  rfl

theorem doSignal_granted (h : s.mayClasp (.remote p tag) id 0 = true) :
    s.doSignal (.remote p tag) id n = (s.opSignal id n).tell p 2 [tag, 0, ((s.opSignal id n).clasp id).counter] := if_pos h

theorem doReset_refused (h : s.mayClasp (.remote p tag) id 3 = false) :
    s.doReset (.remote p tag) id = s.tell p 2 [tag, St.clpNotGranted, 0] := by
  unfold State.doReset
  rw [h]
  rfl

theorem doReset_granted (h : s.mayClasp (.remote p tag) id 3 = true) :
    s.doReset (.remote p tag) id = (s.opReset id).tell p 2 [tag, 0, ((s.opReset id).clasp id).counter] := if_pos h

theorem doFail_refused (h : s.mayClasp (.remote p tag) id 0 = false) :
    s.doFail (.remote p tag) id = s.tell p 2 [tag, St.clpNotGranted, 0] := by
  unfold State.doFail
  rw [h]
  rfl

theorem doFail_granted (h : s.mayClasp (.remote p tag) id 0 = true) :
    s.doFail (.remote p tag) id = (s.opFail id).tell p 2 [tag, 0, ((s.opFail id).clasp id).counter] := if_pos h

theorem doWait_refused (h : s.mayClasp (.remote p tag) id 1 = false) :
    s.doWait (.remote p tag) id n = s.tell p 2 [tag, St.clpNotGranted, 0] := by
  show (if s.mayClasp (.remote p tag) id 1 then _ else _) = _
  rw [h]
  rfl

theorem doWait_granted (h : s.mayClasp (.remote p tag) id 1 = true) :
    s.doWait (.remote p tag) id n = s.postWait (.remote p tag) id n := if_pos h

theorem doArrive_refused (h : s.mayClasp (.remote p tag) id 2 = false) :
    s.doArrive (.remote p tag) id n = s.tell p 2 [tag, St.clpNotGranted, 0] := by
  show (if s.mayClasp (.remote p tag) id 2 then _ else _) = _
  rw [h]
  rfl

theorem doArrive_granted (h : s.mayClasp (.remote p tag) id 2 = true) :
    s.doArrive (.remote p tag) id n = s.opArrive (.remote p tag) id n := if_pos h

end

/-! ## Waits -/

theorem postWait_pending {s : State} (who : Waiter) {id t : Nat} (he : (s.clasp id).err = false) (hc : (s.clasp id).counter < t) :
    s.postWait who id t = { s with clasps := mput s.clasps id { s.clasp id with waits := (s.clasp id).waits ++ [{ who, target := t }] } } := by
  unfold State.postWait
  have hm : (s.clasp id).meets t = false := by simp [Clasp.meets, he, hc]
  dsimp only
  rw [hm]
  rfl

theorem postWait_complete {s : State} (who : Waiter) {id t : Nat} (h : (s.clasp id).err = true ∨ t ≤ (s.clasp id).counter) :
    s.postWait who id t = s.completeWait id who (s.clasp id).counter (s.clasp id).err := by
  unfold State.postWait
  exact if_pos (by simpa [Clasp.meets] using h)

/-- A wait changes no counter. -/
theorem postWait_counter (s : State) (who : Waiter) (id t i : Nat) : ((s.postWait who id t).clasp i).counter = (s.clasp i).counter := by
  unfold State.postWait
  dsimp only
  split
  · rw [(kept_completeWait ..).clasp_eq (by decide)]
  · rw [updClasp_clasp]
    split
    · rename_i e
      rw [e]
    · rfl

/-- ARRIVE counts one and touches the clasp's parts alone (R472). -/
theorem opArrive_counts {s : State} (hs : s.stalledOps = []) (who : Waiter) (id t : Nat) :
    SameBut claspParts s (s.opArrive who id t) ∧ ((s.opArrive who id t).clasp id).counter = min ((s.clasp id).counter + 1) (2 ^ 32 - 1) := by
  have ka := kept_arriveCore s who id t
  unfold State.opArrive
  rw [resumeStalled_nil ((ka.stalledOps_eq (by decide)).trans hs)]
  refine ⟨ka.sameBut _ (by intro p; cases p <;> decide), ?_⟩
  unfold State.arriveCore
  rw [postWait_counter, (settle_takes _ id).value.1, (claspAdd_clasp s id 1).1]

/-! ## CLASP_OP (R484) -/

/-- A well-formed word of a peer in a federation that has formed. -/
def State.remoteGood (s : State) (peer fu op : Nat) : Prop :=
  clpWordBad op = false ∧ (s.fed fu).formed = true ∧ (s.set.cur.peerFeds peer).any (·.fedUid == fu) = true

section
variable {s : State} {peer fu clasp op tag : Nat}

theorem remoteOp_bad (h : ¬ s.remoteGood peer fu op) :
    s.remoteOp peer fu clasp op tag = s.tell peer 2 [tag, St.clpNotGranted, 0] := by
  unfold State.remoteOp
  refine if_pos ?_
  unfold State.remoteGood at h
  cases hw : clpWordBad op <;> cases hf : (s.fed fu).formed <;> simp_all

theorem remoteOp_good (h : s.remoteGood peer fu op) : s.remoteOp peer fu clasp op tag =
    (let full := s.mayClasp (.remote peer tag) clasp (bits op 18 16) && decide (4096 ≤ s.hostWaits (claspDie clasp))
     let stall : State := { s with stalledOps := s.stalledOps ++ [(.remote peer tag, op / 65536 * 65536 + clasp)] }
     if bits op 18 16 = 0 then s.doSignal (.remote peer tag) clasp (bits op 63 32)
     else if bits op 18 16 = 1 then if full then stall else s.doWait (.remote peer tag) clasp (bits op 63 32)
     else if bits op 18 16 = 2 then if full then stall else s.doArrive (.remote peer tag) clasp (bits op 63 32)
     else if bits op 18 16 = 3 then s.doReset (.remote peer tag) clasp
     else s.doFail (.remote peer tag) clasp) := by
  obtain ⟨hw, hf, hp⟩ := h
  unfold State.remoteOp
  dsimp only
  rw [hw, hf, hp]
  generalize bits op 18 16 = o
  rcases o with _ | _ | _ | _ | o <;> rfl

theorem op_le_of_good (h : s.remoteGood peer fu op) : bits op 18 16 ≤ 4 := by
  have := h.1
  simp [clpWordBad] at this
  omega

/-- Without the right the operation is refused (R523); FAIL takes the SIGNAL right. -/
theorem remoteOp_refused (h : s.remoteGood peer fu op)
    (hr : s.mayClasp (.remote peer tag) clasp (if bits op 18 16 = 4 then 0 else bits op 18 16) = false) :
    s.remoteOp peer fu clasp op tag = s.tell peer 2 [tag, St.clpNotGranted, 0] := by
  have hle := op_le_of_good h
  rw [remoteOp_good h]
  generalize bits op 18 16 = o at *
  obtain rfl | rfl | rfl | rfl | rfl : o = 0 ∨ o = 1 ∨ o = 2 ∨ o = 3 ∨ o = 4 := by omega
  · exact doSignal_refused hr
  · simpa [show s.mayClasp (.remote peer tag) clasp 1 = false from hr] using doWait_refused hr
  · simpa [show s.mayClasp (.remote peer tag) clasp 2 = false from hr] using doArrive_refused hr
  · exact doReset_refused hr
  · exact doFail_refused hr

theorem exec_claspOp (h : s.halted = false) (rank : Nat) :
    exec (.claspOp peer fu clasp op tag rank) s = .next (s.remoteOp peer fu clasp op tag) := unlessDown_of_running h _

section
variable (h : s.remoteGood peer fu op)
include h

theorem remoteOp_signal (ho : bits op 18 16 = 0) (hr : s.mayClasp (.remote peer tag) clasp 0 = true) : s.remoteOp peer fu clasp op tag =
    (s.opSignal clasp (bits op 63 32)).tell peer 2 [tag, 0, ((s.opSignal clasp (bits op 63 32)).clasp clasp).counter] := by
  rw [remoteOp_good h, ho]
  exact doSignal_granted hr

theorem remoteOp_reset (ho : bits op 18 16 = 3) (hr : s.mayClasp (.remote peer tag) clasp 3 = true) : s.remoteOp peer fu clasp op tag =
    (s.opReset clasp).tell peer 2 [tag, 0, ((s.opReset clasp).clasp clasp).counter] := by
  rw [remoteOp_good h, ho]
  exact doReset_granted hr

theorem remoteOp_fail (ho : bits op 18 16 = 4) (hr : s.mayClasp (.remote peer tag) clasp 0 = true) : s.remoteOp peer fu clasp op tag =
    (s.opFail clasp).tell peer 2 [tag, 0, ((s.opFail clasp).clasp clasp).counter] := by
  rw [remoteOp_good h, ho]
  exact doFail_granted hr

/-- A wait stalls while the clasp unit is full (R480). -/
theorem remoteOp_stalls (ho : bits op 18 16 = 1 ∨ bits op 18 16 = 2) (hr : s.mayClasp (.remote peer tag) clasp (bits op 18 16) = true)
    (hf : 4096 ≤ s.hostWaits (claspDie clasp)) : s.remoteOp peer fu clasp op tag =
      { s with stalledOps := s.stalledOps ++ [(.remote peer tag, op / 65536 * 65536 + clasp)] } := by
  rw [remoteOp_good h]
  rcases ho with ho | ho <;> rw [ho] at hr ⊢ <;> simp [hr, hf]

theorem remoteOp_wait (ho : bits op 18 16 = 1) (hr : s.mayClasp (.remote peer tag) clasp 1 = true)
    (hf : s.hostWaits (claspDie clasp) < 4096) : s.remoteOp peer fu clasp op tag = s.postWait (.remote peer tag) clasp (bits op 63 32) := by
  rw [remoteOp_good h, ho]
  simpa [Nat.not_le.2 hf] using doWait_granted hr

theorem remoteOp_arrive (ho : bits op 18 16 = 2) (hr : s.mayClasp (.remote peer tag) clasp 2 = true)
    (hf : s.hostWaits (claspDie clasp) < 4096) : s.remoteOp peer fu clasp op tag = s.opArrive (.remote peer tag) clasp (bits op 63 32) := by
  rw [remoteOp_good h, ho]
  simpa [Nat.not_le.2 hf] using doArrive_granted hr

end

end

/-! ## CLASP_DONE (R523) -/

theorem exec_claspDone {s : State} (h : s.halted = false) (peer tag status k : Nat) :
    exec (.claspDone peer tag status k) s = .next (s.remoteDone peer tag status) := unlessDown_of_running h _

theorem remoteDone_none {s : State} {peer tag : Nat} (h : s.net.remoteOps.find? (fun o => o.tag == tag && o.peer == peer) = none)
    (status : Nat) : s.remoteDone peer tag status = s := by
  unfold State.remoteDone
  rw [h]

/-- The operation ends, and the bead that waits for it wakes. -/
theorem remoteDone_some {s : State} {peer tag : Nat} {o : RemoteOp}
    (h : s.net.remoteOps.find? (fun o => o.tag == tag && o.peer == peer) = some o) (status : Nat) :
    let t := s.remoteDone peer tag status
    t.net = { s.net with remoteOps := s.net.remoteOps.filter (· != o) } ∧
    (∀ b, o.bead = some b → t.bead b = { s.bead b with wake := some (status != 0) }) ∧ (o.bead = none → t.beads = s.beads) := by
  unfold State.remoteDone
  rw [h]
  dsimp only
  cases o.bead with
  | none =>
    refine ⟨rfl, ?_, fun _ => rfl⟩
    rintro b ⟨⟩
  | some b =>
    refine ⟨rfl, ?_, by rintro ⟨⟩⟩
    rintro c ⟨⟩
    exact (updBead_bead ..).trans (if_pos rfl)

end Sys2Proof.Machine
end

section
/-! PROOF. Federations: formation, start and decision (R535 to R540), and O51. -/

namespace Sys2Proof.Machine

/-! ## Federation records and their states -/

theorem fed?_uid {t : Setting} {fu : Nat} {f : FedRec} (h : t.fed? fu = some f) : f.fedUid = fu := by
  simpa using List.find?_some h

theorem updFed_fed (s : State) (fu : Nat) (g : Fed → Fed) : (s.updFed fu g).fed fu = g (s.fed fu) := mget_mput_same ..

/-! ## Messages keep the federations' states -/

theorem updPeer_feds (s : State) (p : Nat) (g : Peer → Peer) : (s.updPeer p g).net.feds = s.net.feds := by
  unfold State.updPeer
  split <;> rfl

theorem putSeg_feds (s : State) (p k : Nat) (g : Segment) : (s.putSeg p k g).net.feds = s.net.feds := by
  unfold State.putSeg
  split
  · rfl
  · exact updPeer_feds ..

theorem pumpVcF_feds (n : Nat) (s : State) (p v : Nat) : (s.pumpVcF n p v).net.feds = s.net.feds := by
  induction n generalizing s with
  | zero => rfl
  | succ n ih =>
    unfold State.pumpVcF
    split
    · rfl
    split
    · rfl
    split
    · rfl
    split
    · rfl
    · rename_i x _ _ _ _ _ _ _ k s' hk
      have kp : Kept 0x2 s s' := Kept.snd_eq hk (kept_pickPath s x)
      rw [ih, putSeg_feds, updPeer_feds, kp.net_eq (by decide)]

theorem pumpPeer_feds (s : State) (p : Nat) : (s.pumpPeer p).net.feds = s.net.feds := by
  unfold State.pumpPeer
  generalize List.range 4 = vs
  induction vs generalizing s with
  | nil => rfl
  | cons v t ih => exact (ih _).trans (pumpVcF_feds ..)

theorem reach_feds (s : State) (p : Nat) : (s.reach p).net.feds = s.net.feds := by
  have hello : ∀ u : State, (match u.upPaths with
      | [] => u
      | k :: _ => (u.updPeer p (fun x => { x with helloSent := true })).putCtl p k 2 0 (u.helloBytes 0)).net.feds = u.net.feds := by
    intro u
    split
    · rfl
    · exact updPeer_feds ..
  unfold State.reach
  dsimp only
  split
  · split
    · rfl
    · exact hello s
  split
  · rfl
  split
  · exact congrArg NetState.feds ((kept_raiseG ..).net_eq (by decide))
  · exact hello _

theorem tell_feds (s : State) (p kind : Nat) (fs : List Nat) : (s.tell p kind fs).net.feds = s.net.feds := by
  unfold State.tell State.netSend
  rw [pumpPeer_feds, updPeer_feds, reach_feds]

theorem tellFed_fed (s : State) (f : FedRec) (kind : Nat) (fs : List Nat) (fu : Nat) : (s.tellFed f kind fs).fed fu = s.fed fu := by
  unfold State.tellFed State.fed
  generalize f.others = ps
  induction ps generalizing s with
  | nil => rfl
  | cons p t ih => rw [List.foldl_cons, ih, tell_feds]

/-! ## Failures around which messages and records go out -/

/-- Messages, records and federation states before a failure. -/
theorem SliceFails.kept_before {s t u : State} {uid : Nat} {sl : Slice} (k : Kept 0x20c0300002 s t) (h : SliceFails t u uid sl) :
    SliceFails s u uid sl :=
  .before (.of (k.beads_eq (by decide)) (k.clasps_eq (by decide))) (k.sameBut _ (by intro p; cases p <;> decide)) rfl rfl
    (fun v _ => by rw [k.unitSt_eq (by decide)]) h

/-- Messages, records and federation states after a failure. -/
theorem SliceFails.kept_after {s t u : State} {uid : Nat} {sl : Slice} (h : SliceFails s t uid sl) (k : Kept 0x20c0300002 t u) :
    SliceFails s u uid sl :=
  h.then (.of (k.beads_eq (by decide)) (k.clasps_eq (by decide))) (k.sameBut _ (by intro p; cases p <;> decide))
    (fun v => by rw [k.unitSt_eq (by decide)]) (by rw [k.unitSt_eq (by decide)])

/-- A failure for a fault of no command and no leaf. -/
theorem failLoose_fails {s : State} {uid : Nat} {sl : Slice} (h : (s.unitSt uid).slice = some sl) (status o : Nat) :
    SliceFails s ((s.noteLoose uid status).failSlice uid o) uid sl := by
  let flt : SliceFault := { status, rank := Config.free s.freeCtr % 2 ^ 16, cmd := Config.free (s.freeCtr + 1) % 2 ^ 32, reason := 0 }
  obtain ⟨hn, ho⟩ := noteFault_slice { s with freeCtr := s.freeCtr + 1 + 1 } uid flt (sl := sl) h
  have hw : Wakes s (s.noteLoose uid status) := .of rfl rfl
  exact .before (sl' := sl.noteFault flt) hw ((kept_noteLoose s uid status).sameBut _ (by intro p; cases p <;> decide)) rfl rfl ho
    (failSlice_fails hn o none)

/-! ## Formation (R535, R536) -/

/-- What a row does that leaves `w` and tries the formation: nothing more before every member's join is there, `NET_FED_MISMATCH` or
`NET_FED_VERSION` when the joins do not agree or share no version, and otherwise the federation, with each member told its rank
offset. -/
def Forms (s w : State) (f : FedRec) (i : Instr) : Prop :=
  let js := s.ownJoin f :: (w.fed f.fedUid).joins
  (js.length < f.members → exec i s = .next w) ∧
  (f.members ≤ js.length → f.agrees s.set.cur.netPkg.pkgId js = false → exec i s = .next (w.raiseUG f.localUid St.netFedMismatch f.fedUid)) ∧
  (f.members ≤ js.length → f.agrees s.set.cur.netPkg.pkgId js = true →
    (f.version js = none → exec i s = .next (w.raiseUG f.localUid St.netFedVersion f.fedUid)) ∧
    (∀ v, f.version js = some v → exec i s = .next ((f.peers.filter (·.1 != f.rank)).foldl (fun s p => s.tell p.2 0x21 [f.fedUid, v, offsetOf js p.1])
      (w.updFed f.fedUid (fun y => { y with formed := true, version := v, offset := 0 })))))

/-- The formation is tried in `w`, which differs from `s` in this federation's state alone. -/
theorem forms_of_tryForm {s w : State} {f : FedRec} {i : Instr} (hset : w.set = s.set) (hj : w.ownJoin f = s.ownJoin f)
    (hf : (w.fed f.fedUid).formed = false) (he : exec i s = .next (w.tryForm f)) : Forms s w f i := by
  unfold State.tryForm at he
  dsimp only at he
  rw [hj, hf, hset] at he
  simp only [Bool.false_eq_true, or_false] at he
  refine ⟨fun hl => ?_, fun hl ha => ?_, fun hl ha => ⟨fun hv => ?_, fun v hv => ?_⟩⟩
  · rwa [if_pos hl] at he
  · rw [if_neg (Nat.not_lt.2 hl), ha] at he
    exact he
  · rw [if_neg (Nat.not_lt.2 hl), ha, hv] at he
    exact he
  · rw [if_neg (Nat.not_lt.2 hl), ha, hv] at he
    exact he

/-- The join of a member, as rank 0 keeps it. -/
def keptJoin (peer : Nat) (j : JoinBody) : FedJoin := ⟨peer, j.rank, j.members, j.totalLeaves, j.leaves, j.tag, j.verMin, j.verMax⟩

/-- Rank 0 with a member's newest join. -/
def State.collect (s : State) (fu peer : Nat) (j : JoinBody) : State :=
  s.updFed fu (fun y => { y with joins := y.joins.filter (·.pkg != peer) ++ [keptJoin peer j] })

section
variable {s : State} {f : FedRec} {peer : Nat} (hfd : s.set.cur.fed? f.fedUid = some f)
include hfd

theorem fedJoin_ignored (h : f.rank ≠ 0 ∨ f.peers.all (·.2 != peer) = true) (j : JoinBody) : s.fedJoin peer f.fedUid j = s := by
  unfold State.fedJoin
  rw [hfd]
  exact if_pos (h.imp_right fun ha => by rw [List.not_any_eq_all_not]; exact ha)

theorem fedJoin_collects (h0 : f.rank = 0) (hp : f.peers.any (·.2 == peer) = true) (hn : (s.fed f.fedUid).formed = false) (j : JoinBody) :
    s.fedJoin peer f.fedUid j = (s.collect f.fedUid peer j).tryForm f := by
  unfold State.fedJoin
  rw [hfd]
  dsimp only
  rw [if_neg (by simp [h0, hp]), hn]
  rfl

/-- A join to a formed federation dissolves it, which fails its slice (R537). -/
theorem fedJoin_dissolves (h0 : f.rank = 0) (hp : f.peers.any (·.2 == peer) = true) (hn : (s.fed f.fedUid).formed = true) (j : JoinBody)
    {sl : Slice} (hs : (s.unitSt f.localUid).slice = some sl) (hph : sl.phase ≠ .committing) :
    SliceFails s (s.fedJoin peer f.fedUid j) f.localUid sl := by
  have he : s.fedJoin peer f.fedUid j = ((s.dissolve f).collect f.fedUid peer j).tryForm f := by
    unfold State.fedJoin
    rw [hfd]
    dsimp only
    rw [if_neg (by simp [h0, hp]), hn]
    rfl
  have hd : SliceFails s (s.dissolve f) f.localUid sl := by
    unfold State.dissolve State.sendJoin
    dsimp only
    generalize hg : (s.raiseUG f.localUid St.netFedDissolved f.fedUid).updFed f.fedUid _ = s1
    have k : Kept 0x20c0300002 s s1 := hg ▸ ((kept_raiseUG ..).mono (by decide)).trans ((kept_updFed ..).mono (by decide))
    have hs1 : (s1.unitSt f.localUid).slice = some sl := by rw [k.unitSt_eq (by decide), hs]
    rw [if_pos h0, hs1]
    dsimp only
    rw [if_neg hph]
    exact .kept_before k (failLoose_fails hs1 ..)
  rw [he]
  exact (hd.kept_after ((kept_updFed ..).mono (by decide))).kept_after (kept_tryForm ..)

/-! ## What reaches a member from another peer than rank 0, and rank 0 from nobody -/

section
variable (h : f.rank = 0 ∨ f.peerOf 0 ≠ peer)
include h

theorem fedFormed_ignored (v o : Nat) : s.fedFormed peer f.fedUid v o = s := by
  unfold State.fedFormed
  rw [hfd]
  exact if_pos h

theorem fedStart_ignored (e : Nat) (r : Bool) : s.fedStart peer f.fedUid e r = s := by
  unfold State.fedStart
  rw [hfd]
  exact if_pos (h.imp_right .inl)

theorem fedCommit_ignored (e : Nat) : s.fedCommit peer f.fedUid e = s := by
  unfold State.fedCommit
  rw [hfd]
  exact if_pos (h.imp_right .inl)

theorem fedAbort_ignored (e z : Nat) : s.fedAbort peer f.fedUid e z = s := by
  unfold State.fedAbort
  rw [hfd]
  exact if_pos (h.imp_right .inl)

end

theorem fedReady_ignored {e z : Nat} (h : f.rank ≠ 0 ∨ (s.fed f.fedUid).epoch ≠ e ∨ (s.fed f.fedUid).running = false ∨
    f.peers.find? (·.2 == peer) = none) : s.fedReady peer f.fedUid e z = s := by
  unfold State.fedReady
  rw [hfd]
  dsimp only
  split
  · rename_i p hp
    refine if_neg fun ⟨h0, he, hr⟩ => ?_
    rcases h with h | h | h | h
    · exact h h0
    · exact h he
    · rw [h] at hr
      cases hr
    · rw [h] at hp
      cases hp
  · rfl

theorem fedReady_reports (h0 : f.rank = 0) (hr : (s.fed f.fedUid).running = true) {p : Nat × Nat} (hp : f.peers.find? (·.2 == peer) = some p)
    (z : Nat) : s.fedReady peer f.fedUid (s.fed f.fedUid).epoch z = s.fedReport f p.1 z := by
  unfold State.fedReady
  rw [hfd]
  dsimp only
  rw [hp]
  exact if_pos ⟨h0, rfl, hr⟩

theorem fedRetry_formed (h : (s.fed f.fedUid).formed = true) : s.fedRetry f.fedUid = s := by
  unfold State.fedRetry
  rw [hfd]
  exact if_pos h

theorem fedRetry_rank0 (h : (s.fed f.fedUid).formed = false) (h0 : f.rank = 0) : s.fedRetry f.fedUid = s.tryForm f := by
  unfold State.fedRetry
  rw [hfd]
  dsimp only
  rw [h, if_pos h0]
  rfl

theorem fedRetry_member (h : (s.fed f.fedUid).formed = false) (h0 : f.rank ≠ 0) : s.fedRetry f.fedUid = s.tell (f.peerOf 0) 0x20
    [f.fedUid, f.rank, f.members, f.totalLeaves, (s.set.cur.leaves f.localUid).length, f.groupTag, (s.verRange 0x06).1, (s.verRange 0x06).2] := by
  unfold State.fedRetry State.sendJoin
  rw [hfd]
  dsimp only
  rw [h, if_neg h0, if_neg h0]
  rfl

/-! ## What reaches a member from rank 0 (R539, R540) -/

section
variable (h0 : f.rank ≠ 0) (hp : f.peerOf 0 = peer)
include h0 hp

theorem fedFormed_member (v o : Nat) :
    s.fedFormed peer f.fedUid v o = s.updFed f.fedUid (fun y => { y with formed := true, version := v, offset := o }) := by
  unfold State.fedFormed
  rw [hfd]
  exact if_neg (by simp [h0, hp])

omit h0 hp in
theorem fedStart_unformed (hn : (s.fed f.fedUid).formed = false) (e : Nat) (r : Bool) : s.fedStart peer f.fedUid e r = s := by
  unfold State.fedStart
  rw [hfd]
  exact if_pos (by simp [hn])

theorem fedStart_busy (hn : (s.fed f.fedUid).formed = true) (hs : (s.unitSt f.localUid).slice ≠ none) (e : Nat) (r : Bool) :
    s.fedStart peer f.fedUid e r = s.updFed f.fedUid (fun y => { y with startWaits := some (e, r) }) := by
  unfold State.fedStart
  rw [hfd]
  dsimp only
  rw [if_neg (by simp [h0, hp, hn]), if_pos (Option.isSome_iff_ne_none.2 hs)]

theorem fedStart_free (hn : (s.fed f.fedUid).formed = true) (hs : (s.unitSt f.localUid).slice = none) (e : Nat) (r : Bool) :
    s.fedStart peer f.fedUid e r = (s.updFed f.fedUid (fun y => { y with epoch := e, startWaits := none })).memberStart f r := by
  unfold State.fedStart
  rw [hfd]
  dsimp only
  rw [if_neg (by simp [h0, hp, hn]), hs]
  rfl

omit h0 hp in
theorem fedCommit_other {e : Nat} (h : (s.fed f.fedUid).epoch ≠ e ∨ ∀ sl, (s.unitSt f.localUid).slice = some sl → sl.phase ≠ .waiting) :
    s.fedCommit peer f.fedUid e = s := by
  unfold State.fedCommit
  rw [hfd]
  dsimp only
  split
  · rfl
  rename_i hc
  split
  · rename_i sl hs
    refine if_neg ?_
    rcases h with h | h
    · exact absurd (.inr (.inr h)) hc
    · exact h sl hs
  · rfl

theorem fedCommit_waiting {sl : Slice} (hs : (s.unitSt f.localUid).slice = some sl) (hph : sl.phase = .waiting) :
    s.fedCommit peer f.fedUid (s.fed f.fedUid).epoch = (s.commitNow f.localUid).startWaiting f := by
  unfold State.fedCommit
  rw [hfd]
  dsimp only
  rw [if_neg (by simp [h0, hp]), hs]
  exact if_pos hph

omit h0 hp in
theorem fedAbort_other {e : Nat} (h : (s.fed f.fedUid).epoch ≠ e) (z : Nat) : s.fedAbort peer f.fedUid e z = s := by
  unfold State.fedAbort
  rw [hfd]
  exact if_pos (.inr (.inr h))

theorem fedAbort_fails (z : Nat) : s.fedAbort peer f.fedUid (s.fed f.fedUid).epoch z =
    ((s.noteLoose f.localUid z).failSlice f.localUid outFaulted).startWaiting f := by
  unfold State.fedAbort
  rw [hfd]
  exact if_neg (by simp [h0, hp])

end

end

/-! ## The start of a member's slice (R539) -/

theorem beginSlice_slice (s : State) (uid : Nat) (h : Header) (b : Option Batch) (r : Bool) :
    ∃ sl, ((s.beginSlice uid h b r).unitSt uid).slice = some sl ∧ sl.header = h ∧ sl.replay = r := by
  unfold State.beginSlice
  dsimp only
  generalize hg : State.updUnit _ uid _ = s1
  have hs : ∃ sl, (s1.unitSt uid).slice = some sl ∧ sl.header = h ∧ sl.replay = r := by
    rw [← hg, updUnit_unitSt, if_pos rfl]
    exact ⟨_, rfl, rfl, rfl⟩
  generalize hf : State.traceFrame _ _ uid = s2
  have k2 : Kept 0x20e0722822 s1 s2 := hf ▸ ((kept_opReset ..).mono (by decide)).trans ((kept_traceFrame ..).mono (by decide))
  generalize hl : List.foldl _ s2 _ = s3
  have k3 : Kept 0x20c0320822 s2 s3 := hl ▸ Kept.foldl (fun s p => ((kept_updBead ..).mono (by decide)).trans (kept_opWait ..)) (Kept.refl _ _)
  rw [k3.unitSt_eq (by decide), k2.unitSt_eq (by decide)]
  exact hs

theorem signalStart_slice {s : State} {uid : Nat} {sl : Slice} (h : (s.unitSt uid).slice = some sl) (t : Nat) (x : Slice) :
    ∃ b n, ((s.signalStart uid t x).unitSt uid).slice = some { sl with phase := .running, startAt := t, sNom := n, boundTime := b } := by
  refine ⟨s.boundPs x.header.bound, t - (s.unitSt uid).slip, ?_⟩
  unfold State.signalStart
  dsimp only
  generalize hg : s.updSlice uid _ = s1
  have hs : (s1.unitSt uid).slice = some { sl with phase := .running, startAt := t, sNom := t - (s.unitSt uid).slip, boundTime := s.boundPs x.header.bound } := by
    rw [← hg, State.updSlice, updUnit_unitSt, if_pos rfl, h]
    rfl
  suffices ∀ u : State, Kept 0x2044300002 s1 u → ∀ c, ((u.opSignal c 1).unitSt uid).slice = (s1.unitSt uid).slice by
    rw [← hs]
    refine this _ (Kept.mk ?_) _
    split
    · split
      · exact ((kept_tellFed ..).mono (by decide)).trans ((kept_updFed ..).mono (by decide))
      · exact Kept.refl _ _
    · exact Kept.refl _ _
  intro u k c
  rw [(kept_opSignal ..).unitSt_eq (by decide), k.unitSt_eq (by decide)]

/-- A member's slice starts with its header, now. -/
theorem memberStart_runs {s : State} {f : FedRec} {h : Header} (hr : (s.unitSt f.localUid).replay = none)
    (hp : (s.unitSt f.localUid).slicePtr ≠ 0) (hh : s.header? f.localUid (s.unitSt f.localUid).slicePtr = some h)
    (hd : (s.unitSt f.localUid).down = false) (hf : (s.unitSt f.localUid).failed = []) (r : Bool) :
    ∃ sl, ((s.memberStart f r).unitSt f.localUid).slice = some sl ∧ sl.phase = .running ∧ sl.header = h ∧ sl.replay = r ∧ sl.startAt = s.now := by
  unfold State.memberStart
  dsimp only
  rw [hr, Option.map_none, if_neg hp, hh, hd, hf]
  simp only [List.isEmpty_nil, Bool.not_true, Bool.or_self, Bool.false_eq_true, if_false]
  generalize hu : s.updUnit f.localUid (fun x => { x with replay := none, slip := 0 }) = s1
  have hn : (s1.beginSlice f.localUid h none r).now = s.now := by
    rw [(kept_beginSlice ..).now_eq (by decide), ← hu, updUnit_now]
  obtain ⟨sl, hs, hsh, hsr⟩ := beginSlice_slice s1 f.localUid h none r
  rw [hs, hn]
  obtain ⟨b, n, hq⟩ := signalStart_slice hs s.now sl
  exact ⟨_, hq, rfl, hsh, hsr, rfl⟩

/-! ## The decision (R540) -/

section
variable {s : State} {f : FedRec}

theorem fedDecide_waits (h : (s.fed f.fedUid).ready.length < f.members) : s.fedDecide f = s := by
  unfold State.fedDecide
  exact if_pos (by simp [h])

theorem fedDecide_eq (hr : (s.fed f.fedUid).running = true) (hl : f.members ≤ (s.fed f.fedUid).ready.length) : s.fedDecide f =
    (let st := s.fed f.fedUid
     let s1 := s.updFed f.fedUid (fun x => { x with running := false, ready := [], firstBad := 0 })
     if st.firstBad = 0 then
       (s1.tellFed f 0x0024 [f.fedUid, st.epoch]).updSlice f.localUid (fun sl => { sl with phase := .committing, endAt := s1.now })
     else ((s1.tellFed f 0x0025 [f.fedUid, st.epoch, st.firstBad]).noteLoose f.localUid st.firstBad).failSlice f.localUid outFaulted) := by
  unfold State.fedDecide
  exact if_neg (by simp [hr, Nat.not_lt.2 hl])

/-- With zeros alone the local part commits. -/
theorem fedDecide_commits (hr : (s.fed f.fedUid).running = true) (hl : f.members ≤ (s.fed f.fedUid).ready.length)
    (hb : (s.fed f.fedUid).firstBad = 0) {sl : Slice} (hs : (s.unitSt f.localUid).slice = some sl) :
    Kept 0x2040300042 s (s.fedDecide f) ∧ ((s.fedDecide f).fed f.fedUid).running = false ∧
    ((s.fedDecide f).unitSt f.localUid).slice = some { sl with phase := .committing, endAt := s.now } := by
  rw [fedDecide_eq hr hl]
  dsimp only
  rw [if_pos hb]
  generalize hg : s.updFed f.fedUid _ = s1
  have k1 : Kept 0x100000 s s1 := hg ▸ kept_updFed ..
  have kt := kept_tellFed s1 f 0x0024 [f.fedUid, (s.fed f.fedUid).epoch]
  refine ⟨((k1.mono (by decide)).trans (kt.mono (by decide))).trans ((kept_updSlice ..).mono (by decide)), ?_, ?_⟩
  · show ((s1.tellFed f _ _).fed f.fedUid).running = false
    rw [tellFed_fed, ← hg, updFed_fed]
  · rw [State.updSlice, updUnit_unitSt, if_pos rfl, kt.unitSt_eq (by decide), k1.unitSt_eq (by decide), k1.now_eq (by decide), hs]
    rfl

/-- With a fault reported the local part fails. -/
theorem fedDecide_fails (hr : (s.fed f.fedUid).running = true) (hl : f.members ≤ (s.fed f.fedUid).ready.length)
    (hb : (s.fed f.fedUid).firstBad ≠ 0) {sl : Slice} (hs : (s.unitSt f.localUid).slice = some sl) :
    SliceFails s (s.fedDecide f) f.localUid sl := by
  rw [fedDecide_eq hr hl]
  dsimp only
  rw [if_neg hb]
  generalize hg : State.tellFed _ f _ _ = s1
  have k1 : Kept 0x20c0300002 s s1 := hg ▸ ((kept_updFed ..).mono (by decide)).trans ((kept_tellFed ..).mono (by decide))
  exact .kept_before k1 (failLoose_fails (by rw [k1.unitSt_eq (by decide), hs]) ..)

/-- Rank 0 with a status that a member has reported. -/
def State.reported (s : State) (f : FedRec) (rank z : Nat) : State :=
  s.updFed f.fedUid (fun y => { y with
    ready := mput (s.fed f.fedUid).ready rank z, firstBad := if (s.fed f.fedUid).firstBad = 0 then z else (s.fed f.fedUid).firstBad })

theorem fedReport_eq (rank z : Nat) : s.fedReport f rank z = (s.reported f rank z).fedDecide f := rfl

theorem kept_reported (rank z : Nat) : Kept 0x100000 s (s.reported f rank z) := kept_updFed ..

end

/-! ## The rows -/

section
variable {s : State} (h : s.halted = false)
include h

theorem exec_fedJoin (peer fu : Nat) (j : JoinBody) : exec (.fedJoin peer fu j) s = .next (s.fedJoin peer fu j) := unlessDown_of_running h _

theorem exec_fedFormed (peer fu v o : Nat) : exec (.fedFormed peer fu v o) s = .next (s.fedFormed peer fu v o) := unlessDown_of_running h _

theorem exec_fedRetry (fu : Nat) : exec (.fedRetry fu) s = .next (s.fedRetry fu) := unlessDown_of_running h _

theorem exec_fedStart (peer fu e n : Nat) (r : Bool) : exec (.fedStart peer fu e n r) s = .next (s.fedStart peer fu e r) :=
  unlessDown_of_running h _

theorem exec_fedReady (peer fu e z : Nat) : exec (.fedReady peer fu e z) s = .next (s.fedReady peer fu e z) := unlessDown_of_running h _

theorem exec_fedCommit (peer fu e m : Nat) : exec (.fedCommit peer fu e m) s = .next ((s.at m).fedCommit peer fu e) :=
  unlessDown_of_running h _

theorem exec_fedAbort (peer fu e z : Nat) : exec (.fedAbort peer fu e z) s = .next (s.fedAbort peer fu e z) := unlessDown_of_running h _

/-- A row for a federation that the setting does not hold does nothing. -/
theorem exec_noFed (peer : Nat) {fu : Nat} (hn : s.set.cur.fed? fu = none) : exec (.fedRetry fu) s = .next s ∧
    (∀ j, exec (.fedJoin peer fu j) s = .next s) ∧ (∀ v o, exec (.fedFormed peer fu v o) s = .next s) ∧
    (∀ e n r, exec (.fedStart peer fu e n r) s = .next s) ∧
    (∀ e x, exec (.fedReady peer fu e x) s = .next s ∧ exec (.fedAbort peer fu e x) s = .next s) ∧
    (∀ e m, exec (.fedCommit peer fu e m) s = .next (s.at m)) := by
  refine ⟨(exec_fedRetry h ..).trans (congrArg _ ?_), fun j => (exec_fedJoin h ..).trans (congrArg _ ?_),
    fun v o => (exec_fedFormed h ..).trans (congrArg _ ?_), fun e n r => (exec_fedStart h ..).trans (congrArg _ ?_),
    fun e x => ⟨(exec_fedReady h ..).trans (congrArg _ ?_), (exec_fedAbort h ..).trans (congrArg _ ?_)⟩,
    fun e m => (exec_fedCommit h ..).trans (congrArg _ ?_)⟩
  · unfold State.fedRetry; rw [hn]
  · unfold State.fedJoin; rw [hn]
  · unfold State.fedFormed; rw [hn]
  · unfold State.fedStart; rw [hn]
  · unfold State.fedReady; rw [hn]
  · unfold State.fedAbort; rw [hn]
  · unfold State.fedCommit; rw [at_set, hn]

end

end Sys2Proof.Machine
end

section
/-! PROOF. The rows of federations and of clasp operations that cross packages (O51). -/

namespace Sys2Proof.Machine

section
variable {s : State} (hrun : s.halted = false)
include hrun

/-- A refused CLASP_OP answers `CLP_NOT_GRANTED`. -/
theorem exec_claspOp_refused {peer fu clasp op tag : Nat} (rank : Nat)
    (h : ¬ s.remoteGood peer fu op ∨ s.mayClasp (.remote peer tag) clasp (if bits op 18 16 = 4 then 0 else bits op 18 16) = false) :
    exec (.claspOp peer fu clasp op tag rank) s = .next (s.tell peer 2 [tag, St.clpNotGranted, 0]) := by
  rw [exec_claspOp hrun]
  by_cases hg : s.remoteGood peer fu op
  · rw [remoteOp_refused hg (h.resolve_left (not_not_intro hg))]
  · rw [remoteOp_bad hg]

/-- A granted CLASP_OP: SIGNAL, RESET and FAIL act and are answered, a wait is stalled at a full clasp unit, and posted or completed
otherwise (R480, R484, R485). -/
theorem exec_claspOp_granted {peer fu clasp op tag : Nat} (rank : Nat) (hg : s.remoteGood peer fu op) (hst : s.stalledOps = [])
    (hr : s.mayClasp (.remote peer tag) clasp (if bits op 18 16 = 4 then 0 else bits op 18 16) = true) :
    let o := bits op 18 16
    let n := bits op 63 32
    let c := s.clasp clasp
    let row := exec (.claspOp peer fu clasp op tag rank) s
    let acts := fun (k : Nat) (e : Bool) => ∃ u, ClaspTakes s u clasp k e ∧ row = .next (u.tell peer 2 [tag, 0, (u.clasp clasp).counter])
    (o = 0 → acts (min (c.counter + n) (2 ^ 32 - 1)) (c.err || decide (2 ^ 32 ≤ c.counter + n))) ∧
    (o = 3 → acts 0 false) ∧ (o = 4 → acts c.counter true) ∧
    (o = 1 ∨ o = 2 → 4096 ≤ s.hostWaits (claspDie clasp) →
      row = .next { s with stalledOps := [(.remote peer tag, op / 65536 * 65536 + clasp)] }) ∧
    (o = 1 → s.hostWaits (claspDie clasp) < 4096 → c.err = false → c.counter < n →
      row = .next { s with clasps := mput s.clasps clasp { c with waits := c.waits ++ [{ who := .remote peer tag, target := n }] } }) ∧
    (o = 1 → s.hostWaits (claspDie clasp) < 4096 → c.err = true ∨ n ≤ c.counter →
      ∃ t, row = .next t ∧ SameBut claspParts s t ∧ t.clasps = s.clasps) ∧
    (o = 2 → s.hostWaits (claspDie clasp) < 4096 → ∃ t, row = .next t ∧ SameBut claspParts s t ∧
      (t.clasp clasp).counter = min (c.counter + 1) (2 ^ 32 - 1)) := by
  dsimp only
  rw [exec_claspOp hrun]
  refine ⟨fun ho => ?signal, fun ho => ?reset, fun ho => ?fail, fun ho hf => ?stall, fun ho hf he hc => ?pending,
    fun ho hf hm => ⟨_, rfl, ?complete⟩, fun ho hf => ⟨_, rfl, ?arrive⟩⟩
  case signal => exact ⟨_, opSignal_takes hst _ _, congrArg _ (remoteOp_signal hg ho (by simpa [ho] using hr))⟩
  case reset => exact ⟨_, opReset_takes hst _, congrArg _ (remoteOp_reset hg ho (by simpa [ho] using hr))⟩
  case fail => exact ⟨_, opFail_takes hst _, congrArg _ (remoteOp_fail hg ho (by simpa [ho] using hr))⟩
  case stall =>
    rw [if_neg (by omega)] at hr
    rw [remoteOp_stalls hg ho hr hf, hst]
    rfl
  case pending => rw [remoteOp_wait hg ho (by simpa [ho] using hr) hf, postWait_pending _ he hc]
  case complete =>
    rw [remoteOp_wait hg ho (by simpa [ho] using hr) hf, postWait_complete _ hm]
    have kc := kept_completeWait s clasp (.remote peer tag) (s.clasp clasp).counter (s.clasp clasp).err
    exact ⟨kc.sameBut _ (by intro p; cases p <;> decide), kc.clasps_eq (by decide)⟩
  case arrive =>
    rw [remoteOp_arrive hg ho (by simpa [ho] using hr) hf]
    exact opArrive_counts hst ..

/-- CLASP_DONE ends the operation of its tag and wakes the bead that waits for it. -/
theorem exec_claspDone_found {peer tag : Nat} (status k : Nat) {o : RemoteOp}
    (h : s.net.remoteOps.find? (fun o => o.tag == tag && o.peer == peer) = some o) :
    ∃ t, exec (.claspDone peer tag status k) s = .next t ∧ SameBut [.beads, .net] s t ∧
      t.net = { s.net with remoteOps := s.net.remoteOps.filter (· != o) } ∧
      (∀ b, o.bead = some b → t.bead b = { s.bead b with wake := some (status != 0) }) ∧ (o.bead = none → t.beads = s.beads) :=
  ⟨_, exec_claspDone hrun .., (kept_remoteDone s peer tag status).sameBut _ (by intro p; cases p <;> decide), remoteDone_some h status⟩

end

section
variable {s : State} (hrun : s.halted = false) {f : FedRec} (hfd : s.set.cur.fed? f.fedUid = some f) {peer : Nat}
include hrun hfd

/-- A join to a federation that has not formed tries the formation, with the join kept. -/
theorem fedJoin_forms (h0 : f.rank = 0) (hp : f.peers.any (·.2 == peer) = true) (hn : (s.fed f.fedUid).formed = false) (j : JoinBody) :
    Forms s (s.collect f.fedUid peer j) f (.fedJoin peer f.fedUid j) := by
  refine forms_of_tryForm rfl rfl ?_ ((exec_fedJoin hrun ..).trans (congrArg _ (fedJoin_collects hfd h0 hp hn j)))
  unfold State.collect
  rw [updFed_fed]
  exact hn

theorem fedRetry_forms (hn : (s.fed f.fedUid).formed = false) (h0 : f.rank = 0) : Forms s s f (.fedRetry f.fedUid) :=
  forms_of_tryForm rfl rfl hn ((exec_fedRetry hrun ..).trans (congrArg _ (fedRetry_rank0 hfd hn h0)))

theorem exec_fedStart_runs (h0 : f.rank ≠ 0) (hp : f.peerOf 0 = peer) (hn : (s.fed f.fedUid).formed = true)
    (hs : (s.unitSt f.localUid).slice = none) (hr : (s.unitSt f.localUid).replay = none) (hq : (s.unitSt f.localUid).slicePtr ≠ 0) {h : Header}
    (hh : s.header? f.localUid (s.unitSt f.localUid).slicePtr = some h) (hd : (s.unitSt f.localUid).down = false)
    (hf : (s.unitSt f.localUid).failed = []) (e n : Nat) (r : Bool) :
    ∃ t sl, exec (.fedStart peer f.fedUid e n r) s = .next t ∧
      t = (s.updFed f.fedUid (fun y => { y with epoch := e, startWaits := none })).memberStart f r ∧
      (t.unitSt f.localUid).slice = some sl ∧ sl.phase = .running ∧ sl.header = h ∧ sl.replay = r ∧ sl.startAt = s.now := by
  obtain ⟨sl, hsl⟩ := memberStart_runs (s := s.updFed f.fedUid (fun y => { y with epoch := e, startWaits := none })) hr hq hh hd hf r
  exact ⟨_, sl, (exec_fedStart hrun ..).trans (congrArg _ (fedStart_free hfd h0 hp hn hs e r)), rfl, hsl⟩

theorem exec_fedCommit_waiting (h0 : f.rank ≠ 0) (hp : f.peerOf 0 = peer) {sl : Slice} (hs : (s.unitSt f.localUid).slice = some sl)
    (hph : sl.phase = .waiting) (m : Nat) :
    exec (.fedCommit peer f.fedUid (s.fed f.fedUid).epoch m) s = .next (((s.at m).commitNow f.localUid).startWaiting f) ∧
      (((s.at m).commitNow f.localUid).unitSt f.localUid).slice = none ∧
      ∀ b, b ∈ sl.beads → (((s.at m).commitNow f.localUid).bead b).phase = .idle := by
  obtain ⟨hu, -, hi, -, -⟩ := commitNow_unit (s := s.at m) hs
  exact ⟨(exec_fedCommit hrun ..).trans (congrArg _ (fedCommit_waiting (s := s.at m) hfd h0 hp hs hph)), by rw [hu], hi⟩

/-- Rank 0 waits for the missing statuses, then commits on zeros and fails its part otherwise (R540). -/
theorem exec_fedReady_collected (h0 : f.rank = 0) (hr : (s.fed f.fedUid).running = true) {p : Nat × Nat}
    (hp : f.peers.find? (·.2 == peer) = some p) (z : Nat) :
    let ready := mput (s.fed f.fedUid).ready p.1 z
    let bad := if (s.fed f.fedUid).firstBad = 0 then z else (s.fed f.fedUid).firstBad
    (ready.length < f.members → exec (.fedReady peer f.fedUid (s.fed f.fedUid).epoch z) s = .next (s.reported f p.1 z)) ∧
    (∀ sl, f.members ≤ ready.length → (s.unitSt f.localUid).slice = some sl →
      ∃ t, exec (.fedReady peer f.fedUid (s.fed f.fedUid).epoch z) s = .next t ∧
        (bad = 0 → SameBut [.freeCtr, .units, .net, .fns, .errGlobal, .out] s t ∧ (t.fed f.fedUid).running = false ∧
          (t.unitSt f.localUid).slice = some { sl with phase := .committing, endAt := s.now }) ∧
        (bad ≠ 0 → SliceFails s t f.localUid sl)) := by
  have he : exec (.fedReady peer f.fedUid (s.fed f.fedUid).epoch z) s = .next ((s.reported f p.1 z).fedDecide f) :=
    (exec_fedReady hrun ..).trans (congrArg _ (fedReady_reports hfd h0 hr hp z))
  have hf : (s.reported f p.1 z).fed f.fedUid = { s.fed f.fedUid with
      ready := mput (s.fed f.fedUid).ready p.1 z, firstBad := if (s.fed f.fedUid).firstBad = 0 then z else (s.fed f.fedUid).firstBad } := updFed_fed ..
  have k : Kept 0x100000 s (s.reported f p.1 z) := kept_reported ..
  rw [he]
  refine ⟨fun hl => congrArg _ (fedDecide_waits (by rw [hf]; exact hl)), fun sl hl hs => ⟨_, rfl, fun hb => ?_, fun hb => ?_⟩⟩
  · obtain ⟨kd, hn, hsl⟩ := fedDecide_commits (s := s.reported f p.1 z) (by rw [hf]; exact hr) (by rw [hf]; exact hl) (by rw [hf]; exact hb) hs
    exact ⟨((k.mono (by decide)).trans kd).sameBut _ (by intro q; cases q <;> decide), hn, hsl⟩
  · exact .kept_before (k.mono (by decide)) (fedDecide_fails (by rw [hf]; exact hr) (by rw [hf]; exact hl) (by rw [hf]; exact hb) hs)

end

/-- Settles O51, row by row: each row's lemma says what the row answers in the case, and the failures, starts and commits come from
what a failure, a start and a commit leave. -/
theorem federationRowsAct : Obligations.FederationRowsAct := by
  unfold Obligations.FederationRowsAct
  intro s hrun
  refine ⟨fun peer fu clasp op tag rank => ⟨exec_claspOp_refused hrun rank, exec_claspOp_granted hrun rank⟩,
    fun peer tag status k => ⟨fun hn => ?_, fun o => exec_claspDone_found hrun status k⟩,
    fun peer fu => exec_noFed hrun peer, fun peer fu f hfd => ?_⟩
  · rw [exec_claspDone hrun, remoteDone_none hn]
  obtain rfl := fed?_uid hfd
  refine ⟨fun j => ⟨fun h => ?joinIgnored, fun h0 hp => ⟨fun hn => fedJoin_forms hrun hfd h0 hp hn j, fun sl hn hs hph => ?joinDissolves⟩⟩,
    fun hn => ?retryFormed, fun hn => ⟨fedRetry_forms hrun hfd hn, fun h0 => ?retryMember⟩, fun h => ?notFromRank0, fun h0 hp => ?fromRank0,
    fun e z h => ?readyIgnored, fun z p h0 hr hp => exec_fedReady_collected hrun hfd h0 hr hp z⟩
  case joinIgnored => rw [exec_fedJoin hrun, fedJoin_ignored hfd h]
  case joinDissolves => exact ⟨_, exec_fedJoin hrun .., fedJoin_dissolves hfd h0 hp hn j hs hph⟩
  case retryFormed => rw [exec_fedRetry hrun, fedRetry_formed hfd hn]
  case retryMember => rw [exec_fedRetry hrun, fedRetry_member hfd hn h0]
  case readyIgnored => rw [exec_fedReady hrun, fedReady_ignored hfd h]
  case notFromRank0 =>
    refine ⟨fun v o => ?_, fun e n r => ?_, fun e z => ?_, fun e m => ?_⟩
    · rw [exec_fedFormed hrun, fedFormed_ignored hfd h]
    · rw [exec_fedStart hrun, fedStart_ignored hfd h]
    · rw [exec_fedAbort hrun, fedAbort_ignored hfd h]
    · rw [exec_fedCommit hrun, fedCommit_ignored (s := s.at m) hfd h]
  case fromRank0 =>
    refine ⟨fun v o => ?formed, fun e n r => ⟨fun hn => ?startUnformed, fun hn hs => ?startBusy, fun h hn hs hr hq hh hd hf =>
        exec_fedStart_runs hrun hfd h0 hp hn hs hr hq hh hd hf e n r⟩,
      fun e m => ⟨fun h => ?commitOther, fun sl he hs hph => ?commitWaiting⟩, fun e z => ⟨fun he => ?abortOther, fun sl he hs => ?abortFails⟩⟩
    case formed => rw [exec_fedFormed hrun, fedFormed_member hfd h0 hp]
    case startUnformed => rw [exec_fedStart hrun, fedStart_unformed hfd hn]
    case startBusy => rw [exec_fedStart hrun, fedStart_busy hfd h0 hp hn hs]
    case commitOther => rw [exec_fedCommit hrun, fedCommit_other (s := s.at m) hfd h]
    case commitWaiting => exact he ▸ exec_fedCommit_waiting hrun hfd h0 hp hs hph m
    case abortOther => rw [exec_fedAbort hrun, fedAbort_other hfd he]
    case abortFails =>
      exact ⟨_, failLoose_fails hs z outFaulted, he ▸ (exec_fedAbort hrun ..).trans (congrArg _ (fedAbort_fails hfd h0 hp z))⟩

end Sys2Proof.Machine
end

section
/-! PROOF. A device without clocks, or halted with FATAL, and the rows that need it to run (R83, R594, R662; log 59). -/

namespace Sys2Proof.Machine

/-- Clocks that are off halt the device (R662). -/
theorem halted_of_clocksOff {s : State} (h : s.clocksOff = true) : s.halted = true := by simp [State.halted, h]

theorem unlessOff_of_clocksOff {s : State} (h : s.clocksOff = true) (o : Host.Outcome State Fault Refusal) : s.unlessOff o = .next s :=
  if_pos h

theorem unlessDown_of_halted {s : State} (h : s.halted = true) (o : Host.Outcome State Fault Refusal) : s.unlessDown o = .next s :=
  if_pos h

/-- The rows of the registers, the pins and the management ports are guarded by the clocks. -/
theorem exec_of_needs_clocks {i : Instr} (h : i.needs = .clocks) (s : State) : ∃ o, exec i s = s.unlessOff o := by
  cases i <;> cases h <;> exact ⟨_, rfl⟩

/-- Every row but those and the rows that need nothing is guarded by a device that runs. -/
theorem exec_of_needs_running {i : Instr} (h : i.needs = .running) (s : State) : ∃ o, exec i s = s.unlessDown o := by
  cases i <;> cases h <;> exact ⟨_, rfl⟩

/-- Settles O6: a row is guarded by what it needs, and a guard that does not hold keeps the state. -/
theorem stoppedDeviceKeepsState : Obligations.StoppedDeviceKeepsState := by
  unfold Obligations.StoppedDeviceKeepsState
  intro i s
  have stops (hs : s.halted = true) (hn : i.needs = .running) : exec i s = .next s := by
    obtain ⟨o, ho⟩ := exec_of_needs_running hn s
    rw [ho, unlessDown_of_halted hs]
  refine ⟨fun hs hn => ?_, stops⟩
  cases hk : i.needs with
  | nothing => exact absurd hk hn
  | clocks =>
    obtain ⟨o, ho⟩ := exec_of_needs_clocks hk s
    rw [ho, unlessOff_of_clocksOff hs]
  | running => exact stops (halted_of_clocksOff hs) hk

end Sys2Proof.Machine
end

section
/-! PROOF. A device on its way up: the boot from PORST_N (R594, R595, R598), the warm reset (R606, R607), the loss of a hub (R83)
and the takeover of the frame scheduler (R577 to R580). -/

namespace Sys2Proof.Machine

/-! ## Nothing runs -/

/-- The parts in which a device shows that nothing runs on it. -/
def restParts : List Part := [.dev, .frm, .units, .merges, .colls, .clasps, .stalledOps, .sessions, .perst, .pwr]

/-- Nothing runs: no unit state, merge, collective, clasp or session, no frame has begun, and neither FATAL nor the thermal trip is
set; the endpoints under reset are `p`. -/
structure AtRest (p : List Nat) (t : State) : Prop where
  units : t.units = []
  merges : t.merges = []
  colls : t.colls = []
  clasps : t.clasps = []
  stalled : t.stalledOps = []
  sessions : t.sessions = []
  perst : t.perst = p
  count : t.frm.count = 0
  ticked : t.frm.ticked = false
  fatal : t.dev.fatal = false
  trip : t.pwr.thermtrip = false

/-- A boot that has not ended: nothing runs, and DEV_STATUS has no READY, LIMITED or BOOT_FAILED. -/
structure Rising (p : List Nat) (t : State) : Prop extends AtRest p t where
  ready : t.dev.ready = false
  limited : t.dev.limited = false
  failed : t.dev.bootFailed = false

/-- A boot that has ended: nothing runs, and READY comes only without LIMITED or a failed boot, with a standby and at step 11. -/
structure Risen (p : List Nat) (t : State) : Prop extends AtRest p t where
  ready : t.dev.ready = true → t.dev.limited = false ∧ t.dev.bootFailed = false ∧ t.frm.standbyOk = true ∧ t.hmk.stage = 11

section
variable {p : List Nat} {s t : State} {m : Nat}

theorem AtRest.kept (h : AtRest p s) (k : Kept m s t) (hm : ∀ q ∈ restParts, m.testBit q.bit = false := by decide) : AtRest p t := by
  have hd := k.dev_eq (hm .dev (by decide))
  have hf := k.frm_eq (hm .frm (by decide))
  exact {
    units := (k.units_eq (hm .units (by decide))).trans h.units
    merges := (k.merges_eq (hm .merges (by decide))).trans h.merges
    colls := (k.colls_eq (hm .colls (by decide))).trans h.colls
    clasps := (k.clasps_eq (hm .clasps (by decide))).trans h.clasps
    stalled := (k.stalledOps_eq (hm .stalledOps (by decide))).trans h.stalled
    sessions := (k.sessions_eq (hm .sessions (by decide))).trans h.sessions
    perst := (k.perst_eq (hm .perst (by decide))).trans h.perst
    count := (congrArg FrmState.count hf).trans h.count
    ticked := (congrArg FrmState.ticked hf).trans h.ticked
    fatal := (congrArg DevStatus.fatal hd).trans h.fatal
    trip := (congrArg PwrState.thermtrip (k.pwr_eq (hm .pwr (by decide)))).trans h.trip }

theorem Rising.kept (h : Rising p s) (k : Kept m s t) (hm : ∀ q ∈ restParts, m.testBit q.bit = false := by decide) : Rising p t := by
  have hd := k.dev_eq (hm .dev (by decide))
  exact {
    toAtRest := h.toAtRest.kept k hm
    ready := (congrArg DevStatus.ready hd).trans h.ready
    limited := (congrArg DevStatus.limited hd).trans h.limited
    failed := (congrArg DevStatus.bootFailed hd).trans h.failed }

/-- Changes of other flags of DEV_STATUS. -/
theorem Rising.setDev (h : Rising p s) (d : DevStatus) (hf : d.fatal = s.dev.fatal) (hr : d.ready = s.dev.ready)
    (hl : d.limited = s.dev.limited) (hb : d.bootFailed = s.dev.bootFailed) : Rising p { s with dev := d } :=
  { h with fatal := hf.trans h.fatal, ready := hr.trans h.ready, limited := hl.trans h.limited, failed := hb.trans h.failed }

theorem Rising.setHmk (h : Rising p s) (x : HmkState) : Rising p { s with hmk := x } := { h with }

/-- A boot that ends without READY. -/
theorem AtRest.risen (h : AtRest p s) (hr : s.dev.ready = false) : Risen p s := ⟨h, fun e => absurd (hr.symm.trans e) Bool.false_ne_true⟩

theorem Risen.kept (h : Risen p s) (k : Kept m s t) (hm : ∀ q ∈ restParts, m.testBit q.bit = false := by decide)
    (hs : t.hmk.stage = s.hmk.stage) : Risen p t := by
  refine ⟨h.toAtRest.kept k hm, ?_⟩
  rw [k.dev_eq (hm .dev (by decide)), k.frm_eq (hm .frm (by decide)), hs]
  exact h.ready

end

/-! ## Steps 1 to 5 -/

section
variable {p : List Nat} {s : State}

theorem powerUp_rising (s : State) (i : BootIn) : Rising s.perst (s.powerUp i) where
  units := rfl
  merges := rfl
  colls := rfl
  clasps := rfl
  stalled := rfl
  sessions := rfl
  perst := rfl
  count := rfl
  ticked := rfl
  fatal := rfl
  trip := rfl
  ready := rfl
  limited := rfl
  failed := rfl

/-- The parameters of a valid copy, or none with `PARAM_DEFAULT` and a record (R586, R589). -/
theorem readParams_cases (s : State) (f : Bytes) :
    (∃ k b, paramTaken f = some (k, b) ∧ s.readParams f = { s with hmk := { s.hmk with params := ({} : Bytes).writeL 0 b } }) ∨
    (paramTaken f = none ∧ s.readParams f = ({ s with dev := { s.dev with paramDefault := true }, hmk := { s.hmk with params := {} } }).raiseG
      St.hmkParamLost) := by
  unfold State.readParams
  generalize paramTaken f = q
  match q with
  | some (k, b) => exact .inl ⟨k, b, rfl, rfl⟩
  | none => exact .inr ⟨rfl, rfl⟩

theorem Rising.readParams (h : Rising p s) (f : Bytes) : Rising p (s.readParams f) := by
  rcases readParams_cases s f with ⟨k, b, -, e⟩ | ⟨-, e⟩ <;> rw [e]
  · exact h.setHmk _
  · exact ((h.setDev { s.dev with paramDefault := true } rfl rfl rfl rfl).setHmk _).kept (kept_raiseG ..)

/-- LIMITED mode ends a boot (R595). -/
theorem Rising.limit (h : Rising p s) (step status : Nat) : Risen p (s.limit step status) := by
  have k : Kept 0x2042200000 _ (s.limit step status) := (kept_raiseG ..).mono (by decide)
  refine AtRest.risen (AtRest.kept (s := { s with dev := { s.dev with limited := true }, hmk := { s.hmk with stage := step, err := status } })
    { h with } k) ?_
  rw [k.dev_eq (by decide)]
  exact h.ready

/-! ## Steps 7 to 9 -/

theorem Rising.retirePc (h : Rising p s) (k pc : Nat) : Rising p (s.retirePc k pc) := by
  unfold State.retirePc
  split
  · exact h
  · extract_lets d x s1 s2 arg us s3
    have h1 : Rising p s1 := { h.setDev { s.dev with memDegraded := true } rfl rfl rfl rfl with }
    have k : Kept 0x20c0240000 s1 s3 := Kept.foldl (fun u q => (kept_raiseU u q ..).mono (m := 0x20c0240000) (by decide)) ((kept_holePages ..).mono (by decide))
    exact h1.kept (k.trans ((kept_raiseG ..).mono (by decide)))

theorem Rising.bringUp (h : Rising p s) (i : BootIn) : Rising p (s.bringUp i).1 := by
  unfold State.bringUp
  extract_lets zero s1 s2 s3
  have h1 : Rising p s1 := { h with }
  have h2 : Rising p s2 := List.foldlRecOn _ _ h1 (fun u hu q _ => by
    split
    · exact hu.retirePc _ _
    · exact hu)
  exact List.foldlRecOn _ _ h2 (fun u hu b _ => by
    refine Rising.kept ?_ (kept_updBead _ _ _)
    split
    · exact hu
    · exact hu.kept (kept_undefBead ..))

/-! ## Step 10 -/

/-- The setting and the image of a load. -/
def State.holding (s : State) (l : Loaded) : State := { s with set := { s.set with cur := l.merged, image := l.image } }

/-- Memory, composition, clasps, units, error queues and federations under the setting of a load. -/
def State.rebuilt (s : State) (old : Setting) (l : Loaded) : State :=
  let s := l.fill.foldl (fun s r => s.fillZero r.1 r.2) ((s.remapVaults old l.merged).remapPages old l.merged)
  let s := (s.compose old l.merged).startClasps old l.merged l.full l.carried
  ((s.carryUnits old l.merged).carryQueues l.merged).formFeds old l.merged l.full

/-- Fault injection, meters and the flags of the setting as an apply leaves them. -/
def State.flagged (s : State) (old : Setting) (l : Loaded) : State :=
  { s with
    net := { s.net with fi := (List.range l.merged.fis.length).map (fun k => { lfsr := k + 1 }) }
    filFi := [], netFi := []
    mem := { s.mem with meter := carryMeter old.guars l.merged.guars s.mem.meter, meterSnap := carryMeter old.guars l.merged.guars s.mem.meterSnap }
    dev := { s.dev with noSetting := false, untested := s.dev.untested || l.untested } }

/-- The frame scheduler under a FULL image. -/
def FrmState.afresh (f : FrmState) (old new : Setting) : FrmState :=
  { f with resid := 0, sinceEdge := 0, edgeOfTick := false, edgeOfNext := false, holdover := f.holdover && old.frame.source == new.frame.source }

/-- A setting put in force, up to the measurement and the result of the load. -/
def State.enforce (s : State) (l : Loaded) : State :=
  let old := s.set.cur
  let s := (((s.closeAtApply old l.merged).holding l).rebuilt old l).flagged old l
  if l.full then { s with frm := s.frm.afresh old l.merged } else s

theorem apply_eq (s : State) (l : Loaded) (slot : Nat) :
    s.apply l slot = ((s.enforce l).extend slot (Config.sha384 l.image)).setFinish 0 0xFFFF := rfl

/-- With no unit and no session there is nothing to close. -/
theorem closeAtApply_nil (hu : s.units = []) (hs : s.sessions = []) (old new : Setting) : s.closeAtApply old new = s := by
  unfold State.closeAtApply
  rw [hu]
  dsimp only [List.foldl_nil]
  rw [hs]
  rfl

theorem startClasps_nil (hc : s.clasps = []) (hs : s.stalledOps = []) (old new : Setting) (full : Bool) (carried : List BadRec) :
    s.startClasps old new full carried = s := by
  unfold State.startClasps
  rw [hc]
  exact resumeStalled_nil hs

theorem carryUnits_nil (hu : s.units = []) (old new : Setting) : s.carryUnits old new = s := by
  unfold State.carryUnits
  rw [hu]
  exact congrArg (fun u => { s with units := u }) hu.symm

/-- On a device on which nothing runs, only memory, beads, records and messages change with the setting. -/
theorem AtRest.kept_rebuilt (h : AtRest p s) (old : Setting) (l : Loaded) : Kept 0x20c0360022 s (s.rebuilt old l) := by
  unfold State.rebuilt
  extract_lets u v
  have kc : Kept 0x60022 s (u.compose old l.merged) := (kept_compose ..).of <| Kept.foldl (fun u r => (kept_fillZero ..).mono (by decide)) <|
    (kept_remapPages ..).of <| (kept_remapVaults ..).mono (by decide)
  have hc := h.kept kc
  have ev : v.carryUnits old l.merged = u.compose old l.merged := by
    subst v
    rw [startClasps_nil hc.clasps hc.stalled, carryUnits_nil hc.units]
  rw [ev]
  exact (kept_formFeds ..).of <| (kept_carryQueues ..).of <| kc.mono (by decide)

/-- A setting put in force on a device on which nothing runs: nothing runs, the setting is the load's, and Hallmark is as it was. -/
theorem Rising.enforce (h : Rising p s) (l : Loaded) :
    Rising p (s.enforce l) ∧ (s.enforce l).set.cur = l.merged ∧ (s.enforce l).hmk = s.hmk := by
  unfold State.enforce
  extract_lets old t
  have e : s.closeAtApply old l.merged = s := closeAtApply_nil h.units h.sessions ..
  have hh : Rising p (s.holding l) := { h with }
  have k := hh.toAtRest.kept_rebuilt old l
  have hr := hh.kept k
  have ht : Rising p t := by
    subst t
    rw [e]
    exact { hr.setDev { ((s.holding l).rebuilt old l).dev with noSetting := false, untested := _ } rfl rfl rfl rfl with }
  have ct : t.set.cur = l.merged := by
    subst t
    rw [e]
    exact congrArg SetState.cur (k.set_eq (by decide))
  have mt : t.hmk = s.hmk := by
    subst t
    rw [e]
    exact k.hmk_eq (by decide)
  split
  · exact ⟨{ ht with count := ht.count, ticked := ht.ticked }, ct, mt⟩
  · exact ⟨ht, ct, mt⟩

theorem Rising.apply (h : Rising p s) (l : Loaded) (slot : Nat) : Rising p (s.apply l slot) ∧ (s.apply l slot).set.cur = l.merged ∧
    (s.apply l slot).hmk.params = s.hmk.params := by
  obtain ⟨hr, hc, hm⟩ := h.enforce l
  rw [apply_eq]
  exact ⟨{ hr with }, hc, congrArg HmkState.params (a₁ := (s.enforce l).hmk) hm⟩

theorem Rising.holeAgain (h : Rising p s) : Rising p s.holeAgain := h.kept (kept_holeAgain s)

/-- The image installed at the end of a boot: nothing runs, and the parameters are the same. -/
theorem Rising.installF (n : Nat) (h : Rising p s) (ms : Nat) (r : Option (Loaded × List (List Byte))) :
    Rising p (s.installF n ms r).1 ∧ (s.installF n ms r).1.hmk.params = s.hmk.params := by
  induction n generalizing s r with
  | zero => exact ⟨h, rfl⟩
  | succ n ih =>
    rcases r with _ | ⟨l, rest⟩
    · exact ⟨{ h.setDev { s.dev with noSetting := true } rfl rfl rfl rfl with }, rfl⟩
    · unfold State.installF
      cases hk : s.check13 l.merged with
      | none =>
        obtain ⟨ha, -, hm⟩ := h.apply l ms
        have k : Kept 0x40000 (s.apply l ms) (s.apply l ms).holeAgain := kept_holeAgain _
        have kr (u : State) : Kept 0x2040200000 u (if l.untested then u.raiseG St.hmkUntested else u) :=
          Kept.ite (kept_raiseG ..) (Kept.refl _ _)
        refine ⟨(ha.kept k).kept (kr _), ?_⟩
        rw [(kr _).hmk_eq (by decide), k.hmk_eq (by decide), hm]
      | some q =>
        dsimp only
        generalize hf : s.setFinish _ _ = t
        have kt : Kept 0x8 s t := hf ▸ kept_setFinish ..
        have kp := kept_pickImage t rest
        generalize t.pickImage rest = x at kp ⊢
        obtain ⟨u, r', b⟩ := x
        have ku : Kept 0x8 s u := kt.trans kp
        cases b with
        | true => exact ⟨h.kept ku, congrArg HmkState.params (ku.hmk_eq (by decide))⟩
        | false =>
          obtain ⟨hr, hm⟩ := ih (h.kept ku) r'
          exact ⟨hr, hm.trans (congrArg HmkState.params (ku.hmk_eq (by decide)))⟩

/-- With no other image to try, the setting afterwards is the one offered or the one before. -/
theorem Rising.installF_cur (n : Nat) (h : Rising p s) (ms : Nat) {r : Option (Loaded × List (List Byte))} (hr : ∀ q ∈ r, q.2 = []) :
    (s.installF n ms r).1.set.cur = s.set.cur ∨ ∃ q ∈ r, (s.installF n ms r).1.set.cur = q.1.merged := by
  cases n with
  | zero => exact .inl rfl
  | succ n =>
    rcases r with _ | ⟨l, rest⟩
    · exact .inl rfl
    · obtain rfl : rest = [] := hr _ rfl
      unfold State.installF
      cases hk : s.check13 l.merged with
      | none =>
        obtain ⟨-, hc, -⟩ := h.apply l ms
        have kh : Kept 0x2040240000 (s.apply l ms) (s.apply l ms).holeAgain := (kept_holeAgain _).mono (by decide)
        have k : Kept 0x2040240000 (s.apply l ms) (if l.untested then (s.apply l ms).holeAgain.raiseG St.hmkUntested else (s.apply l ms).holeAgain) :=
          Kept.ite ((kept_raiseG ..).of kh) kh
        exact .inr ⟨_, rfl, (congrArg SetState.cur (k.set_eq (by decide))).trans hc⟩
      | some q =>
        left
        cases n <;> rfl

/-! ## READY -/

/-- A confirmation only queues flash writes. -/
theorem fwupConfirm_hmk (s : State) (raise : Bool) : (s.fwupConfirm raise).hmk.stage = s.hmk.stage ∧
    (s.fwupConfirm raise).hmk.params = s.hmk.params := by
  unfold State.fwupConfirm
  split
  · split
    · cases raise <;> exact ⟨rfl, rfl⟩
    · exact ⟨rfl, rfl⟩
  · exact ⟨rfl, rfl⟩

theorem Rising.becomeReady (h : Rising p s) : Risen p s.becomeReady ∧ s.becomeReady.hmk.params = s.hmk.params := by
  unfold State.becomeReady
  extract_lets d x f u
  have hu : Risen p u := ⟨{ h with }, fun _ => ⟨h.limited, h.failed, rfl, rfl⟩⟩
  have hc : Risen p (u.fwupConfirm false) := hu.kept (kept_fwupConfirm ..) (by decide) (fwupConfirm_hmk ..).1
  split
  · split
    · exact ⟨hc, (fwupConfirm_hmk ..).2⟩
    · exact ⟨hu, rfl⟩
  · exact ⟨hu, rfl⟩

/-! ## Steps 6 to 10 -/

theorem limit_params (s : State) (step status : Nat) : (s.limit step status).hmk.params = s.hmk.params := by
  unfold State.limit
  rw [(kept_raiseG ..).hmk_eq (by decide)]

/-- Steps 7 to 10: nothing runs at their end, and the parameters are the same. -/
theorem Rising.finishBoot (h : Rising p s) (i : BootIn) (ms : Nat) (l : Option (Loaded × List (List Byte))) :
    Risen p (s.finishBoot i ms l) ∧ (s.finishBoot i ms l).hmk.params = s.hmk.params := by
  unfold State.finishBoot
  have hb := h.bringUp i
  have kb := congrArg HmkState.params ((kept_bringUp s i).hmk_eq (by decide))
  generalize s.bringUp i = x at hb kb ⊢
  obtain ⟨u, ok⟩ := x
  cases ok with
  | false => exact ⟨hb.limit .., (limit_params ..).trans kb⟩
  | true =>
    dsimp only
    split
    · exact ⟨AtRest.risen { hb with } hb.ready, kb⟩
    · obtain ⟨hi, ki⟩ := hb.installF 3 ms l
      generalize u.installF 3 ms l = y at hi ki ⊢
      obtain ⟨v, lim⟩ := y
      cases lim with
      | true => exact ⟨hi.limit .., (limit_params ..).trans (ki.trans kb)⟩
      | false => exact ⟨hi.becomeReady.1, hi.becomeReady.2.trans (ki.trans kb)⟩

theorem Rising.bootRest (h : Rising p s) (f : Bytes) (i : BootIn) (slot : Nat) (cs : List Comp) : Risen p (s.bootRest f i slot cs) := by
  unfold State.bootRest
  extract_lets tested offers x s1 s2 d s3
  have h2 : Rising p s2 := { h with }
  have h3 : Rising p s3 := by
    show Rising p (if tested = true then s2 else _)
    split
    · exact h2
    · exact (h2.setDev { s2.dev with untested := true } rfl rfl rfl rfl).kept (kept_raiseG ..)
  split
  · exact h2.limit ..
  · have h4 := h3.kept (kept_pickImage s3 (s3.storedImages f))
    generalize s3.pickImage (s3.storedImages f) = q at h4 ⊢
    obtain ⟨u, l, lim⟩ := q
    cases lim with
    | true => exact h4.limit ..
    | false => exact (h4.finishBoot ..).1

/-! ## A boot in its stages (Tables 18-5 and 18-6) -/

theorem Rising.firmware (h : Rising p s) (f : Bytes) : Rising p (s.firmware f).1 := h.kept (kept_firmware s f)

/-- Step 1: power-up, the first measurement and the parameters. -/
def State.bootStart (s : State) (i : BootIn) : State := ((s.powerUp i).extend 0 (Config.fuse 16)).readParams (s.powerUp i).hmk.flash

/-- The end of a boot that finds no management firmware. -/
def State.bootFail (s : State) : State :=
  ({ s with dev := { s.dev with bootFailed := true }, hmk := { s.hmk with stage := 2, err := St.hmkBootFailed } }).raiseG St.hmkBootFailed

/-- The boot on the backup flash. -/
def State.bootBackup (s : State) (i : BootIn) : State :=
  match s.firmware s.hmk.backup with
  | (s, .ok (slot, cs)) => s.bootRest s.hmk.backup i slot cs
  | (s, .error (false, e)) => s.limit 5 e
  | (s, .error (true, _)) => s.bootFail

/-- The parameters of the backup flash, where it holds any. -/
def State.backupParams (s : State) : State :=
  match paramTaken s.hmk.backup with
  | some _ => ({ s with dev := { s.dev with paramDefault := false } }).readParams s.hmk.backup
  | none => s

/-- The boot on the flash, then on the backup flash. -/
def State.bootSlots (s : State) (i : BootIn) : State :=
  match s.firmware s.hmk.flash with
  | (s, .ok (slot, cs)) => s.bootRest s.hmk.flash i slot cs
  | (s, .error (false, e)) => s.limit 5 e
  | (s, .error (true, _)) => s.backupParams.bootBackup i

theorem bootOnce_eq (s : State) (i : BootIn) : s.bootOnce i =
    if bit ((s.bootStart i).param 0xE8 4) 2 then { s.bootStart i with hmk := { (s.bootStart i).hmk with bscanHold := true } }
    else if ((s.bootStart i).trialBegin.bootSlots i).dev.bootFailed then (s.bootStart i).trialBegin.bootSlots i
    else ((s.bootStart i).trialBegin.bootSlots i).flashQueue { kind := .event, off := 0, data := [] } := by
  unfold State.bootOnce
  rw [show ((s.powerUp i).extend 0 (Config.fuse 16)).readParams (s.powerUp i).hmk.flash = s.bootStart i from rfl]
  generalize s.bootStart i = u
  extract_lets b c v w
  have e : w = v.bootSlots i := by
    subst w
    clear_value v
    unfold State.bootSlots
    generalize v.firmware v.hmk.flash = r
    obtain ⟨a, ⟨_ | _, e⟩ | ⟨slot, cs⟩⟩ := r
    · rfl
    · unfold State.bootBackup State.backupParams
      dsimp only
      generalize paramTaken a.hmk.backup = q
      cases q with
      | none => rfl
      | some q =>
        dsimp only
        generalize State.readParams _ _ = b
        rfl
    · rfl
  rw [e]

theorem bootStart_rising (s : State) (i : BootIn) : Rising s.perst (s.bootStart i) := ((powerUp_rising s i).setHmk _).readParams _

theorem Rising.bootFail (h : Rising p s) : Risen p s.bootFail := by
  have k : Kept 0x2040200000 _ s.bootFail := kept_raiseG ..
  refine AtRest.risen (AtRest.kept (s := { s with dev := { s.dev with bootFailed := true }, hmk := { s.hmk with stage := 2, err := St.hmkBootFailed } })
    { h with } k) ?_
  rw [k.dev_eq (by decide)]
  exact h.ready

theorem Rising.backupParams (h : Rising p s) : Rising p s.backupParams := by
  unfold State.backupParams
  split
  · exact (h.setDev { s.dev with paramDefault := false } rfl rfl rfl rfl).readParams _
  · exact h

theorem Rising.bootBackup (h : Rising p s) (i : BootIn) : Risen p (s.bootBackup i) := by
  unfold State.bootBackup
  have hf := h.firmware s.hmk.backup
  generalize s.firmware s.hmk.backup = x at hf ⊢
  obtain ⟨u, ⟨mgmt, e⟩ | ⟨slot, cs⟩⟩ := x
  · cases mgmt with
    | false => exact hf.limit ..
    | true => exact hf.bootFail
  · exact hf.bootRest ..

theorem Rising.bootSlots (h : Rising p s) (i : BootIn) : Risen p (s.bootSlots i) := by
  unfold State.bootSlots
  have hf := h.firmware s.hmk.flash
  generalize s.firmware s.hmk.flash = x at hf ⊢
  obtain ⟨u, ⟨mgmt, e⟩ | ⟨slot, cs⟩⟩ := x
  · cases mgmt with
    | false => exact hf.limit ..
    | true => exact hf.backupParams.bootBackup i
  · exact hf.bootRest ..

theorem bootOnce_risen (s : State) (i : BootIn) : Risen s.perst (s.bootOnce i) := by
  rw [bootOnce_eq]
  have h := bootStart_rising s i
  generalize s.bootStart i = u at h ⊢
  split
  · exact AtRest.risen { h with } h.ready
  · have hs := (h.kept (kept_trialBegin u)).bootSlots i
    generalize u.trialBegin.bootSlots i = v at hs ⊢
    split
    · exact hs
    · exact hs.kept (kept_flashQueue ..) (by decide) rfl

/-- A boot that does not end in LIMITED mode is one boot (R598). -/
theorem boot_of_not_limited {i : BootIn} (h : (s.bootOnce i).dev.limited = false) : s.boot i = s.bootOnce i := by
  unfold State.boot
  dsimp only
  split
  · rw [h]
    rfl
  · rfl

theorem boot_risen (s : State) (i : BootIn) : Risen s.perst (s.boot i) := by
  have h := bootOnce_risen s i
  unfold State.boot
  dsimp only
  split
  · rename_i d _
    split
    · have k : Kept 0x2042200002 (s.bootOnce i) ((s.bootOnce i).revert d).logEvent := (kept_logEvent _).of ((kept_revert ..).mono (by decide))
      have hb := bootOnce_risen ((s.bootOnce i).revert d).logEvent i
      rw [k.perst_eq (by decide), h.perst] at hb
      have kr : Kept 0x2040200000 _ ((((s.bootOnce i).revert d).logEvent.bootOnce i).raiseG St.hmkTrialReverted) := kept_raiseG ..
      exact hb.kept kr (by decide) (congrArg HmkState.stage (kr.hmk_eq (by decide)))
    · exact h
  · exact h

/-! ## The stored parameters, and a boot with no firmware -/

@[simp] theorem Bytes.length_readN (f : Bytes) (a n : Nat) : (f.readN a n).length = n := by simp [Bytes.readN, span]

theorem Bytes.readN_slice (f : Bytes) {a n o k : Nat} (h : o + k ≤ n) : ((f.readN a n).drop o).take k = f.readN (a + o) k := by
  apply List.ext_getElem
  · simp; omega
  · intro j h1 h2
    simp [Bytes.readN, span, Nat.add_assoc]

theorem Bytes.readN_empty (a n : Nat) : ({} : Bytes).readN a n = List.replicate n 0 := by
  apply List.ext_getElem
  · simp
  · intro j h1 h2
    simp [Bytes.readN, span, Bytes.read, Bytes.dflt, cellGet]

theorem leNat_zeros (n : Nat) : leNat (List.replicate n 0) = 0 := by
  induction n with
  | zero => rfl
  | succ n ih =>
    rw [List.replicate_succ, leNat, ih]
    rfl

theorem bfld_zeros (n o k : Nat) : bfld (List.replicate n 0) o k = 0 := by
  rw [bfld, List.drop_replicate, List.take_replicate, leNat_zeros]

/-- The copy taken is one of the two. -/
theorem takenCopy_mem {α : Type} {seq : α → Nat} {a b : Option α} {k : Nat} {x : α} (h : takenCopy seq a b = some (k, x)) :
    a = some x ∨ b = some x := by
  unfold takenCopy at h
  split at h
  · split at h <;> cases h
    · exact .inr rfl
    · exact .inl rfl
  · cases h; exact .inl rfl
  · cases h; exact .inr rfl
  · cases h

theorem paramAt_length {f : Bytes} {k : Nat} {b : List Byte} (h : paramAt f k = some b) : b.length = 0x10000 := by
  unfold paramAt at h
  dsimp only at h
  split at h
  · rw [← Option.some.inj h, Bytes.length_readN]
  · exact nomatch h

/-- A field of the parameters in force after they were read from a flash is the stored one (R586). -/
theorem readParams_param (s : State) (f : Bytes) {o n : Nat} (h : o + n ≤ 0x10000) : (s.readParams f).param o n = bfld (paramStored f) o n := by
  unfold paramStored State.param Bytes.readNat
  rcases readParams_cases s f with ⟨k, b, hp, e⟩ | ⟨hp, e⟩ <;> rw [e, hp]
  · have hb : b.length = 0x10000 := (takenCopy_mem hp).elim paramAt_length paramAt_length
    have hw := Bytes.readN_writeL {} 0 b
    dsimp only [Option.map_some, Option.getD_some]
    rw [bfld, ← hw, Bytes.readN_slice _ (hb ▸ h), Nat.zero_add, hw]
  · dsimp only [Option.map_none, Option.getD_none]
    rw [(kept_raiseG ..).hmk_eq (by decide), bfld_zeros]
    dsimp only
    rw [Bytes.readN_empty, leNat_zeros]

/-! ### A blank flash -/

theorem dirTaken_empty : dirTaken {} = none := by
  have h (k : Nat) : dirAt {} k = none := by
    unfold dirAt
    rw [Bytes.readN_empty]
    exact if_neg (fun e => absurd ((bfld_zeros ..).symm.trans e.1) (by decide))
  unfold dirTaken
  rw [h, h]
  rfl

theorem paramTaken_empty : paramTaken {} = none := by
  have h (k : Nat) : paramAt {} k = none := by
    unfold paramAt
    rw [Bytes.readN_empty]
    exact if_neg (fun e => absurd ((bfld_zeros ..).symm.trans e.1) (by decide))
  unfold paramTaken
  rw [h, h]
  rfl

/-- A blank flash holds no component image. -/
theorem compAt_empty (base limit c v : Nat) : compAt {} base limit c v = .error St.hmkSigFail := by
  unfold compAt
  rw [Bytes.readN_empty]
  exact if_pos (.inl (fun e => absurd ((bfld_zeros ..).symm.trans e) (by decide)))

theorem firmware_empty (s : State) : s.firmware {} = (s.raiseG St.hmkSlotFallback, .error (true, St.hmkSigFail)) := by
  have hl (u : State) (k : Nat) : u.loadSlot {} k = (u, .error (true, St.hmkSigFail)) := by
    unfold State.loadSlot
    extract_lets lim
    rw [compAt_empty]
  unfold State.firmware
  extract_lets first
  rw [hl]
  dsimp only
  rw [hl]
  rfl

theorem bootSlots_blank (hf : s.hmk.flash = {}) (hb : s.hmk.backup = {}) (i : BootIn) :
    s.bootSlots i = ((s.raiseG St.hmkSlotFallback).raiseG St.hmkSlotFallback).bootFail := by
  have hw : (s.raiseG St.hmkSlotFallback).hmk.backup = {} := by rw [(kept_raiseG ..).hmk_eq (by decide), hb]
  have hp : (s.raiseG St.hmkSlotFallback).backupParams = s.raiseG St.hmkSlotFallback := by
    unfold State.backupParams
    rw [hw, paramTaken_empty]
  unfold State.bootSlots
  rw [hf, firmware_empty]
  dsimp only
  rw [hp]
  unfold State.bootBackup
  rw [hw, firmware_empty]

theorem bootFail_marks (s : State) : s.bootFail.dev = { s.dev with bootFailed := true } ∧ s.bootFail.hmk.err = St.hmkBootFailed := by
  unfold State.bootFail
  exact ⟨(kept_raiseG ..).dev_eq (by decide), congrArg HmkState.err ((kept_raiseG ..).hmk_eq (by decide))⟩

/-- Reading the parameters changes nothing else of Hallmark. -/
theorem readParams_hmk (s : State) (f : Bytes) : ∃ b, (s.readParams f).hmk = { s.hmk with params := b } := by
  rcases readParams_cases s f with ⟨k, b, -, e⟩ | ⟨-, e⟩ <;> rw [e]
  · exact ⟨_, rfl⟩
  · exact ⟨_, (kept_raiseG ..).hmk_eq (by decide)⟩

theorem bootStart_hmk (s : State) (i : BootIn) : ∃ b, (s.bootStart i).hmk = { (s.powerUp i).hmk.extend 0 (Config.fuse 16) with params := b } :=
  readParams_hmk ..

/-- A boot with neither flash holding firmware fails (Table 18-6). -/
theorem bootOnce_blank (s : State) {i : BootIn} (hf : i.flash = some []) (hb : i.backup = []) :
    (s.bootOnce i).dev.bootFailed = true ∧ (s.bootOnce i).hmk.err = St.hmkBootFailed ∧ (s.bootOnce i).dev.limited = false ∧
      (s.bootOnce i).dev.ready = false := by
  have hu := bootStart_rising s i
  have hc : bit ((s.bootStart i).param 0xE8 4) 2 = false := by
    rw [State.bootStart, readParams_param _ _ (by decide), show (s.powerUp i).hmk.flash = {} by simp [State.powerUp, hf, Bytes.ofCells]]
    unfold paramStored
    rw [paramTaken_empty]
    exact congrArg (bit · 2) (bfld_zeros ..)
  obtain ⟨b, hh⟩ := bootStart_hmk s i
  have hflash : (s.bootStart i).hmk.flash = {} := by 
    rw [hh]
    show (i.flash.map Bytes.ofCells).getD _ = _
    rw [hf]
    rfl
  have hback : (s.bootStart i).hmk.backup = {} := by 
    rw [hh]
    show Bytes.ofCells i.backup = _
    rw [hb]
    rfl
  rw [bootOnce_eq, hc]
  generalize s.bootStart i = u at hu hflash hback ⊢
  have ht : u.trialBegin = u := by
    unfold State.trialBegin
    rw [hflash, dirTaken_empty]
  have hr := (hu.kept (kept_raiseG u St.hmkSlotFallback 0 schedAgent 0xFFFF false)).kept (kept_raiseG _ St.hmkSlotFallback 0 schedAgent 0xFFFF false)
  obtain ⟨hd, he⟩ := bootFail_marks ((u.raiseG St.hmkSlotFallback).raiseG St.hmkSlotFallback)
  rw [ht, bootSlots_blank hflash hback, if_neg Bool.false_ne_true, if_pos (by rw [hd]), hd]
  exact ⟨rfl, he, hr.limited, hr.ready⟩

/-- With BSCAN_HOLD in the stored parameters the boot stops at its first step (R596). -/
theorem bootOnce_bscan (s : State) {i : BootIn} (h : bit (bfld (paramStored ((i.flash.map Bytes.ofCells).getD s.hmk.flash)) 0xE8 4) 2 = true) :
    (s.bootOnce i).hmk.bscanHold = true ∧ (s.bootOnce i).hmk.stage = 1 ∧ (s.bootOnce i).dev.limited = false ∧
      (s.bootOnce i).dev.ready = false := by
  have hu := bootStart_rising s i
  have hc : bit ((s.bootStart i).param 0xE8 4) 2 = true := by
    rw [State.bootStart, readParams_param _ _ (by decide)]
    exact h
  obtain ⟨b, hh⟩ := bootStart_hmk s i
  have hst : (s.bootStart i).hmk.stage = 1 := congrArg HmkState.stage hh
  rw [bootOnce_eq, if_pos hc]
  generalize s.bootStart i = u at hu hst ⊢
  exact ⟨rfl, hst, hu.limited, hu.ready⟩

/-! ## The warm reset (R607) -/

/-- What a warm reset starts from. -/
theorem warmBase_rising {s : State} (h : s.pwr.thermtrip = false) : Rising s.perst s.warmBase where
  units := rfl
  merges := rfl
  colls := rfl
  clasps := rfl
  stalled := rfl
  sessions := rfl
  perst := rfl
  count := rfl
  ticked := rfl
  fatal := rfl
  trip := h
  ready := rfl
  limited := rfl
  failed := rfl

/-- The state in which steps 7 to 10 of a warm reset begin. -/
def State.warmStart (s : State) : State := (List.range 66).foldl State.resetFunction s.logEvent.warmBase

theorem warmReset_eq (s : State) (i : BootIn) : s.warmReset i = s.warmStart.finishBoot i 7 s.inForce := rfl

theorem kept_warmStart (s : State) : Kept 0x100e00000 s.logEvent.warmBase s.warmStart :=
  Kept.foldl (fun u f => kept_resetFunction u f) (Kept.refl _ _)

theorem Rising.finishBoot_cur (h : Rising p s) (i : BootIn) (ms : Nat) {l : Option (Loaded × List (List Byte))} (hl : ∀ q ∈ l, q.2 = []) :
    (s.finishBoot i ms l).set.cur = s.set.cur ∨ ∃ q ∈ l, (s.finishBoot i ms l).set.cur = q.1.merged := by
  unfold State.finishBoot
  have hb := h.bringUp i
  have kb := congrArg SetState.cur ((kept_bringUp s i).set_eq (by decide))
  generalize s.bringUp i = x at hb kb ⊢
  obtain ⟨u, ok⟩ := x
  cases ok with
  | false => exact .inl ((congrArg SetState.cur ((kept_limit ..).set_eq (by decide))).trans kb)
  | true =>
    dsimp only at kb ⊢
    split
    · exact .inl kb
    · have hi := hb.installF_cur 3 ms hl
      rw [kb] at hi
      generalize u.installF 3 ms l = y at hi ⊢
      obtain ⟨v, lim⟩ := y
      cases lim with
      | true =>
        dsimp only
        rwa [(kept_limit v _ _).set_eq (by decide)]
      | false =>
        dsimp only
        rwa [(kept_becomeReady v).set_eq (by decide)]

/-- The setting in force is offered alone. -/
theorem inForce_alone {q : Loaded × List (List Byte)} (h : q ∈ s.inForce) : q.2 = [] ∧ q.1.merged = s.set.cur := by
  unfold State.inForce at h
  dsimp only at h
  split at h
  · exact nomatch h
  · cases h
    exact ⟨rfl, rfl⟩

/-- A warm reset: nothing runs; the management controllers, the parameters and the links that are down are kept, with the setting in
force or the empty one (R607). -/
theorem warmReset_spec (h : s.pwr.thermtrip = false) (i : BootIn) : let t := s.warmReset i
    AtRest s.perst t ∧ t.mgt = s.mgt ∧ t.hmk.params = s.hmk.params ∧ t.fil = { down := s.fil.down } ∧
      (t.set.cur = s.set.cur ∨ t.set.cur = {}) := by
  have kw := kept_warmStart s
  have hr : Rising s.perst s.warmStart := Rising.kept (warmBase_rising (s := s.logEvent) h) kw
  obtain ⟨hb, hm⟩ := hr.finishBoot i 7 s.inForce
  have k := kept_finishBoot s.warmStart i 7 s.inForce
  dsimp only
  rw [warmReset_eq]
  refine ⟨hb.toAtRest, ?mgt, ?params, ?fil, ?cur⟩
  case mgt => exact (k.mgt_eq (by decide)).trans (kw.mgt_eq (by decide))
  case params => exact (hm.trans (congrArg HmkState.params (kw.hmk_eq (by decide)))).trans rfl
  case fil => exact (k.fil_eq (by decide)).trans (kw.fil_eq (by decide))
  case cur =>
    rcases hr.finishBoot_cur i 7 (fun q hq => (inForce_alone hq).1) with e | ⟨q, hq, e⟩
    · exact .inr (e.trans (congrArg SetState.cur (kw.set_eq (by decide))))
    · exact .inl (e.trans (inForce_alone hq).2)

end

/-! ## The takeover of the frame scheduler (R577 to R580) -/

/-- A record of the global queue. -/
theorem raiseG_errGlobal (s : State) (status arg src uid : Nat) (covered : Bool) :
    (s.raiseG status arg src uid covered).errGlobal = s.errGlobal.push 32768 (s.mkRec status 0 src uid arg covered) := by
  unfold State.raiseG State.logGlobal
  dsimp only
  split
  · rw [(kept_msix ..).errGlobal_eq (by decide)]
    rfl
  · rfl

/-- A change of the frame scheduler's state with its record. -/
theorem raiseG_frm (s : State) (f : FrmState) (status src : Nat) : let t := ({ s with frm := f } : State).raiseG status 0 src
    SameBut [.frm, .fns, .errGlobal, .out] s t ∧ t.frm = f := by
  have k : Kept 0x2040200000 ({ s with frm := f } : State) (({ s with frm := f } : State).raiseG status 0 src) := kept_raiseG ..
  refine ⟨SameBut.trans (t := { s with frm := f }) (Part.forall.2 ?_) (k.sameBut _ (by intro q; cases q <;> decide)), k.frm_eq (by decide)⟩
  simp [Part.same]

section
variable {s : State} {i : BootIn} {m : Nat}

/-- H1 is master without a standby, with its record. -/
def State.takenOver (s : State) (m : Nat) : State :=
  ({ s.at m with frm := { s.frm with schedH1 := true, standbyOk := false } }).raiseG St.hstSchedTakeover 0 (agent 9 0x70)

theorem exec_schedTakeover_standby (h : s.halted = false) (hs : s.frm.standbyOk = true) (b : Bool) :
    exec (.schedTakeover b m i) s = .next (if b then s.takenOver m else (s.takenOver m).tick m) := by
  refine (unlessDown_of_running h _).trans ?_
  exact congrArg _ (if_neg (by simp [State.at, hs]))

theorem exec_schedTakeover_alone (h : s.halted = false) (hs : s.frm.standbyOk = false) (b : Bool) :
    exec (.schedTakeover b m i) s = .next ((s.at m).warmReset i) := by
  refine (unlessDown_of_running h _).trans ?_
  exact congrArg _ (if_pos (by simp [State.at, hs]))

theorem takenOver_spec (s : State) (m : Nat) : let u := s.takenOver m
    SameBut [.now, .frm, .fns, .errGlobal, .out] s u ∧ u.now = max s.now m ∧ u.frm = { s.frm with schedH1 := true, standbyOk := false } ∧
      u.errGlobal = s.errGlobal.push 32768 ((s.at m).mkRec St.hstSchedTakeover 0 (agent 9 0x70) 0xFFFF 0 false) := by
  obtain ⟨hb, hf⟩ := raiseG_frm (s.at m) { s.frm with schedH1 := true, standbyOk := false } St.hstSchedTakeover (agent 9 0x70)
  refine ⟨?_, ?_, hf, raiseG_errGlobal ..⟩
  · exact ((kept_at s m).sameBut _ (by intro q; cases q <;> decide)).trans (hb.mono (by intro q; cases q <;> decide))
  · exact hb .now (by decide)

theorem takenOver_running (h : s.halted = false) (m : Nat) : (s.takenOver m).halted = false := by
  obtain ⟨hb, -⟩ := takenOver_spec s m
  have hd : (s.takenOver m).dev = s.dev := hb .dev (by decide)
  have hh : (s.takenOver m).hmk = s.hmk := hb .hmk (by decide)
  have hp : (s.takenOver m).pwr = s.pwr := hb .pwr (by decide)
  unfold State.halted State.clocksOff at h ⊢
  rwa [hd, hh, hp]

end

/-- Settles O54, from the stages of a boot and of a warm reset. -/
theorem bootResetAndTakeover : Obligations.BootResetAndTakeover := by
  unfold Obligations.BootResetAndTakeover
  intro s i f empty
  have rests {p : List Nat} {t : State} (h : AtRest p t) : empty t := ⟨h.units, h.sessions, h.clasps, h.merges, h.colls⟩
  refine ⟨?porst, fun hrun => ?running⟩
  case porst =>
    have hb := boot_risen s i
    refine ⟨s.boot i, rfl, rests hb.toAtRest, hb.perst, hb.count, hb.ticked, hb.fatal, hb.trip, hb.ready, fun hbit => ?bscan, fun hf hk => ?blank⟩
    case bscan =>
      obtain ⟨h1, h2, h3, h4⟩ := bootOnce_bscan s hbit
      rw [boot_of_not_limited h3]
      exact ⟨h1, h2, h4⟩
    case blank =>
      obtain ⟨h1, h2, h3, h4⟩ := bootOnce_blank s hf hk
      rw [boot_of_not_limited h3]
      exact ⟨h1, h2, h4⟩
  case running =>
    have trip : s.pwr.thermtrip = false := by
      simp only [State.halted, State.clocksOff, Bool.or_eq_false_iff] at hrun
      exact hrun.1.2
    have run (o) : s.unlessDown o = o := unlessDown_of_running hrun o
    refine ⟨fun ht hr hb hs => ?trial, fun h => ?noTrial, fun d => ?cdie, fun h => ?hub, fun m hs => ?takeover, fun m b d hs => ?alone,
      fun hs => ?lost, fun hs => ?noStandby⟩
    case trial => exact (run _).trans (congrArg _ (if_pos (by simp [ht, hr, hb, hs])))
    case noTrial => exact (run _).trans (congrArg _ (if_neg (by rcases h with h | h | h | h <;> simp [h])))
    case cdie =>
      obtain ⟨hr, hm, hp, hf, hc⟩ := warmReset_spec trip i
      exact ⟨_, run _, rests hr, hr.perst, hm, hp, hr.count, hr.ticked, hf, hc, hr.fatal⟩
    case hub => exact ⟨_, run _, ⟨rfl, rfl, rfl, rfl, rfl⟩, rfl, rfl, rfl, rfl, Bool.or_true _, rfl⟩
    case takeover =>
      obtain ⟨h1, h2, h3, h4⟩ := takenOver_spec s m
      refine ⟨s.takenOver m, exec_schedTakeover_standby hrun hs true, h1, h2, h3, h4, ?_⟩
      rw [exec_schedTakeover_standby hrun hs]
      exact (unlessDown_of_running (takenOver_running hrun m) _).symm
    case alone =>
      rw [exec_schedTakeover_alone hrun hs]
      exact (unlessDown_of_running (s := s.at m) hrun _).symm
    case lost =>
      obtain ⟨h1, h2⟩ := raiseG_frm s { s.frm with standbyOk := false } St.hstSchedStandbyLost (agent 9 0x70)
      exact ⟨_, (run _).trans (congrArg _ (if_pos hs)), h1, h2, raiseG_errGlobal ..⟩
    case noStandby => exact (run _).trans (congrArg _ (if_neg (by simp [hs])))

end Sys2Proof.Machine
end

section
/-! PROOF. Package memory under window C and the host cores: what a write through the directory stores, poison marks, and lines (R417,
R420, R424, R429, R659). -/

namespace Sys2Proof.Machine

/-! ## Stacks that wake (R659) -/

/-- Waking touches nothing but the list of stacks in self-refresh. -/
theorem wake_eq (s : State) (a : Nat) : ∃ l, s.wake a = { s with mem := { s.mem with selfRefresh := l } } := by
  unfold State.wake
  split
  · exact ⟨_, rfl⟩
  · exact ⟨s.mem.selfRefresh, rfl⟩

theorem MemState.putBytes_selfRefresh (m : MemState) (l : List Nat) (a : Nat) (bs : List Byte) :
    ({ m with selfRefresh := l } : MemState).putBytes a bs = { m.putBytes a bs with selfRefresh := l } := by
  induction bs generalizing m a with
  | nil => rfl
  | cons v t ih =>
    unfold MemState.putBytes
    rw [← ih]
    show (if m.retiredAt a = true then _ else _ : MemState).putBytes _ _ = _
    split <;> rfl

/-- Writing back one copy of a line. -/
def MemState.writeBack (m : MemState) (p : Nat × CoreLine) : MemState :=
  if p.2.dirty then
    let m := m.write (p.1 * 64) p.2.bytes
    if p.2.poison then m.mark (p.1 * 64) 64 else m
  else m

/-- The copies of the lines of a range, written back. -/
def MemState.writtenBack (m : MemState) (a n : Nat) : MemState :=
  (m.core.filter (fun p => (granules 64 a n).contains p.1)).foldl MemState.writeBack m

theorem MemState.flush_eq (m : MemState) (a n : Nat) : m.flush a n =
    { m.writtenBack a n with core := (m.writtenBack a n).core.filter (fun p => !(granules 64 a n).contains p.1) } := rfl

theorem MemState.writeBack_selfRefresh (m : MemState) (l : List Nat) (p : Nat × CoreLine) :
    ({ m with selfRefresh := l } : MemState).writeBack p = { m.writeBack p with selfRefresh := l } := by
  have hw : ({ m with selfRefresh := l } : MemState).write (p.1 * 64) p.2.bytes = { m.write (p.1 * 64) p.2.bytes with selfRefresh := l } := by
    unfold MemState.write
    rw [MemState.putBytes_selfRefresh]
  unfold MemState.writeBack
  rw [hw]
  cases p.2.dirty <;> cases p.2.poison <;> rfl

/-- A flush is the same whichever stacks are in self-refresh. -/
theorem MemState.flush_selfRefresh (m : MemState) (l : List Nat) (a n : Nat) :
    ({ m with selfRefresh := l } : MemState).flush a n = { m.flush a n with selfRefresh := l } := by
  have h : ({ m with selfRefresh := l } : MemState).writtenBack a n = { m.writtenBack a n with selfRefresh := l } := by
    unfold MemState.writtenBack
    exact List.foldl_hom (g₁ := MemState.writeBack) (fun k : MemState => { k with selfRefresh := l })
      (fun k p => MemState.writeBack_selfRefresh k l p)
  rw [MemState.flush_eq, h]
  rfl

/-! ## Writes through the directory -/

theorem MemState.putBytes_retired (m : MemState) (a : Nat) (bs : List Byte) : (m.putBytes a bs).retired = m.retired := by
  induction bs generalizing m a with
  | nil => rfl
  | cons v t ih =>
    unfold MemState.putBytes
    rw [ih]
    split <;> rfl

theorem MemState.flush_retired (m : MemState) (a n : Nat) : (m.flush a n).retired = m.retired := by
  have h (k : MemState) (p : Nat × CoreLine) : (k.writeBack p).retired = k.retired := by
    unfold MemState.writeBack
    split
    · split <;> exact MemState.putBytes_retired ..
    · rfl
  exact List.foldlRecOn (motive := fun k : MemState => k.retired = m.retired) _ _ rfl (fun k hk p _ => (h k p).trans hk)

theorem MemState.retiredAt_congr {m k : MemState} (h : k.retired = m.retired) (a : Nat) : k.retiredAt a = m.retiredAt a := by
  unfold MemState.retiredAt
  rw [h]

/-- A write stores the bytes that do not lie on a retired pseudo-channel (R424). -/
theorem MemState.putBytes_at (m : MemState) (a : Nat) (bs : List Byte) {k : Nat} (hk : k < bs.length) (hr : m.retiredAt (a + k) = false) :
    (m.putBytes a bs).ram.read (a + k) = bs.getD k 0 := by
  induction bs generalizing m a k with
  | nil => exact absurd hk (Nat.not_lt_zero _)
  | cons v t ih =>
    unfold MemState.putBytes
    cases k with
    | zero =>
      rw [if_neg (by rw [show m.retiredAt a = false from hr]; decide)]
      change (MemState.putBytes _ (a + 1) t).ram.read a = v
      rw [MemState.putBytes_other _ _ _ _ (.inl (Nat.lt_succ_self a))]
      exact Bytes.read_write_same ..
    | succ k =>
      rw [show a + (k + 1) = a + 1 + k by omega] at hr ⊢
      refine (ih _ (a + 1) (Nat.lt_of_succ_lt_succ hk) ?_).trans rfl
      split <;> exact hr

theorem memWriteC_at (s : State) (a : Nat) (bs : List Byte) {k : Nat} (hk : k < bs.length) (hr : s.mem.retiredAt (a + k) = false) :
    (s.memWriteC a bs).mem.ram.read (a + k) = bs.getD k 0 :=
  MemState.putBytes_at _ a bs hk ((MemState.retiredAt_congr (MemState.flush_retired ..) _).trans hr)

/-! ## Poison marks (R417) -/

theorem mem_foldl_sIns (xs l : List Nat) (y : Nat) : y ∈ xs.foldl (fun l x => sIns x l) l ↔ y ∈ xs ∨ y ∈ l := by
  induction xs generalizing l with
  | nil => simp
  | cons x t ih =>
    rw [List.foldl_cons, ih, mem_sIns, List.mem_cons]
    tauto

theorem mem_span (a n x : Nat) : x ∈ span a n ↔ a ≤ x ∧ x < a + n := by
  unfold span
  rw [List.mem_map]
  constructor
  · rintro ⟨i, hi, rfl⟩
    have := List.mem_range.1 hi
    omega
  · rintro ⟨h1, h2⟩
    exact ⟨x - a, List.mem_range.2 (by omega), by omega⟩

/-- What a mark meets reads as poison. -/
theorem MemState.poisoned_mark (m : MemState) (a : Nat) {n : Nat} (h : 0 < n) : (m.mark a n).poisoned a n = true := by
  have hm : a / 64 ∈ granMark 64 m.poison a n := by
    unfold granMark granules
    rw [mem_foldl_sIns, if_neg (by omega), mem_span]
    omega
  have hg : granHas 64 (granMark 64 m.poison a n) a n = true :=
    List.any_eq_true.2 ⟨a / 64, hm, by simp; omega⟩
  unfold MemState.poisoned MemState.mark
  simp [hg]

/-! ## Lines -/

/-- A range inside one line is one piece. -/
theorem linePieces_line {a n : Nat} (h0 : 0 < n) (h : a % 64 + n ≤ 64) : linePieces a n = [(0, n)] := by
  have hg : granules 64 a n = [a / 64] := by
    unfold granules
    rw [if_neg (by omega), show (a + n - 1) / 64 + 1 - a / 64 = 1 by omega]
    rfl
  unfold linePieces
  rw [hg]
  simp only [List.map_cons, List.map_nil, List.cons.injEq, Prod.mk.injEq, and_true]
  omega

end Sys2Proof.Machine
end

section
/-! PROOF. Accesses through window C (R554, R92, R420, R424, R429). -/

namespace Sys2Proof.Machine

/-- Only memory and the outputs change. -/
theorem sameBut_mem_out (s : State) (m : MemState) (o : List Out) : SameBut [.mem, .out] s { s with mem := m, out := o } :=
  Part.forall.2 (by simp [Part.same])

/-- Only memory changes. -/
theorem sameBut_mem (s : State) (m : MemState) : SameBut [.mem] s { s with mem := m } :=
  Part.forall.2 (by simp [Part.same])

/-- Where an access of window C goes that is refused. -/
def WinC.Refused (w : WinC) : Prop := w = .ur ∨ w = .denied ∨ (∃ a, w = .unpopulated a) ∨ ∃ a, w = .reserved a

theorem winCBad_spec (s : State) (f : Nat) (w : WinC) :
    SameBut [.fns, .errGlobal, .errCnt, .out] s (s.winCBad f w) ∧ .completion f true false false ∈ (s.winCBad f w).out := by
  refine ⟨(kept_winCBad s f w).sameBut _ (by intro p; cases p <;> decide), ?_⟩
  unfold State.winCBad
  exact List.mem_append_right _ List.mem_cons_self

section
variable {s : State} {f : Fin 66} {off : Nat} (hclk : s.clocksOff = false)
include hclk

/-- An endpoint under reset answers nothing. -/
theorem exec_winc_reset (hp : f.val / 33 ∈ s.perst) :
    (∀ n, exec (.wincRead f off n) s = .next s) ∧ ∀ d p, exec (.wincWrite f off d p) s = .next s :=
  ⟨fun _ => (unlessOff_of_clocks hclk _).trans (congrArg _ (if_pos (by simpa using hp))),
    fun _ _ => (unlessOff_of_clocks hclk _).trans (congrArg _ (if_pos (by simpa using hp)))⟩

variable (hp : f.val / 33 ∉ s.perst)
include hp

section
variable {n : Nat}

theorem exec_wincRead_refused {w : WinC} (hw : s.winC f.val off n false = w) (hr : w.Refused) :
    exec (.wincRead f off n) s = .next (s.winCBad f.val w) := by
  refine (unlessOff_of_clocks hclk _).trans (congrArg _ ((if_neg (by simpa using hp)).trans ?_))
  rw [hw]
  obtain rfl | rfl | ⟨a, rfl⟩ | ⟨a, rfl⟩ := hr <;> rfl

theorem exec_wincRead_shut (hw : s.winC f.val off n false = .shut) : exec (.wincRead f off n) s =
    .next ((s.count cntScratch).emit (.readData (fnVia f.val) (List.replicate n 0) false)) := by
  refine (unlessOff_of_clocks hclk _).trans (congrArg _ ((if_neg (by simpa using hp)).trans ?_))
  rw [hw]

theorem exec_wincRead_scratch {b o : Nat} (hw : s.winC f.val off n false = .scratch b o) : exec (.wincRead f off n) s =
    .next (s.emit (.readData (fnVia f.val) (((s.bead b).spRead o n).map (·.1)) ((s.bead b).spBad o n))) := by
  refine (unlessOff_of_clocks hclk _).trans (congrArg _ ((if_neg (by simpa using hp)).trans ?_))
  rw [hw]

/-- A read of memory outside the system reserve: the bytes and the poison behind the directory. -/
theorem exec_wincRead_mem {a : Nat} (hw : s.winC f.val off n false = .mem a) (hx : ∀ x, a ≤ x → x < a + n → inReserve x = false) :
    ∃ t, exec (.wincRead f off n) s = .next t ∧ SameBut [.freeCtr, .mem, .out] s t ∧ t.mem.ram = (s.memFlush a n).mem.ram ∧
      t.out = s.out ++ [.readData (fnVia f.val) ((span a n).map (s.memFlush a n).mem.ram.read) ((s.memFlush a n).mem.poisoned a n)] := by
  obtain ⟨l, hl⟩ := wake_eq (s.memFlush a n) a
  have bytes {e : Nat} (t : State) : (span a n).map (fun x => if inReserve x then t.reserveByte e x else t.mem.ram.read x) =
      (span a n).map t.mem.ram.read := by
    refine List.map_congr_left (fun x hm => if_neg ?_)
    rw [mem_span] at hm
    rw [hx x hm.1 hm.2]
    decide
  let m := s.mem.flush a n
  let t : State := { s with freeCtr := s.freeCtr + 1, mem := { m with selfRefresh := l }, out := s.out ++ [.readData (fnVia f.val) ((span a n).map m.ram.read) (m.poisoned a n)] }
  refine ⟨t, (unlessOff_of_clocks hclk _).trans (congrArg _ ((if_neg (by simpa using hp)).trans ?_)), Part.forall.2 (by simp [Part.same, t]), rfl, rfl⟩
  rw [hw]
  dsimp only [State.fresh]
  rw [bytes, hl]
  rfl

end

section
variable {d : List Byte} {p : Bool}

theorem exec_wincWrite_refused {w : WinC} (hw : s.winC f.val off d.length true = w) (hr : w.Refused) :
    exec (.wincWrite f off d p) s = .next (s.winCBad f.val w) := by
  refine (unlessOff_of_clocks hclk _).trans (congrArg _ ((if_neg (by simpa using hp)).trans ?_))
  rw [hw]
  obtain rfl | rfl | ⟨a, rfl⟩ | ⟨a, rfl⟩ := hr <;> rfl

theorem exec_wincWrite_shut (hw : s.winC f.val off d.length true = .shut) : exec (.wincWrite f off d p) s = .next (s.count cntScratch) := by
  refine (unlessOff_of_clocks hclk _).trans (congrArg _ ((if_neg (by simpa using hp)).trans ?_))
  rw [hw]

theorem exec_wincWrite_scratch {b o : Nat} (hw : s.winC f.val off d.length true = .scratch b o) :
    exec (.wincWrite f off d false) s = .next (s.updBead b (fun x => x.spWrite o d)) := by
  refine (unlessOff_of_clocks hclk _).trans (congrArg _ ((if_neg (by simpa using hp)).trans ?_))
  rw [hw]
  rfl

/-- A write of memory stores its bytes, what the flush of its lines writes back, and no other byte; poisoned, it marks its lines. -/
theorem exec_wincWrite_mem {a : Nat} (hw : s.winC f.val off d.length true = .mem a) :
    ∃ t, exec (.wincWrite f off d p) s = .next t ∧ SameBut [.mem] s t ∧
      (∀ k, k < d.length → s.mem.retiredAt (a + k) = false → t.mem.ram.read (a + k) = d.getD k 0) ∧
      (∀ x, ¬ s.mem.touches a d.length x → t.mem.ram.read x = s.mem.ram.read x) ∧ (p = true → 0 < d.length → t.mem.poisoned a d.length = true) := by
  obtain ⟨l, hl⟩ := wake_eq s a
  let v : State := ({ s with mem := { s.mem with selfRefresh := l } } : State).memWriteC a d
  refine ⟨if p then v.memMark a d.length else v, (unlessOff_of_clocks hclk _).trans (congrArg _ ((if_neg (by simpa using hp)).trans ?_)), ?_⟩
  · rw [hw]
    dsimp only
    rw [hl]
  · have hs : SameBut [.mem] s (if p then v.memMark a d.length else v) := by
      cases p
      · exact sameBut_mem s v.mem
      · exact sameBut_mem s (v.mem.mark a d.length)
    have hr : (if p then v.memMark a d.length else v).mem.ram = v.mem.ram := by cases p <;> rfl
    refine ⟨hs, fun k hk hn => ?_, fun x hx => ?_, ?_⟩
    · rw [hr]
      exact memWriteC_at _ a d hk hn
    · rw [hr]
      exact memWriteC_read _ a x d hx
    · rintro rfl h0
      exact MemState.poisoned_mark v.mem a h0

end

end

end Sys2Proof.Machine
end

section
/-! PROOF. Accesses of the host cores (R87, R420, R429, R434, R552). -/

namespace Sys2Proof.Machine

/-! ## Lines of the core caches -/

/-- A line as a fetch brings it. -/
def State.lineAt (s : State) (g : Nat) : CoreLine := ⟨s.mem.ram.readN (g * 64) 64, s.mem.poisoned (g * 64) 64, false⟩

/-- The cores' copy of a line replaced. -/
def State.setLine (s : State) (g : Nat) (l : CoreLine) : State := { s with mem := { s.mem with core := mput s.mem.core g l } }

theorem State.lineAt_wake (s : State) (a g : Nat) : (s.wake a).lineAt g = s.lineAt g := by
  obtain ⟨l, hl⟩ := wake_eq s a
  rw [hl]
  rfl

theorem wake_core (s : State) (a : Nat) : (s.wake a).mem.core = s.mem.core := by
  obtain ⟨l, hl⟩ := wake_eq s a
  rw [hl]

theorem wake_ram (s : State) (a : Nat) : (s.wake a).mem.ram = s.mem.ram := by
  obtain ⟨l, hl⟩ := wake_eq s a
  rw [hl]

theorem wake_out (s : State) (a : Nat) : (s.wake a).out = s.out := by
  obtain ⟨l, hl⟩ := wake_eq s a
  rw [hl]

theorem wake_sameBut (s : State) (a : Nat) : SameBut [.mem] s (s.wake a) := by
  obtain ⟨l, hl⟩ := wake_eq s a
  rw [hl]
  exact sameBut_mem s _

theorem coreLine_none {u : State} {g : Nat} (h : mfind u.mem.core g = none) : u.coreLine g = (u.setLine g (u.lineAt g), u.lineAt g) := by
  unfold State.coreLine
  rw [h]
  rfl

theorem coreLine_dirty {u : State} {g : Nat} {l : CoreLine} (h : mfind u.mem.core g = some l) (hd : l.dirty = true) : u.coreLine g = (u, l) := by
  unfold State.coreLine
  simp only [h, hd, if_true]

/-- A load inside one line. -/
theorem coreDo_load_line {u t : State} {l : CoreLine} (c a : Nat) {k : Nat} (h0 : 0 < k) (hk : a % 64 + k ≤ 64) (hr : u.coreLine (a / 64) = (t, l)) :
    u.coreDo c a (.load k) =
      if l.poison = true then ({ t with mem := { t.mem with coreErr := mput t.mem.coreErr c a } } : State).emit (.coreFault c (some a))
      else t.emit (.readData (.coreA c) ((l.bytes.drop (a % 64)).take k) false) := by
  have hload : u.coreLoad a (linePieces a k) = (t, (l.bytes.drop (a % 64)).take k, if l.poison = true then some a else none) := by
    rw [linePieces_line h0 hk]
    dsimp only [State.coreLoad]
    rw [Nat.add_zero, hr, List.append_nil]
  show (match u.coreLoad a (linePieces a k) with | (s, bs, none) => _ | (s, _, some x) => _) = _
  rw [hload]
  cases l.poison <;> rfl

theorem lineAt_part (s : State) (a : Nat) {k : Nat} (hk : a % 64 + k ≤ 64) :
    (((s.lineAt (a / 64)).bytes.drop (a % 64)).take k) = s.mem.ram.readN a k := by
  have h := Bytes.readN_slice s.mem.ram (a := a / 64 * 64) hk
  rw [Nat.div_add_mod' a 64] at h
  exact h

/-- Storing all bytes of a line leaves none of the old ones. -/
theorem setBytes_whole (l d : List Byte) (h : l.length = d.length) : setBytes l 0 d = d := by
  unfold setBytes
  simp [h]

/-- A store of a whole line that the caches do not hold. -/
theorem coreStore_whole {u : State} {g : Nat} (h : mfind u.mem.core g = none) {d : List Byte} (hd : d.length = 64) :
    u.coreStore (g * 64) d = (u.setLine g (u.lineAt g)).setLine g ⟨d, false, true⟩ := by
  have hlen : (u.lineAt g).bytes.length = d.length := by
    rw [hd]
    exact Bytes.length_readN ..
  unfold State.coreStore
  dsimp only
  rw [Nat.mul_div_cancel g (by decide : 0 < 64), Nat.mul_mod_left, coreLine_none h]
  dsimp only
  rw [setBytes_whole _ _ hlen, hd, decide_eq_false (Nat.lt_irrefl 64), Bool.and_false]
  rfl

theorem coreDo_store_whole {u : State} {c a : Nat} (h : mfind u.mem.core (a / 64) = none) {d : List Byte} (hd : d.length = 64) (ha : a % 64 = 0) :
    u.coreDo c a (.store d) = (u.setLine (a / 64) (u.lineAt (a / 64))).setLine (a / 64) ⟨d, false, true⟩ := by
  have hs := coreStore_whole h hd
  rw [show a / 64 * 64 = a by omega] at hs
  show (linePieces a d.length).foldl (fun s p => s.coreStore (a + p.1) ((d.drop p.1).take p.2)) u = _
  rw [linePieces_line (by omega) (by omega), List.foldl_cons, List.foldl_nil, List.drop_zero, Nat.add_zero, List.take_length, hs]

theorem coreDo_clean_none {u : State} {c a : Nat} (h : mfind u.mem.core (a / 64) = none) : u.coreDo c a .cacheClean = u := by
  show u.coreClean (a / 64) = u
  unfold State.coreClean
  rw [h]

theorem coreDo_clean_dirty {u : State} {c a : Nat} {l : CoreLine} (h : mfind u.mem.core (a / 64) = some l) (hd : l.dirty = true) :
    u.coreDo c a .cacheClean = (u.memFlush (a / 64 * 64) 64).setLine (a / 64) { l with dirty := false } := by
  show u.coreClean (a / 64) = _
  unfold State.coreClean
  simp only [h, hd, if_true]
  rfl

/-! ## The row -/

/-- The checks of a host core's access of package memory. -/
def State.corePasses (s : State) (c addr : Nat) (op : CoreAcc) : Prop :=
  ¬ (s.notUp = true ∨ c ∈ s.ras.haltedCores) ∧
  (aliasAt addr = none ∧ ¬ (0x30000000000 ≤ addr ∧ addr < 0x30004000000) ∧ (scratchAt addr).any (fun p => decide (p.2 + accSize op ≤ 0x600000)) = false) ∧
  s.set.cur.linesOk addr (accSize op) = true ∧ (accWrites op && anyReserve addr (accSize op)) = false ∧
  s.set.cur.linesIn (s.set.cur.coreUnits c) addr (accSize op) = true

theorem coreFault_spec {s t : State} (c : Nat) (h : SameBut [.fns, .errGlobal, .out] s t) :
    SameBut [.fns, .errGlobal, .out] s (t.emit (.coreFault c none)) ∧ .coreFault c none ∈ (t.emit (.coreFault c none)).out :=
  ⟨h.trans ((kept_emit t _).sameBut _ (by intro p; cases p <;> decide)), List.mem_append_right _ List.mem_cons_self⟩

section
variable {s : State} {c : Fin 48} {addr : Nat} {op : CoreAcc} (hrun : s.halted = false)
include hrun

theorem exec_core_down (h : s.notUp = true ∨ c.val ∈ s.ras.haltedCores) : exec (.hostCoreAccess c addr op) s = .next s :=
  (unlessDown_of_running hrun _).trans (congrArg _ (if_pos (by simpa using h)))

section
variable (hup : ¬ (s.notUp = true ∨ c.val ∈ s.ras.haltedCores))
include hup

/-- An access to a user window is the core's register access there. -/
theorem exec_core_alias {w o : Nat} (hal : aliasAt addr = some (w, o)) :
    (∀ k, op = .load k → exec (.hostCoreAccess c addr op) s = exec (.registerRead (.core c.val w) o k) s) ∧
    (∀ d, op = .store d → exec (.hostCoreAccess c addr op) s = exec (.registerWrite (.core c.val w) o d) s) ∧
    ((∀ k, op ≠ .load k) → (∀ d, op ≠ .store d) → exec (.hostCoreAccess c addr op) s = .next (s.emit (.coreFault c.val none))) := by
  have hclk : s.clocksOff = false := (Bool.or_eq_false_iff.1 hrun).1
  refine ⟨fun k hop => ?_, fun d hop => ?_, fun hl hs => ?_⟩
  · subst hop
    refine ((unlessDown_of_running hrun _).trans (congrArg _ ((if_neg (by simpa using hup)).trans ?_))).trans (unlessOff_of_clocks hclk _).symm
    rw [hal]
  · subst hop
    refine ((unlessDown_of_running hrun _).trans (congrArg _ ((if_neg (by simpa using hup)).trans ?_))).trans (unlessOff_of_clocks hclk _).symm
    rw [hal]
  · refine (unlessDown_of_running hrun _).trans (congrArg _ ((if_neg (by simpa using hup)).trans ?_))
    rw [hal]
    cases op with
    | load k => exact absurd rfl (hl k)
    | store d => exact absurd rfl (hs d)
    | _ => rfl

/-- A refused access of package memory faults, and changes no memory. -/
theorem exec_core_refused (hal : aliasAt addr = none) (hno : ¬ s.corePasses c.val addr op) :
    ∃ t, exec (.hostCoreAccess c addr op) s = .next t ∧ SameBut [.fns, .errGlobal, .out] s t ∧ .coreFault c.val none ∈ t.out := by
  have raised (st arg src : Nat) : SameBut [.fns, .errGlobal, .out] s (s.raiseG st arg src) :=
    (kept_raiseG ..).sameBut _ (by intro p; cases p <;> decide)
  refine ⟨_, (unlessDown_of_running hrun _).trans (congrArg _ (if_neg (by simpa using hup))), ?_⟩
  rw [hal]
  dsimp only
  split
  next => exact coreFault_spec _ (SameBut.refl _ _)
  next hwin =>
  split
  next => exact coreFault_spec _ (SameBut.refl _ _)
  next hsp =>
  split
  next => exact coreFault_spec _ (raised _ _ _)
  next hok =>
  split
  next => exact coreFault_spec _ (raised _ _ _)
  next hres =>
  split
  next => exact coreFault_spec _ (SameBut.refl _ _)
  next hin =>
  exact absurd ⟨hup, ⟨hal, hwin, by simpa using hsp⟩, by simpa using hok, by simpa using hres, by simpa using hin⟩ hno

end

/-- An access that passes acts on the caches and memory. -/
theorem exec_core_passes (h : s.corePasses c.val addr op) : exec (.hostCoreAccess c addr op) s = .next ((s.wake addr).coreDo c.val addr op) := by
  obtain ⟨hup, ⟨hal, hwin, hsp⟩, hok, hres, hin⟩ := h
  refine (unlessDown_of_running hrun _).trans (congrArg _ ((if_neg (by simpa using hup)).trans ?_))
  rw [hal]
  dsimp only
  rw [if_neg hwin, hsp, hok, hres, hin]
  rfl

section
variable (h : s.corePasses c.val addr op)
include h

/-- A load of part of a line that the caches do not hold. -/
theorem exec_core_load_miss {k : Nat} (hop : op = .load k) (h0 : 0 < k) (hk : addr % 64 + k ≤ 64) (hm : mfind s.mem.core (addr / 64) = none) :
    ∃ t, exec (.hostCoreAccess c addr op) s = .next t ∧ SameBut [.mem, .out] s t ∧ t.mem.ram = s.mem.ram ∧
      t.out = s.out ++ [if s.mem.poisoned (addr / 64 * 64) 64 = true then .coreFault c.val (some addr)
        else .readData (.coreA c.val) (s.mem.ram.readN addr k) false] := by
  have hn : mfind (s.wake addr).mem.core (addr / 64) = none := by rw [wake_core, hm]
  have hmem (t : State) (ht : SameBut [.mem] s t) (m : MemState) (o : List Out) : SameBut [.mem, .out] s { t with mem := m, out := o } :=
    (ht.mono (by intro p; cases p <;> decide)).trans (sameBut_mem_out t m o)
  refine ⟨_, exec_core_passes hrun h, ?_⟩
  rw [hop, coreDo_load_line _ _ h0 hk (coreLine_none hn), State.lineAt_wake, lineAt_part s addr hk]
  cases hp : s.mem.poisoned (addr / 64 * 64) 64
  · rw [if_neg (by rw [show (s.lineAt (addr / 64)).poison = false from hp]; decide)]
    exact ⟨hmem _ (wake_sameBut s addr) _ _, wake_ram s addr, congrArg (· ++ _) (wake_out s addr)⟩
  · rw [if_pos (show (s.lineAt (addr / 64)).poison = true from hp)]
    exact ⟨hmem _ (wake_sameBut s addr) _ _, wake_ram s addr, congrArg (· ++ _) (wake_out s addr)⟩

theorem exec_core_load_dirty {k : Nat} {l : CoreLine} (hop : op = .load k) (h0 : 0 < k) (hk : addr % 64 + k ≤ 64)
    (hm : mfind s.mem.core (addr / 64) = some l) (hd : l.dirty = true) (hp : l.poison = false) :
    exec (.hostCoreAccess c addr op) s = .next ((s.wake addr).emit (.readData (.coreA c.val) ((l.bytes.drop (addr % 64)).take k) false)) := by
  have hn : mfind (s.wake addr).mem.core (addr / 64) = some l := by rw [wake_core, hm]
  rw [exec_core_passes hrun h, hop, coreDo_load_line _ _ h0 hk (coreLine_dirty hn hd), if_neg (by simp [hp])]

theorem exec_core_store {d : List Byte} (hop : op = .store d) (hd : d.length = 64) (ha : addr % 64 = 0) (hm : mfind s.mem.core (addr / 64) = none) :
    exec (.hostCoreAccess c addr op) s = .next { s.wake addr with mem := { (s.wake addr).mem with
      core := mput (mput s.mem.core (addr / 64) (s.lineAt (addr / 64))) (addr / 64) ⟨d, false, true⟩ } } := by
  rw [exec_core_passes hrun h, hop, coreDo_store_whole (by rw [wake_core, hm]) hd ha, State.lineAt_wake, ← wake_core s addr]
  rfl

theorem exec_core_zero (hop : op = .cacheZero) (hm : mfind s.mem.core (addr / 64) = none) :
    ∃ t, exec (.hostCoreAccess c addr op) s = .next t ∧ SameBut [.mem] s t ∧ t.mem.ram = s.mem.ram ∧
      mfind t.mem.core (addr / 64) = some ⟨List.replicate 64 0, false, true⟩ := by
  have hn : mfind (s.wake addr).mem.core (addr / 64) = none := by rw [wake_core, hm]
  refine ⟨_, exec_core_passes hrun h, ?_⟩
  rw [hop, show (s.wake addr).coreDo c.val addr .cacheZero = (s.wake addr).coreStore (addr / 64 * 64) (List.replicate 64 0) from rfl,
    coreStore_whole hn List.length_replicate]
  exact ⟨(wake_sameBut s addr).trans (sameBut_mem _ _), wake_ram s addr, mfind_mput_same ..⟩

/-- Cleaning a dirty line writes it back and keeps a clean copy. -/
theorem exec_core_clean {l : CoreLine} (hop : op = .cacheClean) (hm : mfind s.mem.core (addr / 64) = some l) (hd : l.dirty = true) :
    ∃ t, exec (.hostCoreAccess c addr op) s = .next t ∧ SameBut [.mem] s t ∧ t.mem.ram = (s.memFlush (addr / 64 * 64) 64).mem.ram ∧
      mfind t.mem.core (addr / 64) = some { l with dirty := false } := by
  have hram : ((s.wake addr).memFlush (addr / 64 * 64) 64).mem.ram = (s.memFlush (addr / 64 * 64) 64).mem.ram := by
    obtain ⟨k, hk⟩ := wake_eq s addr
    rw [hk]
    unfold State.memFlush
    dsimp only
    rw [MemState.flush_selfRefresh]
  refine ⟨_, exec_core_passes hrun h, ?_⟩
  rw [hop, coreDo_clean_dirty (by rw [wake_core, hm]) hd]
  exact ⟨(wake_sameBut s addr).trans (sameBut_mem _ _), hram, mfind_mput_same ..⟩

end

end

end Sys2Proof.Machine
end

section
/-! PROOF. Register accesses from the gate to the register: refusals, single words, and the halves of 64-bit registers (R552, R557, R558,
R567, R632, Table 17-2, Table 17-3). -/

namespace Sys2Proof.Machine

/-! ## The halves of a requester (Table 17-3) -/

theorem halvesOf_via (s : State) (v : Via) : (s.halvesOf v).via = requester v := by
  unfold State.halvesOf
  cases h : s.halves.find? (fun h => h.via == requester v) with
  | none => rfl
  | some x =>
    have hx := List.find?_some h
    exact eq_of_beq hx

theorem halvesOf_setHalves (s : State) {v : Via} {h : Halves} (hv : h.via = requester v) : (s.setHalves h).halvesOf v = h := by
  unfold State.halvesOf State.setHalves
  simp [hv]

/-! ## Words -/

theorem wordsOk_word {o : Nat} (ho : o % 4 = 0) : wordsOk o 4 = true := by
  simp [wordsOk, ho]

theorem Space.not_cuts_word (p : Space) (o : Nat) : p.cuts o 4 = false := by
  simp [Space.cuts]

/-- The low half of a 64-bit register is a word's offset. -/
theorem Space.pair_aligned {p : Space} {o : Nat} (h : p.pair o = some o) : o % 4 = 0 := by
  unfold Space.pair at h
  cases p with
  | a =>
    dsimp only at h
    split at h
    · have := Option.some.inj h
      omega
    · split at h
      · have := Option.some.inj h
        omega
      · cases h
  | win w =>
    dsimp only at h
    split at h
    · have := Option.some.inj h
      omega
    · cases h
  | page f => cases h

theorem rdBefore_plain {s : State} {p : Space} {o : Nat} (h : p ≠ .a ∨ o ≠ 0x90700) : s.rdBefore p o = s :=
  if_neg (by tauto)

theorem rdWord_single {s : State} {v : Via} {p : Space} {o : Nat} {four : Bool} (hp : p.pair o = none) (h : p ≠ .a ∨ (o ≠ 0x90700 ∧ o ≠ 0xD0004)) :
    s.rdWord v p o four = (s, s.rdReg p o % 2 ^ 32) := by
  have ha : s.rdAfter p o = s := if_neg (by tauto)
  unfold State.rdWord
  rw [rdBefore_plain (h.imp_right And.left)]
  simp only [hp, ha]

/-- The read of a low half captures the high half. -/
theorem rdWord_low {s : State} {v : Via} {p : Space} {o : Nat} (hp : p.pair o = some o) (h : p ≠ .a ∨ o ≠ 0x90700) : s.rdWord v p o true =
    (s.setHalves { s.halvesOf v with captured := mput (s.halvesOf v).captured (p.key o) (s.rdReg p o / 2 ^ 32 % 2 ^ 32) }, s.rdReg p o % 2 ^ 32) := by
  unfold State.rdWord
  rw [rdBefore_plain h]
  simp only [hp, if_true]

/-- The read of a high half gives what was captured. -/
theorem rdWord_high {s : State} {v : Via} {p : Space} {o b c : Nat} (hp : p.pair o = some b) (hb : o ≠ b)
    (hc : mfind (s.halvesOf v).captured (p.key b) = some c) (h : p ≠ .a ∨ o ≠ 0x90700) :
    s.rdWord v p o true = (s.setHalves { s.halvesOf v with captured := mdel (s.halvesOf v).captured (p.key b) }, c) := by
  unfold State.rdWord
  rw [rdBefore_plain h]
  simp only [hp, hb, hc, if_true, if_false]

/-! ## Reads -/

section
variable {s : State} {v : Via} {o : Nat}

theorem regRead_ur {c : Option Nat} (n : Nat) (h : s.gate v o false = .ur c) : s.regRead v o n = (s.countOpt c).answerBad v false := by
  unfold State.regRead
  rw [h]

theorem regRead_zero {c : Option Nat} (n : Nat) (h : s.gate v o false = .zero c) :
    s.regRead v o n = (s.countOpt c).emit (.readData v (List.replicate n 0) false) := by
  unfold State.regRead
  rw [h]

theorem regRead_fault {c : Nat} (n : Nat) (h : s.gate v o false = .fault c) : s.regRead v o n = s.emit (.coreFault c none) := by
  unfold State.regRead
  rw [h]

theorem regRead_width {p : Space} {n : Nat} (h : s.gate v o false = .ok p) (hn : wordsOk o n = false ∨ p.cuts o n = true) :
    s.regRead v o n = s.answerBad v true := by
  unfold State.regRead
  rw [h]
  exact if_pos (by simpa using hn)

theorem regRead_word {p : Space} (h : s.gate v o false = .ok p) (ho : o % 4 = 0) :
    s.regRead v o 4 = (s.rdWord v p o true).1.emit (.readData v (leBytes 4 (s.rdWord v p o true).2) false) := by
  have hw : (List.range (ceilDiv 4 4)).map (fun i => o / 4 * 4 + 4 * i) = [o] := by
    rw [show ceilDiv 4 4 = 1 from rfl, List.range_one, List.map_singleton, Nat.mul_zero, Nat.add_zero, Nat.div_mul_cancel (Nat.dvd_of_mod_eq_zero ho)]
  have hb : ((leBytes 4 (s.rdWord v p o true).2 ++ []).drop (o % 4)).take 4 = leBytes 4 (s.rdWord v p o true).2 := by
    rw [ho, List.append_nil, List.drop_zero]
    exact List.take_of_length_le (by simp)
  unfold State.regRead
  rw [h]
  refine (if_neg (by simp [wordsOk_word ho, Space.not_cuts_word])).trans ?_
  dsimp only
  rw [hw]
  exact congrArg (fun bs => (s.rdWord v p o true).1.emit (.readData v bs false)) hb

/-! ## Writes -/

theorem regWrite_ur {c : Option Nat} (d : List Byte) (h : s.gate v o true = .ur c) : s.regWrite v o d = (s.countOpt c).answerBad v false := by
  unfold State.regWrite
  rw [h]

theorem regWrite_zero {c : Option Nat} (d : List Byte) (h : s.gate v o true = .zero c) : s.regWrite v o d = s.countOpt c := by
  unfold State.regWrite
  rw [h]

theorem regWrite_fault {c : Nat} (d : List Byte) (h : s.gate v o true = .fault c) : s.regWrite v o d = s.emit (.coreFault c none) := by
  unfold State.regWrite
  rw [h]

variable {p : Space} {d : List Byte} (hg : s.gate v o true = .ok p)
include hg

theorem regWrite_width (hn : wordsOk o d.length = false ∨ p.cuts o d.length = true) : s.regWrite v o d = s.answerBad v true := by
  unfold State.regWrite
  rw [hg]
  exact if_pos (by simpa using hn)

section
variable (hd : d.length = 4) (ho : o % 4 = 0)
include hd ho

theorem regWrite_single (hp : p.pair o = none) : s.regWrite v o d = (s.dropHeld v).put v p o (leNat d) := by
  have hw : (List.range (d.length / 4)).map (fun i => (o + 4 * i, leNat ((d.drop (4 * i)).take 4))) = [(o, leNat d)] := by
    rw [hd, show 4 / 4 = 1 from rfl, List.range_one, List.map_singleton, Nat.mul_zero, Nat.add_zero, List.drop_zero, List.take_of_length_le hd.le]
  unfold State.regWrite
  rw [hg]
  refine (if_neg (by simp [hd, wordsOk_word ho, Space.not_cuts_word])).trans ((if_neg (by omega)).trans ?_)
  rw [hp]
  dsimp only
  rw [hw]
  rfl

theorem regWrite_half {b : Nat} (hp : p.pair o = some b) : s.regWrite v o d = s.putHalf v p b o (leNat d) := by
  unfold State.regWrite
  rw [hg]
  refine (if_neg (by simp [hd, wordsOk_word ho, Space.not_cuts_word])).trans ((if_neg (by omega)).trans ?_)
  rw [hp]
  exact if_pos hd

end

end

/-- A low half that is written is held. -/
theorem putHalf_low {s : State} (v : Via) {p : Space} {o : Nat} (x : Nat) (hc : isClpOp p o = false) :
    SameBut [.halves] s (s.putHalf v p o o x) ∧ ((s.putHalf v p o o x).halvesOf v).held = some (p.key o, x) := by
  have hput : s.putHalf v p o o x = (s.dropHeld v).setHalves { s.halvesOf v with held := some (p.key o, x) } := by
    unfold State.putHalf
    rw [if_neg (by simp [hc]), if_pos rfl]
  rw [hput]
  refine ⟨((kept_dropHeld s v).trans (kept_setHalves ..)).sameBut _ (by intro q; cases q <;> decide), ?_⟩
  exact congrArg Halves.held (halvesOf_setHalves (h := { s.halvesOf v with held := some (p.key o, x) }) _ (halvesOf_via s v))

/-- A high half that is written takes the held low half with it. -/
theorem putHalf_high {s : State} {v : Via} {p : Space} {o b y : Nat} (x : Nat) (hc : isClpOp p b = false) (hb : o ≠ b)
    (hh : (s.halvesOf v).held = some (p.key b, y)) : s.putHalf v p b o x = (s.dropHeld v).put v p b (y + x * 2 ^ 32) := by
  unfold State.putHalf
  rw [if_neg (by simp [hc]), if_neg hb, hh]
  dsimp only
  rw [if_pos rfl]

/-- Without a negotiated version, a guarded register takes nothing (R567). -/
theorem put_unset {s : State} {v : Via} {p : Space} {o x f : Nat} (hf : viaFn v = some f) (h0 : (s.fn f).abi = 0) (hn : needsAbi p o x = true) :
    s.put v p o x = s.count cntAbiUnset := by
  unfold State.put
  rw [hf]
  exact if_pos (by simp [h0, hn])

theorem dropHeld_fn (s : State) (v : Via) (f : Nat) : (s.dropHeld v).fn f = s.fn f := by
  unfold State.fn
  rw [dropHeld_fns]

end Sys2Proof.Machine
end

section
/-! PROOF. WINC_READ, WINC_WRITE, HOST_CORE_ACCESS, REGISTER_READ and REGISTER_WRITE, put together. -/

namespace Sys2Proof.Machine

/-! ## The register rows -/

theorem sameBut_halves_out (s : State) (h : Halves) (x : Out) : SameBut [.halves, .out] s ((s.setHalves h).emit x) :=
  ((kept_setHalves s h).sameBut _ (by intro q; cases q <;> decide)).trans ((kept_emit _ x).sameBut _ (by intro q; cases q <;> decide))

section
variable {s : State} {v : Via} {o : Nat} (hclk : s.clocksOff = false)
include hclk

theorem exec_registerRead (n : Nat) : exec (.registerRead v o n) s = .next (s.regRead v o n) := unlessOff_of_clocks hclk _

theorem exec_registerWrite (d : List Byte) : exec (.registerWrite v o d) s = .next (s.regWrite v o d) := unlessOff_of_clocks hclk _

section
variable {p : Space} (hg : s.gate v o false = .ok p)
include hg

theorem exec_registerRead_single (ho : o % 4 = 0) (hp : p.pair o = none) (h : p ≠ .a ∨ (o ≠ 0x90700 ∧ o ≠ 0xD0004)) :
    exec (.registerRead v o 4) s = .next (s.emit (.readData v (leBytes 4 (s.rdReg p o % 2 ^ 32)) false)) := by
  rw [exec_registerRead hclk, regRead_word hg ho, rdWord_single hp h]

theorem exec_registerRead_low (ho : o % 8 = 0) (hp : p.pair o = some o) (h : p ≠ .a ∨ o ≠ 0x90700) :
    ∃ t, exec (.registerRead v o 4) s = .next t ∧ SameBut [.halves, .out] s t ∧
      t.out = s.out ++ [.readData v (leBytes 4 (s.rdReg p o % 2 ^ 32)) false] ∧
      mfind (t.halvesOf v).captured (p.key o) = some (s.rdReg p o / 2 ^ 32 % 2 ^ 32) := by
  refine ⟨_, exec_registerRead hclk 4, ?_⟩
  rw [regRead_word hg (by omega), rdWord_low hp h]
  refine ⟨sameBut_halves_out _ _ _, rfl, ?_⟩
  have hk := congrArg Halves.captured (halvesOf_setHalves s (v := v)
    (h := { s.halvesOf v with captured := mput (s.halvesOf v).captured (p.key o) (s.rdReg p o / 2 ^ 32 % 2 ^ 32) }) (halvesOf_via s v))
  exact (congrArg (mfind · (p.key o)) hk).trans (mfind_mput_same ..)

theorem exec_registerRead_high {c : Nat} (ho : o % 8 = 4) (hp : p.pair o = some (o - 4))
    (hc : mfind (s.halvesOf v).captured (p.key (o - 4)) = some c) (h : p ≠ .a ∨ o ≠ 0x90700) :
    ∃ t, exec (.registerRead v o 4) s = .next t ∧ SameBut [.halves, .out] s t ∧ t.out = s.out ++ [.readData v (leBytes 4 c) false] := by
  refine ⟨_, exec_registerRead hclk 4, ?_⟩
  rw [regRead_word hg (by omega), rdWord_high hp (by omega) hc h]
  exact ⟨sameBut_halves_out _ _ _, rfl⟩

end

section
variable {p : Space} {d : List Byte} (hg : s.gate v o true = .ok p) (hd : d.length = 4)
include hg hd

theorem exec_registerWrite_single (ho : o % 4 = 0) (hp : p.pair o = none) :
    ((∀ f, viaFn v = some f → (s.fn f).abi ≠ 0 ∨ needsAbi p o (leNat d) = false) →
      exec (.registerWrite v o d) s = .next ((s.dropHeld v).wrReg v p o (leNat d))) ∧
    (∀ f, viaFn v = some f → (s.fn f).abi = 0 → needsAbi p o (leNat d) = true → exec (.registerWrite v o d) s = .next ((s.dropHeld v).count 9)) := by
  rw [exec_registerWrite hclk, regWrite_single hg hd ho hp]
  refine ⟨fun h => congrArg _ (put_of_negotiated ?_), fun f hf h0 hn => congrArg _ (put_unset hf ((congrArg PcieFn.abi (dropHeld_fn s v f)).trans h0) hn)⟩
  cases hn : needsAbi p o (leNat d) with
  | false => exact .inl rfl
  | true => exact .inr (negotiated_dropHeld (fun f hf => (h f hf).resolve_right (by simp [hn])))

theorem exec_registerWrite_low (hp : p.pair o = some o) (hc : isClpOp p o = false) :
    ∃ t, exec (.registerWrite v o d) s = .next t ∧ SameBut [.halves] s t ∧ (t.halvesOf v).held = some (p.key o, leNat d) := by
  refine ⟨_, exec_registerWrite hclk d, ?_⟩
  rw [regWrite_half hg hd (Space.pair_aligned hp) hp]
  exact putHalf_low v _ hc

theorem exec_registerWrite_high {y : Nat} (ho : o % 8 = 4) (hp : p.pair o = some (o - 4)) (hc : isClpOp p (o - 4) = false)
    (hh : (s.halvesOf v).held = some (p.key (o - 4), y)) :
    exec (.registerWrite v o d) s = .next ((s.dropHeld v).put v p (o - 4) (y + leNat d * 2 ^ 32)) := by
  rw [exec_registerWrite hclk, regWrite_half hg hd (by omega) hp, putHalf_high _ hc (by omega) hh]

end

end

/-! ## The statement -/

/-- Settles O56, row by row: the checks of window C and of the host cores decide where an access goes, the lemmas about the directory and the
lines what it does there; a register access follows the gate, then the halves. -/
theorem hostMemoryAndRegisterAccess : Obligations.HostMemoryAndRegisterAccess := by
  unfold Obligations.HostMemoryAndRegisterAccess
  intro s
  refine ⟨?windowC, ?cores, ?registers⟩
  case windowC =>
    intro hclk f off refuse
    refine ⟨exec_winc_reset hclk, fun hp n => ⟨?_, ?_, ?_, ?_⟩, fun hp d p => ⟨?_, ?_, ?_, ?_⟩⟩
    · exact fun hr => ⟨_, exec_wincRead_refused hclk hp rfl hr, winCBad_spec ..⟩
    · exact fun hw => ⟨_, exec_wincRead_shut hclk hp hw, ((kept_count s _).sameBut _ (by intro q; cases q <;> decide)).trans ((kept_emit ..).sameBut _ (by intro q; cases q <;> decide)), rfl⟩
    · exact fun b o hw => exec_wincRead_scratch hclk hp hw
    · exact fun a hw hx => exec_wincRead_mem hclk hp hw hx
    · exact fun hr => ⟨_, exec_wincWrite_refused hclk hp rfl hr, (winCBad_spec ..).1⟩
    · exact fun hw => ⟨_, exec_wincWrite_shut hclk hp hw, (kept_count s _).sameBut _ (by intro q; cases q <;> decide)⟩
    · exact fun b o hw => exec_wincWrite_scratch hclk hp hw
    · exact fun a hw => exec_wincWrite_mem hclk hp hw
  case cores =>
    intro hrun c addr op i u g n up plain okay
    refine ⟨?_, ?_, ?_, ?_, ?_, ?_, ?_, ?_⟩
    · exact fun hup => exec_core_down hrun (not_not.1 hup)
    · exact fun w o hup hal => exec_core_alias hrun hup hal
    · exact fun hup hal hno => exec_core_refused hrun hup hal hno
    · intro k hok hop h0 hk
      refine ⟨fun hm hp => ?_, fun hm hp => ?_, fun l hm hd hp => exec_core_load_dirty hrun hok hop h0 hk hm hd hp⟩
      · have h := exec_core_load_miss hrun hok hop h0 hk hm
        rwa [if_neg (ne_true_of_eq_false hp)] at h
      · have h := exec_core_load_miss hrun hok hop h0 hk hm
        rwa [if_pos hp] at h
    · exact fun hok hm => ⟨fun d hop hd ha => exec_core_store hrun hok hop hd ha hm, fun hop => exec_core_zero hrun hok hop hm,
        fun hop => (exec_core_passes hrun hok).trans (congrArg _ (hop ▸ coreDo_clean_none ((congrArg (mfind · g) (wake_core s addr)).trans hm)))⟩
    · exact fun l hok hop hm hd => exec_core_clean hrun hok hop hm hd
    · exact fun hok hop => (exec_core_passes hrun hok).trans (hop ▸ rfl)
    · exact fun hok hop => (exec_core_passes hrun hok).trans (hop ▸ rfl)
  case registers =>
    intro hclk v o bad
    refine ⟨?_, ?_, ?_, ?_, ?_⟩
    · exact fun n cnt => ⟨fun h => (exec_registerRead hclk n).trans (congrArg _ (regRead_ur n h)),
        fun h => (exec_registerRead hclk n).trans (congrArg _ (regRead_zero n h))⟩
    · exact fun d cnt => ⟨fun h => (exec_registerWrite hclk d).trans (congrArg _ (regWrite_ur d h)),
        fun h => (exec_registerWrite hclk d).trans (congrArg _ (regWrite_zero d h))⟩
    · exact fun core => ⟨fun h n => (exec_registerRead hclk n).trans (congrArg _ (regRead_fault n h)),
        fun h d => (exec_registerWrite hclk d).trans (congrArg _ (regWrite_fault d h))⟩
    · exact fun p hg => ⟨fun n hn => (exec_registerRead hclk n).trans (congrArg _ (regRead_width hg hn)), exec_registerRead_single hclk hg,
        exec_registerRead_low hclk hg, fun _ => exec_registerRead_high hclk hg⟩
    · exact fun p d hg => ⟨fun hn => (exec_registerWrite hclk d).trans (congrArg _ (regWrite_width hg hn)),
        fun hd => exec_registerWrite_single hclk hg hd, fun hd => exec_registerWrite_low hclk hg hd, fun _ hd => exec_registerWrite_high hclk hg hd⟩

end Sys2Proof.Machine
end

section
/-! PROOF. The loader of a setting (chapter 03): what passes the checks, and a tick with a waiting load (R134 to R147). -/

namespace Sys2Proof.Machine

/-! ## What passes the checks (Table 3-16) -/

theorem check2_of_checkHead {s : State} {img : List Byte} (h : s.checkHead img = none) : s.check2 img = true := by
  by_contra hn
  unfold State.checkHead at h
  dsimp only at h
  split at h
  · cases h
  · rw [if_pos (by simpa using hn)] at h
    cases h

/-- A check that answers a value has not failed. -/
theorem pass_of_ok {ε α : Type} {c : Prop} [Decidable c] {e : ε} {x : Except ε α} {a : α} (h : (if c then .error e else x) = .ok a) :
    ¬ c ∧ x = .ok a := by
  by_cases hc : c
  · rw [if_pos hc] at h
    cases h
  · exact ⟨hc, by rwa [if_neg hc] at h⟩

theorem eq_nil_of_not_isEmpty {α : Type} {l : List α} (h : ¬ (!l.isEmpty) = true) : l = [] := by simpa using h

/-- An image that passes has passed every check before check 13; the load holds its bytes. -/
theorem checkImage_ok {s : State} {img : List Byte} {l : Loaded} (h : s.checkImage img = .ok l) :
    l.image = img ∧ s.checkHead img = none ∧ (l.merged.fis = [] ∨ s.fiAllow = true) ∧
      l.merged.check9 = [] ∧ l.merged.check10 = [] ∧ l.merged.check11 = [] ∧ l.merged.check12 = [] := by
  unfold State.checkImage at h
  split at h
  · cases h
  next hhead =>
    obtain ⟨-, h⟩ := pass_of_ok h
    split at h
    · cases h
    · obtain ⟨hfi, h⟩ := pass_of_ok h
      obtain ⟨h9, h⟩ := pass_of_ok h
      obtain ⟨h10, h⟩ := pass_of_ok h
      obtain ⟨h11, h⟩ := pass_of_ok h
      obtain ⟨h12, h⟩ := pass_of_ok h
      cases h
      refine ⟨rfl, hhead, ?_, eq_nil_of_not_isEmpty h9, eq_nil_of_not_isEmpty h10, eq_nil_of_not_isEmpty h11, eq_nil_of_not_isEmpty h12⟩
      rw [Bool.and_eq_true, not_and_or] at hfi
      exact hfi.imp eq_nil_of_not_isEmpty (by simp)

/-! ## SET_CHECK_DONE and SET_TIMEOUT -/

section
variable {s : State}

theorem checkDone_of_not_checking (h : s.set.phase ≠ .checking) : s.checkDone = s := if_pos h

theorem checkDone_no_image (h : s.set.phase = .checking) (hi : s.imageBytes = none) : s.checkDone = s.setFinish St.setLength 0xFFFF := by
  unfold State.checkDone
  rw [if_neg (not_not.2 h), hi]

theorem checkDone_failed (h : s.set.phase = .checking) {img : List Byte} (hi : s.imageBytes = some img) {st r : Nat}
    (hc : s.checkImage img = .error (st, r)) : s.checkDone = s.setFinish st r := by
  unfold State.checkDone
  rw [if_neg (not_not.2 h), hi]
  dsimp only
  rw [hc]

/-- The setting of an image that passes meets check 13 (R144): it waits for its tick or fails. -/
theorem checkDone_passed (h : s.set.phase = .checking) {img : List Byte} (hi : s.imageBytes = some img) {l : Loaded}
    (hc : s.checkImage img = .ok l) :
    (∀ st bad, s.check13 l.merged = some (st, bad) → ∃ r, s.checkDone = s.setFinish st r) ∧
    (s.check13 l.merged = none → s.checkDone = { s with set := { s.set with phase := .pending, ticks := 0, loaded := some l } }) := by
  unfold State.checkDone
  rw [if_neg (not_not.2 h), hi]
  dsimp only
  rw [hc]
  dsimp only
  refine ⟨fun st bad h13 => ?_, fun h13 => ?_⟩
  · rw [h13]
    exact ⟨_, rfl⟩
  · rw [h13]

theorem exec_setCheckDone (h : s.halted = false) : exec .setCheckDone s = .next s.checkDone := unlessDown_of_running h _

theorem exec_setTimeout (h : s.halted = false) : exec .setTimeout s =
    .next (if s.set.phase = .pending ∧ 8 ≤ s.set.ticks then s.setFinish St.setTimeout 0xFFFF else s) := unlessDown_of_running h _

end

/-! ## A tick with a waiting load (R136, R141, R144) -/

theorem kept_pwrTick_power (s : State) : Kept 0x4020000 s s.pwrTick :=
  .ite (.mk (.mk (.refl _ _))) (.ite (.mk (.mk (.refl _ _))) (.mk (.refl _ _)))

/-- A tick before its loader: the frame is open and the counters are copied. -/
def State.tickOpened (s : State) (m : Nat) : State := (((s.at m).openFrame m).traceFrame 0 0xFFFF).snapshot

theorem kept_tickOpened (s : State) (m : Nat) : Kept 0x20021031 s (s.tickOpened m) :=
  .of (kept_snapshot _) (.of (kept_traceFrame ..) (.of (kept_openFrame ..) (.of (kept_at s m) (.refl _ _))))

/-- After its loader a tick touches neither the setting nor the flash writer. -/
theorem kept_tick_rest (s : State) (m : Nat) : Kept 0x31e4766872 (s.tickOpened m).tickLoad (s.tick m) := by
  unfold State.tick
  refine Kept.foldl (fun u w => (kept_tickUnit u _ w).mono (by decide)) ?_
  refine .of (kept_resetPerFrame _) (.of (kept_rasTick _) (.of (kept_guarShort _) (.of (kept_pwrTick_power _) ?_)))
  have hf := (kept_fixLength (s.tickOpened m).tickLoad).mono (m := 0x31e4766872) (by decide)
  exact .ite (.mk (.of (kept_emit ..) hf)) hf

/-! ### The apply -/

theorem kept_rebuilt (s : State) (old : Setting) (l : Loaded) : Kept 0x20c0762862 s (s.rebuilt old l) :=
  .of (kept_formFeds ..) (.of (kept_carryQueues ..) (.of (kept_carryUnits ..) (.of (kept_startClasps ..) (.of (kept_compose ..)
    (.foldl (fun u r => (kept_fillZero u r.1 r.2).mono (by decide)) (.of (kept_remapPages ..) (.of (kept_remapVaults ..) (.refl _ _))))))))

/-- A setting put in force on a device that runs. -/
theorem enforce_spec (s : State) (l : Loaded) : let t := s.enforce l
    t.set = { s.set with cur := l.merged, image := l.image } ∧ t.dev.noSetting = false ∧ t.hmk = s.hmk := by
  have kc := kept_closeAtApply s s.set.cur l.merged
  have kr := kept_rebuilt ((s.closeAtApply s.set.cur l.merged).holding l) s.set.cur l
  have hset : (((s.closeAtApply s.set.cur l.merged).holding l).rebuilt s.set.cur l).set = { s.set with cur := l.merged, image := l.image } :=
    (kr.set_eq (by decide)).trans (congrArg (fun x : SetState => { x with cur := l.merged, image := l.image }) (kc.set_eq (by decide)))
  have hhmk : (((s.closeAtApply s.set.cur l.merged).holding l).rebuilt s.set.cur l).hmk = s.hmk :=
    (kr.hmk_eq (by decide)).trans (kc.hmk_eq (by decide))
  unfold State.enforce
  dsimp only
  generalize ((s.closeAtApply s.set.cur l.merged).holding l).rebuilt s.set.cur l = u at hset hhmk
  cases l.full <;> exact ⟨hset, rfl, hhmk⟩

/-- The load is over with the status 0, and its setting in force (R145, R635). -/
structure InForce (l : Loaded) (t : State) : Prop where
  phase : t.set.phase = .idle
  code : t.set.code = 0
  cur : t.set.cur = l.merged
  image : t.set.image = l.image
  setting : t.dev.noSetting = false

theorem apply_inForce (s : State) (l : Loaded) (slot : Nat) : InForce l (s.apply l slot) ∧ (s.apply l slot).hmk.queue = s.hmk.queue := by
  obtain ⟨hset, hdev, hhmk⟩ := enforce_spec s l
  rw [apply_eq]
  exact ⟨⟨rfl, rfl, congrArg SetState.cur hset, congrArg SetState.image hset, hdev⟩, (congrArg HmkState.queue hhmk :)⟩

/-! ### What a waiting load meets at its tick -/

/-- A unit of the affected set of a load keeps it waiting (R141). -/
def State.loadBusy (s : State) (l : Loaded) : Bool := s.units.any (fun p => (s.affectedBy l).contains (s.set.cur.top p.1) && p.2.busy)

/-- A load has met one more tick. -/
def State.loadTicked (s : State) : State := { s with set := { s.set with ticks := s.set.ticks + 1 } }

theorem InForce.kept {m : Nat} {l : Loaded} {s t : State} (h : InForce l s) (k : Kept m s t) (hs : m.testBit 3 = false := by decide)
    (hd : m.testBit 2 = false := by decide) : InForce l t := by
  have es := k.set_eq hs
  exact ⟨es ▸ h.phase, es ▸ h.code, es ▸ h.cur, es ▸ h.image, k.dev_eq hd ▸ h.setting⟩

/-- A load whose units are free meets check 13 once more, and is applied or fails (R144). -/
def State.loadMeets (s : State) (l : Loaded) : State :=
  match s.check13 l.merged with
  | some (st, bad) => s.setFinish st (recordOf (!l.full) (cutRecs (l.image.length / 8) 0 ((l.image.take (l.image.length - 104)).drop 128)).1 bad)
  | none => if s.set.persist && l.full then (s.apply l 7).flashQueue { kind := .setStore, off := 0, data := l.image } else s.apply l 7

theorem tickLoad_eq {s : State} {l : Loaded} (hp : s.set.phase = .pending) (hl : s.set.loaded = some l) : s.tickLoad =
    if 8 < s.loadTicked.set.ticks ∨ s.loadTicked.loadBusy l = true then s.loadTicked else s.loadTicked.loadMeets l := by
  unfold State.tickLoad
  rw [hp, hl]
  rfl

theorem loadMeets_fails {s : State} {l : Loaded} {st : Nat} {bad : List BadRec} (h : s.check13 l.merged = some (st, bad)) :
    ∃ r, s.loadMeets l = s.setFinish st r := by
  unfold State.loadMeets
  rw [h]
  exact ⟨_, rfl⟩

theorem loadMeets_applies {s : State} {l : Loaded} (h : s.check13 l.merged = none) : InForce l (s.loadMeets l) ∧
    (s.loadMeets l).hmk.queue = s.hmk.queue ++ if s.set.persist = true ∧ l.full = true then [{ kind := .setStore, off := 0, data := l.image }] else [] := by
  obtain ⟨hf, hq⟩ := apply_inForce s l 7
  unfold State.loadMeets
  rw [h]
  dsimp only
  by_cases hw : s.set.persist = true ∧ l.full = true
  · rw [if_pos hw, if_pos (Bool.and_eq_true_iff.2 hw)]
    exact ⟨⟨hf.phase, hf.code, hf.cur, hf.image, hf.setting⟩, congrArg (· ++ [_]) hq⟩
  · rw [if_neg hw, if_neg (hw ∘ Bool.and_eq_true_iff.1)]
    exact ⟨hf, hq.trans (List.append_nil _).symm⟩

/-- Check 13 reads which beads are in service, the pages and the pools in force. -/
theorem check13_congr {s t : State} (hb : ∀ b, (t.bead b).inService = (s.bead b).inService) (hp : t.bpm = s.bpm)
    (hc : t.set.cur = s.set.cur) (x : Setting) : t.check13 x = s.check13 x := by
  unfold State.check13
  simp only [hb, hp, hc]

theorem loadBusy_congr {s t : State} (hu : t.units = s.units) (hc : t.set.cur = s.set.cur) (l : Loaded) : t.loadBusy l = s.loadBusy l := by
  unfold State.loadBusy State.affectedBy
  rw [hu, hc]

theorem mfind_map {α : Type} (m : SMap α) (f : α → α) (k : Nat) : mfind (m.map (fun p => (p.1, f p.2))) k = (mfind m k).map f := by
  induction m with
  | nil => rfl
  | cons p t ih =>
    simp only [List.map_cons, mfind, ih]
    split <;> rfl

theorem tickOpened_inService (s : State) (m b : Nat) : ((s.tickOpened m).bead b).inService = (s.bead b).inService := by
  have hb : (((s.at m).openFrame m).traceFrame 0 0xFFFF).beads = s.beads :=
    ((kept_traceFrame ..).beads_eq (by decide)).trans (((kept_openFrame ..).beads_eq (by decide)).trans ((kept_at s m).beads_eq (by decide)))
  unfold State.tickOpened State.snapshot State.bead mget
  dsimp only
  rw [hb, mfind_map s.beads (fun x => { x with perfSnap := x.perf, debug := x.debugReq })]
  cases mfind s.beads b <;> rfl

/-- A tick finds the load as the tick before left it: nothing that it reads has changed when the frame opens. -/
theorem tickOpened_load (s : State) (m : Nat) (l : Loaded) : let u := s.tickOpened m
    u.set = s.set ∧ u.hmk = s.hmk ∧ u.loadTicked.loadBusy l = s.loadBusy l ∧ u.loadTicked.check13 l.merged = s.check13 l.merged := by
  have k := kept_tickOpened s m
  have hs := k.set_eq (by decide)
  exact ⟨hs, k.hmk_eq (by decide), loadBusy_congr (k.units_eq (by decide)) (congrArg SetState.cur hs) l,
    check13_congr (tickOpened_inService s m) (k.bpm_eq (by decide)) (congrArg SetState.cur hs) _⟩

/-- FRAME_TICK with a waiting load (R136, R141, R144 to R147, R590). -/
theorem tick_load {s : State} {m : Nat} {l : Loaded} (hp : s.set.phase = .pending) (hl : s.set.loaded = some l) : let t := s.tick m
    (s.loadBusy l = true ∨ 8 ≤ s.set.ticks → t.set = { s.set with ticks := s.set.ticks + 1 }) ∧
    (s.loadBusy l = false → s.set.ticks < 8 →
      (∀ st bad, s.check13 l.merged = some (st, bad) → t.set.phase = .idle ∧ t.set.code = st ∧ t.set.cur = s.set.cur) ∧
      (s.check13 l.merged = none → InForce l t ∧ t.hmk.queue = s.hmk.queue ++ if s.set.persist = true ∧ l.full = true then [{ kind := .setStore, off := 0, data := l.image }] else [])) := by
  obtain ⟨hset, hhmk, hbusy, h13⟩ := tickOpened_load s m l
  have k := kept_tick_rest s m
  have ht : (s.tickOpened m).loadTicked.set = { s.set with ticks := s.set.ticks + 1 } :=
    congrArg (fun x : SetState => { x with ticks := x.ticks + 1 }) hset
  have e := tickLoad_eq (s := s.tickOpened m) (by rw [hset]; exact hp) (by rw [hset]; exact hl)
  rw [ht, hbusy] at e
  refine ⟨fun h => ?waits, fun hb h8 => ?meets⟩
  case waits =>
    rw [if_pos (h.symm.imp_left Nat.lt_succ_of_le)] at e
    rw [k.set_eq (by decide), e, ht]
  case meets =>
    rw [if_neg (not_or.2 ⟨Nat.not_lt.2 h8, ne_true_of_eq_false hb⟩)] at e
    rw [e] at k
    refine ⟨fun st bad hbad => ?_, fun hok => ?_⟩
    · obtain ⟨r, hr⟩ := loadMeets_fails (h13.trans hbad)
      rw [k.set_eq (by decide), hr]
      exact ⟨rfl, rfl, (congrArg SetState.cur ht :)⟩
    · obtain ⟨hf, hq⟩ := loadMeets_applies (h13.trans hok)
      refine ⟨hf.kept k, (congrArg HmkState.queue (k.hmk_eq (by decide))).trans (hq.trans ?_)⟩
      rw [ht]
      exact congrArg (fun x : HmkState => x.queue ++ _) hhmk

end Sys2Proof.Machine
end

section
/-! PROOF. The flash writer and the updates that it takes (R585 to R597), and the rows of O53. -/

namespace Sys2Proof.Machine

/-! ## The flash writer (R585, R590) -/

/-- The write of an event record. -/
def eventWrite : FlashReq := { kind := .event, off := 0, data := [] }

/-- The write at the front of the queue is taken. -/
def State.dequeued (s : State) (rest : List FlashReq) : State := { s with hmk := { s.hmk with queue := rest } }

/-- A write but an event record queues its event record. -/
def State.logsWrite (s : State) (r : FlashReq) : State := if r.kind = .event then s else s.flashQueue eventWrite

/-- A write that has failed twice: its target is spoilt, and `HMK_FLASH_ERR` reported and raised. -/
def State.flashFails (s : State) (r : FlashReq) : State :=
  ((s.flashFail r).flashReport r.report St.hmkFlashErr).raiseG St.hmkFlashErr

/-- The report of a success, unless the write that follows makes it. -/
def State.flashOk (s : State) (r : FlashReq) : State := if r.kind.last then s.flashReport r.report 0 else s

theorem flashWrite_nil {s : State} (h : s.hmk.queue = []) (ok1 ok2 : Bool) : s.flashWrite ok1 ok2 = s := by
  unfold State.flashWrite
  rw [h]

theorem flashWrite_cons {s : State} {r : FlashReq} {rest : List FlashReq} (h : s.hmk.queue = r :: rest) (ok1 ok2 : Bool) : s.flashWrite ok1 ok2 =
    (if ok1 || ok2 then ((s.dequeued rest).flashOk r).flashDone r else (s.dequeued rest).flashFails r).logsWrite r := by
  unfold State.flashWrite
  rw [h]
  rfl

theorem logsWrite_keeps (s : State) (r : FlashReq) : (s.logsWrite r).hmk.params = s.hmk.params ∧
    (s.logsWrite r).hmk.queue = s.hmk.queue ++ if r.kind = .event then [] else [eventWrite] := by
  unfold State.logsWrite
  split
  · exact ⟨rfl, (List.append_nil _).symm⟩
  · exact ⟨rfl, rfl⟩

theorem logsWrite_event {s : State} {r : FlashReq} (h : r.kind = .event) : s.logsWrite r = s := if_pos h

theorem logsWrite_other {s : State} {r : FlashReq} (h : r.kind ≠ .event) : s.logsWrite r = s.flashQueue eventWrite := if_neg h

theorem kept_logsWrite (s : State) (r : FlashReq) : Kept 0x2000000 s (s.logsWrite r) := .ite (.refl _ _) (kept_flashQueue ..)

/-! ### A write that fails twice -/

/-- A spoilt target changes neither the parameters in force nor the queue. -/
theorem flashFail_keeps (s : State) (r : FlashReq) : (s.flashFail r).hmk.params = s.hmk.params ∧ (s.flashFail r).hmk.queue = s.hmk.queue := by
  have spoil : ∀ (u : State) (a n : Nat), (u.flashSpoil a n).hmk.params = u.hmk.params ∧ (u.flashSpoil a n).hmk.queue = u.hmk.queue := by
    intro u a n
    unfold State.flashSpoil
    exact ⟨rfl, rfl⟩
  unfold State.flashFail
  split
  · exact ⟨rfl, rfl⟩
  all_goals exact spoil ..

/-- A record tells the moment and the frame. -/
theorem raiseG_errGlobal_congr {s t : State} (he : t.errGlobal = s.errGlobal) (hf : t.frm = s.frm) (hn : t.now = s.now) (status : Nat) :
    (t.raiseG status).errGlobal = (s.raiseG status).errGlobal := by
  rw [raiseG_errGlobal, raiseG_errGlobal, he]
  unfold State.mkRec
  rw [hf, hn]

theorem flashFails_spec (s : State) (r : FlashReq) : let t := s.flashFails r
    t.hmk.params = s.hmk.params ∧ t.hmk.queue = s.hmk.queue ∧ t.errGlobal = (s.raiseG St.hmkFlashErr).errGlobal ∧
      (r.report = 1 → t.mgt.fwBusy = false ∧ t.mgt.fwStatus = St.hmkFlashErr) := by
  obtain ⟨hp, hq⟩ := flashFail_keeps s r
  have kr := kept_flashReport (s.flashFail r) r.report St.hmkFlashErr
  have k : Kept 0xA000002 s ((s.flashFail r).flashReport r.report St.hmkFlashErr) := .of kr ((kept_flashFail s r).mono (by decide))
  have kg := kept_raiseG ((s.flashFail r).flashReport r.report St.hmkFlashErr) St.hmkFlashErr 0 schedAgent 0xFFFF false
  have ht : (s.flashFails r).hmk = (s.flashFail r).hmk := (kg.hmk_eq (by decide)).trans (kr.hmk_eq (by decide))
  refine ⟨(congrArg HmkState.params ht).trans hp, (congrArg HmkState.queue ht).trans hq,
    raiseG_errGlobal_congr (k.errGlobal_eq (by decide)) (k.frm_eq (by decide)) (k.now_eq (by decide)) _, fun h => ?_⟩
  have hm : (s.flashFails r).mgt = { (s.flashFail r).mgt with fwBusy := false, fwStatus := St.hmkFlashErr } := by
    rw [show (s.flashFails r).mgt = _ from kg.mgt_eq (by decide), h]
    rfl
  exact ⟨congrArg MgtState.fwBusy hm, congrArg MgtState.fwStatus hm⟩

/-! ### A write that succeeds -/

/-- Hallmark as the write finds it. -/
theorem flashOk_keeps (s : State) (rest : List FlashReq) (r : FlashReq) : let u := (s.dequeued rest).flashOk r
    u.hmk.flash = s.hmk.flash ∧ u.hmk.params = s.hmk.params ∧ u.hmk.queue = rest ∧ u.hmk.logNext = s.hmk.logNext := by
  have e : ((s.dequeued rest).flashOk r).hmk = (s.dequeued rest).hmk := by
    unfold State.flashOk
    split
    · exact (kept_flashReport ..).hmk_eq (by decide)
    · rfl
  dsimp only
  rw [e]
  exact ⟨rfl, rfl, rfl, rfl⟩

theorem flashOk_reports {s : State} {r : FlashReq} (hl : r.kind.last = true) (h : r.report = 2) :
    (s.flashOk r).mgt.parBusy = false ∧ (s.flashOk r).mgt.parStatus = 0 := by
  unfold State.flashOk
  rw [if_pos hl, h]
  exact ⟨rfl, rfl⟩

theorem Bytes.read_undefine_other (m : Bytes) (a n e : Nat) {b : Nat} (h : b < a ∨ a + n ≤ b) : (m.undefine a n e).read b = m.read b := by
  have hc : ∀ l : List Host.Cell, cellGet (l.filter (fun c => !(decide (a ≤ c.1) && decide (c.1 < a + n)))) b = cellGet l b := by
    intro l
    induction l with
    | nil => rfl
    | cons c t ih =>
      rw [List.filter_cons]
      by_cases hcb : c.1 = b
      · rw [if_pos (by rw [hcb]; simp; omega)]
        simp only [cellGet, hcb, if_true]
      · split <;> simp only [cellGet, if_neg hcb, ih]
  unfold Bytes.read Bytes.undefine
  dsimp only
  rw [hc, Bytes.dflt_other (by omega), Bytes.dflt_cells _ m.cells]

section
variable {s : State} {r : FlashReq}

theorem flashDone_event (hk : r.kind = .event) : let t := s.flashDone r
    t.hmk.params = s.hmk.params ∧ t.hmk.queue = s.hmk.queue ∧ t.hmk.logNext = (s.hmk.logNext + 1) % 62464 ∧
      t.hmk.flash = s.hmk.flash.undefine (0x30000 + s.hmk.logNext * 64) 64 s.freeCtr := by
  unfold State.flashDone State.logEvent
  rw [hk]
  dsimp only
  exact ⟨rfl, rfl, rfl, rfl⟩

theorem flashDone_setStore (hk : r.kind = .setStore) : let t := s.flashDone r
    t.hmk.flash = s.hmk.flash.writeL (storeBase s.otherStore) r.data ∧ t.hmk.params = s.hmk.params ∧
      t.hmk.queue = { kind := .params, off := 0x400, data := [BitVec.ofNat 8 s.otherStore] } :: s.hmk.queue := by
  unfold State.flashDone
  rw [hk]
  dsimp only
  exact ⟨rfl, rfl, rfl⟩

/-- The parameter area of a flash just written, with the bytes in force. -/
theorem useParams_spec (s : State) (f : Bytes) (off : Nat) (d : List Byte) : let t := ({ s with hmk := { s.hmk with flash := f } } : State).useParams off d
    t.hmk.flash = f ∧ t.hmk.params = s.hmk.params.writeL off d ∧ t.hmk.queue = s.hmk.queue := by
  unfold State.useParams
  exact ⟨rfl, rfl, rfl⟩

theorem extend_keeps (s : State) (i d : Nat) : (s.extend i d).hmk.params = s.hmk.params ∧ (s.extend i d).hmk.flash = s.hmk.flash := ⟨rfl, rfl⟩

theorem flashDone_params (hk : r.kind = .params) : let t := s.flashDone r
    t.hmk.flash = paramWrite s.hmk.flash (fun b => setBytes b r.off r.data) false ∧ t.hmk.params = s.hmk.params.writeL r.off r.data ∧
      t.hmk.queue = s.hmk.queue := by
  unfold State.flashDone
  rw [hk]
  exact useParams_spec ..

theorem flashDone_denied (hk : r.kind = .signed) (hd : s.signedOk r.data = false) : s.flashDone r = s.flashReport r.report St.hmkParamDenied := by
  unfold State.flashDone
  rw [hk]
  exact if_pos (by rw [hd]; rfl)

theorem flashDone_signed (hk : r.kind = .signed) (hd : s.signedOk r.data = true) : let t := s.flashDone r
    t.hmk.params = s.hmk.params.writeL 0xE0 ((r.data.drop (12 + 0xC0)).take 8) ∧ t.hmk.flash =
      paramWrite s.hmk.flash (fun b => setBytes (setBytes b 0x10 ((r.data.drop 8).take 4)) 0x20 ((r.data.drop 12).take 656)) true := by
  obtain ⟨hf, hp, -⟩ := useParams_spec s
    (paramWrite s.hmk.flash (fun b => setBytes (setBytes b 0x10 ((r.data.drop 8).take 4)) 0x20 ((r.data.drop 12).take 656)) true)
    0xE0 ((r.data.drop (12 + 0xC0)).take 8)
  unfold State.flashDone
  rw [hk]
  dsimp only
  rw [if_neg (by rw [hd]; decide)]
  obtain ⟨ep, ef⟩ := extend_keeps (({ s with hmk := { s.hmk with flash := _ } } : State).useParams 0xE0 ((r.data.drop (12 + 0xC0)).take 8)) 5
    (Config.sha384 ((r.data.drop 12).take 656))
  exact ⟨ep.trans hp, ef.trans hf⟩

theorem flashDone_slot (hk : r.kind = .slot) : let t := s.flashDone r
    t.hmk.flash = s.hmk.flash.writeL (fwBase (r.off / 2)) r.data ∧ ∃ d, t.hmk.queue = d :: s.hmk.queue ∧ d.kind = .directory := by
  unfold State.flashDone
  rw [hk]
  dsimp only
  exact ⟨rfl, _, rfl, rfl⟩

theorem flashDone_directory (hk : r.kind = .directory) : let t := s.flashDone r
    t.hmk.fwBusy = false ∧ t.hmk.queue = s.hmk.queue ∧
      t.hmk.flash = dirWrite s.hmk.flash { active := r.off / 2 % 2, trial := bit r.off 2, attempts := 0, confirm := r.off % 2 } := by
  unfold State.flashDone
  rw [hk]
  dsimp only
  exact ⟨rfl, rfl, rfl⟩

theorem flashDone_mgt (hk : r.kind ≠ .signed) : (s.flashDone r).mgt = s.mgt := by
  unfold State.flashDone State.logEvent State.useParams
  cases e : r.kind with
  | signed => exact absurd e hk
  | _ => rfl

end

/-! ### FLASH_WRITE -/

theorem otherStore_congr {s t : State} (h : t.hmk.flash = s.hmk.flash) : t.otherStore = s.otherStore := by
  unfold State.otherStore
  rw [h]

theorem signedOk_congr {s t : State} (hf : t.hmk.flash = s.hmk.flash) (hp : t.hmk.params = s.hmk.params) (upd : List Byte) :
    t.signedOk upd = s.signedOk upd := by
  unfold State.signedOk
  rw [hf, hp]

theorem flashWrite_fails {s : State} {r : FlashReq} {rest : List FlashReq} (h : s.hmk.queue = r :: rest) : let t := s.flashWrite false false
    t.hmk.params = s.hmk.params ∧ t.hmk.queue = rest ++ (if r.kind = .event then [] else [eventWrite]) ∧
      t.errGlobal = (s.raiseG St.hmkFlashErr).errGlobal ∧ (r.report = 1 → t.mgt.fwBusy = false ∧ t.mgt.fwStatus = St.hmkFlashErr) := by
  obtain ⟨hp, hq, he, hr⟩ := flashFails_spec (s.dequeued rest) r
  have hg : ((s.dequeued rest).raiseG St.hmkFlashErr).errGlobal = (s.raiseG St.hmkFlashErr).errGlobal :=
    raiseG_errGlobal_congr (s := s) (t := s.dequeued rest) rfl rfl rfl _
  have e : s.flashWrite false false = ((s.dequeued rest).flashFails r).logsWrite r := flashWrite_cons h false false
  have k := kept_logsWrite ((s.dequeued rest).flashFails r) r
  obtain ⟨lp, lq⟩ := logsWrite_keeps ((s.dequeued rest).flashFails r) r
  rw [e]
  refine ⟨lp.trans hp, lq.trans (congrArg (· ++ _) hq), (k.errGlobal_eq (by decide)).trans (he.trans hg), fun h1 => ?_⟩
  rw [k.mgt_eq (by decide)]
  exact hr h1

section
variable {s : State} {r : FlashReq} {rest : List FlashReq} {ok1 ok2 : Bool} (h : s.hmk.queue = r :: rest) (hok : ok1 = true ∨ ok2 = true)
include h hok

theorem flashWrite_ok : s.flashWrite ok1 ok2 = (((s.dequeued rest).flashOk r).flashDone r).logsWrite r := by
  rw [flashWrite_cons h, if_pos (Bool.or_eq_true_iff.2 hok)]

theorem flashWrite_ok_errGlobal : (s.flashWrite ok1 ok2).errGlobal = s.errGlobal := by
  have k : Kept 0xA000002 (s.dequeued rest) ((s.dequeued rest).flashOk r) := .ite ((kept_flashReport ..).mono (by decide)) (.refl _ _)
  rw [flashWrite_ok h hok]
  exact (Kept.of (kept_logsWrite ..) (.of (kept_flashDone ..) k) : Kept 0xA000002 _ _).errGlobal_eq (by decide)

/-- The write's own effect, and behind what it queues the event record. -/
theorem flashWrite_ok_other (hk : r.kind ≠ .event) : let t := s.flashWrite ok1 ok2; let u := ((s.dequeued rest).flashOk r).flashDone r
    t.hmk.flash = u.hmk.flash ∧ t.hmk.params = u.hmk.params ∧ t.hmk.queue = u.hmk.queue ++ [eventWrite] ∧ t.hmk.fwBusy = u.hmk.fwBusy ∧
      t.mgt = u.mgt := by
  rw [flashWrite_ok h hok, logsWrite_other hk]
  exact ⟨rfl, rfl, rfl, rfl, rfl⟩

theorem flashWrite_event (hk : r.kind = .event) : let t := s.flashWrite ok1 ok2
    t.hmk.params = s.hmk.params ∧ t.hmk.queue = rest ∧ t.hmk.logNext = (s.hmk.logNext + 1) % 62464 ∧
      ∀ a, a < 0x30000 + s.hmk.logNext * 64 ∨ 0x30000 + s.hmk.logNext * 64 + 64 ≤ a → t.hmk.flash.read a = s.hmk.flash.read a := by
  obtain ⟨uf, up, uq, ul⟩ := flashOk_keeps s rest r
  obtain ⟨dp, dq, dl, df⟩ := flashDone_event (s := (s.dequeued rest).flashOk r) hk
  rw [flashWrite_ok h hok, logsWrite_event hk]
  refine ⟨dp.trans up, dq.trans uq, by rw [dl, ul], fun a ha => ?_⟩
  rw [df, uf, ul]
  exact Bytes.read_undefine_other _ _ _ _ ha

theorem flashWrite_params (hk : r.kind = .params) : let t := s.flashWrite ok1 ok2
    t.hmk.flash = paramWrite s.hmk.flash (fun b => setBytes b r.off r.data) false ∧ t.hmk.params = s.hmk.params.writeL r.off r.data ∧
      t.hmk.queue = rest ++ [eventWrite] ∧ (r.report = 2 → t.mgt.parBusy = false ∧ t.mgt.parStatus = 0) := by
  obtain ⟨uf, up, uq, -⟩ := flashOk_keeps s rest r
  obtain ⟨df, dp, dq⟩ := flashDone_params (s := (s.dequeued rest).flashOk r) hk
  obtain ⟨tf, tp, tq, -, tm⟩ := flashWrite_ok_other h hok (by rw [hk]; decide)
  refine ⟨by rw [tf, df, uf], by rw [tp, dp, up], by rw [tq, dq, uq], fun hr => ?_⟩
  rw [tm, flashDone_mgt (by rw [hk]; decide)]
  exact flashOk_reports (by rw [hk]; rfl) hr

theorem flashWrite_setStore (hk : r.kind = .setStore) : let t := s.flashWrite ok1 ok2
    t.hmk.flash = s.hmk.flash.writeL (storeBase s.otherStore) r.data ∧ t.hmk.params = s.hmk.params ∧
      t.hmk.queue = { kind := .params, off := 0x400, data := [BitVec.ofNat 8 s.otherStore] } :: (rest ++ [eventWrite]) := by
  obtain ⟨uf, up, uq, -⟩ := flashOk_keeps s rest r
  obtain ⟨df, dp, dq⟩ := flashDone_setStore (s := (s.dequeued rest).flashOk r) hk
  obtain ⟨tf, tp, tq, -⟩ := flashWrite_ok_other h hok (by rw [hk]; decide)
  rw [otherStore_congr uf] at df dq
  exact ⟨by rw [tf, df, uf], tp.trans (dp.trans up), by rw [tq, dq, uq]; rfl⟩

theorem flashWrite_denied (hk : r.kind = .signed) (hd : s.signedOk r.data = false) : let t := s.flashWrite ok1 ok2
    t.hmk.flash = s.hmk.flash ∧ t.hmk.params = s.hmk.params ∧ (r.report = 2 → t.mgt.parBusy = false ∧ t.mgt.parStatus = St.hmkParamDenied) := by
  obtain ⟨uf, up, -, -⟩ := flashOk_keeps s rest r
  obtain ⟨tf, tp, -, -, tm⟩ := flashWrite_ok_other h hok (by rw [hk]; decide)
  have ed := flashDone_denied hk ((signedOk_congr uf up _).trans hd)
  have kd := kept_flashReport ((s.dequeued rest).flashOk r) r.report St.hmkParamDenied
  rw [ed] at tf tp tm
  rw [kd.hmk_eq (by decide)] at tf tp
  refine ⟨tf.trans uf, tp.trans up, fun hr => ?_⟩
  rw [tm, hr]
  exact ⟨rfl, rfl⟩

theorem flashWrite_signed (hk : r.kind = .signed) (hd : s.signedOk r.data = true) : let t := s.flashWrite ok1 ok2
    t.hmk.params = s.hmk.params.writeL 0xE0 ((r.data.drop (12 + 0xC0)).take 8) ∧ t.hmk.flash =
      paramWrite s.hmk.flash (fun b => setBytes (setBytes b 0x10 ((r.data.drop 8).take 4)) 0x20 ((r.data.drop 12).take 656)) true := by
  obtain ⟨uf, up, -, -⟩ := flashOk_keeps s rest r
  obtain ⟨dp, df⟩ := flashDone_signed hk ((signedOk_congr uf up _).trans hd)
  obtain ⟨tf, tp, -⟩ := flashWrite_ok_other h hok (by rw [hk]; decide)
  exact ⟨by rw [tp, dp, up], by rw [tf, df, uf]⟩

theorem flashWrite_slot (hk : r.kind = .slot) : let t := s.flashWrite ok1 ok2
    t.hmk.flash = s.hmk.flash.writeL (fwBase (r.off / 2)) r.data ∧ ∃ d, t.hmk.queue = d :: (rest ++ [eventWrite]) ∧ d.kind = .directory := by
  obtain ⟨uf, -, uq, -⟩ := flashOk_keeps s rest r
  obtain ⟨df, d, dq, hd⟩ := flashDone_slot (s := (s.dequeued rest).flashOk r) hk
  obtain ⟨tf, -, tq, -⟩ := flashWrite_ok_other h hok (by rw [hk]; decide)
  exact ⟨by rw [tf, df, uf], d, by rw [tq, dq, uq]; rfl, hd⟩

theorem flashWrite_directory (hk : r.kind = .directory) : let t := s.flashWrite ok1 ok2
    t.hmk.fwBusy = false ∧ t.hmk.queue = rest ++ [eventWrite] ∧
      t.hmk.flash = dirWrite s.hmk.flash { active := r.off / 2 % 2, trial := bit r.off 2, attempts := 0, confirm := r.off % 2 } := by
  obtain ⟨uf, -, uq, -⟩ := flashOk_keeps s rest r
  obtain ⟨db, dq, df⟩ := flashDone_directory (s := (s.dequeued rest).flashOk r) hk
  obtain ⟨tf, -, tq, tb, -⟩ := flashWrite_ok_other h hok (by rw [hk]; decide)
  exact ⟨tb.trans db, by rw [tq, dq, uq], by rw [tf, df, uf]⟩

end

/-! ## Updates from the management controller (R588, R597) -/

section
variable {s : State}

theorem exec_flashWrite (h : s.clocksOff = false) (ok1 ok2 : Bool) : exec (.flashWrite ok1 ok2) s = .next (s.flashWrite ok1 ok2) :=
  unlessOff_of_clocks h _

theorem exec_pldmFirmwareUpdate (h : s.clocksOff = false) (bundle : List Byte) (confirm : Bool) : exec (.pldmFirmwareUpdate bundle confirm) s =
    .next ((s.offerBundle bundle confirm 0).1.emit (.mctp 0 [(s.offerBundle bundle confirm 0).2])) := unlessOff_of_clocks h _

theorem exec_pldmParamUpdate (h : s.clocksOff = false) (upd : List Byte) : exec (.pldmParamUpdate upd) s =
    .next (if s.signedOk upd then (s.flashQueue { kind := .signed, off := 0, data := upd }).emit (.mctp 0 [0])
      else s.emit (.mctp 0 [St.hmkParamDenied])) := unlessOff_of_clocks h _

theorem offerBundle_busy (h : s.hmk.fwBusy = true) (bundle : List Byte) (confirm : Bool) (report : Nat) :
    s.offerBundle bundle confirm report = (s, St.hmkBusy) := if_pos h

theorem offerBundle_refused (h : s.hmk.fwBusy = false) {bundle : List Byte} {e : Nat} (he : s.bundleComps bundle = .error e) (confirm : Bool)
    (report : Nat) : s.offerBundle bundle confirm report = (s, e) := by
  unfold State.offerBundle
  rw [if_neg (ne_true_of_eq_false h), he]

/-- An offered bundle goes to the slot that the directory does not name (R597). -/
theorem offerBundle_queued (h : s.hmk.fwBusy = false) {bundle : List Byte} {cs : List Comp} (hc : s.bundleComps bundle = .ok cs)
    (hl : bundle.length ≤ fwSize) (confirm : Bool) (report : Nat) : ∃ r : FlashReq,
    s.offerBundle bundle confirm report = ({ s with hmk := { s.hmk with fwBusy := true, queue := s.hmk.queue ++ [r] } }, 0) ∧
      r.kind = .slot ∧ r.data = bundle ∧ ∀ k d, dirTaken s.hmk.flash = some (k, d) → r.off / 2 = 1 - d.active := by
  unfold State.offerBundle
  rw [if_neg (ne_true_of_eq_false h), hc]
  dsimp only
  rw [if_neg (Nat.not_lt.2 hl)]
  refine ⟨_, rfl, rfl, rfl, fun k d hd => ?_⟩
  rw [hd]
  simp only [Option.map_some, Option.getD_some]
  split <;> omega

/-- What R588 asks of an update before its signature. -/
theorem signedOk_false {upd : List Byte}
    (h : upd.length ≠ 764 ∨ bfld upd 0 8 ≠ hashLo ∨ bfld upd 8 4 ≤ bfld (paramStored s.hmk.flash) 0x10 4) : s.signedOk upd = false := by
  refine Bool.eq_false_iff.2 fun hs => ?_
  unfold State.signedOk at hs
  simp only [Bool.and_eq_true, beq_iff_eq, decide_eq_true_eq] at hs
  obtain ⟨⟨⟨hlen, hhash⟩, hver⟩, -⟩ := hs
  rcases h with h | h | h
  · exact h hlen
  · exact h hhash
  · exact absurd hver (Nat.not_lt.2 h)

end

/-! ## The rows -/

theorem sameBut_hmk_out (s : State) (h : HmkState) (o : List Out) : SameBut [.hmk, .out] s { s with hmk := h, out := o } :=
  Part.forall.2 (by simp [Part.same])

/-- Settles O53, row by row: the loader's rows from the checks that an image passes and from what a tick does with a waiting load, the
flash writer's from the outcome of the write and its kind. -/
theorem loadAndFlashRowsAct : Obligations.LoadAndFlashRowsAct := by
  unfold Obligations.LoadAndFlashRowsAct
  intro s fin ev
  refine ⟨fun hrun => ⟨?notChecking, ?checkDone, ?timeout, ?early, ?tick⟩, fun hclk => ⟨?idle, ?write, ?bundle, ?update⟩⟩
  case notChecking => exact fun h => (exec_setCheckDone hrun).trans (congrArg _ (checkDone_of_not_checking h))
  case checkDone =>
    refine fun h => ⟨fun hi => (exec_setCheckDone hrun).trans (congrArg _ (checkDone_no_image h hi)), fun img hi => ⟨fun st r hc => ?_, fun l hc => ?_⟩⟩
    · exact (exec_setCheckDone hrun).trans (congrArg _ (checkDone_failed h hi hc))
    · obtain ⟨himg, hhead, hfi, h9, h10, h11, h12⟩ := checkImage_ok hc
      obtain ⟨hbad, hok⟩ := checkDone_passed h hi hc
      refine ⟨himg, hhead, check2_of_checkHead hhead, hfi, h9, h10, h11, h12, fun st bad h13 => ?_, fun h13 => ?_⟩
      · obtain ⟨r, e⟩ := hbad st bad h13
        exact ⟨r, (exec_setCheckDone hrun).trans (congrArg _ e)⟩
      · exact (exec_setCheckDone hrun).trans (congrArg _ (hok h13))
  case timeout => exact fun hp ht => (exec_setTimeout hrun).trans (congrArg _ (if_pos ⟨hp, ht⟩))
  case early => exact fun h => (exec_setTimeout hrun).trans (congrArg _ (if_neg (by rw [not_and_or, Nat.not_le]; exact h)))
  case tick =>
    intro m l hp hl
    obtain ⟨hwait, hmeet⟩ := tick_load (m := m) hp hl
    refine ⟨_, unlessDown_of_running hrun _, hwait, fun hb h8 => ⟨(hmeet hb h8).1, fun h13 => ?_⟩⟩
    obtain ⟨hf, hq⟩ := (hmeet hb h8).2 h13
    exact ⟨hf.phase, hf.code, hf.cur, hf.image, hf.setting, hq⟩
  case idle => exact fun ok1 ok2 h => (exec_flashWrite hclk ok1 ok2).trans (congrArg _ (flashWrite_nil h ok1 ok2))
  case write =>
    intro ok1 ok2 r rest h
    refine ⟨_, exec_flashWrite hclk ok1 ok2, (kept_flashWrite s ok1 ok2).sameBut _ (by intro p; cases p <;> decide), ?_, fun hok =>
      ⟨flashWrite_ok_errGlobal h hok, flashWrite_event h hok, flashWrite_params h hok, flashWrite_setStore h hok, flashWrite_denied h hok,
        flashWrite_signed h hok, flashWrite_slot h hok, flashWrite_directory h hok⟩⟩
    rintro rfl rfl
    exact flashWrite_fails h
  case bundle =>
    intro bundle confirm
    have e := exec_pldmFirmwareUpdate hclk bundle confirm
    refine ⟨fun h => ?_, fun z h hz => ?_, fun cs h hc hl => ?_⟩
    · rwa [offerBundle_busy h] at e
    · rwa [offerBundle_refused h hz] at e
    · obtain ⟨r, hr, hk, hd, ho⟩ := offerBundle_queued h hc hl confirm 0
      rw [hr] at e
      exact ⟨_, r, e, sameBut_hmk_out s _ _, rfl, rfl, hk, hd, ho⟩
  case update =>
    intro upd
    have e := exec_pldmParamUpdate hclk upd
    refine ⟨fun h => ?_, signedOk_false, fun h => ?_⟩
    · rw [if_pos h] at e
      exact e
    · rwa [if_neg (ne_true_of_eq_false h)] at e

end Sys2Proof.Machine
end

section
/-! PROOF. The register rows of the loader, the sessions, the windows and the slice pointers (Tables 20-3, 20-6, 20-7), and O17. -/

namespace Sys2Proof.Machine

/-! ## SET_LOAD_CTRL and SES_ENT_CTRL -/

/-- The word of a row that sets bit 0 of a 32-bit register. -/
theorem bit_withGo (x k : Nat) (hk : k < 32) : bit (withBits x 1 0 % 2 ^ 32) k = (bit x k || decide (k = 0)) := by
  rw [bit_mod _ _ _ hk, bit_withBits, Nat.zero_testBit, Bool.not_false, Bool.and_true]
  cases k with
  | zero => rfl
  | succ k => simp [Nat.testBit_succ]

theorem loadGo_of_go {x : Nat} (h : bit x 0 = true) (s : State) : s.loadGo x = if s.set.phase = .idle then
    { s with set := { s.set with phase := .checking, goAddr := s.set.loadAddr, goLen := s.set.loadLen, persist := bit x 1 } }
    else ({ s with set := { s.set with refused := true } }).raiseG St.setBusy := by
  unfold State.loadGo
  rw [if_neg (by rw [h]; decide), ite_not]

theorem entRead_of_go {x : Nat} (h : bit x 0 = true) (s : State) :
    s.entRead x = { s with sel := { s.sel with sesData := (s.ses s.sel.sesIdx).bytes } } := if_pos h

section
variable {s : State} {v : Via} (hclk : s.clocksOff = false) (x : Nat)
include hclk

theorem exec_setLoadGo (h : s.reachesA v 0x1000C) : let u := s.dropHeld v
    exec (.setLoadGo v x) s = .next (if u.set.phase = .idle then
      { u with set := { u.set with phase := .checking, goAddr := u.set.loadAddr, goLen := u.set.loadLen, persist := bit x 1 } }
      else ({ u with set := { u.set with refused := true } }).raiseG St.setBusy) := by
  have e : s.writeA v 0x1000C 4 (withBits x 1 0) = (s.dropHeld v).loadGo (withBits x 1 0 % 2 ^ 32) := writeA_word h rfl rfl fun _ => rfl
  rw [loadGo_of_go (by rw [bit_withGo _ _ (by decide)]; simp), bit_withGo _ _ (by decide)] at e
  exact (unlessOff_of_clocks hclk _).trans (congrArg _ (by simpa using e))

theorem exec_sesEntRead (h : s.reachesA v 0x30004) : let u := s.dropHeld v
    exec (.sesEntRead v x) s = .next { u with sel := { u.sel with sesData := (u.ses u.sel.sesIdx).bytes } } := by
  have e : s.writeA v 0x30004 4 (withBits x 1 0) = (s.dropHeld v).entRead (withBits x 1 0 % 2 ^ 32) := writeA_word h rfl rfl fun _ => rfl
  rw [entRead_of_go (by rw [bit_withGo _ _ (by decide)]; simp)] at e
  exact (unlessOff_of_clocks hclk _).trans (congrArg _ e)

/-! ## DEV_WINC_BASE and the slice pointers -/

theorem exec_devWincBase (h : s.reachesA v 0x48) : exec (.devWincBase v x) s = .next ((s.dropHeld v).wrWinC (x % 2 ^ 64)) :=
  (unlessOff_of_clocks hclk _).trans (congrArg _ (writeA_wide h rfl rfl rfl (.inl fun _ => rfl)))

theorem exec_frmUnitSlicePtr (h : s.reachesA v 0x20028) : let u := s.dropHeld v
    exec (.frmUnitSlicePtr v x) s = .next (if u.set.cur.runs u.sel.frmUnit = true then
      { u with units := mput u.units u.sel.frmUnit { u.unitSt u.sel.frmUnit with slicePtr := x % 2 ^ 64 } } else u.regacc) := by
  have e : s.writeA v 0x20028 8 x = (s.dropHeld v).wrFrm 0x28 (x % 2 ^ 64) := writeA_wide h rfl rfl rfl (.inl fun _ => rfl)
  have ew : (s.dropHeld v).wrFrm 0x28 (x % 2 ^ 64) = if (s.dropHeld v).set.cur.runs (s.dropHeld v).sel.frmUnit then
      (s.dropHeld v).setPtr (s.dropHeld v).sel.frmUnit (x % 2 ^ 64) else (s.dropHeld v).regacc := rfl
  refine (unlessOff_of_clocks hclk _).trans (congrArg _ (e.trans (ew.trans ?_)))
  split
  · exact if_pos ‹_›
  · rfl

theorem exec_frmSlicePtr {w k : Nat} (h : s.reachesW v w 0x1000) (hn : s.negotiated v) (hk : s.set.cur.winUnit w = some k)
    (hr : s.set.cur.runs k = true) : let u := s.dropHeld v
    exec (.frmSlicePtr v x) s = .next { u with units := mput u.units k { u.unitSt k with slicePtr := x % 2 ^ 64 } } := by
  have e : s.writeW v 0x1000 8 x = (s.dropHeld v).wrWin v w 0x1000 (x % 2 ^ 64) := writeW_wide h rfl rfl rfl (.inr hn)
  have hset : (s.dropHeld v).set = s.set := (kept_dropHeld s v).set_eq (by decide)
  have ew : (s.dropHeld v).wrWin v w 0x1000 (x % 2 ^ 64) = (s.dropHeld v).setPtr (((s.dropHeld v).set.cur.winUnit w).getD 0xFFFF) (x % 2 ^ 64) := rfl
  rw [hset, hk] at ew
  exact (unlessOff_of_clocks hclk _).trans (congrArg _ (e.trans (ew.trans (if_pos (by rw [hset]; exact hr)))))

end

/-! ## DEV_UWIN_FUNC (R551) -/

/-- A window after its reset (R563). -/
def UserWin.afterReset (x : UserWin) : UserWin :=
  { x with sqHead := 0, sqTail := 0, cqBase := 0, cqEntries := 0, cqHead := 0, cqTail := 0, cqVec := 0, cqMask := true
           msix := x.msix.map (fun (e : Nat × MsixEntry) => (e.1, { e.2 with arm := false })), replies := [], epoch := x.epoch + 1 }

theorem resetWindow_win (s : State) (w j : Nat) : (s.resetWindow w).win j = if j = w then (s.win w).afterReset else s.win j :=
  updWin_win s w j UserWin.afterReset

theorem UserWin.afterReset_disarmed (x : UserWin) : ∀ e, e ∈ x.afterReset.msix → e.2.arm = false := by
  intro e he
  obtain ⟨a, -, rfl⟩ := List.mem_map.1 he
  rfl

/-- A window bound to another function is reset and keeps none of its requests and replies; no other window changes. -/
theorem rebind_spec (s : State) (w y : Nat) : let t := (s.resetWindow w).updWin w (fun z => { z with func := y })
    SameBut [.wins, .errCnt] s t ∧ t.win w = { (s.win w).afterReset with func := y } ∧ ∀ j, j ≠ w → t.win j = s.win j := by
  have k : Kept 0x100400000 s ((s.resetWindow w).updWin w (fun z => { z with func := y })) := .of (kept_updWin ..) (kept_resetWindow s w)
  refine ⟨k.sameBut _ (by intro p; cases p <;> decide), ?_, fun j hj => ?_⟩
  · rw [updWin_win, if_pos rfl, resetWindow_win, if_pos rfl]
  · rw [updWin_win, if_neg hj, resetWindow_win, if_neg hj]

theorem wrA_uwinFunc (s : State) (v : Via) {w : Nat} (hw : w < 256) (x : Nat) : s.wrA v (0x100 + 4 * w) x = s.wrUwinFunc w x := by
  have he : elem (0x100 + 4 * w) 0x100 256 4 = some w := by
    unfold elem
    rw [if_pos (by omega)]
    congr 1
    omega
  have hr : (0x100 + 4 * w) % 0x10000 = 0x100 + 4 * w := by omega
  have hb : (0x100 + 4 * w) / 0x10000 = 0 := by omega
  unfold State.wrA
  rw [if_neg (by omega)]
  dsimp only
  rw [hr, hb]
  unfold State.wrDev
  rw [if_neg (by omega), if_neg (by omega), if_neg (by omega), he]
  rfl

theorem pair_uwinFunc {w : Nat} (hw : w < 256) : Space.a.pair (0x100 + 4 * w) = none := by
  unfold Space.pair wideA
  have hb : (0x100 + 4 * w) / 8 * 8 / 0x10000 = 0 := by omega
  dsimp only
  rw [if_neg (by omega), if_neg (c := 0x1000000 ≤ _) (by omega), hb]
  refine if_neg ?_
  simp
  omega

/-- A window's function is the 12 low bits of the word. -/
theorem wrUwinFunc_mod (s : State) (w x : Nat) : s.wrUwinFunc w (x % 2 ^ 32) = s.wrUwinFunc w x := by
  unfold State.wrUwinFunc
  rw [Nat.mod_mod_of_dvd x (by decide : 4096 ∣ 2 ^ 32)]

section
variable {s : State} {x w : Nat}

theorem wrUwinFunc_badSlot (h : bits x 1 0 = 3) (hv : bits x 8 3 = 0 ∨ 32 < bits x 8 3) : s.wrUwinFunc w x = s.regacc := by
  have hb : s.uwinBad w (x % 2 ^ 12) = true := by
    unfold State.uwinBad
    rw [bits_mod _ 1 0 12 (by decide) (by decide), bits_mod _ 8 3 12 (by decide) (by decide), h]
    obtain hv | hv := hv <;> simp [hv]
  exact if_pos hb

theorem uwinBad_of_kind (h : bits x 1 0 ≠ 3) : s.uwinBad w (x % 2 ^ 12) = false := by
  unfold State.uwinBad
  rw [bits_mod _ 1 0 12 (by decide) (by decide), beq_false_of_ne h, Bool.false_and]

theorem wrUwinFunc_of_kind (h : bits x 1 0 ≠ 3) : s.wrUwinFunc w x = if (s.win w).func = x % 4096 then s
    else (s.resetWindow w).updWin w (fun y => { y with func := x % 4096 }) :=
  if_neg (Bool.eq_false_iff.1 (uwinBad_of_kind h))

end

theorem exec_devUwinFunc {s : State} {v : Via} {w : Fin 256} (hclk : s.clocksOff = false) (x : Nat) (h : s.reachesA v (0x100 + 4 * w.val)) :
    exec (.devUwinFunc v w x) s = .next ((s.dropHeld v).wrUwinFunc w x) := by
  have e := writeA_word (x := x) h (by omega) (pair_uwinFunc w.isLt) (fun y => by unfold needsAbi; simp; omega)
  rw [wrA_uwinFunc _ _ w.isLt, wrUwinFunc_mod] at e
  exact (unlessOff_of_clocks hclk _).trans (congrArg _ e)

/-- Settles O17, register by register: the row is a write of its register by a requester that reaches it (`writeA_word`, `writeA_wide`, `writeW_wide`),
and the register's rule says what the state after the dropped half becomes. -/
theorem settingFrameWindowRegisterRows : Obligations.SettingFrameWindowRegisterRows := by
  unfold Obligations.SettingFrameWindowRegisterRows
  intro v x s hclk u
  refine ⟨exec_setLoadGo hclk x, exec_sesEntRead hclk x, fun w h => ⟨fun hk hv => ?badSlot, fun hk hf => ?same, fun hk hf => ?rebound⟩,
    exec_devWincBase hclk x, exec_frmUnitSlicePtr hclk x, fun w k h hn hw hr => exec_frmSlicePtr hclk x h hn hw hr⟩
  case badSlot => rw [exec_devUwinFunc hclk x h, wrUwinFunc_badSlot hk hv]
  case same => rw [exec_devUwinFunc hclk x h, wrUwinFunc_of_kind hk, if_pos hf]
  case rebound =>
    obtain ⟨hsame, hwin, hother⟩ := rebind_spec u w (x % 4096)
    refine ⟨_, ?_, hsame, ?_⟩
    · rw [exec_devUwinFunc hclk x h, wrUwinFunc_of_kind hk, if_neg hf]
    · rw [hwin]
      exact ⟨rfl, rfl, rfl, rfl, rfl, UserWin.afterReset_disarmed _, hother⟩

end Sys2Proof.Machine
end

section
/-! PROOF. The rows of temperature, voltage, pre-warm and refresh (O8). -/

namespace Sys2Proof.Machine

/-! ## Throttles and voltage (R649 to R662) -/

section
variable {s : State} (h : s.halted = false)
include h

theorem exec_thermalEmergency (k : Fin 26) (temp : Nat) : exec (.thermalEmergency k temp) s = .next { s with pwr := s.pwr.emergency k temp } :=
  unlessDown_of_running h _

theorem exec_thermalStep : exec .thermalStep s = .next { s with pwr := s.pwr.thermStep } := unlessDown_of_running h _

theorem exec_prochotN (low : Bool) : exec (.prochotN low) s = .next { s with pwr := s.pwr.prochot low } := unlessDown_of_running h _

theorem exec_thermtripN (k : Fin 26) (temp : Nat) : exec (.thermtripN k temp) s = .next { s with pwr := { s.pwr with
    temps := mput s.pwr.temps k temp, thermtrip := s.pwr.thermtrip || decide (tripAt k ≤ temp) } } := unlessDown_of_running h _

theorem exec_voltageLower : exec .voltageLower s = .next { s with pwr := s.pwr.lowerVolts } := unlessDown_of_running h _

theorem exec_preWarmSlippedStart (uid t : Nat) : exec (.preWarmSlippedStart uid t) s = .next ((s.at t).preWarm uid) := unlessDown_of_running h _

end

/-- The voltage follows a throttle, of the cap or of a temperature (R653). -/
theorem lowerVolts_eq (p : PwrState) : p.lowerVolts = { p with vddTarget :=
    if p.capClk = none ∧ p.thermClk = none then p.vddTarget else min p.vddTarget (vddOf p.clk) } := by
  unfold PwrState.lowerVolts
  by_cases hc : p.capClk = none ∧ p.thermClk = none
  · rw [if_pos hc, if_neg (by simp [hc.1, hc.2])]
  · rw [if_neg hc, if_pos (by simpa only [Option.isSome_iff_ne_none, ← not_and_or] using hc)]

theorem thermStep_eq (p : PwrState) : p.thermStep = if p.thermEmergency = true ∧ p.hot = true then
    { p with thermClk := some (max 500 (p.thermClk.getD 1000 - 200)) } else p := by
  simp only [PwrState.thermStep, Bool.and_eq_true]

/-! ## Refresh (R415, R659) -/

section
variable {s : State} (h : s.halted = false) (k : Fin 16)
include h

theorem exec_hbmRefresh2x (temp : Nat) : exec (.hbmRefresh2x k temp) s = .next (if 85 < temp then
    { s with mem := { s.mem with refresh2x := sIns k.val s.mem.refresh2x, caseTemp := mput s.mem.caseTemp k.val temp } } else s) := by
  refine (unlessDown_of_running h _).trans (congrArg _ ?_)
  by_cases ht : 85 < temp
  · rw [if_pos ht, if_neg (Nat.not_le.2 ht)]
  · rw [if_neg ht, if_pos (Nat.le_of_not_lt ht)]

theorem exec_hbmRefreshNormal (temp : Nat) : exec (.hbmRefreshNormal k temp) s = .next (if temp ≤ 85 then
    { s with mem := { s.mem with refresh2x := sDel k.val s.mem.refresh2x, caseTemp := mput s.mem.caseTemp k.val temp } } else s) := by
  refine (unlessDown_of_running h _).trans (congrArg _ ?_)
  by_cases ht : temp ≤ 85
  · rw [if_pos ht, if_neg (Nat.not_lt.2 ht)]
  · rw [if_neg ht, if_pos (Nat.lt_of_not_le ht)]

theorem exec_stackSelfRefresh : exec (.stackSelfRefresh k) s = .next (if s.pwr.curState = 2 then
    { s with mem := { s.mem with selfRefresh := sIns k.val s.mem.selfRefresh } } else s) := unlessDown_of_running h _

end

/-- Settles O8, row by row: each row is one operation on the power state, or one change of a stack's refresh under its condition. -/
theorem thermalAndRefreshRowsAct : Obligations.ThermalAndRefreshRowsAct := by
  unfold Obligations.ThermalAndRefreshRowsAct
  intro s hrun
  refine ⟨fun k temp => ?emergency, ?step, ?low, ?high, fun k temp => ?trip, ?volts, fun uid t => ?warm,
    fun k temp => ⟨exec_hbmRefresh2x hrun k temp, exec_hbmRefreshNormal hrun k temp, exec_stackSelfRefresh hrun k⟩⟩
  case emergency => exact exec_thermalEmergency hrun k temp
  case step => rw [exec_thermalStep hrun, thermStep_eq]; rfl
  case low => exact exec_prochotN hrun true
  case high => exact exec_prochotN hrun false
  case trip => exact exec_thermtripN hrun k temp
  case volts => rw [exec_voltageLower hrun, lowerVolts_eq]
  case warm => exact exec_preWarmSlippedStart hrun uid t

end Sys2Proof.Machine
end

section
/-! PROOF. The edges of FSYNC_IN and holdover (O41). -/

namespace Sys2Proof.Machine

/-! ## The edges of FSYNC_IN (R158, R160) -/

/-- The edge at `e` lies nearer to the newest tick than to the next one. -/
def FrmState.early (f : FrmState) (e : Nat) : Bool := decide (e - f.tickAt ≤ f.tickAt + f.len * 10000 - e)

/-- The tick that is nearest to the edge at `e` has an edge. -/
def FrmState.edgeTaken (f : FrmState) (e : Nat) : Bool := (f.early e && f.edgeOfTick) || (!f.early e && f.edgeOfNext)

/-- The frame scheduler with the first edge of a tick, at `e`; `tfQ` is the frame length of the setting. -/
def FrmState.matchEdge (f : FrmState) (tfQ e : Nat) : FrmState :=
  { f with
    holdover := false, sinceEdge := 0
    resid := if f.early e = true then ((e : Int) - f.tickAt) / 1000 - (10 * (f.len : Int) - (250 * tfQ : Nat))
      else ((e : Int) - (f.tickAt + f.len * 10000 : Nat)) / 1000
    edgeOfTick := f.edgeOfTick || f.early e, edgeOfNext := f.edgeOfNext || !f.early e }

theorem edgeTaken_iff (f : FrmState) (e : Nat) : let early := e - f.tickAt ≤ f.tickAt + f.len * 10000 - e
    (early ∧ f.edgeOfTick = true ∨ ¬ early ∧ f.edgeOfNext = true) ↔ f.edgeTaken e = true := by
  simp [FrmState.edgeTaken, FrmState.early]

theorem matchEdge_early {f : FrmState} {tfQ e : Nat} (he : e - f.tickAt ≤ f.tickAt + f.len * 10000 - e) : let g := f.matchEdge tfQ e
    g.edgeOfTick = true ∧ g.resid = ((e : Int) - f.tickAt) / 1000 - (10 * (f.len : Int) - (250 * tfQ : Nat)) := by
  have hd : f.early e = true := decide_eq_true he
  exact ⟨by simp [FrmState.matchEdge, hd], if_pos hd⟩

theorem matchEdge_late {f : FrmState} {tfQ e : Nat} (he : ¬ e - f.tickAt ≤ f.tickAt + f.len * 10000 - e) : let g := f.matchEdge tfQ e
    g.edgeOfNext = true ∧ g.resid = ((e : Int) - (f.tickAt + f.len * 10000 : Nat)) / 1000 := by
  have hd : f.early e = false := decide_eq_false he
  exact ⟨by simp [FrmState.matchEdge, hd], if_neg (ne_true_of_eq_false hd)⟩

section
variable {s : State} {m : Nat}

theorem fsyncEdge_other (h : s.set.cur.frame.source ≠ 2) : s.fsyncEdge m = s := if_pos h

theorem fsyncEdge_extra (h : s.set.cur.frame.source = 2) (ht : s.frm.edgeTaken (roundUp m 10000) = true) :
    s.fsyncEdge m = { s with frm := { s.frm with fsyncExtra := (s.frm.fsyncExtra + 1) % 2 ^ 64 } } :=
  (if_neg (not_not.2 h)).trans (if_pos ht)

theorem fsyncEdge_first (h : s.set.cur.frame.source = 2) (ht : s.frm.edgeTaken (roundUp m 10000) = false) :
    s.fsyncEdge m = let u : State := { s with frm := s.frm.matchEdge s.set.cur.frame.tfQ (roundUp m 10000) }
      if s.frm.holdover = true then u.raiseG St.frmSyncRestored else u :=
  (if_neg (not_not.2 h)).trans (if_neg (ne_true_of_eq_false ht))

/-- The first edge of a tick: the scheduler takes it, and its record says that holdover has ended. -/
theorem fsyncEdge_first_spec (h : s.set.cur.frame.source = 2) (ht : s.frm.edgeTaken (roundUp m 10000) = false) : let t := s.fsyncEdge m
    SameBut [.frm, .fns, .errGlobal, .out] s t ∧ t.frm = s.frm.matchEdge s.set.cur.frame.tfQ (roundUp m 10000) ∧
      t.errGlobal = if s.frm.holdover = true then s.errGlobal.push 32768 (s.mkRec St.frmSyncRestored 0 schedAgent 0xFFFF 0 false) else s.errGlobal := by
  rw [fsyncEdge_first h ht]
  dsimp only
  split
  · obtain ⟨hb, hf⟩ := raiseG_frm s (s.frm.matchEdge s.set.cur.frame.tfQ (roundUp m 10000)) St.frmSyncRestored schedAgent
    exact ⟨hb, hf, raiseG_errGlobal ..⟩
  · exact ⟨Part.forall.2 (by simp [Part.same]), rfl, rfl⟩

end

/-! ## FSYNC_IN_EDGE and FRM_SYNC_LOST -/

section
variable {s : State} (h : s.halted = false)
include h

theorem exec_fsyncInEdge (m : Nat) : exec (.fsyncInEdge m) s = .next ((s.at m).fsyncEdge m) := unlessDown_of_running h _

theorem exec_frmSyncLost : exec .frmSyncLost s = .next (if (s.sourceLost && !s.frm.holdover) = true then
    ({ s with frm := { s.frm with holdover := true } }).raiseG St.frmSyncLost else s) := unlessDown_of_running h _

end

/-- Settles O41: an edge is ignored, counted or taken, and holdover begins with its record. -/
theorem fsyncEdgesAndHoldover : Obligations.FsyncEdgesAndHoldover := by
  unfold Obligations.FsyncEdgesAndHoldover
  intro m s hrun u e next early c
  have hex := exec_fsyncInEdge hrun m
  refine ⟨fun hs => ?other, fun hs => ⟨fun ht => ?extra, fun ht => ?first⟩, fun hl hh => ?lost, fun hn => ?kept⟩
  case other => rw [hex, fsyncEdge_other (s := s.at m) hs]; rfl
  case extra => rw [hex, fsyncEdge_extra (s := s.at m) hs ((edgeTaken_iff ..).1 ht)]; rfl
  case first =>
    obtain ⟨hb, hf, hr⟩ := fsyncEdge_first_spec (s := s.at m) hs (Bool.eq_false_iff.2 (mt (edgeTaken_iff s.frm e).2 ht))
    have hnow := (kept_at s m).sameBut [.now, .frm, .fns, .errGlobal, .out] (by intro p; cases p <;> decide)
    refine ⟨_, hex, hnow.trans (hb.mono (by intro p; cases p <;> decide)), ?_⟩
    rw [hf]
    exact ⟨rfl, rfl, rfl, rfl, matchEdge_early, matchEdge_late, hr⟩
  case lost =>
    obtain ⟨hb, hf⟩ := raiseG_frm s { s.frm with holdover := true } St.frmSyncLost schedAgent
    exact ⟨_, (exec_frmSyncLost hrun).trans (congrArg _ (if_pos (by simp [hl, hh]))), hb, hf, raiseG_errGlobal ..⟩
  case kept =>
    exact (exec_frmSyncLost hrun).trans (congrArg _ (if_neg (by rcases hn with hn | hn <;> simp [hn])))

end Sys2Proof.Machine
end

section
/-! PROOF. The start of a slice: held by the guard band, failed for its BOUND, or signalled (O42). -/

namespace Sys2Proof.Machine

/-! ## A batch held by the guard band (R174) -/

/-- A leaf of a held batch waits for nothing and runs nothing. -/
def State.freeLeaf (s : State) (b : Nat) : State := (s.withdrawBead b).updBead b Bead.idled

theorem freeLeaf_bead (s : State) (b c : Nat) : (s.freeLeaf b).bead c = if c = b then { s.bead b with phase := .idle, wake := none } else s.bead c := by
  unfold State.freeLeaf State.withdrawBead
  simp only [updBead_bead]
  split <;> rfl

theorem freeLeaf_clasp (s : State) (b id : Nat) :
    (s.freeLeaf b).clasp id = { s.clasp id with waits := (s.clasp id).waits.filter (fun w => w.who ≠ .bead b) } := by
  show mget (s.clasps.map (fun (p : Nat × Clasp) => (p.1, { p.2 with waits := p.2.waits.filter (fun w => w.who ≠ Waiter.bead b) }))) id {} = _
  unfold State.clasp mget
  rw [mfind_map s.clasps (fun c => { c with waits := c.waits.filter (fun w => w.who ≠ Waiter.bead b) })]
  cases mfind s.clasps id <;> rfl

theorem kept_freeLeaf (s : State) (b : Nat) : Kept 0x820 s (s.freeLeaf b) :=
  .of (kept_updBead ..) (kept_withdrawBead s b)

/-- The leaves of a held batch are idle, wait on no clasp, and no clasp's value changes. -/
theorem freeLeaves_spec (bs : List Nat) (s : State) : let t := bs.foldl State.freeLeaf s
    (∀ b, b ∈ bs ∨ (s.bead b).phase = .idle ∧ (s.bead b).wake = none → (t.bead b).phase = .idle ∧ (t.bead b).wake = none) ∧
    ∀ id, (t.clasp id).counter = (s.clasp id).counter ∧ (t.clasp id).err = (s.clasp id).err ∧
      ∀ w, w ∈ (t.clasp id).waits → w ∈ (s.clasp id).waits ∧ ∀ b, b ∈ bs → w.who ≠ .bead b := by
  induction bs generalizing s with
  | nil => exact ⟨fun b h => h.resolve_left (by simp), fun id => ⟨rfl, rfl, fun w hw => ⟨hw, by simp⟩⟩⟩
  | cons a l ih =>
    obtain ⟨hb, hc⟩ := ih (s.freeLeaf a)
    refine ⟨fun b h => hb b (or_iff_not_imp_left.2 fun hn => ?_), fun id => ?_⟩
    · rw [freeLeaf_bead]
      split
      · exact ⟨rfl, rfl⟩
      · rename_i hne
        exact h.resolve_left (by simp [hne, hn])
    · obtain ⟨h1, h2, h3⟩ := hc id
      rw [freeLeaf_clasp] at h1 h2 h3
      refine ⟨h1, h2, fun w hw => ?_⟩
      obtain ⟨hin, hout⟩ := h3 w hw
      obtain ⟨hs, ha⟩ := List.mem_filter.1 hin
      exact ⟨hs, List.forall_mem_cons.2 ⟨of_decide_eq_true ha, hout⟩⟩

/-- The unit as the guard band leaves it. -/
def UnitSt.held (x : UnitSt) (sl : Slice) : UnitSt :=
  { x with slice := none, slip := 0, heldBatch := some { header := sl.header, batch := sl.batch.map (fun b => { b with stage := 0 }) } }

theorem guardHold_eq (s : State) (uid : Nat) (sl : Slice) : s.guardHold uid sl =
    (((sl.objs.foldl State.dropObj (sl.beads.foldl State.freeLeaf s)).updUnit uid (·.held sl)).raiseU uid St.frmGuardHold).traceFrame 2 uid := rfl

theorem guardHold_spec (s : State) (uid : Nat) (sl : Slice) : let t := s.guardHold uid sl
    t.unitSt uid = (s.unitSt uid).held sl ∧ (∀ b, b ∈ sl.beads → (t.bead b).phase = .idle ∧ (t.bead b).wake = none) ∧
    ∀ id, (t.clasp id).counter = (s.clasp id).counter ∧ (t.clasp id).err = (s.clasp id).err ∧
      ∀ b, b ∈ sl.beads → ∀ w, w ∈ (t.clasp id).waits → w.who ≠ .bead b := by
  obtain ⟨hb, hc⟩ := freeLeaves_spec sl.beads s
  have hl : Kept 0x820 s (sl.beads.foldl State.freeLeaf s) := .foldl kept_freeLeaf (.refl _ s)
  rw [guardHold_eq]
  generalize sl.beads.foldl State.freeLeaf s = s1 at hb hc hl
  have ho : Kept 0x40000 s1 (sl.objs.foldl State.dropObj s1) := .foldl kept_dropObj (.refl _ s1)
  generalize sl.objs.foldl State.dropObj s1 = s2 at ho
  have kr : Kept 0x20a0200000 (s2.updUnit uid (·.held sl)) (((s2.updUnit uid (·.held sl)).raiseU uid St.frmGuardHold).traceFrame 2 uid) :=
    .of (kept_traceFrame ..) ((kept_raiseU ..).mono (by decide))
  refine ⟨?_, fun b h => ?_, fun id => ?_⟩
  · rw [kr.unitSt_eq (by decide), updUnit_unitSt, if_pos rfl, ho.unitSt_eq (by decide), hl.unitSt_eq (by decide)]
  · rw [kr.bead_eq (by decide)]
    show (s2.bead b).phase = _ ∧ (s2.bead b).wake = _
    rw [ho.bead_eq (by decide)]
    exact hb b (.inl h)
  · rw [kr.clasp_eq (by decide)]
    show (s2.clasp id).counter = _ ∧ (s2.clasp id).err = _ ∧ ∀ b, b ∈ sl.beads → ∀ w, w ∈ (s2.clasp id).waits → w.who ≠ .bead b
    rw [ho.clasp_eq (by decide)]
    obtain ⟨h1, h2, h3⟩ := hc id
    exact ⟨h1, h2, fun b hm w hw => (h3 w hw).2 b hm⟩

/-! ## Starts (R170, R172) -/

/-- The start clasp of a unit. -/
def Setting.startOf (t : Setting) (uid : Nat) : Nat := ((t.unit? uid).map (·.startClasp)).getD 0xFFFF

/-- The pre-warm of a unit has ended. -/
def State.warmed (s : State) (uid : Nat) : State := { s with pwr := { s.pwr with preWarm := sDel uid s.pwr.preWarm } }

/-- The slice `x`, started with the times of `s`. -/
def State.started (s : State) (uid m bound : Nat) (x : Slice) : Slice :=
  { x with phase := .running, startAt := m, sNom := m - (s.unitSt uid).slip, boundTime := s.boundPs bound }

/-- The start up to the signal. -/
def State.startNoted (s : State) (uid m : Nat) (sl : Slice) : State :=
  (s.warmed uid).updSlice uid (s.started uid m sl.header.bound)

theorem kept_warmed (s : State) (uid : Nat) : Kept 0x4000000 s (s.warmed uid) := Kept.mk (.refl _ s)

theorem wakes_opSignal (s : State) (id n : Nat) : Wakes s (s.opSignal id n) :=
  ((wakes_claspAdd ..).trans (wakes_settle ..)).trans (wakes_resumeStalled ..)

theorem fedLocal_unfederated {s : State} {uid : Nat} (hf : s.set.cur.fedOf uid = none) (status : Nat) : s.fedLocal uid status = s := by
  unfold State.fedLocal
  rw [hf]

section
variable {s : State} {uid m : Nat} {sl : Slice}

theorem signalStart_local (hf : s.set.cur.fedOf uid = none) :
    s.signalStart uid m sl = (s.startNoted uid m sl).opSignal (s.set.cur.startOf uid) 1 := by
  unfold State.signalStart
  rw [hf]
  rfl

theorem startNoted_unit (h : (s.unitSt uid).slice = some sl) :
    ((s.startNoted uid m sl).unitSt uid).slice = some (s.started uid m sl.header.bound sl) ∧ ∀ v, v ≠ uid → (s.startNoted uid m sl).unitSt v = s.unitSt v := by
  unfold State.startNoted State.updSlice
  refine ⟨?_, fun v hv => by rw [updUnit_unitSt, if_neg hv]; rfl⟩
  rw [updUnit_unitSt, if_pos rfl]
  exact congrArg (Option.map _) h

theorem kept_startNoted : Kept 0x4000040 s (s.startNoted uid m sl) := .of (kept_updSlice ..) ((kept_warmed s uid).mono (by decide))

/-- The start of a slice of a unit without federation. -/
theorem signalStart_starts (hf : s.set.cur.fedOf uid = none) (hst : s.stalledOps = []) (h : (s.unitSt uid).slice = some sl) :
    let t := s.signalStart uid m sl
    let c := s.clasp (s.set.cur.startOf uid)
    SameBut (.units :: .pwr :: claspParts) s t ∧ (t.unitSt uid).slice = some (s.started uid m sl.header.bound sl) ∧
    t.pwr = { s.pwr with preWarm := sDel uid s.pwr.preWarm } ∧ (t.clasp (s.set.cur.startOf uid)).counter = min (c.counter + 1) (2 ^ 32 - 1) ∧
    ∀ b, (∃ w, w ∈ c.waits ∧ w.who = .bead b ∧ w.target ≤ c.counter + 1 ∧ w.target < 2 ^ 32) → (t.bead b).wake ≠ none := by
  have ht := opSignal_takes (s := s.startNoted uid m sl) hst (s.set.cur.startOf uid) 1
  rw [signalStart_local hf]
  refine ⟨?_, ?_, ht.frame .pwr (by decide), ht.value.1, ?_⟩
  · exact (kept_startNoted.sameBut _ (by intro p; cases p <;> decide)).trans (ht.frame.mono (by intro p; cases p <;> decide))
  · rw [(kept_opSignal ..).unitSt_eq (by decide)]
    exact (startNoted_unit h).1
  · rintro b ⟨w, hw, hwho, hle, hlt⟩
    rw [ht.woken b, if_pos]
    · exact Option.some_ne_none _
    · have hmet : w.target ≤ min ((s.clasp (s.set.cur.startOf uid)).counter + 1) (2 ^ 32 - 1) := by omega
      refine List.any_eq_true.2 ⟨w, hw, ?_⟩
      simp only [hwho, beq_self_eq_true, Bool.true_and, Bool.or_eq_true, decide_eq_true_eq]
      exact .inr hmet

/-- A slice that fails as it starts, for its BOUND of 0 (R170). -/
def State.badStart (s : State) (uid m : Nat) (sl : Slice) : State :=
  ((((s.signalStart uid m sl).raiseU uid St.frmBadBound).noteLoose uid St.frmBadBound).failSlice uid outFaulted).fedLocal uid St.frmBadBound

theorem badStart_fails (hf : s.set.cur.fedOf uid = none) (h : (s.unitSt uid).slice = some sl) :
    SliceFails (s.warmed uid) (s.badStart uid m sl) uid sl := by
  have kn : Kept 0x40 (s.warmed uid) (s.startNoted uid m sl) := kept_updSlice ..
  obtain ⟨hu, ho⟩ := startNoted_unit (m := m) h
  unfold State.badStart
  rw [signalStart_local hf]
  generalize hs2 : (s.startNoted uid m sl).opSignal (s.set.cur.startOf uid) 1 = s2
  have ks : Kept 0x20c0722822 (s.startNoted uid m sl) s2 := hs2 ▸ kept_opSignal ..
  have hw : Wakes (s.warmed uid) s2 := (Wakes.of (kn.beads_eq (by decide)) (kn.clasps_eq (by decide))).trans (hs2 ▸ wakes_opSignal ..)
  have hfail : SliceFails s2 (((s2.raiseU uid St.frmBadBound).noteLoose uid St.frmBadBound).failSlice uid outFaulted) uid (s.started uid m sl.header.bound sl) := by
    have kr := kept_raiseU s2 uid St.frmBadBound 0 0 schedAgent false
    refine .kept_before (kr.mono (by decide)) (failLoose_fails ?_ ..)
    rw [kr.unitSt_eq (by decide), ks.unitSt_eq (by decide)]
    exact hu
  have hset : s2.set = s.set := (ks.set_eq (by decide)).trans (kn.set_eq (by decide))
  rw [fedLocal_unfederated (by rw [hfail.frame .set (by decide), hset, hf])]
  refine .before (sl' := s.started uid m sl.header.bound sl) hw
    ((kn.sameBut _ (by intro p; cases p <;> decide)).trans (ks.sameBut _ (by intro p; cases p <;> decide))) rfl rfl (fun v hv => ?_) hfail
  rw [ks.unitSt_eq (by decide), ho v hv]
  rfl

end

/-! ## SLICE_START -/

/-- The start of an admitted slice falls into the guard band and does not fit before the closing tick (R174). -/
def State.inGuard (s : State) (uid m : Nat) (sl : Slice) : Prop :=
  let f := s.set.cur.frame
  let closing := s.frm.tickAt + s.frm.len * 10000
  s.set.cur.s1 uid = false ∧ sl.replay = false ∧ closing ≤ m + f.guardPct * f.tf / 100 ∧ closing < m + s.boundPs sl.header.bound

section
variable {s : State} {uid m : Nat}

theorem startSlice_idle (h : ∀ sl, (s.unitSt uid).slice = some sl → sl.phase ≠ .admitted) : s.startSlice uid m = s := by
  unfold State.startSlice
  split
  · rfl
  · rename_i sl hs
    exact if_pos (h sl hs)

variable {sl : Slice} (hs : (s.unitSt uid).slice = some sl) (hp : sl.phase = .admitted)
include hs hp

theorem startSlice_guard (hg : s.inGuard uid m sl) : s.startSlice uid m = s.guardHold uid sl := by
  obtain ⟨h1, h2, h3, h4⟩ := hg
  unfold State.startSlice
  rw [hs]
  exact (if_neg (not_not.2 hp)).trans (if_pos (by simp [h1, h2, h3, h4]))

theorem startSlice_fits (hg : ¬ s.inGuard uid m sl) : s.startSlice uid m =
    if s.set.cur.s1 uid = false ∧ sl.header.bound = 0 then s.badStart uid m sl else s.signalStart uid m sl := by
  unfold State.startSlice
  rw [hs]
  refine (if_neg (not_not.2 hp)).trans ((if_neg ?_).trans (if_congr ?_ rfl rfl))
  · simpa [State.inGuard, and_assoc] using hg
  · simp

end

theorem exec_sliceStart {s : State} (h : s.halted = false) (uid m : Nat) : exec (.sliceStart uid m) s = .next ((s.at m).startSlice uid m) :=
  unlessDown_of_running h _

/-- Settles O42: an admitted slice is held, fails or starts. -/
theorem sliceStartRowActs : Obligations.SliceStartRowActs := by
  unfold Obligations.SliceStartRowActs
  intro uid m s hrun hst _ hfed u f closing start
  have hex := exec_sliceStart hrun uid m
  have hat := (kept_at s m).sameBut [.now] (by intro p; cases p <;> decide)
  refine ⟨fun h => ?idle, fun sl hs hp => ⟨fun hg => ?held, fun hg h1 h0 => ?fails, fun hg h1 => ?starts⟩⟩
  case idle => rw [hex, startSlice_idle (s := s.at m) h]; rfl
  case held =>
    rw [startSlice_guard (s := s.at m) hs hp hg] at hex
    obtain ⟨hu, hb, hc⟩ := guardHold_spec (s.at m) uid sl
    have hk := (kept_guardHold (s.at m) uid sl).sameBut [.beads, .units, .clasps, .bpm, .fns, .ras, .errUnit, .out] (by intro p; cases p <;> decide)
    exact ⟨_, hex, (hat.mono (by intro p; cases p <;> decide)).trans (hk.mono (by intro p; cases p <;> decide)), hu, hb, hc⟩
  case fails =>
    rw [startSlice_fits (s := s.at m) hs hp hg, if_pos ⟨h1, h0⟩] at hex
    exact ⟨_, _, hex, badStart_fails (s := s.at m) hfed hs⟩
  case starts =>
    rw [startSlice_fits (s := s.at m) hs hp hg, if_neg (fun hc => h1.elim (ne_true_of_eq_false hc.1) (absurd hc.2))] at hex
    obtain ⟨hk, hu, hpwr, hc, hw⟩ := signalStart_starts (s := s.at m) (m := m) hfed hst hs
    exact ⟨_, hex, (hat.mono (by intro p; cases p <;> decide)).trans (hk.mono (by intro p; cases p <;> decide)), hu, hpwr, hc, hw⟩

end Sys2Proof.Machine
end

section
/-! PROOF. What the steps of a tick keep: the snapshots, the power in force, and the slices of other units. -/

namespace Sys2Proof.Machine

/-! ## A write of memory keeps the meter snapshot (R628) -/

theorem MemState.putBytes_meterSnap (m : MemState) (a : Nat) (bs : List Byte) : (m.putBytes a bs).meterSnap = m.meterSnap := by
  induction bs generalizing m a with
  | nil => rfl
  | cons v t ih =>
    unfold MemState.putBytes
    rw [ih]
    split <;> rfl

theorem MemState.flush_meterSnap (m : MemState) (a n : Nat) : (m.flush a n).meterSnap = m.meterSnap := by
  have h (k : MemState) (p : Nat × CoreLine) : (k.writeBack p).meterSnap = k.meterSnap := by
    unfold MemState.writeBack
    split
    · split <;> exact MemState.putBytes_meterSnap ..
    · rfl
  exact List.foldlRecOn (motive := fun k : MemState => k.meterSnap = m.meterSnap) _ _ rfl (fun k hk p _ => (h k p).trans hk)

theorem memWriteC_meterSnap (s : State) (a : Nat) (bs : List Byte) : (s.memWriteC a bs).mem.meterSnap = s.mem.meterSnap :=
  (MemState.putBytes_meterSnap ..).trans (MemState.flush_meterSnap ..)

theorem notify_meterSnap (s : State) (w : Option Nat) (n id c st : Nat) : (s.notify w n id c st).mem.meterSnap = s.mem.meterSnap := by
  unfold State.notify
  cases w with
  | some w =>
    dsimp only
    split
    · exact memWriteC_meterSnap ..
    · rw [(kept_raiseU ..).mem_eq (by decide)]
  | none =>
    dsimp only
    split
    · exact memWriteC_meterSnap ..
    · rw [(kept_raiseG ..).mem_eq (by decide)]

theorem completeWait_meterSnap (s : State) (id : Nat) (who : Waiter) (c : Nat) (e : Bool) :
    (s.completeWait id who c e).mem.meterSnap = s.mem.meterSnap := by
  cases who with
  | bead b => rfl
  | notify w n => exact notify_meterSnap ..
  | remote p k => exact congrArg MemState.meterSnap ((kept_tell ..).mem_eq (by decide))

/-! ## What the steps of a tick keep -/

/-- The snapshots are as they were, as are the power in force but for the pre-warms, and the slices of the units outside `us`. -/
structure TickKeeps (us : List Nat) (s t : State) : Prop where
  perf : ∀ b, (t.bead b).perfSnap = (s.bead b).perfSnap
  meter : t.mem.meterSnap = s.mem.meterSnap
  power : ∃ w, t.pwr = { s.pwr with preWarm := w }
  slices : ∀ v, v ∉ us → (t.unitSt v).slice = (s.unitSt v).slice

namespace TickKeeps

variable {us : List Nat} {s t u : State}

/-- The same beads, units, memory and power. -/
theorem of (hb : t.beads = s.beads) (hm : t.mem = s.mem) (hp : t.pwr = s.pwr) (hu : t.units = s.units) : TickKeeps us s t :=
  ⟨fun b => by unfold State.bead; rw [hb], by rw [hm], ⟨s.pwr.preWarm, hp⟩, fun v _ => by unfold State.unitSt; rw [hu]⟩

theorem refl (us : List Nat) (s : State) : TickKeeps us s s := of rfl rfl rfl rfl

theorem trans (h : TickKeeps us s t) (g : TickKeeps us t u) : TickKeeps us s u := by
  obtain ⟨w, hw⟩ := h.power
  obtain ⟨x, hx⟩ := g.power
  exact ⟨fun b => (g.perf b).trans (h.perf b), g.meter.trans h.meter, ⟨x, by rw [hx, hw]⟩, fun v hv => (g.slices v hv).trans (h.slices v hv)⟩

theorem ite {c : Prop} [Decidable c] (h : TickKeeps us s t) (g : TickKeeps us s u) : TickKeeps us s (if c then t else u) := by
  split <;> assumption

theorem foldl {α : Type} {f : State → α → State} (hf : ∀ s a, TickKeeps us s (f s a)) (l : List α) (s : State) : TickKeeps us s (l.foldl f s) := by
  induction l generalizing s with
  | nil => exact refl us s
  | cons a l ih => exact (hf s a).trans (ih _)

/-- An operation that touches neither beads nor units nor memory nor power. -/
theorem kept {m : Nat} (k : Kept m s t) (hb : m.testBit 5 = false := by decide) (hu : m.testBit 6 = false := by decide)
    (hm : m.testBit 17 = false := by decide) (hp : m.testBit 26 = false := by decide) : TickKeeps us s t :=
  of (k.beads_eq hb) (k.mem_eq hm) (k.pwr_eq hp) (k.units_eq hu)

theorem updBead (s : State) (b : Nat) {f : Bead → Bead} (hf : ∀ x, (f x).perfSnap = x.perfSnap := by exact fun _ => rfl) :
    TickKeeps us s (s.updBead b f) := by
  refine ⟨fun c => ?_, rfl, ⟨_, rfl⟩, fun _ _ => rfl⟩
  rw [updBead_bead]
  split
  · rename_i e; rw [hf, e]
  · rfl

theorem updUnit (s : State) (v : Nat) {f : UnitSt → UnitSt} (hf : ∀ x, (f x).slice = x.slice := by exact fun _ => rfl) :
    TickKeeps us s (s.updUnit v f) := by
  refine ⟨fun _ => rfl, rfl, ⟨_, rfl⟩, fun w _ => ?_⟩
  rw [updUnit_unitSt]
  split
  · rename_i e; rw [hf, e]
  · rfl

theorem mono {vs : List Nat} (h : TickKeeps us s t) (hs : ∀ v, v ∈ us → v ∈ vs) : TickKeeps vs s t :=
  ⟨h.perf, h.meter, h.power, fun v hv => h.slices v (mt (hs v) hv)⟩

/-- A change of the unit that ticks. -/
theorem ownUnit (s : State) (v : Nat) (f : UnitSt → UnitSt) : TickKeeps [v] s (s.updUnit v f) :=
  ⟨fun _ => rfl, rfl, ⟨_, rfl⟩, fun w hw => by rw [updUnit_unitSt, if_neg (List.ne_of_not_mem_cons hw)]⟩

end TickKeeps

section
variable (us : List Nat) (s : State)

theorem memWrite_tickKeeps (a : Nat) (bs : List Byte) : TickKeeps us s (s.memWrite a bs) :=
  ⟨fun _ => rfl, MemState.putBytes_meterSnap .., ⟨_, rfl⟩, fun _ _ => rfl⟩

theorem objWrite_tickKeeps (h off : Nat) (bs : List Byte) : TickKeeps us s (s.objWrite h off bs) :=
  .foldl (fun s _ => memWrite_tickKeeps us s _ _) _ _

theorem preWarmed_tickKeeps (uid : Nat) : TickKeeps us s (s.preWarm uid) := ⟨fun _ => rfl, rfl, ⟨_, rfl⟩, fun _ _ => rfl⟩

/-! ### Clasps -/

theorem completeWait_tickKeeps (id : Nat) (who : Waiter) (c : Nat) (e : Bool) : TickKeeps us s (s.completeWait id who c e) := by
  have k := kept_completeWait s id who c e
  refine ⟨fun b => ?_, completeWait_meterSnap .., ⟨s.pwr.preWarm, k.pwr_eq (by decide)⟩, fun v _ => by rw [k.unitSt_eq (by decide)]⟩
  obtain ⟨x, hx⟩ := (wakes_completeWait s id who c e).1 b
  rw [hx]

theorem settle_tickKeeps (id : Nat) : TickKeeps us s (s.settle id) := by
  refine .trans (.trans (.kept (kept_updClasp ..)) (.foldl (fun s w => ?_) _ _)) (.kept (kept_fireMsix ..))
  exact completeWait_tickKeeps ..

theorem postWait_tickKeeps (who : Waiter) (id t : Nat) : TickKeeps us s (s.postWait who id t) :=
  .ite (completeWait_tickKeeps ..) (.kept (kept_updClasp ..))

theorem arriveCore_tickKeeps (who : Waiter) (id t : Nat) : TickKeeps us s (s.arriveCore who id t) :=
  ((TickKeeps.kept (kept_claspAdd ..)).trans (settle_tickKeeps ..)).trans (postWait_tickKeeps ..)

theorem resumeStalled_tickKeeps : TickKeeps us s s.resumeStalled := by
  refine .foldl (fun s p => .ite ?_ (.refl us s)) _ _
  have h : TickKeeps us s { s with stalledOps := s.stalledOps.erase p } := .of rfl rfl rfl rfl
  cases waiterOf p.1 with
  | none => exact h
  | some who => exact .ite (h.trans (postWait_tickKeeps ..)) (h.trans (arriveCore_tickKeeps ..))

theorem opReset_tickKeeps (id : Nat) : TickKeeps us s (s.opReset id) :=
  ((TickKeeps.kept (kept_updClasp ..)).trans (settle_tickKeeps ..)).trans (resumeStalled_tickKeeps ..)

theorem resetPerFrame_tickKeeps : TickKeeps us s s.resetPerFrame := by
  refine .foldl (fun s p => ?_) _ _
  split
  · exact .ite (opReset_tickKeeps ..) (.refl us s)
  · exact .refl us s

/-! ### Self-test and recomposition -/

theorem undefBead_tickKeeps (b : Nat) : TickKeeps us s (s.undefBead b) := by
  unfold State.undefBead
  exact TickKeeps.trans (t := { s with freeCtr := s.freeCtr + 1 }) (.of rfl rfl rfl rfl) (.updBead ..)

theorem place_tickKeeps (b pos : Nat) : TickKeeps us s (s.place b pos) := by
  unfold State.place
  refine .trans (.trans ?_ (undefBead_tickKeeps ..)) (.updBead ..)
  split
  · exact .updBead ..
  · exact .refl us s

theorem startTest_tickKeeps (b : Nat) (st : SelfTest) : TickKeeps us s (s.startTest b st) :=
  (undefBead_tickKeeps us s b).trans (.of rfl rfl rfl rfl)

theorem placeSpares_tickKeeps (top : Nat) : TickKeeps us s (s.placeSpares top) := by
  refine .foldl (fun s pos => ?_) _ _
  split
  · exact .refl us s
  · exact .trans (.trans (place_tickKeeps ..) (.updUnit ..)) (.kept (kept_raiseU ..))

theorem rasTick_tickKeeps : TickKeeps us s s.rasTick := by
  unfold State.rasTick
  refine .trans (.trans (.foldl (fun s p => .ite ?returns (.refl us s)) _ s) (.foldl (fun s p => ?queued) _ _)) (.foldl (fun s p => .ite ?recovers (.refl us s)) _ _)
  case returns => exact (place_tickKeeps us s p.1 p.2).trans (.of rfl rfl rfl rfl)
  case queued =>
    split
    · exact .ite (startTest_tickKeeps ..) (.refl us s)
    · refine .ite (.refl us s) ?_
      split
      · exact .trans (.trans (place_tickKeeps ..) (.kept (kept_raiseU ..))) (startTest_tickKeeps ..)
      · refine .ite (startTest_tickKeeps ..) (TickKeeps.trans ?_ (.kept (kept_raiseUG ..)))
        exact .of rfl rfl rfl rfl
  case recovers =>
    refine .trans (.trans (placeSpares_tickKeeps ..) (.updUnit ..)) (.foldl (fun s u => ?_) _ _)
    exact .updUnit ..

end

/-! ### Admission -/

theorem stageBatch_tickKeeps {us : List Nat} {s t : State} {uid : Nat} {b b' : Batch} (h : s.stageBatch uid b = .ok (t, b')) : TickKeeps us s t := by
  unfold State.stageBatch at h
  dsimp only at h
  have ha : TickKeeps us s (if ceilDiv (b.lanes.length * b.laneBytes) 4096 = 0 then (s, 0, 0)
      else s.allocate (s.set.cur.top uid) 0 (ceilDiv (b.lanes.length * b.laneBytes) 4096) (s.set.cur.batchPool uid).toList : State × Nat × Nat).1 := by
    split
    · exact .refl us s
    · exact .kept (kept_allocate ..)
  generalize (if ceilDiv (b.lanes.length * b.laneBytes) 4096 = 0 then (s, 0, 0) else _ : State × Nat × Nat) = x at h ha
  obtain ⟨s1, hd, st⟩ := x
  have hz := ha.trans (.foldl (fun s j => objWrite_tickKeeps us s hd (j * b.laneBytes) (List.replicate 128 0)) (List.range b.lanes.length) s1)
  split at h
  · cases h
  · cases h
    split
    · exact hz.trans (memWrite_tickKeeps ..)
    · exact hz

theorem beginSlice_tickKeeps (s : State) (u : Nat) (h : Header) (b : Option Batch) (r : Bool) : TickKeeps [u] s (s.beginSlice u h b r) := by
  unfold State.beginSlice
  dsimp only
  refine .trans (.trans (.trans (TickKeeps.trans (t := { s with serial := s.serial + 1 }) (.of rfl rfl rfl rfl) (.ownUnit ..)) (opReset_tickKeeps ..))
    (.kept (kept_traceFrame ..))) (.foldl (fun s p => ?_) _ _)
  exact .trans (.updBead ..) (postWait_tickKeeps ..)

theorem defer_tickKeeps (us : List Nat) (s : State) (u : Nat) : TickKeeps us s (s.defer u) :=
  .trans (.trans (.kept (kept_raiseUG ..)) (.updUnit ..)) (.kept (kept_traceFrame ..))

theorem tickS1_tickKeeps (s : State) (u : Nat) : TickKeeps [u] s (s.tickS1 u) := by
  unfold State.tickS1
  split
  · exact .refl [u] s
  · split
    · exact .kept (kept_raiseUG ..)
    · exact .trans (.trans (.updUnit ..) (beginSlice_tickKeeps ..)) (preWarmed_tickKeeps ..)

theorem startKept_tickKeeps (s : State) (u : Nat) (r : Replay) (replay : Bool) : TickKeeps [u] s (s.startKept u r replay) := by
  unfold State.startKept
  dsimp only
  split
  · exact .kept (kept_raiseUG ..)
  · split
    · exact .trans (.updUnit ..) (beginSlice_tickKeeps ..)
    · split
      · exact .kept (kept_raiseU ..)
      · rename_i hb
        exact (stageBatch_tickKeeps hb).trans (.trans (.updUnit ..) (beginSlice_tickKeeps ..))

theorem admitService_tickKeeps (s : State) (u : Nat) (v : ServiceRec) : TickKeeps [u] s (s.admitService u v) := by
  have go : ∀ (s : State) (h : Header) (b : Option Batch), TickKeeps [u] s
      (let t := s.beginSlice u h b false
       if (t.unitSt u).slip = 0 then t.preWarm u else t) := fun s h b =>
    .ite ((beginSlice_tickKeeps ..).trans (preWarmed_tickKeeps ..)) (beginSlice_tickKeeps ..)
  unfold State.admitService
  dsimp only
  refine .ite (.refl [u] s) ?_
  split
  · exact .kept (kept_raiseUG ..)
  · refine .ite (go ..) ?_
    have hm : ∀ e, TickKeeps [u] s (s.missDeadlines v.svc e) := fun e => .kept (kept_missDeadlines ..)
    split
    · exact (hm _).trans (.kept (kept_raiseU ..))
    · rename_i hb
      refine .trans (.trans (.trans (hm _) (stageBatch_tickKeeps hb)) (.foldl (fun s l => ?_) _ _)) (go ..)
      exact .kept (kept_updSes ..)

/-- A unit's tick changes no slice but its own. -/
theorem tickUnit_tickKeeps (s : State) (withheld : List Nat) (u : Nat) : TickKeeps [u] s (s.tickUnit withheld u) := by
  have same := TickKeeps.refl [u] s
  unfold State.tickUnit
  dsimp only
  split
  · exact same
  · refine .ite same (.ite (.ite same (.trans (.ownUnit ..) (defer_tickKeeps ..))) (.ite (.ite same (.kept (kept_missDeadlines ..)))
      (.ite (.kept (kept_raiseU ..)) (.ite same (.ite (.ite same (tickS1_tickKeeps ..)) (.ite same ?_))))))
    split
    · exact .ite (startKept_tickKeeps ..) same
    · exact startKept_tickKeeps ..
    · exact .ite same (.ite (defer_tickKeeps ..) (admitService_tickKeeps ..))

end Sys2Proof.Machine
end

section
/-! PROOF. FRAME_TICK without a load (O40). -/

namespace Sys2Proof.Machine

/-! ## A slice that still runs at the tick (R176) -/

/-- A native unit without federation, which a service binds and which runs `sl`. -/
structure RunsOver (s : State) (uid : Nat) (sl : Slice) : Prop where
  slice : (s.unitSt uid).slice = some sl
  native : s.set.cur.s1 uid = false
  alone : s.set.cur.fedOf uid = none
  bound : s.set.cur.svcOf uid ≠ none

/-- It is marked and deferred. -/
theorem tickUnit_runsOver {s : State} {uid : Nat} {sl : Slice} (h : RunsOver s uid sl) (withheld : List Nat) :
    ((s.tickUnit withheld uid).unitSt uid).slice = some { sl with overTick := true } := by
  obtain ⟨v, hv⟩ := Option.ne_none_iff_exists'.1 h.bound
  have hd : s.tickUnit withheld uid = (s.updSlice uid (fun x => { x with overTick := true })).defer uid := by
    unfold State.tickUnit
    dsimp only
    rw [hv, h.alone, h.slice, h.native]
    rfl
  rw [hd, (defer_tickKeeps [] _ uid).slices uid List.not_mem_nil, State.updSlice, updUnit_unitSt, if_pos rfl, h.slice]
  rfl

/-- The ticks of the units, one after the other, mark it, and no other unit's tick touches it. -/
theorem tickUnits_runsOver (withheld us : List Nat) {s : State} {uid : Nat} {sl : Slice} (h : RunsOver s uid sl)
    (hm : uid ∈ us ∨ sl.overTick = true) :
    ((us.foldl (fun s u => s.tickUnit withheld u) s).unitSt uid).slice = some { sl with overTick := true } := by
  induction us generalizing s sl with
  | nil =>
    have ho : sl.overTick = true := hm.resolve_left List.not_mem_nil
    rw [List.foldl_nil, h.slice]
    cases sl
    cases ho
    rfl
  | cons u us ih =>
    have hset : (s.tickUnit withheld u).set = s.set := (kept_tickUnit s withheld u).set_eq (by decide)
    by_cases e : uid = u
    · subst e
      exact ih (sl := { sl with overTick := true }) ⟨tickUnit_runsOver h withheld, hset ▸ h.native, hset ▸ h.alone, hset ▸ h.bound⟩ (.inr rfl)
    · have hs := (tickUnit_tickKeeps s withheld u).slices uid (by simpa using e)
      exact ih ⟨hs.trans h.slice, hset ▸ h.native, hset ▸ h.alone, hset ▸ h.bound⟩ (hm.imp_left fun hm => (List.mem_cons.1 hm).resolve_left e)

/-! ## The stages of a tick without a load -/

/-- The next frame, open: its number, its moment, and the edges matched to it (R153, R160). -/
def FrmState.opened (f : FrmState) (m : Nat) : FrmState :=
  { f with
    count := if f.ticked then f.count + 1 else 0, ticked := true, tickAt := m
    sinceEdge := if f.edgeOfNext then 0 else f.sinceEdge + 1, edgeOfTick := f.edgeOfNext, edgeOfNext := false }

theorem tickOpened_frm (s : State) (m : Nat) : (s.tickOpened m).frm = s.frm.opened m :=
  ((kept_snapshot _).frm_eq (by decide)).trans ((kept_traceFrame ..).frm_eq (by decide))

theorem tickOpened_now (s : State) (m : Nat) : (s.tickOpened m).now = max s.now m :=
  ((kept_snapshot _).now_eq (by decide)).trans ((kept_traceFrame ..).now_eq (by decide))

/-- The counters are copied as the frame opens (R628). -/
theorem tickOpened_snapshots (s : State) (m : Nat) : let t := s.tickOpened m
    t.claspSnap = s.clasps.map (fun p => (p.1, p.2.counter + if p.2.err = true then 2 ^ 32 else 0)) ∧
    (∀ b, (t.bead b).perfSnap = (s.bead b).perf) ∧ t.mem.meterSnap = s.mem.meter := by
  have k : Kept 0x20000011 s (((s.at m).openFrame m).traceFrame 0 0xFFFF) :=
    .of (kept_traceFrame ..) (.of (kept_openFrame ..) (.of (kept_at s m) (.refl _ _)))
  unfold State.tickOpened State.snapshot
  refine ⟨by rw [k.clasps_eq (by decide)], fun b => ?_, by rw [k.mem_eq (by decide)]⟩
  unfold State.bead mget
  dsimp only
  rw [k.beads_eq (by decide), mfind_map s.beads (fun x => { x with perfSnap := x.perf, debug := x.debugReq })]
  cases mfind s.beads b <;> rfl

theorem tickLoad_none {s : State} (h : s.set.loaded = none) : s.tickLoad = s := by
  unfold State.tickLoad
  rw [h]
  split
  · rename_i e; cases e
  · rfl

/-- The correction of a frame's length, in 10 ns: a tenth of the phase error, clamped to T_F / 8, and none in holdover (R159, R162). -/
def lenCorrection (tfQ : Nat) (hold : Bool) (r : Int) : Int :=
  let cmax : Int := tfQ * 250 / 8
  if hold then 0 else (max (-cmax) (min cmax r)).tdiv 10

/-- The phase error of the tick that opens a frame, ns (R159). -/
def State.phaseError (s : State) : Int :=
  match s.set.cur.frame.source with
  | 0 => 0
  | 1 => if s.net.ptp.locked then ptpError (s.set.cur.frame.tfQ * 250) ((s.frm.tickAt / 1000 : Nat) + s.net.ptp.clockAdj) else s.frm.resid
  | _ => s.frm.resid

/-- A tick in holdover corrects nothing. -/
def State.holdsOver (s : State) : Bool := s.frm.holdover || s.lostAtTick

/-- The frame scheduler once the length is fixed. -/
def State.fixedFrm (s : State) : FrmState :=
  let tfQ := s.set.cur.frame.tfQ
  let cmax : Int := tfQ * 250 / 8
  let c10 := lenCorrection tfQ s.holdsOver s.phaseError
  { s.frm with
    r := s.phaseError, resid := s.phaseError - 10 * c10
    slewing := !s.holdsOver && decide (s.phaseError ≠ clampInt (-cmax) cmax s.phaseError), len := ((25 * tfQ : Nat) + c10).toNat }

theorem fixLength_eq (s : State) : s.fixLength = let u : State := { s with frm := s.fixedFrm }
    if (s.fixedFrm.slewing && !s.frm.slewing) = true then u.raiseG St.frmSlew else u := rfl

theorem fixLength_frm (s : State) : s.fixLength.frm = s.fixedFrm := by
  rw [fixLength_eq]
  dsimp only
  split
  · exact (kept_raiseG ..).frm_eq (by decide)
  · rfl

theorem phaseError_free {s : State} (h : s.set.cur.frame.source = 0) : s.phaseError = 0 := by
  unfold State.phaseError
  rw [h]
  rfl

theorem phaseError_fsync {s : State} (h : s.set.cur.frame.source = 2) : s.phaseError = s.frm.resid := by
  unfold State.phaseError
  rw [h]
  rfl

theorem holdsOver_fsync {s : State} (h : s.set.cur.frame.source = 2) : s.holdsOver = true ↔ s.frm.holdover = true ∨ 5 ≤ s.frm.sinceEdge := by
  unfold State.holdsOver State.lostAtTick
  rw [h]
  simp

theorem lenCorrection_zero (tfQ : Nat) (hold : Bool) : lenCorrection tfQ hold 0 = 0 := by
  have h : max (-((tfQ : Int) * 250 / 8)) (min ((tfQ : Int) * 250 / 8) 0) = 0 := by omega
  unfold lenCorrection
  dsimp only
  rw [h]
  cases hold <;> rfl

/-- FSYNC_OUT at a tick. -/
def State.pulseOut (s : State) (m : Nat) : State :=
  if s.set.cur.frame.fsyncOutEn then { s.emit (.pulse 0 m) with frm := { s.frm with fsyncOut := m } } else s

/-- A tick without a load, before power: the frame is open, its length fixed, FSYNC_OUT driven. -/
def State.tickBegun (s : State) (m : Nat) : State := (s.tickOpened m).fixLength.pulseOut m

/-- A tick after power: guarantees, self-tests, per-frame clasps and the units in ascending order. -/
def State.tickSteps (s : State) (withheld : List Nat) : State :=
  let u := s.guarShort.rasTick.resetPerFrame
  u.set.cur.runners.foldl (fun s u => s.tickUnit withheld u) u

theorem tick_stages (s : State) (m : Nat) :
    s.tick m = ((s.tickOpened m).tickLoad.fixLength.pulseOut m).pwrTick.tickSteps (s.at m).affected := by
  unfold State.tick State.tickSteps State.pulseOut State.tickOpened
  dsimp only

theorem tick_unloaded {s : State} (h : s.set.loaded = none) (m : Nat) :
    s.tick m = (s.tickBegun m).pwrTick.tickSteps (s.at m).affected := by
  rw [tick_stages, tickLoad_none]
  · rfl
  rw [(kept_tickOpened s m).set_eq (by decide)]
  exact h

/-- The cap throttle once power allows its release (R660). -/
def PwrState.releaseCap (p : PwrState) : PwrState :=
  if p.p10ms * 100 ≤ p.cap * 95 ∧ p.p100 ≤ p.cap then { p with capClk := none, sinceCapStep := 0, capOver := 0 } else p

/-- The sensors and the pin allow the release of the thermal throttle (R661, R662). -/
def PwrState.cooled (p : PwrState) : Bool := (if p.thermEmergency then p.cool else !p.hot) && !p.prochotIn

/-- The thermal throttle once it may go. -/
def PwrState.releaseThermal (p : PwrState) : PwrState := if p.cooled then { p with thermClk := none, thermEmergency := false } else p

/-- The requests in effect. -/
def PwrState.takeRequests (p : PwrState) : PwrState := { p with curState := p.reqState, curClk := p.reqClk, cap := p.capReq, preWarm := [] }

theorem PwrState.tick_eq (p : PwrState) : p.tick = let q := p.releaseCap.releaseThermal.takeRequests
    if q.capClk.isNone ∧ q.thermClk.isNone then { q with vddTarget := vddOf q.clk } else q := rfl

theorem PwrState.released_requests (p : PwrState) : let q := p.releaseCap.releaseThermal
    q.reqState = p.reqState ∧ q.reqClk = p.reqClk ∧ q.capReq = p.capReq := by
  unfold PwrState.releaseThermal PwrState.releaseCap
  dsimp only
  split
  · split <;> exact ⟨rfl, rfl, rfl⟩
  · split <;> exact ⟨rfl, rfl, rfl⟩

/-- Power requests take effect (R179, R639). -/
theorem PwrState.tick_requests (p : PwrState) : p.tick.curState = p.reqState ∧ p.tick.curClk = p.reqClk ∧ p.tick.cap = p.capReq := by
  have h := p.released_requests
  rw [PwrState.tick_eq]
  dsimp only
  split <;> exact h

theorem pwrTick_spec (s : State) : s.pwrTick.pwr = s.pwr.tick ∧ s.pwrTick.mem.meterSnap = s.mem.meterSnap := by
  unfold State.pwrTick
  dsimp only
  split
  · exact ⟨rfl, rfl⟩
  · split <;> exact ⟨rfl, rfl⟩

theorem kept_tickSteps (s : State) (withheld : List Nat) : Kept 0x31e4766862 s (s.tickSteps withheld) :=
  .foldl (fun s u => kept_tickUnit s withheld u) (.of (kept_resetPerFrame _) (.of (kept_rasTick _) (.of (kept_guarShort _) (.refl _ s))))

/-- Up to the units' ticks no slice changes. -/
theorem beforeUnits_tickKeeps (us : List Nat) (s : State) : TickKeeps us s s.guarShort.rasTick.resetPerFrame :=
  .trans (.trans (.kept (kept_guarShort _)) (rasTick_tickKeeps ..)) (resetPerFrame_tickKeeps ..)

theorem kept_beforeUnits (s : State) : Kept 0x20e0722862 s s.guarShort.rasTick.resetPerFrame :=
  .of (kept_resetPerFrame _) (.of (kept_rasTick _) (.of (kept_guarShort _) (.refl _ s)))

theorem tickSteps_tickKeeps (s : State) (withheld : List Nat) : ∃ us, TickKeeps us s (s.tickSteps withheld) := by
  let us := s.guarShort.rasTick.resetPerFrame.set.cur.runners
  refine ⟨us, List.foldlRecOn (motive := TickKeeps us s) us _ (beforeUnits_tickKeeps us s) (fun t ht u hu => ht.trans ?_)⟩
  exact (tickUnit_tickKeeps t withheld u).mono fun v hv => List.mem_singleton.1 hv ▸ hu

theorem tickSteps_runsOver {s : State} {uid : Nat} {sl : Slice} (h : RunsOver s uid sl) (hm : uid ∈ s.set.cur.runners) (withheld : List Nat) :
    ((s.tickSteps withheld).unitSt uid).slice = some { sl with overTick := true } := by
  have hset := (kept_beforeUnits s).set_eq (by decide)
  refine tickUnits_runsOver withheld _ (sl := sl) ⟨?_, hset ▸ h.native, hset ▸ h.alone, hset ▸ h.bound⟩ (.inl (hset ▸ hm))
  rw [(beforeUnits_tickKeeps [] s).slices uid List.not_mem_nil, h.slice]

/-! ## FSYNC_OUT -/

theorem pulseOut_on {s : State} (h : s.set.cur.frame.fsyncOutEn = true) (m : Nat) :
    s.pulseOut m = { s.emit (.pulse 0 m) with frm := { s.frm with fsyncOut := m } } := if_pos h

theorem kept_pulseOut (s : State) (m : Nat) : Kept 0x2000000010 s (s.pulseOut m) :=
  .ite (.mk (.of (kept_emit ..) (.refl _ s))) (.refl _ s)

theorem pulseOut_frm (s : State) (m : Nat) : ∃ o, (s.pulseOut m).frm = { s.frm with fsyncOut := o } := by
  unfold State.pulseOut
  split
  · exact ⟨m, rfl⟩
  · exact ⟨_, rfl⟩

theorem kept_tickBegun (s : State) (m : Nat) : Kept 0x2040200010 (s.tickOpened m) (s.tickBegun m) :=
  .of (kept_pulseOut ..) (kept_fixLength _)

/-- The frame that a tick opens, and FSYNC_OUT. -/
theorem tickBegun_frm (s : State) (m : Nat) : ∃ o, (s.tickBegun m).frm = { (s.tickOpened m).fixedFrm with fsyncOut := o } := by
  obtain ⟨o, ho⟩ := pulseOut_frm (s.tickOpened m).fixLength m
  exact ⟨o, by rw [State.tickBegun, ho, fixLength_frm]⟩

theorem tickBegun_pulse {s : State} (h : s.set.cur.frame.fsyncOutEn = true) (m : Nat) :
    (s.tickBegun m).frm.fsyncOut = m ∧ Out.pulse 0 m ∈ (s.tickBegun m).out := by
  have hs : (s.tickOpened m).fixLength.set = s.set := ((kept_fixLength _).set_eq (by decide)).trans ((kept_tickOpened s m).set_eq (by decide))
  unfold State.tickBegun
  rw [pulseOut_on (by rw [hs]; exact h)]
  exact ⟨rfl, List.mem_append_right _ (List.mem_singleton_self _)⟩

/-! ## FRAME_TICK -/

/-- What power and the units' ticks leave of a begun tick. -/
theorem tick_begun {s : State} (h : s.set.loaded = none) (m : Nat) : let t := s.tick m
    Kept 0x31e4766862 (s.tickBegun m) t ∧ (∀ b, (t.bead b).perfSnap = (s.bead b).perf) ∧ t.mem.meterSnap = s.mem.meter ∧
    t.pwr.curState = s.pwr.reqState ∧ t.pwr.curClk = s.pwr.reqClk ∧ t.pwr.cap = s.pwr.capReq := by
  obtain ⟨-, hperf, hmeter⟩ := tickOpened_snapshots s m
  have kb := kept_tickBegun s m
  have kp := kept_pwrTick_power (s.tickBegun m)
  obtain ⟨hpwr, hmem⟩ := pwrTick_spec (s.tickBegun m)
  obtain ⟨us, hk⟩ := tickSteps_tickKeeps (s.tickBegun m).pwrTick (s.at m).affected
  obtain ⟨w, hw⟩ := hk.power
  have hp : (s.tickBegun m).pwr = s.pwr := (kb.pwr_eq (by decide)).trans ((kept_tickOpened s m).pwr_eq (by decide))
  rw [tick_unloaded h]
  refine ⟨.of (kept_tickSteps ..) (kp.mono (by decide)), fun b => ?_, ?_, ?_⟩
  · rw [hk.perf, kp.bead_eq (by decide), kb.bead_eq (by decide), hperf]
  · rw [hk.meter, hmem, kb.mem_eq (by decide), hmeter]
  · rw [hw, hpwr, hp]
    exact s.pwr.tick_requests

/-- A slice that runs at the tick keeps running, marked. -/
theorem tick_runsOver {s : State} (hl : s.set.loaded = none) {uid : Nat} {sl : Slice} (h : RunsOver s uid sl)
    (hm : uid ∈ s.set.cur.runners) (m : Nat) : ((s.tick m).unitSt uid).slice = some { sl with overTick := true } := by
  have k : Kept 0x2064221031 s (s.tickBegun m).pwrTick :=
    .of (kept_pwrTick_power _) (.of (kept_tickBegun s m) ((kept_tickOpened s m).mono (by decide)))
  have hset := k.set_eq (by decide)
  rw [tick_unloaded hl]
  refine tickSteps_runsOver (s := (s.tickBegun m).pwrTick) ⟨?_, hset ▸ h.native, hset ▸ h.alone, hset ▸ h.bound⟩ (hset ▸ hm) _
  rw [k.unitSt_eq (by decide)]
  exact h.slice

theorem exec_frameTick {s : State} (h : s.halted = false) (m : Nat) : exec (.frameTick m) s = .next (s.tick m) := unlessDown_of_running h _

/-- The frame that a tick without a load opens. -/
theorem tick_frm {s : State} (hl : s.set.loaded = none) (m : Nat) : let g := s.tickOpened m
    ∃ resid slewing o, (s.tick m).frm = { s.frm.opened m with
      r := g.phaseError, resid, slewing, len := ((25 * s.set.cur.frame.tfQ : Nat) + lenCorrection s.set.cur.frame.tfQ g.holdsOver g.phaseError).toNat
      fsyncOut := o } := by
  obtain ⟨o, ho⟩ := tickBegun_frm s m
  have hset : (s.tickOpened m).set = s.set := (kept_tickOpened s m).set_eq (by decide)
  refine ⟨(s.tickOpened m).fixedFrm.resid, (s.tickOpened m).fixedFrm.slewing, o, ((tick_begun hl m).1.frm_eq (by decide)).trans (ho.trans ?_)⟩
  unfold State.fixedFrm
  rw [hset, tickOpened_frm]

/-- Settles O40, by the stages of a tick: the frame opens with the copies of the counters, its length is fixed, power takes its requests,
and the units' ticks, which touch none of these, mark the slices that still run. -/
theorem frameTickOpensFrame : Obligations.FrameTickOpensFrame := by
  unfold Obligations.FrameTickOpensFrame
  intro m s hrun hl f since cmax
  obtain ⟨k, hperf, hmeter, hstate, hclk, hcap⟩ := tick_begun hl m
  have kb := kept_tickBegun s m
  have hset : (s.tickOpened m).set = s.set := (kept_tickOpened s m).set_eq (by decide)
  obtain ⟨resid, slewing, o, hf⟩ := tick_frm hl m
  refine ⟨s.tick m, exec_frameTick hrun m, ?set, ?now, ?_⟩
  case set => rw [k.set_eq (by decide), kb.set_eq (by decide), hset]
  case now => rw [k.now_eq (by decide), kb.now_eq (by decide), tickOpened_now]
  rw [hf]
  refine ⟨rfl, rfl, rfl, rfl, rfl, rfl, fun h0 => ?free, fun h2 => ?fsync, ?clasps, hperf, hmeter, hstate, hclk, hcap, fun he => ?pulse,
    fun uid sl hm hs h1 hfed hv => tick_runsOver hl ⟨hs, h1, hfed, hv⟩ hm m⟩
  case free =>
    rw [phaseError_free (s := s.tickOpened m) (by rw [hset]; exact h0), lenCorrection_zero, Int.add_zero, Int.toNat_natCast]
    exact ⟨rfl, rfl⟩
  case fsync =>
    have hg : (s.tickOpened m).set.cur.frame.source = 2 := by rw [hset]; exact h2
    have hh := holdsOver_fsync hg
    have hr := phaseError_fsync hg
    rw [tickOpened_frm] at hh hr
    rw [hr]
    exact ⟨rfl, congrArg (fun c : Int => ((25 * f.tfQ : Nat) + c).toNat) (if_congr hh rfl rfl)⟩
  case clasps => rw [k.claspSnap_eq (by decide), kb.claspSnap_eq (by decide), (tickOpened_snapshots s m).1]
  case pulse =>
    obtain ⟨hout, hmem⟩ := tickBegun_pulse he m
    have hkept : (s.tick m).frm.fsyncOut = m := by rw [k.frm_eq (by decide), hout]
    obtain ⟨-, -, hsent, -, -⟩ := k
    exact ⟨(congrArg FrmState.fsyncOut hf).symm.trans hkept, hsent.subset hmem⟩

end Sys2Proof.Machine
end

section
/-! PROOF. A bead command from its decode to its issue (R386), and its entry in the window. -/

namespace Sys2Proof.Machine

/-! ## Changes of one bead after another -/

theorem mput_mput {α : Type} (m : SMap α) (k : Nat) (v u : α) : mput (mput m k v) k u = mput m k u := by
  induction m with
  | nil => simp [mput]
  | cons p t ih =>
    obtain ⟨a, x⟩ := p
    rcases lt_trichotomy k a with h | rfl | h
    · simp [mput, h]
    · simp [mput]
    · simp [mput, h.not_gt, h.ne', ih]

theorem updBead_updBead (s : State) (b : Nat) (f g : Bead → Bead) : (s.updBead b f).updBead b g = s.updBead b (fun x => g (f x)) := by
  unfold State.updBead State.setBead State.bead
  rw [mput_mput, mget_mput_same]

theorem updBead_bead_same (s : State) (b : Nat) (f : Bead → Bead) : (s.updBead b f).bead b = f (s.bead b) := by
  rw [updBead_bead, if_pos rfl]

theorem hold_hold (s : State) (c : Ctx) (idx : Nat) (w : CmdWord) (stage : HoldStage) :
    (s.hold c idx w stage).hold c idx w stage = s.hold c idx w stage := updBead_updBead ..

theorem hold_bead (s : State) (c : Ctx) (idx : Nat) (w : CmdWord) (stage : HoldStage) :
    (s.hold c idx w stage).bead c.b = { s.bead c.b with held := some { idx, word := w, stage, since := s.frm.count } } :=
  updBead_bead_same ..

/-! ## The context of a command -/

theorem ctx?_b {s : State} {b : Nat} {c : Ctx} (h : s.ctx? b = some c) : c.b = b := by
  unfold State.ctx? at h
  simp only [Option.bind_eq_some_iff, Option.map_eq_some_iff] at h
  obtain ⟨pos, -, u, -, p, -, rfl⟩ := h
  rfl

/-- It comes from the setting, the units, the federations and the bead's position. -/
theorem Kept.ctx?_eq {m : Nat} {s t : State} (k : Kept m s t) (hset : m.testBit 3 = false) (hunits : m.testBit 6 = false)
    (hnet : m.testBit 20 = false) {b : Nat} (hpos : (t.bead b).pos = (s.bead b).pos) : t.ctx? b = s.ctx? b := by
  unfold State.ctx? State.sliceOf State.fedGroup
  rw [k.set_eq hset, k.units_eq hunits, k.net_eq hnet, hpos]

/-! ## What decode and issue keep -/

theorem kept_taken (s : State) (c : Ctx) (w : CmdWord) : Kept 0x20000020 s (s.taken c w) :=
  .of (kept_updBead ..) ((kept_traceCmd ..).mono (by decide))

theorem kept_decoded (s : State) (c : Ctx) (w : CmdWord) : Kept 0x200000a0 s (s.decoded c w) :=
  .ite (.of (kept_mtReserve ..) ((kept_taken ..).mono (by decide))) ((kept_taken ..).mono (by decide))

theorem kept_issued (s : State) (c : Ctx) (w : CmdWord) : Kept 0x200000a0 s (s.issued c w) :=
  .of (kept_updBead ..) (.of (kept_traceCmd ..) (kept_decoded ..))

theorem taken_bead (s : State) (c : Ctx) (w : CmdWord) : (s.taken c w).bead c.b = { s.bead c.b with next := (s.bead c.b).next + 1 } := by
  unfold State.taken
  rw [updBead_bead_same, (kept_traceCmd ..).bead_eq (by decide)]

theorem decoded_bead (s : State) (c : Ctx) (w : CmdWord) : (s.decoded c w).bead c.b = (s.taken c w).bead c.b := by
  unfold State.decoded
  split
  · exact (kept_mtReserve ..).bead_eq (by decide) c.b
  · rfl

/-! ## The stages that a command passes -/

section Stages
variable {s : State} {c : Ctx} {w : CmdWord} {idx : Nat}

theorem beadCmd_decodes {b op : Nat} (h : Decodes s b w c) (hop : opcodeOf w = op) :
    s.beadCmd op b w = (s.decodeCmd c (s.bead b).next w).resumeMt := by
  simp [State.beadCmd, h.ready, hop, h.ctx]

theorem decodeCmd_legal (h : Legal s w c) : s.decodeCmd c (s.bead c.b).next w = (s.decoded c w).atWait c (s.bead c.b).next w := by
  obtain ⟨hdecode, hchecks⟩ := h
  unfold State.taken at hdecode hchecks
  unfold State.decodeCmd
  dsimp only
  rw [hdecode]
  dsimp only
  rw [hchecks]
  rfl

theorem atWait_met (h : s.waitMet w) : s.atWait c idx w = s.atFence c idx w := by
  unfold State.atWait
  by_cases hen : waitEn w = true
  · obtain ⟨herr, hcount⟩ := h hen
    simp [hen, herr, hcount]
  · simp [hen]

theorem atFence_other (hend : opcodeOf w ≠ 0x01) (hfence : opcodeOf w ≠ 0x02) : s.atFence c idx w = s.atClasp c idx w :=
  if_neg fun h => h.1.elim hend hfence

theorem atClasp_other (h : opcodeOf w ≠ 0x40) : s.atClasp c idx w = s.atPrescan c idx w := if_pos h

/-- Does a command word need a pre-scan (R332)? -/
def Bead.needsPrescan (x : Bead) (w : CmdWord) : Bool :=
  match opcodeOf w with
  | 0x20 => (mmaJob x w).prescans
  | 0x22 => !flag w 60 && (loupeJob x w).prescans
  | 0x23 => (mmaJob x w).prescans
  | _ => false

theorem atPrescan_none (h : (s.bead c.b).needsPrescan w = false) : s.atPrescan c idx w = s.atTree c idx w :=
  if_neg (Bool.eq_false_iff.1 h)

/-- Has a command the leaves of its die's merge tree that it needs, or can it take them now (R362, R531)? -/
def State.hasLeaves (s : State) (c : Ctx) (w : CmdWord) : Bool :=
  match opcodeOf w with
  | 0x38 => s.mtRoom c w
  | 0x23 => s.collRoom c w
  | 0x2B => s.collRoom c w
  | _ => true

theorem atTree_eq (s : State) (c : Ctx) (idx : Nat) (w : CmdWord) : s.atTree c idx w =
    if s.hasLeaves c w && s.mtWait.head?.all (fun b => b == c.b || b / 20 != c.b / 20) then { s with mtWait := sDel c.b s.mtWait }.issue c idx w
    else (if s.mtWait.contains c.b then s else { s with mtWait := s.mtWait ++ [c.b] }).hold c idx w .mtree := rfl

theorem atTree_issues (hleaves : s.hasLeaves c w = true) (hnone : s.mtWait = []) : s.atTree c idx w = s.issue c idx w := by
  have hdel : sDel c.b s.mtWait = s.mtWait := by
    rw [hnone]
    rfl
  rw [atTree_eq, hdel, hleaves]
  exact if_pos (by rw [hnone]; rfl)

theorem atTree_queues (hleaves : s.hasLeaves c w = false) (hnone : s.mtWait = []) :
    s.atTree c idx w = { s with mtWait := [c.b] }.hold c idx w .mtree := by
  rw [atTree_eq, hleaves, hnone]
  rfl

theorem atTree_stays (hleaves : s.hasLeaves c w = false) (hqueued : c.b ∈ s.mtWait) : s.atTree c idx w = s.hold c idx w .mtree := by
  simp [atTree_eq, hleaves, hqueued]

theorem issue_decoded (h : opcodeOf w ∉ instantOps) : (s.decoded c w).issue c (s.bead c.b).next w =
    if (s.issued c w).mustWait c (s.bead c.b).next w then (s.issued c w).enter c { idx := (s.bead c.b).next, word := w, pend := .hazard }
    else (s.issued c w).run c (s.bead c.b).next w :=
  if_neg (by simpa using h)

/-- A legal command whose wait is met and which needs no pre-scan comes to the merge tree. -/
theorem decodeCmd_atTree (hl : Legal s w c) (hw : s.waitMet w) (hop : opcodeOf w ∉ [0x01, 0x02, 0x40])
    (hpre : ((s.taken c w).bead c.b).needsPrescan w = false) :
    s.decodeCmd c (s.bead c.b).next w = (s.decoded c w).atTree c (s.bead c.b).next w := by
  have hmet : (s.decoded c w).waitMet w := by
    unfold State.waitMet
    rwa [(kept_decoded s c w).clasp_eq (by decide)]
  simp only [List.mem_cons, List.not_mem_nil, or_false, not_or] at hop
  obtain ⟨hend, hfence, hclasp⟩ := hop
  rw [decodeCmd_legal hl, atWait_met hmet, atFence_other hend hfence, atClasp_other hclasp,
    atPrescan_none (by rwa [decoded_bead])]

/-! ## Commands that wait for the merge tree (R362) -/

theorem resumeMt_nil (h : s.mtWait = []) : s.resumeMt = s := by
  unfold State.resumeMt
  rw [h]
  rfl

theorem resumeMt_one {h : Held} (hwait : s.mtWait = [c.b]) (hctx : s.ctx? c.b = some c) (hheld : (s.bead c.b).held = some h)
    (hstage : h.stage = .mtree) : s.resumeMt = s.atTree c h.idx h.word := by
  unfold State.resumeMt
  rw [hwait, List.foldl_cons, hheld, hctx]
  exact if_pos hstage

/-- Waiting in the queue takes and gives no leaves. -/
theorem hold_hasLeaves (l : List Nat) (idx : Nat) (w : CmdWord) :
    ({ s with mtWait := l }.hold c idx w .mtree).hasLeaves c w = s.hasLeaves c w := by
  have hroom : ({ s with mtWait := l }.hold c idx w .mtree).collRoom c w = s.collRoom c w := by
    unfold State.collRoom
    rw [hold_bead]
    rfl
  unfold State.hasLeaves
  rw [hroom]
  rfl

/-- Without its leaves a command waits in the queue, and looking at the queue again changes nothing. -/
theorem atTree_resumeMt_held (hctx : s.ctx? c.b = some c) (hleaves : s.hasLeaves c w = false) (hnone : s.mtWait = []) :
    (s.atTree c idx w).resumeMt = { s with mtWait := [c.b] }.hold c idx w .mtree := by
  rw [atTree_queues hleaves hnone]
  have k : Kept 0x120 s ({ s with mtWait := [c.b] }.hold c idx w .mtree) := .of (kept_hold ..) (.mk (.refl _ s))
  have hbead := hold_bead { s with mtWait := [c.b] } c idx w .mtree
  have hctx' := (k.ctx?_eq (by decide) (by decide) (by decide) ((congrArg Bead.pos hbead).trans rfl)).trans hctx
  rw [resumeMt_one rfl hctx' (congrArg Bead.held hbead) rfl,
    atTree_stays ((hold_hasLeaves [c.b] idx w).trans hleaves) (List.mem_singleton_self _)]
  exact hold_hold ..

/-! ## Execution -/

/-- The entry in the window of a command whose effect has been made. -/
def Bead.ranEntry (x : Bead) (idx : Nat) (w : CmdWord) (p : Pend) (poison : Bool) : InFlight :=
  { idx, word := w, status := if poison && poisonOps.contains (opcodeOf w) then St.poison else 0, pend := p
    due := if p = .none then [] else ((planOf x w).hulls.filter (·.wr)).map (fun r => (r.kind, r.lo, r.len)) }

theorem run_ok {p : Pend} {t : CSt} (h : effectOf c idx w { s } = .ok p t) (hp : ∀ seq, p ≠ .coll seq) :
    s.run c idx w = t.s.enter c ((s.bead c.b).ranEntry idx w p t.poison) := by
  unfold State.run
  rw [h]
  cases p with
  | coll seq => exact absurd rfl (hp seq)
  | _ => rfl

theorem run_ok_coll {seq : Nat} {t : CSt} (h : effectOf c idx w { s } = .ok (.coll seq) t) :
    s.run c idx w = (t.s.enter c ((s.bead c.b).ranEntry idx w (.coll seq) t.poison)).afterFuse c seq := by
  unfold State.run
  rw [h]
  rfl

theorem effectOf_mtWait {p : Pend} {t : CSt} (h : effectOf c idx w { s } = .ok p t) : t.s.mtWait = s.mtWait :=
  (KeptM.ok_step (keptM_effectOf c idx w) h (.refl 0x20000602e2 s)).mtWait_eq (by decide)

end Stages

/-! ## What a command still needs after its effect -/

/-- Every answer of an execution without a fault has a property. -/
def Answers {α : Type} (P : α → Prop) (x : CmdM α) : Prop := ∀ t a t', x t = .ok a t' → P a

namespace Answers
variable {α β : Type} {P : α → Prop}

theorem pure {a : α} (h : P a) : Answers P (Pure.pure a : CmdM α) := fun _ _ _ e => by
  cases e
  exact h

theorem bind {x : CmdM β} {f : β → CmdM α} (h : ∀ b, Answers P (f b)) : Answers P (x >>= f) := by
  intro t a t' e
  change EStateM.bind x f t = .ok a t' at e
  unfold EStateM.bind at e
  split at e
  · exact h _ _ _ _ e
  · cases e

theorem throw_bind {f : Flt} {k : β → CmdM α} : Answers P (throw f >>= k) := fun _ _ _ e => by cases e

end Answers

/-- What a command word still needs once its effect has been made: a pull its records, a fused command its segments (R365, R401). -/
def Awaits (w : CmdWord) (p : Pend) : Prop :=
  if opcodeOf w = 0x39 then p = .pull (fld w 39 32)
  else if opcodeOf w = 0x23 ∨ opcodeOf w = 0x2B then ∃ seq, p = .coll seq
  else p = .none

theorem awaits_pull {w : CmdWord} {p : Pend} (h : opcodeOf w = 0x39) : Awaits w p ↔ p = .pull (fld w 39 32) := by
  rw [Awaits, if_pos h]

theorem awaits_coll {w : CmdWord} {p : Pend} (h : opcodeOf w = 0x23 ∨ opcodeOf w = 0x2B) : Awaits w p ↔ ∃ seq, p = .coll seq := by
  rw [Awaits, if_neg (by omega), if_pos h]

theorem awaits_none {w : CmdWord} {p : Pend} (h : opcodeOf w ∉ [0x23, 0x2B, 0x39]) : Awaits w p ↔ p = .none := by
  simp only [List.mem_cons, List.not_mem_nil, or_false, not_or] at h
  obtain ⟨hxmma, hxdrain, hpull⟩ := h
  rw [Awaits, if_neg hpull, if_neg (by omega)]

theorem effectOf_awaits (c : Ctx) (idx : Nat) (w : CmdWord) : Answers (Awaits w) (effectOf c idx w) := by
  unfold effectOf
  refine .bind fun s => ?_
  dsimp only
  cases hullCheck c (planOf (s.bead c.b) w).hulls with
  | some f => exact .throw_bind
  | none =>
    refine .bind fun _ => ?_
    -- The arms of 0x23, 0x2B and 0x39, and the one of no opcode; every other arm answers that nothing is left.
    split
    case h_8 h => exact .bind fun _ => .bind fun seq => .pure ((awaits_coll (.inl h)).2 ⟨seq, rfl⟩)
    case h_12 h => exact .bind fun seq => .pure ((awaits_coll (.inr h)).2 ⟨seq, rfl⟩)
    case h_16 h => exact .bind fun _ => .pure ((awaits_pull h).2 rfl)
    case h_21 => exact .pure ((awaits_none (by simp_all)).2 rfl)
    all_goals
      rename_i h
      exact .bind fun _ => .pure ((awaits_none (by rw [h]; decide)).2 rfl)

end Sys2Proof.Machine
end

section
/-! PROOF. MTPUSH, MTPULL, XMMA and XDRAIN at the merge tree (R359 to R365, R401, R531), and O24. -/

namespace Sys2Proof.Machine

/-! ## The four rows -/

/-- The commands that come to the merge tree. -/
def treeOps : List Nat := [0x38, 0x39, 0x23, 0x2B]

def treeRows (b : BeadId) (w : CmdWord) : List (Nat × Instr) :=
  [(0x38, .mtpush b w), (0x39, .mtpull b w), (0x23, .xmma b w), (0x2B, .xdrain b w)]

theorem mem_treeOps {op : Nat} : op ∈ treeOps ↔ op = 0x38 ∨ op = 0x39 ∨ op = 0x23 ∨ op = 0x2B := by simp [treeOps]

theorem treeOps_not_instant {op : Nat} (h : op ∈ treeOps) : op ∉ instantOps := by
  obtain rfl | rfl | rfl | rfl := mem_treeOps.1 h <;> decide

theorem exec_treeRow {b : BeadId} {w : CmdWord} {s : State} {op : Nat} {i : Instr} (hi : (op, i) ∈ treeRows b w) (h : s.halted = false) :
    op ∈ treeOps ∧ exec i s = .next (s.beadCmd op b w) := by
  simp only [treeRows, List.mem_cons, Prod.mk.injEq, List.not_mem_nil, or_false] at hi
  obtain ⟨rfl, rfl⟩ | ⟨rfl, rfl⟩ | ⟨rfl, rfl⟩ | ⟨rfl, rfl⟩ := hi <;>
    exact ⟨by decide, unlessDown_of_running h _⟩

section Tree
variable {s : State} {c : Ctx} {w : CmdWord}

theorem hasLeaves_iff (h : opcodeOf w ∈ treeOps) : s.hasLeaves c w = true ↔ opcodeOf w = 0x39 ∨ opcodeOf w = 0x38 ∧ s.mtRoom c w = true ∨
    (opcodeOf w = 0x23 ∨ opcodeOf w = 0x2B) ∧ s.collRoom c w = true := by
  unfold State.hasLeaves
  obtain h | h | h | h := mem_treeOps.1 h <;> simp [h]

theorem treeOps_needsPrescan {x : Bead} (h : opcodeOf w ∈ treeOps) (hpre : opcodeOf w = 0x23 → (mmaJob x w).prescans = false) :
    x.needsPrescan w = false := by
  unfold Bead.needsPrescan
  obtain h | h | h | h := mem_treeOps.1 h <;> simp [h, hpre]

/-- Such a command comes to the merge tree, where nothing waits. -/
theorem beadCmd_tree {b : Nat} (hop : opcodeOf w ∈ treeOps) (hd : Decodes s b w c) (hl : Legal s w c) (hw : s.waitMet w)
    (hpre : opcodeOf w = 0x23 → (mmaJob ((s.taken c w).bead c.b) w).prescans = false) :
    s.beadCmd (opcodeOf w) b w = ((s.decoded c w).atTree c (s.bead c.b).next w).resumeMt := by
  have hother : opcodeOf w ∉ [0x01, 0x02, 0x40] := fun h => treeOps_not_instant hop (List.mem_cons_of_mem _ h)
  rw [beadCmd_decodes hd rfl, ← decodeCmd_atTree hl hw hother (treeOps_needsPrescan hop hpre), ctx?_b hd.ctx]

theorem issued_mtWait (hnone : s.mtWait = []) : (s.issued c w).mtWait = [] :=
  ((kept_issued s c w).mtWait_eq (by decide)).trans hnone

/-- With its leaves it issues: it waits in the window for earlier accesses, or it runs. -/
theorem atTree_decoded_issues (hop : opcodeOf w ∈ treeOps) (hnone : s.mtWait = []) (hleaves : (s.decoded c w).hasLeaves c w = true) :
    (s.decoded c w).atTree c (s.bead c.b).next w =
      if (s.issued c w).mustWait c (s.bead c.b).next w then (s.issued c w).enter c { idx := (s.bead c.b).next, word := w, pend := .hazard }
      else (s.issued c w).run c (s.bead c.b).next w := by
  rw [atTree_issues hleaves (((kept_decoded s c w).mtWait_eq (by decide)).trans hnone), issue_decoded (treeOps_not_instant hop)]

/-- Without them it is held in the queue of its die. -/
theorem atTree_decoded_held (hctx : s.ctx? c.b = some c) (hnone : s.mtWait = []) (hleaves : (s.decoded c w).hasLeaves c w = false) (idx : Nat) :
    ((s.decoded c w).atTree c idx w).resumeMt = { s.decoded c w with
      mtWait := [c.b]
      beads := mput (s.decoded c w).beads c.b
        { (s.decoded c w).bead c.b with held := some { idx, word := w, stage := .mtree, since := s.frm.count } } } := by
  have k := kept_decoded s c w
  have hpos : ((s.decoded c w).bead c.b).pos = (s.bead c.b).pos := by rw [decoded_bead, taken_bead]
  rw [atTree_resumeMt_held ((k.ctx?_eq (by decide) (by decide) (by decide) hpos).trans hctx) hleaves
    ((k.mtWait_eq (by decide)).trans hnone), ← k.frm_eq (by decide)]
  rfl

theorem ranEntry_treeOps {x : Bead} {idx : Nat} {p : Pend} {poison : Bool} (hop : opcodeOf w ∈ treeOps) :
    x.ranEntry idx w p poison = { x.ranEntry idx w p poison with status := if poison = true then St.poison else 0 } := by
  have hpoison : poisonOps.contains (opcodeOf w) = true := by
    obtain h | h | h | h := mem_treeOps.1 hop <;> rw [h] <;> rfl
  unfold Bead.ranEntry
  rw [hpoison, Bool.and_true]

end Tree

/-! ## The statement -/

/-- Settles O24: the command comes to the merge tree, where `hasLeaves` decides whether it issues or is held; what it still needs after its
effect is `Awaits`. -/
theorem pushPullAndFusedRowsExecute : Obligations.PushPullAndFusedRowsExecute := by
  unfold Obligations.PushPullAndFusedRowsExecute
  intro b w s c op i hi hop hrun hd hl hw hpre room due now into h d u
  subst hop
  obtain ⟨htree, hexec⟩ := exec_treeRow hi hrun
  obtain ⟨b, hb⟩ := b
  obtain rfl : c.b = b := ctx?_b hd.ctx
  have hroom : d.hasLeaves c w = true ↔ room := hasLeaves_iff htree
  rw [hexec, beadCmd_tree htree hd hl hw hpre]
  refine ⟨fun hr hwait => ?hazard, fun hr hgo p t hp => ?runs, fun hr => ?held⟩
  case hazard =>
    rw [atTree_decoded_issues htree hd.alone (hroom.2 hr), if_pos hwait]
    exact congrArg _ (resumeMt_nil (issued_mtWait hd.alone))
  case runs =>
    intro st
    have hawaits : Awaits w p := effectOf_awaits _ _ _ _ _ _ hp
    have hinto : t.s.enter c ((u.bead c.b).ranEntry (s.bead c.b).next w p t.poison) = into t p st := by
      rw [ranEntry_treeOps htree]
      rfl
    rw [atTree_decoded_issues htree hd.alone (hroom.2 hr), if_neg (Bool.eq_false_iff.1 hgo), ← hinto]
    refine ⟨fun hop => ?stays, fun hop => ?fused⟩
    case stays =>
      have hp' : p = if opcodeOf w = 0x39 then .pull (fld w 39 32) else .none := by
        obtain hop | hop := hop
        · rw [if_neg (by omega)]
          exact (awaits_none (by rw [hop]; decide)).1 hawaits
        · rw [if_pos hop]
          exact (awaits_pull hop).1 hawaits
      have hcoll : ∀ seq, p ≠ .coll seq := fun seq => by
        rw [hp']
        split <;> exact Pend.noConfusion
      rw [run_ok hp hcoll]
      exact ⟨congrArg _ (resumeMt_nil ((effectOf_mtWait hp).trans (issued_mtWait hd.alone))), hp'⟩
    case fused =>
      obtain ⟨seq, rfl⟩ := (awaits_coll hop).1 hawaits
      exact ⟨seq, rfl, by rw [run_ok_coll hp]⟩
  case held =>
    exact congrArg _ (atTree_decoded_held hd.ctx hd.alone (Bool.eq_false_iff.2 (mt hroom.1 hr)) _)

end Sys2Proof.Machine
end

section
/-! PROOF. The rows of the bead commands, and O23: a legal command issues (R386). -/

namespace Sys2Proof.Machine

/-! ## The rows -/

/-- The rows whose command does the work of a bead: data movement, compute, and the slots. -/
def workRows (b : BeadId) (w : CmdWord) : List (Nat × Instr) :=
  [(0x08, .tdset b w), (0x10, .load b w), (0x11, .store b w), (0x12, .copy b w), (0x20, .mma b w), (0x21, .conv b w), (0x22, .loupe b w),
    (0x28, .drain b w), (0x29, .spill b w), (0x2A, .fill b w), (0x30, .vop b w), (0x31, .red b w), (0x48, .save b w), (0x49, .restore b w),
    (0x50, .dbgrd b w), (0x51, .dbgwr b w)]

/-- The opcodes of these rows. -/
def workOps : List Nat := [0x08, 0x10, 0x11, 0x12, 0x20, 0x21, 0x22, 0x28, 0x29, 0x2A, 0x30, 0x31, 0x48, 0x49, 0x50, 0x51]

/-- The rows of the bead commands, but for END, which names its moment. -/
def beadRows (b : BeadId) (w : CmdWord) : List (Nat × Instr) :=
  [(0x00, .nop b w), (0x02, .fence b w), (0x08, .tdset b w), (0x10, .load b w), (0x11, .store b w), (0x12, .copy b w), (0x20, .mma b w),
    (0x21, .conv b w), (0x22, .loupe b w), (0x23, .xmma b w), (0x28, .drain b w), (0x29, .spill b w), (0x2A, .fill b w), (0x2B, .xdrain b w),
    (0x30, .vop b w), (0x31, .red b w), (0x38, .mtpush b w), (0x39, .mtpull b w), (0x40, .clasp b w), (0x48, .save b w), (0x49, .restore b w),
    (0x50, .dbgrd b w), (0x51, .dbgwr b w)]

theorem workRows_subset (b : BeadId) (w : CmdWord) : workRows b w ⊆ beadRows b w := by simp [workRows, beadRows]

theorem exec_beadRow {b : BeadId} {w : CmdWord} {s : State} (h : s.halted = false) :
    ∀ p, p ∈ beadRows b w → exec p.2 s = .next (s.beadCmd p.1 b w) := by
  simp only [beadRows, List.forall_mem_cons]
  refine ⟨?_, ?_, ?_, ?_, ?_, ?_, ?_, ?_, ?_, ?_, ?_, ?_, ?_, ?_, ?_, ?_, ?_, ?_, ?_, ?_, ?_, ?_, ?_, fun _ h => absurd h List.not_mem_nil⟩ <;>
    exact unlessDown_of_running h _

theorem workRows_op {b : BeadId} {w : CmdWord} {op : Nat} {i : Instr} (hi : (op, i) ∈ workRows b w) : op ∈ workOps :=
  List.mem_map_of_mem (f := Prod.fst) hi

theorem workOps_not_instant : ∀ op ∈ workOps, op ∉ instantOps := by decide

section Work
variable {s : State} {c : Ctx} {w : CmdWord}

/-- Only MTPUSH and the fused commands need leaves of a merge tree. -/
theorem hasLeaves_other (h : opcodeOf w ∉ [0x38, 0x23, 0x2B]) : s.hasLeaves c w = true := by
  unfold State.hasLeaves
  split <;> simp_all

/-- Only MMA, LOUPE and XMMA may need a pre-scan (R332). -/
theorem needsPrescan_other {x : Bead} (h : opcodeOf w ∉ [0x20, 0x22, 0x23]) : x.needsPrescan w = false := by
  unfold Bead.needsPrescan
  split <;> simp_all

theorem hasLeaves_work (h : opcodeOf w ∈ workOps) : s.hasLeaves c w = true :=
  hasLeaves_other ((by decide : ∀ op ∈ workOps, op ∉ [0x38, 0x23, 0x2B]) _ h)

/-- Of them MMA and a LOUPE of a product may need a pre-scan (R332). -/
theorem needsPrescan_work {x : Bead} (h : opcodeOf w ∈ workOps) (hmma : opcodeOf w = 0x20 → (mmaJob x w).prescans = false)
    (hloupe : opcodeOf w = 0x22 → flag w 60 = true ∨ (loupeJob x w).prescans = false) : x.needsPrescan w = false := by
  unfold Bead.needsPrescan
  split
  case h_1 e => exact hmma e
  case h_2 e => obtain hcodes | hnone := hloupe e <;> simp [*]
  case h_3 e =>
    rw [e] at h
    exact absurd h (by decide)
  case h_4 => rfl

/-- Issue, where nothing waits for the merge tree: the command waits in the window for earlier accesses, or it runs. -/
theorem atTree_decoded_issue (hop : opcodeOf w ∉ instantOps) (hnone : s.mtWait = []) (hleaves : (s.decoded c w).hasLeaves c w = true) :
    (s.decoded c w).atTree c (s.bead c.b).next w =
      if (s.issued c w).mustWait c (s.bead c.b).next w then (s.issued c w).enter c { idx := (s.bead c.b).next, word := w, pend := .hazard }
      else (s.issued c w).run c (s.bead c.b).next w := by
  rw [atTree_issues hleaves (((kept_decoded s c w).mtWait_eq (by decide)).trans hnone), issue_decoded hop]

theorem run_error {idx : Nat} {f : Flt} {t : CSt} (h : effectOf c idx w { s } = .error f t) : s.run c idx w = t.s.failCmd c idx f := by
  unfold State.run
  rw [h]

/-- A legal command of these rows issues at once. -/
theorem beadCmd_work {b : Nat} (hop : opcodeOf w ∈ workOps) (hd : Decodes s b w c) (hl : Legal s w c) (hw : s.waitMet w)
    (hpre : ((s.taken c w).bead c.b).needsPrescan w = false) :
    s.beadCmd (opcodeOf w) b w =
      (if (s.issued c w).mustWait c (s.bead c.b).next w then (s.issued c w).enter c { idx := (s.bead c.b).next, word := w, pend := .hazard }
      else (s.issued c w).run c (s.bead c.b).next w).resumeMt := by
  have hother : opcodeOf w ∉ [0x01, 0x02, 0x40] := fun h => workOps_not_instant _ hop (List.mem_cons_of_mem _ h)
  rw [beadCmd_decodes hd rfl, ← ctx?_b hd.ctx, decodeCmd_atTree hl hw hother hpre,
    atTree_decoded_issue (workOps_not_instant _ hop) hd.alone (hasLeaves_work hop)]

/-- What such a command still needs after its effect: nothing. -/
theorem effectOf_work {s : CSt} {idx : Nat} {p : Pend} {t : CSt} (hop : opcodeOf w ∈ workOps) (h : effectOf c idx w s = .ok p t) : p = .none :=
  (awaits_none ((by decide : ∀ op ∈ workOps, op ∉ [0x23, 0x2B, 0x39]) _ hop)).1 (effectOf_awaits _ _ _ _ _ _ h)

/-- It runs and stands in the window. -/
theorem run_work {idx : Nat} {p : Pend} {t : CSt} (hop : opcodeOf w ∈ workOps) (h : effectOf c idx w { s } = .ok p t) :
    s.run c idx w = t.s.enter c ((s.bead c.b).ranEntry idx w p t.poison) :=
  run_ok h (by rw [effectOf_work hop h]; exact fun _ => Pend.noConfusion)

/-- Nothing waits for the merge tree after it. -/
theorem run_work_resumeMt {idx : Nat} {p : Pend} {t : CSt} (hop : opcodeOf w ∈ workOps) (hnone : s.mtWait = [])
    (h : effectOf c idx w { s } = .ok p t) : (s.run c idx w).resumeMt = t.s.enter c ((s.bead c.b).ranEntry idx w p t.poison) := by
  rw [run_work hop h]
  exact resumeMt_nil ((effectOf_mtWait h).trans hnone)

end Work

/-! ## The statement -/

/-- Settles O23: where it clashes with no access to come, the command runs its effect; `effectOf` leaves nothing for it to wait for. -/
theorem beadWorkRowsExecute : Obligations.BeadWorkRowsExecute := by
  unfold Obligations.BeadWorkRowsExecute
  intro b w s c op i hi hop hrun hd hl hw hmma hloupe u n
  subst hop
  have hmem : opcodeOf w ∈ workOps := workRows_op hi
  obtain ⟨b, hb⟩ := b
  obtain rfl : c.b = b := ctx?_b hd.ctx
  have hnone : u.mtWait = [] := issued_mtWait hd.alone
  rw [exec_beadRow hrun _ (workRows_subset _ w hi), beadCmd_work hmem hd hl hw (needsPrescan_work hmem hmma hloupe)]
  refine ⟨fun hwait => ?hazard, fun hgo => ⟨fun p t hp => ?runs, fun f t hf => ?fails⟩⟩
  case hazard =>
    rw [if_pos hwait]
    exact congrArg _ (resumeMt_nil hnone)
  case runs =>
    rw [if_neg (Bool.eq_false_iff.1 hgo), run_work_resumeMt hmem hnone hp]
    exact ⟨_, _, rfl, rfl, rfl, rfl, rfl, by simp [Bead.ranEntry]⟩
  case fails =>
    rw [if_neg (Bool.eq_false_iff.1 hgo), run_error hf]
    rfl

end Sys2Proof.Machine
end

section
/-! PROOF. Writes of a scratchpad with their poison (R417, R420), and O25: TDSET (R395). -/

namespace Sys2Proof.Machine

/-! ## Poison of granules -/

theorem granHas_iff {g : Nat} {p : List Nat} {a n : Nat} (hn : n ≠ 0) :
    granHas g p a n = true ↔ ∃ y, y ∈ p ∧ a / g ≤ y ∧ y ≤ (a + n - 1) / g := by
  simp [granHas, List.any_eq_true, hn]

theorem mem_granClear {g : Nat} {p : List Nat} {a n y : Nat} :
    y ∈ granClear g p a n ↔ y ∈ p ∧ ¬ (ceilDiv a g ≤ y ∧ y < (a + n) / g) := by
  simp [granClear, imp_iff_not_or]

/-- A byte's mark falls on its granule. -/
theorem mem_granMark_byte {g : Nat} {p : List Nat} {a y : Nat} : y ∈ granMark g p a 1 ↔ y = a / g ∨ y ∈ p := by
  unfold granMark granules
  rw [mem_foldl_sIns, if_neg Nat.one_ne_zero, mem_span, Nat.add_sub_cancel]
  have : a / g ≤ y ∧ y < a / g + (a / g + 1 - a / g) ↔ y = a / g := by omega
  rw [this]

/-- The marks of a list of bytes, by their places. -/
theorem mem_spMarksFold (a : Nat) (l : List (Nat × PByte)) (x : Bead) (y : Nat) :
    y ∈ (l.foldl (fun x p => if p.2.2 then x.spMark (a + p.1) 1 else x) x).spPoison ↔
      y ∈ x.spPoison ∨ ∃ p, p ∈ l ∧ p.2.2 = true ∧ y = (a + p.1) / 32 := by
  induction l generalizing x with
  | nil => simp
  | cons p t ih =>
    rw [List.foldl_cons, ih]
    cases hp : p.2.2 with
    | false => simp [hp]
    | true =>
      simp only [if_true, Bead.spMark, mem_granMark_byte, List.mem_cons, exists_eq_or_imp, hp, true_and]
      tauto

theorem mem_zip_range {α : Type} {l : List α} {p : Nat × α} : p ∈ (List.range l.length).zip l ↔ ∃ h : p.1 < l.length, l[p.1] = p.2 := by
  rw [List.mem_iff_getElem]
  constructor
  · rintro ⟨i, hi, rfl⟩
    simp only [List.length_zip, List.length_range, min_self] at hi
    simp [hi]
  · rintro ⟨h, e⟩
    exact ⟨p.1, by simpa using h, by simp [e]⟩

namespace Bead

theorem mem_spMarks {x : Bead} {a : Nat} {bs : List PByte} {y : Nat} :
    y ∈ (x.spMarks a bs).spPoison ↔ y ∈ x.spPoison ∨ ∃ i, ∃ h : i < bs.length, bs[i].2 = true ∧ y = (a + i) / 32 := by
  unfold spMarks
  rw [mem_spMarksFold]
  refine or_congr_right ⟨?_, ?_⟩
  · rintro ⟨p, hp, hbad, hy⟩
    obtain ⟨h, e⟩ := mem_zip_range.1 hp
    exact ⟨p.1, h, by rw [e]; exact hbad, hy⟩
  · rintro ⟨i, h, hbad, hy⟩
    exact ⟨(i, bs[i]), mem_zip_range.2 ⟨h, rfl⟩, hbad, hy⟩

/-- Marks change the poison alone. -/
theorem spMarks_eq (x : Bead) (a : Nat) (bs : List PByte) : x.spMarks a bs = { x with spPoison := (x.spMarks a bs).spPoison } := by
  unfold spMarks
  refine List.foldlRecOn (motive := fun y : Bead => y = { x with spPoison := y.spPoison }) _ _ rfl fun y hy p _ => ?_
  split
  · rw [hy]
    rfl
  · exact hy

/-- A bead with bytes written to its scratchpad with their marks. -/
def spPut (x : Bead) (a : Nat) (bs : List PByte) : Bead := (x.spWrite a (bs.map (·.1))).spMarks a bs

theorem spPut_eq (x : Bead) (a : Nat) (bs : List PByte) :
    x.spPut a bs = { x with sp := x.sp.writeL a (bs.map (·.1)), spPoison := (x.spPut a bs).spPoison } := spMarks_eq ..

theorem spPut_sp (x : Bead) (a : Nat) (bs : List PByte) : (x.spPut a bs).sp = x.sp.writeL a (bs.map (·.1)) := by
  rw [spPut_eq]

theorem wf_spPut {x : Bead} (a : Nat) (bs : List PByte) (h : x.sp.wf = true) : (x.spPut a bs).sp.wf = true := by
  rw [spPut_sp]
  exact Bytes.wf_writeL _ _ h

theorem spPut_readN (x : Bead) (a : Nat) (bs : List PByte) : (x.spPut a bs).sp.readN a bs.length = bs.map (·.1) := by
  have h := Bytes.readN_writeL x.sp a (bs.map (·.1))
  rwa [List.length_map, ← spPut_sp] at h

theorem spPut_read_other (x : Bead) (a : Nat) (bs : List PByte) {i : Nat} (h : i < a ∨ a + bs.length ≤ i) :
    (x.spPut a bs).sp.read i = x.sp.read i := by
  rw [spPut_sp]
  exact Bytes.read_writeL_other _ _ _ _ (by rwa [List.length_map])

/-- A granule wholly written carries poison when one of its bytes does. -/
theorem spPut_spBad {x : Bead} {a : Nat} {bs : List PByte} {k : Nat} (ha : a % 32 = 0) (hk : 32 * k + 32 ≤ bs.length) :
    (x.spPut a bs).spBad (a + 32 * k) 32 = true ↔ ∃ i, ∃ h : i < bs.length, bs[i].2 = true ∧ i / 32 = k := by
  unfold spBad
  rw [granHas_iff (by decide)]
  constructor
  · rintro ⟨y, hy, hlo, hhi⟩
    obtain hy | ⟨i, h, hbad, rfl⟩ := mem_spMarks.1 hy
    · obtain ⟨-, hno⟩ := mem_granClear.1 hy
      rw [List.length_map, ceilDiv] at hno
      exact absurd ⟨by omega, by omega⟩ hno
    · exact ⟨i, h, hbad, by omega⟩
  · rintro ⟨i, h, hbad, hi⟩
    exact ⟨(a + i) / 32, mem_spMarks.2 (.inr ⟨i, h, hbad, rfl⟩), by omega, by omega⟩

theorem length_spRead (x : Bead) (a n : Nat) : (x.spRead a n).length = n := by simp [spRead, span]

theorem spRead_fst (x : Bead) (a n : Nat) : (x.spRead a n).map (·.1) = x.sp.readN a n := by simp [spRead, Bytes.readN]

theorem getElem_spRead (x : Bead) (a n : Nat) {i : Nat} (h : i < (x.spRead a n).length) :
    (x.spRead a n)[i] = (x.sp.read (a + i), x.spPoison.contains ((a + i) / 32)) := by simp [spRead, span]

/-- Bytes read from a scratchpad take the poison of their granules along. -/
theorem spPut_spRead_spBad (x z : Bead) {a src n k : Nat} (ha : a % 32 = 0) (hk : 32 * k + 32 ≤ n) :
    (x.spPut a (z.spRead src n)).spBad (a + 32 * k) 32 = z.spBad (src + 32 * k) 32 := by
  rw [Bool.eq_iff_iff, spPut_spBad ha (by rwa [length_spRead]), spBad, granHas_iff (by decide)]
  simp only [getElem_spRead, List.contains_iff_mem]
  constructor
  · rintro ⟨i, -, hbad, hi⟩
    exact ⟨_, hbad, by omega, by omega⟩
  · rintro ⟨y, hy, hlo, hhi⟩
    rw [length_spRead]
    by_cases e : (src + 32 * k) / 32 = y
    · exact ⟨32 * k, by omega, by rwa [e], by omega⟩
    · have e' : (src + (32 * k + 31)) / 32 = y := by omega
      exact ⟨32 * k + 31, by omega, by rwa [e'], by omega⟩

end Bead

theorem putSp_eq (s : State) (b a : Nat) (bs : List PByte) : s.putSp b a bs = s.updBead b (fun x => x.spPut a bs) := rfl

/-! ## The bead of a command at its issue -/

section
variable {s : State} {c : Ctx} {w : CmdWord}

theorem taken_bead_other (s : State) (c : Ctx) (w : CmdWord) {k : Nat} (h : k ≠ c.b) : (s.taken c w).bead k = s.bead k := by
  unfold State.taken
  rw [updBead_bead, if_neg h, (kept_traceCmd ..).bead_eq (by decide)]

/-- But for an MTPUSH, which reserves its records, decode changes the bead and its trace. -/
theorem decoded_eq_taken (h : opcodeOf w ≠ 0x38) : s.decoded c w = s.taken c w := if_neg h

theorem kept_issued_of (h : opcodeOf w ≠ 0x38) : Kept 0x20000020 s (s.issued c w) := by
  unfold State.issued
  rw [decoded_eq_taken h]
  exact .of (kept_updBead ..) (.of (kept_traceCmd ..) (kept_taken s c w))

theorem issued_bead (s : State) (c : Ctx) (w : CmdWord) :
    (s.issued c w).bead c.b = { s.bead c.b with next := (s.bead c.b).next + 1, held := none } := by
  unfold State.issued
  rw [updBead_bead_same, (kept_traceCmd ..).bead_eq (by decide), decoded_bead, taken_bead]

theorem issued_bead_other (h : opcodeOf w ≠ 0x38) {k : Nat} (hk : k ≠ c.b) : (s.issued c w).bead k = s.bead k := by
  unfold State.issued
  rw [updBead_bead, if_neg hk, (kept_traceCmd ..).bead_eq (by decide), decoded_eq_taken h, taken_bead_other _ _ _ hk]

end

/-! ## TDSET -/

/-- A bead that has noted what a command may write. -/
def Bead.noted (x : Bead) (w : CmdWord) : Bead := { x with wrote := (x.wrote ++ writesOf x w).eraseDups }

/-- The bead after TDSET has copied its 128 bytes. -/
def Bead.tdset (x : Bead) (w : CmdWord) : Bead := (x.noted w).spPut (entryAt (fld w 15 8)) (x.spRead (fld w 38 16) 128)

theorem updBead_congr {s : State} {b : Nat} {f g : Bead → Bead} (h : f (s.bead b) = g (s.bead b)) : s.updBead b f = s.updBead b g := by
  unfold State.updBead
  rw [h]

theorem tdset_eq (s : State) (c : Ctx) (w : CmdWord) : let u := s.updBead c.b (·.noted w)
    u.putSp c.b (entryAt (fld w 15 8)) ((u.bead c.b).spRead (fld w 38 16) 128) = s.updBead c.b (·.tdset w) := by
  dsimp only
  rw [putSp_eq, updBead_updBead, updBead_bead_same]
  exact updBead_congr rfl

theorem effectOf_tdset {s : State} {c : Ctx} {idx : Nat} {w : CmdWord} (hop : opcodeOf w = 0x08)
    (hh : hullCheck c (planOf (s.bead c.b) w).hulls = none) :
    effectOf c idx w { s } = .ok .none { s := s.updBead c.b (·.tdset w) } := by
  unfold effectOf
  change (match hullCheck c (planOf (s.bead c.b) w).hulls with | some f => _ | none => _ : CmdM Pend) { s } = _
  rw [hh, hop, ← tdset_eq]
  rfl

/-- What the copy leaves in the bead. -/
theorem Bead.tdset_spec (x : Bead) (w : CmdWord) : let y := x.tdset w; let e := entryAt (fld w 15 8)
    y.sp.readN e 128 = x.sp.readN (fld w 38 16) 128 ∧ (∀ i, i < e ∨ e + 128 ≤ i → y.sp.read i = x.sp.read i) ∧
    (∀ k, k < 4 → y.spBad (e + 32 * k) 32 = x.spBad (fld w 38 16 + 32 * k) 32) ∧ y.acc = x.acc := by
  have haligned : entryAt (fld w 15 8) % 32 = 0 := by
    unfold entryAt
    omega
  have hlen := x.length_spRead (fld w 38 16) 128
  have hread := (x.noted w).spPut_readN (entryAt (fld w 15 8)) (x.spRead (fld w 38 16) 128)
  rw [hlen, Bead.spRead_fst] at hread
  refine ⟨hread, fun i hi => Bead.spPut_read_other _ _ _ (by rwa [hlen]), fun k hk => Bead.spPut_spRead_spBad _ x haligned (by omega), ?_⟩
  unfold Bead.tdset
  rw [Bead.spPut_eq]
  rfl

/-- The state after TDSET: its bead has the copy, and the command in its window. -/
theorem run_tdset {s : State} {c : Ctx} {idx : Nat} {w : CmdWord} (hop : opcodeOf w = 0x08)
    (hh : hullCheck c (planOf (s.bead c.b) w).hulls = none) :
    ∃ l, s.run c idx w = s.updBead c.b (fun x => { x.tdset w with window := l }) := by
  rw [run_work (by rw [hop]; decide) (effectOf_tdset hop hh)]
  refine ⟨putFlight ((s.bead c.b).tdset w).window ((s.bead c.b).ranEntry idx w .none false), ?_⟩
  exact (updBead_updBead s c.b (·.tdset w) _).trans (updBead_congr rfl)

/-! ## The statement -/

/-- Settles O25: the command's effect is one write of what it has read, with its poison. -/
theorem tdsetCopiesDescriptor : Obligations.TdsetCopiesDescriptor := by
  unfold Obligations.TdsetCopiesDescriptor
  intro b w s c hop hrun hd hl hw hh hgo
  obtain ⟨b, hb⟩ := b
  obtain rfl : c.b = b := ctx?_b hd.ctx
  have hmem : opcodeOf w ∈ workOps := by
    rw [hop]
    decide
  have hno : opcodeOf w ≠ 0x38 := by omega
  have hexec : exec (.tdset ⟨c.b, hb⟩ w) s = .next (s.beadCmd (opcodeOf w) c.b w) := by
    rw [hop]
    exact unlessDown_of_running hrun _
  obtain ⟨l, hrun⟩ := run_tdset (idx := (s.bead c.b).next) hop hh
  have k : Kept 0x20000020 s ((s.issued c w).updBead c.b (fun x => { x.tdset w with window := l })) :=
    .of (kept_updBead _ _ _ fun x h => Bead.wf_spPut _ _ h) (kept_issued_of hno)
  rw [hexec, beadCmd_work hmem hd hl hw (needsPrescan_work hmem (by omega) (by omega)), if_neg (Bool.eq_false_iff.1 hgo), hrun,
    resumeMt_nil ((k.mtWait_eq (by decide)).trans hd.alone)]
  refine ⟨_, rfl, k.sameBut _ (by intro p; cases p <;> decide), ?_⟩
  rw [updBead_bead_same, issued_bead]
  obtain ⟨hcopy, hrest, hpoison, hacc⟩ := Bead.tdset_spec { s.bead c.b with next := (s.bead c.b).next + 1, held := none } w
  unfold Bead.spBad at hpoison ⊢
  exact ⟨hcopy, hrest, hpoison, hacc, fun j hj => by rw [updBead_bead, if_neg hj, issued_bead_other hno hj]⟩

end Sys2Proof.Machine
end

section
/-! PROOF. Commands that the command processor completes at once (R386, R390), and O26. -/

namespace Sys2Proof.Machine

/-! ## Steps that change one bead and the traces -/

/-- `t` is `s` with `x` as its bead `b`, and with entries in the traces. -/
structure BeadTurns (s : State) (b : Nat) (x : Bead) (t : State) : Prop where
  kept : Kept 0x20000020 s t
  bead : t.bead b = x
  others : ∀ k, k ≠ b → t.bead k = s.bead k

namespace BeadTurns
variable {s t : State} {b : Nat} {x : Bead}

theorem refl (s : State) (b : Nat) : BeadTurns s b (s.bead b) s := ⟨.refl _ s, rfl, fun _ _ => rfl⟩

theorem trans {u : State} {y : Bead} (h : BeadTurns s b x t) (g : BeadTurns t b y u) : BeadTurns s b y u :=
  ⟨h.kept.trans g.kept, g.bead, fun k hk => (g.others k hk).trans (h.others k hk)⟩

theorem trace (h : BeadTurns s b x t) (d idx op event status : Nat) : BeadTurns s b x (t.traceCmd d idx op event status) := by
  have k := kept_traceCmd t d idx op event status
  exact ⟨.of k h.kept, (k.bead_eq (by decide) b).trans h.bead, fun j hj => (k.bead_eq (by decide) j).trans (h.others j hj)⟩

theorem upd (h : BeadTurns s b x t) (f : Bead → Bead) (hf : ∀ x : Bead, x.sp.wf = true → (f x).sp.wf = true := by exact fun _ h => h) :
    BeadTurns s b (f x) (t.updBead b f) :=
  ⟨.of (kept_updBead t b f hf) h.kept, by rw [updBead_bead_same, h.bead], fun j hj => by rw [updBead_bead, if_neg hj, h.others j hj]⟩

theorem hold {c : Ctx} (h : BeadTurns s c.b x t) (idx : Nat) (w : CmdWord) (stage : HoldStage) :
    BeadTurns s c.b { x with held := some { idx, word := w, stage, since := s.frm.count } } (t.hold c idx w stage) := by
  rw [← h.kept.frm_eq (by decide)]
  exact h.upd (fun x => { x with held := some { idx, word := w, stage, since := t.frm.count } })

theorem enter {c : Ctx} (h : BeadTurns s c.b x t) (f : InFlight) : BeadTurns s c.b { x with window := putFlight x.window f } (t.enter c f) :=
  h.upd (fun x => { x with window := putFlight x.window f })

theorem sameBut (h : BeadTurns s b x t) : SameBut [.beads, .ras] s t := h.kept.sameBut _ (by intro p; cases p <;> decide)

theorem mtWait (h : BeadTurns s b x t) : t.mtWait = s.mtWait := h.kept.mtWait_eq (by decide)

theorem resumeMt (h : BeadTurns s b x t) (hnone : s.mtWait = []) : t.resumeMt = t := resumeMt_nil (h.mtWait.trans hnone)

theorem unitSt (h : BeadTurns s b x t) (v : Nat) : t.unitSt v = s.unitSt v := h.kept.unitSt_eq (by decide) v

end BeadTurns

section Instant
variable {s : State} {c : Ctx} {w : CmdWord} {idx : Nat}

/-- Decode of any command but an MTPUSH. -/
theorem decoded_turns (h : opcodeOf w ≠ 0x38) : BeadTurns s c.b { s.bead c.b with next := (s.bead c.b).next + 1 } (s.decoded c w) := by
  rw [decoded_eq_taken h]
  exact ((BeadTurns.refl s c.b).trace ..).upd (fun x => { x with next := (s.bead c.b).next + 1 })

/-! ## Issue of a command that completes at once -/

/-- A command issues: its trace, and nothing is held. -/
def State.issuing (s : State) (c : Ctx) (idx : Nat) (w : CmdWord) : State :=
  (s.traceCmd c.b idx (opcodeOf w) 1 0).updBead c.b (fun x => { x with held := none })

theorem issuing_turns (s : State) (c : Ctx) (idx : Nat) (w : CmdWord) : BeadTurns s c.b { s.bead c.b with held := none } (s.issuing c idx w) :=
  ((BeadTurns.refl s c.b).trace ..).upd (fun x => { x with held := none })

theorem issue_instant (h : opcodeOf w ∈ instantOps) : s.issue c idx w =
    if (s.issuing c idx w).signalWaits c { idx, word := w } then (s.issuing c idx w).enter c { idx, word := w, pend := .signal }
    else (s.issuing c idx w).finish c { idx, word := w } := by
  have hcontains : instantOps.contains (opcodeOf w) = true := by simpa using h
  unfold State.issue
  rw [hcontains]
  rfl

/-- Does a completing command signal a clasp (R394, R406)? -/
def CmdSignals (w : CmdWord) : Prop := sigEn w = true ∨ opcodeOf w = 0x40 ∧ fld w 9 8 = 0

theorem signalWaits_quiet {f : InFlight} (h : ¬ CmdSignals f.word) : s.signalWaits c f = false := by
  unfold CmdSignals at h
  unfold State.signalWaits
  simp only [not_or, Bool.not_eq_true] at h
  simp [h.1]
  exact fun e z => absurd ⟨e, z⟩ h.2

theorem signalWaits_iff {f : InFlight} (h : CmdSignals f.word) :
    s.signalWaits c f = true ↔ ∃ g, g ∈ (s.bead c.b).window ∧ g.idx < f.idx ∧ s.writesDue c g = true := by
  have : (sigEn f.word || (opcodeOf f.word == 0x40 && fld f.word 9 8 == 0)) = true := by simpa [CmdSignals] using h
  unfold State.signalWaits
  rw [this]
  simp [List.any_eq_true]

/-! ## Completion, by what the command signals (R389, R394) -/

/-- A command's status, counted in its slice. -/
def State.counted (s : State) (c : Ctx) (f : InFlight) : State :=
  let s := s.traceCmd c.b f.idx (opcodeOf f.word) 2 f.status
  if f.status = 0 then s
  else s.updSlice c.uid (fun sl =>
    { sl with
      warnStatus := if sl.warnCount = 0 then f.status else sl.warnStatus
      warnRank := if sl.warnCount = 0 then c.rank else sl.warnRank
      warnCount := sl.warnCount + 1
      poisonSeen := sl.poisonSeen || f.status == St.poison })

theorem counted_ok {f : InFlight} (h : f.status = 0) : s.counted c f = s.traceCmd c.b f.idx (opcodeOf f.word) 2 f.status := if_pos h

theorem finish_eq (s : State) (c : Ctx) (f : InFlight) : s.finish c f =
    let t := s.counted c f
    let t := if opcodeOf f.word = 0x40 ∧ fld f.word 9 8 = 0 then t.beadSignal c f.idx (fld f.word 31 16) (fld f.word 63 32) else t
    let t := if sigEn f.word = true then t.beadSignal c f.idx (sigId f.word) (sigN f.word) else t
    if opcodeOf f.word = 0x01 then t.leafEnd c else t := rfl

theorem finish_quiet {f : InFlight} (hsig : ¬ CmdSignals f.word) (hend : opcodeOf f.word ≠ 0x01) : s.finish c f = s.counted c f := by
  obtain ⟨hword, hclasp⟩ := not_or.1 hsig
  simp [finish_eq, hword, hclasp, hend]

theorem finish_end {f : InFlight} (hsig : sigEn f.word = false) (hend : opcodeOf f.word = 0x01) : s.finish c f = (s.counted c f).leafEnd c := by
  simp [finish_eq, hsig, hend]

/-- The signal of CLASP. -/
theorem finish_clasp {f : InFlight} (hsig : sigEn f.word = false) (hop : opcodeOf f.word = 0x40) (hkind : fld f.word 9 8 = 0) :
    s.finish c f = (s.counted c f).beadSignal c f.idx (fld f.word 31 16) (fld f.word 63 32) := by
  simp [finish_eq, hsig, hop, hkind]

/-- The signal of the clasp word. -/
theorem finish_word {f : InFlight} (hsig : sigEn f.word = true) (hop : opcodeOf f.word ≠ 0x40) (hend : opcodeOf f.word ≠ 0x01) :
    s.finish c f = (s.counted c f).beadSignal c f.idx (sigId f.word) (sigN f.word) := by
  simp [finish_eq, hsig, hop, hend]

theorem issue_quiet (hop : opcodeOf w ∈ instantOps) (hsig : ¬ CmdSignals w) (hend : opcodeOf w ≠ 0x01) :
    BeadTurns s c.b { s.bead c.b with held := none } (s.issue c idx w) := by
  let f : InFlight := { idx, word := w }
  rw [issue_instant hop, signalWaits_quiet (f := f) hsig, if_neg Bool.false_ne_true, finish_quiet (f := f) hsig hend, counted_ok (f := f) rfl]
  exact (issuing_turns ..).trace ..

/-! ## NOP, FENCE and END -/

theorem atFence_waits (hop : opcodeOf w = 0x01 ∨ opcodeOf w = 0x02) (hwin : (s.bead c.b).window ≠ []) : s.atFence c idx w = s.hold c idx w .fence :=
  if_pos ⟨hop, hwin⟩

theorem atFence_drained (hwin : (s.bead c.b).window = []) : s.atFence c idx w = s.atClasp c idx w := if_neg fun h => h.2 hwin

/-- Where nothing waits for the merge tree, these need nothing more. -/
theorem atClasp_issues (hop : opcodeOf w ∈ [0x00, 0x01, 0x02]) (hnone : s.mtWait = []) : s.atClasp c idx w = s.issue c idx w := by
  have hother : opcodeOf w ∉ [0x20, 0x22, 0x23] ∧ opcodeOf w ∉ [0x38, 0x23, 0x2B] ∧ opcodeOf w ≠ 0x40 :=
    (by decide : ∀ op ∈ [0x00, 0x01, 0x02], op ∉ [0x20, 0x22, 0x23] ∧ op ∉ [0x38, 0x23, 0x2B] ∧ op ≠ 0x40) _ hop
  rw [atClasp_other hother.2.2, atPrescan_none (needsPrescan_other hother.1), atTree_issues (hasLeaves_other hother.2.1) hnone]

theorem not_cmdSignals (hsig : sigEn w = false) (h : opcodeOf w ≠ 0x40 ∨ fld w 9 8 ≠ 0) : ¬ CmdSignals w := by
  rintro (e | ⟨hop, hkind⟩)
  · exact absurd (hsig.symm.trans e) Bool.false_ne_true
  · exact h.elim (· hop) (· hkind)

/-- What issues NOP or FENCE. -/
theorem atClasp_quiet (hop : opcodeOf w ∈ [0x00, 0x02]) (hsig : ¬ CmdSignals w) (hnone : s.mtWait = []) :
    BeadTurns s c.b { s.bead c.b with held := none } (s.atClasp c idx w) := by
  have hops := (by decide : ∀ op ∈ [0x00, 0x02], op ∈ [0x00, 0x01, 0x02] ∧ op ∈ instantOps ∧ op ≠ 0x01) _ hop
  rw [atClasp_issues hops.1 hnone]
  exact issue_quiet hops.2.1 hsig hops.2.2

/-- END comes to the end of its leaf. -/
theorem issue_end (hop : opcodeOf w = 0x01) (hsig : sigEn w = false) :
    ∃ v, BeadTurns s c.b { s.bead c.b with held := none } v ∧ s.issue c idx w = v.leafEnd c := by
  let f : InFlight := { idx, word := w }
  have hno : opcodeOf w ≠ 0x40 := by omega
  rw [issue_instant (by rw [hop]; decide), signalWaits_quiet (f := f) (not_cmdSignals hsig (.inl hno)), if_neg Bool.false_ne_true,
    finish_end (f := f) hsig hop, counted_ok (f := f) rfl]
  exact ⟨_, (issuing_turns ..).trace .., rfl⟩

end Instant

/-! ## The end of a leaf -/

theorem updSlice_slice (s : State) (u : Nat) (f : Slice → Slice) : ((s.updSlice u f).unitSt u).slice = (s.unitSt u).slice.map f := by
  unfold State.updSlice
  rw [updUnit_unitSt, if_pos rfl]

/-- A leaf has executed END, before the slice looks at its other leaves. -/
def State.leafEnded (s : State) (c : Ctx) : State :=
  let cycles := (s.now - (s.bead c.b).startedAt) * s.pwr.clk / 1000000
  (s.updBead c.b (fun x => { x with phase := .ended, endedAt := s.now })).updSlice c.uid
    (fun sl => { sl with endedRanks := sIns c.rank sl.endedRanks, maxCycles := max sl.maxCycles cycles })

theorem kept_leafEnded (s : State) (c : Ctx) : Kept 0x60 s (s.leafEnded c) := .of (kept_updSlice ..) (.of (kept_updBead ..) (.refl _ s))

theorem leafEnded_bead (s : State) (c : Ctx) : (s.leafEnded c).bead c.b = { s.bead c.b with phase := .ended, endedAt := s.now } :=
  ((kept_updSlice ..).bead_eq (by decide) c.b).trans (updBead_bead_same ..)

theorem leafEnded_slice {s : State} {c : Ctx} {sl : Slice} (hs : (s.unitSt c.uid).slice = some sl) :
    ∃ n, ((s.leafEnded c).unitSt c.uid).slice = some { sl with endedRanks := sIns c.rank sl.endedRanks, maxCycles := n } := by
  unfold State.leafEnded
  dsimp only
  rw [updSlice_slice, (kept_updBead ..).unitSt_eq (by decide), hs]
  exact ⟨_, rfl⟩

/-- In a native unit without a federation the last leaf's END begins the commit (R38, R390). -/
theorem leafEnd_native {s : State} {c : Ctx} {sl : Slice} (hs : ((s.leafEnded c).unitSt c.uid).slice = some sl) (h1 : c.s1 = false)
    (hfed : s.set.cur.fedOf c.uid = none) : s.leafEnd c =
      if sl.endedRanks.length < sl.beads.length then s.leafEnded c
      else (s.leafEnded c).updSlice c.uid (fun sl => { sl with phase := .committing, endAt := s.now }) := by
  have hfed' : ((s.leafEnded c).set.cur.fedOf c.uid).isSome = false := by
    rw [(kept_leafEnded s c).set_eq (by decide), hfed]
    rfl
  unfold State.leafEnd
  change (match ((s.leafEnded c).unitSt c.uid).slice with | none => _ | some sl => _) = _
  rw [hs]
  dsimp only
  rw [if_neg (c := c.s1 = true) (Bool.eq_false_iff.1 h1)]
  split
  · rfl
  · exact if_neg (Bool.eq_false_iff.1 hfed')

/-- What END leaves of the leaf and its slice. -/
theorem leafEnd_spec {s : State} {c : Ctx} {sl : Slice} (hs : (s.unitSt c.uid).slice = some sl) (h1 : c.s1 = false)
    (hfed : s.set.cur.fedOf c.uid = none) : let t := s.leafEnd c; let ranks := sIns c.rank sl.endedRanks
    ∃ sl', Kept 0x60 s t ∧ t.bead c.b = { s.bead c.b with phase := .ended, endedAt := s.now } ∧ (t.unitSt c.uid).slice = some sl' ∧
      sl'.endedRanks = ranks ∧ (ranks.length < sl.beads.length → sl'.phase = sl.phase) ∧
      (sl.beads.length ≤ ranks.length → sl'.phase = .committing ∧ sl'.endAt = s.now) := by
  obtain ⟨n, hn⟩ := leafEnded_slice hs
  dsimp only
  rw [leafEnd_native hn h1 hfed]
  dsimp only
  split
  · rename_i hlt
    exact ⟨_, kept_leafEnded s c, leafEnded_bead s c, hn, rfl, fun _ => rfl, fun h => absurd h (by omega)⟩
  · rename_i hge
    refine ⟨{ sl with endedRanks := sIns c.rank sl.endedRanks, maxCycles := n, phase := .committing, endAt := s.now },
      .of (kept_updSlice ..) (kept_leafEnded s c), ((kept_updSlice ..).bead_eq (by decide) c.b).trans (leafEnded_bead s c), ?_, ?_⟩
    · rw [updSlice_slice, hn]
      rfl
    · exact ⟨rfl, fun h => absurd h hge, fun _ => ⟨rfl, rfl⟩⟩

/-! ## A later moment (R5) -/

section Later
variable {s : State} {b : Nat} {c : Ctx} {w : CmdWord}

theorem Decodes.at (h : Decodes s b w c) (m : Nat) : Decodes (s.at m) b w c := ⟨h.ctx, h.ready, h.alone⟩

/-- Checks 1 to 6 look at the bead and the setting, but for an MTPUSH. -/
theorem checkBad_congr {t : State} (hb : t.bead c.b = s.bead c.b) (hset : t.set = s.set) (hop : opcodeOf w ≠ 0x38) :
    checkBad t c w = checkBad s c w := by
  unfold checkBad
  rw [hb, hset]
  simp [hop]

theorem Legal.at (h : Legal s w c) (hop : opcodeOf w ≠ 0x38) (m : Nat) : Legal (s.at m) w c := by
  obtain ⟨hdecode, hchecks⟩ := h
  have hb : ((s.at m).taken c w).bead c.b = (s.taken c w).bead c.b := by
    rw [taken_bead, taken_bead]
    rfl
  have hu : ((s.at m).taken c w).unitSt c.uid = (s.taken c w).unitSt c.uid := by
    rw [(kept_taken ..).unitSt_eq (by decide), (kept_taken ..).unitSt_eq (by decide)]
    rfl
  have hset : ((s.at m).taken c w).set = (s.taken c w).set := by
    rw [(kept_taken ..).set_eq (by decide), (kept_taken ..).set_eq (by decide)]
    rfl
  exact ⟨by rw [hb, hu]; exact hdecode, (checkBad_congr hb hset hop).trans hchecks⟩

/-- A legal command whose wait is met comes to the window's order. -/
theorem beadCmd_atFence (hd : Decodes s b w c) (hl : Legal s w c) (hw : s.waitMet w) :
    s.beadCmd (opcodeOf w) b w = ((s.decoded c w).atFence c (s.bead c.b).next w).resumeMt := by
  have hmet : (s.decoded c w).waitMet w := by
    unfold State.waitMet
    rwa [(kept_decoded s c w).clasp_eq (by decide)]
  rw [beadCmd_decodes hd rfl, ← ctx?_b hd.ctx, decodeCmd_legal hl, atWait_met hmet]

end Later

/-! ## The statement -/

section Rows
variable {s : State} {c : Ctx} {w : CmdWord}

/-- NOP and FENCE that need not wait only move the index. -/
theorem beadCmd_quiet (hd : Decodes s c.b w c) (hl : Legal s w c) (hw : s.waitMet w) (hsig : sigEn w = false)
    (hop : opcodeOf w = 0x00 ∨ opcodeOf w = 0x02 ∧ (s.bead c.b).window = []) :
    BeadTurns s c.b { s.bead c.b with next := (s.bead c.b).next + 1, held := none } (s.beadCmd (opcodeOf w) c.b w) := by
  have hmem : opcodeOf w ∈ [0x00, 0x02] := by
    obtain hop | ⟨hop, -⟩ := hop <;> simp [hop]
  have hno : opcodeOf w ≠ 0x38 ∧ opcodeOf w ≠ 0x40 := (by decide : ∀ op ∈ [0x00, 0x02], op ≠ 0x38 ∧ op ≠ 0x40) _ hmem
  have hdec := decoded_turns (s := s) (c := c) hno.1
  have hfence : (s.decoded c w).atFence c (s.bead c.b).next w = (s.decoded c w).atClasp c (s.bead c.b).next w := by
    obtain hop | ⟨-, hwin⟩ := hop
    · exact atFence_other (by omega) (by omega)
    · exact atFence_drained (by rw [hdec.bead, hwin])
  have hdone := hdec.trans (atClasp_quiet (idx := (s.bead c.b).next) hmem (not_cmdSignals hsig (.inl hno.2)) (hdec.mtWait.trans hd.alone))
  rw [hdec.bead] at hdone
  rw [beadCmd_atFence hd hl hw, hfence, hdone.resumeMt hd.alone]
  exact hdone

/-- A FENCE with commands in the window is held. -/
theorem beadCmd_fenced (hd : Decodes s c.b w c) (hl : Legal s w c) (hw : s.waitMet w) (hop : opcodeOf w = 0x02) (hwin : (s.bead c.b).window ≠ []) :
    BeadTurns s c.b { s.bead c.b with
      next := (s.bead c.b).next + 1, held := some { idx := (s.bead c.b).next, word := w, stage := .fence, since := s.frm.count } }
      (s.beadCmd (opcodeOf w) c.b w) := by
  have hdec := decoded_turns (s := s) (c := c) (w := w) (by omega)
  have hheld := hdec.hold (s.bead c.b).next w .fence
  rw [beadCmd_atFence hd hl hw, atFence_waits (.inr hop) (by rw [hdec.bead]; exact hwin), hheld.resumeMt hd.alone]
  exact hheld

/-- END with an empty window comes to the end of its leaf. -/
theorem beadCmd_end (hd : Decodes s c.b w c) (hl : Legal s w c) (hw : s.waitMet w) (hsig : sigEn w = false) (hop : opcodeOf w = 0x01)
    (hwin : (s.bead c.b).window = []) : ∃ v,
      BeadTurns s c.b { s.bead c.b with next := (s.bead c.b).next + 1, held := none } v ∧ s.beadCmd (opcodeOf w) c.b w = (v.leafEnd c).resumeMt := by
  have hdec := decoded_turns (s := s) (c := c) (w := w) (by omega)
  obtain ⟨v, hv, hissue⟩ := issue_end (s := s.decoded c w) (c := c) (idx := (s.bead c.b).next) hop hsig
  refine ⟨v, ?_, ?_⟩
  · have h := hdec.trans hv
    rwa [hdec.bead] at h
  · rw [beadCmd_atFence hd hl hw, atFence_drained (by rw [hdec.bead]; exact hwin),
      atClasp_issues (by rw [hop]; decide) (hdec.mtWait.trans hd.alone), hissue]

end Rows

/-- Settles O26: without a signal the command only moves the index, or waits for the window; END goes on to the end of its leaf. -/
theorem instantRowsComplete : Obligations.InstantRowsComplete := by
  unfold Obligations.InstantRowsComplete
  intro b w s c sl m hrun hd hl hw hsig hs next gone
  obtain ⟨b, hb⟩ := b
  obtain rfl : c.b = b := ctx?_b hd.ctx
  refine ⟨fun hop => ?nop, fun hop hwin => ?fence, fun hop hwin => ?fenced, fun hop hwin h1 hfed => ?last⟩
  case nop =>
    have h := beadCmd_quiet hd hl hw hsig (.inl hop)
    rw [hop] at h
    exact ⟨_, unlessDown_of_running hrun _, ⟨h.sameBut, by rw [h.bead], h.others⟩, h.bead⟩
  case fence =>
    have h := beadCmd_quiet hd hl hw hsig (.inr ⟨hop, hwin⟩)
    rw [hop] at h
    exact ⟨_, unlessDown_of_running hrun _, ⟨h.sameBut, by rw [h.bead], h.others⟩, h.bead⟩
  case fenced =>
    have h := beadCmd_fenced hd hl hw hop hwin
    rw [hop] at h
    exact ⟨_, unlessDown_of_running hrun _, ⟨h.sameBut, by rw [h.bead], h.others⟩, h.bead⟩
  case last =>
    obtain ⟨v, hv, hcmd⟩ := beadCmd_end (hd.at m) (hl.at (by omega) m) hw hsig hop hwin
    have hnow : v.now = max s.now m := hv.kept.now_eq (by decide)
    obtain ⟨sl', k, hbead, hslice, hranks, hmore, hlast⟩ := leafEnd_spec (s := v) (sl := sl) ((congrArg _ (hv.unitSt c.uid)).trans hs) h1
      (by rw [hv.kept.set_eq (by decide)]; exact hfed)
    have kt : Kept 0x20000061 s (v.leafEnd c) := .of k (.of hv.kept (.of (kept_at s m) (.refl _ s)))
    rw [hop, resumeMt_nil ((kt.mtWait_eq (by decide)).trans hd.alone)] at hcmd
    have hexec : exec (.endChain ⟨c.b, hb⟩ w m) s = .next ((s.at m).beadCmd 0x01 c.b w) := unlessDown_of_running hrun _
    rw [hexec, hcmd]
    refine ⟨_, sl', rfl, kt.sameBut _ (by intro p; cases p <;> decide), by rw [hbead], by rw [hbead, hnow], hslice, hranks, hmore, fun h => ?_⟩
    rw [← hnow]
    exact hlast h

end Sys2Proof.Machine
end

section
/-! PROOF. What a command signals (R394), the waits of a bead (R393), and O27: the CLASP command (R406). -/

namespace Sys2Proof.Machine

section Signals
variable {s v : State} {c : Ctx} {w : CmdWord} {idx : Nat} {x : Bead}

/-! ## Signals -/

/-- A signal of a clasp that the slice declares as outgoing is held. -/
theorem beadSignal_held {sl : Slice} (hs : (s.unitSt c.uid).slice = some sl) (h1 : c.s1 = false) {id : Nat} (hout : id ∈ sl.header.outClasps)
    (n : Nat) : s.beadSignal c idx id n =
      s.updSlice c.uid (fun sl => { sl with heldSignals := sl.heldSignals ++ [{ rank := c.rank, idx, clasp := id, n }] }) := by
  unfold State.beadSignal
  rw [hs, h1]
  exact if_pos (by simpa using hout)

/-- Any other is made at once. -/
theorem beadSignal_now {id : Nat} (h : c.signals s id) (n : Nat) : s.beadSignal c idx id n = s.opSignal id n := by
  unfold State.beadSignal
  refine if_neg ?_
  obtain h1 | hout := h
  · simp [h1]
  · simp [hout]

/-! ## Accesses still to come -/

/-- They come from the collectives and the merges. -/
theorem pendDone_congr {t : State} (hc : t.colls = s.colls) (hm : t.merges = s.merges) (c : Ctx) (f : InFlight) :
    t.pendDone c f = s.pendDone c f := by
  unfold State.pendDone State.collIx State.coll
  rw [hc, hm]

theorem writesDue_congr {t : State} (hc : t.colls = s.colls) (hm : t.merges = s.merges) (c : Ctx) (f : InFlight) :
    t.writesDue c f = s.writesDue c f := by
  unfold State.writesDue
  rw [pendDone_congr hc hm]

namespace BeadTurns

theorem writesDue {b : Nat} (h : BeadTurns s b x v) (c : Ctx) (f : InFlight) : v.writesDue c f = s.writesDue c f :=
  writesDue_congr (h.kept.colls_eq (by decide)) (h.kept.merges_eq (by decide)) c f

theorem clasp {b : Nat} (h : BeadTurns s b x v) (id : Nat) : v.clasp id = s.clasp id := h.kept.clasp_eq (by decide) id

/-- A step that leaves the bead's window as it was leaves what is due. -/
theorem signalWaits (h : BeadTurns s c.b x v) (hwin : x.window = (s.bead c.b).window) (f : InFlight) : v.signalWaits c f = s.signalWaits c f := by
  unfold State.signalWaits
  rw [h.bead, hwin]
  simp only [h.writesDue]

theorem signals (h : BeadTurns s c.b x v) {id : Nat} (hs : c.signals s id) : c.signals v id := by
  unfold Ctx.signals
  rw [h.unitSt]
  exact hs

/-- The bead's wait is posted last on a clasp, and its command held. -/
theorem wait (h : BeadTurns s c.b x v) {id target : Nat} (herr : (s.clasp id).err = false) (hlt : (s.clasp id).counter < target) (idx : Nat)
    (w : CmdWord) (stage : HoldStage) : let t := (v.postWait (.bead c.b) id target).hold c idx w stage
    Kept 0x20000820 s t ∧ t.bead c.b = { x with held := some { idx, word := w, stage, since := s.frm.count } } ∧
    t.clasps = mput s.clasps id { s.clasp id with waits := (s.clasp id).waits ++ [{ who := .bead c.b, target }] } := by
  have hk := h.clasp id
  rw [postWait_pending _ (by rw [hk, herr]) (by rw [hk]; exact hlt), hk]
  have k : Kept 0x20000820 s { v with
      clasps := mput v.clasps id { s.clasp id with waits := (s.clasp id).waits ++ [{ who := .bead c.b, target }] } } := .mk (h.kept.mono (by decide))
  refine ⟨.of (kept_hold ..) k, ?_, ?_⟩
  · rw [hold_bead, k.frm_eq (by decide)]
    exact congrArg (fun y : Bead => { y with held := some { idx, word := w, stage, since := s.frm.count } }) h.bead
  · rw [(kept_hold ..).clasps_eq (by decide), ← h.kept.clasps_eq (by decide)]

end BeadTurns

/-! ## The CLASP command -/

theorem atClasp_signal (hop : opcodeOf w = 0x40) (hkind : fld w 9 8 = 0) : s.atClasp c idx w = s.issue c idx w := by
  unfold State.atClasp
  simp [hop, hkind]

theorem atClasp_wait_met (hop : opcodeOf w = 0x40) (hkind : fld w 9 8 = 1) (herr : (s.clasp (fld w 31 16)).err = false)
    (hle : fld w 63 32 ≤ (s.clasp (fld w 31 16)).counter) : s.atClasp c idx w = s.issue c idx w := by
  unfold State.atClasp
  simp [hop, hkind, herr, hle]

theorem atClasp_wait_holds (hop : opcodeOf w = 0x40) (hkind : fld w 9 8 = 1) (herr : (s.clasp (fld w 31 16)).err = false)
    (hlt : (s.clasp (fld w 31 16)).counter < fld w 63 32) :
    s.atClasp c idx w = ((s.traceCmd c.b idx 0x40 4 0).postWait (.bead c.b) (fld w 31 16) (fld w 63 32)).hold c idx w .claspOp := by
  unfold State.atClasp
  simp [hop, hkind, herr, hlt]

/-- Decode of a legal CLASP whose wait half is met. -/
theorem beadCmd_clasp (hop : opcodeOf w = 0x40) (hd : Decodes s c.b w c) (hl : Legal s w c) (hw : s.waitMet w) :
    s.beadCmd 0x40 c.b w = ((s.decoded c w).atClasp c (s.bead c.b).next w).resumeMt := by
  rw [← hop, beadCmd_atFence hd hl hw, atFence_other (by omega) (by omega)]

/-- A SIGNAL at its issue: it waits for earlier writes, or it is made. -/
theorem issue_signal (hop : opcodeOf w = 0x40) (hkind : fld w 9 8 = 0) (hsig : sigEn w = false) :
    ((∃ g, g ∈ (s.bead c.b).window ∧ g.idx < idx ∧ s.writesDue c g = true) → BeadTurns s c.b
      { s.bead c.b with held := none, window := putFlight (s.bead c.b).window { idx, word := w, pend := .signal } } (s.issue c idx w)) ∧
    (¬ (∃ g, g ∈ (s.bead c.b).window ∧ g.idx < idx ∧ s.writesDue c g = true) → ∃ v,
      BeadTurns s c.b { s.bead c.b with held := none } v ∧ s.issue c idx w = v.beadSignal c idx (fld w 31 16) (fld w 63 32)) := by
  let f : InFlight := { idx, word := w }
  have hsignals : CmdSignals f.word := .inr ⟨hop, hkind⟩
  have hturn := issuing_turns s c idx w
  have hwaits : (s.issuing c idx w).signalWaits c f = s.signalWaits c f := hturn.signalWaits rfl f
  rw [issue_instant (by rw [hop]; decide)]
  refine ⟨fun hdue => ?_, fun hnot => ?_⟩
  · rw [if_pos (hwaits.trans ((signalWaits_iff hsignals).2 hdue))]
    exact hturn.enter _
  · rw [if_neg (by rw [hwaits, signalWaits_iff hsignals]; exact hnot), finish_clasp (f := f) hsig hop hkind, counted_ok (f := f) rfl]
    exact ⟨_, hturn.trace .., rfl⟩

end Signals

/-! ## The statement -/

/-- Settles O27: WAIT completes or is posted; SIGNAL waits for the writes that are due, or is held or made by what the slice declares. -/
theorem claspRowActs : Obligations.ClaspRowActs := by
  unfold Obligations.ClaspRowActs
  intro b w s c sl hop hrun hst hd hl hw hsig hs id v moved due
  obtain ⟨b, hb⟩ := b
  obtain rfl : c.b = b := ctx?_b hd.ctx
  have hdec := decoded_turns (s := s) (c := c) (w := w) (by omega)
  have hexec : exec (.clasp ⟨c.b, hb⟩ w) s = .next ((s.decoded c w).atClasp c (s.bead c.b).next w).resumeMt :=
    (unlessDown_of_running hrun _).trans (congrArg _ (beadCmd_clasp hop hd hl hw))
  have hk : (s.decoded c w).clasp id = s.clasp id := hdec.clasp id
  have hdue : (∃ g, g ∈ ((s.decoded c w).bead c.b).window ∧ g.idx < (s.bead c.b).next ∧ (s.decoded c w).writesDue c g = true) ↔ due := by
    rw [hdec.bead]
    simp only [hdec.writesDue]
    rfl
  rw [hexec]
  refine ⟨fun hkind herr hle => ?met, fun hkind herr hlt => ?holds, fun hkind hwait => ?due, fun hkind hgo h1 hout => ?held, fun hkind hgo hnow => ?now⟩
  case met =>
    have h := hdec.trans (issue_quiet (idx := (s.bead c.b).next) (by rw [hop]; decide) (not_cmdSignals hsig (.inr (by omega))) (by omega))
    rw [hdec.bead] at h
    rw [atClasp_wait_met hop hkind (by rw [hk, herr]) (by rw [hk]; exact hle), h.resumeMt hd.alone]
    exact ⟨_, rfl, h.sameBut, h.bead⟩
  case holds =>
    obtain ⟨k, hbead, hclasps⟩ := (hdec.trace c.b (s.bead c.b).next 0x40 4 0).wait herr hlt (s.bead c.b).next w .claspOp
    rw [atClasp_wait_holds hop hkind (by rw [hk, herr]) (by rw [hk]; exact hlt), resumeMt_nil ((k.mtWait_eq (by decide)).trans hd.alone)]
    exact ⟨_, rfl, k.sameBut _ (by intro p; cases p <;> decide), hclasps, by rw [hbead]⟩
  all_goals rw [atClasp_signal hop hkind]
  case due =>
    have h := hdec.trans ((issue_signal hop hkind hsig).1 (hdue.2 hwait))
    rw [hdec.bead] at h
    rw [h.resumeMt hd.alone]
    exact ⟨_, rfl, h.sameBut, h.bead⟩
  all_goals
    obtain ⟨u, hu, hissue⟩ := (issue_signal hop hkind hsig).2 (mt hdue.1 hgo)
    rw [hissue]
    replace hu := hdec.trans hu
    rw [hdec.bead] at hu
  case held =>
    have hslice : (u.unitSt c.uid).slice = some sl := (congrArg _ (hu.unitSt c.uid)).trans hs
    have k : Kept 0x20000060 s (u.updSlice c.uid (fun sl => { sl with
        heldSignals := sl.heldSignals ++ [{ rank := c.rank, idx := (s.bead c.b).next, clasp := id, n := v }] })) :=
      .of (kept_updSlice ..) (hu.kept.mono (by decide))
    rw [beadSignal_held hslice h1 hout, resumeMt_nil ((k.mtWait_eq (by decide)).trans hd.alone)]
    exact ⟨_, _, rfl, k.sameBut _ (by intro p; cases p <;> decide), ((kept_updSlice ..).bead_eq (by decide) _).trans hu.bead,
      by rw [updSlice_slice, hslice]; rfl, rfl⟩
  case now =>
    have htakes := opSignal_takes ((hu.kept.stalledOps_eq (by decide)).trans hst) id v
    have hframe : SameBut (.ras :: claspParts) s (u.opSignal id v) :=
      (hu.sameBut.mono (by intro p; cases p <;> decide)).trans (htakes.frame.mono (by intro p; cases p <;> decide))
    rw [beadSignal_now (hu.signals hnow), resumeMt_nil ((hframe .mtWait (by decide)).trans hd.alone)]
    refine ⟨_, rfl, hframe, by rw [htakes.value.1, hu.clasp], ?_⟩
    rw [htakes.waits, htakes.value.1, htakes.value.2, hu.clasp]

end Sys2Proof.Machine
end

section
/-! PROOF. A failed slice leaves no command waiting for the merge tree, and O28: bad commands fail their slice (R39, R392). -/

namespace Sys2Proof.Machine

/-! ## Nothing waits for the merge tree after a failure -/

section Fail
variable {s : State} (h : s.mtWait = [])
include h

theorem Kept.mtWait_nil {m : Nat} {t : State} (k : Kept m s t) (hb : m.testBit 8 = false := by decide) : t.mtWait = [] := (k.mtWait_eq hb).trans h

theorem stopLeaf_mtWait (b : Nat) : (s.stopLeaf b).mtWait = [] := by
  change sDel b (s.withdrawBead b).mtWait = []
  rw [(kept_withdrawBead s b).mtWait_nil h]
  rfl

theorem stopLeaves_mtWait (bs : List Nat) : (bs.foldl State.stopLeaf s).mtWait = [] :=
  List.foldlRecOn (motive := fun t : State => t.mtWait = []) bs _ h fun _ ht b _ => stopLeaf_mtWait ht b

theorem failSlice_mtWait (uid o : Nat) (d : Option Nat) : (s.failSlice uid o d).mtWait = [] := by
  unfold State.failSlice
  split
  · exact h
  · rename_i sl _
    have hstop := stopLeaves_mtWait ((kept_tellColls s uid sl ((sl.fault.map (·.status)).getD 0)).mtWait_nil h) sl.beads
    refine Kept.mtWait_nil (m := 0x21c0762ee2) hstop ?_
    have hrest (u v : Nat) (t : State) (z : UnitSt → UnitSt) : Kept 0x21c0762ee2 t
        (((((sl.objs.foldl State.dropObj (sl.work.foldl (fun s r => s.memUndef r.1 r.2) t)).discardOpen sl).updUnit u z).fresh.2).writeCompl u sl o v 0 0) :=
      .of (kept_writeCompl ..) (.of (kept_fresh _) (.of (kept_updUnit ..) (.of (kept_discardOpen ..)
        (.foldl (fun s r => (kept_dropObj s r).mono (by decide)) (.foldl (fun s r => (kept_memUndef s r.1 r.2).mono (by decide)) (.refl _ t))))))
    exact .ite (hrest ..) (.foldl (fun t id => (kept_opFail t id).mono (by decide)) (hrest ..))

theorem fedDecide_mtWait (f : FedRec) : (s.fedDecide f).mtWait = [] := by
  unfold State.fedDecide
  dsimp only
  split
  · exact h
  split
  · exact Kept.mtWait_nil (m := 0x2040300042) h (.of (kept_updSlice ..) (.of (kept_tellFed ..) ((kept_updFed ..).mono (by decide))))
  · exact failSlice_mtWait (Kept.mtWait_nil (m := 0x2040300042) h (.of (kept_noteLoose ..) (.of (kept_tellFed ..) ((kept_updFed ..).mono (by decide))))) ..

theorem fedLocal_mtWait (uid status : Nat) : (s.fedLocal uid status).mtWait = [] := by
  unfold State.fedLocal
  split
  · exact h
  split
  · exact fedDecide_mtWait ((kept_reported ..).mtWait_nil h) _
  · exact (kept_tell ..).mtWait_nil h

theorem failLeaf_mtWait (b rank idx uid : Nat) (f : Flt) (o : Nat) (cov : Bool) (d : Option Nat) :
    (s.failLeaf b rank idx uid f o cov d).mtWait = [] := by
  have k : Kept 0x20a0200040 s ((((s.traceCmd b idx 0 3 f.status).traceFault b).leafRec b rank idx f cov).updSlice uid
      (·.noteFault { status := f.status, rank, cmd := idx, reason := f.reason })) :=
    .of (kept_updSlice ..) (.of (kept_leafRec ..) (.of (kept_traceFault ..) ((kept_traceCmd ..).mono (by decide))))
  exact fedLocal_mtWait (failSlice_mtWait (k.mtWait_nil h) ..) ..

theorem failCmd_resumeMt (c : Ctx) (idx : Nat) (f : Flt) (d : Option Nat) : (s.failCmd c idx f d).resumeMt = s.failCmd c idx f d :=
  resumeMt_nil (failLeaf_mtWait h ..)

end Fail

/-! ## A command that fails its slice -/

/-- What a failure leaves, seen from before steps on the slice's own leaves. -/
theorem SliceFails.of_leaves {s t u : State} {uid : Nat} {sl : Slice} {m : Nat} (k : Kept m s t) (hm : m ||| 0x21e0762fa2 = 0x21e0762fa2)
    (hb : ∀ b, b ∉ sl.beads → t.bead b = s.bead b) (h : SliceFails t u uid sl) : SliceFails s u uid sl := by
  replace k := k.mono hm
  have hset : t.set = s.set := k.set_eq (by decide)
  refine ⟨h.gone, h.leaves, fun b hn => hb b hn ▸ h.others b hn, fun h1 => h.replay (hset ▸ h1), fun h1 => h.clasps (hset ▸ h1), fun v hv => ?_, ?_⟩
  · rw [h.units v hv, k.unitSt_eq (by decide)]
  · exact (k.sameBut failParts (by intro p; cases p <;> decide)).trans h.frame

theorem failCmd_fails {s : State} {c : Ctx} {sl : Slice} (hs : (s.unitSt c.uid).slice = some sl) (idx : Nat) (f : Flt) (d : Option Nat) :
    SliceFails s (s.failCmd c idx f d) c.uid sl := failLeaf_fails hs ..

theorem decoded_bead_other (s : State) (c : Ctx) (w : CmdWord) {j : Nat} (h : j ≠ c.b) : (s.decoded c w).bead j = s.bead j := by
  unfold State.decoded
  split
  · rw [(kept_mtReserve ..).bead_eq (by decide), taken_bead_other s c w h]
  · exact taken_bead_other s c w h

section Bad
variable {s : State} {c : Ctx} {w : CmdWord} {sl : Slice}

/-- The command has been decoded when its slice fails. -/
theorem failCmd_decoded {t : State} {m : Nat} (hs : (s.unitSt c.uid).slice = some sl) (hmem : c.b ∈ sl.beads) (k : Kept m s t)
    (hm : m ||| 0x21e0762fa2 = 0x21e0762fa2) (hb : ∀ j, j ≠ c.b → t.bead j = s.bead j) (idx : Nat) (f : Flt) (d : Option Nat) :
    SliceFails s (t.failCmd c idx f d) c.uid sl :=
  .of_leaves k hm (fun j hj => hb j fun e => hj (e ▸ hmem)) (failCmd_fails ((congrArg _ ((k.mono hm).unitSt_eq (by decide) _)).trans hs) ..)

/-- A row takes a word of its own opcode, or of none (log 20). -/
theorem beadCmd_row {b op : Nat} (hd : Decodes s b w c) (h : opcodeOf w = op ∨ opcodeOf w ∉ opcodes) :
    s.beadCmd op b w = (s.decodeCmd c (s.bead b).next w).resumeMt := by
  have hrow : (opcodeOf w == op || !opcodes.contains (opcodeOf w)) = true := by simpa using h
  unfold State.beadCmd
  dsimp only
  rw [hd.ready, hrow, hd.ctx]
  rfl

/-- Decode or a check stops the command. -/
theorem decodeCmd_illegal (h : ¬ Legal s w c) : ∃ f, s.decodeCmd c (s.bead c.b).next w = (s.taken c w).failCmd c (s.bead c.b).next f := by
  cases hdecode : decodeBad c ((s.taken c w).bead c.b).debug ((((s.taken c w).unitSt c.uid).slice.map (fun sl => sl.header.outClasps)).getD []) w with
  | some st =>
    refine ⟨⟨st, St.rDecode, 0⟩, ?_⟩
    unfold State.taken at hdecode
    unfold State.decodeCmd
    dsimp only
    rw [hdecode]
    rfl
  | none =>
    cases hchecks : checkBad (s.taken c w) c w with
    | none => exact absurd ⟨hdecode, hchecks⟩ h
    | some f =>
      refine ⟨f, ?_⟩
      unfold State.taken at hdecode hchecks
      unfold State.decodeCmd
      dsimp only
      rw [hdecode]
      dsimp only
      rw [hchecks]
      rfl

/-- So does an error flag of the clasp that the command waits on (R393). -/
theorem atWait_flagged {idx : Nat} (hen : waitEn w = true) (herr : (s.clasp (waitId w)).err = true) :
    s.atWait c idx w = s.failCmd c idx ⟨St.clpError, 0, s.claspArg (waitId w)⟩ (s.flaggedBy (waitId w)) := by
  unfold State.atWait
  simp [hen, herr]

end Bad

/-- Settles O28: decode, a check or the flagged clasp fails the slice, of which only the command's own leaf has changed. -/
theorem badCommandsFailTheSlice : Obligations.BadCommandsFailTheSlice := by
  unfold Obligations.BadCommandsFailTheSlice
  intro b w s c sl op i hi hop hrun hd hs hmem hbad
  obtain ⟨b, hb⟩ := b
  obtain rfl : c.b = b := ctx?_b hd.ctx
  rw [exec_beadRow hrun (op, i) hi, beadCmd_row hd hop]
  refine ⟨_, rfl, ?_⟩
  by_cases hl : Legal s w c
  · obtain ⟨hen, herr⟩ := hbad.resolve_left (not_not.2 hl)
    have k := kept_decoded s c w
    have herr' : ((s.decoded c w).clasp (waitId w)).err = true := by rw [k.clasp_eq (by decide), herr]
    rw [decodeCmd_legal hl, atWait_flagged hen herr', failCmd_resumeMt (k.mtWait_nil hd.alone)]
    exact failCmd_decoded hs hmem k (by decide) (fun j hj => decoded_bead_other s c w hj) ..
  · obtain ⟨f, hf⟩ := decodeCmd_illegal hl
    have k := kept_taken s c w
    rw [hf, failCmd_resumeMt (k.mtWait_nil hd.alone)]
    exact failCmd_decoded hs hmem k (by decide) (fun j hj => taken_bead_other s c w hj) ..

end Sys2Proof.Machine
end

section
/-! PROOF. Held commands: waits, their wake and their timeout, and pre-scans (R332, R333, R393, R476), and O29. -/

namespace Sys2Proof.Machine

section Held
variable {s : State} {c : Ctx} {w : CmdWord} {idx : Nat}

/-! ## What holds a command -/

theorem atWait_pending (hen : waitEn w = true) (herr : (s.clasp (waitId w)).err = false) (hlt : (s.clasp (waitId w)).counter < waitTgt w) :
    s.atWait c idx w = ((s.traceCmd c.b idx (opcodeOf w) 4 0).postWait (.bead c.b) (waitId w) (waitTgt w)).hold c idx w .wait := by
  unfold State.atWait
  simp [hen, herr, hlt]

theorem atPrescan_holds (h : (s.bead c.b).needsPrescan w = true) : s.atPrescan c idx w = s.hold c idx w .prescan := if_pos h

/-- A legal command whose wait is not met is held with its wait posted. -/
theorem beadCmd_waits (hd : Decodes s c.b w c) (hl : Legal s w c) (hop : opcodeOf w ≠ 0x38) (hen : waitEn w = true)
    (herr : (s.clasp (waitId w)).err = false) (hlt : (s.clasp (waitId w)).counter < waitTgt w) : let t := s.beadCmd (opcodeOf w) c.b w
    Kept 0x20000820 s t ∧
    (t.bead c.b).held = some { idx := (s.bead c.b).next, word := w, stage := .wait, since := s.frm.count } ∧
    t.clasps = mput s.clasps (waitId w) { s.clasp (waitId w) with waits := (s.clasp (waitId w)).waits ++ [{ who := .bead c.b, target := waitTgt w }] } := by
  have hdec := decoded_turns (s := s) (c := c) hop
  have hk := hdec.clasp (waitId w)
  obtain ⟨k, hbead, hclasps⟩ := (hdec.trace c.b (s.bead c.b).next (opcodeOf w) 4 0).wait herr hlt (s.bead c.b).next w .wait
  dsimp only
  rw [beadCmd_decodes hd rfl, decodeCmd_legal hl, atWait_pending hen (by rw [hk, herr]) (by rw [hk]; exact hlt), resumeMt_nil (k.mtWait_nil hd.alone)]
  exact ⟨k, by rw [hbead], hclasps⟩

/-- A legal MMA that pre-scans is held. -/
theorem beadCmd_prescans (hd : Decodes s c.b w c) (hl : Legal s w c) (hw : s.waitMet w) (hop : opcodeOf w = 0x20)
    (hpre : (mmaJob ((s.taken c w).bead c.b) w).prescans = true) : BeadTurns s c.b { s.bead c.b with
      next := (s.bead c.b).next + 1, held := some { idx := (s.bead c.b).next, word := w, stage := .prescan, since := s.frm.count } }
      (s.beadCmd (opcodeOf w) c.b w) := by
  have hneeds : ((s.decoded c w).bead c.b).needsPrescan w = true := by
    rw [decoded_bead]
    unfold Bead.needsPrescan
    rw [hop]
    exact hpre
  have hheld := (decoded_turns (s := s) (c := c) (w := w) (by omega)).hold (s.bead c.b).next w .prescan
  rw [beadCmd_atFence hd hl hw, atFence_other (by omega) (by omega), atClasp_other (by omega), atPrescan_holds hneeds, hheld.resumeMt hd.alone]
  exact hheld

/-! ## The wake -/

theorem wakeBead_none {b : Nat} (h : (s.bead b).wake = none) : s.wakeBead b = s := by
  unfold State.wakeBead
  dsimp only
  rw [h]

/-- The clasp on which a held command waits. -/
def Held.clasp (h : Held) : Nat := if h.stage = .claspOp then fld h.word 31 16 else waitId h.word

/-- The wake of a running bead reaches its command: the state in which it goes on. -/
def State.woken (s : State) (b : Nat) (h : Held) (err : Bool) : State :=
  (s.updBead b (fun x => { x with wake := none })).traceCmd b h.idx (opcodeOf h.word) 5 (if err then St.clpError else 0)

theorem woken_turns (s : State) (b : Nat) (h : Held) (err : Bool) : BeadTurns s b { s.bead b with wake := none } (s.woken b h err) :=
  ((BeadTurns.refl s b).upd (fun x => { x with wake := none })).trace ..

section
variable {h : Held} (hctx : s.ctx? c.b = some c) (hph : (s.bead c.b).phase = .running) (hheld : (s.bead c.b).held = some h)
include hctx hph hheld

/-- With the error flag it fails the slice. -/
theorem wakeBead_fails (hwake : (s.bead c.b).wake = some true) : s.wakeBead c.b = (s.woken c.b h true).failCmd c h.idx
    ⟨St.clpError, 0, (s.woken c.b h true).claspArg h.clasp⟩ ((s.woken c.b h true).flaggedBy h.clasp) := by
  unfold State.wakeBead
  dsimp only
  rw [hwake, hctx]
  dsimp only
  rw [if_neg (by rw [hph]; exact LeafPhase.noConfusion), hheld]
  dsimp only
  rw [if_pos rfl]
  rfl

/-- With success a wait of the clasp word is met. -/
theorem wakeBead_meets (hwake : (s.bead c.b).wake = some false) (hstage : h.stage = .wait) :
    s.wakeBead c.b = (s.woken c.b h false).atFence c h.idx h.word := by
  unfold State.wakeBead
  dsimp only
  rw [hwake, hctx]
  dsimp only
  rw [if_neg (by rw [hph]; exact LeafPhase.noConfusion), hheld]
  dsimp only
  rw [hstage]
  rfl

end

theorem waitExpire_held {h : Held} (hctx : s.ctx? c.b = some c) (hheld : (s.bead c.b).held = some h) (hstage : h.stage = .wait ∨ h.stage = .claspOp)
    (hwake : (s.bead c.b).wake = none) : ∃ f, s.waitExpire c.b =
      if h.since + s.set.cur.frame.collTimeout ≤ s.frm.count then s.failCmd c h.idx f else s := by
  unfold State.waitExpire
  dsimp only
  rw [hheld, hctx]
  dsimp only
  refine ⟨_, if_congr ?_ rfl rfl⟩
  simp [hstage, hwake]

/-- A wake takes nothing from a slice but the wake. -/
theorem woken_wakes (s : State) (b : Nat) (h : Held) (err : Bool) : Wakes s (s.woken b h err) := by
  have ht := woken_turns s b h err
  refine ⟨fun j => ?_, fun id herr => by rw [ht.clasp, herr]⟩
  by_cases e : j = b
  · exact ⟨none, by rw [e, ht.bead]⟩
  · exact ⟨_, ht.others j e⟩

/-! ## Issue of a held command -/

/-- A held command that does work issues, where nothing waits for the merge tree. -/
theorem atTree_work (hop : opcodeOf w ∈ workOps) (hnone : s.mtWait = []) : s.atTree c idx w =
    if (s.issuing c idx w).mustWait c idx w then (s.issuing c idx w).enter c { idx, word := w, pend := .hazard }
    else (s.issuing c idx w).run c idx w := by
  rw [atTree_issues (hasLeaves_work hop) hnone]
  exact if_neg (by simpa using workOps_not_instant _ hop)

theorem prescanDone_held {h : Held} (hctx : s.ctx? c.b = some c) (hheld : (s.bead c.b).held = some h) (hstage : h.stage = .prescan) :
    s.prescanDone c.b = s.atTree c h.idx h.word := by
  unfold State.prescanDone
  rw [hctx, hheld]
  exact if_pos hstage

end Held

/-! ## The statement -/

/-- Settles O29: what is held, the wake that lets it go on or fails the slice, the timeout, and the end of a pre-scan. -/
theorem waitsHoldAndWake : Obligations.WaitsHoldAndWake := by
  unfold Obligations.WaitsHoldAndWake
  intro b w s c sl m h hrun hnone hctx hs
  obtain ⟨b, hb⟩ := b
  obtain rfl : c.b = b := ctx?_b hctx
  have hwaked : exec (.claspWake ⟨c.b, hb⟩ m) s = .next ((s.at m).wakeBead c.b).resumeMt := unlessDown_of_running hrun _
  have htimed : exec (.clpTimeout ⟨c.b, hb⟩) s = .next (s.waitExpire c.b).resumeMt := unlessDown_of_running hrun _
  refine ⟨fun hop hd hl hen herr hlt => ?waits, fun hwake => ?noWake, fun hwake hph hheld hstage hop hsig => ?meets,
    fun hwake hph hheld => ?flagged, fun hheld hstage hwake => ⟨fun hle => ?expires, fun hlt => ?early⟩,
    fun hop hd hl hw hpre => ?prescans, fun hheld hstage hop => ?scanned⟩
  case waits =>
    obtain ⟨k, hheld, hclasps⟩ := beadCmd_waits hd hl (by omega) hen herr hlt
    rw [hop] at k hheld hclasps
    exact ⟨_, unlessDown_of_running hrun _, k.sameBut _ (by intro p; cases p <;> decide), hclasps, hheld⟩
  case noWake =>
    rw [hwaked, wakeBead_none (s := s.at m) hwake]
    exact congrArg _ (resumeMt_nil (s := s.at m) hnone)
  case meets =>
    have hturn := woken_turns (s.at m) c.b h false
    have hdone := hturn.trans (atClasp_quiet (idx := h.idx) (w := h.word) (by rw [hop]; decide) (not_cmdSignals hsig (.inl (by omega)))
      (hturn.mtWait.trans hnone))
    rw [hturn.bead] at hdone
    have k := Kept.of hdone.kept (.of (kept_at s m) (.refl 0x20000021 s))
    rw [hwaked, wakeBead_meets (s := s.at m) hctx hph hheld hwake hstage, atFence_other (by omega) (by omega), hdone.resumeMt hnone]
    exact ⟨_, rfl, k.sameBut _ (by intro p; cases p <;> decide), hdone.bead⟩
  case flagged =>
    have hturn := woken_turns (s.at m) c.b h true
    rw [hwaked, wakeBead_fails (s := s.at m) hctx hph hheld hwake, failCmd_resumeMt (hturn.mtWait.trans hnone)]
    refine ⟨_, rfl, .before (sl' := sl) (woken_wakes ..) (hturn.kept.sameBut _ (by intro p; cases p <;> decide)) rfl rfl
      (fun v _ => congrArg UnitSt.slice (hturn.unitSt v)) (failCmd_fails ((congrArg UnitSt.slice (hturn.unitSt c.uid)).trans hs) ..)⟩
  case expires =>
    obtain ⟨f, hf⟩ := waitExpire_held hctx hheld hstage hwake
    rw [htimed, hf, if_pos hle, failCmd_resumeMt hnone]
    exact ⟨_, rfl, failCmd_fails hs ..⟩
  case early =>
    obtain ⟨f, hf⟩ := waitExpire_held hctx hheld hstage hwake
    rw [htimed, hf, if_neg (by omega), resumeMt_nil hnone]
  case prescans =>
    have hheld := beadCmd_prescans hd hl hw hop hpre
    rw [hop] at hheld
    exact ⟨_, unlessDown_of_running hrun _, hheld.sameBut, by rw [hheld.bead]⟩
  case scanned =>
    have hwork : opcodeOf h.word ∈ workOps := by
      rw [hop]
      decide
    have hexec : exec (.prescanEnd ⟨c.b, hb⟩) s = .next (s.atTree c h.idx h.word) :=
      (unlessDown_of_running hrun _).trans (congrArg _ (prescanDone_held hctx hheld hstage))
    have hu : s.issuing c h.idx h.word = (s.traceCmd c.b h.idx 0x20 1 0).updBead c.b (fun x => { x with held := none }) := by
      rw [State.issuing, hop]
    refine ⟨_, rfl, fun hgo => ?_⟩
    dsimp only at hgo ⊢
    rw [← hu] at hgo ⊢
    rw [hexec, atTree_work hwork hnone, if_neg (Bool.eq_false_iff.1 hgo)]
    refine ⟨fun p t hp => ?_, fun f t hf => by rw [run_error hf]; rfl⟩
    rw [run_work hwork hp]
    exact ⟨_, _, rfl, rfl, rfl, rfl, rfl, by simp [Bead.ranEntry, hop, poisonOps]⟩

end Sys2Proof.Machine
end

section
/-! PROOF. Overruns of a chain and of a slice (R171, R385), and O33. -/

namespace Sys2Proof.Machine

section Overrun
variable {s : State} {c : Ctx}

/-- A record of a unit's queue. -/
theorem raiseU_errUnit {u : Nat} (h : s.set.cur.top u ≠ 0xFFFF) (status arg reason src : Nat) (covered : Bool) :
    mget (s.raiseU u status arg reason src covered).errUnit (s.set.cur.top u) {} =
      (mget s.errUnit (s.set.cur.top u) {}).push 1024 (s.mkRec status reason src u arg covered) := by
  have hput (r : ErrRec) : mget (mput s.errUnit (s.set.cur.top u) ((mget s.errUnit (s.set.cur.top u) {}).push unitCap r)) (s.set.cur.top u) {} =
      (mget s.errUnit (s.set.cur.top u) {}).push 1024 r := mget_mput_same ..
  unfold State.raiseU State.logUnit
  dsimp only
  rw [if_neg h]
  split
  · split
    · rw [(kept_msix ..).errUnit_eq (by decide)]
      exact hput _
    · exact hput _
  · exact hput _

/-! ## The end of a chain -/

theorem chainOver_fails (hctx : s.ctx? c.b = some c) (hph : (s.bead c.b).phase = .running) (hheld : (s.bead c.b).held = none)
    (hnext : (s.bead c.b).next = (s.bead c.b).chainLen) :
    s.chainOver c.b = s.failCmd c (s.bead c.b).next ⟨St.mapOverflow, St.rChain, 0⟩ := by
  unfold State.chainOver
  dsimp only
  rw [hctx]
  exact if_pos ⟨hph, hheld, hnext⟩

theorem chainOver_goes (hctx : s.ctx? c.b = some c) (hnext : (s.bead c.b).next ≠ (s.bead c.b).chainLen) : s.chainOver c.b = s := by
  unfold State.chainOver
  dsimp only
  rw [hctx]
  exact if_neg fun h => hnext h.2.2

/-! ## The cycles of a slice -/

variable {sl : Slice} {uid : Nat}

/-- The largest cycle count of a slice (R40). -/
def State.cyclesSeen (s : State) (uid cycles : Nat) : State := s.updSlice uid (fun sl => { sl with maxCycles := max sl.maxCycles cycles })

/-- The first overrun of a native slice. -/
def State.firstOverrun (s : State) (uid : Nat) (sl : Slice) (cycles : Nat) : Prop :=
  s.set.cur.s1 uid = false ∧ sl.overrun = false ∧ sl.header.bound < cycles

theorem overrun_eq (hs : (s.unitSt uid).slice = some sl) (rank cycles : Nat) : s.overrun uid rank cycles =
    if (s.set.cur.s1 uid || sl.overrun || decide (cycles ≤ sl.header.bound)) = true then s.cyclesSeen uid cycles
    else ((s.cyclesSeen uid cycles).updSlice uid (fun sl => { sl with overrun := true })).raiseU uid St.sliceOverrun 0 0
      (beadAgent (nth sl.beads rank)) := by
  unfold State.overrun
  rw [hs]
  rfl

theorem not_firstOverrun_iff {cycles : Nat} :
    (s.set.cur.s1 uid || sl.overrun || decide (cycles ≤ sl.header.bound)) = true ↔ ¬ s.firstOverrun uid sl cycles := by
  unfold State.firstOverrun
  cases s.set.cur.s1 uid <;> cases sl.overrun <;> simp

theorem kept_cyclesSeen (s : State) (uid cycles : Nat) : Kept 0x40 s (s.cyclesSeen uid cycles) := kept_updSlice ..

theorem cyclesSeen_slice (hs : (s.unitSt uid).slice = some sl) (cycles : Nat) :
    ((s.cyclesSeen uid cycles).unitSt uid).slice = some { sl with maxCycles := max sl.maxCycles cycles } := by
  rw [State.cyclesSeen, updSlice_slice, hs]
  rfl

end Overrun

/-! ## The statement -/

/-- Settles O33: a chain that ends without END fails its slice; the first overrun of a native slice is recorded, and the slice runs on. -/
theorem overrunRowsAct : Obligations.OverrunRowsAct := by
  unfold Obligations.OverrunRowsAct
  intro b s c sl uid rank cycles hrun hnone
  refine ⟨fun hctx hs _ hph hheld => ?chain, fun hs => ?slice⟩
  case chain =>
    obtain ⟨b, hb⟩ := b
    obtain rfl : c.b = b := ctx?_b hctx
    have hexec : exec (.chainOverrun ⟨c.b, hb⟩) s = .next (s.chainOver c.b).resumeMt := unlessDown_of_running hrun _
    rw [hexec]
    refine ⟨fun hnext => ?_, fun hnext => by rw [chainOver_goes hctx hnext, resumeMt_nil hnone]⟩
    rw [chainOver_fails hctx hph hheld hnext, failCmd_resumeMt hnone]
    exact ⟨_, rfl, failCmd_fails hs ..⟩
  case slice =>
    intro first
    have hexec : exec (.sliceOverrun uid rank cycles) s = .next (s.overrun uid rank cycles) := unlessDown_of_running hrun _
    have hseen := cyclesSeen_slice hs cycles
    have k := kept_cyclesSeen s uid cycles
    rw [hexec, overrun_eq hs]
    by_cases hfirst : s.firstOverrun uid sl cycles
    · rw [if_neg (by rw [not_firstOverrun_iff]; exact not_not.2 hfirst)]
      let u := (s.cyclesSeen uid cycles).updSlice uid (fun sl => { sl with overrun := true })
      have ku : Kept 0x40 s u := .of (kept_updSlice ..) k
      have hu : (u.unitSt uid).slice = some { sl with maxCycles := max sl.maxCycles cycles, overrun := true } := by
        rw [updSlice_slice, hseen]
        rfl
      have kr := kept_raiseU u uid St.sliceOverrun 0 0 (beadAgent (nth sl.beads rank)) false
      refine ⟨_, { sl with maxCycles := max sl.maxCycles cycles, overrun := true }, rfl,
        (Kept.of kr (ku.mono (m := 0x2080200040) (by decide))).sameBut _ (by intro p; cases p <;> decide),
        (congrArg UnitSt.slice (kr.unitSt_eq (by decide) uid)).trans hu, rfl, ⟨fun _ => .inr hfirst, fun _ => rfl⟩,
        fun hnot => absurd hfirst hnot, fun _ htop => ?_⟩
      have hset : u.set = s.set := ku.set_eq (by decide)
      have h := raiseU_errUnit (s := u) (u := uid) (by rw [hset]; exact htop) St.sliceOverrun 0 0 (beadAgent (nth sl.beads rank)) false
      rw [hset] at h
      exact h
    · rw [if_pos (not_firstOverrun_iff.2 hfirst)]
      exact ⟨_, _, rfl, k.sameBut _ (by intro p; cases p <;> decide), hseen, rfl, ⟨.inl, fun h => h.resolve_right hfirst⟩,
        fun _ => ⟨k.errUnit_eq (by decide), k.out_eq (by decide)⟩, fun h => absurd h hfirst⟩

end Sys2Proof.Machine
end

section
/-! PROOF. The fetch of a chain into its ring (R384, R385), and O32. -/

namespace Sys2Proof.Machine

/-! ## The ring -/

namespace Bead

theorem ringAt_eq (x : Bead) (i : Nat) : x.ringAt i = x.ringBase * 4096 + 32 * (i % (x.ringPages * 128)) := by
  unfold ringAt
  rw [← Nat.mul_mod_mul_left, show 32 * (x.ringPages * 128) = x.ringPages * 4096 by omega]

/-- Neighbours in the chain stand apart in the ring. -/
theorem ringAt_succ (x : Bead) (i : Nat) : x.ringAt (i + 1) + 32 ≤ x.ringAt i ∨ x.ringAt i + 32 ≤ x.ringAt (i + 1) := by
  have h : i % (x.ringPages * 128) ≠ (i + 1) % (x.ringPages * 128) := fun e => by
    have hdvd : x.ringPages * 128 ∣ i + 1 - i := (Nat.modEq_iff_dvd' (Nat.le_succ i)).1 e
    rw [Nat.add_sub_cancel_left, Nat.dvd_one] at hdvd
    omega
  rw [ringAt_eq, ringAt_eq]
  omega

/-- One command stands in the ring, and the fetch moves on. -/
def fetch (x : Bead) (a : Nat) (bs : List PByte) : Bead := { x.spPut a bs with fetched := (x.spPut a bs).fetched + 1 }

theorem fetch_eq (x : Bead) (a : Nat) (bs : List PByte) :
    x.fetch a bs = { x with sp := x.sp.writeL a (bs.map (·.1)), spPoison := (x.spPut a bs).spPoison, fetched := x.fetched + 1 } := by
  unfold fetch
  rw [spPut_eq]

end Bead

/-! ## The line -/

/-- Command `k` of a line's bytes. -/
def lineCmd (bs : List PByte) (k : Nat) : List PByte := (bs.drop (32 * k)).take 32

/-- The fetch of the first `n` commands of a line. -/
def State.fetchCmds (s : State) (b : Nat) (x : Bead) (bs : List PByte) (n : Nat) : State :=
  (List.range n).foldl (fun s k => (s.putSp b (x.ringAt (x.fetched + k)) (lineCmd bs k)).updBead b (fun x => { x with fetched := x.fetched + 1 })) s

theorem fetchCmds_succ (s : State) (b : Nat) (x : Bead) (bs : List PByte) (n : Nat) :
    s.fetchCmds b x bs (n + 1) = (s.fetchCmds b x bs n).updBead b (fun y => y.fetch (x.ringAt (x.fetched + n)) (lineCmd bs n)) := by
  unfold State.fetchCmds
  rw [List.range_succ, List.foldl_append, List.foldl_cons, List.foldl_nil, putSp_eq, updBead_updBead]
  rfl

/-- What stands in the ring after the first `n` commands of a line of two: they, and every other byte as it was. -/
structure Fetched (s : State) (b : Nat) (x : Bead) (bs : List PByte) (n : Nat) (t : State) : Prop where
  kept : Kept 0x20 s t
  others : ∀ k, k ≠ b → t.bead k = s.bead k
  rest : ∃ sp p, t.bead b = { s.bead b with sp, spPoison := p, fetched := (s.bead b).fetched + n }
  cmds : ∀ k, k < n → (t.bead b).sp.readN (x.ringAt (x.fetched + k)) 32 = (lineCmd bs k).map (·.1)
  bytes : ∀ y, (∀ k, k < n → ¬ (x.ringAt (x.fetched + k) ≤ y ∧ y < x.ringAt (x.fetched + k) + 32)) → (t.bead b).sp.read y = (s.bead b).sp.read y

theorem readN_congr {m k : Bytes} {a n : Nat} (h : ∀ i, i < n → m.read (a + i) = k.read (a + i)) : m.readN a n = k.readN a n := by
  unfold Bytes.readN span
  rw [List.map_map, List.map_map]
  exact List.map_congr_left fun i hi => h i (List.mem_range.1 hi)

theorem fetchCmds_spec (s : State) (b : Nat) (x : Bead) (bs : List PByte) {n : Nat} (h2 : n ≤ 2) (hlen : 32 * n ≤ bs.length) :
    Fetched s b x bs n (s.fetchCmds b x bs n) := by
  induction n with
  | zero => exact ⟨.refl _ s, fun _ _ => rfl, ⟨_, _, rfl⟩, fun k hk => absurd hk (Nat.not_lt_zero k), fun _ _ => rfl⟩
  | succ n ih =>
    obtain ⟨k, hothers, ⟨sp, p, hrest⟩, hcmds, hbytes⟩ := ih (by omega) (by omega)
    have hl : (lineCmd bs n).length = 32 := by simp [lineCmd]; omega
    rw [fetchCmds_succ]
    have hsp : (((s.fetchCmds b x bs n).updBead b (fun y => y.fetch (x.ringAt (x.fetched + n)) (lineCmd bs n))).bead b).sp =
        ((s.fetchCmds b x bs n).bead b).sp.writeL (x.ringAt (x.fetched + n)) ((lineCmd bs n).map (·.1)) := by
      rw [updBead_bead_same, Bead.fetch_eq]
    refine ⟨.of (kept_updBead _ _ _ fun x h => Bead.wf_spPut _ _ h) k, fun j hj => by rw [updBead_bead, if_neg hj, hothers j hj], ?_, ?_, ?_⟩
    · rw [updBead_bead_same, Bead.fetch_eq, hrest]
      exact ⟨_, _, rfl⟩
    · intro j hj
      rw [hsp]
      by_cases e : j = n
      · have h := Bytes.readN_writeL ((s.fetchCmds b x bs n).bead b).sp (x.ringAt (x.fetched + n)) ((lineCmd bs n).map (·.1))
        rw [List.length_map, hl] at h
        rw [e, h]
      · obtain ⟨rfl, rfl⟩ : j = 0 ∧ n = 1 := by omega
        have hapart : x.ringAt (x.fetched + 1) + 32 ≤ x.ringAt (x.fetched + 0) ∨ x.ringAt (x.fetched + 0) + 32 ≤ x.ringAt (x.fetched + 1) :=
          x.ringAt_succ x.fetched
        rw [← hcmds 0 (by omega)]
        exact readN_congr fun i hi => Bytes.read_writeL_other _ _ _ _ (by rw [List.length_map, hl]; omega)
    · intro y hy
      have hout := hy n (Nat.lt_succ_self n)
      rw [hsp, Bytes.read_writeL_other _ _ _ _ (by rw [List.length_map, hl]; omega)]
      exact hbytes y fun j hj => hy j (by omega)

/-! ## CHAIN_FETCH -/

/-- The oldest command that the ring still holds for the leaf (R384). -/
def Bead.oldest (x : Bead) : Nat := (x.window.map (·.idx) ++ (x.held.map (·.idx)).toList).foldl min x.next

/-- The leaf fetches no line: it runs no chain, all is fetched, or the ring has no room. -/
def Bead.noLine (x : Bead) : Bool :=
  !(x.phase == .starting || x.phase == .running || x.phase == .preempting) || decide (x.chainLen ≤ x.fetched) ||
    decide (x.oldest + x.ringPages * 128 < x.fetched + 2)

theorem Bead.noLine_of {x : Bead} (h : x.chainLen ≤ x.fetched ∨ x.oldest + x.ringPages * 128 < x.fetched + 2) : x.noLine = true := by
  unfold noLine
  rcases h with h | h <;> simp [h]

theorem Bead.noLine_eq_false {x : Bead} (hph : x.phase = .starting ∨ x.phase = .running ∨ x.phase = .preempting) (hlt : x.fetched < x.chainLen)
    (hroom : x.fetched + 2 ≤ x.oldest + x.ringPages * 128) : x.noLine = false := by
  unfold noLine
  rcases hph with h | h | h <;> simp [h, hlt, hroom]

theorem meterMove_ram (s : State) (top die pa n : Nat) (out : Bool) : (s.meterMove top die pa n out).mem.ram = s.mem.ram := by
  unfold State.meterMove
  dsimp only
  split <;> rfl

theorem readP_bytes (m : MemState) (a n : Nat) : (m.readP a n).map (·.1) = m.ram.readN a n := by
  unfold MemState.readP Bytes.readN
  rw [List.map_map]
  rfl

theorem lineCmd_readP (m : MemState) (a : Nat) {n k : Nat} (h : k < n) :
    (lineCmd (m.readP a (32 * n)) k).map (·.1) = m.ram.readN (a + 32 * k) 32 := by
  unfold lineCmd
  rw [List.map_take, List.map_drop, readP_bytes, Bytes.readN_slice _ (by omega)]

section Fetch
variable {s : State} {c : Ctx} (hctx : s.ctx? c.b = some c)
include hctx

theorem fetchLine_idle (h : (s.bead c.b).noLine = true) : s.fetchLine c.b = s := by
  unfold State.fetchLine
  dsimp only
  rw [hctx]
  exact if_pos h

variable (hline : (s.bead c.b).noLine = false)
include hline

theorem fetchLine_outside {f : Flt} (hpa : s.uaPa c ((s.bead c.b).chain + 32 * (s.bead c.b).fetched) false St.rAccess = .error f) :
    s.fetchLine c.b = s.failCmd c (s.bead c.b).fetched f := by
  unfold State.fetchLine
  dsimp only
  rw [hctx]
  dsimp only
  rw [hpa]
  exact if_neg (Bool.eq_false_iff.1 hline)

theorem fetchLine_reads {pa n : Nat} (hpa : s.uaPa c ((s.bead c.b).chain + 32 * (s.bead c.b).fetched) false St.rAccess = .ok pa)
    (hn : n = min 2 ((s.bead c.b).chainLen - (s.bead c.b).fetched)) :
    s.fetchLine c.b = (s.meterMove c.top (c.b / 20) pa 64 false).fetchCmds c.b (s.bead c.b) (s.mem.readP pa (32 * n)) n := by
  subst hn
  unfold State.fetchLine
  dsimp only
  rw [hctx]
  dsimp only
  rw [hpa]
  exact if_neg (Bool.eq_false_iff.1 hline)

end Fetch

theorem exec_chainFetch {s : State} (hrun : s.halted = false) (b : BeadId) : exec (.chainFetch b) s = .next (s.fetchLine b).resumeMt :=
  unlessDown_of_running hrun _

/-- Settles O32, by the one or two commands that the line holds. -/
theorem chainFetchFillsRing : Obligations.ChainFetchFillsRing := by
  unfold Obligations.ChainFetchFillsRing
  intro b s c sl hrun hmt hctx hs hmem
  obtain ⟨b, hb⟩ := b
  obtain rfl : c.b = b := ctx?_b hctx
  rw [exec_chainFetch hrun]
  refine ⟨fun h => ?_, fun hph hlt hroom => ?_⟩
  · rw [fetchLine_idle hctx (Bead.noLine_of h), resumeMt_nil hmt]
  have hline := Bead.noLine_eq_false hph hlt hroom
  refine ⟨fun pa hpa => ?_, fun f hpa => ?_⟩
  · have k := kept_meterMove s c.top (c.b / 20) pa 64 false
    have hlen : ∀ n, 32 * n ≤ (s.mem.readP pa (32 * n)).length := by simp [MemState.readP, span]
    obtain ⟨kf, hothers, ⟨sp, p, hrest⟩, hcmds, hbytes⟩ := fetchCmds_spec (s.meterMove c.top (c.b / 20) pa 64 false) c.b (s.bead c.b) _
      (Nat.min_le_left 2 ((s.bead c.b).chainLen - (s.bead c.b).fetched)) (hlen _)
    have kt := Kept.of (m := 0x20020) kf (k.mono (by decide))
    rw [fetchLine_reads hctx hline hpa rfl, resumeMt_nil (kt.mtWait_nil hmt)]
    rw [k.bead_eq (by decide)] at hrest hbytes
    refine ⟨_, rfl, kt.sameBut _ (by intro p; cases p <;> decide), ?_, by rw [hrest], by rw [hrest], by rw [hrest], by rw [hrest], fun j hj => ?_, hbytes,
      fun j hj => (hothers j hj).trans (k.bead_eq (by decide) j)⟩
    · rw [kf.mem_eq (by decide), meterMove_ram]
    · exact (hcmds j hj).trans (lineCmd_readP s.mem pa hj)
  · rw [fetchLine_outside hctx hline hpa, failCmd_resumeMt hmt]
    exact ⟨_, rfl, failCmd_fails hs ..⟩

end Sys2Proof.Machine
end

section
/-! PROOF. The completion of a command of the window (R389, R394), and O31. -/

namespace Sys2Proof.Machine

/-! ## The window -/

theorem mem_putFlight {l : List InFlight} {f g : InFlight} (h : g ∈ putFlight l f) : g = f ∨ g ∈ l ∧ g.idx ≠ f.idx := by
  unfold putFlight at h
  split at h
  · obtain ⟨k, hk, rfl⟩ := List.mem_map.1 h
    split
    · exact .inl rfl
    · exact .inr ⟨hk, ‹_›⟩
  · rename_i hnew
    simp only [List.mem_append, List.mem_singleton] at h
    refine h.symm.imp_right fun hg => ⟨hg, fun e => hnew (List.any_eq_true.2 ⟨g, hg, beq_iff_eq.2 e⟩)⟩

theorem putFlight_mem {l : List InFlight} {f g : InFlight} (hg : g ∈ l) (h : g.idx ≠ f.idx) : g ∈ putFlight l f := by
  unfold putFlight
  split
  · exact List.mem_map.2 ⟨g, hg, if_neg h⟩
  · exact List.mem_append_left _ hg

theorem find?_eq_map_getD {α : Type} (l : List α) (p : α → Bool) (d : α) : l.find? p = (l.findIdx? p).map (fun i => l.getD i d) := by
  induction l with
  | nil => rfl
  | cons x l ih =>
    rw [List.find?_cons, List.findIdx?_cons]
    cases p x with
    | true => rfl
    | false =>
      rw [ih, if_neg Bool.false_ne_true, Option.map_map]
      rfl

section Complete
variable {s u : State} {c : Ctx} {f g : InFlight} {n : Nat}

/-! ## A collective that closes -/

/-- The collective of a finished command goes when every local member is done. -/
def State.closing (s : State) (c : Ctx) (f : InFlight) : State :=
  match f.pend with
  | .coll seq => s.closeColl c.size c.serial seq (((s.unitSt c.uid).slice.map (fun sl => sl.beads.length)).getD 0)
  | _ => s

theorem kept_closing (s : State) (c : Ctx) (f : InFlight) : Kept 0x200 s (s.closing c f) := by
  unfold State.closing
  split
  · exact kept_closeColl ..
  · exact (Kept.refl _ s)

theorem closing_other (h : ∀ q, f.pend ≠ .coll q) : s.closing c f = s := by
  unfold State.closing
  split
  · exact absurd ‹_› (h _)
  · rfl

/-- What a fused command waits for, through the first collective of its sequence number. -/
theorem pendDone_coll {q : Nat} (h : f.pend = .coll q) : s.pendDone c f =
    (s.colls.find? (fun k => k.slice == c.serial && k.seq == q)).all (fun k => k.parts.all (fun p => p.bead != c.b || p.done c.size)) := by
  have hix : s.colls.find? (fun k => k.slice == c.serial && k.seq == q) = (s.collIx c.serial q).map s.coll := find?_eq_map_getD ..
  unfold State.pendDone
  rw [h, hix]
  dsimp only
  split <;> simp [*]

/-- The collectives of other commands stay. -/
theorem closing_pendDone (h : ∀ q, f.pend = .coll q → g.pend ≠ .coll q) : (s.closing c f).pendDone c g = s.pendDone c g := by
  unfold State.closing
  split
  · rename_i q hf
    cases hg : g.pend with
    | coll r =>
      have hne : r ≠ q := fun e => h q hf (e ▸ hg)
      rw [pendDone_coll hg, pendDone_coll hg]
      unfold State.closeColl
      rw [List.find?_filter]
      congr 2
      funext k
      by_cases e : k.seq = r
      · simp [e, hne, beq_eq_decide]
      · simp [e]
    | _ => simp [State.pendDone, State.closeColl, hg]
  · rfl

theorem writesDue_pending (h : s.writesDue c g = true) : s.pendDone c g = false := by
  unfold State.writesDue at h
  split at h
  · exact absurd h Bool.false_ne_true
  · exact absurd h Bool.false_ne_true
  · exact Bool.not_eq_true' _ ▸ h

/-- Writes of other commands that are due stay due. -/
theorem closing_writesDue (hdone : s.pendDone c f = true) (h : s.writesDue c g = true) : (s.closing c f).writesDue c g = true := by
  have hother : ∀ q, f.pend = .coll q → g.pend ≠ .coll q := fun q hf hg => by
    have hpending := writesDue_pending h
    rw [pendDone_coll hg, ← pendDone_coll hf, hdone] at hpending
    exact Bool.false_ne_true hpending.symm
  unfold State.writesDue
  rw [closing_pendDone hother]
  exact h

/-! ## The commands that wait behind it -/

/-- Nothing in the window can run or signal. -/
def State.stands (s : State) (c : Ctx) : Prop :=
  ∀ g, g ∈ (s.bead c.b).window → g.pend ≠ .hazard ∧ (g.pend = .signal → s.signalWaits c g = true)

theorem runWaiting_stands (h : s.stands c) (m : Nat) : s.runWaiting m c = s := by
  cases m with
  | zero => rfl
  | succ m =>
    have hnone : (s.bead c.b).window.find? (fun f => f.pend == .hazard && !s.mustWait c f.idx f.word) = none :=
      List.find?_eq_none.2 fun g hg => by simp [(h g hg).1]
    unfold State.runWaiting
    rw [hnone]

theorem runSignals_stands (h : s.stands c) (m : Nat) : s.runSignals m c = s := by
  cases m with
  | zero => rfl
  | succ m =>
    have hnone : (s.bead c.b).window.find? (fun f => f.pend == .signal && !s.signalWaits c f) = none :=
      List.find?_eq_none.2 fun g hg => by
        have hwaits := (h g hg).2
        simpa using hwaits
    unfold State.runSignals
    rw [hnone]

/-- A FENCE or END held for the window issues when it is empty. -/
def State.resumeFence (s : State) (c : Ctx) : State :=
  match (s.bead c.b).held with
  | some h => if h.stage = HoldStage.fence ∧ (s.bead c.b).window = [] then s.atClasp c h.idx h.word else s
  | none => s

theorem resumeFence_none (h : (s.bead c.b).held = none) : s.resumeFence c = s := by
  unfold State.resumeFence
  rw [h]

theorem resumeFence_drained {h : Held} (hheld : (s.bead c.b).held = some h) (hst : h.stage = .fence) (hwin : (s.bead c.b).window = []) :
    s.resumeFence c = s.atClasp c h.idx h.word := by
  unfold State.resumeFence
  rw [hheld]
  exact if_pos ⟨hst, hwin⟩

/-! ## COMMAND_COMPLETE -/

/-- A finished command signals or waits to. -/
def State.leaves (s : State) (c : Ctx) (f : InFlight) : State :=
  if s.signalWaits c f then s.enter c { f with pend := .signal }
  else (s.updBead c.b (fun x => { x with window := x.window.filter (fun g => g.idx != f.idx) })).finish c f

section
variable (hctx : s.ctx? c.b = some c) (hf : (s.bead c.b).window.find? (fun g => g.idx == n) = some f)
include hctx hf

theorem complete_pending (h : s.pendDone c f = false) : s.complete c.b n = s := by
  unfold State.complete
  rw [hctx, hf]
  exact if_pos (by rw [h]; rfl)

/-- A finished command leaves the window, and what waited for it goes on. -/
theorem complete_done (h : s.pendDone c f = true) : s.complete c.b n =
    (((((s.leaves c f).closing c f).runWaiting 16 c).runSignals 16 c).resumeFence c).resumeMt := by
  obtain rfl : f.idx = n := by simpa using List.find?_some hf
  unfold State.complete
  rw [hctx, hf]
  exact if_neg (by rw [h]; exact Bool.false_ne_true)

/-- Where nothing behind it can go on, that is all. -/
theorem complete_settles (h : s.pendDone c f = true) (hheld : ((s.leaves c f).bead c.b).held = none) (hst : ((s.leaves c f).closing c f).stands c)
    (hmt : (s.leaves c f).mtWait = []) : s.complete c.b n = (s.leaves c f).closing c f := by
  have k := kept_closing (s.leaves c f) c f
  rw [complete_done hctx hf h, runWaiting_stands hst, runSignals_stands hst, resumeFence_none (by rw [k.bead_eq (by decide), hheld]),
    resumeMt_nil (k.mtWait_nil hmt)]

end

/-! ## A signal that waits -/

theorem leaves_waits (hsig : CmdSignals f.word) (hdue : ∃ g, g ∈ (s.bead c.b).window ∧ g.idx < f.idx ∧ s.writesDue c g = true) :
    s.leaves c f = s.enter c { f with pend := .signal } := if_pos ((signalWaits_iff hsig).2 hdue)

/-- Quiet: no other command of the window waits to run or to signal. -/
def State.quietBut (s : State) (c : Ctx) (n : Nat) : Prop :=
  ∀ g, g ∈ (s.bead c.b).window.filter (fun g => g.idx != n) → g.pend ≠ .hazard ∧ g.pend ≠ .signal

/-- It keeps on waiting after the collective of its command has closed. -/
theorem stands_signal (hdone : s.pendDone c f = true) (hq : s.quietBut c f.idx) (hsig : CmdSignals f.word)
    (hdue : ∃ g, g ∈ (s.bead c.b).window ∧ g.idx < f.idx ∧ s.writesDue c g = true) :
    ((s.enter c { f with pend := .signal }).closing c f).stands c := by
  have hk := kept_closing (s.enter c { f with pend := .signal }) c f
  have hbead : ((s.enter c { f with pend := .signal }).closing c f).bead c.b =
      { s.bead c.b with window := putFlight (s.bead c.b).window { f with pend := .signal } } :=
    (hk.bead_eq (by decide) c.b).trans ((BeadTurns.refl s c.b).enter _).bead
  obtain ⟨g, hg, hlt, hwrites⟩ := hdue
  intro k hmem
  rw [hbead] at hmem
  rcases mem_putFlight hmem with rfl | ⟨hin, hne⟩
  · refine ⟨by simp, fun _ => (signalWaits_iff (f := { f with pend := .signal }) hsig).2 ⟨g, ?_, hlt, ?_⟩⟩
    · rw [hbead]
      exact putFlight_mem hg (Nat.ne_of_lt hlt)
    · exact closing_writesDue ((pendDone_congr rfl rfl c f).trans hdone) ((writesDue_congr rfl rfl c g).trans hwrites)
  · have h := hq k (List.mem_filter.2 ⟨hin, bne_iff_ne.2 hne⟩)
    exact ⟨h.1, fun e => absurd e h.2⟩

/-! ## A command that leaves the window -/

/-- A status other than success is counted in the slice (R412). -/
def Slice.counted (sl : Slice) (c : Ctx) (f : InFlight) : Slice :=
  if f.status = 0 then sl
  else { sl with
    warnStatus := if sl.warnCount = 0 then f.status else sl.warnStatus
    warnRank := if sl.warnCount = 0 then c.rank else sl.warnRank
    warnCount := sl.warnCount + 1
    poisonSeen := sl.poisonSeen || f.status == St.poison }

theorem counted_header (sl : Slice) (c : Ctx) (f : InFlight) : (sl.counted c f).header = sl.header := by
  unfold Slice.counted
  split <;> rfl

theorem counted_heldSignals (sl : Slice) (c : Ctx) (f : InFlight) : (sl.counted c f).heldSignals = sl.heldSignals := by
  unfold Slice.counted
  split <;> rfl

theorem kept_counted (s : State) (c : Ctx) (f : InFlight) : Kept 0x20000040 s (s.counted c f) := by
  have k := kept_traceCmd s c.b f.idx (opcodeOf f.word) 2 f.status
  unfold State.counted
  dsimp only
  split
  · exact k.mono (by decide)
  · exact .of (kept_updSlice ..) (k.mono (by decide))

theorem counted_slice {sl : Slice} (hs : (s.unitSt c.uid).slice = some sl) : ((s.counted c f).unitSt c.uid).slice = some (sl.counted c f) := by
  have ht := (congrArg UnitSt.slice ((kept_traceCmd s c.b f.idx (opcodeOf f.word) 2 f.status).unitSt_eq (by decide) c.uid)).trans hs
  unfold State.counted Slice.counted
  dsimp only
  split
  · exact ht
  · rw [updSlice_slice, ht]
    rfl

/-- The bead without the command in its window, and its status counted. -/
def State.left (s : State) (c : Ctx) (f : InFlight) : State :=
  (s.updBead c.b (fun x => { x with window := x.window.filter (fun g => g.idx != f.idx) })).counted c f

theorem kept_left (s : State) (c : Ctx) (f : InFlight) : Kept 0x20000060 s (s.left c f) := .of (kept_counted ..) (.of (kept_updBead ..) (.refl _ s))

theorem left_bead (s : State) (c : Ctx) (f : InFlight) :
    (s.left c f).bead c.b = { s.bead c.b with window := (s.bead c.b).window.filter (fun g => g.idx != f.idx) } :=
  ((kept_counted ..).bead_eq (by decide) c.b).trans (updBead_bead_same ..)

theorem left_bead_other (s : State) (c : Ctx) (f : InFlight) {k : Nat} (h : k ≠ c.b) : (s.left c f).bead k = s.bead k :=
  ((kept_counted ..).bead_eq (by decide) k).trans ((updBead_bead ..).trans (if_neg h))

theorem left_slice {sl : Slice} (hs : (s.unitSt c.uid).slice = some sl) : ((s.left c f).unitSt c.uid).slice = some (sl.counted c f) :=
  counted_slice ((congrArg _ ((kept_updBead ..).unitSt_eq (by decide) c.uid)).trans hs)

theorem leaves_quiet (hsig : ¬ CmdSignals f.word) (hend : opcodeOf f.word ≠ 0x01) : s.leaves c f = s.left c f := by
  unfold State.leaves
  rw [signalWaits_quiet hsig, if_neg Bool.false_ne_true, finish_quiet hsig hend]
  rfl

theorem leaves_signal (hnot : ¬ ∃ g, g ∈ (s.bead c.b).window ∧ g.idx < f.idx ∧ s.writesDue c g = true) (hsig : sigEn f.word = true)
    (hop : opcodeOf f.word ≠ 0x40) (hend : opcodeOf f.word ≠ 0x01) :
    s.leaves c f = (s.left c f).beadSignal c f.idx (sigId f.word) (sigN f.word) := by
  unfold State.leaves
  rw [if_neg (mt (signalWaits_iff (.inl hsig)).1 hnot), finish_word hsig hop hend]
  rfl

/-- Nothing that it leaves in the window can go on. -/
theorem stands_left (hq : s.quietBut c f.idx) (hwin : (u.bead c.b).window = (s.bead c.b).window.filter (fun g => g.idx != f.idx)) :
    (u.closing c f).stands c := by
  intro g hg
  rw [(kept_closing u c f).bead_eq (by decide), hwin] at hg
  exact ⟨(hq g hg).1, fun e => absurd e (hq g hg).2⟩

/-- A clasp that takes a signal changes no more of a bead than its wake. -/
theorem ClaspTakes.bead {s t : State} {id counter : Nat} {err : Bool} (h : ClaspTakes s t id counter err) (b : Nat) :
    ∃ wake, t.bead b = { s.bead b with wake } := by
  rw [h.woken]
  split
  · exact ⟨_, rfl⟩
  · exact ⟨(s.bead b).wake, rfl⟩

/-! ## What completes -/

section
variable {sl : Slice} (hmt : s.mtWait = []) (hctx : s.ctx? c.b = some c) (hs : (s.unitSt c.uid).slice = some sl)
  (hf : (s.bead c.b).window.find? (fun g => g.idx == f.idx) = some f) (hend : opcodeOf f.word ≠ 0x01) (hdone : s.pendDone c f = true)
include hctx hf hdone

/-- A command that leaves a quiet window, with nothing held. -/
theorem complete_leaves (hheld : (s.bead c.b).held = none) (hq : s.quietBut c f.idx) (hmt' : (s.leaves c f).mtWait = [])
    (hbead : ∃ wake, (s.leaves c f).bead c.b = { s.bead c.b with window := (s.bead c.b).window.filter (fun g => g.idx != f.idx), wake }) :
    s.complete c.b f.idx = (s.leaves c f).closing c f := by
  obtain ⟨wake, hbead⟩ := hbead
  exact complete_settles hctx hf hdone (by rw [hbead]; exact hheld) (stands_left hq (by rw [hbead])) hmt'

include hmt

/-- Its signal waits for earlier writes (R47). -/
theorem complete_waits (hheld : (s.bead c.b).held = none) (hq : s.quietBut c f.idx) (hsig : CmdSignals f.word)
    (hdue : ∃ g, g ∈ (s.bead c.b).window ∧ g.idx < f.idx ∧ s.writesDue c g = true) :
    Kept 0x220 s (s.complete c.b f.idx) ∧
      (s.complete c.b f.idx).bead c.b = { s.bead c.b with window := putFlight (s.bead c.b).window { f with pend := .signal } } := by
  have hu := leaves_waits (s := s) hsig hdue
  have hturn := (BeadTurns.refl s c.b).enter { f with pend := .signal }
  have ke : Kept 0x20 s (s.enter c { f with pend := .signal }) := kept_updBead ..
  have kc := kept_closing (s.enter c { f with pend := .signal }) c f
  have hsettles := complete_settles hctx hf hdone (by rw [hu, hturn.bead]; exact hheld) (by rw [hu]; exact stands_signal hdone hq hsig hdue)
    (by rw [hu, hturn.mtWait, hmt])
  rw [hsettles, hu]
  exact ⟨(.of kc (ke.mono (by decide))), (kc.bead_eq (by decide) c.b).trans hturn.bead⟩

include hend

/-- It signals nothing. -/
theorem complete_quiet (hheld : (s.bead c.b).held = none) (hq : s.quietBut c f.idx) (hsig : ¬ CmdSignals f.word) :
    s.complete c.b f.idx = (s.left c f).closing c f := by
  have hu := leaves_quiet (s := s) (c := c) hsig hend
  rw [complete_leaves hctx hf hdone hheld hq (by rw [hu]; exact (kept_left s c f).mtWait_nil hmt) ⟨_, by rw [hu, left_bead]⟩, hu]

/-- With nothing else in the window, a held FENCE then issues. -/
theorem complete_fence {k : Held} (hsig : ¬ CmdSignals f.word) (hheld : (s.bead c.b).held = some k) (hstage : k.stage = .fence)
    (hop : opcodeOf k.word = 0x02) (hquiet : sigEn k.word = false) (hempty : (s.bead c.b).window.filter (fun g => g.idx != f.idx) = []) :
    Kept 0x20000260 s (s.complete c.b f.idx) ∧ (s.complete c.b f.idx).bead c.b = { s.bead c.b with window := [], held := none } := by
  have kc := kept_closing (s.left c f) c f
  have kt : Kept 0x20000260 s ((s.left c f).closing c f) := .of kc ((kept_left s c f).mono (by decide))
  have hbead : ((s.left c f).closing c f).bead c.b = { s.bead c.b with window := [] } := by
    rw [kc.bead_eq (by decide), left_bead, hempty]
  have hstands : ((s.left c f).closing c f).stands c := by
    intro g hg
    rw [hbead] at hg
    exact absurd hg List.not_mem_nil
  have hissue := atClasp_quiet (idx := k.idx) (c := c) (w := k.word) (by rw [hop]; decide) (not_cmdSignals hquiet (.inl (by omega)))
    (kt.mtWait_nil hmt)
  rw [complete_done hctx hf hdone, leaves_quiet hsig hend, runWaiting_stands hstands, runSignals_stands hstands,
    resumeFence_drained (h := k) (by rw [hbead]; exact hheld) hstage (by rw [hbead]), hissue.resumeMt (kt.mtWait_nil hmt)]
  exact ⟨.of hissue.kept kt, by rw [hissue.bead, hbead]⟩

variable (hheld : (s.bead c.b).held = none) (hq : s.quietBut c f.idx) (hop : opcodeOf f.word ≠ 0x40) (hsig : sigEn f.word = true)
  (hnot : ¬ ∃ g, g ∈ (s.bead c.b).window ∧ g.idx < f.idx ∧ s.writesDue c g = true)
include hheld hq hop hsig hnot hs

/-- Its signal is held with the slice. -/
theorem complete_held (h1 : c.s1 = false) (hout : sigId f.word ∈ sl.header.outClasps) :
    Kept 0x20000260 s (s.complete c.b f.idx) ∧
    (s.complete c.b f.idx).bead c.b = { s.bead c.b with window := (s.bead c.b).window.filter (fun g => g.idx != f.idx) } ∧
    ((s.complete c.b f.idx).unitSt c.uid).slice = some { sl.counted c f with
      heldSignals := sl.heldSignals ++ [{ rank := c.rank, idx := f.idx, clasp := sigId f.word, n := sigN f.word }] } := by
  have hu := (leaves_signal hnot hsig hop hend).trans (beadSignal_held (left_slice hs) h1 (by rw [counted_header]; exact hout) _)
  have ku : Kept 0x20000060 s (s.leaves c f) := by
    rw [hu]
    exact .of (kept_updSlice ..) (kept_left s c f)
  have hbead : (s.leaves c f).bead c.b = { s.bead c.b with window := (s.bead c.b).window.filter (fun g => g.idx != f.idx) } := by
    rw [hu]
    exact ((kept_updSlice ..).bead_eq (by decide) c.b).trans (left_bead s c f)
  have kc := kept_closing (s.leaves c f) c f
  rw [complete_leaves hctx hf hdone hheld hq (ku.mtWait_nil hmt) ⟨_, hbead⟩]
  refine ⟨.of kc (ku.mono (by decide)), (kc.bead_eq (by decide) c.b).trans hbead, ?_⟩
  rw [kc.unitSt_eq (by decide), hu, updSlice_slice, left_slice hs, ← counted_heldSignals sl c f]
  rfl

/-- Its signal is made. -/
theorem complete_made (hst : s.stalledOps = []) (hnow : c.signals s (sigId f.word)) :
    SameBut (.ras :: .units :: .colls :: claspParts) s (s.complete c.b f.idx) ∧
    ((s.complete c.b f.idx).clasp (sigId f.word)).counter = min ((s.clasp (sigId f.word)).counter + sigN f.word) (2 ^ 32 - 1) := by
  have kl := kept_left s c f
  have hnow' : c.signals (s.left c f) (sigId f.word) := by
    unfold Ctx.signals at hnow ⊢
    rw [hs] at hnow
    rw [left_slice hs]
    simpa only [Option.map_some, Option.getD_some, counted_header] using hnow
  have hu := (leaves_signal hnot hsig hop hend).trans (beadSignal_now hnow' _)
  have htakes := opSignal_takes ((kl.stalledOps_eq (by decide)).trans hst) (sigId f.word) (sigN f.word)
  rw [← hu] at htakes
  have hframe : SameBut (.ras :: .units :: .colls :: claspParts) s (s.leaves c f) :=
    (kl.sameBut _ (by intro p; cases p <;> decide)).trans (htakes.frame.mono (by intro p; cases p <;> decide))
  obtain ⟨wake, hbead⟩ := htakes.bead c.b
  rw [left_bead] at hbead
  have kc := kept_closing (s.leaves c f) c f
  rw [complete_leaves hctx hf hdone hheld hq ((hframe .mtWait (by decide)).trans hmt) ⟨wake, hbead⟩]
  refine ⟨hframe.trans (kc.sameBut _ (by intro p; cases p <;> decide)), ?_⟩
  rw [kc.clasp_eq (by decide), htakes.value.1, kl.clasp_eq (by decide)]

end
end Complete

theorem exec_commandComplete {s : State} (hrun : s.halted = false) (b : BeadId) (n : Nat) :
    exec (.commandComplete b n) s = .next (s.complete b n) := unlessDown_of_running hrun _

/-- Settles O31, by the command's signal: none, waiting, held or made. -/
theorem commandCompleteRowActs : Obligations.CommandCompleteRowActs := by
  unfold Obligations.CommandCompleteRowActs
  intro b n s c sl f hrun hmt hst hctx hs hf hend left after quiet due
  obtain ⟨b, hb⟩ := b
  obtain rfl : c.b = b := ctx?_b hctx
  obtain rfl : f.idx = n := by simpa using List.find?_some hf
  rw [exec_commandComplete hrun]
  refine ⟨fun h => ?pending, fun h hheld hq hsig hdue => ?waits, fun h hheld hq hnot hop => ⟨fun hsig => ?quiet, fun hsig h1 hout => ?held,
    fun hsig hnow _ => ?made⟩, fun k h hsig hop hheld hstage hfence hquiet hempty => ?fence⟩
  case pending => rw [complete_pending hctx hf h]
  case waits =>
    obtain ⟨k, hbead⟩ := complete_waits hmt hctx hf h hheld hq hsig hdue
    exact ⟨_, rfl, k.sameBut _ (by intro p; cases p <;> decide), hbead⟩
  case quiet =>
    have kl := kept_left s c f
    have kc := kept_closing (s.left c f) c f
    have kt : Kept 0x20000260 s ((s.left c f).closing c f) := .of kc (kl.mono (by decide))
    rw [complete_quiet hmt hctx hf hend h hheld hq (not_cmdSignals hsig (.inl hop))]
    refine ⟨_, rfl, kt.sameBut _ (by intro p; cases p <;> decide), (kc.bead_eq (by decide) c.b).trans (left_bead s c f),
      fun j hj => (kc.bead_eq (by decide) j).trans (left_bead_other s c f hj), ?_, fun hno => ?_⟩
    · rw [kc.unitSt_eq (by decide), left_slice hs]
      rfl
    · rw [closing_other hno, kl.colls_eq (by decide)]
  case held =>
    obtain ⟨k, hbead, hslice⟩ := complete_held hmt hctx hs hf hend h hheld hq hop hsig hnot h1 hout
    exact ⟨_, rfl, k.sameBut _ (by intro p; cases p <;> decide), hbead, hslice⟩
  case made =>
    obtain ⟨hframe, hcounter⟩ := complete_made hmt hctx hs hf hend h hheld hq hop hsig hnot hst hnow
    exact ⟨_, rfl, hframe, hcounter⟩
  case fence =>
    obtain ⟨kt, hbead⟩ := complete_fence hmt hctx hf hend h (not_cmdSignals hsig (.inl hop)) hheld hstage hfence hquiet hempty
    exact ⟨_, rfl, kt.sameBut _ (by intro p; cases p <;> decide), hbead⟩

end Sys2Proof.Machine
end

section
/-! PROOF. The spill form of accumulator slots (R231, R400): what the machine writes and reads back. -/

namespace Sys2Proof.Machine

/-! ## Lists -/

/-- Rows and columns, numbered. -/
theorem range_cells (m : Nat) {n : Nat} (hn : 0 < n) :
    (List.range m).flatMap (fun r => (List.range n).map (fun q => (r, q))) = (List.range (m * n)).map (fun j => (j / n, j % n)) := by
  induction m with
  | zero => rw [Nat.zero_mul]; rfl
  | succ m ih =>
    rw [List.range_succ, List.flatMap_append, ih, Nat.succ_mul, List.range_add, List.map_append, List.map_map]
    simp only [List.flatMap_cons, List.flatMap_nil, List.append_nil]
    refine congrArg _ (List.map_congr_left fun q hq => ?_)
    have hlt := List.mem_range.1 hq
    simp [Nat.mul_comm m n, Nat.mul_add_div hn, Nat.div_eq_of_lt hlt, Nat.mod_eq_of_lt hlt]

theorem slotCells_eq : slotCells = (List.range 4096).map (fun j => (j / 64, j % 64)) := range_cells 64 (by decide)

/-- Pieces of a list, put together. -/
theorem flatMap_pieces {α : Type} (k n : Nat) (l : List α) : (List.range n).flatMap (fun j => (l.drop (k * j)).take k) = l.take (k * n) := by
  induction n with
  | zero => simp
  | succ n ih => simp [List.range_succ, ih, Nat.mul_succ, List.take_add]

theorem leBytes_leNat (l : List Byte) : leBytes l.length (leNat l) = l := by
  induction l with
  | nil => rfl
  | cons b l ih =>
    have hlt := b.isLt
    have hdiv : (b.toNat + 256 * leNat l) / 256 = leNat l := by omega
    have hmod : BitVec.ofNat 8 (b.toNat + 256 * leNat l) = b := by
      apply BitVec.eq_of_toNat_eq
      rw [BitVec.toNat_ofNat]
      omega
    rw [List.length_cons, leBytes, leNat, hdiv, ih, hmod]

/-- Element `j` of a list of bytes, `k` bytes to an element. -/
def elemAt (k : Nat) (bs : List PByte) (j : Nat) : AccElem :=
  { bits := leNat (((bs.drop (k * j)).take k).map (·.1)), poison := ((bs.drop (k * j)).take k).any (·.2) }

theorem leBytes_elemAt {k j : Nat} {bs : List PByte} (h : k * j + k ≤ bs.length) :
    leBytes k (elemAt k bs j).bits = ((bs.map (·.1)).drop (k * j)).take k := by
  have hlen : (((bs.drop (k * j)).take k).map (·.1)).length = k := by simp; omega
  have hback := leBytes_leNat (((bs.drop (k * j)).take k).map (·.1))
  rw [hlen] at hback
  exact hback.trans (by rw [List.map_take, List.map_drop])

theorem unpackBig_eq (k n : Nat) (bs : List PByte) : unpackBig k n bs = (List.range n).map (elemAt k bs) := by
  induction n generalizing bs with
  | zero => rfl
  | succ n ih =>
    rw [unpackBig, ih, List.range_succ_eq_map, List.map_cons, List.map_map]
    simp [elemAt, Function.comp_def, List.drop_drop, Nat.mul_succ, Nat.add_comm]

/-! ## A slot -/

namespace Bead

/-- The first `n` elements of a slot take values. -/
def accFill (x : Bead) (slot n : Nat) (e : Nat → AccElem) : Bead := (List.range n).foldl (fun x j => x.accPut slot (j / 64) (j % 64) (e j)) x

theorem accFill_eq (x : Bead) (slot n : Nat) (e : Nat → AccElem) : x.accFill slot n e = { x with acc := (x.accFill slot n e).acc } :=
  List.foldlRecOn (motive := fun y : Bead => y = { x with acc := y.acc }) _ _ rfl fun y hy j _ => by
    rw [hy]
    rfl

theorem accPut_accGet (x : Bead) (slot j : Nat) (e : AccElem) (k i : Nat) :
    (x.accPut slot (j / 64) (j % 64) e).accGet k (i / 64) (i % 64) =
      if k * 4096 + i = slot * 4096 + j then e else x.accGet k (i / 64) (i % 64) := by
  have hkey (z : Nat) (y : Nat) : z * 4096 + y / 64 * 64 + y % 64 = z * 4096 + y := by omega
  unfold accPut accGet
  dsimp only
  rw [hkey, hkey, mget_mput]
  rfl

theorem accFill_accGet (x : Bead) {slot n : Nat} (e : Nat → AccElem) (hn : n ≤ 4096) {k i : Nat} (hi : i < 4096) :
    (x.accFill slot n e).accGet k (i / 64) (i % 64) = if k = slot ∧ i < n then e i else x.accGet k (i / 64) (i % 64) := by
  induction n with
  | zero => simp [accFill]
  | succ n ih =>
    have hsucc : x.accFill slot (n + 1) e = (x.accFill slot n e).accPut slot (n / 64) (n % 64) (e n) := by
      unfold accFill
      rw [List.range_succ, List.foldl_append]
      rfl
    rw [hsucc, accPut_accGet, ih (by omega)]
    by_cases hkey : k * 4096 + i = slot * 4096 + n
    · obtain ⟨rfl, rfl⟩ : k = slot ∧ i = n := by omega
      rw [if_pos hkey, if_pos ⟨rfl, Nat.lt_succ_self _⟩]
    · rw [if_neg hkey]
      refine if_congr ⟨fun ⟨h, hlt⟩ => ⟨h, Nat.lt_succ_of_lt hlt⟩, fun ⟨h, hlt⟩ => ⟨h, ?_⟩⟩ rfl rfl
      omega

end Bead

/-! ## The bytes of a slot -/

theorem spillBytes_fst (x : Bead) (slot : Nat) :
    (spillBytes x slot).map (·.1) = (List.range 4096).flatMap (fun j => leBytes 5 (x.accGet slot (j / 64) (j % 64)).bits) := by
  unfold spillBytes
  rw [slotCells_eq, List.flatMap_map, List.map_flatMap]
  simp [Function.comp_def]

theorem length_spillBytes (x : Bead) (slot : Nat) : (spillBytes x slot).length = 20480 := by
  rw [← List.length_map (·.1), spillBytes_fst, List.length_flatMap]
  simp only [leBytes_length, List.map_const', List.length_range, List.sum_replicate_nat]

/-- A slot read back from the spill form. -/
def Bead.slotFrom (x : Bead) (slot : Nat) (bs : List PByte) : Bead :=
  (slotCells.zip (unpack 40 4096 bs)).foldl (fun x p => x.accPut slot p.1.1 p.1.2 p.2) x

theorem slotFrom_eq (x : Bead) (slot : Nat) (bs : List PByte) : x.slotFrom slot bs = x.accFill slot 4096 (elemAt 5 bs) := by
  have hunpack : unpack 40 4096 bs = unpackBig 5 4096 bs := rfl
  unfold Bead.slotFrom Bead.accFill
  rw [hunpack, unpackBig_eq, slotCells_eq, List.zip_map', List.foldl_map]

/-- It holds the bytes that were read, and no other slot changes. -/
theorem spillBytes_slotFrom (x : Bead) (slot k : Nat) (bs : List PByte) (hlen : bs.length = 20480) :
    (spillBytes (x.slotFrom slot bs) k).map (·.1) = if k = slot then bs.map (·.1) else (spillBytes x k).map (·.1) := by
  rw [slotFrom_eq, spillBytes_fst, spillBytes_fst]
  split
  · rename_i e
    have h : ∀ j ∈ List.range 4096,
        leBytes 5 ((x.accFill slot 4096 (elemAt 5 bs)).accGet k (j / 64) (j % 64)).bits = ((bs.map (·.1)).drop (5 * j)).take 5 := by
      intro j hj
      have hj := List.mem_range.1 hj
      rw [x.accFill_accGet _ (Nat.le_refl _) hj, if_pos ⟨e, hj⟩]
      exact leBytes_elemAt (by omega)
    rw [List.flatMap_congr h, flatMap_pieces, List.take_of_length_le (by simp [hlen])]
  · rename_i e
    refine List.flatMap_congr fun j hj => ?_
    rw [x.accFill_accGet _ (Nat.le_refl _) (List.mem_range.1 hj), if_neg fun h => e h.1]

end Sys2Proof.Machine
end

section
/-! PROOF. Saving and restoring the slots of a preempted leaf (R408), and O34. -/

namespace Sys2Proof.Machine

/-! ## Steps that change one bead only -/

/-- `t` is `s` with `x` as its bead `b`. -/
structure BeadOnly (s : State) (b : Nat) (x : Bead) (t : State) : Prop where
  kept : Kept 0x20 s t
  bead : t.bead b = x
  others : ∀ k, k ≠ b → t.bead k = s.bead k

namespace BeadOnly
variable {s t : State} {b : Nat} {x : Bead}

theorem refl (s : State) (b : Nat) : BeadOnly s b (s.bead b) s := ⟨.refl _ s, rfl, fun _ _ => rfl⟩

theorem trans {u : State} {y : Bead} (h : BeadOnly s b x t) (g : BeadOnly t b y u) : BeadOnly s b y u :=
  ⟨h.kept.trans g.kept, g.bead, fun k hk => (g.others k hk).trans (h.others k hk)⟩

theorem upd (h : BeadOnly s b x t) (f : Bead → Bead) (hf : ∀ x : Bead, x.sp.wf = true → (f x).sp.wf = true := by exact fun _ h => h) :
    BeadOnly s b (f x) (t.updBead b f) :=
  ⟨.of (kept_updBead t b f hf) h.kept, by rw [updBead_bead_same, h.bead], fun j hj => by rw [updBead_bead, if_neg hj, h.others j hj]⟩

theorem putSp (h : BeadOnly s b x t) (a : Nat) (bs : List PByte) : BeadOnly s b (x.spPut a bs) (t.putSp b a bs) :=
  h.upd (·.spPut a bs) fun _ h => Bead.wf_spPut _ _ h

end BeadOnly

/-! ## Loops of a command -/

section Bind
variable {α β : Type} {m : CmdM α} {f : α → CmdM β} {t u : CSt}

theorem bind_ok {a : α} (h : m t = .ok a u) : (m >>= f) t = f a u := by
  show EStateM.bind m f t = _
  unfold EStateM.bind
  rw [h]

theorem bind_error {e : Flt} (h : m t = .error e u) : (m >>= f) t = .error e u := by
  show EStateM.bind m f t = _
  unfold EStateM.bind
  rw [h]

end Bind

section Loop
variable {f : Nat → CmdM Unit} {t : CSt} {n : Nat}

/-- Each step succeeds, and takes the property of its index to the next. -/
theorem forM_range_ok {P : Nat → CSt → Prop} (h0 : P 0 t) (hstep : ∀ i, i < n → ∀ t, P i t → ∃ t', f i t = .ok () t' ∧ P (i + 1) t') :
    ∃ t', (List.range n).forM f t = .ok () t' ∧ P n t' := by
  induction n with
  | zero => exact ⟨t, rfl, h0⟩
  | succ n ih =>
    obtain ⟨u, hu, hP⟩ := ih fun i hi => hstep i (Nat.lt_succ_of_lt hi)
    obtain ⟨t', ht', hP'⟩ := hstep n (Nat.lt_succ_self n) u hP
    refine ⟨t', ?_, hP'⟩
    have happend : (List.range (n + 1)).forM f = (do (List.range n).forM f; f n) := by
      rw [List.range_succ]
      simp
    rw [happend]
    exact (bind_ok hu).trans ht'

/-- Each step keeps a property of the machine, whether it succeeds or not. -/
theorem forM_left {P : State → Prop} (hstep : ∀ i t, P t.s → P (leftBy (f i t))) (l : List Nat) (h : P t.s) : P (leftBy (l.forM f t)) := by
  induction l generalizing t with
  | nil => exact h
  | cons i l ih =>
    have hi := hstep i t h
    have hcons : (i :: l).forM f = (do f i; l.forM f) := rfl
    rw [hcons]
    cases e : f i t with
    | ok _ u =>
      rw [e] at hi
      rw [bind_ok e]
      exact ih hi
    | error _ u =>
      rw [e] at hi
      rw [bind_error e]
      exact hi

end Loop

theorem work_left (s : State) (m : CmdM Unit) : (s.work m).1 = leftBy (m { s }) := by
  unfold State.work
  split <;> (rename_i e; rw [e]; rfl)

/-! ## Accesses of the scratchpad by a command -/

/-- A command meets poison, or not. -/
def CSt.met (t : CSt) (p : Bool) : CSt := { t with poison := p || t.poison }

theorem notePoison_eq (p : Bool) (t : CSt) : notePoison p t = .ok () (t.met p) := by cases p <;> rfl

theorem getS_eq (t : CSt) : getS t = .ok t.s t := rfl

theorem modS_eq (f : State → State) (t : CSt) : modS f t = .ok () { t with s := f t.s } := rfl

theorem liftE_ok {α : Type} (a : α) (t : CSt) : liftE (.ok a) t = .ok a t := rfl

theorem liftE_error {α : Type} (e : Flt) (t : CSt) : (liftE (.error e) : CmdM α) t = .error e t := rfl

section Access
variable {c : Ctx} {x off : Nat} (t : CSt)

/-- A write of the scratchpad, inside the unit's partition or not. -/
theorem wr_sp (bs : List PByte) (rsn : Nat) : wr c 2 x off bs rsn t =
    if inPart c.u (fieldAddr 2 x + off) bs.length = true then
      .ok () { t.met (bs.any (·.2)) with s := t.s.putSp c.b (fieldAddr 2 x + off) bs }
    else .error ⟨St.mapOverflow, St.rScratch, 0⟩ (t.met (bs.any (·.2))) := by
  have hw : (t.met (bs.any (·.2))).s.wrBytes c 2 x off bs rsn = if inPart c.u (fieldAddr 2 x + off) bs.length = true then
      .ok (t.s.putSp c.b (fieldAddr 2 x + off) bs) else .error ⟨St.mapOverflow, St.rScratch, 0⟩ := by
    rfl
  unfold wr
  rw [bind_ok (notePoison_eq ..), bind_ok (getS_eq _), hw]
  split
  · exact bind_ok (liftE_ok ..)
  · exact bind_error (liftE_error ..)

theorem meterRead_sp (s : State) (n : Nat) : s.meterRead c 2 x off n = s := if_pos (.inl rfl)

theorem rd_sp (n rsn : Nat) : rd c 2 x off n rsn t =
    if inPart c.u (fieldAddr 2 x + off) n = true then
      .ok ((t.s.bead c.b).spRead (fieldAddr 2 x + off) n) (t.met (((t.s.bead c.b).spRead (fieldAddr 2 x + off) n).any (·.2)))
    else .error ⟨St.mapOverflow, St.rScratch, 0⟩ t := by
  have hr : t.s.rdBytes c 2 x off n rsn = if inPart c.u (fieldAddr 2 x + off) n = true then
      .ok ((t.s.bead c.b).spRead (fieldAddr 2 x + off) n) else .error ⟨St.mapOverflow, St.rScratch, 0⟩ := rfl
  unfold rd
  rw [bind_ok (getS_eq _), hr]
  split
  · rw [bind_ok (liftE_ok ..), bind_ok (notePoison_eq ..)]
    exact congrArg (fun s => EStateM.Result.ok _ { t.met _ with s }) (meterRead_sp ..)
  · exact bind_error (liftE_error ..)

end Access

/-! ## All slots to the scratchpad, and back -/

section Slots
variable {s : State} {c : Ctx} {sp : Nat}

theorem inPart_slot {u : UnitRec} {lo i : Nat} (h : inPart u lo (64 * 20480) = true) (hi : i < 64) : inPart u (lo + i * 20480) 20480 = true := by
  unfold inPart at h ⊢
  simp at h ⊢
  omega

/-- Only the bytes of the bead's scratchpad, and their poison, differ. -/
def OnlySp (s : State) (b : Nat) (t : State) : Prop := ∃ sp p, BeadOnly s b { s.bead b with sp, spPoison := p } t

theorem OnlySp.put {b : Nat} {t : State} (h : OnlySp s b t) (a : Nat) (bs : List PByte) : OnlySp s b (t.putSp b a bs) := by
  obtain ⟨_, _, h⟩ := h
  have hput := h.putSp a bs
  rw [Bead.spPut_eq] at hput
  exact ⟨_, _, hput⟩

theorem OnlySp.spill {b : Nat} {t : State} (h : OnlySp s b t) (slot : Nat) : spillBytes (t.bead b) slot = spillBytes (s.bead b) slot := by
  obtain ⟨_, _, h⟩ := h
  rw [h.bead]
  rfl

/-- The save of one slot. -/
def spillSlot (c : Ctx) (sp i : Nat) : CmdM Unit := do
  let x := (← getS).bead c.b
  wr c 2 sp (i * 20480) (spillBytes x (0 + i)) St.rScratch

theorem spillSlots_eq (c : Ctx) (n sp : Nat) : spillSlots c 0 n sp = (List.range n).forM (spillSlot c sp) := rfl

theorem spillSlot_run (sp i : Nat) (t : CSt) : ∃ p, spillSlot c sp i t =
    if inPart c.u (fieldAddr 2 sp + i * 20480) 20480 = true then
      .ok () { s := t.s.putSp c.b (fieldAddr 2 sp + i * 20480) (spillBytes (t.s.bead c.b) i), poison := p }
    else .error ⟨St.mapOverflow, St.rScratch, 0⟩ { s := t.s, poison := p } := by
  refine ⟨(spillBytes (t.s.bead c.b) i).any (·.2) || t.poison, ?_⟩
  unfold spillSlot
  rw [bind_ok (getS_eq t), wr_sp, Nat.zero_add, length_spillBytes]
  rfl

theorem spillSlots_only (s : State) (c : Ctx) (n sp : Nat) : OnlySp s c.b (s.work (spillSlots c 0 n sp)).1 := by
  rw [work_left, spillSlots_eq]
  refine forM_left (f := spillSlot c sp) (P := OnlySp s c.b) (fun i t h => ?_) _ ⟨_, _, .refl s c.b⟩
  obtain ⟨p, hrun⟩ := spillSlot_run (c := c) sp i t
  rw [hrun]
  split
  · exact h.put ..
  · exact h

/-- The first `n` slots stand in the scratchpad, one after another. -/
def SpillsTo (s : State) (b sp n : Nat) (t : State) : Prop :=
  OnlySp s b t ∧ ∀ i, i < n → (t.bead b).sp.readN (sp + i * 20480) 20480 = (spillBytes (s.bead b) i).map (·.1)

theorem SpillsTo.next {b n : Nat} {t : State} (h : SpillsTo s b sp n t) :
    SpillsTo s b sp (n + 1) (t.putSp b (sp + n * 20480) (spillBytes (t.bead b) n)) := by
  obtain ⟨honly, hsaved⟩ := h
  refine ⟨honly.put .., fun j hj => ?_⟩
  have hlen := length_spillBytes (s.bead b) n
  rw [honly.spill, putSp_eq, updBead_bead_same, Bead.spPut_sp]
  by_cases e : j = n
  · have h := Bytes.readN_writeL (t.bead b).sp (sp + n * 20480) ((spillBytes (s.bead b) n).map (·.1))
    rw [List.length_map, hlen] at h
    rw [e, h]
  · rw [← hsaved j (by omega)]
    exact readN_congr fun q hq => Bytes.read_writeL_other _ _ _ _ (by rw [List.length_map, hlen]; omega)

/-- Slots saved in the unit's partition. -/
theorem spillSlots_saves (s : State) (hpart : inPart c.u sp (64 * 20480) = true) (haddr : fieldAddr 2 sp = sp) :
    SpillsTo s c.b sp 64 (s.work (spillSlots c 0 64 sp)).1 := by
  have hstep : ∀ i, i < 64 → ∀ t : CSt, SpillsTo s c.b sp i t.s → ∃ t', spillSlot c sp i t = .ok () t' ∧ SpillsTo s c.b sp (i + 1) t'.s := by
    intro i hi t h
    obtain ⟨p, hrun⟩ := spillSlot_run (c := c) sp i t
    rw [haddr, if_pos (inPart_slot hpart hi)] at hrun
    exact ⟨_, hrun, h.next⟩
  obtain ⟨t, hrun, h⟩ := forM_range_ok (P := fun n t => SpillsTo s c.b sp n t.s) (t := { s })
    ⟨⟨_, _, .refl s c.b⟩, fun i hi => absurd hi (Nat.not_lt_zero i)⟩ hstep
  rw [work_left, spillSlots_eq, hrun]
  exact h

/-- Only the bead's accumulator memory differs. -/
def OnlyAcc (s : State) (b : Nat) (t : State) : Prop := ∃ acc, BeadOnly s b { s.bead b with acc } t

theorem slotFrom_acc (x : Bead) (slot : Nat) (bs : List PByte) : x.slotFrom slot bs = { x with acc := (x.slotFrom slot bs).acc } := by
  rw [slotFrom_eq]
  exact x.accFill_eq ..

theorem OnlyAcc.fill {b : Nat} {t : State} (h : OnlyAcc s b t) (slot : Nat) (bs : List PByte) : OnlyAcc s b (t.updBead b (·.slotFrom slot bs)) := by
  obtain ⟨_, h⟩ := h
  have hfill := h.upd (·.slotFrom slot bs) fun x hx => by
    rw [slotFrom_acc]
    exact hx
  rw [slotFrom_acc] at hfill
  exact ⟨_, hfill⟩

/-- The restore of one slot. -/
def fillSlot (c : Ctx) (sp i : Nat) : CmdM Unit := do
  let bs ← rd c 2 sp (i * 20480) 20480 St.rScratch
  modS (fun s => s.updBead c.b (·.slotFrom (0 + i) bs))

theorem fillSlots_eq (c : Ctx) (n sp : Nat) : fillSlots c 0 n sp (fun _ e => e) = (List.range n).forM (fillSlot c sp) := rfl

theorem fillSlot_run (sp i : Nat) (t : CSt) : ∃ p, fillSlot c sp i t =
    if inPart c.u (fieldAddr 2 sp + i * 20480) 20480 = true then
      .ok () { s := t.s.updBead c.b (·.slotFrom i ((t.s.bead c.b).spRead (fieldAddr 2 sp + i * 20480) 20480)), poison := p }
    else .error ⟨St.mapOverflow, St.rScratch, 0⟩ { s := t.s, poison := p } := by
  unfold fillSlot
  by_cases hin : inPart c.u (fieldAddr 2 sp + i * 20480) 20480 = true
  · have hrd := rd_sp (c := c) (x := sp) (off := i * 20480) t 20480 St.rScratch
    rw [if_pos hin] at hrd
    generalize (t.s.bead c.b).spRead (fieldAddr 2 sp + i * 20480) 20480 = bs at hrd ⊢
    refine ⟨(t.met (bs.any (·.2))).poison, ?_⟩
    rw [if_pos hin, bind_ok hrd, Nat.zero_add, modS_eq]
    rfl
  · have hrd := rd_sp (c := c) (x := sp) (off := i * 20480) t 20480 St.rScratch
    rw [if_neg hin] at hrd
    refine ⟨t.poison, ?_⟩
    rw [if_neg hin, bind_error hrd]

theorem fillSlots_only (s : State) (c : Ctx) (n sp : Nat) : OnlyAcc s c.b (s.work (fillSlots c 0 n sp (fun _ e => e))).1 := by
  rw [work_left, fillSlots_eq]
  refine forM_left (f := fillSlot c sp) (P := OnlyAcc s c.b) (fun i t h => ?_) _ ⟨_, .refl s c.b⟩
  obtain ⟨p, hrun⟩ := fillSlot_run (c := c) sp i t
  rw [hrun]
  split
  · exact h.fill ..
  · exact h

/-- The first `n` slots hold what stands in the scratchpad. -/
def FillsFrom (s : State) (b sp n : Nat) (t : State) : Prop :=
  OnlyAcc s b t ∧ ∀ i, i < n → (spillBytes (t.bead b) i).map (·.1) = (s.bead b).sp.readN (sp + i * 20480) 20480

theorem FillsFrom.next {b n : Nat} {t : State} (h : FillsFrom s b sp n t) :
    FillsFrom s b sp (n + 1) (t.updBead b (·.slotFrom n ((t.bead b).spRead (sp + n * 20480) 20480))) := by
  obtain ⟨honly, hfilled⟩ := h
  have hsp : (t.bead b).sp = (s.bead b).sp := by
    obtain ⟨_, h⟩ := honly
    rw [h.bead]
  refine ⟨honly.fill .., fun j hj => ?_⟩
  rw [updBead_bead_same, spillBytes_slotFrom _ _ _ _ (Bead.length_spRead ..), Bead.spRead_fst, hsp]
  split
  · rename_i e
    rw [e]
  · exact hfilled j (by omega)

/-- Slots restored from the unit's partition. -/
theorem fillSlots_restores (s : State) (hpart : inPart c.u sp (64 * 20480) = true) (haddr : fieldAddr 2 sp = sp) :
    FillsFrom s c.b sp 64 (s.work (fillSlots c 0 64 sp (fun _ e => e))).1 := by
  have hstep : ∀ i, i < 64 → ∀ t : CSt, FillsFrom s c.b sp i t.s → ∃ t', fillSlot c sp i t = .ok () t' ∧ FillsFrom s c.b sp (i + 1) t'.s := by
    intro i hi t h
    obtain ⟨p, hrun⟩ := fillSlot_run (c := c) sp i t
    rw [haddr, if_pos (inPart_slot hpart hi)] at hrun
    exact ⟨_, hrun, h.next⟩
  obtain ⟨t, hrun, h⟩ := forM_range_ok (P := fun n t => FillsFrom s c.b sp n t.s) (t := { s })
    ⟨⟨_, .refl s c.b⟩, fun i hi => absurd hi (Nat.not_lt_zero i)⟩ hstep
  rw [work_left, fillSlots_eq, hrun]
  exact h

end Slots

end Sys2Proof.Machine
end

section
/-! PROOF. The preemption of a leaf of an S1-compatible unit (R408), and O34. -/

namespace Sys2Proof.Machine

/-! ## BEAD_PREEMPTED -/

section Save
variable {s : State} {c : Ctx}

theorem preemptSave_waits (hctx : s.ctx? c.b = some c) (hwin : (s.bead c.b).window ≠ []) : s.preemptSave c.b = s := by
  unfold State.preemptSave
  dsimp only
  rw [hctx]
  exact if_neg fun h => hwin h.2.1

/-- A leaf whose slots have been saved, and which decodes no more. -/
def State.saved (s : State) (c : Ctx) : State :=
  (s.work (spillSlots c 0 64 ((s.bead c.b).preemptArea * 256))).1.updBead c.b (fun x => { x with phase := .preempted, preemptNext := x.next })

theorem preemptSave_drained (hctx : s.ctx? c.b = some c) (hph : (s.bead c.b).phase = .preempting) (hheld : (s.bead c.b).held = none)
    (hwin : (s.bead c.b).window = []) (hpart : inPart c.u ((s.bead c.b).preemptArea * 256) (64 * 20480) = true) :
    s.preemptSave c.b = (s.saved c).raiseU c.pos St.beadPreempted ((s.bead c.b).next + c.rank * 2 ^ 32) 0 (beadAgent c.b) := by
  unfold State.preemptSave
  dsimp only
  rw [hctx]
  dsimp only
  rw [if_pos ⟨hph, hwin, hheld⟩, hpart]
  rfl

theorem saved_only (s : State) (c : Ctx) : ∃ sp p, BeadOnly s c.b { s.bead c.b with
    sp, spPoison := p, phase := .preempted, preemptNext := (s.bead c.b).next } (s.saved c) := by
  obtain ⟨sp, p, h⟩ := spillSlots_only s c 64 ((s.bead c.b).preemptArea * 256)
  exact ⟨sp, p, h.upd fun x => { x with phase := .preempted, preemptNext := x.next }⟩

theorem saved_slots (hpart : inPart c.u ((s.bead c.b).preemptArea * 256) (64 * 20480) = true) (harea : (s.bead c.b).preemptArea * 256 < 2 ^ 23)
    {i : Nat} (hi : i < 64) : ((s.saved c).bead c.b).sp.readN ((s.bead c.b).preemptArea * 256 + i * 20480) 20480 =
      (spillBytes (s.bead c.b) i).map (·.1) := by
  have h := (spillSlots_saves s hpart (Nat.mod_eq_of_lt harea)).2 i hi
  unfold State.saved
  rw [updBead_bead_same]
  exact h

theorem mkRec_congr {t : State} (hfrm : t.frm = s.frm) (hnow : t.now = s.now) : t.mkRec = s.mkRec := by
  unfold State.mkRec
  rw [hfrm, hnow]

end Save

/-! ## RESUME -/

section Back
variable {s : State} {c : Ctx} (hctx : s.ctx? c.b = some c)
include hctx

theorem preemptBack_eq : s.preemptBack c.b =
    (s.work (fillSlots c 0 64 ((s.bead c.b).preemptArea * 256) (fun _ e => e))).1.updBead c.b (fun x => { x with phase := .running }) := by
  unfold State.preemptBack
  rw [hctx]

theorem preemptBack_only : ∃ acc, BeadOnly s c.b { s.bead c.b with acc, phase := .running } (s.preemptBack c.b) := by
  obtain ⟨acc, h⟩ := fillSlots_only s c 64 ((s.bead c.b).preemptArea * 256)
  rw [preemptBack_eq hctx]
  exact ⟨acc, h.upd fun x => { x with phase := .running }⟩

theorem preemptBack_slots (hpart : inPart c.u ((s.bead c.b).preemptArea * 256) (64 * 20480) = true) (harea : (s.bead c.b).preemptArea * 256 < 2 ^ 23)
    {i : Nat} (hi : i < 64) : (spillBytes ((s.preemptBack c.b).bead c.b) i).map (·.1) =
      (s.bead c.b).sp.readN ((s.bead c.b).preemptArea * 256 + i * 20480) 20480 := by
  have h := (fillSlots_restores s hpart (Nat.mod_eq_of_lt harea)).2 i hi
  rw [preemptBack_eq hctx, updBead_bead_same]
  exact h

end Back

/-! ## Writes of BEAD_PREEMPT -/

section Register
variable {s : State} {v : Via} {b : Nat}

theorem bits_withBits (x p q : Nat) {hi lo : Nat} (hp : p < 2 ^ lo) (hq : q < 2 ^ lo) : bits (withBits x p q) hi lo = bits x hi lo := by
  unfold bits withBits
  refine Nat.eq_of_testBit_eq fun i => ?_
  have hle : 2 ^ lo ≤ 2 ^ (lo + i) := Nat.pow_le_pow_right (by decide) (Nat.le_add_right lo i)
  simp [Nat.testBit_lt_two_pow (hp.trans_le hle), Nat.testBit_lt_two_pow (hq.trans_le hle)]

theorem bit_withBits_mod (x p q : Nat) {k : Nat} (hk : k < 64) :
    bit (withBits x p q % 2 ^ 64) k = ((bit x k || p.testBit k) && !q.testBit k) := by
  rw [bit_mod _ _ _ hk, bit_withBits]

theorem bits_withBits_mod (x : Nat) {p q : Nat} (hp : p < 2 ^ 8) (hq : q < 2 ^ 8) : bits (withBits x p q % 2 ^ 64) 22 8 = bits x 22 8 := by
  rw [bits_mod _ 22 8 64 (by decide) (by decide), bits_withBits _ _ _ hp hq]

/-- The word of a REQ: REQ without RESUME, and the AREA. -/
theorem reqWord_bits (x : Nat) : bit (withBits x 1 2 % 2 ^ 64) 0 = true ∧ bit (withBits x 1 2 % 2 ^ 64) 1 = false ∧
    bits (withBits x 1 2 % 2 ^ 64) 22 8 = bits x 22 8 := by
  refine ⟨?_, ?_, bits_withBits_mod x (by decide) (by decide)⟩ <;> rw [bit_withBits_mod _ _ _ (by decide)] <;> simp [Nat.testBit]

/-- The word of a RESUME. -/
theorem resumeWord_bits (x : Nat) : bit (withBits x 2 1 % 2 ^ 64) 0 = false ∧ bit (withBits x 2 1 % 2 ^ 64) 1 = true ∧
    bits (withBits x 2 1 % 2 ^ 64) 22 8 = bits x 22 8 := by
  refine ⟨?_, ?_, bits_withBits_mod x (by decide) (by decide)⟩ <;> rw [bit_withBits_mod _ _ _ (by decide)] <;> simp [Nat.testBit]

/-- A leaf of an S1-compatible unit. -/
def State.s1Bead (s : State) (b : Nat) : Bool := (s.bead b).pos.any (fun p => s.set.cur.s1 (s.set.cur.top p))

theorem wrPreempt_req_refused {x : Nat} (h0 : bit x 0 = true) (h1 : bit x 1 = false) (h : s.s1Bead b = false ∨ (s.bead b).phase = .preempted) :
    s.wrPreempt b x = s.regacc := by
  unfold State.s1Bead at h
  unfold State.wrPreempt
  dsimp only
  refine if_pos ?_
  obtain h | h := h <;> simp [h0, h1, h]

theorem wrPreempt_req_running {x : Nat} (h0 : bit x 0 = true) (h1 : bit x 1 = false) (h : s.s1Bead b = true) (hph : (s.bead b).phase = .running) :
    s.wrPreempt b x = s.updBead b (fun y => { y with preemptArea := bits x 22 8, phase := .preempting }) := by
  unfold State.s1Bead at h
  unfold State.wrPreempt
  dsimp only
  rw [if_neg (by simp [h0, h1, h, hph]), h0, h1, hph, if_neg Bool.false_ne_true, if_pos (by rfl), updBead_updBead]

theorem wrPreempt_resume_refused {x : Nat} (h1 : bit x 1 = true) (h : s.s1Bead b = false ∨ (s.bead b).phase ≠ .preempted) :
    s.wrPreempt b x = s.regacc := by
  unfold State.s1Bead at h
  unfold State.wrPreempt
  dsimp only
  refine if_pos ?_
  obtain h | h := h <;> simp [h1, h]

theorem wrPreempt_resume {x : Nat} (h0 : bit x 0 = false) (h1 : bit x 1 = true) (h : s.s1Bead b = true) (hph : (s.bead b).phase = .preempted) :
    s.wrPreempt b x = (s.updBead b (fun y => { y with preemptArea := bits x 22 8 })).preemptBack b := by
  unfold State.s1Bead at h
  unfold State.wrPreempt
  dsimp only
  rw [if_neg (by simp [h0, h1, h, hph]), h1]
  rfl

theorem wrA_preempt (hb : b < 160) (x : Nat) : s.wrA v (0x1000008 + b * 0x10000) x = s.wrPreempt b x := by
  have hblock : (0x1000008 + b * 0x10000 - 0x1000000) / 0x10000 = b := by omega
  have hoff : (0x1000008 + b * 0x10000) % 0x10000 = 8 := by omega
  unfold State.wrA
  rw [if_pos (by omega), if_pos (by omega), hblock, hoff]
  exact if_pos rfl

theorem pair_preempt (hb : b < 160) {o : Nat} (ho : o = 0x1000008 + b * 0x10000 ∨ o = 0x1000008 + b * 0x10000 + 4) :
    Space.a.pair o = some (0x1000008 + b * 0x10000) := by
  have hbase : o / 8 * 8 = 0x1000008 + b * 0x10000 := by omega
  have hwide : wideA (0x1000008 + b * 0x10000) = true := by
    have hoff : (0x1000008 + b * 0x10000) % 0x10000 = 8 := by omega
    unfold wideA
    rw [if_pos (by omega), hoff, Bool.and_eq_true, decide_eq_true_eq]
    exact ⟨by omega, rfl⟩
  unfold Space.pair
  dsimp only
  rw [if_neg (by omega), hbase, if_pos hwide]

/-- A row that writes BEAD_PREEMPT. -/
theorem writeA_preempt (hb : b < 160) (h : s.reachesA v (0x1000008 + b * 0x10000)) (x : Nat) :
    s.writeA v (0x1000008 + b * 0x10000) 8 x = (s.dropHeld v).wrPreempt b (x % 2 ^ 64) := by
  rw [writeA_wide h (by omega) (pair_preempt hb (.inl rfl)) (pair_preempt hb (.inr rfl)) (.inl fun y => by unfold needsAbi; simp; omega),
    wrA_preempt hb]

theorem clocksOff_of_running (h : s.halted = false) : s.clocksOff = false := (Bool.or_eq_false_iff.1 h).1

theorem exec_preemptReq (hrun : s.halted = false) (b : BeadId) (h : s.reachesA v (0x1000008 + b.val * 0x10000)) (x : Nat) :
    exec (.preemptReq v b x) s = .next ((s.dropHeld v).wrPreempt b (withBits x 1 2 % 2 ^ 64)) :=
  (unlessOff_of_clocks (clocksOff_of_running hrun) _).trans (congrArg _ (writeA_preempt b.isLt h _))

theorem exec_preemptResume (hrun : s.halted = false) (b : BeadId) (h : s.reachesA v (0x1000008 + b.val * 0x10000)) (x : Nat) :
    exec (.preemptResume v b x) s = .next ((s.dropHeld v).wrPreempt b (withBits x 2 1 % 2 ^ 64)) :=
  (unlessOff_of_clocks (clocksOff_of_running hrun) _).trans (congrArg _ (writeA_preempt b.isLt h _))

end Register

/-- RESUME of a preempted leaf, by what it leaves of the bead. -/
theorem wrPreempt_resumes {s : State} {c : Ctx} {x : Nat} (h0 : bit x 0 = false) (h1 : bit x 1 = true) (hs1 : s.s1Bead c.b = true)
    (hph : (s.bead c.b).phase = .preempted) (hctx : s.ctx? c.b = some c) : let t := s.wrPreempt c.b x
    (∃ acc, BeadOnly s c.b { s.bead c.b with acc, preemptArea := bits x 22 8, phase := .running } t) ∧
    (inPart c.u (bits x 22 8 * 256) (64 * 20480) = true → ∀ i, i < 64 →
      (spillBytes (t.bead c.b) i).map (·.1) = (s.bead c.b).sp.readN (bits x 22 8 * 256 + i * 20480) 20480) := by
  have harea := (BeadOnly.refl s c.b).upd fun y => { y with preemptArea := bits x 22 8 }
  have hctx' : (s.updBead c.b (fun y => { y with preemptArea := bits x 22 8 })).ctx? c.b = some c := by
    rw [harea.kept.ctx?_eq (by decide) (by decide) (by decide) (by rw [harea.bead]), hctx]
  have hlt : bits x 22 8 < 2 ^ 15 := Nat.mod_lt _ (by decide)
  dsimp only
  rw [wrPreempt_resume h0 h1 hs1 hph]
  refine ⟨?_, fun hpart i hi => ?_⟩
  · obtain ⟨acc, hback⟩ := preemptBack_only hctx'
    exact ⟨acc, harea.trans (by rwa [harea.bead] at hback)⟩
  · have hslot := preemptBack_slots hctx' (by rwa [harea.bead]) (by rw [harea.bead]; dsimp only; omega) hi
    rwa [harea.bead] at hslot

/-- BEAD_PREEMPTED of a drained leaf, by what it leaves. -/
theorem preemptSave_spec {s : State} {c : Ctx} (hctx : s.ctx? c.b = some c) (hph : (s.bead c.b).phase = .preempting)
    (hheld : (s.bead c.b).held = none) (hwin : (s.bead c.b).window = [])
    (hpart : inPart c.u ((s.bead c.b).preemptArea * 256) (64 * 20480) = true) : let t := s.preemptSave c.b
    Kept 0x2080200020 s t ∧
    (∃ sp p, t.bead c.b = { s.bead c.b with sp, spPoison := p, phase := .preempted, preemptNext := (s.bead c.b).next }) ∧
    (∀ k, k ≠ c.b → t.bead k = s.bead k) ∧
    ((s.bead c.b).preemptArea * 256 < 2 ^ 23 → ∀ i, i < 64 →
      (t.bead c.b).sp.readN ((s.bead c.b).preemptArea * 256 + i * 20480) 20480 = (spillBytes (s.bead c.b) i).map (·.1)) ∧
    (s.set.cur.top c.pos ≠ 0xFFFF → mget t.errUnit (s.set.cur.top c.pos) {} = (mget s.errUnit (s.set.cur.top c.pos) {}).push 1024
      (s.mkRec St.beadPreempted 0 (beadAgent c.b) c.pos ((s.bead c.b).next + c.rank * 2 ^ 32) false)) := by
  obtain ⟨sp, p, honly⟩ := saved_only s c
  have k := honly.kept
  have kr := kept_raiseU (s.saved c) c.pos St.beadPreempted ((s.bead c.b).next + c.rank * 2 ^ 32) 0 (beadAgent c.b) false
  have hset : (s.saved c).set = s.set := k.set_eq (by decide)
  dsimp only
  rw [preemptSave_drained hctx hph hheld hwin hpart]
  refine ⟨.of kr (k.mono (by decide)), ⟨sp, p, (kr.bead_eq (by decide) _).trans honly.bead⟩,
    fun j hj => (kr.bead_eq (by decide) j).trans (honly.others j hj), fun harea i hi => ?_, fun htop => ?_⟩
  · rw [kr.bead_eq (by decide)]
    exact saved_slots hpart harea hi
  · have h := raiseU_errUnit (s := s.saved c) (u := c.pos) (by rwa [hset]) St.beadPreempted ((s.bead c.b).next + c.rank * 2 ^ 32) 0
      (beadAgent c.b) false
    rwa [hset, k.errUnit_eq (by decide), mkRec_congr (k.frm_eq (by decide)) (k.now_eq (by decide))] at h

/-- Settles O34: REQ and RESUME are writes of BEAD_PREEMPT; the save and the restore move one slot after another. -/
theorem preemptionRowsAct : Obligations.PreemptionRowsAct := by
  unfold Obligations.PreemptionRowsAct
  intro v b x pos c s hrun hpos
  refine ⟨fun h => ?register, fun hctx hph hheld => ?save⟩
  case register =>
    intro u
    have ku : Kept 0x800000 s u := kept_dropHeld s v
    have hbead : u.bead b = s.bead b := ku.bead_eq (by decide) b
    have hs1 : u.s1Bead b = s.set.cur.s1 (s.set.cur.top pos) := by
      unfold State.s1Bead
      rw [ku.set_eq (by decide), hbead, hpos]
      rfl
    obtain ⟨hreq0, hreq1, hreqArea⟩ := reqWord_bits x
    obtain ⟨hres0, hres1, hresArea⟩ := resumeWord_bits x
    rw [exec_preemptReq hrun b h, exec_preemptResume hrun b h]
    refine ⟨fun hno => ?reqRefused, fun hyes hph => ?req, fun hno => ?resumeRefused, fun hyes hph hctx => ?resume⟩
    case reqRefused => rw [wrPreempt_req_refused hreq0 hreq1 (by rwa [hs1, hbead])]
    case req =>
      rw [wrPreempt_req_running hreq0 hreq1 (hs1.trans hyes) (by rwa [hbead]), hreqArea]
      rfl
    case resumeRefused => rw [wrPreempt_resume_refused hres1 (by rwa [hs1, hbead])]
    case resume =>
      obtain ⟨b, hb⟩ := b
      obtain rfl : c.b = b := ctx?_b hctx
      have hctx' : u.ctx? c.b = some c := (ku.ctx?_eq (by decide) (by decide) (by decide) (by rw [hbead])).trans hctx
      obtain ⟨⟨acc, honly⟩, hslots⟩ := wrPreempt_resumes hres0 hres1 (hs1.trans hyes) (by rwa [hbead]) hctx'
      rw [hresArea, hbead] at honly hslots
      have hram : ((s.dropHeld v).wrPreempt c.b (withBits x 2 1 % 2 ^ 64)).mem.ram = s.mem.ram := by
        rw [honly.kept.mem_eq (by decide), ku.mem_eq (by decide)]
      refine ⟨_, rfl, honly.kept.sameBut _ (by intro p; cases p <;> decide), ?_, ?_, ?_, ?_, hram,
        fun k hk => (honly.others k hk).trans (ku.bead_eq (by decide) k), hslots⟩ <;> rw [honly.bead]
  case save =>
    obtain ⟨b, hb⟩ := b
    obtain rfl : c.b = b := ctx?_b hctx
    have hexec : exec (.preempted ⟨c.b, hb⟩) s = .next (s.preemptSave c.b) := unlessDown_of_running hrun _
    rw [hexec]
    refine ⟨fun hwin => by rw [preemptSave_waits hctx hwin], fun hwin hpart => ?_⟩
    obtain ⟨k, ⟨sp, p, hbead⟩, hothers, hslots, hrec⟩ := preemptSave_spec hctx hph hheld hwin hpart
    refine ⟨_, rfl, k.sameBut _ (by intro p; cases p <;> decide), by rw [hbead], by rw [hbead], by rw [hbead], ?_, hothers, hslots, hrec⟩
    rw [k.mem_eq (by decide)]

end Sys2Proof.Machine
end

section
/-! PROOF. The pseudo-channels of a page (R414), and O59. -/

namespace Sys2Proof.Machine

theorem pcOf_eq (o : Nat) : pcOf o = (o / 4096 % 64) ^^^ (o / 4096 / 64 % 64) ^^^ (o / 4096 / 4096 % 64) := by
  simp [pcOf, bits, Nat.shiftRight_eq_div_pow]

theorem pcOf_lt (o : Nat) : pcOf o < 64 := by
  have hmod (x : Nat) : x % 64 < 2 ^ 6 := Nat.mod_lt _ (by decide)
  rw [pcOf_eq]
  exact Nat.xor_lt_two_pow (Nat.xor_lt_two_pow (hmod _) (hmod _)) (hmod _)

/-- The offset's granule alone decides. -/
theorem pcOf_congr {o q : Nat} (h : o / 4096 = q / 4096) : pcOf o = pcOf q := by rw [pcOf_eq, pcOf_eq, h]

/-- What the 64 granules of part `j` of the 2 MiB page `p` have in common: the two upper terms of R414. -/
def pageTwist (p j : Nat) : Nat := ((p * 8 + j) % 64) ^^^ (p / 8 % 64)

theorem pageTwist_lt (p j : Nat) : pageTwist p j < 2 ^ 6 :=
  Nat.xor_lt_two_pow (Nat.mod_lt _ (by decide)) (Nat.mod_lt _ (by decide))

theorem pcOf_page (p : Nat) {i : Nat} (hi : i < 512) : pcOf (p * 2 ^ 21 + i * 4096) = i % 64 ^^^ pageTwist p (i / 64) := by
  have hlow : (p * 2 ^ 21 + i * 4096) / 4096 % 64 = i % 64 := by omega
  have hmid : (p * 2 ^ 21 + i * 4096) / 4096 / 64 % 64 = (p * 8 + i / 64) % 64 := by omega
  have hhigh : (p * 2 ^ 21 + i * 4096) / 4096 / 4096 % 64 = p / 8 % 64 := by omega
  rw [pcOf_eq, hlow, hmid, hhigh, Nat.xor_assoc, pageTwist]

/-- The one granule of part `j` of the page `p` that lies on pseudo-channel `c`. -/
def granuleOn (p c j : Nat) : Nat := 64 * j + (c ^^^ pageTwist p j)

theorem granuleOn_spec (p : Nat) {c : Nat} (j : Nat) (hc : c < 64) :
    granuleOn p c j / 64 = j ∧ granuleOn p c j % 64 = c ^^^ pageTwist p j := by
  have h : c ^^^ pageTwist p j < 64 := Nat.xor_lt_two_pow (n := 6) hc (pageTwist_lt p j)
  unfold granuleOn
  omega

theorem pcOf_page_iff (p : Nat) {c i : Nat} (hi : i < 512) : pcOf (p * 2 ^ 21 + i * 4096) = c ↔ i = granuleOn p c (i / 64) := by
  have hx : i % 64 ^^^ pageTwist p (i / 64) = c ↔ i % 64 = c ^^^ pageTwist p (i / 64) :=
    ⟨fun h => by rw [← h, Nat.xor_xor_cancel_right], fun h => by rw [h, Nat.xor_xor_cancel_right]⟩
  rw [pcOf_page p hi, hx, granuleOn]
  omega

/-- Each of the 8 parts of a page has one granule on the pseudo-channel. -/
theorem pageGranules_card (p : Nat) {c : Nat} (hc : c < 64) :
    ((Finset.range 512).filter (fun i => pcOf (p * 2 ^ 21 + i * 4096) = c)).card = 8 := by
  have hon (j : Nat) (hj : j < 8) : granuleOn p c j < 512 ∧ granuleOn p c j / 64 = j := by
    obtain ⟨hdiv, -⟩ := granuleOn_spec p j hc
    omega
  refine (Finset.card_nbij' (· / 64) (granuleOn p c) (fun i hi => ?part) (fun j hj => ?granule) (fun i hi => ?back) (fun j hj => ?forth)).trans
    (Finset.card_range 8)
  case part =>
    obtain ⟨hi, -⟩ := Finset.mem_filter.1 hi
    exact Finset.mem_coe.2 (Finset.mem_range.2 (Nat.div_lt_of_lt_mul (Finset.mem_range.1 hi)))
  case granule =>
    obtain ⟨hlt, hdiv⟩ := hon j (Finset.mem_range.1 hj)
    exact Finset.mem_coe.2 (Finset.mem_filter.2 ⟨Finset.mem_range.2 hlt, (pcOf_page_iff p hlt).2 (by rw [hdiv])⟩)
  case back =>
    obtain ⟨hlt, hpc⟩ := Finset.mem_filter.1 hi
    exact ((pcOf_page_iff p (Finset.mem_range.1 hlt)).1 hpc).symm
  case forth => exact (hon j (Finset.mem_range.1 hj)).2

/-- Settles O59: of the 64 granules of each eighth of a page, the exclusive or of R414 sends one to each pseudo-channel. -/
theorem pageSpansPseudoChannels : Obligations.PageSpansPseudoChannels := by
  unfold Obligations.PageSpansPseudoChannels
  refine ⟨fun o => ⟨pcOf_eq o, pcOf_lt o⟩, fun o q h => pcOf_congr (by omega), fun p c hc => ?_⟩
  have h := pageGranules_card p hc
  simp only [beq_eq_decide]
  exact h

end Sys2Proof.Machine
end

section
/-! PROOF. Errors of memory and the retirement of pseudo-channels (R416, R421, R422, R424): O9, O10 and O11. -/

namespace Sys2Proof.Machine

/-! ## Marks of poison (R417) -/

/-- A byte inside a mark reads as poisoned. -/
theorem granHas_granMark {g a n x : Nat} (p : List Nat) (ha : a ≤ x) (hx : x < a + n) : granHas g (granMark g p a n) x 1 = true := by
  have hlo : a / g ≤ x / g := Nat.div_le_div_right ha
  have hhi : x / g ≤ (a + n - 1) / g := Nat.div_le_div_right (by omega)
  refine (granHas_iff Nat.one_ne_zero).2 ⟨x / g, ?_, Nat.le_refl _, Nat.le_refl _⟩
  unfold granMark granules
  rw [mem_foldl_sIns, if_neg (by omega), mem_span]
  omega

theorem mem_granMark_of_mem {g a n y : Nat} {p : List Nat} (h : y ∈ p) : y ∈ granMark g p a n := by
  unfold granMark
  exact (mem_foldl_sIns ..).2 (.inr h)

theorem granHas_mono {g a n : Nat} {p q : List Nat} (hpq : p ⊆ q) (h : granHas g p a n = true) : granHas g q a n = true := by
  obtain ⟨y, hy, hmeet⟩ := List.any_eq_true.1 h
  exact List.any_eq_true.2 ⟨y, hpq hy, hmeet⟩

theorem MemState.poisoned_of_granHas {m : MemState} {a n : Nat} (h : granHas 64 m.poison a n = true) : m.poisoned a n = true := by
  unfold MemState.poisoned
  rw [h, Bool.true_or]

/-! ## Retirement of a pseudo-channel (R424, R425) -/

section
variable {s : State} {k pc : Nat}

theorem retirePc_again (h : bit (mget s.mem.retired k 0) pc = true) : s.retirePc k pc = s := if_pos h

theorem retirePc_spec (h : bit (mget s.mem.retired k 0) pc = false) : let t := s.retirePc k pc
    t.mem = { s.mem with retired := mput s.mem.retired k (mget s.mem.retired k 0 + 2 ^ pc) } ∧ t.dev = { s.dev with memDegraded := true } ∧
      ∃ uid, t.errGlobal = s.errGlobal.push 32768 (s.mkRec St.memPcRetired 0 (vaultAgent (k / 2)) uid (k * stackWindow + pc * 4096) true) := by
  unfold State.retirePc
  rw [if_neg (by simp [h])]
  extract_lets d x s1 s2 arg us s3
  have ks : Kept 0x2080240000 s1 s3 := Kept.foldl (fun u q => (kept_raiseU u q ..).mono (by decide)) ((kept_holePages ..).mono (by decide))
  have hg := kept_raiseG s3 St.memPcRetired arg (vaultAgent (k / 2)) (us.headD 0xFFFF) true
  refine ⟨(hg.mem_eq (by decide)).trans (ks.mem_eq (by decide)), (hg.dev_eq (by decide)).trans (ks.dev_eq (by decide)), us.headD 0xFFFF, ?_⟩
  rw [raiseG_errGlobal, ks.errGlobal_eq (by decide), mkRec_congr (ks.frm_eq (by decide)) (ks.now_eq (by decide))]
  rfl

theorem retirePc_mem (s : State) (k pc : Nat) : ∃ rt, (s.retirePc k pc).mem = { s.mem with retired := rt } := by
  cases h : bit (mget s.mem.retired k 0) pc with
  | true => exact ⟨s.mem.retired, by rw [retirePc_again h]⟩
  | false => exact ⟨_, (retirePc_spec h).1⟩

end

/-- Settles O9: a first retirement holes pages, tells the units and leaves its record; a second finds the bit set. -/
theorem pcRetireSetsStatusBit : Obligations.PcRetireSetsStatusBit := by
  unfold Obligations.PcRetireSetsStatusBit
  intro k pc s hrun
  have hexec : exec (.pcRetire k pc) s = .next (s.retirePc k.val pc.val) := unlessDown_of_running hrun _
  rw [hexec]
  refine ⟨fun hset => by rw [retirePc_again hset], fun hclear => ?_⟩
  obtain ⟨hmem, hdev, uid, hrec⟩ := retirePc_spec hclear
  have hk := kept_retirePc s k.val pc.val
  exact ⟨_, uid, rfl, hmem, hdev, hrec, hk.beads_eq (by decide), hk.units_eq (by decide), hk.sessions_eq (by decide),
    hk.clasps_eq (by decide), hk.set_eq (by decide)⟩

/-! ## Errors of a line (R416, R421, R422) -/

theorem stackOf_line (k : Fin 16) {o : Nat} (h : o < stackWindow) : stackOf (k.val * stackWindow + o) = some k.val := by
  unfold stackWindow at h
  unfold stackOf stackWindow
  rw [if_pos (by omega), show (k.val * 0xC00000000 + o) / 0xC00000000 = k.val by omega]

theorem stackBytes_le : stackBytes ≤ stackWindow := by decide

section
variable {s : State} {k pa : Nat}

theorem noteCe_mem (h : stackOf pa = some k) : (s.noteCe pa).mem = { s.mem with ce := mcount s.mem.ce k 1 } := by
  unfold State.noteCe
  rw [h]
  dsimp only
  split
  · exact (kept_raiseG ..).mem_eq (by decide)
  · rfl

theorem noteUe_mem (h : stackOf pa = some k) :
    ∃ ts rt, (s.noteUe pa).mem = { s.mem with ue := mcount s.mem.ue k 1, ueTimes := ts, retired := rt } := by
  unfold State.noteUe
  rw [h]
  dsimp only
  split
  · obtain ⟨rt, hrt⟩ := retirePc_mem _ k (pcOf (pa % stackWindow))
    exact ⟨_, rt, hrt⟩
  · exact ⟨_, _, rfl⟩

end

/-- The scrubber has read a line of stack `k` (R421): the stack is awake (R659). -/
def State.scrubRead (s : State) (k : Nat) : State :=
  { s with mem := { s.mem with scrubBytes := mcount s.mem.scrubBytes k 64, selfRefresh := sDel k s.mem.selfRefresh } }

/-- The scrubber has found an uncorrectable error in a line of stack `k`: the line is poisoned, its owners are told, its page is retired
or marked where nobody holds it (R422), and the error is counted. -/
def State.scrubUe (s : State) (k pa : Nat) : State :=
  (((s.memMark pa 64).tellOwners (s.ownersAt pa) St.memUeScrub pa (vaultAgent (k / 2))).scrubPage pa).noteUe pa

theorem scrubUe_mem {s : State} {k pa : Nat} (h : stackOf pa = some k) : ∃ ts rt, ((s.scrubRead k).scrubUe k pa).mem = { (s.scrubRead k).mem with
    poison := granMark 64 s.mem.poison pa 64, ue := mcount s.mem.ue k 1, ueTimes := ts, retired := rt } := by
  obtain ⟨ts, rt, hmem⟩ := noteUe_mem (s := ((((s.scrubRead k).memMark pa 64).tellOwners ((s.scrubRead k).ownersAt pa) St.memUeScrub pa
    (vaultAgent (k / 2))).scrubPage pa)) h
  rw [(kept_scrubPage ..).mem_eq (by decide), (kept_tellOwners ..).mem_eq (by decide)] at hmem
  exact ⟨ts, rt, hmem⟩

/-- An error in the system reserve has its own consequences (R437), none of them in memory. -/
theorem reserveTold_mem (s : State) (pa src : Nat) :
    (if inReserve pa then (s.reserveError pa).raiseG St.memUe pa src else s).mem = s.mem := by
  split
  · rw [(kept_raiseG ..).mem_eq (by decide), (kept_reserveError ..).mem_eq (by decide)]
  · rfl

theorem scrub_none (s : State) (k n : Nat) : s.scrub k n .none = s.scrubRead k := ite_self _

section
variable {s : State} {k : Fin 16} {n : Nat}

theorem scrub_skips (h : stackBytes ≤ n * 64 ∨ s.mem.poisoned (k.val * stackWindow + n * 64) 1 = true) (e : MemErr) :
    s.scrub k n e = s.scrubRead k := if_pos h

variable (h : ¬ (stackBytes ≤ n * 64 ∨ s.mem.poisoned (k.val * stackWindow + n * 64) 1 = true))
include h

theorem stackOf_scrubbed : stackOf (k.val * stackWindow + n * 64) = some k.val :=
  stackOf_line k ((Nat.lt_of_not_le fun hn => h (.inl hn)).trans_le stackBytes_le)

theorem scrub_correctable : s.scrub k n .correctable = (s.scrubRead k).noteCe (k.val * stackWindow + n * 64) := if_neg h

theorem scrub_uncorrectable : s.scrub k n .uncorrectable =
    if inReserve (k.val * stackWindow + n * 64) then
      (((s.scrubRead k).scrubUe k (k.val * stackWindow + n * 64)).reserveError (k.val * stackWindow + n * 64)).raiseG St.memUe
        (k.val * stackWindow + n * 64) (vaultAgent (k.val / 2))
    else (s.scrubRead k).scrubUe k (k.val * stackWindow + n * 64) := if_neg h

theorem scrub_correctable_mem : (s.scrub k n .correctable).mem = { (s.scrubRead k).mem with ce := mcount s.mem.ce k.val 1 } := by
  rw [scrub_correctable h]
  exact noteCe_mem (stackOf_scrubbed h)

theorem scrub_uncorrectable_mem : ∃ ts rt, (s.scrub k n .uncorrectable).mem = { (s.scrubRead k).mem with
    poison := granMark 64 s.mem.poison (k.val * stackWindow + n * 64) 64, ue := mcount s.mem.ue k.val 1, ueTimes := ts, retired := rt } := by
  obtain ⟨ts, rt, hmem⟩ := scrubUe_mem (s := s) (stackOf_scrubbed h)
  exact ⟨ts, rt, by rw [scrub_uncorrectable h, reserveTold_mem, hmem]⟩

end

/-- The scrubber counts, corrects or poisons, and stores no byte. -/
theorem scrub_ram (s : State) (k : Fin 16) (n : Nat) (e : MemErr) : (s.scrub k n e).mem.ram = s.mem.ram := by
  by_cases h : stackBytes ≤ n * 64 ∨ s.mem.poisoned (k.val * stackWindow + n * 64) 1 = true
  · rw [scrub_skips h]
    rfl
  · cases e with
    | none => rw [scrub_none]; rfl
    | correctable => rw [scrub_correctable_mem h]; rfl
    | uncorrectable =>
      obtain ⟨ts, rt, hmem⟩ := scrub_uncorrectable_mem h
      rw [hmem]
      rfl

/-- Settles O10: the read counts and wakes the stack; an error of a sound line is counted, or marked and counted, and what is told of it
touches no byte. -/
theorem scrubLineCountsAndPoisons : Obligations.ScrubLineCountsAndPoisons := by
  unfold Obligations.ScrubLineCountsAndPoisons
  intro k n s hrun u
  have hexec (e : MemErr) : exec (.scrubLine k.val n e) s = .next (s.scrub k n e) :=
    (unlessDown_of_running hrun _).trans (congrArg _ (if_pos k.isLt))
  refine ⟨by rw [hexec, scrub_none]; rfl, fun e => ⟨_, hexec e, scrub_ram s k n e, (kept_scrub ..).beads_eq (by decide),
    (kept_scrub ..).clasps_eq (by decide), fun h => scrub_skips h e, fun hn hclean => ?sound⟩⟩
  have h : ¬ (stackBytes ≤ n * 64 ∨ s.mem.poisoned (k.val * stackWindow + n * 64) 1 = true) := by
    rw [hclean, or_iff_left Bool.false_ne_true]
    exact Nat.not_le.2 hn
  refine ⟨?corrected, ?poisoned⟩
  case corrected =>
    rintro rfl
    exact scrub_correctable_mem h
  case poisoned =>
    rintro rfl
    obtain ⟨ts, rt, hmem⟩ := scrub_uncorrectable_mem h
    refine ⟨MemState.poisoned_of_granHas ?_, ts, rt, hmem⟩
    rw [hmem]
    exact granHas_granMark _ (Nat.le_refl _) (by omega)

/-! ## Granules of a die's SRAM (R422) -/

/-- `t` comes from `s` with more poison and no other byte, element or setting. -/
structure OnlyMarks (s t : State) : Prop where
  ram : t.mem.ram = s.mem.ram
  lines : s.mem.poison ⊆ t.mem.poison
  bytes : ∀ b, (t.bead b).sp = (s.bead b).sp ∧ (t.bead b).acc = (s.bead b).acc
  granules : ∀ b, (s.bead b).spPoison ⊆ (t.bead b).spPoison
  set : t.set = s.set

namespace OnlyMarks

theorem refl (s : State) : OnlyMarks s s := ⟨rfl, List.Subset.refl _, fun _ => ⟨rfl, rfl⟩, fun _ => List.Subset.refl _, rfl⟩

theorem trans {s t u : State} (h : OnlyMarks s t) (k : OnlyMarks t u) : OnlyMarks s u where
  ram := k.ram.trans h.ram
  lines := List.Subset.trans h.lines k.lines
  bytes b := ⟨(k.bytes b).1.trans (h.bytes b).1, (k.bytes b).2.trans (h.bytes b).2⟩
  granules b := List.Subset.trans (h.granules b) (k.granules b)
  set := k.set.trans h.set

theorem foldl {α : Type} {f : State → α → State} (hf : ∀ s a, OnlyMarks s (f s a)) (l : List α) (s : State) : OnlyMarks s (l.foldl f s) :=
  List.foldlRecOn (motive := OnlyMarks s) l f (refl s) fun t h a _ => h.trans (hf t a)

theorem memMark (s : State) (a n : Nat) : OnlyMarks s (s.memMark a n) :=
  { refl s with lines := fun _ hy => mem_granMark_of_mem hy }

theorem spMark (s : State) (b a n : Nat) : OnlyMarks s (s.updBead b (fun x => x.spMark a n)) where
  ram := rfl
  lines := List.Subset.refl _
  bytes c := by
    rw [updBead_bead]
    split
    · rename_i h; rw [h]; exact ⟨rfl, rfl⟩
    · exact ⟨rfl, rfl⟩
  granules c y hy := by
    rw [updBead_bead]
    split
    · rename_i h; rw [h] at hy; exact mem_granMark_of_mem hy
    · exact hy
  set := rfl

/-- The records of an error tell of it and mark nothing. -/
theorem tell (s : State) (us : List Nat) (status arg src : Nat) : OnlyMarks s (s.tellOwners us status arg src) := by
  have k := kept_tellOwners s us status arg src
  have hmem := k.mem_eq (by decide)
  have hbead := k.bead_eq (by decide)
  exact ⟨by rw [hmem], by rw [hmem]; exact List.Subset.refl _, fun b => by rw [hbead]; exact ⟨rfl, rfl⟩,
    fun b => by rw [hbead]; exact List.Subset.refl _, k.set_eq (by decide)⟩

/-- What was poisoned stays so. -/
theorem spBad {s t : State} (h : OnlyMarks s t) {b a n : Nat} (hbad : (s.bead b).spBad a n = true) : (t.bead b).spBad a n = true :=
  granHas_mono (h.granules b) hbad

end OnlyMarks

section
variable (s : State) (die : Nat) {g : Nat × Nat}

/-- A bad granule of a bead's scratchpad: a mark and its records. -/
theorem sramBad_bead (hblock : g.1 < 20) (hoff : g.2 < 0x600000) : ∃ us arg src, s.sramBad die g =
    (s.updBead (die * 20 + g.1) (fun x => x.spMark (g.2 / 32 * 32) 32)).tellOwners us St.memUeScrub arg src :=
  ⟨_, _, _, (if_pos hblock).trans (if_neg (Nat.not_le.2 hoff))⟩

/-- A bad line of the vault partition: a mark and its records. -/
theorem sramBad_vault (hvault : 20 ≤ g.1) (hoff : g.2 < s.set.cur.vaultLen die) : ∃ us arg src, s.sramBad die g =
    (s.memMark (vaultBase + die * 2 ^ 32 + g.2 / 64 * 64) 64).tellOwners us St.memUeScrub arg src :=
  ⟨_, _, _, (if_neg (Nat.not_lt.2 hvault)).trans (if_neg (Nat.not_le.2 hoff))⟩

theorem sramBad_outside (h : g.1 < 20 ∧ 0x600000 ≤ g.2 ∨ 20 ≤ g.1 ∧ s.set.cur.vaultLen die ≤ g.2) : s.sramBad die g = s := by
  obtain ⟨hblock, hoff⟩ | ⟨hvault, hoff⟩ := h
  · exact (if_pos hblock).trans (if_pos hoff)
  · exact (if_neg (Nat.not_lt.2 hvault)).trans (if_pos hoff)

theorem sramBad_onlyMarks (g : Nat × Nat) : OnlyMarks s (s.sramBad die g) := by
  by_cases hblock : g.1 < 20
  · by_cases hoff : g.2 < 0x600000
    · obtain ⟨us, arg, src, h⟩ := sramBad_bead s die hblock hoff
      rw [h]
      exact (OnlyMarks.spMark ..).trans (.tell ..)
    · rw [sramBad_outside s die (.inl ⟨hblock, Nat.le_of_not_lt hoff⟩)]
      exact .refl s
  · have hvault := Nat.le_of_not_lt hblock
    by_cases hoff : g.2 < s.set.cur.vaultLen die
    · obtain ⟨us, arg, src, h⟩ := sramBad_vault s die hvault hoff
      rw [h]
      exact (OnlyMarks.memMark ..).trans (.tell ..)
    · rw [sramBad_outside s die (.inr ⟨hvault, Nat.le_of_not_lt hoff⟩)]
      exact .refl s

theorem sramBad_spBad (hblock : g.1 < 20) (hoff : g.2 < 0x600000) : ((s.sramBad die g).bead (die * 20 + g.1)).spBad g.2 1 = true := by
  obtain ⟨us, arg, src, h⟩ := sramBad_bead s die hblock hoff
  rw [h]
  refine (OnlyMarks.tell ..).spBad ?_
  rw [updBead_bead_same]
  exact granHas_granMark _ (by omega) (by omega)

theorem sramBad_line (hvault : 20 ≤ g.1) (hoff : g.2 < s.set.cur.vaultLen die) :
    granHas 64 (s.sramBad die g).mem.poison (vaultBase + die * 2 ^ 32 + g.2) 1 = true := by
  obtain ⟨us, arg, src, h⟩ := sramBad_vault s die hvault hoff
  rw [h]
  refine granHas_mono (OnlyMarks.tell ..).lines ?_
  exact granHas_granMark _ (by omega) (by omega)

/-- The scrub of the granules of a list comes to each of them, and only adds marks before and after. -/
theorem sramBads_at {bad : List (Nat × Nat)} (hg : g ∈ bad) :
    ∃ u, OnlyMarks s u ∧ OnlyMarks (u.sramBad die g) (bad.foldl (fun s g => s.sramBad die g) s) := by
  obtain ⟨before, after, rfl⟩ := List.append_of_mem hg
  rw [List.foldl_append, List.foldl_cons]
  exact ⟨_, .foldl (sramBad_onlyMarks · die) before s, .foldl (sramBad_onlyMarks · die) after _⟩

end

/-- Settles O11: each granule of the list is marked in its turn, and the other granules only add marks. -/
theorem sramScrubPoisonsBadGranules : Obligations.SramScrubPoisonsBadGranules := by
  unfold Obligations.SramScrubPoisonsBadGranules
  intro die bad s hrun
  have hall := OnlyMarks.foldl (sramBad_onlyMarks · die.val) bad s
  refine ⟨_, unlessDown_of_running hrun _, hall.ram, hall.bytes, fun g hg hblock hoff => ?bead, fun g hg hvault hoff => ?vault, fun _ _ => hall.spBad⟩
  case bead =>
    obtain ⟨u, -, hafter⟩ := sramBads_at s die.val hg
    exact hafter.spBad (sramBad_spBad u die.val hblock hoff)
  case vault =>
    obtain ⟨u, hbefore, hafter⟩ := sramBads_at s die.val hg
    exact MemState.poisoned_of_granHas (granHas_mono hafter.lines (sramBad_line u die.val hvault (by rwa [hbefore.set])))

end Sys2Proof.Machine
end

section
/-! PROOF. The end of a quarantine (R425, R439), and O12. -/

namespace Sys2Proof.Machine

/-- `t` comes from `s` by changes to the pages, the lists and the count of retired pages alone. -/
def PagesOnly (s t : State) : Prop := ∃ pages lists ret, t = { s with bpm := { s.bpm with pages := pages, lists := lists, retired := ret } }

namespace PagesOnly

theorem refl (s : State) : PagesOnly s s := ⟨_, _, _, rfl⟩

theorem trans {s t u : State} (h : PagesOnly s t) (k : PagesOnly t u) : PagesOnly s u := by
  obtain ⟨_, _, _, rfl⟩ := h
  obtain ⟨_, _, _, rfl⟩ := k
  exact ⟨_, _, _, rfl⟩

theorem foldl {α : Type} {f : State → α → State} (hf : ∀ s a, PagesOnly s (f s a)) (l : List α) (s : State) : PagesOnly s (l.foldl f s) :=
  List.foldlRecOn (motive := PagesOnly s) l f (refl s) fun t h a _ => h.trans (hf t a)

end PagesOnly

theorem retirePage_pagesOnly (s : State) (f : Nat) : PagesOnly s (s.retirePage f) := by
  unfold State.retirePage
  dsimp only
  split
  · exact .refl s
  · exact ⟨_, _, _, rfl⟩

theorem endQuarantine_pagesOnly (s : State) (f : Nat) : PagesOnly s (s.endQuarantine f) := by
  unfold State.endQuarantine
  dsimp only
  split
  · split
    · exact retirePage_pagesOnly s f
    · exact ⟨_, _, _, rfl⟩
  · exact .refl s

/-- A page after the end of its quarantine, with `runs` telling which slices still run (R425, R439). -/
def Page.released (runs : Nat → Bool) (p : Page) : Page :=
  if p.state = .quarantine ∧ p.waitsFor.any runs = false then
    if p.mark = true ∨ p.holed = true then { p with state := .retired, head := false, mark := false }
    else { p with state := .free, owner := 0, waitsFor := [], link := 0 }
  else p

namespace Page
variable {runs : Nat → Bool} {p : Page}

theorem released_of_held (h : p.state ≠ .quarantine ∨ p.waitsFor.any runs = true) : p.released runs = p :=
  if_neg fun ⟨hq, hw⟩ => h.elim (· hq) fun hr => Bool.false_ne_true (hw.symm.trans hr)

theorem released_retired (hq : p.state = .quarantine) (hw : p.waitsFor.any runs = false) (h : p.mark = true ∨ p.holed = true) :
    p.released runs = { p with state := .retired, head := false, mark := false } := (if_pos ⟨hq, hw⟩).trans (if_pos h)

theorem released_free (hq : p.state = .quarantine) (hw : p.waitsFor.any runs = false) (hm : p.mark = false) (hh : p.holed = false) :
    p.released runs = { p with state := .free, owner := 0, waitsFor := [], link := 0 } := (if_pos ⟨hq, hw⟩).trans (if_neg (by simp [hm, hh]))

/-- A page leaves its quarantine once. -/
theorem released_released (runs : Nat → Bool) (p : Page) : (p.released runs).released runs = p.released runs := by
  by_cases hrel : p.state = .quarantine ∧ p.waitsFor.any runs = false
  · obtain ⟨hq, hw⟩ := hrel
    by_cases h : p.mark = true ∨ p.holed = true
    · rw [released_retired hq hw h]
      exact released_of_held (.inl (by simp))
    · rw [not_or, Bool.not_eq_true, Bool.not_eq_true] at h
      rw [released_free hq hw h.1 h.2]
      exact released_of_held (.inl (by simp))
  · have : p.released runs = p := if_neg hrel
    rw [this, this]

end Page

theorem retirePage_page {s : State} {g : Nat} (h : (s.page g).state ≠ .retired) (f : Nat) : (s.retirePage g).page f =
    if f = g then { s.page g with state := .retired, head := false, mark := false } else s.page f := by
  unfold State.retirePage
  dsimp only
  rw [if_neg h]
  exact mget_mput ..

theorem endQuarantine_page (s : State) (g f : Nat) :
    (s.endQuarantine g).page f = if f = g then (s.page g).released s.sliceRuns else s.page f := by
  unfold State.endQuarantine Page.released
  simp only [Bool.not_eq_eq_eq_not, Bool.not_true]
  split
  · rename_i hq
    split
    · exact retirePage_page (by simp [hq.1]) f
    · exact setPage_page ..
  · split
    · rename_i e; rw [e]
    · rfl

theorem endQuarantine_sliceRuns (s : State) (f : Nat) : (s.endQuarantine f).sliceRuns = s.sliceRuns := by
  obtain ⟨_, _, _, h⟩ := endQuarantine_pagesOnly s f
  rw [h]
  rfl

/-- Whether a page comes up once or more, its quarantine ends as it would alone. -/
theorem endQuarantines_page (fs : List Nat) (s : State) (f : Nat) :
    (fs.foldl State.endQuarantine s).page f = if f ∈ fs then (s.page f).released s.sliceRuns else s.page f := by
  induction fs generalizing s with
  | nil => simp
  | cons g t ih =>
    rw [List.foldl_cons, ih, endQuarantine_page, endQuarantine_sliceRuns]
    by_cases hfg : f = g
    · subst hfg
      simp [Page.released_released]
    · simp [hfg]

section
variable {s : State} {pool : Nat} (hrun : s.halted = false)
include hrun

theorem exec_quarantineEnd_none (h : s.set.cur.pools[pool]? = none) : exec (.quarantineEnd pool) s = .next s := by
  refine (unlessDown_of_running hrun _).trans ?_
  rw [h]

theorem exec_quarantineEnd_some {p : PoolRec} (h : s.set.cur.pools[pool]? = some p) :
    exec (.quarantineEnd pool) s = .next (((s.usedIn p).map (·.1)).foldl State.endQuarantine s).dropLists := by
  refine (unlessDown_of_running hrun _).trans ?_
  rw [h]

end

/-- Settles O12: the pages in use of the pool leave their quarantine one after the other, each as it would alone. -/
theorem quarantineEndFreesSettledPages : Obligations.QuarantineEndFreesSettledPages := by
  unfold Obligations.QuarantineEndFreesSettledPages
  intro pool s hrun
  refine ⟨exec_quarantineEnd_none hrun, fun p hp => ?_⟩
  have hpage := endQuarantines_page ((s.usedIn p).map (·.1)) s
  obtain ⟨pages, lists, ret, ht⟩ := PagesOnly.foldl endQuarantine_pagesOnly ((s.usedIn p).map (·.1)) s
  rw [exec_quarantineEnd_some hrun hp]
  rw [ht] at hpage ⊢
  change ∀ f, mget pages f {} = _ at hpage
  refine ⟨pages, _, ret, rfl, fun f hheld => ?held, fun f hno => ?outside, fun x hx hq hw => ⟨fun hmark => ?retired, fun hm hh => ?freed⟩⟩
  case held => rw [hpage, Page.released_of_held hheld, ite_self]
  case outside => rw [hpage, if_neg (by simpa using fun q hq => hno (f, q) hq rfl)]
  case retired => rw [hpage, if_pos (List.mem_map_of_mem hx), Page.released_retired hq hw hmark]
  case freed => rw [hpage, if_pos (List.mem_map_of_mem hx), Page.released_free hq hw hm hh]

end Sys2Proof.Machine
end

section
/-! PROOF. The failure of a collective (R532, R534). -/

namespace Sys2Proof.Machine

/-! ## On the way to a failure -/

/-- `t` comes from `s` by records of faults, notes in the slice and flags of clasps: what precedes the failure of slice `sl` of unit `uid`. -/
structure Faults (s t : State) (uid : Nat) (sl : Slice) : Prop where
  slice : ∃ sl', (t.unitSt uid).slice = some sl' ∧ sl'.beads = sl.beads ∧ sl'.header = sl.header
  others : ∀ v, v ≠ uid → (t.unitSt v).slice = (s.unitSt v).slice
  wakes : Wakes s t
  frame : SameBut failParts s t

namespace Faults
variable {s t u : State} {uid : Nat} {sl : Slice}

theorem refl (h : (s.unitSt uid).slice = some sl) : Faults s s uid sl := ⟨⟨sl, h, rfl, rfl⟩, fun _ _ => rfl, .refl s, .refl _ s⟩

theorem step (h : Faults s t uid sl) (hu : ∀ v, u.unitSt v = t.unitSt v) (hw : Wakes t u) (hf : SameBut failParts t u) : Faults s u uid sl where
  slice := hu uid ▸ h.slice
  others v hv := hu v ▸ h.others v hv
  wakes := h.wakes.trans hw
  frame := h.frame.trans hf

theorem leafRecs (h : Faults s t uid sl) (ps : List CollPart) (f : Flt) :
    Faults s (ps.foldl (fun s p => s.leafRec p.bead p.rank p.idx f false) t) uid sl := by
  have k := kept_foldl ps (fun s p => s.leafRec p.bead p.rank p.idx f false) (fun s _ => kept_leafRec s ..) t
  exact h.step (k.unitSt_eq (by decide)) (.of (k.beads_eq (by decide)) (k.clasps_eq (by decide))) (k.sameBut _ (by intro p; cases p <;> decide))

theorem noteFault (h : Faults s t uid sl) (f : SliceFault) : Faults s (t.updSlice uid (·.noteFault f)) uid sl := by
  obtain ⟨sl', hs, hb, hh⟩ := h.slice
  obtain ⟨hn, ho⟩ := noteFault_slice t uid f hs
  exact ⟨⟨sl'.noteFault f, hn, hb, hh⟩, fun v hv => (ho v hv).trans (h.others v hv), h.wakes.trans (.of rfl rfl),
    h.frame.trans ((kept_updSlice ..).sameBut _ (by intro p; cases p <;> decide))⟩

theorem opFail (h : Faults s t uid sl) (id : Nat) : Faults s (t.opFail id) uid sl :=
  h.step ((kept_opFail t id).unitSt_eq (by decide)) (wakes_opFail t id) ((kept_opFail t id).sameBut _ (by intro p; cases p <;> decide))

theorem flagged (h : Faults s t uid sl) (c : Prop) [Decidable c] {id : Nat} : Faults s (if c then t else t.opFail id) uid sl := by
  split
  · exact h
  · exact h.opFail id

theorem fails (h : Faults s t uid sl) (o : Nat) (d : Option Nat) (status : Nat) :
    SliceFails s ((t.failSlice uid o d).fedLocal uid status) uid sl := by
  obtain ⟨sl', hs, hb, hh⟩ := h.slice
  exact .before h.wakes h.frame hb hh h.others (failFed_fails hs o d status)

end Faults

/-- A collective that fails takes the slice of its unit with it. -/
theorem failColl_fails {s : State} {uid : Nat} {sl : Slice} (h : (s.unitSt uid).slice = some sl) (i status : Nat) :
    SliceFails s (s.failColl uid i status) uid sl := by
  unfold State.failColl
  rw [h]
  dsimp only
  have hrec := (Faults.refl h).leafRecs (s.coll i).parts ⟨status, 0, (s.coll i).seq⟩
  generalize (s.coll i).parts.foldl _ s = u at hrec ⊢
  split
  · exact (hrec.flagged _).fails ..
  · exact ((hrec.noteFault _).flagged _).fails ..

end Sys2Proof.Machine
end

section
/-! PROOF. The transfers of the Filigree at their targets (R288, R416, R420, R449, R461 to R463), and O46. -/

namespace Sys2Proof.Machine

/-! ## Tags, responses and what they keep -/

section
variable (s : State) (x : Xfer)

theorem respond_fil : (s.respond x).fil = { s.fil with inFlight := s.fil.inFlight ++ [x] } := rfl

theorem takeTag_eq : s.takeTag x = { s with fil := { s.fil with outstanding := (s.takeTag x).fil.outstanding } } := by
  unfold State.takeTag
  split <;> rfl

/-- A transfer has arrived and holds its tag. -/
def State.accepted : State := (s.arrive x).takeTag x

theorem kept_accepted : Kept 0x80000 s (s.accepted x) := .of (kept_takeTag ..) (kept_arrive s x)

theorem accepted_eq : s.accepted x = { s with fil := (s.accepted x).fil } := by
  unfold State.accepted
  rw [takeTag_eq]
  rfl

theorem accepted_inFlight : (s.accepted x).fil.inFlight = s.fil.inFlight.erase x := by
  unfold State.accepted
  rw [takeTag_eq]
  rfl

end

/-- Only the fabric changes. -/
theorem sameBut_fil (s : State) (f : FilState) : SameBut [.fil] s { s with fil := f } := Part.forall.2 (by simp [Part.same])

theorem sameBut_mem_fil (s : State) (m : MemState) (f : FilState) : SameBut [.mem, .fil] s { s with mem := m, fil := f } :=
  Part.forall.2 (by simp [Part.same])

theorem readMeets_none (s : State) (src pa : Nat) : s.readMeets src pa .none = s := ite_self _

/-! ## RD -/

/-- The RD_DATA that answers a read, with the lines as the state holds them. -/
def State.rdDataOf (s : State) (x : Xfer) : Xfer :=
  { op := .rdData, vc := x.vc, cls := x.cls, len := (rdLines x).length, src := x.dst, dst := x.src, tag := x.tag, addr := x.addr / 64 * 64
    data := ((rdLines x).flatMap (fun a => s.mem.readP a 64)).map (·.1), poison := (rdLines x).map (fun a => s.mem.poisoned a 64) }

theorem rdDataOf_data (s : State) (x : Xfer) : (s.rdDataOf x).data = (rdLines x).flatMap (fun a => s.mem.ram.readN a 64) := by
  change ((rdLines x).flatMap _).map _ = _
  rw [List.map_flatMap]
  exact congrArg (List.flatMap · _) (funext fun a => readP_bytes ..)

section
variable {s : State} {x : Xfer}

theorem rdAt_reset (h : s.fil.underReset.contains x.dst = true) (e : MemErr) : s.rdAt x e = s.arrive x := if_pos h

theorem rdAt_reads (hr : ¬ s.fil.underReset.contains x.dst = true) (hp : (rdLines x).all (fun a => populated s.set.cur a) = true) (e : MemErr) :
    s.rdAt x e = (((s.accepted x).readMeets x.src ((rdLines x).headD 0) e).respond
      (((s.accepted x).readMeets x.src ((rdLines x).headD 0) e).rdDataOf x)) := by
  refine (if_neg hr).trans (if_neg ?_)
  change ¬ (!(rdLines x).all (fun a => populated s.set.cur a)) = true
  rw [hp]
  decide

/-- A read answers with its lines; where it meets no error the answer holds their bytes and nothing else changes. -/
theorem rdAt_spec (hr : ¬ s.fil.underReset.contains x.dst = true) (hp : (rdLines x).all (fun a => populated s.set.cur a) = true) (e : MemErr) :
    ∃ w : State, s.rdAt x e = w.respond (w.rdDataOf x) ∧ w.fil = (s.accepted x).fil ∧ (e = .none → w = s.accepted x) :=
  ⟨_, rdAt_reads hr hp e, (kept_readMeets ..).fil_eq (by decide), fun he => by rw [he, readMeets_none]⟩

/-! ## Writes at the home vault (R420) -/

theorem memMarks_eq (a : Nat) (l : List (Nat × PByte)) (s : State) :
    ∃ p, l.foldl (fun s p => if p.2.2 then s.memMark (a + p.1) 1 else s) s = { s with mem := { s.mem with poison := p } } := by
  induction l generalizing s with
  | nil => exact ⟨s.mem.poison, rfl⟩
  | cons b t ih =>
    rw [List.foldl_cons]
    obtain ⟨p, hp⟩ := ih (if b.2.2 then s.memMark (a + b.1) 1 else s)
    refine ⟨p, hp.trans ?_⟩
    split <;> rfl

/-- A write that meets no error stores its bytes on the pseudo-channels in service and touches no other byte. -/
theorem vaultWrite_none (s : State) (src a : Nat) (bs : List PByte) : ∃ m, s.vaultWrite src a bs .none = { s with mem := m } ∧
    (∀ k, k < bs.length → s.mem.retiredAt (a + k) = false → m.ram.read (a + k) = (bs.map (·.1)).getD k 0) ∧
    (∀ y, y < a ∨ a + bs.length ≤ y → m.ram.read y = s.mem.ram.read y) := by
  have hread : s.vaultWrite src a bs .none =
      ((List.range bs.length).zip bs).foldl (fun s p => if p.2.2 then s.memMark (a + p.1) 1 else s) (s.memWrite a (bs.map (·.1))) := by
    unfold State.vaultWrite
    split
    · rfl
    · rw [readMeets_none]
  obtain ⟨p, hp⟩ := memMarks_eq a ((List.range bs.length).zip bs) (s.memWrite a (bs.map (·.1)))
  refine ⟨_, hread.trans hp, fun k hk hr => ?_, fun y hy => ?_⟩
  · exact MemState.putBytes_at s.mem a (bs.map (·.1)) (by rwa [List.length_map]) hr
  · exact MemState.write_other s.mem a y (bs.map (·.1)) (by rwa [List.length_map])

theorem xferBytes_bytes (x : Xfer) : (xferBytes x).map (·.1) = x.data := by
  unfold xferBytes
  rw [List.map_map]
  exact List.map_snd_zip (by simp)

theorem length_xferBytes (x : Xfer) : (xferBytes x).length = x.data.length := by
  rw [← congrArg List.length (xferBytes_bytes x), List.length_map]

/-- A write that meets no error, with its acknowledgement. -/
theorem vaultWrite_acked (s : State) {x : Xfer} {bs : List PByte} (hlen : bs.length = x.data.length) :
    let t := ((s.accepted x).vaultWrite x.src x.addr bs .none).respond (ackOf x 0)
    SameBut [.mem, .fil] s t ∧ t.fil = ((s.accepted x).respond (ackOf x 0)).fil ∧
      (∀ k, k < x.data.length → s.mem.retiredAt (x.addr + k) = false → t.mem.ram.read (x.addr + k) = (bs.map (·.1)).getD k 0) ∧
      (∀ y, y < x.addr ∨ x.addr + x.data.length ≤ y → t.mem.ram.read y = s.mem.ram.read y) := by
  obtain ⟨m, hm, hat, hother⟩ := vaultWrite_none (s.accepted x) x.src x.addr bs
  rw [accepted_eq] at hm hat hother
  rw [hlen] at hat hother
  rw [accepted_eq, hm]
  exact ⟨sameBut_mem_fil s m _, rfl, hat, hother⟩

/-! ## WR and ADD -/

/-- The lines that a write touches are populated. -/
def State.fits (s : State) (x : Xfer) : Prop := (granules 64 x.addr x.data.length).all (fun g => populated s.set.cur (g * 64)) = true

theorem State.fits.not_unpopulated (h : s.fits x) :
    ¬ (!(granules 64 x.addr x.data.length).all (fun g => populated (s.arrive x).set.cur (g * 64))) = true := by
  rw [show (granules 64 x.addr x.data.length).all (fun g => populated (s.arrive x).set.cur (g * 64)) = true from h]
  decide

theorem wrAt_abandoned (h : x.abandon = true) (e : MemErr) : s.wrAt x e = (s.arrive x).abandon x := if_pos h

theorem addAt_abandoned (h : x.abandon = true) (e : MemErr) (fmt : Nat) : s.addAt x e fmt = (s.arrive x).abandon x := if_pos h

theorem wrAt_reset (ha : x.abandon = false) (h : s.fil.underReset.contains x.dst = true) (e : MemErr) :
    s.wrAt x e = (s.accepted x).respond (ackOf x St.filDestReset) :=
  (if_neg (by simp [ha])).trans (if_pos h)

theorem addAt_reset (ha : x.abandon = false) (h : s.fil.underReset.contains x.dst = true) (e : MemErr) (fmt : Nat) :
    s.addAt x e fmt = (s.accepted x).respond (ackOf x St.filDestReset) :=
  (if_neg (by simp [ha])).trans (if_pos h)

/-- The bytes that ADD writes: each element of the destination with the transfer's, in the destination's format (R288). -/
def summed (f : ElemFmt) (m : MemState) (x : Xfer) : List PByte :=
  let n := x.data.length * 8 / f.width
  packP f.width (List.zipWith (addElem f) (unpack f.width n (m.readP x.addr x.data.length)) (unpack f.width n (xferBytes x)))

theorem length_unpack {w : Nat} (h8 : 8 ≤ w) (n : Nat) (bs : List PByte) : (unpack w n bs).length = n := by
  unfold unpack
  rw [if_pos h8, unpackBig_eq, List.length_map, List.length_range]

theorem length_packP {w : Nat} (h8 : 8 ≤ w) (es : List AccElem) : (packP w es).length = w / 8 * es.length := by
  unfold packP
  rw [if_pos h8, List.length_flatMap]
  simp [Nat.mul_comm]

theorem length_summed {f : ElemFmt} (h4 : f = .fp32 ∨ f = .bf16 ∨ f = .fp16 ∨ f = .int32) (m : MemState) {x : Xfer}
    (h : x.data.length * 8 % f.width = 0) : (summed f m x).length = x.data.length := by
  have hw : f.width = 16 ∨ f.width = 32 := by rcases h4 with rfl | rfl | rfl | rfl <;> decide
  have h8 : 8 ≤ f.width := by omega
  unfold summed
  rw [length_packP h8, List.length_zipWith, length_unpack h8, length_unpack h8, Nat.min_self]
  rcases hw with hw | hw <;> rw [hw] at h ⊢ <;> omega

variable (ha : x.abandon = false) (hr : ¬ s.fil.underReset.contains x.dst = true) (hf : s.fits x)
include ha hr hf

theorem wrAt_writes (e : MemErr) :
    s.wrAt x e = ((s.accepted x).vaultWrite x.src x.addr (xferBytes x) e).respond (ackOf x 0) :=
  (if_neg (by simp [ha])).trans ((if_neg hr).trans (if_neg hf.not_unpopulated))

theorem addAt_served (e : MemErr) (fmt : Nat) : s.addAt x e fmt = let w := (s.accepted x).readMeets x.src x.addr e
    match ElemFmt.ofCode fmt with
    | some f => if f = .fp32 ∨ f = .bf16 ∨ f = .fp16 ∨ f = .int32 then (w.vaultWrite x.src x.addr (summed f w.mem x) .none).respond (ackOf x 0)
      else (w.memUndef x.addr x.data.length).respond (ackOf x 0)
    | none => (w.memUndef x.addr x.data.length).respond (ackOf x 0) :=
  (if_neg (by simp [ha])).trans ((if_neg hr).trans (if_neg hf.not_unpopulated))

theorem addAt_adds {fmt : Nat} {f : ElemFmt} (hc : ElemFmt.ofCode fmt = some f) (h4 : f = .fp32 ∨ f = .bf16 ∨ f = .fp16 ∨ f = .int32) :
    s.addAt x .none fmt = ((s.accepted x).vaultWrite x.src x.addr (summed f s.mem x) .none).respond (ackOf x 0) := by
  have hm : (s.accepted x).mem = s.mem := (kept_takeTag ..).mem_eq (by decide)
  rw [addAt_served ha hr hf, readMeets_none, hc, ← hm]
  exact if_pos h4

theorem addAt_undefines {fmt : Nat} (hc : ∀ f, ElemFmt.ofCode fmt = some f → f ≠ .fp32 ∧ f ≠ .bf16 ∧ f ≠ .fp16 ∧ f ≠ .int32) :
    s.addAt x .none fmt = ((s.accepted x).memUndef x.addr x.data.length).respond (ackOf x 0) := by
  rw [addAt_served ha hr hf, readMeets_none]
  dsimp only
  split
  · rename_i f hf'
    exact if_neg (by have := hc f hf'; tauto)
  · rfl

end

/-! ## Responses at the requester (R461 to R463, R532) -/

section
variable {s : State} {x : Xfer}

theorem ackBack_returns (h : s.fil.underReset.contains x.dst = true ∨ x.addr ≠ St.filDestReset ∧ x.addr ≠ St.collMismatch) :
    s.ackBack x = s.dataBack x := by
  by_cases hr : s.fil.underReset.contains x.dst = true
  · exact if_pos hr
  · obtain ⟨hd, hm⟩ := h.resolve_left hr
    exact (if_neg hr).trans ((if_neg hd).trans (if_neg hm))

variable {b uid : Nat} {c : Ctx} {sl : Slice} (hr : ¬ s.fil.underReset.contains x.dst = true) (hb : agentBead x.dst = some b)
include hr hb

theorem ackBack_destReset (hx : x.addr = St.filDestReset) (hc : s.ctx? b = some c) (hs : (s.unitSt c.uid).slice = some sl) :
    SliceFails (s.dataBack x) (s.ackBack x) c.uid sl := by
  have heq : s.ackBack x = (s.dataBack x).faultSender x.dst x.addr := (if_neg hr).trans (if_pos hx)
  have hctx : (s.dataBack x).ctx? b = some c := hc
  rw [heq]
  unfold State.faultSender
  rw [hb]
  dsimp only
  rw [hctx]
  exact failLeaf_fails (s := s.dataBack x) hs ..

theorem ackBack_mismatch (hx : x.addr = St.collMismatch) (hs : s.sliceOf b = some (uid, sl)) (hu : (s.unitSt uid).slice = some sl)
    (hk : ∃ k, k ∈ s.colls ∧ k.slice = sl.serial) : SliceFails (s.dataBack x) (s.ackBack x) uid sl := by
  obtain ⟨i, hi⟩ : ∃ i, s.colls.findIdx? (fun k => k.slice == sl.serial) = some i := by
    rw [← Option.isSome_iff_exists, List.findIdx?_isSome, List.any_eq_true]
    obtain ⟨k, hm, he⟩ := hk
    exact ⟨k, hm, beq_iff_eq.2 he⟩
  have hsl : (some b).bind (s.dataBack x).sliceOf = some (uid, sl) := hs
  have heq : s.ackBack x = (s.dataBack x).failColl uid i St.collMismatch := by
    refine (if_neg hr).trans ((if_neg (by rw [hx]; decide)).trans ((if_pos hx).trans ?_))
    rw [hb, hsl]
    change (match s.colls.findIdx? (fun k => k.slice == sl.serial) with
      | some i => (s.dataBack x).failColl uid i St.collMismatch
      | none => s.dataBack x) = _
    rw [hi]
  rw [heq]
  exact failColl_fails (s := s.dataBack x) hu i _

end

/-! ## The statement -/

/-- Settles O46: each row in the states that the statement names, by what the transfer does at its target and what its response does at the
requester. -/
theorem fabricAccessRowsAct : Obligations.FabricAccessRowsAct := by
  unfold Obligations.FabricAccessRowsAct
  intro x s hrun u v back gone reset ls fits answered
  have hexec {i : Instr} {t w : State} (hi : exec i s = s.unlessDown (.next w)) (hw : w = t) : exec i s = .next t :=
    hi.trans ((unlessDown_of_running hrun _).trans (congrArg _ hw))
  refine ⟨fun e => ⟨fun hr => hexec rfl (rdAt_reset hr e), fun hr hp => ?rd⟩,
    fun e fmt ha => ⟨hexec rfl (wrAt_abandoned ha e), hexec rfl (addAt_abandoned ha e fmt)⟩,
    fun e fmt ha hr => ⟨hexec rfl (wrAt_reset ha hr e), hexec rfl (addAt_reset ha hr e fmt)⟩,
    fun ha hr hf => ⟨?wr, fun e => ?wrErr, fun fmt f hc h4 hlen => ?add, fun fmt hc => ?undef⟩, hexec rfl rfl, hexec rfl rfl,
    fun h => hexec rfl (ackBack_returns h),
    fun b c sl hr hx hb hc hs _ => ⟨_, hexec rfl rfl, ackBack_destReset hr hb hx hc hs⟩,
    fun b uid sl hr hx hb hs hu hk => ⟨_, hexec rfl rfl, ackBack_mismatch hr hb hx hs hu hk⟩⟩
  case rd =>
    obtain ⟨w, hw, hfil, hnone⟩ := rdAt_spec hr hp e
    refine ⟨w.respond (w.rdDataOf x), w.rdDataOf x, hexec rfl hw, ?flight, rfl, rfl, rfl, rfl, rfl, ?tag, fun he => ?bytes⟩
    case tag => rw [respond_fil, hfil]; rfl
    case flight => rw [respond_fil, hfil, accepted_inFlight]
    case bytes =>
      have hs := (hnone he).trans (accepted_eq s x)
      rw [rdDataOf_data, hs]
      exact ⟨sameBut_fil s _, rfl, rfl⟩
  case wr =>
    obtain ⟨hframe, hfil, hat, hother⟩ := vaultWrite_acked s (length_xferBytes x)
    rw [xferBytes_bytes] at hat
    exact ⟨_, hexec rfl (wrAt_writes ha hr hf .none), hframe, hfil, hat, hother⟩
  case wrErr =>
    have hfil := (kept_vaultWrite (s.accepted x) x.src x.addr (xferBytes x) e).fil_eq (by decide)
    refine ⟨_, hexec rfl (wrAt_writes ha hr hf e), ?_⟩
    rw [respond_fil, hfil]
    rfl
  case add => exact ⟨_, hexec rfl (addAt_adds ha hr hf hc h4), vaultWrite_acked s (length_summed h4 s.mem hlen)⟩
  case undef =>
    refine ⟨_, hexec rfl (addAt_undefines ha hr hf hc), ?_, rfl, fun y hy => ?_⟩
    · rw [accepted_eq]
      exact Part.forall.2 (by simp [Part.same, State.respond])
    · rw [accepted_eq]
      exact Bytes.read_undefine_other _ _ _ _ hy

end Sys2Proof.Machine
end

section
/-! PROOF. DELIVER, COLL_EARLY_RESEND and BPM at their targets (R438 to R441, R449, R461, R462, R527 to R530), and O47. -/

namespace Sys2Proof.Machine

/-! ## A payload of a collective (R527 to R530) -/

section
variable {s : State} {h : CollHdr} {rows : List Byte} {pz : List Bool} {uid : Nat} {sl : Slice}
  (hg : s.unitOfGroup h.group = some uid) (hs : (s.unitSt uid).slice = some sl)
include hg hs

theorem rxColl_stale (hlt : h.epoch < s.epochOf uid sl) :
    s.rxColl h rows pz = ({ s with net := { s.net with collStale := (s.net.collStale + 1) % 2 ^ 64 } }, .stale) := by
  unfold State.rxColl
  rw [hg]
  dsimp only
  rw [hs]
  exact if_pos hlt

variable {b : Nat} {c : Ctx} (hle : s.epochOf uid sl ≤ h.epoch) (hb : sl.beads[h.dstRank - ((s.fedGroup uid).map (·.1)).getD 0]? = some b)
  (hc : s.ctx? b = some c) (hr : c.grank = h.dstRank)
include hle hb hc hr

theorem rxColl_taken {p : CollPart} (hp : (s.coll ((s.collIx sl.serial h.seq).getD s.colls.length)).parts.find? (·.bead == b) = some p)
    (hsig : p.sig = h.sig) :
    s.rxColl h rows pz = (s.takeRows c ((s.collIx sl.serial h.seq).getD s.colls.length) p h rows pz, .taken) := by
  simp only [State.rxColl, hg, hs, Nat.not_lt.2 hle, hb, hc, hr, hp, hsig, ne_eq, not_true, if_false]

section
variable (hp : (s.coll ((s.collIx sl.serial h.seq).getD s.colls.length)).parts.find? (·.bead == b) = none) (hseq : (s.bead b).collSeq ≤ h.seq)
include hp hseq

theorem rxColl_held (hroom : s.earlyBytes b + 64 + rows.length ≤ 65536) :
    s.rxColl h rows pz = ({ s with early := s.early ++ [{ bead := b, h, rows, poison := pz }] }, .taken) := by
  simp only [State.rxColl, hg, hs, Nat.not_lt.2 hle, hb, hc, hr, hp, Nat.not_lt.2 hseq, hroom, ne_eq, not_true, if_false, if_true]

theorem rxColl_refused (hfull : 65536 < s.earlyBytes b + 64 + rows.length) : s.rxColl h rows pz = (s, .early) := by
  simp only [State.rxColl, hg, hs, Nat.not_lt.2 hle, hb, hc, hr, hp, Nat.not_lt.2 hseq, Nat.not_le.2 hfull, ne_eq, not_true, if_false]

end

end

/-! ## Its rows (R528, R529) -/

/-- The part of a member with the rows of one more payload. -/
def CollPart.took (p : CollPart) (h : CollHdr) : CollPart :=
  { p with
    rowsGot := p.rowsGot + h.nrows
    ended := if h.last then sIns h.srcRank p.ended else p.ended
    rowsDue := if h.last then p.rowsDue + h.total else p.rowsDue }

/-- What a member does once the rows of a payload are placed: it counts them, writes the count word when it has all its data, and notes
poison (R401, R528). -/
def State.rowsPlaced (s : State) (c : Ctx) (i : Nat) (p : CollPart) (h : CollHdr) (u : Fused) (bad : Bool) : State :=
  let s := s.updColl i (fun k => k.updPart p.rank (fun _ => p.took h))
  let s := if (p.took h).done c.size && !p.done c.size then (s.work (putCount c u (p.took h).rowsGot)).1 else s
  if bad then s.noteStatus c.b p.idx St.poison else s

theorem takeRows_eq (s : State) (c : Ctx) (i : Nat) (p : CollPart) (h : CollHdr) (rows : List Byte) (pz : List Bool) :
    s.takeRows c i p h rows pz = let u := fusedOf { s.bead c.b with sp := p.ents } p.word
      let r := if u.dst.sinkOk && !u.reduces then s.work (placeRows c u h rows pz) else (s, false)
      r.1.rowsPlaced c i p h u r.2 := rfl

theorem work_colls (s : State) {m : CmdM Unit} (hm : KeptM 0x20060 m) : (s.work m).1.colls = s.colls :=
  (kept_work m hm (.refl 0x20060 s)).colls_eq (by decide)

theorem rowsPlaced_colls (s : State) (c : Ctx) (i : Nat) (p : CollPart) (h : CollHdr) (u : Fused) (bad : Bool) :
    (s.rowsPlaced c i p h u bad).colls = s.colls.set i ((s.coll i).updPart p.rank (fun _ => p.took h)) := by
  have hstatus (v : State) : (if bad then v.noteStatus c.b p.idx St.poison else v).colls = v.colls := by
    split
    · exact (kept_noteStatus ..).colls_eq (by decide)
    · rfl
  refine (hstatus _).trans ?_
  split
  · exact work_colls _ (keptM_putCount _ _ _)
  · rfl

/-- The rows of a payload change one part of one collective. -/
theorem takeRows_colls (s : State) (c : Ctx) (i : Nat) (p : CollPart) (h : CollHdr) (rows : List Byte) (pz : List Bool) :
    (s.takeRows c i p h rows pz).colls = s.colls.set i ((s.coll i).updPart p.rank (fun _ => p.took h)) := by
  have hplace (d : Bool) (u : Fused) : (if d then s.work (placeRows c u h rows pz) else (s, false)).1.colls = s.colls := by
    split
    · exact work_colls s (keptM_placeRows _ _ _ _ _)
    · rfl
  rw [takeRows_eq]
  dsimp only
  rw [rowsPlaced_colls, State.coll, hplace]
  rfl

theorem collIx_lt {s : State} {serial seq d : Nat} (h : (s.collIx serial seq).isSome = true) : (s.collIx serial seq).getD d < s.colls.length := by
  obtain ⟨i, hi⟩ := Option.isSome_iff_exists.1 h
  rw [hi]
  exact (List.findIdx?_eq_some_iff_findIdx_eq.1 hi).1

theorem takeRows_part (s : State) (c : Ctx) {i : Nat} {p : CollPart} (h : CollHdr) (rows : List Byte) (pz : List Bool)
    (hi : i < s.colls.length) (hp : p ∈ (s.coll i).parts) : p.took h ∈ ((s.takeRows c i p h rows pz).coll i).parts := by
  have hcoll : (s.takeRows c i p h rows pz).coll i = (s.coll i).updPart p.rank (fun _ => p.took h) := by
    rw [State.coll, takeRows_colls]
    simp [hi]
  rw [hcoll]
  exact List.mem_map.2 ⟨p, hp, if_pos rfl⟩

/-- A payload that is taken changes its collective, what the rows are written to, and the fabric by its answer. -/
theorem takeRows_answered (s : State) (f : FilState) (c : Ctx) {i : Nat} {p : CollPart} (h : CollHdr) (rows : List Byte) (pz : List Bool)
    (hi : i < s.colls.length) (hp : p ∈ (s.coll i).parts) (r : Xfer) :
    let w : State := { s with fil := f }
    let t := (w.takeRows c i p h rows pz).respond r
    SameBut [.fil, .beads, .mem, .units, .colls] s t ∧ p.took h ∈ (t.coll i).parts ∧ t.fil = (w.respond r).fil := by
  intro w t
  have k := kept_takeRows w c i p h rows pz
  refine ⟨?frame, takeRows_part w c h rows pz hi hp, ?fil⟩
  case frame =>
    refine ((sameBut_fil s f).mono (by intro q; cases q <;> decide)).trans ?_
    exact (Kept.of (m := 0xa0260) (kept_respond ..) (k.mono (by decide))).sameBut _ (by intro q; cases q <;> decide)
  case fil =>
    change ((w.takeRows c i p h rows pz).respond r).fil = _
    rw [respond_fil, k.fil_eq (by decide)]
    rfl

/-! ## DELIVER at its target (Table 14-3) -/

/-- The status that answers a payload of a collective. -/
def CollRx.status : CollRx → Nat
  | .early => St.collEarly
  | .mismatch => St.collMismatch
  | _ => 0

/-- What the target of a DELIVER does with its payload, and the acknowledgement. -/
def State.handOn (s : State) (x : Xfer) : Delivery → State
  | .coll h rows pz => (s.rxColl h rows pz).1.respond (ackOf x (s.rxColl h rows pz).2.status)
  | .merge uid mseq rank others => (s.rxMerge uid mseq rank others).respond (ackOf x 0)
  | .reduce uid seq rank others => (s.rxReduce uid seq rank others).respond (ackOf x 0)
  | .session hub m src => (s.sesMessage src m hub s.now).respond (ackOf x 0)
  | .pool _ _ _ _ => s.respond (ackOf x 0)

section
variable {s : State} {x : Xfer}

theorem handOn_coll {h : CollHdr} {rows : List Byte} {pz : List Bool} {t : State} {r : CollRx} (hx : s.rxColl h rows pz = (t, r)) :
    s.handOn x (.coll h rows pz) = t.respond (ackOf x r.status) := by
  change (s.rxColl h rows pz).1.respond (ackOf x (s.rxColl h rows pz).2.status) = _
  rw [hx]

theorem deliverAt_abandoned (h : x.abandon = true) (d : Delivery) : s.deliverAt x d = (s.arrive x).abandon x := if_pos h

theorem deliverAt_reset (ha : x.abandon = false) (h : s.fil.underReset.contains x.dst = true) (d : Delivery) :
    s.deliverAt x d = (s.accepted x).respond (ackOf x St.filDestReset) :=
  (if_neg (by simp [ha])).trans (if_pos h)

theorem deliverAt_served (ha : x.abandon = false) (hr : s.fil.underReset.contains x.dst = false) (d : Delivery) :
    s.deliverAt x d = (s.accepted x).handOn x d := by
  refine (if_neg (by simp [ha])).trans ((if_neg (ne_true_of_eq_false hr)).trans ?_)
  cases d <;> rfl

end

/-! ## BPM at a pool agent (R438 to R441) -/

/-- The answer of a pool agent: the handle and the status. -/
def poolAnswer (x : Xfer) (handle status : Nat) : Xfer :=
  { op := .deliver, vc := 3, cls := x.cls, len := 1, src := x.dst, dst := x.src, tag := x.tag, addr := 0, data := leBytes 8 (handle + status * 2 ^ 40) }

/-- What a pool agent does for a request: the state, the handle and the status. -/
def State.poolServe (s : State) (x : Xfer) (q : BpmReq) : State × Nat × Nat :=
  if q.free then ((s.freeObj (s.agentUnit x.src) q.handle).1, 0, (s.freeObj (s.agentUnit x.src) q.handle).2)
  else s.allocate q.owner q.kind q.pages (s.set.cur.poolsOf q.owner q.kind)

theorem kept_poolServe (s : State) (x : Xfer) (q : BpmReq) : Kept 0x2040240002 s (s.poolServe x q).1 := by
  unfold State.poolServe
  split
  · exact (kept_freeObj ..).mono (by decide)
  · exact (kept_allocate ..).mono (by decide)

section
variable {s : State} {x : Xfer} {q : BpmReq}

theorem bpmAt_served (hr : s.fil.underReset.contains x.dst = false) :
    s.bpmAt x q = let r := (s.accepted x).poolServe x q
      r.1.respond (poolAnswer x r.2.1 r.2.2) := if_neg (ne_true_of_eq_false hr)

theorem poolServe_alloc (h : q.free = false) : s.poolServe x q = s.allocate q.owner q.kind q.pages (s.set.cur.poolsOf q.owner q.kind) :=
  if_neg (ne_true_of_eq_false h)

theorem poolServe_free (h : q.free = true) :
    s.poolServe x q = ((s.freeObj (s.agentUnit x.src) q.handle).1, 0, (s.freeObj (s.agentUnit x.src) q.handle).2) := if_pos h

theorem freeObj_stale {r : Option Nat} {h : Nat} (hl : s.handleLive h = false) :
    (s.freeObj r h).1.bpm = { s.bpm with errCount := (s.bpm.errCount + 1) % 2 ^ 64 } ∧ (s.freeObj r h).2 = St.bpmStale := by
  unfold State.freeObj
  rw [hl]
  exact ⟨(kept_raiseG ..).bpm_eq (by decide), rfl⟩

theorem freeObj_live {r : Option Nat} {h : Nat} (hl : s.handleLive h = true) (ho : ∀ u, r = some u → s.set.cur.top u = (s.page (hFrame h)).owner) :
    s.freeObj r h = (s.quarantine (h % 2 ^ 40), 0) := by
  unfold State.freeObj
  rw [hl]
  refine (if_neg Bool.false_ne_true).trans (if_neg ?_)
  cases r with
  | none => exact Bool.false_ne_true
  | some u => simp [ho u rfl]

/-- A stale handle is counted, and nothing else of the pools moves. -/
theorem poolServe_stale (h : q.free = true) (hl : s.handleLive q.handle = false) :
    (s.poolServe x q).1.bpm = { s.bpm with errCount := (s.bpm.errCount + 1) % 2 ^ 64 } ∧ (s.poolServe x q).2 = (0, St.bpmStale) := by
  obtain ⟨hbpm, hst⟩ := freeObj_stale (r := s.agentUnit x.src) hl
  rw [poolServe_free h]
  exact ⟨hbpm, congrArg (Prod.mk 0) hst⟩

theorem poolServe_live (h : q.free = true) (hl : s.handleLive q.handle = true)
    (ho : ∀ u, s.agentUnit x.src = some u → s.set.cur.top u = (s.page (hFrame q.handle)).owner) :
    s.poolServe x q = (s.quarantine (q.handle % 2 ^ 40), 0, 0) := by
  rw [poolServe_free h, freeObj_live hl ho]

/-- A pool agent's answer goes out, and what it serves leaves the fabric alone. -/
theorem poolAnswered_fil (s : State) (x : Xfer) (q : BpmReq) (r : Xfer) :
    (((s.accepted x).poolServe x q).1.respond r).fil = ((s.accepted x).respond r).fil := by
  rw [respond_fil, (kept_poolServe ..).fil_eq (by decide)]
  rfl

end

/-! ## The statement -/

/-- Settles O47: a payload is handed on as its kind says, a payload of a collective by the state of the leaf that it is for, and a pool
agent answers what the block pool manager did. -/
theorem deliverAndPoolRowsAct : Obligations.DeliverAndPoolRowsAct := by
  unfold Obligations.DeliverAndPoolRowsAct
  intro x s i d hrun hi u v answered gone
  have hexec {t : State} (ht : s.deliverAt x d = t) : exec i s = .next t := by
    rw [← ht]
    rcases hi with rfl | rfl <;> exact unlessDown_of_running hrun _
  refine ⟨fun ha => hexec (deliverAt_abandoned ha d), fun ha hr => hexec (deliverAt_reset ha hr d), fun ha hr => ?served, fun q hr => ?bpm⟩
  case served =>
    have hd : exec i s = .next (v.handOn x d) := hexec (deliverAt_served ha hr d)
    obtain ⟨f, hf⟩ : ∃ f, v = { s with fil := f } := ⟨_, accepted_eq s x⟩
    clear_value v
    subst hf
    refine ⟨?session, ?merge, ?reduce, ?pool, fun h rows pz uid sl hcoll hg hs => ?coll⟩
    case session =>
      rintro hub m src rfl
      exact hd
    case merge =>
      rintro uid n r os rfl
      exact hd
    case reduce =>
      rintro uid n r os rfl
      exact hd
    case pool =>
      rintro a b c e rfl
      exact hd
    case coll =>
      subst hcoll
      let w : State := { s with fil := f }
      have hnext {t : State} {r : CollRx} (hx : w.rxColl h rows pz = (t, r)) :
          exec i s = .next (t.respond (ackOf x r.status)) := hd.trans (congrArg _ (handOn_coll hx))
      refine ⟨fun hlt => ?stale, fun b c hle hb hc hrank => ⟨fun hp hseq => ⟨fun hroom => ?held, fun hfull => ?refused⟩, fun p hp hsig hopen => ?taken⟩⟩
      case stale => exact ⟨_, hnext (rxColl_stale (s := w) hg hs hlt), Part.forall.2 (by simp [Part.same, State.respond, w]), rfl, rfl⟩
      case held => exact ⟨_, hnext (rxColl_held (s := w) hg hs hle hb hc hrank hp hseq hroom), Part.forall.2 (by simp [Part.same, State.respond, w]), rfl, rfl⟩
      case refused => exact hnext (rxColl_refused (s := w) hg hs hle hb hc hrank hp hseq hfull)
      case taken =>
        obtain ⟨hframe, hpart, hfil⟩ := takeRows_answered s f c h rows pz (collIx_lt hopen) (List.mem_of_find?_eq_some hp) (ackOf x 0)
        exact ⟨_, p.took h, hnext (rxColl_taken (s := w) hg hs hle hb hc hrank hp hsig), hframe, hpart, rfl, rfl, hfil⟩
  case bpm =>
    have hframe := (kept_bpmAt s x q).sameBut [.freeCtr, .bpm, .fil, .fns, .errGlobal, .out] (by intro p; cases p <;> decide)
    have hexec' : exec (.bpm x q) s = .next (s.bpmAt x q) := unlessDown_of_running hrun _
    rw [bpmAt_served hr] at hframe hexec'
    let r := (s.accepted x).poolServe x q
    let a := poolAnswer x r.2.1 r.2.2
    have hfil := poolAnswered_fil s x q a
    have heq := accepted_eq s x
    refine ⟨r.1.respond a, a, hexec', hframe, ?flight, ?tag, rfl, rfl, rfl, rfl, fun hq => ?alloc, fun hq hl => ?stale, fun hq hl ho => ?live⟩
    case flight => rw [hfil, respond_fil, accepted_inFlight]
    case tag =>
      rw [hfil]
      rfl
    case alloc =>
      have hserve : r = _ := poolServe_alloc hq
      rw [(kept_accepted s x).set_eq (by decide)] at hserve
      exact ⟨r.2.1, r.2.2, r.1, hserve.symm, rfl, rfl⟩
    case stale =>
      obtain ⟨hbpm, hst⟩ := poolServe_stale (s := s.accepted x) (x := x) hq (by rw [heq]; exact hl)
      rw [(kept_accepted s x).bpm_eq (by decide)] at hbpm
      exact ⟨hbpm, by change (poolAnswer x r.2.1 r.2.2).data = _; rw [poolAnswer, hst, Nat.zero_add]⟩
    case live =>
      have hserve : r = ((s.accepted x).quarantine (q.handle % 2 ^ 40), 0, 0) := poolServe_live hq (by rw [heq]; exact hl) (by rw [heq]; exact ho)
      change (r.1.respond _).bpm = _ ∧ (poolAnswer x r.2.1 r.2.2).data = _
      rw [hserve]
      exact ⟨rfl, by rw [poolAnswer, Nat.zero_mul]⟩

end Sys2Proof.Machine
end

section
/-! PROOF. The links of the Filigree: groups, replays, spared lanes and lost sub-channels (R448, R450, R452 to R454, R607), and O48. -/

namespace Sys2Proof.Machine

/-! ## Directions of sub-channels -/

section
variable {m : Nat} {s t : State}

theorem sub_congr (h : t.fil.subs = s.fil.subs) (k : Nat) : t.sub k = s.sub k := by
  unfold State.sub
  rw [h]

theorem Kept.sub_eq (h : Kept m s t) (hb : m.testBit 19 = false) (k : Nat) : t.sub k = s.sub k := sub_congr (by rw [h.fil_eq hb]) k

end

theorem chBack_ne (c : SubChId) : chBack c ≠ chKey c := by
  have := c.dir.isLt
  unfold chBack chKey
  omega

theorem updSub_same (s : State) (k : Nat) (f : SubCh → SubCh) : (s.updSub k f).sub k = f (s.sub k) := by rw [updSub_sub, if_pos rfl]

theorem updSub_other (s : State) {k j : Nat} (f : SubCh → SubCh) (h : j ≠ k) : (s.updSub k f).sub j = s.sub j := by rw [updSub_sub, if_neg h]

/-! ## Changes of one direction after another -/

section
variable {α : Type} {g : State → α → State} {key : α → Nat} (hoff : ∀ s a j, j ≠ key a → (g s a).sub j = s.sub j)
include hoff

theorem foldl_sub_other {l : List α} {j : Nat} (h : ∀ a, a ∈ l → j ≠ key a) (s : State) : (l.foldl g s).sub j = s.sub j :=
  List.foldlRecOn (motive := fun t => t.sub j = s.sub j) l g rfl fun t ht a ha => (hoff t a j (h a ha)).trans ht

/-- Each of the directions listed is changed once, by its own step. -/
theorem foldl_sub_at {R : SubCh → SubCh → Prop} (hat : ∀ s a, R (s.sub (key a)) ((g s a).sub (key a))) {l : List α} (hl : (l.map key).Nodup)
    {a : α} (ha : a ∈ l) (s : State) : R (s.sub (key a)) ((l.foldl g s).sub (key a)) := by
  induction l generalizing s with
  | nil => exact absurd ha List.not_mem_nil
  | cons b t ih =>
    rw [List.map_cons, List.nodup_cons] at hl
    obtain ⟨hb, ht⟩ := hl
    have hne (c : α) (hc : c ∈ t) : key b ≠ key c := fun e => hb (e ▸ List.mem_map_of_mem hc)
    rcases List.mem_cons.1 ha with rfl | ha
    · rw [List.foldl_cons, foldl_sub_other hoff hne]
      exact hat s a
    · rw [← hoff s b (key a) (hne a ha).symm]
      exact ih ht ha (g s b)

end

/-! ## Replays (R452) -/

/-- The direction has one replay more, and its link counts it. -/
def State.replayed (s : State) (link k : Nat) : State :=
  let t := s.updSub k (fun y => { y with replays := y.replays + 1 })
  { t with fil := { t.fil with replayCnt := mcount t.fil.replayCnt link 1 } }

section
variable (s : State) (link k : Nat)

theorem replay_fil : (s.replay link k).fil = (s.replayed link k).fil := by
  unfold State.replay
  dsimp only
  split
  · rfl
  · exact (kept_raiseG ..).fil_eq (by decide)

theorem replayed_sub (j : Nat) :
    (s.replayed link k).sub j = if j = k then { s.sub k with replays := (s.sub k).replays + 1 } else s.sub j :=
  updSub_sub s k j (fun y => { y with replays := y.replays + 1 })

theorem replay_sub (j : Nat) : (s.replay link k).sub j = if j = k then { s.sub k with replays := (s.sub k).replays + 1 } else s.sub j :=
  (sub_congr (congrArg FilState.subs (replay_fil s link k)) j).trans (replayed_sub ..)

/-- The first replay of a group is not logged. -/
theorem replay_first {s : State} {k : Nat} (h : (s.sub k).replays = 0) : s.replay link k = s.replayed link k := by
  refine if_pos ?_
  change ((s.replayed link k).sub k).replays < 2
  rw [replayed_sub, if_pos rfl]
  exact Nat.lt_of_le_of_lt (Nat.succ_le_succ (Nat.le_of_eq h)) Nat.one_lt_two

end

/-! ## Groups (R448, R452) -/

theorem inject_none {s : State} (h : s.set.cur.fis = []) (ok : FiRec → Bool) : s.inject ok = (s, []) := by
  unfold State.inject Setting.fiList
  rw [h]
  rfl

theorem forward_subs (s : State) (k die : Nat) (xs : List Xfer) : (s.forward k die xs).fil.subs = s.fil.subs :=
  List.foldlRecOn (motive := fun t : State => t.fil.subs = s.fil.subs) xs _ rfl fun t ht x _ => by
    dsimp only
    split <;> exact ht

theorem forward_one (k die : Nat) {s : State} {x : Xfer} (hx : isReserved x.op = false) (h : s.fil.reorder = []) :
    (s.forward k die [x]).fil.inFlight = s.fil.inFlight ++ [x] ∧ (s.forward k die [x]).fil.reorder = [] := by
  simp [State.forward, hx, h]

/-- With no transfer held back and no reserved header, the whole group goes on. -/
theorem forward_whole (k die : Nat) {xs : List Xfer} (hx : ∀ x, x ∈ xs → isReserved x.op = false) {s : State} (h : s.fil.reorder = []) :
    (s.forward k die xs).fil.inFlight = s.fil.inFlight ++ xs := by
  induction xs generalizing s with
  | nil => exact (List.append_nil _).symm
  | cons x t ih =>
    obtain ⟨hone, hreorder⟩ := forward_one k die (hx x List.mem_cons_self) h
    calc (s.forward k die (x :: t)).fil.inFlight
      _ = ((s.forward k die [x]).forward k die t).fil.inFlight := rfl
      _ = (s.fil.inFlight ++ [x]) ++ t := by rw [ih (fun y hy => hx y (List.mem_cons_of_mem _ hy)) hreorder, hone]
      _ = s.fil.inFlight ++ x :: t := List.append_assoc ..

/-- A group has come: its slots are counted, and one that its sender had not sent before waits for its acknowledgement. -/
def State.groupSent (s : State) (c : SubChId) (gseq : Nat) (xs : List Xfer) : State :=
  if gseq = (s.sub (chKey c)).txSeq then
    (s.countSlots c xs).updSub (chKey c) (fun y => { y with txSeq := (y.txSeq + 1) % 256, unacked := y.unacked ++ [(gseq, xs)] })
  else s.countSlots c xs

section
variable (s : State) (c : SubChId) (gseq : Nat) (xs : List Xfer)

theorem kept_groupSent : Kept 0x80000 s (s.groupSent c gseq xs) :=
  .ite (.of (kept_updSub ..) (kept_countSlots s c xs)) (kept_countSlots s c xs)

/-- The counting of a group's slots moves no number of its receiver, no other direction and no transfer. -/
theorem groupSent_keeps : let t := s.groupSent c gseq xs
    (∀ j, j ≠ chKey c → t.sub j = s.sub j) ∧ (t.sub (chKey c)).rxSeq = (s.sub (chKey c)).rxSeq ∧
      (t.sub (chKey c)).nak = (s.sub (chKey c)).nak ∧ t.fil.inFlight = s.fil.inFlight ∧ t.fil.reorder = s.fil.reorder := by
  unfold State.groupSent
  split
  · dsimp only
    rw [updSub_same]
    exact ⟨fun j hj => updSub_other _ _ hj, rfl, rfl, rfl, rfl⟩
  · exact ⟨fun _ _ => rfl, rfl, rfl, rfl, rfl⟩

end

/-! ### ACK and NAK -/

/-- Is a group still without acknowledgement after `ack`? -/
def stillOut (ack : Nat) (g : Nat × List Xfer) : Bool := decide (0 < (g.1 + 256 - ack) % 256 ∧ (g.1 + 256 - ack) % 256 ≤ 32)

/-- The sender has released the groups that `ack` covers. -/
def State.released (s : State) (c : SubChId) (ack : Nat) : State :=
  let left := (s.sub (chBack c)).unacked.filter (stillOut ack)
  if left.length = (s.sub (chBack c)).unacked.length then s
  else s.updSub (chBack c) (fun y => { y with unacked := left, replays := 0 })

section
variable (s : State) (c : SubChId) (ack : Nat) (nak : Bool)

theorem released_other {j : Nat} (h : j ≠ chBack c) : (s.released c ack).sub j = s.sub j := by
  unfold State.released
  dsimp only
  split
  · rfl
  · exact updSub_other _ _ h

theorem released_unacked : ((s.released c ack).sub (chBack c)).unacked = (s.sub (chBack c)).unacked.filter (stillOut ack) := by
  unfold State.released
  dsimp only
  split
  case isTrue h => exact (List.filter_sublist.eq_of_length h).symm
  case isFalse => rw [updSub_same]

theorem released_lists : (s.released c ack).fil.inFlight = s.fil.inFlight ∧ (s.released c ack).fil.reorder = s.fil.reorder := by
  unfold State.released
  dsimp only
  split <;> exact ⟨rfl, rfl⟩

theorem trailer_cases : s.trailer c ack nak = (s.released c ack).replay c.link.val (chBack c) ∨ s.trailer c ack nak = s.released c ack :=
  ite_eq_or_eq ..

/-- A trailer moves the other direction alone, and no transfer. -/
theorem trailer_keeps : let t := s.trailer c ack nak
    (∀ j, j ≠ chBack c → t.sub j = s.sub j) ∧ t.fil.inFlight = s.fil.inFlight ∧ t.fil.reorder = s.fil.reorder := by
  obtain ⟨hflight, hreorder⟩ := released_lists s c ack
  have hother (j : Nat) (h : j ≠ chBack c) := released_other s c ack h
  rcases trailer_cases s c ack nak with e | e <;> dsimp only <;> rw [e]
  · rw [replay_fil]
    exact ⟨fun j h => (replay_sub ..).trans ((if_neg h).trans (hother j h)), hflight, hreorder⟩
  · exact ⟨hother, hflight, hreorder⟩

/-- The ACK releases what it covers. -/
theorem trailer_unacked : ((s.trailer c ack nak).sub (chBack c)).unacked = (s.sub (chBack c)).unacked.filter (stillOut ack) := by
  rcases trailer_cases s c ack nak with e | e <;> rw [e]
  · rw [replay_sub, if_pos rfl]
    exact released_unacked s c ack
  · exact released_unacked s c ack

end

/-! ### A group at its receiver -/

section
variable {s : State} {c : SubChId} (hl : (s.sub (chKey c)).lost = false) (hfi : s.set.cur.fis = [])
include hl hfi

theorem groupIn_noFis (gseq : Nat) (crcOk : Bool) (xs : List Xfer) (ack : Nat) (nak : Bool) : s.groupIn c gseq crcOk xs ack nak =
    let g := s.groupSent c gseq xs
    if !crcOk then
      if gseq = (s.sub (chKey c)).rxSeq then g.updSub (chKey c) (fun y => { y with nak := true, fails := y.fails + 1 })
      else g.updSub (chKey c) (fun y => { y with nak := true })
    else if gseq ≠ (s.sub (chKey c)).rxSeq then g.trailer c ack nak
    else ((g.trailer c ack nak).updSub (chKey c) (fun y => { y with rxSeq := (y.rxSeq + 1) % 256, nak := false, fails := 0 })).forward
      (chKey c) (rxDie c) xs := by
  have hinj (ok : FiRec → Bool) : (s.groupSent c gseq xs).inject ok = (s.groupSent c gseq xs, []) :=
    inject_none (by rw [(kept_groupSent s c gseq xs).set_eq (by decide), hfi]) ok
  have hsent : s.groupSent c gseq xs = (if gseq = (s.sub (chKey c)).txSeq then
    (s.countSlots c xs).updSub (chKey c) (fun y => { y with txSeq := (y.txSeq + 1) % 256, unacked := y.unacked ++ [(gseq, xs)] })
    else s.countSlots c xs) := rfl
  unfold State.groupIn
  dsimp only
  rw [if_neg (ne_true_of_eq_false hl), ← hsent, hinj]
  simp only [List.any_nil, Bool.or_false, Bool.false_eq_true, if_false]
  rfl

/-- Without injections a group changes the fabric and may log a replay. -/
theorem kept_groupIn_noFis (gseq : Nat) (crcOk : Bool) (xs : List Xfer) (ack : Nat) (nak : Bool) :
    Kept 0x2040280000 s (s.groupIn c gseq crcOk xs ack nak) := by
  have hsent : Kept 0x2040280000 s (s.groupSent c gseq xs) := (kept_groupSent ..).mono (by decide)
  have htrailer := (kept_trailer (s.groupSent c gseq xs) c ack nak).of hsent
  rw [groupIn_noFis hl hfi]
  dsimp only
  exact .ite (.ite ((kept_updSub ..).of hsent) ((kept_updSub ..).of hsent)) (.ite htrailer ((kept_forward ..).of ((kept_updSub ..).of htrailer)))

/-- A bad group sets NAK, and nothing of it goes on. -/
theorem groupIn_bad (gseq : Nat) (xs : List Xfer) (ack : Nat) (nak : Bool) : let t := s.groupIn c gseq false xs ack nak
    (t.sub (chKey c)).nak = true ∧ (t.sub (chKey c)).rxSeq = (s.sub (chKey c)).rxSeq ∧ t.fil.inFlight = s.fil.inFlight := by
  obtain ⟨-, hrx, -, hflight, -⟩ := groupSent_keeps s c gseq xs
  dsimp only
  rw [groupIn_noFis hl hfi]
  dsimp only
  rw [if_pos (by decide)]
  split <;> rw [updSub_same] <;> exact ⟨rfl, hrx, hflight⟩

/-- A good group of another number is discarded. -/
theorem groupIn_discarded {gseq : Nat} (hne : gseq ≠ (s.sub (chKey c)).rxSeq) (xs : List Xfer) (ack : Nat) (nak : Bool) :
    s.groupIn c gseq true xs ack nak = (s.groupSent c gseq xs).trailer c ack nak := by
  rw [groupIn_noFis hl hfi]
  exact (if_neg (by decide)).trans (if_pos hne)

/-- A good group of the number expected is taken. -/
theorem groupIn_taken (xs : List Xfer) (ack : Nat) (nak : Bool) : s.groupIn c (s.sub (chKey c)).rxSeq true xs ack nak =
    ((((s.groupSent c (s.sub (chKey c)).rxSeq xs).trailer c ack nak).updSub (chKey c)
      (fun y => { y with rxSeq := (y.rxSeq + 1) % 256, nak := false, fails := 0 })).forward (chKey c) (rxDie c) xs) := by
  rw [groupIn_noFis hl hfi]
  exact (if_neg (by decide)).trans (if_neg (not_not_intro rfl))

/-- The trailer of a good group acts, whatever its number. -/
theorem groupIn_unacked (gseq : Nat) (xs : List Xfer) (ack : Nat) (nak : Bool) :
    ((s.groupIn c gseq true xs ack nak).sub (chBack c)).unacked = (s.sub (chBack c)).unacked.filter (stillOut ack) := by
  have hback : (((s.groupSent c gseq xs).trailer c ack nak).sub (chBack c)).unacked = (s.sub (chBack c)).unacked.filter (stillOut ack) := by
    rw [trailer_unacked, (groupSent_keeps s c gseq xs).1 _ (chBack_ne c)]
  by_cases hne : gseq = (s.sub (chKey c)).rxSeq
  · rw [hne, groupIn_taken hl hfi, sub_congr (forward_subs ..), updSub_other _ _ (chBack_ne c), ← hne]
    exact hback
  · rw [groupIn_discarded hl hfi hne]
    exact hback

/-- A discarded group moves neither the number nor NAK, and nothing of it goes on. -/
theorem groupIn_discarded_keeps {gseq : Nat} (hne : gseq ≠ (s.sub (chKey c)).rxSeq) (xs : List Xfer) (ack : Nat) (nak : Bool) :
    let t := s.groupIn c gseq true xs ack nak
    (t.sub (chKey c)).rxSeq = (s.sub (chKey c)).rxSeq ∧ (t.sub (chKey c)).nak = (s.sub (chKey c)).nak ∧ t.fil.inFlight = s.fil.inFlight := by
  obtain ⟨-, hrx, hnak, hflight, -⟩ := groupSent_keeps s c gseq xs
  obtain ⟨hother, hflight', -⟩ := trailer_keeps (s.groupSent c gseq xs) c ack nak
  dsimp only
  rw [groupIn_discarded hl hfi hne, hother _ (chBack_ne c).symm]
  exact ⟨hrx, hnak, hflight'.trans hflight⟩

/-- A group that is taken goes on whole where no header is reserved and nothing is held back. -/
theorem groupIn_taken_forwards {xs : List Xfer} (hx : ∀ x, x ∈ xs → isReserved x.op = false) (hre : s.fil.reorder = []) (ack : Nat) (nak : Bool) :
    let t := s.groupIn c (s.sub (chKey c)).rxSeq true xs ack nak
    (t.sub (chKey c)).rxSeq = ((s.sub (chKey c)).rxSeq + 1) % 256 ∧ (t.sub (chKey c)).nak = false ∧
      t.fil.inFlight = s.fil.inFlight ++ xs := by
  obtain ⟨-, hrx, -, hflight, hreorder⟩ := groupSent_keeps s c (s.sub (chKey c)).rxSeq xs
  obtain ⟨hother, hflight', hreorder'⟩ := trailer_keeps (s.groupSent c (s.sub (chKey c)).rxSeq xs) c ack nak
  dsimp only
  rw [groupIn_taken hl hfi, sub_congr (forward_subs ..), updSub_same,
    forward_whole _ _ (s := State.updSub _ _ _) hx (hreorder'.trans (hreorder.trans hre)), hother _ (chBack_ne c).symm, hrx]
  exact ⟨rfl, rfl, congrArg (· ++ xs) (hflight'.trans hflight)⟩

end

/-- What a direction that is lost, bad or good does with a group. -/
theorem exec_filGroupRx {s : State} (hrun : s.halted = false) (c : SubChId) (gseq : Nat) (crcOk : Bool) (xs : List Xfer) (ack : Nat) (nak : Bool) :
    exec (.filGroupRx c gseq crcOk xs ack nak) s = .next (s.groupIn c gseq crcOk xs ack nak) := unlessDown_of_running hrun _

/-- The frame of a change of the fabric that may log a record. -/
theorem Kept.link {s t : State} (k : Kept 0x2040280000 s t) : SameBut [.fil, .fns, .errGlobal, .out] s t :=
  k.sameBut _ (by intro p; cases p <;> decide)

/-! ## Timeouts (R452) -/

section
variable {s : State} (hrun : s.halted = false) (c : SubChId)
include hrun

theorem exec_filAckTimeout : exec (.filAckTimeout c) s = .next (if (s.sub (chKey c)).unacked.isEmpty || (s.sub (chKey c)).lost then s
    else s.replay c.link.val (chKey c)) := unlessDown_of_running hrun _

theorem ackTimeout_idle (h : (s.sub (chKey c)).unacked = [] ∨ (s.sub (chKey c)).lost = true) : exec (.filAckTimeout c) s = .next s := by
  rw [exec_filAckTimeout hrun, if_pos (by simpa using h)]

theorem ackTimeout_replays (hu : (s.sub (chKey c)).unacked ≠ []) (hl : (s.sub (chKey c)).lost = false) :
    exec (.filAckTimeout c) s = .next (s.replay c.link.val (chKey c)) := by
  rw [exec_filAckTimeout hrun, if_neg (by simp [hu, hl])]

end

/-! ## Spared lanes (R453) -/

/-- The directions of a module's sub-channels. -/
def laneKey (link : Fin 14) (m i : Nat) : Nat := link.val * 64 + m % 16 * 4 + i

theorem laneKeys_nodup (link : Fin 14) (m : Nat) : ((span 0 4).map (laneKey link m)).Nodup := by
  unfold laneKey
  simp [span, List.range_succ]

theorem mem_lanes {i : Nat} (hi : i < 4) : i ∈ span 0 4 := (mem_span ..).2 ⟨Nat.zero_le _, by omega⟩

/-- The module's directions take no new grants. -/
def State.stopLanes (s : State) (link : Fin 14) (m : Nat) : State :=
  (span 0 4).foldl (fun s i => s.updSub (laneKey link m i) (fun y => { y with remap := true })) s

/-- The remap of one direction is done: what waits for its acknowledgement is replayed. -/
def State.laneDone (s : State) (link : Fin 14) (m i : Nat) : State :=
  let k := laneKey link m i
  if !(s.sub k).remap then s
  else
    let t := s.updSub k (fun y => { y with remap := false })
    if (s.sub k).unacked.isEmpty then t else t.replay link.val k

section
variable (s : State) (link : Fin 14) (m : Nat)

theorem stopLanes_sub {i : Nat} (hi : i < 4) : (s.stopLanes link m).sub (laneKey link m i) = { s.sub (laneKey link m i) with remap := true } :=
  foldl_sub_at (R := fun x y => y = { x with remap := true }) (fun _ _ _ h => updSub_other _ _ h) (fun _ _ => updSub_same ..)
    (laneKeys_nodup link m) (mem_lanes hi) s

theorem stopLanes_spared : (s.stopLanes link m).fil.spared = s.fil.spared :=
  List.foldlRecOn (motive := fun t : State => t.fil.spared = s.fil.spared) _ _ rfl fun _ ht _ _ => ht

theorem laneDone_other {i j : Nat} (h : j ≠ laneKey link m i) : (s.laneDone link m i).sub j = s.sub j := by
  unfold State.laneDone
  dsimp only
  split
  · rfl
  · split
    · exact updSub_other _ _ h
    · exact (replay_sub ..).trans ((if_neg h).trans (updSub_other _ _ h))

theorem laneDone_at (i : Nat) : ((s.laneDone link m i).sub (laneKey link m i)).remap = false ∧
    ((s.laneDone link m i).sub (laneKey link m i)).unacked = (s.sub (laneKey link m i)).unacked := by
  unfold State.laneDone
  dsimp only
  split
  case isTrue h => exact ⟨by simpa using h, rfl⟩
  case isFalse =>
    split
    · rw [updSub_same]
      exact ⟨rfl, rfl⟩
    · rw [replay_sub, if_pos rfl, updSub_same]
      exact ⟨rfl, rfl⟩

theorem lanesDone_sub {i : Nat} (hi : i < 4) : let t := (span 0 4).foldl (fun s i => s.laneDone link m i) s
    (t.sub (laneKey link m i)).remap = false ∧ (t.sub (laneKey link m i)).unacked = (s.sub (laneKey link m i)).unacked :=
  foldl_sub_at (g := fun s i => s.laneDone link m i) (R := fun x y => y.remap = false ∧ y.unacked = x.unacked) (fun s _ _ h => laneDone_other s link m h)
    (fun s i => laneDone_at s link m i) (laneKeys_nodup link m) (mem_lanes hi) s

end

section
variable {s : State} (hrun : s.halted = false) (link : Fin 14) (m lane : Nat)
include hrun

theorem laneSpared_full (h : 4 ≤ mget s.fil.spared (link.val * 16 + m % 16) 0) : exec (.filLaneSpared link m lane) s = .next s :=
  (unlessDown_of_running hrun _).trans (congrArg _ (if_pos h))

theorem laneSpared_takes (h : mget s.fil.spared (link.val * 16 + m % 16) 0 < 4) : ∃ t, exec (.filLaneSpared link m lane) s = .next t ∧
    SameBut [.fil, .fns, .errGlobal, .out] s t ∧
    mget t.fil.spared (link.val * 16 + m % 16) 0 = mget s.fil.spared (link.val * 16 + m % 16) 0 + 1 ∧
    (∀ i, i < 4 → t.sub (laneKey link m i) = { s.sub (laneKey link m i) with remap := true }) := by
  obtain ⟨arg, src, hexec⟩ : ∃ arg src, exec (.filLaneSpared link m lane) s = .next ((({ s with fil := { s.fil with
      spared := mput s.fil.spared (link.val * 16 + m % 16) (mget s.fil.spared (link.val * 16 + m % 16) 0 + 1) } } : State).stopLanes link
      m).raiseG St.filLaneSpared arg src) :=
    ⟨_, _, (unlessDown_of_running hrun _).trans (congrArg _ (if_neg (Nat.not_le_of_gt h)))⟩
  refine ⟨_, hexec, (kept_execFilLaneSpared link m lane s _ hexec).link, ?count, fun i hi => ?lane⟩
  case count =>
    rw [(kept_raiseG ..).fil_eq (by decide), stopLanes_spared]
    exact mget_mput_same ..
  case lane => exact ((kept_raiseG ..).sub_eq (by decide) _).trans (stopLanes_sub _ link m hi)

theorem remapDone_spec : ∃ t, exec (.filRemapDone link m) s = .next t ∧ SameBut [.fil, .fns, .errGlobal, .out] s t ∧
    (∀ i, i < 4 → (t.sub (laneKey link m i)).remap = false ∧ (t.sub (laneKey link m i)).unacked = (s.sub (laneKey link m i)).unacked) := by
  have hexec : exec (.filRemapDone link m) s = .next ((span 0 4).foldl (fun s i => s.laneDone link m i) s) := unlessDown_of_running hrun _
  exact ⟨_, hexec, (kept_execFilRemapDone link m s _ hexec).link, fun i hi => lanesDone_sub s link m hi⟩

end

/-! ## Lost sub-channels (R450, R454) -/

theorem working_congr {s t : State} (h : ∀ k, (t.sub k).lost = (s.sub k).lost) (link dir : Nat) : t.working link dir = s.working link dir := by
  unfold State.working
  simp only [h]

/-- The directions of a link that work. -/
def State.workers (s : State) (link dir : Nat) : List Nat := (List.range 32).filter (fun j => !(s.sub (link * 64 + j * 2 + dir)).lost)

theorem length_workers (s : State) (link dir : Nat) : (s.workers link dir).length = s.working link dir := by
  have h := List.length_eq_length_filter_add (l := List.range 32) (fun j => (s.sub (link * 64 + j * 2 + dir)).lost)
  rw [List.length_range] at h
  unfold State.working State.workers
  omega

theorem thermtrip_of_running {s : State} (h : s.halted = false) : s.pwr.thermtrip = false :=
  (Bool.or_eq_false_iff.1 (Bool.or_eq_false_iff.1 h).1).2

/-- The direction is lost with all that it held. -/
def State.lose (s : State) (c : SubChId) : State := s.updSub (chKey c) (fun y => { y with lost := true, unacked := [], nak := false })

/-- A link that has lost too many directions is down with the last of them. -/
def State.linkDown (s : State) (c : SubChId) : State :=
  { s.lose c with fil := { (s.lose c).fil with down := sIns c.link.val s.fil.down } }

/-- Transfers go again on the working directions `ws` (R450). -/
def State.resendOn (s : State) (c : SubChId) (ws : List Nat) (xs : List Xfer) : State :=
  xs.foldl (fun s x => s.updSub (c.link.val * 64 + nth ws (subNumber x c.sub.val % ws.length) * 2 + c.dir.val)
    (fun z => { z with txSeq := (z.txSeq + 1) % 256, unacked := z.unacked ++ [(z.txSeq, [x])] })) s

section
variable {s : State} (c : SubChId)

theorem lose_lost (j : Nat) : ((s.lose c).sub (c.link.val * 64 + j * 2 + c.dir.val)).lost = true ↔
    j = c.sub.val ∨ (s.sub (c.link.val * 64 + j * 2 + c.dir.val)).lost = true := by
  by_cases h : j = c.sub.val
  · subst h
    exact iff_of_true (congrArg SubCh.lost (updSub_same s (chKey c) _)) (.inl rfl)
  · have hne : c.link.val * 64 + j * 2 + c.dir.val ≠ chKey c := by unfold chKey; omega
    rw [State.lose, updSub_other _ _ hne, or_iff_right h]

/-- One direction fewer works. -/
theorem lose_working (hl : (s.sub (chKey c)).lost = false) :
    (s.lose c).working c.link.val c.dir.val + 1 = s.working c.link.val c.dir.val := by
  have hlist : ((List.range 32).filter (fun j => ((s.lose c).sub (c.link.val * 64 + j * 2 + c.dir.val)).lost)).Perm
      (c.sub.val :: (List.range 32).filter (fun j => (s.sub (c.link.val * 64 + j * 2 + c.dir.val)).lost)) := by
    refine (List.perm_ext_iff_of_nodup (List.nodup_range.filter _) (List.nodup_cons.2 ⟨?_, List.nodup_range.filter _⟩)).2 (fun j => ?_)
    · rw [List.mem_filter]
      exact fun h => ne_true_of_eq_false hl h.2
    · rw [List.mem_filter, List.mem_cons, List.mem_filter, lose_lost, List.mem_range]
      have := c.sub.isLt
      grind
  have hlen := hlist.length_eq
  have hmax := List.length_filter_le (fun j => ((s.lose c).sub (c.link.val * 64 + j * 2 + c.dir.val)).lost) (List.range 32)
  rw [List.length_cons] at hlen
  rw [List.length_range] at hmax
  unfold State.working
  omega

theorem resendOn_lost (ws : List Nat) (xs : List Xfer) (j : Nat) : ((s.resendOn c ws xs).sub j).lost = (s.sub j).lost :=
  List.foldlRecOn (motive := fun t : State => (t.sub j).lost = (s.sub j).lost) xs _ rfl fun t ht x _ => by
    rw [updSub_sub]
    split
    case isTrue h => rw [← ht, h]
    case isFalse => exact ht

/-- The lost direction takes none of what goes again. -/
theorem resendOn_at {ws : List Nat} (h0 : 0 < ws.length) (hc : c.sub.val ∉ ws) (xs : List Xfer) :
    (s.resendOn c ws xs).sub (chKey c) = s.sub (chKey c) := by
  refine foldl_sub_other (fun _ _ _ h => updSub_other _ _ h) (fun x _ => ?_) s
  have hmem : nth ws (subNumber x c.sub.val % ws.length) ∈ ws := by
    rw [nth, List.getD_eq_getElem _ _ (Nat.mod_lt _ h0)]
    exact List.getElem_mem _
  have hne : c.sub.val ≠ nth ws (subNumber x c.sub.val % ws.length) := fun e => hc (e ▸ hmem)
  unfold chKey
  omega

theorem kept_resendOn (ws : List Nat) (xs : List Xfer) : Kept 0x80000 s (s.resendOn c ws xs) :=
  .foldl (fun _ _ => kept_updSub ..) (.refl _ _)

theorem lost_not_worker : c.sub.val ∉ (s.lose c).workers c.link.val c.dir.val := by
  have hlost := (lose_lost (s := s) c c.sub.val).2 (.inl rfl)
  simp [State.workers, hlost]

end

section
variable {s : State} (hrun : s.halted = false) (c : SubChId) (i : BootIn)
include hrun

theorem subchLost_again (hl : (s.sub (chKey c)).lost = true) : exec (.filSubchLost c i) s = .next s :=
  (unlessDown_of_running hrun _).trans (congrArg _ (if_pos hl))

/-- With 16 left the link goes on. -/
theorem subchLost_remaps (hl : (s.sub (chKey c)).lost = false) (hw : 17 ≤ s.working c.link.val c.dir.val) :
    ∃ t, exec (.filSubchLost c i) s = .next t ∧ SameBut [.fil, .fns, .errGlobal, .out] s t ∧
      t.sub (chKey c) = { s.sub (chKey c) with lost := true, unacked := [], nak := false } ∧
      t.working c.link.val c.dir.val + 1 = s.working c.link.val c.dir.val := by
  have hleft := lose_working c hl
  obtain ⟨xs, arg, src, hexec⟩ : ∃ xs arg src, exec (.filSubchLost c i) s = .next (((s.lose c).resendOn c
      ((s.lose c).workers c.link.val c.dir.val) xs).raiseG St.filSubchLost arg src 0xFFFF true) :=
    ⟨_, _, _, (unlessDown_of_running hrun _).trans (congrArg _ ((if_neg (ne_true_of_eq_false hl)).trans
      (if_neg (c := (s.lose c).working c.link.val c.dir.val < 16) (by omega))))⟩
  have hraise (t : State) (arg src k : Nat) : (t.raiseG St.filSubchLost arg src 0xFFFF true).sub k = t.sub k :=
    (kept_raiseG ..).sub_eq (by decide) k
  have hpos : 0 < ((s.lose c).workers c.link.val c.dir.val).length := by
    rw [length_workers]
    omega
  have kept : Kept 0x80000 s ((s.lose c).resendOn c ((s.lose c).workers c.link.val c.dir.val) xs) := .of (kept_resendOn ..) (kept_updSub ..)
  refine ⟨_, hexec, ((kept_raiseG ..).of (kept.mono (m := 0x2040280000) (by decide))).link, ?_, ?_⟩
  · rw [hraise, resendOn_at c hpos (lost_not_worker c)]
    exact updSub_same ..
  · rw [working_congr (s := s.lose c) (fun k => by rw [hraise, resendOn_lost])]
    exact hleft

/-- With fewer than 16 left the link is down, and the device resets (R607). -/
theorem subchLost_resets (hl : (s.sub (chKey c)).lost = false) (hw : s.working c.link.val c.dir.val < 17) :
    ∃ t, exec (.filSubchLost c i) s = .next t ∧ c.link.val ∈ t.fil.down ∧ t.units = [] ∧ t.sessions = [] ∧ t.frm.count = 0 := by
  have hleft := lose_working c hl
  have hexec : exec (.filSubchLost c i) s = .next ((s.linkDown c).warmReset i) := (unlessDown_of_running hrun _).trans (congrArg _
    ((if_neg (ne_true_of_eq_false hl)).trans (if_pos (c := (s.lose c).working c.link.val c.dir.val < 16) (by omega))))
  obtain ⟨hrest, -, -, hfil, -⟩ := warmReset_spec (s := s.linkDown c) (thermtrip_of_running hrun) i
  refine ⟨_, hexec, ?_, hrest.units, hrest.sessions, hrest.count⟩
  rw [hfil]
  exact (mem_sIns ..).2 (.inl rfl)

end

/-- Settles O48: the groups of a direction, its replays, the lanes of its module and its loss (R448, R450, R452 to R454, R607). -/
theorem filigreeLinkRowsAct : Obligations.FiligreeLinkRowsAct := by
  unfold Obligations.FiligreeLinkRowsAct
  intro c s hrun
  dsimp only
  refine ⟨fun gseq crcOk xs ack nak hl => ?lost, fun gseq crcOk xs ack nak hl hfi => ?group, ackTimeout_idle hrun c, fun hu hl => ?timeout,
    fun link m lane => ⟨laneSpared_full hrun link m lane, laneSpared_takes hrun link m lane, remapDone_spec hrun link m⟩,
    fun i => ⟨subchLost_again hrun c i, subchLost_remaps hrun c i, subchLost_resets hrun c i⟩⟩
  case lost => exact (exec_filGroupRx hrun ..).trans (congrArg _ (if_pos hl))
  case group =>
    refine ⟨_, exec_filGroupRx hrun .., (kept_groupIn_noFis hl hfi ..).link, ?bad, ?discarded, ?taken, ?ack⟩
    case bad => rintro rfl; exact groupIn_bad hl hfi ..
    case discarded => rintro rfl hne; exact groupIn_discarded_keeps hl hfi hne ..
    case taken => rintro rfl rfl hx hre; exact groupIn_taken_forwards hl hfi hx hre ..
    case ack => rintro rfl; exact groupIn_unacked hl hfi ..
  case timeout =>
    refine ⟨_, ackTimeout_replays hrun c hu hl, (kept_replay ..).link, (replay_sub ..).trans (if_pos rfl), ?_, fun h0 => ?_⟩
    · rw [replay_fil]
      rfl
    · rw [replay_first _ h0]
      rfl

end Sys2Proof.Machine
end

section
/-! PROOF. The rows of clasps, for every agent, with the right and without it (R469 to R479, R484, R674), and O13, O14, O15. -/

namespace Sys2Proof.Machine

section
variable {s : State} {who : ClaspAgent} {id n : Nat}

/-! ## Operations that change a clasp, with the right -/

/-- The answer to a remote package follows on the clasp's change (R523). -/
theorem ClaspTakes.answered {t : State} {c : Nat} {e : Bool} (h : ClaspTakes s t id c e) (who : ClaspAgent) (k : Nat) :
    ClaspTakes s (t.ackRemote who k) id c e := by
  have ka := kept_ackRemote t who k
  have hclasp := ka.clasp_eq (by decide)
  refine ⟨?_, ?_, fun i hi => ?_, fun b => ?_, fun x hx => ?_, h.frame.trans (ka.sameBut _ (by intro p; cases p <;> decide))⟩
  · rw [hclasp]
    exact h.value
  · rw [hclasp]
    exact h.waits
  · rw [hclasp, h.others i hi]
  · rw [ka.bead_eq (by decide), h.woken b]
  · rw [ka.mem_eq (by decide), h.bytes x hx]

theorem doSignal_takes (hs : s.stalledOps = []) (hr : s.mayClasp who id 0 = true) :
    ClaspTakes s (s.doSignal who id n) id (min ((s.clasp id).counter + n) (2 ^ 32 - 1))
      ((s.clasp id).err || decide (2 ^ 32 ≤ (s.clasp id).counter + n)) := by
  rw [State.doSignal, if_pos hr]
  exact (opSignal_takes hs id n).answered who id

theorem doReset_takes (hs : s.stalledOps = []) (hr : s.mayClasp who id 3 = true) : ClaspTakes s (s.doReset who id) id 0 false := by
  rw [State.doReset, if_pos hr]
  exact (opReset_takes hs id).answered who id

theorem doFail_takes (hs : s.stalledOps = []) (hr : s.mayClasp who id 0 = true) :
    ClaspTakes s (s.doFail who id) id (s.clasp id).counter true := by
  rw [State.doFail, if_pos hr]
  exact (opFail_takes hs id).answered who id

/-! ## Waits, with the right -/

theorem doWait_posts {w : Waiter} (hw : waiterOf who = some w) (hr : s.mayClasp who id 1 = true) :
    s.doWait who id n = s.postWait w id n := by
  unfold State.doWait
  rw [hw]
  exact if_pos hr

theorem doArrive_arrives {w : Waiter} (hw : waiterOf who = some w) (hr : s.mayClasp who id 2 = true) :
    s.doArrive who id n = s.opArrive w id n := by
  unfold State.doArrive
  rw [hw]
  exact if_pos hr

/-- A wait joins the end of its clasp's list, unless it completes (R470). -/
theorem postWait_clasp (s : State) (w : Waiter) (id t i : Nat) : (s.postWait w id t).clasp i =
    if i = id then { s.clasp id with waits := (s.clasp id).waits ++
      if (s.clasp id).err = true ∨ t ≤ (s.clasp id).counter then [] else [{ who := w, target := t }] } else s.clasp i := by
  by_cases hm : (s.clasp id).err = true ∨ t ≤ (s.clasp id).counter
  · rw [postWait_complete w hm, (kept_completeWait ..).clasp_eq (by decide), if_pos hm, List.append_nil]
    split
    · next h => rw [h]
    · rfl
  · have hn := not_or.1 hm
    rw [postWait_pending w (Bool.eq_false_iff.2 hn.1) (Nat.lt_of_not_le hn.2), if_neg hm]
    exact mget_mput ..

/-- ARRIVE is the signal of one, then the wait (R472). -/
theorem opArrive_eq (hs : s.stalledOps = []) (w : Waiter) (id t : Nat) : s.opArrive w id t = (s.opSignal id 1).postWait w id t := by
  have hadd : ((s.claspAdd id 1).settle id).stalledOps = [] := by
    rw [(kept_settle ..).stalledOps_eq (by decide), (kept_claspAdd ..).stalledOps_eq (by decide), hs]
  have hpost : (s.arriveCore w id t).stalledOps = [] := ((kept_arriveCore ..).stalledOps_eq (by decide)).trans hs
  rw [State.opArrive, resumeStalled_nil hpost, State.opSignal, resumeStalled_nil hadd]
  rfl

/-! ## Without the right -/

/-- A refusal of a local agent is counted, and logged for a window and for the privileged view (R478). -/
theorem refuseClasp_local (h : ∀ p k, who ≠ .remote p k) (id : Nat) :
    s.refuseClasp who id = (s.count cntNotGranted).logClasp who St.clpNotGranted id := by
  cases who with
  | remote p k => exact absurd rfl (h p k)
  | bead b => rfl
  | notify w k => rfl
  | sched => rfl

theorem refuseClasp_counts (h : ∀ p k, who ≠ .remote p k) (id : Nat) : (s.refuseClasp who id).errCnt = mcount s.errCnt 6 1 := by
  rw [refuseClasp_local h, (kept_logClasp ..).errCnt_eq (by decide)]
  rfl

/-- What a refusal that is counted and logged may change. -/
theorem countAndLog_frame (s : State) (c : Nat) (who : ClaspAgent) (status id : Nat) :
    SameBut [.fns, .errGlobal, .errUnit, .errCnt, .out] s ((s.count c).logClasp who status id) :=
  (Kept.of (m := 0x21c0200000) (kept_logClasp ..) ((kept_count ..).mono (by decide))).sameBut _ (by intro p; cases p <;> decide)

theorem refuseClasp_frame (h : ∀ p k, who ≠ .remote p k) (id : Nat) :
    SameBut [.fns, .errGlobal, .errUnit, .errCnt, .out] s (s.refuseClasp who id) := by
  rw [refuseClasp_local h]
  exact countAndLog_frame _ _ _ _ _

/-- The row is one that changes a clasp, and the agent lacks its right. -/
def LacksRight (s : State) (who : ClaspAgent) (id n : Nat) (i : Instr) : Prop :=
  i = Instr.claspSignal who id n ∧ s.mayClasp who id 0 = false ∨ i = .claspReset who id ∧ s.mayClasp who id 3 = false ∨
    i = .claspFail who id ∧ s.mayClasp who id 0 = false

/-- A refused wait of a bead completes at once with the error (R674). -/
theorem refuseWait_bead (s : State) (b id : Nat) :
    s.refuseWait (.bead b) id = { s with beads := mput s.beads b { s.bead b with wake := some true } } := rfl

theorem doWait_bead_refused {b : Nat} (hr : s.mayClasp (.bead b) id 1 = false) : s.doWait (.bead b) id n = s.refuseWait (.bead b) id :=
  if_neg (Bool.eq_false_iff.1 hr)

theorem doArrive_bead_refused {b : Nat} (hr : s.mayClasp (.bead b) id 2 = false) : s.doArrive (.bead b) id n = s.refuseWait (.bead b) id :=
  if_neg (Bool.eq_false_iff.1 hr)

/-! ## The rows -/

section
variable (hrun : s.halted = false)
include hrun

theorem exec_claspSignal (who : ClaspAgent) (id n : Nat) : exec (.claspSignal who id n) s = .next (s.doSignal who id n) :=
  unlessDown_of_running hrun _
theorem exec_claspWait (who : ClaspAgent) (id n : Nat) : exec (.claspWait who id n) s = .next (s.doWait who id n) :=
  unlessDown_of_running hrun _
theorem exec_claspArrive (who : ClaspAgent) (id n : Nat) : exec (.claspArrive who id n) s = .next (s.doArrive who id n) :=
  unlessDown_of_running hrun _
theorem exec_claspReset (who : ClaspAgent) (id : Nat) : exec (.claspReset who id) s = .next (s.doReset who id) :=
  unlessDown_of_running hrun _
theorem exec_claspFail (who : ClaspAgent) (id : Nat) : exec (.claspFail who id) s = .next (s.doFail who id) :=
  unlessDown_of_running hrun _

theorem exec_of_lacksRight {i : Instr} (h : LacksRight s who id n i) : exec i s = .next (s.refuseClasp who id) := by
  rcases h with ⟨rfl, hr⟩ | ⟨rfl, hr⟩ | ⟨rfl, hr⟩
  · rw [exec_claspSignal hrun, State.doSignal, if_neg (Bool.eq_false_iff.1 hr)]
  · rw [exec_claspReset hrun, State.doReset, if_neg (Bool.eq_false_iff.1 hr)]
  · rw [exec_claspFail hrun, State.doFail, if_neg (Bool.eq_false_iff.1 hr)]

end

end

/-! ## The statements -/

/-- Settles O13: with the right, each row changes the clasp's value and settles it, and a remote package has its answer. -/
theorem claspSignalResetFailSettle : Obligations.ClaspSignalResetFailSettle := by
  unfold Obligations.ClaspSignalResetFailSettle
  intro who id n s hrun hs
  exact ⟨fun hr => ⟨_, exec_claspSignal hrun .., doSignal_takes hs hr⟩, fun hr => ⟨_, exec_claspReset hrun .., doReset_takes hs hr⟩,
    fun hr => ⟨_, exec_claspFail hrun .., doFail_takes hs hr⟩⟩

/-- Settles O14: a wait completes or is posted; ARRIVE posts its wait after the signal of one. -/
theorem claspWaitArriveComplete : Obligations.ClaspWaitArriveComplete := by
  unfold Obligations.ClaspWaitArriveComplete
  intro who w id target s hrun hs hw
  refine ⟨fun hr => ⟨fun hm => ⟨s.completeWait id w (s.clasp id).counter (s.clasp id).err, ?row, ?clasps, ?frame, ?bead⟩, fun he hc => ?pending⟩, fun hr => ?arrive⟩
  case row => rw [exec_claspWait hrun, doWait_posts hw hr, postWait_complete w hm]
  case clasps => exact (kept_completeWait ..).clasps_eq (by decide)
  case frame => exact (kept_completeWait ..).sameBut _ (by intro p; cases p <;> decide)
  case bead =>
    rintro b rfl
    rfl
  case pending => rw [exec_claspWait hrun, doWait_posts hw hr, postWait_pending w he hc]
  case arrive =>
    have hsig := opSignal_takes hs id 1
    obtain ⟨hcounter, herr⟩ := hsig.value
    refine ⟨_, by rw [exec_claspArrive hrun, doArrive_arrives hw hr, opArrive_eq hs], ?_, ?_, ?_, fun i hi => ?_,
      hsig.frame.trans ((kept_postWait ..).sameBut _ (by intro p; cases p <;> decide))⟩
    · rw [postWait_clasp, if_pos rfl, hcounter]
    · rw [postWait_clasp, if_pos rfl, herr]
    · rw [postWait_clasp, if_pos rfl, hsig.waits, hcounter, herr]
    · rw [postWait_clasp, if_neg hi, hsig.others i hi]

/-- Settles O15: a refusal counts and logs, or answers the remote package; a bead's refused wait wakes it; the scheduler has no waiter. -/
theorem claspRefusalsKeepClasps : Obligations.ClaspRefusalsKeepClasps := by
  unfold Obligations.ClaspRefusalsKeepClasps
  intro who id n b s hrun
  refine ⟨fun i h => ⟨_, exec_of_lacksRight hrun h, (kept_refuseClasp ..).sameBut _ (by intro p; cases p <;> decide),
    fun hw => refuseClasp_counts hw id⟩, fun i h => ?_, exec_claspWait hrun .., exec_claspArrive hrun ..⟩
  rcases h with ⟨rfl, hr⟩ | ⟨rfl, hr⟩
  · rw [exec_claspWait hrun, doWait_bead_refused hr, refuseWait_bead]
  · rw [exec_claspArrive hrun, doArrive_bead_refused hr, refuseWait_bead]

end Sys2Proof.Machine
end

section
/-! PROOF. Operation words stored to CLP_OP (R477, R478, R480, R482), and O20. -/

namespace Sys2Proof.Machine

/-! ## Operation words (Table 15-2) -/

/-- The word of a row has the OP of the row, and its clasp, its notify index and its value from the store. -/
theorem bits_clpWord (x : Nat) {op : Nat} (h : op ≤ 4) : let y := clpWord x op % 2 ^ 64
    bits y 15 0 = bits x 15 0 ∧ bits y 18 16 = op ∧ bits y 31 20 = bits x 31 20 ∧ bits y 63 32 = bits x 63 32 := by
  simp only [bits, clpWord, putBits, Nat.shiftRight_eq_div_pow, Nat.reducePow, Nat.reduceAdd, Nat.reduceSub]
  refine ⟨?_, ?_, ?_, ?_⟩ <;> omega

theorem op_le_of_wellFormed {y : Nat} (h : clpWordBad y = false) : bits y 18 16 ≤ 4 := by
  simp [clpWordBad] at h
  omega

section
variable {s : State} {v : Via} {y : Nat}

/-- A malformed word, and a wait of a PCIe function, is counted and logged (R477, R482). -/
theorem clpOp_bad (h : clpWordBad y = true ∨ viaFunc v = true ∧ (bits y 18 16 = 1 ∨ bits y 18 16 = 2)) :
    s.clpOp v y = (s.count cntBadOp).logClasp (.notify (viaWindow v) (bits y 31 20)) St.clpBadOp (bits y 15 0) :=
  if_pos (by simpa using h)

section
variable (hw : clpWordBad y = false) (hf : ¬ (viaFunc v = true ∧ (bits y 18 16 = 1 ∨ bits y 18 16 = 2)))
include hw hf

/-- A well-formed word asks for the right of its operation, FAIL for SIGNAL's. -/
theorem clpOp_refused (hr : s.mayClasp (.notify (viaWindow v) (bits y 31 20)) (bits y 15 0) (if bits y 18 16 = 4 then 0 else bits y 18 16) = false) :
    s.clpOp v y = s.refuseClasp (.notify (viaWindow v) (bits y 31 20)) (bits y 15 0) := by
  have hle := op_le_of_wellFormed hw
  unfold State.clpOp
  refine (if_neg (by simpa [hw] using hf)).trans ?_
  generalize bits y 18 16 = o at *
  obtain rfl | rfl | rfl | rfl | rfl : o = 0 ∨ o = 1 ∨ o = 2 ∨ o = 3 ∨ o = 4 := by omega
  all_goals exact if_pos (by simpa using hr)

/-- With the right it is the operation, unless the clasp unit has no room for its wait (R480). -/
theorem clpOp_granted (hr : s.mayClasp (.notify (viaWindow v) (bits y 31 20)) (bits y 15 0) (if bits y 18 16 = 4 then 0 else bits y 18 16) = true) :
    s.clpOp v y =
      (let who := ClaspAgent.notify (viaWindow v) (bits y 31 20)
       let id := bits y 15 0
       let n := bits y 63 32
       let stall := { s with stalledOps := s.stalledOps ++ [(who, y)] }
       if bits y 18 16 = 0 then s.doSignal who id n
       else if bits y 18 16 = 1 then if s.hostWaits (claspDie id) < 4096 then s.doWait who id n else stall
       else if bits y 18 16 = 2 then if s.hostWaits (claspDie id) < 4096 then s.doArrive who id n else stall
       else if bits y 18 16 = 3 then s.doReset who id
       else s.doFail who id) := by
  have hle := op_le_of_wellFormed hw
  unfold State.clpOp
  refine (if_neg (by simpa [hw] using hf)).trans ?_
  generalize bits y 18 16 = o at *
  obtain rfl | rfl | rfl | rfl | rfl : o = 0 ∨ o = 1 ∨ o = 2 ∨ o = 3 ∨ o = 4 := by omega
  · exact if_neg (by simpa using hr)
  · exact (if_neg (by simpa using hr)).trans ((if_congr Nat.not_lt.symm rfl rfl).trans (ite_not ..))
  · exact (if_neg (by simpa using hr)).trans ((if_congr Nat.not_lt.symm rfl rfl).trans (ite_not ..))
  · exact if_neg (by simpa using hr)
  · exact if_neg (by simpa using hr)

end

end

/-! ## The rows -/

/-- The rows that store an operation word, by their OP. -/
def clpRows (v : Via) (x : Nat) : List (Nat × Instr) :=
  [(0, .clpOpSignal v x), (1, .clpOpWait v x), (2, .clpOpArrive v x), (3, .clpOpReset v x), (4, .clpOpFail v x)]

theorem op_le_of_row {v : Via} {x op : Nat} {i : Instr} (hi : (op, i) ∈ clpRows v x) : op ≤ 4 := by
  simp [clpRows] at hi
  omega

/-- A store to CLP_OP through the view's window. -/
theorem writeAW_clpOp {s : State} {v : Via} (hn : s.negotiated v) (hv : s.reachesA v 0x40000 ∨ ∃ w, s.reachesW v w 0x3000) (y : Nat) :
    s.writeAW v 0x40000 0x3000 8 y = (s.dropHeld v).clpOp v (y % 2 ^ 64) := by
  rcases hv with hv | ⟨w, hv⟩
  · have hrow : s.writeAW v 0x40000 0x3000 8 y = s.writeA v 0x40000 8 y := by
      cases v with
      | func f w => cases hv.1
      | core c w => cases hv.1
      | _ => rfl
    rw [hrow, writeA_wide hv rfl rfl rfl (.inr hn)]
    rfl
  · have hrow : s.writeAW v 0x40000 0x3000 8 y = s.writeW v 0x3000 8 y := by
      cases v with
      | func f w => rfl
      | core c w => rfl
      | _ => cases hv.1
    rw [hrow, writeW_wide hv rfl rfl rfl (.inr hn)]
    rfl

section
variable {s : State} {v : Via} {x op : Nat} {i : Instr} (hrun : s.halted = false) (hn : s.negotiated v)
  (hv : s.reachesA v 0x40000 ∨ ∃ w, s.reachesW v w 0x3000) (hi : (op, i) ∈ clpRows v x)
include hrun hn hv hi

theorem exec_clpRow : exec i s = .next ((s.dropHeld v).clpOp v (clpWord x op % 2 ^ 64)) := by
  rw [← writeAW_clpOp hn hv]
  simp only [clpRows, List.mem_cons, Prod.mk.injEq, List.not_mem_nil, or_false] at hi
  obtain ⟨rfl, rfl⟩ | ⟨rfl, rfl⟩ | ⟨rfl, rfl⟩ | ⟨rfl, rfl⟩ | ⟨rfl, rfl⟩ := hi <;>
    exact unlessOff_of_clocks (clocksOff_of_running hrun) _

theorem exec_clpRow_bad (h : clpWordBad (clpWord x op % 2 ^ 64) = true ∨ viaFunc v = true ∧ (op = 1 ∨ op = 2)) :
    exec i s = .next (((s.dropHeld v).count cntBadOp).logClasp (.notify (viaWindow v) (bits x 31 20)) St.clpBadOp (bits x 15 0)) := by
  obtain ⟨hid, hop, hnidx, -⟩ := bits_clpWord x (op_le_of_row hi)
  rw [exec_clpRow hrun hn hv hi, clpOp_bad (by rwa [hop]), hid, hnidx]

section
variable (hw : clpWordBad (clpWord x op % 2 ^ 64) = false) (hf : ¬ (viaFunc v = true ∧ (op = 1 ∨ op = 2)))
include hw hf

theorem exec_clpRow_refused (hr : (s.dropHeld v).mayClasp (.notify (viaWindow v) (bits x 31 20)) (bits x 15 0) (if op = 4 then 0 else op) = false) :
    exec i s = .next ((s.dropHeld v).refuseClasp (.notify (viaWindow v) (bits x 31 20)) (bits x 15 0)) := by
  obtain ⟨hid, hop, hnidx, -⟩ := bits_clpWord x (op_le_of_row hi)
  rw [exec_clpRow hrun hn hv hi, clpOp_refused hw (by rwa [hop]) (by rwa [hid, hop, hnidx]), hid, hnidx]

theorem exec_clpRow_granted (hr : (s.dropHeld v).mayClasp (.notify (viaWindow v) (bits x 31 20)) (bits x 15 0) (if op = 4 then 0 else op) = true) :
    exec i s = .next (let u := s.dropHeld v
      let who := ClaspAgent.notify (viaWindow v) (bits x 31 20)
      let id := bits x 15 0
      let n := bits x 63 32
      let stall := { u with stalledOps := u.stalledOps ++ [(who, clpWord x op % 2 ^ 64)] }
      if op = 0 then u.doSignal who id n
      else if op = 1 then if u.hostWaits (claspDie id) < 4096 then u.doWait who id n else stall
      else if op = 2 then if u.hostWaits (claspDie id) < 4096 then u.doArrive who id n else stall
      else if op = 3 then u.doReset who id
      else u.doFail who id) := by
  obtain ⟨hid, hop, hnidx, hval⟩ := bits_clpWord x (op_le_of_row hi)
  rw [exec_clpRow hrun hn hv hi, clpOp_granted hw (by rwa [hop]) (by rwa [hid, hop, hnidx]), hid, hop, hnidx, hval]

end

end

theorem halted_dropHeld (s : State) (v : Via) : (s.dropHeld v).halted = s.halted := by
  have k := kept_dropHeld s v
  simp only [State.halted, State.clocksOff, k.hmk_eq (by decide), k.pwr_eq (by decide), k.dev_eq (by decide)]

/-- Settles O20: a bad word is counted, one without the right is refused, and any other is the clasp's row, or stalls. -/
theorem claspOperationWords : Obligations.ClaspOperationWords := by
  unfold Obligations.ClaspOperationWords
  intro v x s hrun hn hv
  have hu : (s.dropHeld v).halted = false := (halted_dropHeld s v).trans hrun
  have hfunc {o : Nat} (hf : viaFunc v = false) : ¬ (viaFunc v = true ∧ (o = 1 ∨ o = 2)) := by simp [hf]
  refine ⟨fun op i hi => ⟨fun h => ⟨_, exec_clpRow_bad hrun hn hv hi h, ?_, countAndLog_frame _ _ _ _ _⟩,
    fun hw hf hr => ⟨_, exec_clpRow_refused hrun hn hv hi hw hf hr, refuseClasp_counts (by rintro p k ⟨⟩) _,
      refuseClasp_frame (by rintro p k ⟨⟩) _⟩⟩,
    fun hw hr => ?signal, fun hw hr => ?reset, fun hw hr => ?fail, fun hw hf hr => ?wait, fun hw hf hr => ?arrive⟩
  · exact (kept_logClasp ..).errCnt_eq (by decide)
  case signal =>
    rw [exec_clpRow_granted hrun hn hv (op := 0) (by simp [clpRows]) hw (by simp) hr, exec_claspSignal hu]
    rfl
  case reset =>
    rw [exec_clpRow_granted hrun hn hv (op := 3) (by simp [clpRows]) hw (by simp) hr, exec_claspReset hu]
    rfl
  case fail =>
    rw [exec_clpRow_granted hrun hn hv (op := 4) (by simp [clpRows]) hw (by simp) hr, exec_claspFail hu]
    rfl
  case wait =>
    rw [exec_clpRow_granted hrun hn hv (op := 1) (by simp [clpRows]) hw (hfunc hf) hr, exec_claspWait hu]
    by_cases hroom : (s.dropHeld v).hostWaits (claspDie (bits x 15 0)) < 4096 <;> simp [hroom]
  case arrive =>
    rw [exec_clpRow_granted hrun hn hv (op := 2) (by simp [clpRows]) hw (hfunc hf) hr, exec_claspArrive hu]
    by_cases hroom : (s.dropHeld v).hostWaits (claspDie (bits x 15 0)) < 4096 <;> simp [hroom]

end Sys2Proof.Machine
end

section
/-! PROOF. Threshold entries of a user window (R483, R561, R643, Table 20-19), and O21. -/

namespace Sys2Proof.Machine

/-! ## An entry whose condition holds, and one whose condition does not -/

theorem Clasp.meets_iff (c : Clasp) (t : Nat) : c.meets t = true ↔ c.err = true ∨ t ≤ c.counter := by
  rw [Clasp.meets, Bool.or_eq_true, decide_eq_true_eq]

theorem not_meets {c : Clasp} {t : Nat} (he : c.err = false) (hc : c.counter < t) : c.meets t = false := by
  rw [Clasp.meets, he, Bool.false_or, decide_eq_false (Nat.not_le.2 hc)]

/-- A fired entry is disarmed, with the clasp's value in its snapshot (R483). -/
def MsixEntry.fired (e : MsixEntry) (c : Clasp) : MsixEntry := { e with arm := false, stCounter := c.counter, stErr := c.err, stFired := true }

/-- A window with another entry. -/
def UserWin.withEntry (x : UserWin) (k : Nat) (e : MsixEntry) : UserWin := { x with msix := mput x.msix k e }

theorem withEntry_other {x : UserWin} {j k : Nat} (hj : j ≠ k) (e : MsixEntry) : mget (x.withEntry k e).msix j {} = mget x.msix j {} :=
  mget_mput_other _ _ _ _ _ hj

section
variable {s : State} {w k : Nat} {e : MsixEntry} (he : mfind (s.win w).msix k = some e)
include he

theorem fireEntry_waits (hc : (s.clasp e.id).meets e.target = false) : s.fireEntry w k = s := by
  unfold State.fireEntry
  rw [he]
  exact if_neg (by simp [hc])

theorem fireEntry_fires (ha : e.arm = true) (hc : (s.clasp e.id).meets e.target = true) (j : Nat) :
    (s.fireEntry w k).win j = if j = w then (s.win w).withEntry k (e.fired (s.clasp e.id)) else s.win j := by
  have hfire : (s.fireEntry w k).wins = (s.updWin w (fun x => x.withEntry k (e.fired (s.clasp e.id)))).wins := by
    unfold State.fireEntry
    rw [he]
    dsimp only
    rw [if_pos (by simp [ha, hc])]
    split
    · exact (kept_msix ..).wins_eq (by decide)
    · rfl
  exact (congrArg (fun ws : SMap UserWin => mget ws j {}) hfire).trans (updWin_win ..)

end

/-! ## Word 0 of an entry -/

/-- The entry with a clasp and a vector, armed. -/
def MsixEntry.armed (e : MsixEntry) (id vector : Nat) : MsixEntry := { e with id, vector, arm := true }

/-- The window's entry takes a clasp and a vector, and is armed. -/
def State.armEntry (s : State) (w k id vector : Nat) : State :=
  s.updWin w (fun y => y.withEntry k ((mget (s.win w).msix k {}).armed id vector))

theorem armEntry_win (s : State) (w k id vector j : Nat) : (s.armEntry w k id vector).win j =
    if j = w then (s.win w).withEntry k ((mget (s.win w).msix k {}).armed id vector) else s.win j := updWin_win ..

theorem armEntry_entry (s : State) (w k id vector : Nat) :
    mfind ((s.armEntry w k id vector).win w).msix k = some ((mget (s.win w).msix k {}).armed id vector) := by
  rw [armEntry_win, if_pos rfl]
  exact mfind_mput_same ..

/-- An entry that is armed where its condition does not hold waits. -/
theorem armEntry_waits {s : State} {w k id vector : Nat} (he : (s.clasp id).err = false)
    (hc : (s.clasp id).counter < (mget (s.win w).msix k {}).target) : (s.armEntry w k id vector).fireEntry w k = s.armEntry w k id vector :=
  fireEntry_waits (armEntry_entry ..) (not_meets he hc)

/-- An entry that is armed where its condition holds fires at once; no other entry changes. -/
theorem armEntry_fires {s : State} {w k id vector : Nat} (hm : (s.clasp id).err = true ∨ (mget (s.win w).msix k {}).target ≤ (s.clasp id).counter) :
    let t := (s.armEntry w k id vector).fireEntry w k
    SameBut [.wins, .fns, .out] s t ∧ (∀ j, j ≠ w → t.win j = s.win j) ∧
    (∀ j, j ≠ k → mget (t.win w).msix j {} = mget (s.win w).msix j {}) ∧
    mget (t.win w).msix k {} = ((mget (s.win w).msix k {}).armed id vector).fired (s.clasp id) := by
  have hwin := fireEntry_fires (armEntry_entry s w k id vector) rfl ((Clasp.meets_iff ..).2 hm)
  have kept : Kept 0x2000600000 s ((s.armEntry w k id vector).fireEntry w k) := .of (kept_fireEntry ..) ((kept_updWin ..).mono (by decide))
  refine ⟨kept.sameBut _ (by intro p; cases p <;> decide), fun j hj => ?_, fun j hj => ?_, ?_⟩
  · rw [hwin, if_neg hj, armEntry_win, if_neg hj]
  · rw [hwin, if_pos rfl, withEntry_other hj, armEntry_win, if_pos rfl, withEntry_other hj]
  · rw [hwin, if_pos rfl]
    exact mget_mput_same ..

section
variable {s : State} {w k x : Nat}

theorem wrMsix_badVector (h : (mget (s.win w).msix k {}).arm = false) (hv : s.vecOk w (bits x 26 16) = false) :
    s.wrMsix w k x = s.count cntDoorbell :=
  (if_neg (Bool.eq_false_iff.1 h)).trans (if_pos (by rw [hv]; rfl))

variable (harm : bit x 31 = true)
include harm

theorem wrMsix_armed (h : (mget (s.win w).msix k {}).arm = true) : s.wrMsix w k x = s.regacc :=
  (if_pos h).trans (if_pos harm)

section
variable (h : (mget (s.win w).msix k {}).arm = false) (hv : s.vecOk w (bits x 26 16) = true)
include h hv

theorem wrMsix_refused (hok : ¬ (((s.set.cur.clasp? (bits x 15 0)).map (·.msix)).getD false = true ∧
    s.mayClasp (.notify (some w) 0) (bits x 15 0) 1 = true)) : s.wrMsix w k x = s.refuseClasp (.notify (some w) 0) (bits x 15 0) := by
  unfold State.wrMsix
  dsimp only
  rw [if_neg (Bool.eq_false_iff.1 h), if_neg (by simp [hv]), if_neg (by simp [harm])]
  refine if_pos ?_
  rw [not_and_or, Bool.not_eq_true, Bool.not_eq_true] at hok
  rcases hok with hok | hok <;> rw [hok]
  · rfl
  · exact Bool.or_true _

/-- With the flag and the right, the entry is armed, and fires where its condition holds. -/
theorem wrMsix_arms (hflag : ((s.set.cur.clasp? (bits x 15 0)).map (·.msix)).getD false = true)
    (hr : s.mayClasp (.notify (some w) 0) (bits x 15 0) 1 = true) : s.wrMsix w k x = (s.armEntry w k (bits x 15 0) (bits x 26 16)).fireEntry w k := by
  unfold State.wrMsix
  dsimp only
  rw [if_neg (Bool.eq_false_iff.1 h), if_neg (by simp [hv]), if_neg (by simp [harm]), if_neg (by simp [hflag, hr])]
  rfl

end

end

/-! ## The row -/

/-- The word of CLP_MSIX_ARM: the store's, with ARM. -/
def armWord (x : Nat) : Nat := withBits x (2 ^ 31) 0 % 2 ^ 32

theorem bit_armWord (x : Nat) {k : Nat} (hk : k < 32) : bit (armWord x) k = (bit x k || decide (k = 31)) := by
  rw [armWord, bit_mod _ _ _ hk, bit_withBits, Nat.testBit_two_pow]
  simp [eq_comm]

theorem bits_armWord (x : Nat) {hi lo : Nat} (h : hi < 31) : bits (armWord x) hi lo = bits x hi lo := by
  refine Nat.eq_of_testBit_eq fun i => ?_
  unfold bits
  by_cases hi' : i < hi + 1 - lo
  · have hb := bit_armWord x (k := lo + i) (by omega)
    rw [bit_eq_testBit, bit_eq_testBit, decide_eq_false (by omega), Bool.or_false] at hb
    simp [hi', hb]
  · simp [hi']

/-- The first words of the entries are no halves of 64-bit registers. -/
theorem pair_msix (w : Nat) {k : Nat} (hk : k < 32) : (Space.win w).pair (0x3100 + 16 * k) = none := by
  have hwide : ∀ j : Fin 32, wideWin ((0x3100 + 16 * j.val) / 8 * 8) = false := by decide
  exact if_neg (Bool.eq_false_iff.1 (hwide ⟨k, hk⟩))

theorem wrWin_msix (s : State) (v : Via) (w : Nat) {k : Nat} (hk : k < 32) (y : Nat) : s.wrWin v w (0x3100 + 16 * k) y = s.wrMsix w k y := by
  have hentry : (0x3100 + 16 * k - 0x3100) / 16 = k := by omega
  have hword : (0x3100 + 16 * k) % 16 = 0 := by omega
  unfold State.wrWin
  dsimp only
  rw [if_neg (by omega), if_pos (by omega), hentry, hword]
  rfl

theorem exec_clpMsixArm {s : State} {v : Via} {w k : Nat} (hclk : s.clocksOff = false) (hk : k < 32) (hn : s.negotiated v)
    (hv : s.reachesW v w (0x3100 + 16 * k)) (x : Nat) : exec (.clpMsixArm v k x) s = .next ((s.dropHeld v).wrMsix w k (armWord x)) := by
  refine (unlessOff_of_clocks hclk _).trans (congrArg _ ((if_pos hk).trans ?_))
  rw [writeW_eq hv, regWrite_single hv.2 (leBytes_length ..) (by omega) (pair_msix w hk), put_of_negotiated (.inr (negotiated_dropHeld hn)),
    leNat_leBytes]
  exact wrWin_msix _ v w hk _

/-- Settles O21: the word of the row has ARM, and an entry that is not armed takes it when its vector and its clasp allow. -/
theorem msixThresholdArms : Obligations.MsixThresholdArms := by
  unfold Obligations.MsixThresholdArms
  intro v w k x s hclk hk hn hv
  have harm : bit (armWord x) 31 = true := by rw [bit_armWord x (by decide)]; simp
  have hid : bits (armWord x) 15 0 = bits x 15 0 := bits_armWord x (by decide)
  have hvec : bits (armWord x) 26 16 = bits x 26 16 := bits_armWord x (by decide)
  dsimp only
  rw [exec_clpMsixArm hclk hk hn hv x, ← hid, ← hvec]
  generalize s.dropHeld v = u
  refine ⟨fun h => congrArg _ (wrMsix_armed harm h), fun h hb => congrArg _ (wrMsix_badVector h hb),
    fun h hb hok => ⟨_, congrArg _ (wrMsix_refused harm h hb hok), refuseClasp_frame (by rintro p k ⟨⟩) _⟩,
    fun h hb hok he hc => ⟨_, congrArg _ ((wrMsix_arms harm h hb hok.1 hok.2).trans (armEntry_waits he hc)), rfl⟩,
    fun h hb hok hm => ⟨_, congrArg _ (wrMsix_arms harm h hb hok.1 hok.2), armEntry_fires hm⟩⟩

end Sys2Proof.Machine
end

section
/-! PROOF. The checks of session messages and what refuses them (R487, R490, R491, R492, R499), and O45. -/

namespace Sys2Proof.Machine

section
variable {s : State} {src : MsgFrom} {m : SesMsg}

/-! ## Units of a service's quota (R490) -/

section
variable {v : ServiceRec}

theorem quotaFor_none (hr : mget s.sesReserved v.svc 0 = 0) (hq : v.quota ≤ mget s.quota v.svc 0) : s.quotaFor v = none :=
  (if_neg (not_not_intro hr)).trans (if_neg (Nat.not_lt.2 hq))

/-- A unit that is reserved is taken first, and otherwise a new one. -/
theorem quotaFor_takes (h : mget s.sesReserved v.svc 0 ≠ 0 ∨ mget s.quota v.svc 0 < v.quota) : ∃ u, s.quotaFor v = some u ∧ Kept 0x18000 s u ∧
    (mget s.sesReserved v.svc 0 ≠ 0 → u.quota = s.quota ∧ mget u.sesReserved v.svc 0 = mget s.sesReserved v.svc 0 - 1) ∧
    (mget s.sesReserved v.svc 0 = 0 → u.sesReserved = s.sesReserved ∧ u.quota = mcount s.quota v.svc 1) := by
  have kept {u : State} (hu : s.quotaFor v = some u) : Kept 0x18000 s u := by
    have k := kept_quotaFor s v
    rwa [hu] at k
  by_cases hr : mget s.sesReserved v.svc 0 = 0
  · have hu : s.quotaFor v = some { s with quota := mcount s.quota v.svc 1 } :=
      (if_neg (not_not_intro hr)).trans (if_pos (h.resolve_left (not_not_intro hr)))
    exact ⟨_, hu, kept hu, fun hn => absurd hr hn, fun _ => ⟨rfl, rfl⟩⟩
  · have hu : s.quotaFor v = some { s with sesReserved := mupd s.sesReserved v.svc 0 (· - 1) } := if_pos hr
    exact ⟨_, hu, kept hu, fun _ => ⟨rfl, mget_mput_same ..⟩, fun h0 => absurd h0 hr⟩

end

/-! ## OPEN (R490) -/

theorem doOpen_badMsg (h : sesBad m 1 = true) (hub : Nat) : s.doOpen src m hub = s.refuse src m St.sesBadMsg := if_pos h

section
variable (hb : sesBad m 1 = false)
include hb

theorem doOpen_noService (h : ∀ v, s.svcFor src m = some v → v.sessions = false ∨ s.set.cur.svcHere v = false) (hub : Nat) :
    s.doOpen src m hub = s.refuse src m St.sesNoService := by
  refine (if_neg (ne_true_of_eq_false hb)).trans ?_
  cases hv : s.svcFor src m with
  | none => rfl
  | some v => exact if_pos (by simpa using h v hv)

section
variable {v : ServiceRec} (hv : s.svcFor src m = some v) (hs : v.sessions = true) (hh : s.set.cur.svcHere v = true)
include hv hs hh

theorem doOpen_full (hq : s.quotaFor v = none) (hub : Nat) : s.doOpen src m hub = s.refuse src m St.sesFull := by
  refine (if_neg (ne_true_of_eq_false hb)).trans ?_
  rw [hv]
  refine (if_neg (by simp [hs, hh])).trans ?_
  rw [hq]

/-- With a unit of the quota, the lowest free entry opens, and the answer has its handle. -/
theorem doOpen_opens {u : State} {hub k : Nat} (hq : s.quotaFor v = some u)
    (hk : (u.firstSes (hub % 2)).orElse (fun _ => u.firstSes (1 - hub % 2)) = some k) :
    let t := u.openAt k v (s.clientOf src) (leNat m.payload)
    s.doOpen src m hub = t.reply (t.backTo src) { type := 2, handle := t.sesHandle k, tag := m.tag, reqSeq := m.reqSeq } := by
  refine (if_neg (ne_true_of_eq_false hb)).trans ?_
  rw [hv]
  refine (if_neg (by simp [hs, hh])).trans ?_
  rw [hq]
  dsimp only
  rw [hk]

end

end

/-! ## REQUEST (R491) -/

theorem doRequest_badMsg (h : sesBad m 3 = true) (t : Nat) : s.doRequest src m t = s.refuse src m St.sesBadMsg := if_pos h

section
variable (hb : sesBad m 3 = false)
include hb

theorem doRequest_stale (h : s.genOk m.handle = false) (t : Nat) : s.doRequest src m t = s.refuse src m St.sesStale :=
  (if_neg (ne_true_of_eq_false hb)).trans (if_pos (by rw [h]; rfl))

variable (hg : s.genOk m.handle = true)
include hg

theorem doRequest_closed (h : (s.ses (sesIx m.handle)).state ≠ .opened) (t : Nat) : s.doRequest src m t = s.refuse src m St.sesClosed :=
  (if_neg (ne_true_of_eq_false hb)).trans ((if_neg (by simp [hg])).trans (if_pos h))

variable (ho : (s.ses (sesIx m.handle)).state = .opened)
include ho

theorem doRequest_badSeq (h : m.reqSeq ≠ (s.ses (sesIx m.handle)).nextSeq) (t : Nat) : s.doRequest src m t = s.refuse src m St.sesBadSeq :=
  (if_neg (ne_true_of_eq_false hb)).trans ((if_neg (by simp [hg])).trans ((if_neg (not_not_intro ho)).trans (if_pos h)))

/-- A request without a payload, as the session's queue keeps it. -/
def State.bareRequest (s : State) (src : MsgFrom) (m : SesMsg) (t : Nat) : Request :=
  { reqSeq := m.reqSeq, stamp := t, budget := m.budget, urgent := m.urgent, tag := m.tag, payload := 0, len := 0
    respAddr := (s.backTo src).addr, respMax := (s.backTo src).max, epoch := (s.backTo src).epoch.getD 0 }

theorem doRequest_queues (hseq : m.reqSeq = (s.ses (sesIx m.handle)).nextSeq) (hp : m.payload = []) (t : Nat) :
    s.doRequest src m t = s.updSes (sesIx m.handle) (fun e => { e with nextSeq := (e.nextSeq + 1) % 2 ^ 32, queue := e.queue ++ [s.bareRequest src m t]
                                                                       lastFrame := s.frm.count, lastAt := s.frm.tickAt }) := by
  refine (if_neg (ne_true_of_eq_false hb)).trans ((if_neg (by simp [hg])).trans ((if_neg (not_not_intro ho)).trans ((if_neg (not_not_intro hseq)).trans ?_)))
  rw [hp]
  rfl

end

/-! ## ABORT (R499) -/

theorem doAbort_badMsg (h : sesBad m 5 = true) : s.doAbort src m = s.refuse src m St.sesBadMsg := if_pos h

section
variable (hb : sesBad m 5 = false)
include hb

theorem doAbort_stale (h : s.genOk m.handle = false) : s.doAbort src m = s.refuse src m St.sesStale :=
  (if_neg (ne_true_of_eq_false hb)).trans (if_pos (by rw [h]; rfl))

variable (hg : s.genOk m.handle = true)
include hg

theorem doAbort_closed (h : (s.ses (sesIx m.handle)).state = .free) : s.doAbort src m = s.refuse src m St.sesClosed :=
  (if_neg (ne_true_of_eq_false hb)).trans ((if_neg (by simp [hg])).trans (if_pos h))

variable (ho : (s.ses (sesIx m.handle)).state ≠ .free)
include ho

theorem doAbort_noRequest (h : (s.ses (sesIx m.handle)).nextSeq ≤ m.reqSeq) : s.doAbort src m = s.refuse src m St.sesNoRequest :=
  (if_neg (ne_true_of_eq_false hb)).trans ((if_neg (by simp [hg])).trans ((if_neg ho).trans (if_pos h)))

variable (hn : m.reqSeq < (s.ses (sesIx m.handle)).nextSeq)
include hn

/-- A queued request leaves the queue, and its payload goes. -/
theorem doAbort_queued {r : Request} (hq : (s.ses (sesIx m.handle)).queue.find? (fun x => x.reqSeq == m.reqSeq) = some r) :
    let t := (s.dropObj r.payload).updSes (sesIx m.handle)
      (fun e => { e with queue := e.queue.filter (fun x => x.reqSeq != m.reqSeq), doneSeq := m.reqSeq })
    s.doAbort src m = t.reply (t.backTo src) (sesAnswer m 6 St.aborted) := by
  refine (if_neg (ne_true_of_eq_false hb)).trans ((if_neg (by simp [hg])).trans ((if_neg ho).trans ((if_neg (Nat.not_le.2 hn)).trans ?_)))
  rw [hq]

/-- A request in a lane of a batch that has not begun its commit is marked. -/
theorem doAbort_lane {l : Lane} (hq : (s.ses (sesIx m.handle)).queue.find? (fun x => x.reqSeq == m.reqSeq) = none)
    (hl : s.laneOf (sesIx m.handle) = some (false, l)) (hr : l.req.reqSeq = m.reqSeq) (ha : l.aborted = false) :
    s.doAbort src m = (s.abortLane (sesIx m.handle)).reply (s.backTo src) (sesAnswer m 6 St.aborted) := by
  refine (if_neg (ne_true_of_eq_false hb)).trans ((if_neg (by simp [hg])).trans ((if_neg ho).trans ((if_neg (Nat.not_le.2 hn)).trans ?_)))
  rw [hq, hl]
  exact if_pos ⟨hr, by rw [ha]; rfl⟩

end

/-! ## CLOSE (R492) -/

theorem doClose_badMsg (h : sesBad m 7 = true) : s.doClose src m = s.refuse src m St.sesBadMsg := if_pos h

section
variable (hb : sesBad m 7 = false)
include hb

theorem doClose_stale (h : s.genOk m.handle = false) : s.doClose src m = s.refuse src m St.sesStale :=
  (if_neg (ne_true_of_eq_false hb)).trans (if_pos (by rw [h]; rfl))

variable (hg : s.genOk m.handle = true)
include hg

theorem doClose_closed (h : (s.ses (sesIx m.handle)).state ≠ .opened) : s.doClose src m = s.refuse src m St.sesClosed :=
  (if_neg (ne_true_of_eq_false hb)).trans ((if_neg (by simp [hg])).trans (if_pos h))

theorem doClose_closes (h : (s.ses (sesIx m.handle)).state = .opened) : s.doClose src m = s.closeSes (sesIx m.handle) 0 m.tag :=
  (if_neg (ne_true_of_eq_false hb)).trans ((if_neg (by simp [hg])).trans (if_neg (not_not_intro h)))

end

/-! ## The rows -/

section
variable (hrun : s.halted = false)
include hrun

theorem exec_openSes (src : MsgFrom) (m : SesMsg) (hub n : Nat) : exec (.openSes src m hub n) s = .next ((s.at n).doOpen src m hub) :=
  unlessDown_of_running hrun _
theorem exec_request (src : MsgFrom) (m : SesMsg) (n : Nat) : exec (.request src m n) s = .next ((s.at n).doRequest src m n) :=
  unlessDown_of_running hrun _
theorem exec_abort (src : MsgFrom) (m : SesMsg) : exec (.abort src m) s = .next (s.doAbort src m) := unlessDown_of_running hrun _
theorem exec_close (src : MsgFrom) (m : SesMsg) : exec (.close src m) s = .next (s.doClose src m) := unlessDown_of_running hrun _

end

end

/-- Settles O45, message by message, in the order of the checks. -/
theorem sessionMessagesRefused : Obligations.SessionMessagesRefused := by
  unfold Obligations.SessionMessagesRefused
  intro src m hub n s hrun
  dsimp only
  rw [exec_openSes hrun, exec_request hrun, exec_abort hrun, exec_close hrun]
  refine ⟨fun h => congrArg _ (doOpen_badMsg (s := s.at n) h hub), fun hb h => congrArg _ (doOpen_noService (s := s.at n) hb h hub),
    fun v hb hv hs hh hr hq => congrArg _ (doOpen_full (s := s.at n) hb hv hs hh (quotaFor_none (s := s.at n) hr hq) hub),
    fun h => congrArg _ (doRequest_badMsg (s := s.at n) h n), fun hb h => congrArg _ (doRequest_stale (s := s.at n) hb h n),
    fun hb hg h => congrArg _ (doRequest_closed (s := s.at n) hb hg h n), fun hb hg ho h => congrArg _ (doRequest_badSeq (s := s.at n) hb hg ho h n),
    fun h => congrArg _ (doAbort_badMsg h), fun hb h => congrArg _ (doAbort_stale hb h),
    fun hb hg h => congrArg _ (doAbort_closed hb hg h), fun hb hg ho h => congrArg _ (doAbort_noRequest hb hg ho h),
    fun h => congrArg _ (doClose_badMsg h), fun hb h => congrArg _ (doClose_stale hb h),
    fun hb hg h => congrArg _ (doClose_closed hb hg h), fun st => ?_⟩
  exact (kept_refuse ..).sameBut _ (by intro p; cases p <;> decide)

end Sys2Proof.Machine
end

section
/-! PROOF. Sessions that open, queue requests, abort them and close (R490 to R492, R498, R499), and O44. -/

namespace Sys2Proof.Machine

/-! ## Free entries -/

theorem freeSes_congr {s t : State} (h : t.sessions = s.sessions) (n i : Nat) : t.freeSes n i = s.freeSes n i := by
  induction n generalizing i with
  | zero => rfl
  | succ n ih =>
    unfold State.freeSes
    rw [ih, show t.ses i = s.ses i by unfold State.ses; rw [h]]

theorem firstSes_congr {s t : State} (h : t.sessions = s.sessions) (hub : Nat) : t.firstSes hub = s.firstSes hub := by
  unfold State.firstSes
  rw [h, freeSes_congr h]

/-! ## Closing (R492, R498) -/

/-- An entry after its session has closed. -/
def Session.closed (e : Session) : Session := { e with state := .free, inBatch := false, closePending := false, slots := [], queue := [] }

/-- A close refuses the queue and drops the objects, before the entry is freed and the quota returned. -/
theorem closeNow_stages (s : State) (i status tag : Nat) : ∃ u, Kept 0x2140740002 s u ∧ s.closeNow i status tag =
    ((u.updSes i Session.closed).returnSes (s.ses i).svc).reply { client := (s.ses i).client } { type := 8, status, handle := s.sesHandle i, tag } := by
  refine ⟨_, ?_, rfl⟩
  refine .foldl (fun u p => (kept_dropObj ..).mono (by decide)) (.foldl (fun u r => ?_) (.refl ..))
  exact .of (kept_dropObj ..) ((kept_reply ..).mono (by decide))

/-- A closed session's entry is free, its unit of the quota is returned, and no other entry changes. -/
theorem closeNow_spec (s : State) (i status tag : Nat) : let t := s.closeNow i status tag
    t.ses i = (s.ses i).closed ∧ mget t.quota (s.ses i).svc 0 = mget s.quota (s.ses i).svc 0 - 1 ∧ ∀ j, j ≠ i → t.ses j = s.ses j := by
  obtain ⟨u, ku, he⟩ := closeNow_stages s i status tag
  dsimp only
  rw [he]
  have hses (j : Nat) : (((u.updSes i Session.closed).returnSes (s.ses i).svc).reply { client := (s.ses i).client }
      { type := 8, status, handle := s.sesHandle i, tag }).ses j = if j = i then (s.ses i).closed else s.ses j := by
    rw [(kept_reply ..).ses_eq (by decide), (kept_returnSes ..).ses_eq (by decide), updSes_ses, ku.ses_eq (by decide), ku.ses_eq (by decide)]
  refine ⟨(hses i).trans (if_pos rfl), ?_, fun j hj => (hses j).trans (if_neg hj)⟩
  rw [(kept_reply ..).quota_eq (by decide)]
  refine (mget_mput_same ..).trans ?_
  rw [(kept_updSes ..).quota_eq (by decide), ku.quota_eq (by decide)]

theorem closeSes_now {s : State} {i : Nat} (h : s.laneOf i = none) (status tag : Nat) : s.closeSes i status tag = s.closeNow i status tag := by
  unfold State.closeSes
  rw [h]

/-- An entry whose close waits for its batch. -/
def Session.closingFor (e : Session) (status tag : Nat) : Session :=
  { e with state := .closing, closePending := true, closeStatus := status, closeTag := tag }

/-- The close of a session in a batch marks the entry, and the lane of a batch that has not begun its commit. -/
theorem closeSes_lane {s : State} {i : Nat} {begun : Bool} {l : Lane} (h : s.laneOf i = some (begun, l)) (status tag : Nat) :
    let t := s.closeSes i status tag
    Kept 0x2140704042 s t ∧ t.ses i = (s.ses i).closingFor status tag ∧ (begun = true → t.units = s.units) := by
  have kmark : Kept 0x2140704042 s (s.updSes i (fun e => e.closingFor status tag)) := (kept_updSes ..).mono (by decide)
  have hmark : (s.updSes i (fun e => e.closingFor status tag)).ses i = (s.ses i).closingFor status tag := (updSes_ses ..).trans (if_pos rfl)
  unfold State.closeSes
  rw [h]
  dsimp only
  split
  · exact ⟨kmark, hmark, fun _ => rfl⟩
  · next hb =>
    refine ⟨.of (kept_reply ..) (.of (kept_abortLane ..) kmark), ?_, fun hbegun => absurd (by rw [hbegun]; rfl) hb⟩
    rw [(kept_reply ..).ses_eq (by decide), (kept_abortLane ..).ses_eq (by decide)]
    exact hmark

/-! ## SES_IDLE (R492) -/

/-- The session is open, has nothing to do, and has been so for IDLE_TIMEOUT. -/
def State.idledOut (s : State) (k t : Nat) (v : ServiceRec) : Prop :=
  (s.ses k).state = .opened ∧ (s.ses k).queue = [] ∧ (s.ses k).inBatch = false ∧ v.idleMs ≠ 0 ∧ (s.ses k).lastAt + v.idleMs * 10 ^ 9 ≤ t

section
variable {s : State} {k t : Nat} {v : ServiceRec} (hv : s.set.cur.svc? (s.ses k).svc = some v)
include hv

theorem idleSes_keeps (h : ¬ s.idledOut k t v) : s.idleSes k t = s := by
  unfold State.idleSes
  dsimp only
  rw [hv]
  exact if_neg (by simpa [State.idledOut] using h)

theorem idleSes_closes (h : s.idledOut k t v) : s.idleSes k t = s.closeNow k St.sesIdle 0 := by
  unfold State.idleSes
  dsimp only
  rw [hv]
  exact if_pos (by simpa [State.idledOut] using h)

end

/-! ## The rows -/

section
variable {s : State} (hrun : s.halted = false)
include hrun

theorem exec_sesQuotaReserve {svc : Nat} {v : ServiceRec} (h : s.set.cur.svc? svc = some v) : exec (.sesQuotaReserve svc) s =
    .next (if mget s.quota v.svc 0 < v.quota then { s with quota := mcount s.quota v.svc 1, sesReserved := mcount s.sesReserved svc 1 } else s) := by
  refine (unlessDown_of_running hrun _).trans (congrArg _ ?_)
  rw [h]
  dsimp only
  by_cases hq : mget s.quota v.svc 0 < v.quota
  · rw [State.reserveSes, if_pos hq, if_pos hq]
  · rw [State.reserveSes, if_neg hq, if_neg hq]

theorem exec_sesIdle (k n : Nat) : exec (.sesIdle k n) s = .next ((s.at n).idleSes k n) := unlessDown_of_running hrun _

/-- OPEN of a service with a unit of the quota left. -/
theorem exec_openSes_opens {src : MsgFrom} {m : SesMsg} {hub k : Nat} {v : ServiceRec} (hb : sesBad m 1 = false) (hv : s.svcFor src m = some v)
    (hs : v.sessions = true) (hh : s.set.cur.svcHere v = true) (hq : mget s.sesReserved v.svc 0 ≠ 0 ∨ mget s.quota v.svc 0 < v.quota)
    (hk : (s.firstSes (hub % 2)).orElse (fun _ => s.firstSes (1 - hub % 2)) = some k) (n : Nat) :
    ∃ t, exec (.openSes src m hub n) s = .next t ∧ Kept 0x214071c003 s t ∧
      (mget s.sesReserved v.svc 0 ≠ 0 → t.quota = s.quota ∧ mget t.sesReserved v.svc 0 = mget s.sesReserved v.svc 0 - 1) ∧
      (mget s.sesReserved v.svc 0 = 0 → t.sesReserved = s.sesReserved ∧ t.quota = mcount s.quota v.svc 1) ∧
      ∀ j, t.ses j = (s.openAt k v (s.clientOf src) (leNat m.payload)).ses j := by
  obtain ⟨u, hu, ku, hreserved, hnew⟩ := quotaFor_takes (s := s.at n) (v := v) hq
  have hfirst (h : Nat) : u.firstSes h = s.firstSes h :=
    (firstSes_congr (ku.sessions_eq (by decide)) h).trans (firstSes_congr (s := s) (t := s.at n) rfl h)
  have hrow := doOpen_opens (s := s.at n) hb hv hs hh hu (by rw [hfirst, hfirst]; exact hk)
  generalize hw : u.openAt k v ((s.at n).clientOf src) (leNat m.payload) = w at hrow
  have kw : Kept 0x4000 u w := hw ▸ kept_openAt ..
  have kt := kept_reply w (w.backTo src) { type := 2, handle := w.sesHandle k, tag := m.tag, reqSeq := m.reqSeq }
  refine ⟨_, (exec_openSes hrun ..).trans (congrArg _ hrow), .of kt (.of kw (.of ku ((kept_at s n).mono (by decide)))), fun hr => ?_, fun hr => ?_,
    fun j => ?_⟩
  · rw [kt.quota_eq (by decide), kt.sesReserved_eq (by decide), kw.quota_eq (by decide), kw.sesReserved_eq (by decide)]
    exact hreserved hr
  · rw [kt.quota_eq (by decide), kt.sesReserved_eq (by decide), kw.quota_eq (by decide), kw.sesReserved_eq (by decide)]
    exact hnew hr
  · have hses (i : Nat) : u.ses i = s.ses i := ku.ses_eq (by decide) i
    rw [kt.ses_eq (by decide), ← hw, State.openAt, State.openAt, updSes_ses, updSes_ses, hses, hses, ku.frm_eq (by decide)]
    rfl

/-- ABORT of a request in the queue. -/
theorem exec_abort_queued {src : MsgFrom} {m : SesMsg} {r : Request} (hb : sesBad m 5 = false) (hg : s.genOk m.handle = true)
    (ho : (s.ses (sesIx m.handle)).state ≠ .free) (hn : m.reqSeq < (s.ses (sesIx m.handle)).nextSeq)
    (hq : (s.ses (sesIx m.handle)).queue.find? (fun x => x.reqSeq == m.reqSeq) = some r) :
    ∃ t, exec (.abort src m) s = .next t ∧ Kept 0x2140744002 s t ∧ ∀ j, t.ses j = if j = sesIx m.handle then
      { s.ses j with queue := (s.ses j).queue.filter (fun x => x.reqSeq != m.reqSeq), doneSeq := m.reqSeq } else s.ses j := by
  have kd := kept_dropObj s r.payload
  have hrow := doAbort_queued (src := src) hb hg ho hn hq
  refine ⟨_, (exec_abort hrun ..).trans (congrArg _ hrow), .of (kept_reply ..) (.of (kept_updSes ..) (kd.mono (by decide))), fun j => ?_⟩
  rw [(kept_reply ..).ses_eq (by decide), updSes_ses, kd.ses_eq (by decide), kd.ses_eq (by decide)]
  split
  · next h => rw [h]
  · rfl

end

/-- Settles O44, message by message: past its checks, each changes the entry that it names, and the answer changes none. -/
theorem sessionOpensRequestsAndCloses : Obligations.SessionOpensRequestsAndCloses := by
  unfold Obligations.SessionOpensRequestsAndCloses
  intro src m hub n s hrun
  refine ⟨fun v k hb hv hs hh hq hk => ?opens, fun svc v hv => exec_sesQuotaReserve hrun hv, fun hb hg ho hseq hp => ?request,
    fun hb hg ho hn => ⟨fun r hq => ?queued, fun l hq hl hr ha => ?lane⟩,
    fun hb hg ho => ⟨fun hl => ?closes, fun begun l hl => ?closing⟩, fun k v hv => ⟨fun hi => ?keeps, fun hi => ?idle⟩⟩
  case opens =>
    obtain ⟨t, hrow, kt, hreserved, hnew, hses⟩ := exec_openSes_opens hrun hb hv hs hh hq hk n
    refine ⟨t, hrow, kt.sameBut _ (by intro p; cases p <;> decide), hreserved, hnew, ?_, fun j hj => ?_⟩
    · exact (hses k).trans ((updSes_ses ..).trans (if_pos rfl))
    · exact (hses j).trans ((updSes_ses ..).trans (if_neg hj))
  case request =>
    exact ⟨s.bareRequest src m n, (exec_request hrun ..).trans (congrArg _ (doRequest_queues (s := s.at n) hb hg ho hseq hp n)),
      rfl, rfl, rfl, rfl, rfl, rfl, rfl⟩
  case queued =>
    obtain ⟨t, hrow, kt, hses⟩ := exec_abort_queued (src := src) hrun hb hg ho hn hq
    exact ⟨t, hrow, kt.sameBut _ (by intro p; cases p <;> decide), (hses _).trans (if_pos rfl), fun j hj => (hses j).trans (if_neg hj)⟩
  case lane => rw [exec_abort hrun, doAbort_lane hb hg ho hn hq hl hr ha]
  case closes =>
    refine ⟨_, (exec_close hrun ..).trans (congrArg _ ((doClose_closes hb hg ho).trans (closeSes_now hl ..))),
      (kept_closeNow ..).sameBut _ (by intro p; cases p <;> decide), closeNow_spec ..⟩
  case closing =>
    obtain ⟨kt, hses, hunits⟩ := closeSes_lane hl 0 m.tag
    exact ⟨_, (exec_close hrun ..).trans (congrArg _ (doClose_closes hb hg ho)), kt.sameBut _ (by intro p; cases p <;> decide), hses, hunits⟩
  case keeps => exact (exec_sesIdle hrun ..).trans (congrArg _ (idleSes_keeps (s := s.at n) hv hi))
  case idle =>
    obtain ⟨hses, -, hothers⟩ := closeNow_spec (s.at n) k St.sesIdle 0
    refine ⟨_, (exec_sesIdle hrun ..).trans (congrArg _ (idleSes_closes (s := s.at n) hv hi)), ?_, hses, hothers⟩
    exact (Kept.of (m := 0x214074c003) (kept_closeNow ..) ((kept_at s n).mono (by decide))).sameBut _ (by intro p; cases p <;> decide)

end Sys2Proof.Machine
end

section
/-! PROOF. Collectives and merges that wait too long (R374, R375, R532, R534), and O35. -/

namespace Sys2Proof.Machine

/-! ## The failure of a merge (R374) -/

theorem failPulls_fails {s : State} {uid : Nat} {sl : Slice} (hs : (s.unitSt uid).slice = some sl) (status : Nat) (ps : List MtPull) :
    SliceFails s (s.failPulls uid status ps) uid sl := by
  have k := kept_foldl ps (fun s p => s.leafRec p.bead p.rank p.idx ⟨status, 0, 0⟩ false) (fun s _ => kept_leafRec s ..) s
  have hrecs := (Faults.refl hs).step (k.unitSt_eq (by decide)) (.of (k.beads_eq (by decide)) (k.clasps_eq (by decide)))
    (k.sameBut _ (by intro p; cases p <;> decide))
  exact (hrecs.noteFault _).fails ..

section
variable {s : State} (hnone : s.mtWait = [])
include hnone

theorem failPulls_mtWait (uid status : Nat) (ps : List MtPull) : (s.failPulls uid status ps).mtWait = [] :=
  fedLocal_mtWait (failSlice_mtWait (Kept.mtWait_nil (m := 0x2080200040) hnone
    (.of (kept_updSlice ..) ((kept_foldl ps _ (fun s _ => kept_leafRec s ..) s).mono (by decide)))) ..) ..

theorem failColl_mtWait (uid i status : Nat) : (s.failColl uid i status).mtWait = [] := by
  unfold State.failColl
  split
  · exact hnone
  dsimp only
  have hrecs : Kept 0x20c0722862 s ((s.coll i).parts.foldl (fun t p => t.leafRec p.bead p.rank p.idx ⟨status, 0, (s.coll i).seq⟩ false) s) :=
    (kept_foldl _ _ (fun s _ => kept_leafRec s ..) s).mono (by decide)
  generalize (s.coll i).parts.foldl _ s = u at hrecs ⊢
  refine fedLocal_mtWait (failSlice_mtWait (Kept.mtWait_nil (m := 0x20c0722862) hnone ?_) ..) ..
  split
  · exact .ite hrecs (.of (kept_opFail ..) hrecs)
  · exact .ite (.of (kept_updSlice ..) hrecs) (.of (kept_opFail ..) (.of (kept_updSlice ..) hrecs))

end

/-! ## The rows -/

section
variable {s : State} {uid : Nat} {sl : Slice} (hrun : s.halted = false) (hnone : s.mtWait = []) (hs : (s.unitSt uid).slice = some sl)
include hrun hnone hs

/-- The failure of a collective, as its row leaves it. -/
theorem exec_failColl_fails {i : Instr} {ix status : Nat} (he : exec i s = s.unlessDown (.next (s.failColl uid ix status).resumeMt)) :
    ∃ t, exec i s = .next t ∧ SliceFails s t uid sl :=
  ⟨_, (he.trans (unlessDown_of_running hrun _)).trans (congrArg _ (resumeMt_nil (failColl_mtWait hnone ..))), failColl_fails hs ..⟩

omit hs in
/-- A row that finds nothing to fail changes nothing. -/
theorem exec_keeps_of_idle {i : Instr} (he : exec i s = s.unlessDown (.next s.resumeMt)) : exec i s = .next s :=
  (he.trans (unlessDown_of_running hrun _)).trans (congrArg _ (resumeMt_nil hnone))

/-! ### COLL_TIMEOUT (R534) -/

section
variable {seq ix : Nat} (hix : s.collIx sl.serial seq = some ix)
include hix

omit hrun hnone in
theorem collExpire_open : s.collExpire uid seq =
    if (s.coll ix).since + s.set.cur.frame.collTimeout ≤ s.frm.count then s.failColl uid ix St.collTimeout else s := by
  unfold State.collExpire
  rw [hs]
  dsimp only
  rw [hix]

theorem exec_collTimeout_due (h : (s.coll ix).since + s.set.cur.frame.collTimeout ≤ s.frm.count) :
    ∃ t, exec (.collTimeout uid seq) s = .next t ∧ SliceFails s t uid sl := by
  refine exec_failColl_fails hrun hnone hs (ix := ix) (status := St.collTimeout) ?_
  change s.unlessDown (.next (s.collExpire uid seq).resumeMt) = _
  rw [collExpire_open hs hix, if_pos h]

theorem exec_collTimeout_early (h : s.frm.count < (s.coll ix).since + s.set.cur.frame.collTimeout) : exec (.collTimeout uid seq) s = .next s := by
  refine exec_keeps_of_idle hrun hnone ?_
  change s.unlessDown (.next (s.collExpire uid seq).resumeMt) = _
  rw [collExpire_open hs hix, if_neg (Nat.not_le.2 h)]

end

/-! ### MT_TIMEOUT (R374) -/

section
variable {mseq : Nat}

/-- The merge of a sequence number that has waited for its time-out. -/
def State.mergeDue (s : State) (sl : Slice) (mseq : Nat) (m : Merge) : Prop :=
  m.slice = sl.serial ∧ m.mseq = mseq ∧ m.since + s.set.cur.frame.collTimeout ≤ s.frm.count

omit hrun hnone in
theorem mtExpire_due (h : ∃ m, m ∈ s.merges ∧ s.mergeDue sl mseq m) : ∃ ps, s.mtExpire uid mseq = s.failPulls uid St.mtTimeout ps := by
  unfold State.mtExpire
  rw [hs]
  dsimp only
  obtain ⟨m, hm, hdue⟩ := h
  cases hf : s.merges.find? (fun m => m.slice == sl.serial && m.mseq == mseq && decide (m.since + s.set.cur.frame.collTimeout ≤ s.frm.count)) with
  | none => exact absurd (List.find?_eq_none.1 hf m hm) (by simpa [State.mergeDue, and_assoc] using hdue)
  | some n => exact ⟨_, rfl⟩

omit hrun hnone in
theorem mtExpire_early (h : ∀ m, m ∈ s.merges → ¬ s.mergeDue sl mseq m) : s.mtExpire uid mseq = s := by
  unfold State.mtExpire
  rw [hs]
  dsimp only
  rw [List.find?_eq_none.2 fun m hm => by simpa [State.mergeDue, and_assoc] using h m hm]

theorem exec_mtTimeout_due (h : ∃ m, m ∈ s.merges ∧ s.mergeDue sl mseq m) : ∃ t, exec (.mtTimeout uid mseq) s = .next t ∧ SliceFails s t uid sl := by
  obtain ⟨ps, hps⟩ := mtExpire_due hs h
  refine ⟨_, (unlessDown_of_running hrun _).trans (congrArg _ ?_), failPulls_fails hs St.mtTimeout ps⟩
  rw [hps, resumeMt_nil (failPulls_mtWait hnone ..)]

theorem exec_mtTimeout_early (h : ∀ m, m ∈ s.merges → ¬ s.mergeDue sl mseq m) : exec (.mtTimeout uid mseq) s = .next s := by
  refine exec_keeps_of_idle hrun hnone ?_
  change s.unlessDown (.next (s.mtExpire uid mseq).resumeMt) = _
  rw [mtExpire_early hs h]

end

/-! ### COLL_FAIL (R532) -/

section
variable {group epoch seq status : Nat} (hg : s.unitOfGroup group = some uid)
include hg

omit hrun hnone in
theorem rxCollFail_open (he : s.epochOf uid sl = epoch) {ix : Nat} (hix : s.collIx sl.serial seq = some ix) :
    s.rxCollFail group epoch seq status = s.failColl uid ix status := by
  unfold State.rxCollFail
  rw [hg]
  dsimp only
  rw [hs]
  dsimp only
  rw [if_neg (not_not.2 he), hix]

omit hrun hnone in
theorem rxCollFail_other (h : s.epochOf uid sl ≠ epoch ∨ s.collIx sl.serial seq = none) : s.rxCollFail group epoch seq status = s := by
  unfold State.rxCollFail
  rw [hg]
  dsimp only
  rw [hs]
  dsimp only
  split
  · rfl
  · next he => rw [h.resolve_left he]

theorem exec_collFail_fails (peer : Nat) (he : s.epochOf uid sl = epoch) {ix : Nat} (hix : s.collIx sl.serial seq = some ix) :
    ∃ t, exec (.collFail peer group epoch seq status) s = .next t ∧ SliceFails s t uid sl := by
  refine exec_failColl_fails hrun hnone hs (ix := ix) (status := status) ?_
  change s.unlessDown (.next (s.rxCollFail group epoch seq status).resumeMt) = _
  rw [rxCollFail_open hs hg he hix]

theorem exec_collFail_keeps (peer : Nat) (h : s.epochOf uid sl ≠ epoch ∨ s.collIx sl.serial seq = none) :
    exec (.collFail peer group epoch seq status) s = .next s := by
  refine exec_keeps_of_idle hrun hnone ?_
  change s.unlessDown (.next (s.rxCollFail group epoch seq status).resumeMt) = _
  rw [rxCollFail_other hs hg h]

end

end

/-- Settles O35: each row fails the slice through the collective or the merge that it finds, and finds none where none is due. -/
theorem collectiveAndMergeTimeouts : Obligations.CollectiveAndMergeTimeouts := by
  unfold Obligations.CollectiveAndMergeTimeouts
  intro s uid sl hrun hnone hs
  refine ⟨fun seq ix hix => ⟨exec_collTimeout_due hrun hnone hs hix, exec_collTimeout_early hrun hnone hs hix⟩,
    fun mseq => ⟨exec_mtTimeout_due hrun hnone hs, fun h => exec_mtTimeout_early hrun hnone hs fun m hm hdue => ?early⟩,
    fun peer group epoch seq status hg => ⟨fun he hix => ?fails, exec_collFail_keeps hrun hnone hs hg peer⟩⟩
  case early =>
    obtain ⟨hslice, hseq, hdue⟩ := hdue
    exact absurd (h m hm hslice hseq) (Nat.not_lt.2 hdue)
  case fails =>
    obtain ⟨ix, hix⟩ := Option.isSome_iff_exists.1 hix
    exact exec_collFail_fails hrun hnone hs hg peer he hix

end Sys2Proof.Machine
end

section
/-! PROOF. The IEEE 1588 clock (R161, R507, R508), and O52. -/

namespace Sys2Proof.Machine

/-! ## Lock gained and lost (R161, R508) -/

theorem ptpGain_spec (s : State) : let t := s.ptpGain
    t.net = { s.net with ptp := { s.net.ptp with locked := true, bad := 0 } } ∧
    (s.set.cur.frame.source = 1 → t.frm.holdover = false) ∧
    (s.set.cur.frame.source ≠ 1 → t.frm = s.frm ∧ t.errGlobal = (s.raiseG St.netPtpLock 1).errGlobal) := by
  unfold State.ptpGain
  generalize hw : (s.updPtp (fun p => { p with locked := true, bad := 0 })).raiseG St.netPtpLock 1 = w
  have kw : Kept 0x2040200000 (s.updPtp (fun p => { p with locked := true, bad := 0 })) w := hw ▸ kept_raiseG ..
  have hnet := kw.net_eq (by decide)
  have hfrm := kw.frm_eq (by decide)
  have hset := congrArg SetState.cur (kw.set_eq (by decide))
  have herr : w.errGlobal = (s.raiseG St.netPtpLock 1).errGlobal := by rw [← hw, raiseG_errGlobal, raiseG_errGlobal]; rfl
  dsimp only
  split
  · next h =>
    have kr := kept_raiseG { w with frm := { w.frm with holdover := false } } St.frmSyncRestored 0 schedAgent 0xFFFF false
    refine ⟨(kr.net_eq (by decide)).trans hnet, fun _ => congrArg FrmState.holdover (kr.frm_eq (by decide)), fun hs => absurd ?_ hs⟩
    exact hset ▸ h.1
  · next h =>
    refine ⟨hnet, fun hs => ?_, fun _ => ⟨hfrm, herr⟩⟩
    exact Bool.eq_false_iff.2 fun hh => h ⟨hset ▸ hs, hh⟩

theorem ptpLose_spec (s : State) : let t := s.ptpLose
    t.net = { s.net with ptp := { s.net.ptp with locked := false, good := 0, bad := 0 } } ∧
    (s.set.cur.frame.source = 1 → t.frm.holdover = true) ∧ (s.set.cur.frame.source ≠ 1 → t.frm = s.frm) := by
  unfold State.ptpLose
  generalize hw : (s.updPtp (fun p => { p with locked := false, good := 0, bad := 0 })).raiseG St.netPtpLock 0 = w
  have kw : Kept 0x2040200000 (s.updPtp (fun p => { p with locked := false, good := 0, bad := 0 })) w := hw ▸ kept_raiseG ..
  have hnet := kw.net_eq (by decide)
  have hset := congrArg SetState.cur (kw.set_eq (by decide))
  dsimp only
  split
  · next h =>
    have kr := kept_raiseG { w with frm := { w.frm with holdover := true } } St.frmSyncLost 0 schedAgent 0xFFFF false
    refine ⟨(kr.net_eq (by decide)).trans hnet, fun _ => congrArg FrmState.holdover (kr.frm_eq (by decide)), fun hs => absurd ?_ hs⟩
    exact hset ▸ h.1
  · next h =>
    refine ⟨hnet, fun hs => ?_, fun _ => kw.frm_eq (by decide)⟩
    by_contra hh
    exact h ⟨hset ▸ hs, by simpa using hh⟩

/-- The lock is lost, and under SOURCE 1 the device is in holdover. -/
def State.unlocked (s t : State) : Prop := t.net.ptp.locked = false ∧ t.net.ptp.good = 0 ∧ t.net.ptp.bad = 0 ∧
  (s.set.cur.frame.source = 1 → t.frm.holdover = true) ∧ (s.set.cur.frame.source ≠ 1 → t.frm = s.frm)

theorem ptpLose_unlocked (s : State) : s.unlocked s.ptpLose := by
  obtain ⟨hnet, hhold, hfrm⟩ := ptpLose_spec s
  exact ⟨congrArg (·.ptp.locked) hnet, congrArg (·.ptp.good) hnet, congrArg (·.ptp.bad) hnet, hhold, hfrm⟩

/-! ## PTP_SYNC (R507, R508) -/

/-- Sync offsets within ±50 ns in a row, after one more offset. -/
def Ptp.goodAfter (p : Ptp) (off : Int) : Nat := if -50 ≤ off ∧ off ≤ 50 then min 255 (p.good + 1) else 0

/-- Sync offsets outside ±500 ns in a row, after one more offset. -/
def Ptp.badAfter (p : Ptp) (off : Int) : Nat := if off < -500 ∨ 500 < off then p.bad + 1 else 0

/-- The servo with a new measurement: receive time minus origin time. -/
def Ptp.timed (p : Ptp) (diff adj : Int) : Ptp :=
  { p with syncDiff := diff, offset := diff - p.delay, good := p.goodAfter (diff - p.delay), bad := p.badAfter (diff - p.delay), clockAdj := adj }

/-- The device with a new measurement of the chosen master. -/
def State.timed (s : State) (diff : Int) : State :=
  { s with freeCtr := s.freeCtr + 1, net := { s.net with ptp := s.net.ptp.timed diff ((Config.free s.freeCtr : Int) - 2 ^ 63) } }

section
variable {s : State} {m : Nat}

theorem ptpSync_other (h : s.net.ptp.master ≠ some m) (origin rx : Nat) : s.ptpSync m origin rx = s := if_pos h

variable (h : s.net.ptp.master = some m)
include h

theorem ptpSync_chosen (origin rx : Nat) : s.ptpSync m origin rx =
    (let u := s.timed ((rx : Int) - origin)
     if u.net.ptp.locked = false ∧ 16 ≤ u.net.ptp.good then u.ptpGain
     else if u.net.ptp.locked = true ∧ 4 ≤ u.net.ptp.bad then u.ptpLose else u) := by
  unfold State.ptpSync
  rw [if_neg (not_not.2 h)]
  simp only [Bool.and_eq_true, Bool.or_eq_true, Bool.not_eq_true', decide_eq_true_eq]
  rfl

theorem ptpSync_gains {origin rx : Nat} (hl : s.net.ptp.locked = false)
    (hg : 16 ≤ s.net.ptp.goodAfter ((rx : Int) - origin - s.net.ptp.delay)) :
    s.ptpSync m origin rx = (s.timed ((rx : Int) - origin)).ptpGain := (ptpSync_chosen h ..).trans (if_pos ⟨hl, hg⟩)

theorem ptpSync_loses {origin rx : Nat} (hl : s.net.ptp.locked = true)
    (hb : 4 ≤ s.net.ptp.badAfter ((rx : Int) - origin - s.net.ptp.delay)) :
    s.ptpSync m origin rx = (s.timed ((rx : Int) - origin)).ptpLose := by
  refine (ptpSync_chosen h ..).trans ((if_neg fun hn => ?_).trans (if_pos ⟨hl, hb⟩))
  exact absurd (hl.symm.trans hn.1) (by decide)

theorem ptpSync_stays {origin rx : Nat} (hg : s.net.ptp.locked = false → s.net.ptp.goodAfter ((rx : Int) - origin - s.net.ptp.delay) < 16)
    (hb : s.net.ptp.locked = true → s.net.ptp.badAfter ((rx : Int) - origin - s.net.ptp.delay) < 4) :
    s.ptpSync m origin rx = s.timed ((rx : Int) - origin) :=
  (ptpSync_chosen h ..).trans ((if_neg fun hn => Nat.not_le.2 (hg hn.1) hn.2).trans (if_neg fun hn => Nat.not_le.2 (hb hn.1) hn.2))

/-- Whatever becomes of the lock, the measurement is noted, and the master and the path delay stay. -/
theorem ptpSync_measures (origin rx : Nat) : let p := (s.ptpSync m origin rx).net.ptp
    p.offset = (rx : Int) - origin - s.net.ptp.delay ∧ p.syncDiff = (rx : Int) - origin ∧ p.master = s.net.ptp.master ∧ p.delay = s.net.ptp.delay := by
  rw [ptpSync_chosen h]
  dsimp only
  split
  · rw [(ptpGain_spec _).1]
    exact ⟨rfl, rfl, rfl, rfl⟩
  split
  · rw [(ptpLose_spec _).1]
    exact ⟨rfl, rfl, rfl, rfl⟩
  · exact ⟨rfl, rfl, rfl, rfl⟩

end

/-! ## PTP_ANNOUNCE (R507) -/

/-- The better of the best master so far and another. -/
def betterMaster (b : Option (Nat × Nat)) (m : Nat × Nat) : Option (Nat × Nat) :=
  match b with
  | none => some m
  | some c => if m.2 < c.2 then some m else b

theorem betterMaster_foldl (ms : SMap Nat) (c : Nat × Nat) :
    ∃ d, ms.foldl betterMaster (some c) = some d ∧ d ∈ c :: ms ∧ ∀ x, x ∈ c :: ms → d.2 ≤ x.2 := by
  induction ms generalizing c with
  | nil => exact ⟨c, rfl, List.mem_singleton_self c, fun x hx => by rw [List.mem_singleton.1 hx]⟩
  | cons m t ih =>
    have hstep : betterMaster (some c) m = some (if m.2 < c.2 then m else c) := (apply_ite some ..).symm
    obtain ⟨d, hd, hmem, hmin⟩ := ih (if m.2 < c.2 then m else c)
    refine ⟨d, by rw [List.foldl_cons, hstep, hd], ?_, ?_⟩
    · split at hmem <;> simp only [List.mem_cons] at hmem ⊢ <;> tauto
    · have hc : d.2 ≤ c.2 ∧ d.2 ≤ m.2 := by
        have := hmin _ List.mem_cons_self
        split at this <;> omega
      simp only [List.mem_cons, forall_eq_or_imp]
      exact ⟨hc.1, hc.2, fun x hx => hmin x (List.mem_cons_of_mem _ hx)⟩

theorem bestMaster_least {ms : SMap Nat} (h : ms ≠ []) : ∃ b q, bestMaster ms = some b ∧ (b, q) ∈ ms ∧ ∀ x, x ∈ ms → q ≤ x.2 := by
  obtain ⟨c, t, rfl⟩ := List.exists_cons_of_ne_nil h
  obtain ⟨⟨b, q⟩, hd, hmem, hmin⟩ := betterMaster_foldl t c
  exact ⟨b, q, congrArg (Option.map Prod.fst) hd, hmem, hmin⟩

theorem mput_ne_nil {α : Type} (m : SMap α) (k : Nat) (v : α) : mput m k v ≠ [] := fun h => by
  have hv := mfind_mput_same m k v
  rw [h] at hv
  exact absurd hv (by simp [mfind])

/-! ## The rows -/

section
variable {s : State} (hrun : s.halted = false)
include hrun

theorem exec_ptpSync (m origin rx : Nat) : exec (.ptpSync m origin rx) s = .next (s.ptpSync m origin rx) := unlessDown_of_running hrun _

theorem exec_ptpDelayResp (m a b : Nat) : exec (.ptpDelayResp m a b) s = .next (if s.net.ptp.master ≠ some m then s
    else s.updPtp (fun p => { p with delay := (p.syncDiff + ((b : Int) - a)) / 2 })) := unlessDown_of_running hrun _

theorem exec_ptpAnnounceTimeout : exec .ptpAnnounceTimeout s = .next (let u := s.updPtp (fun p => { p with masters := [], master := none })
    if s.net.ptp.locked then u.ptpLose else u) := unlessDown_of_running hrun _

end

/-- Settles O52: the counts of a Sync decide between gaining, losing and keeping the lock, and the fold over the masters heard finds a least. -/
theorem ptpRowsAct : Obligations.PtpRowsAct := by
  unfold Obligations.PtpRowsAct
  intro s m hrun
  refine ⟨fun hm a b => ⟨?_, ?_⟩, fun hm origin rx => ⟨⟨_, exec_ptpSync hrun .., ?sync⟩, ?delay⟩, fun prio tm => ?announce, ?timeout,
    fun tm => unlessDown_of_running hrun _⟩
  · rw [exec_ptpSync hrun, ptpSync_other hm]
  · rw [exec_ptpDelayResp hrun, if_pos hm]
  case sync =>
    obtain ⟨hoff, hdiff, hmaster, hdelay⟩ := ptpSync_measures hm origin rx
    refine ⟨(kept_ptpSync ..).sameBut _ (by intro p; cases p <;> decide), hoff, hdiff, hmaster, hdelay, fun hl hg => ?_, fun hl hg => ?_,
      fun hl hb => ?_, fun hl hb => ?_⟩
    · rw [ptpSync_stays hm (fun _ => hg) (fun ht => absurd (hl.symm.trans ht) (by decide))]
      exact ⟨hl, rfl, rfl, rfl⟩
    · rw [ptpSync_gains hm hl hg]
      obtain ⟨hnet, hhold, hrest⟩ := ptpGain_spec (s.timed ((rx : Int) - origin))
      refine ⟨congrArg (·.ptp.locked) hnet, congrArg (·.ptp.bad) hnet, hhold, fun hs => ⟨(hrest hs).1, (hrest hs).2.trans ?_⟩⟩
      rw [raiseG_errGlobal, raiseG_errGlobal]
      rfl
    · rw [ptpSync_stays hm (fun hf => absurd (hl.symm.trans hf) (by decide)) (fun _ => hb)]
      exact ⟨hl, rfl, rfl, rfl⟩
    · rw [ptpSync_loses hm hl hb]
      exact ptpLose_unlocked (s.timed ((rx : Int) - origin))
  case delay => rw [exec_ptpDelayResp hrun, if_neg (not_not.2 hm)]; rfl
  case announce =>
    refine ⟨_, unlessDown_of_running hrun _, Part.forall.2 (by simp [Part.same]), rfl, rfl, ?_⟩
    exact bestMaster_least (mput_ne_nil _ _ _)
  case timeout =>
    refine ⟨_, exec_ptpAnnounceTimeout hrun, ?_⟩
    dsimp only
    split
    · next hl =>
      generalize hu : s.updPtp (fun p => { p with masters := [], master := none }) = u
      obtain ⟨hnet, -, -⟩ := ptpLose_spec u
      refine ⟨?_, ?_, ?_, ?_, ?_, fun _ => ?_, fun hf => absurd (hl.symm.trans hf) (by decide)⟩
      · exact (Kept.of (m := 0x2040300010) (kept_ptpLose u) (hu ▸ (kept_updPtp ..).mono (by decide))).sameBut _ (by intro p; cases p <;> decide)
      · rw [hnet, ← hu]; rfl
      · rw [hnet, ← hu]; rfl
      · rw [hnet, ← hu]; rfl
      · rw [hnet, ← hu]; rfl
      · rw [← hu]
        exact ptpLose_unlocked (s.updPtp _)
    · next hl =>
      have k := kept_updPtp s (fun p => { p with masters := [], master := none })
      exact ⟨k.sameBut _ (by intro p; cases p <;> decide), rfl, rfl, rfl, rfl, fun ht => absurd ht hl, fun _ => k.sameBut _ (by intro p; cases p <;> decide)⟩

end Sys2Proof.Machine
end

section
/-! PROOF. The shared operations of the transport: peers, ports, and what goes out to a peer (R503, R505, R511, R515, R519). -/

namespace Sys2Proof.Machine

/-! ## Frames -/

theorem sameBut_net (s : State) (n : NetState) : SameBut [.net] s { s with net := n } := Part.forall.2 (by simp [Part.same])

theorem sameBut_net_within {l : List Part} (h : .net ∈ l) (s : State) (n : NetState) : SameBut l s { s with net := n } :=
  (sameBut_net s n).mono fun _ hp hn => hp (List.mem_singleton.1 hn ▸ h)

theorem sameBut_net_out (s : State) (n : NetState) (o : List Out) : SameBut [.net, .out] s { s with net := n, out := o } :=
  Part.forall.2 (by simp [Part.same])

theorem sameBut_free_net_out (s : State) (c : Nat) (n : NetState) (o : List Out) :
    SameBut [.freeCtr, .net, .out] s { s with freeCtr := c, net := n, out := o } := Part.forall.2 (by simp [Part.same])

/-! ## Peers -/

theorem mem_of_mfind {α : Type} {m : SMap α} {k : Nat} {v : α} (h : mfind m k = some v) : (k, v) ∈ m := by
  induction m with
  | nil => cases h
  | cons p t ih =>
    obtain ⟨a, w⟩ := p
    unfold mfind at h
    split at h
    · next e => cases h; cases e; exact List.mem_cons_self
    · exact List.mem_cons_of_mem _ (ih h)

theorem updPeer_eq {s : State} {p : Nat} {x : Peer} (h : s.peer? p = some x) (f : Peer → Peer) :
    s.updPeer p f = { s with net := { s.net with peers := mput s.net.peers p (f x) } } := by
  unfold State.updPeer
  rw [h]

theorem updPeer_none {s : State} {p : Nat} (h : s.peer? p = none) (f : Peer → Peer) : s.updPeer p f = s := by
  unfold State.updPeer
  rw [h]

theorem updPeer_peer? (s : State) (p q : Nat) (f : Peer → Peer) :
    (s.updPeer p f).peer? q = if q = p then (s.peer? p).map f else s.peer? q := by
  cases h : s.peer? p with
  | none =>
    rw [updPeer_none h]
    split
    · next e => rw [e, h]; rfl
    · rfl
  | some x =>
    rw [updPeer_eq h]
    exact mfind_mput ..

theorem updPeer_ports (s : State) (p : Nat) (f : Peer → Peer) : (s.updPeer p f).net.ports = s.net.ports := by
  unfold State.updPeer
  split <;> rfl

theorem Peer.updVc_vc (x : Peer) (v w : Nat) (f : PeerVc → PeerVc) : (x.updVc v f).vc w = if w = v then f (x.vc v) else x.vc w := mget_mput ..

theorem Peer.vc_default {x : Peer} {v : Nat} (h : mfind x.vcs v = none) : x.vc v = {} := by
  unfold Peer.vc mget
  rw [h]
  rfl

/-- A fact about every listed channel, and about an empty one, holds of each channel. -/
theorem Peer.vc_of_all {x : Peer} {f : PeerVc → Bool} (h : x.vcs.all (fun v => f v.2) = true) (he : f {} = true) (v : Nat) : f (x.vc v) = true := by
  cases hv : mfind x.vcs v with
  | none => rw [Peer.vc_default hv, he]
  | some c =>
    have hc : x.vc v = c := by unfold Peer.vc mget; rw [hv]; rfl
    rw [hc]
    exact List.all_eq_true.1 h _ (mem_of_mfind hv)

/-- Nothing waits to be sent to the peer. -/
def Peer.Quiet (x : Peer) : Prop := ∀ v, (x.vc v).backlog = []

theorem Peer.quiet_of_all {x : Peer} (h : x.vcs.all (fun v => v.2.backlog.isEmpty) = true) : x.Quiet := fun v =>
  List.isEmpty_iff.1 (Peer.vc_of_all (f := fun c => c.backlog.isEmpty) h rfl v)

theorem Peer.quiet_of_idle {x : Peer} (h : x.busy = false) : x.Quiet := fun v => by
  have hb := Peer.vc_of_all (x := x) (f := fun c => !(!c.sent.isEmpty || !c.backlog.isEmpty)) (by rw [← List.not_any_eq_all_not]; exact congrArg not h) rfl v
  simp only [Bool.not_or, Bool.not_not, Bool.and_eq_true, List.isEmpty_iff] at hb
  exact hb.2

theorem Peer.sent_of_idle {x : Peer} (h : x.busy = false) (v : Nat) : (x.vc v).sent = [] := by
  have hb := Peer.vc_of_all (x := x) (f := fun c => !(!c.sent.isEmpty || !c.backlog.isEmpty)) (by rw [← List.not_any_eq_all_not]; exact congrArg not h) rfl v
  simp only [Bool.not_or, Bool.not_not, Bool.and_eq_true, List.isEmpty_iff] at hb
  exact hb.1

theorem Peer.quiet_updVc {x : Peer} (h : x.Quiet) {v : Nat} {f : PeerVc → PeerVc} (hf : (f (x.vc v)).backlog = (x.vc v).backlog) :
    (x.updVc v f).Quiet := fun w => by
  rw [Peer.updVc_vc]
  split
  · exact hf.trans (h v)
  · exact h w

/-! ## Ports and paths (R503, R505, R519) -/

theorem updPort_port (s : State) (n j : Nat) (f : Port → Port) : (s.updPort n f).port j = if j = n then f (s.port n) else s.port j := mget_mput ..

/-- The setting and the paths that are up are the same. -/
structure SameUp (s t : State) : Prop where
  set : t.set = s.set
  up : ∀ j, (t.port j).up = (s.port j).up

namespace SameUp
variable {s t : State}

/-- An operation that changes a port not in its paths. -/
theorem updPort (s : State) (n : Nat) {f : Port → Port} (hf : ∀ x, (f x).up = x.up) : SameUp s (s.updPort n f) := by
  refine ⟨rfl, fun j => ?_⟩
  rw [updPort_port]
  split
  · next e => rw [hf, e]
  · rfl

variable (h : SameUp s t)
include h

theorem pathUp (k : Nat) : t.pathUp k = s.pathUp k := by
  unfold State.pathUp
  rw [h.set, h.up]

theorem upPaths : t.upPaths = s.upPaths := by
  unfold State.upPaths
  rw [funext h.pathUp]

theorem peerPaths (x : Peer) : t.peerPaths x = s.peerPaths x := by
  unfold State.peerPaths
  rw [h.upPaths]

theorem rateMax (x : Peer) : t.rateMax x = s.rateMax x := by
  unfold State.rateMax
  rw [h.upPaths, h.set]

theorem helloBytes (hh : t.hmk = s.hmk) (v : Nat) : t.helloBytes v = s.helloBytes v := by
  unfold State.helloBytes State.tRange State.verRange State.offered State.pathMask
  rw [h.upPaths, h.set, hh]

end SameUp

/-- Moreover, so are the paths that PFC pauses. -/
structure SameWays (s t : State) : Prop extends SameUp s t where
  paused : ∀ j, (t.port j).paused = (s.port j).paused

/-- The paths to a peer that PFC does not pause. -/
def State.freePaths (s : State) (x : Peer) : List Nat := (s.peerPaths x).filter (fun k => !s.paused k)

namespace SameWays
variable {s t u : State}

theorem refl (s : State) : SameWays s s := ⟨⟨rfl, fun _ => rfl⟩, fun _ => rfl⟩

theorem trans (h : SameWays s t) (g : SameWays t u) : SameWays s u :=
  ⟨⟨g.set.trans h.set, fun j => (g.up j).trans (h.up j)⟩, fun j => (g.paused j).trans (h.paused j)⟩

theorem of_ports (hs : t.set = s.set) (hp : t.net.ports = s.net.ports) : SameWays s t := by
  refine ⟨⟨hs, fun j => ?_⟩, fun j => ?_⟩ <;> unfold State.port <;> rw [hp]

/-- An operation that changes a port neither in its paths nor in its pauses. -/
theorem updPort (s : State) (n : Nat) {f : Port → Port} (hu : ∀ x, (f x).up = x.up) (hp : ∀ x, (f x).paused = x.paused) : SameWays s (s.updPort n f) := by
  refine ⟨.updPort s n hu, fun j => ?_⟩
  rw [updPort_port]
  split
  · next e => rw [hp, e]
  · rfl

theorem freePaths (h : SameWays s t) (x : Peer) : t.freePaths x = s.freePaths x := by
  unfold State.freePaths State.paused
  simp only [h.peerPaths, h.paused]

end SameWays

/-- The paths to a peer follow its PATHS field and its suspects. -/
theorem freePaths_congr (s : State) {x y : Peer} (hp : y.paths = x.paths) (hs : y.suspects = x.suspects) : s.freePaths y = s.freePaths x := by
  unfold State.freePaths State.peerPaths
  rw [hp, hs]

/-! ## Sending (R515, R519) -/

/-- A segment on a path, with what it acknowledges. -/
def Peer.stamp (x : Peer) (path : Nat) (g : Segment) : Segment :=
  { g with path, ackPsn := (x.vc g.vc).rxPsn, sack := (x.vc g.vc).sack, ece := x.ceSeen }

/-- A channel that owes no acknowledgement. -/
def PeerVc.settled (c : PeerVc) : PeerVc := { c with unackedRx := 0 }

/-- A peer that a segment has gone to: it owes nothing on the segment's channel, and no ECE. -/
def Peer.sentTo (x : Peer) (vc : Nat) : Peer := { x.updVc vc (·.settled) with ceSeen := false, segs := (x.segs + 1) % 2 ^ 64 }

theorem sentTo_vc (x : Peer) (v w : Nat) : (x.sentTo v).vc w = if w = v then (x.vc v).settled else x.vc w := Peer.updVc_vc x v w (·.settled)

theorem putSeg_eq {s : State} {p : Nat} {x : Peer} (h : s.peer? p = some x) (k : Nat) (g : Segment) : s.putSeg p k g =
    { s with net := { s.net with peers := mput s.net.peers p (x.sentTo g.vc), pathTx := mcount s.net.pathTx k 1 }, out := s.out ++ [.segment k (x.stamp k g)] } := by
  unfold State.putSeg
  rw [h]
  dsimp only
  rw [updPeer_eq h]
  rfl

theorem pickPath_none {s : State} {x : Peer} (h : s.freePaths x = []) : s.pickPath x = (none, s) := by
  unfold State.pickPath
  change (match s.freePaths x with | [] => _ | _ => _) = _
  rw [h]

theorem pickPath_some {s : State} {x : Peer} (h : s.freePaths x ≠ []) : ∃ k, k ∈ s.freePaths x ∧ s.pickPath x = (some k, { s with freeCtr := s.freeCtr + 1 }) := by
  obtain ⟨a, t, hps⟩ := List.exists_cons_of_ne_nil h
  have hlt : Config.free s.freeCtr % (a :: t).length < (a :: t).length := Nat.mod_lt _ (Nat.succ_pos _)
  refine ⟨_, by rw [hps]; exact List.getElem_mem hlt, ?_⟩
  unfold State.pickPath
  change (match s.freePaths x with | [] => _ | _ => _) = _
  rw [hps]
  exact Prod.ext (List.getElem?_eq_getElem hlt) rfl

theorem pickPath_one {s : State} {x : Peer} {k : Nat} (h : s.freePaths x = [k]) : s.pickPath x = (some k, { s with freeCtr := s.freeCtr + 1 }) := by
  obtain ⟨j, hj, he⟩ := pickPath_some (s := s) (x := x) (by rw [h]; exact List.cons_ne_nil _ _)
  rw [h, List.mem_singleton] at hj
  rw [he, hj]

/-- With nothing waiting, nothing is sent. -/
theorem pumpPeer_quiet {s : State} {p : Nat} (h : ∀ x, s.peer? p = some x → x.Quiet) : s.pumpPeer p = s := by
  refine List.foldlRecOn (motive := fun t : State => t = s) _ _ rfl fun t ht v _ => ?_
  subst ht
  unfold State.pumpVcF
  split
  · rfl
  · next x hx => rw [h x hx v]

/-! ## What sending keeps -/

/-- Sending changes no port, and of a peer neither the connection nor this package's own HELLO. -/
structure PumpKeeps (s t : State) : Prop where
  set : t.set = s.set
  ports : t.net.ports = s.net.ports
  peers : ∀ q x, s.peer? q = some x → ∃ y, t.peer? q = some y ∧ y.connected = x.connected ∧ y.helloSent = x.helloSent

namespace PumpKeeps
variable {s t u : State}

theorem refl (s : State) : PumpKeeps s s := ⟨rfl, rfl, fun _ x h => ⟨x, h, rfl, rfl⟩⟩

theorem trans (h : PumpKeeps s t) (g : PumpKeeps t u) : PumpKeeps s u := by
  refine ⟨g.set.trans h.set, g.ports.trans h.ports, fun q x hx => ?_⟩
  obtain ⟨y, hy, hc, hh⟩ := h.peers q x hx
  obtain ⟨z, hz, gc, gh⟩ := g.peers q y hy
  exact ⟨z, hz, gc.trans hc, gh.trans hh⟩

theorem updPeer (s : State) (p : Nat) {f : Peer → Peer} (hc : ∀ x, (f x).connected = x.connected) (hh : ∀ x, (f x).helloSent = x.helloSent) :
    PumpKeeps s (s.updPeer p f) := by
  refine ⟨(kept_updPeer ..).set_eq (by decide), updPeer_ports .., fun q x hx => ?_⟩
  rw [updPeer_peer?]
  split
  · next e => exact ⟨f x, by rw [← e, hx]; rfl, hc x, hh x⟩
  · exact ⟨x, hx, rfl, rfl⟩

theorem putSeg (s : State) (p k : Nat) (g : Segment) : PumpKeeps s (s.putSeg p k g) := by
  cases h : s.peer? p with
  | none =>
    unfold State.putSeg
    rw [h]
    exact .refl s
  | some x =>
    rw [putSeg_eq h]
    refine ⟨rfl, rfl, fun q y hy => ?_⟩
    by_cases e : q = p
    · rw [e, h] at hy
      cases hy
      exact ⟨x.sentTo g.vc, by rw [e]; exact mfind_mput_same .., rfl, rfl⟩
    · exact ⟨y, (mfind_mput_other _ _ _ _ e).trans hy, rfl, rfl⟩

theorem pumpVcF (n : Nat) (s : State) (p v : Nat) : PumpKeeps s (s.pumpVcF n p v) := by
  induction n generalizing s with
  | zero => exact .refl s
  | succ n ih =>
    unfold State.pumpVcF
    split
    · exact .refl s
    split
    · exact .refl s
    split
    · exact .refl s
    split
    · exact .refl s
    · rename_i x _ _ _ _ _ _ _ k s' hk
      have kp : Kept 0x2 s s' := Kept.snd_eq hk (kept_pickPath s x)
      have hs' : PumpKeeps s s' := ⟨kp.set_eq (by decide), congrArg _ (kp.net_eq (by decide)), fun q y hy =>
        ⟨y, by unfold State.peer?; rw [kp.net_eq (by decide)]; exact hy, rfl, rfl⟩⟩
      refine .trans (.trans (.trans hs' ?_) (.putSeg ..)) (ih _)
      exact .updPeer s' p (fun _ => rfl) fun _ => rfl

theorem foldl {α : Type} (l : List α) {f : State → α → State} (h : ∀ s a, PumpKeeps s (f s a)) (s : State) : PumpKeeps s (l.foldl f s) :=
  List.foldlRecOn (motive := fun t : State => PumpKeeps s t) _ _ (.refl s) fun t ht a _ => ht.trans (h t a)

theorem pumpPeer (s : State) (p : Nat) : PumpKeeps s (s.pumpPeer p) := .foldl _ (fun s v => .pumpVcF 64 s p v) s

end PumpKeeps

/-! ## The receive buffer (R505) -/

/-- A change of the receive buffer's level: the port counts it, and XOFF or XON may go out. -/
theorem rxLevel_eq (s : State) (path : Nat) (f : Nat → Nat) : s.rxLevel path f =
    (let x := s.port (path / 4)
     let n := f x.rxBytes
     let u := s.updPort (path / 4) (fun x => { x with rxBytes := n })
     if x.xoffSent = false ∧ 1572864 < n then (u.updPort (path / 4) (fun x => { x with xoffSent := true })).emit (.pause path true)
     else if x.xoffSent = true ∧ n < 1048576 then (u.updPort (path / 4) (fun x => { x with xoffSent := false })).emit (.pause path false)
     else u) := by
  have hoff (n : Nat) : ((s.updPort (path / 4) (fun x => { x with rxBytes := n })).port (path / 4)).xoffSent = (s.port (path / 4)).xoffSent := by
    rw [updPort_port, if_pos rfl]
  unfold State.rxLevel
  dsimp only
  simp only [hoff, Bool.and_eq_true, Bool.not_eq_true', decide_eq_true_eq]

/-- `t` is `s` with another level of a port's receive buffer. -/
structure Leveled (s t : State) : Prop where
  kept : Kept 0x2000100000 s t
  ways : SameWays s t
  rest : t.net = { s.net with ports := t.net.ports }
  out : ∃ os, t.out = s.out ++ os ∧ ∀ o, o ∈ os → ∃ k b, o = .pause k b

theorem rxLevel_leveled (s : State) (path : Nat) (f : Nat → Nat) : Leveled s (s.rxLevel path f) := by
  refine ⟨kept_rxLevel .., ?_, ?_, ?_⟩
  all_goals rw [rxLevel_eq]; dsimp only
  · have hw (n : Nat) : SameWays s (s.updPort (path / 4) (fun x => { x with rxBytes := n })) := .updPort _ _ (fun _ => rfl) fun _ => rfl
    have hx (b : Bool) (t : State) : SameWays t ((t.updPort (path / 4) (fun x => { x with xoffSent := b })).emit (.pause path b)) :=
      .trans (t := t.updPort (path / 4) (fun x => { x with xoffSent := b })) (.updPort _ _ (fun _ => rfl) fun _ => rfl) (.of_ports rfl rfl)
    split
    · exact (hw _).trans (hx ..)
    split
    · exact (hw _).trans (hx ..)
    · exact hw _
  · split
    · rfl
    split <;> rfl
  · split
    · exact ⟨_, rfl, by simp⟩
    split
    · exact ⟨_, rfl, by simp⟩
    · exact ⟨[], (List.append_nil _).symm, by simp⟩

/-- The segment leaves the receive buffer. -/
structure Taken (s t : State) : Prop where
  kept : Kept 0x2000100000 s t
  ways : SameWays s t
  peers : t.net.peers = s.net.peers
  ops : t.net.remoteOps = s.net.remoteOps
  out : ∃ os, t.out = s.out ++ os ∧ ∀ o, o ∈ os → ∃ k b, o = .pause k b

theorem takeSeg_taken (s : State) (path : Nat) (g : Segment) : Taken s (s.takeSeg path g) := by
  by_cases h : s.net.accepted.contains g = true
  · obtain ⟨-, ways, rest, out⟩ := rxLevel_leveled { s with net := { s.net with accepted := s.net.accepted.erase g } } path (· - segSize g)
    rw [← show s.takeSeg path g = _ from if_pos h] at ways rest out
    exact ⟨kept_takeSeg .., ⟨⟨ways.set, ways.up⟩, ways.paused⟩, congrArg (·.peers) rest, congrArg (·.remoteOps) rest, out⟩
  · rw [show s.takeSeg path g = s from if_neg h]
    exact ⟨.refl _ s, .refl s, rfl, rfl, [], (List.append_nil _).symm, by simp⟩

end Sys2Proof.Machine
end

section
/-! PROOF. Acknowledgements, segments sent again, connections and lost peers (R485, R512 to R516, R537). -/

namespace Sys2Proof.Machine

/-! ## Acknowledgements (R515) -/

/-- A channel after what a segment acknowledges on it. -/
def PeerVc.ackedBy (c : PeerVc) (g : Segment) : PeerVc :=
  { c with ackPsn := if decide (ahead g.ackPsn c.ackPsn < 2 ^ 31) then g.ackPsn else c.ackPsn
           sent := c.sent.filter (fun h => !ackCovers g.ackPsn g.sack h.seg.psn) }

/-- The peer after what a segment acknowledges. -/
def Peer.ackedBy (x : Peer) (now : Nat) (g : Segment) : Peer :=
  { x.updVc g.vc (·.ackedBy g) with
    lastAckAt := now, lastBusyAt := now, ece := x.ece || g.ece
    eceMarks := if g.ece then (x.eceMarks + 1) % 2 ^ 64 else x.eceMarks }

theorem ackedBy_vc (x : Peer) (now : Nat) (g : Segment) (v : Nat) :
    (x.ackedBy now g).vc v = if v = g.vc then (x.vc g.vc).ackedBy g else x.vc v := Peer.updVc_vc x g.vc v (·.ackedBy g)

theorem ackedBy_quiet {x : Peer} (h : x.Quiet) (now : Nat) (g : Segment) : (x.ackedBy now g).Quiet :=
  Peer.quiet_updVc (f := (·.ackedBy g)) (v := g.vc) h rfl

/-- The PSNs that three later ones have passed. -/
def Peer.late (x : Peer) (g : Segment) : List Nat :=
  (((x.vc g.vc).sent.filter (fun h => !ackCovers g.ackPsn g.sack h.seg.psn)).filter
    (fun h => h.sends == 1 && decide (3 ≤ sackBeyond g.ackPsn g.sack h.seg.psn))).map (·.seg.psn)

/-- The device that has noted what a segment acknowledges. -/
def State.ackNoted (s : State) (path : Nat) (g : Segment) (x : Peer) : State :=
  { s with net := { s.net with peers := mput s.net.peers g.src (x.ackedBy s.now g)
                               pathEce := if g.ece then mcount s.net.pathEce path 1 else s.net.pathEce } }

theorem late_of_none_sent {x : Peer} {g : Segment} (h : (x.vc g.vc).sent = []) : x.late g = [] := by
  unfold Peer.late
  rw [h]
  rfl

section
variable {s : State} {g : Segment} {x : Peer} (h : s.peer? g.src = some x)
include h

theorem acked_eq (path : Nat) : s.acked path g = ((x.late g).foldl (fun s n => s.resend g.src g.vc n) (s.ackNoted path g x)).pumpPeer g.src := by
  unfold State.acked
  rw [h]
  dsimp only
  rw [updPeer_eq h]
  unfold State.ackNoted Peer.ackedBy
  cases g.ece <;> rfl

omit h in
theorem ackNoted_peer? (path : Nat) : (s.ackNoted path g x).peer? g.src = some (x.ackedBy s.now g) := mfind_mput_same ..

/-- Nothing to send again and nothing that waits. -/
theorem acked_quiet (path : Nat) (hl : x.late g = []) (hq : x.Quiet) : s.acked path g = s.ackNoted path g x := by
  rw [acked_eq h, hl]
  refine pumpPeer_quiet fun y hy => ?_
  obtain rfl : x.ackedBy s.now g = y := Option.some.inj ((ackNoted_peer? path).symm.trans hy)
  exact ackedBy_quiet hq _ _

theorem acked_idle (path : Nat) (hb : x.busy = false) : s.acked path g = s.ackNoted path g x :=
  acked_quiet h path (late_of_none_sent (Peer.sent_of_idle hb _)) (Peer.quiet_of_idle hb)

end

/-- The acknowledgement of a virtual channel. -/
def State.ackSeg (s : State) (p v : Nat) : Segment := { type := 1, vc := v, src := s.set.cur.netPkg.pkgId, dst := p }

section
variable {s : State} {p v : Nat} {x : Peer} (h : s.peer? p = some x)
include h

theorem sendAck_none (hf : s.freePaths x = []) : s.sendAck p v = s := by
  unfold State.sendAck
  rw [h]
  dsimp only
  rw [pickPath_none hf]

theorem sendAck_some (hf : s.freePaths x ≠ []) : ∃ k, k ∈ s.freePaths x ∧ s.sendAck p v = { s with
    freeCtr := s.freeCtr + 1
    net := { s.net with peers := mput s.net.peers p (x.sentTo v), pathTx := mcount s.net.pathTx k 1 }
    out := s.out ++ [.segment k (x.stamp k (s.ackSeg p v))] } := by
  obtain ⟨k, hk, hp⟩ := pickPath_some hf
  refine ⟨k, hk, ?_⟩
  unfold State.sendAck
  rw [h]
  dsimp only
  rw [hp]
  exact putSeg_eq (s := { s with freeCtr := s.freeCtr + 1 }) h k _

/-- An acknowledgement, sent or not, changes of its channel only how much is owed. -/
theorem sendAck_vc : ∃ y n, (s.sendAck p v).peer? p = some y ∧ y.vc v = { x.vc v with unackedRx := n } ∧ (s.freePaths x ≠ [] → n = 0) := by
  by_cases hf : s.freePaths x = []
  · exact ⟨x, (x.vc v).unackedRx, by rw [sendAck_none h hf, h], rfl, fun hn => absurd hf hn⟩
  · obtain ⟨k, -, he⟩ := sendAck_some (v := v) h hf
    exact ⟨x.sentTo v, 0, by rw [he]; exact mfind_mput_same .., (sentTo_vc ..).trans (if_pos rfl), fun _ => rfl⟩

omit h in
theorem sendAck_remoteOps (s : State) (p v : Nat) : (s.sendAck p v).net.remoteOps = s.net.remoteOps := by
  unfold State.sendAck
  split
  · rfl
  · rename_i x hx
    by_cases hf : s.freePaths x = []
    · rw [pickPath_none hf]
    · obtain ⟨k, -, hp⟩ := pickPath_some hf
      rw [hp]
      exact congrArg (·.net.remoteOps) (putSeg_eq (s := { s with freeCtr := s.freeCtr + 1 }) hx k _)

end

/-! ## Sending again (R516, R520) -/

/-- A segment that goes out again on a path: its timeout doubles up to 1 ms. -/
def SentSeg.again (h : SentSeg) (now k : Nat) : SentSeg :=
  { seg := { h.seg with path := k }, sends := h.sends + 1, sentAt := now, rto := min 1000 (2 * h.rto) }

/-- A peer to which a segment goes out again. -/
def Peer.resent (x : Peer) (now v psn k : Nat) : Peer :=
  { x.updVc v (fun c => { c with sent := c.sent.map (fun h => if h.seg.psn = psn then h.again now k else h) }) with
    resends := (x.resends + 1) % 2 ^ 64 }

/-- With one path free and fewer than 8 times sent, the segment goes out again there. -/
theorem resend_eq {s : State} {p v psn k : Nat} {x : Peer} {i : SentSeg} (h : s.peer? p = some x)
    (hi : (x.vc v).sent.find? (·.seg.psn == psn) = some i) (hn : i.sends < 7) (hf : s.freePaths x = [k]) : s.resend p v psn =
    { s with
      freeCtr := s.freeCtr + 1
      net := { s.net with peers := mput (mput s.net.peers p (x.resent s.now v psn k)) p ((x.resent s.now v psn k).sentTo i.seg.vc)
                          pathTx := mcount s.net.pathTx k 1, pathResend := mcount s.net.pathResend k 1 }
      out := s.out ++ [.segment k ((x.resent s.now v psn k).stamp k i.seg)] } := by
  have hpaths : s.peerPaths x ≠ [] := fun hp => by simp [State.freePaths, hp] at hf
  unfold State.resend
  rw [h]
  dsimp only
  rw [if_neg hpaths, hi, pickPath_one hf]
  dsimp only
  rw [if_neg (by omega), updPeer_eq (s := { s with freeCtr := s.freeCtr + 1 }) h]
  refine putSeg_eq (x := x.resent s.now v psn k) ?_ k _
  exact mfind_mput_same ..

/-- Nothing of the peer went out on the path. -/
theorem resendPath_none {s : State} {p path : Nat} (h : ∀ x, s.peer? p = some x → x.vcs.all (fun c => c.2.sent.all (·.seg.path != path)) = true) :
    s.resendPath p path = s := by
  unfold State.resendPath
  split
  · rfl
  · next x hx =>
    have hnone : x.vcs.flatMap (fun c => (c.2.sent.filter (·.seg.path == path)).map (fun g => (c.1, g.seg.psn))) = [] := by
      refine List.flatMap_eq_nil_iff.2 fun c hc => List.map_eq_nil_iff.2 (List.filter_eq_nil_iff.2 fun g hg => ?_)
      simpa using List.all_eq_true.1 (List.all_eq_true.1 (h x hx) c hc) g hg
    rw [hnone]
    rfl

/-! ## Lost peers (R485, R516, R537) -/

/-- The wake of the bead that waits for an operation at a lost peer. -/
def State.wakeLost (s : State) (o : RemoteOp) : State :=
  match o.bead with
  | some b => s.updBead b (fun x => { x with wake := some true })
  | none => s

theorem sameBut_wakeLost (s : State) (o : RemoteOp) : SameBut [.beads] s (s.wakeLost o) := by
  unfold State.wakeLost
  split
  · exact Part.forall.2 (by simp [Part.same])
  · exact .refl _ s

theorem wakeLost_bead (s : State) (o : RemoteOp) (b : Nat) : (s.wakeLost o).bead b = if o.bead = some b then { s.bead b with wake := some true } else s.bead b := by
  unfold State.wakeLost
  split
  · next c hc =>
    rw [updBead_bead, hc]
    by_cases e : b = c
    · rw [if_pos e, if_pos (congrArg some e.symm), e]
    · rw [if_neg e, if_neg fun hb => e (Option.some.inj hb).symm]
  · next hc => rw [hc]; rfl

theorem wakesLost (ops : List RemoteOp) (s : State) : SameBut [.beads] s (ops.foldl State.wakeLost s) ∧
    ∀ b, (s.bead b).wake = some true ∨ (∃ o, o ∈ ops ∧ o.bead = some b) → ((ops.foldl State.wakeLost s).bead b).wake = some true := by
  induction ops generalizing s with
  | nil => exact ⟨.refl _ s, fun b h => h.resolve_right (by rintro ⟨o, ho, -⟩; cases ho)⟩
  | cons a t ih =>
    obtain ⟨hs, hb⟩ := ih (s.wakeLost a)
    refine ⟨(sameBut_wakeLost s a).trans hs, fun b h => hb b ?_⟩
    rw [wakeLost_bead]
    split
    · exact .inl rfl
    · next hn =>
      refine h.imp_right ?_
      rintro ⟨o, ho, he⟩
      exact ⟨o, (List.mem_cons.1 ho).resolve_left fun hoa => hn (hoa ▸ he), he⟩

/-- The peer is held no more, and its record is raised. -/
def State.peerDropped (s : State) (p : Nat) : State :=
  ({ s with net := { s.net with peers := mdel s.net.peers p } } : State).raiseG St.netPeerLost p

/-- Does a wait come from elsewhere than a peer? -/
def Waiter.notOf (p : Nat) : Waiter → Bool
  | .remote q _ => q != p
  | _ => true

/-- The waits of a peer are withdrawn. -/
def State.waitsWithdrawn (s : State) (p : Nat) : State :=
  { s with clasps := s.clasps.map (fun c => (c.1, { c.2 with waits := c.2.waits.filter (fun w => w.who.notOf p) })) }

/-- The operations at a peer end, and their beads wake. -/
def State.opsLost (s : State) (p : Nat) : State :=
  (s.net.remoteOps.filter (·.peer == p)).foldl State.wakeLost { s with net := { s.net with remoteOps := s.net.remoteOps.filter (·.peer != p) } }

theorem losePeer_eq {s : State} {p : Nat} {x : Peer} (h : s.peer? p = some x) : s.losePeer p =
    (let t := ((s.peerDropped p).waitsWithdrawn p).resumeStalled.opsLost p
     (t.set.cur.feds.filter (fun f => f.peers.any (fun q => q.2 == p && q.1 != f.rank))).foldl
       (fun s f => if (s.fed f.fedUid).formed then (s.collsLost f).dissolve f else s) t) := by
  unfold State.losePeer
  rw [h]
  rfl

/-- No federation of the setting has the package as a member. -/
def State.unfederated (s : State) (p : Nat) : Prop := s.set.cur.feds.all (fun f => f.peers.all (fun r => r.2 != p)) = true

theorem lostFeds_nil {s : State} {p : Nat} (h : s.unfederated p) :
    s.set.cur.feds.filter (fun f => f.peers.any (fun q => q.2 == p && q.1 != f.rank)) = [] := by
  refine List.filter_eq_nil_iff.2 fun f hf => ?_
  have hp := List.all_eq_true.1 h f hf
  simp only [List.all_eq_true, bne_iff_ne] at hp
  simp only [List.any_eq_true, Bool.and_eq_true, beq_iff_eq, not_exists, not_and]
  exact fun q hq e => absurd e (hp q hq)

/-- A peer of no federation, lost with nothing stalled: it is held no more, its record is raised, its waits are withdrawn, and
every bead that waits for an operation there wakes with an error. -/
theorem losePeer_alone {s : State} {p : Nat} {x : Peer} (h : s.peer? p = some x) (hst : s.stalledOps = []) (hfed : s.unfederated p) :
    let t := s.losePeer p
    SameBut [.beads, .clasps, .net, .fns, .errGlobal, .out] s t ∧ t.peer? p = none ∧ t.errGlobal = (s.raiseG St.netPeerLost p).errGlobal ∧
      t.net.remoteOps = s.net.remoteOps.filter (·.peer != p) ∧
      ∀ o b, o ∈ s.net.remoteOps → o.peer = p → o.bead = some b → (t.bead b).wake = some true := by
  have kd : Kept 0x2040200000 ({ s with net := { s.net with peers := mdel s.net.peers p } } : State) (s.peerDropped p) := kept_raiseG ..
  have hnet := kd.net_eq (by decide)
  have herr : (s.peerDropped p).errGlobal = (s.raiseG St.netPeerLost p).errGlobal := by
    unfold State.peerDropped
    rw [raiseG_errGlobal, raiseG_errGlobal]
    rfl
  have hframe : SameBut [.clasps, .net, .fns, .errGlobal, .out] s ((s.peerDropped p).waitsWithdrawn p) :=
    .trans (t := s.peerDropped p) (.trans (t := { s with net := { s.net with peers := mdel s.net.peers p } }) (sameBut_net_within (by decide) _ _)
      (kd.sameBut _ (by intro q; cases q <;> decide))) (Part.forall.2 (by simp [Part.same, State.waitsWithdrawn]))
  have hresume := resumeStalled_nil ((hframe .stalledOps (by decide)).trans hst)
  generalize hw : (s.peerDropped p).waitsWithdrawn p = w at hframe hresume
  have hwnet : w.net = { s.net with peers := mdel s.net.peers p } := by rw [← hw]; exact hnet
  have hwerr : w.errGlobal = (s.raiseG St.netPeerLost p).errGlobal := by rw [← hw]; exact herr
  obtain ⟨hops, hwake⟩ := wakesLost (w.net.remoteOps.filter (·.peer == p)) { w with net := { w.net with remoteOps := w.net.remoteOps.filter (·.peer != p) } }
  have hset : (w.opsLost p).set = s.set := (hops .set (by decide)).trans (hframe .set (by decide))
  have hlost : s.losePeer p = w.opsLost p := by
    rw [losePeer_eq h, hw, hresume]
    dsimp only
    rw [lostFeds_nil (s := w.opsLost p) (by unfold State.unfederated; rw [hset]; exact hfed)]
    rfl
  have hopsnet : (w.opsLost p).net = { w.net with remoteOps := w.net.remoteOps.filter (·.peer != p) } := hops .net (by decide)
  rw [hlost]
  refine ⟨?_, ?_, (hops .errGlobal (by decide)).trans hwerr, ?_, fun o b ho hp hb => hwake b (.inr ⟨o, List.mem_filter.2 ⟨?_, beq_iff_eq.2 hp⟩, hb⟩)⟩
  · exact .trans (hframe.mono (by intro q; cases q <;> decide)) (.trans (t := { w with net := { w.net with remoteOps := w.net.remoteOps.filter (·.peer != p) } })
      (sameBut_net_within (by decide) _ _) (hops.mono (by intro q; cases q <;> decide)))
  · unfold State.peer?
    rw [hopsnet, hwnet]
    exact (mfind_mdel ..).trans (if_pos rfl)
  · rw [hopsnet, hwnet]
  · rw [hwnet]
    exact ho

/-! ## Connections (R512 to R514) -/

/-- The peer of a new connection. -/
def State.met (s : State) (p : Nat) (h : HelloBody) (version : Nat) : Peer :=
  let old := s.peer? p
  let x : Peer := { pkg := p, connected := true, version, features := featOf version (h.features &&& 0xF), paths := h.paths
                    addr := if h.addrs.isEmpty then (old.map (·.addr)).getD [] else h.addrs
                    vcs := (old.map (fun y => if y.connected then [] else y.vcs)).getD [], lastAckAt := s.now, lastBusyAt := s.now }
  { x with rate := s.rateMax x / 8 }

/-- The device that holds a peer. -/
def State.withPeer (s : State) (p : Nat) (x : Peer) : State := { s with net := { s.net with peers := mput s.net.peers p x } }

theorem withPeer_peer? (s : State) (p : Nat) (x : Peer) : (s.withPeer p x).peer? p = some x := mfind_mput_same ..

theorem connect_eq (s : State) (p : Nat) (h : HelloBody) (version : Nat) : s.connect p h version = (s.withPeer p (s.met p h version)).pumpPeer p := rfl

/-- A connection with nothing to send. -/
theorem connect_quiet {s : State} {p : Nat} (hv : ∀ x, s.peer? p = some x → x.connected = true ∨ x.vcs = []) (h : HelloBody) (version : Nat) :
    s.connect p h version = s.withPeer p (s.met p h version) ∧ (s.met p h version).vcs = [] := by
  have hnew : (s.met p h version).vcs = [] := by
    change ((s.peer? p).map _).getD [] = []
    cases hp : s.peer? p with
    | none => rfl
    | some y =>
      dsimp only [Option.map_some, Option.getD_some]
      rcases hv y hp with hc | hc
      · rw [if_pos hc]
      · rw [hc, ite_self]
  refine ⟨?_, hnew⟩
  rw [connect_eq]
  refine pumpPeer_quiet fun y hy => ?_
  obtain rfl := Option.some.inj ((withPeer_peer? s p _).symm.trans hy)
  exact Peer.quiet_of_all (by rw [hnew]; rfl)

/-- A connection that forms holds no HELLO of this package. -/
theorem connect_peer (s : State) (p : Nat) (h : HelloBody) (version : Nat) :
    ∃ y, (s.connect p h version).peer? p = some y ∧ y.connected = true ∧ y.helloSent = false :=
  (PumpKeeps.pumpPeer ..).peers p _ (withPeer_peer? s p _)

end Sys2Proof.Machine
end

section
/-! PROOF. HELLO and HELLO_ACK (R512 to R514), and O60. -/

namespace Sys2Proof.Machine

/-! ## What a device offers -/

theorem Taken.peer? {s t : State} (h : Taken s t) (p : Nat) : t.peer? p = s.peer? p := congrArg (mfind · p) h.peers

theorem Taken.tRange {s t : State} (h : Taken s t) : t.tRange = s.tRange := by
  unfold State.tRange State.verRange State.offered
  rw [h.ways.set, h.kept.hmk_eq (by decide)]

/-- This package's own HELLO to a package is out and unanswered. -/
def State.asking (s : State) (p : Nat) : Prop := ∃ x, s.peer? p = some x ∧ x.helloSent = true ∧ x.connected = false

theorem asking_iff (s : State) (p : Nat) : (s.peer? p).any (fun x => x.helloSent && !x.connected) = true ↔ s.asking p := by
  unfold State.asking
  cases s.peer? p <;> simp

/-! ## HELLO (R512, R513) -/

section
variable {s : State} {path : Nat} {g : Segment} {h : HelloBody}

/-- Of two crossing HELLOs the lower package's own one stands. -/
theorem helloIn_stands (ha : s.asking g.src) (hlt : s.set.cur.netPkg.pkgId < g.src) : s.helloIn path g h = s := by
  refine if_pos ?_
  rw [Bool.and_eq_true]
  exact ⟨(asking_iff ..).2 ha, decide_eq_true hlt⟩

variable (hn : ¬ (s.asking g.src ∧ s.set.cur.netPkg.pkgId < g.src))
include hn

theorem helloIn_goes : s.helloIn path g h =
    (let hi := min s.tRange.2 h.verMax
     if hi < max s.tRange.1 h.verMin then
       ({ s with net := { s.net with peers := s.net.peers.filter (fun q => q.1 != g.src || q.2.connected) } }).bye g.src path St.netVersion
     else if (s.peer? g.src).isNone ∧ s.set.cur.maxPeers ≤ s.net.peers.length then (s.raiseG St.netPeersFull g.src).bye g.src path St.netPeersFull
     else (s.connect g.src h hi).putCtl g.src path 3 0 (s.helloBytes hi)) := by
  refine if_neg ?_
  rw [Bool.and_eq_true, asking_iff, decide_eq_true_eq]
  exact hn

theorem helloIn_unversioned (hv : min s.tRange.2 h.verMax < max s.tRange.1 h.verMin) : s.helloIn path g h =
    ({ s with net := { s.net with peers := s.net.peers.filter (fun q => q.1 != g.src || q.2.connected) } }).bye g.src path St.netVersion :=
  (helloIn_goes hn).trans (if_pos hv)

variable (hv : max s.tRange.1 h.verMin ≤ min s.tRange.2 h.verMax)
include hv

theorem helloIn_full (hp : s.peer? g.src = none) (hfull : s.set.cur.maxPeers ≤ s.net.peers.length) :
    s.helloIn path g h = (s.raiseG St.netPeersFull g.src).bye g.src path St.netPeersFull :=
  (helloIn_goes hn).trans ((if_neg (Nat.not_lt.2 hv)).trans (if_pos ⟨by rw [hp]; rfl, hfull⟩))

theorem helloIn_answers (hroom : s.peer? g.src = none → s.net.peers.length < s.set.cur.maxPeers) : s.helloIn path g h =
    (s.connect g.src h (min s.tRange.2 h.verMax)).putCtl g.src path 3 0 (s.helloBytes (min s.tRange.2 h.verMax)) := by
  refine (helloIn_goes hn).trans ((if_neg (Nat.not_lt.2 hv)).trans (if_neg fun hf => ?_))
  exact absurd (hroom (Option.isNone_iff_eq_none.1 hf.1)) (Nat.not_lt.2 hf.2)

end

/-! ## HELLO_ACK (R512) -/

section
variable {s : State} {g : Segment} {h : HelloBody} {x : Peer} (hx : s.peer? g.src = some x)
include hx

theorem helloAckIn_connects (hsent : x.helloSent = true) (hc : x.connected = false) (hv : max s.tRange.1 h.verMin ≤ min s.tRange.2 h.verMax) :
    s.helloAckIn g h = s.connect g.src h (min s.tRange.2 h.verMax) := by
  unfold State.helloAckIn
  rw [hx]
  exact if_pos (by simp only [hsent, hc, hv, decide_true]; rfl)

theorem helloAckIn_ignored (hn : x.helloSent = false ∨ x.connected = true ∨ min s.tRange.2 h.verMax < max s.tRange.1 h.verMin) : s.helloAckIn g h = s := by
  unfold State.helloAckIn
  rw [hx]
  refine if_neg fun ha => ?_
  simp only [Bool.and_eq_true, Bool.not_eq_true', decide_eq_true_eq] at ha
  obtain ⟨⟨hsent, hc⟩, hv⟩ := ha
  rcases hn with hn | hn | hn
  · exact absurd (hn.symm.trans hsent) (by decide)
  · exact absurd (hn.symm.trans hc) (by decide)
  · exact absurd hv (Nat.not_le.2 hn)

end

theorem exec_hello {s : State} (hrun : s.halted = false) (path : Fin 32) (g : Segment) (h : HelloBody) :
    exec (.hello path g h) s = .next ((s.takeSeg path.val g).helloIn path.val g h) := unlessDown_of_running hrun _

theorem exec_helloAck {s : State} (hrun : s.halted = false) (path : Fin 32) (g : Segment) (h : HelloBody) :
    exec (.helloAck path g h) s = .next ((s.takeSeg path.val g).helloAckIn g h) := unlessDown_of_running hrun _

/-- Settles O60: the lower package leaves its HELLO out; the higher one forms the connection, which holds no HELLO of its own any more. -/
theorem crossedHelloOfLowerPackageStands : Obligations.CrossedHelloOfLowerPackageStands := by
  unfold Obligations.CrossedHelloOfLowerPackageStands
  intro path g h s x hrun hx hsent hconn hne
  have hu := takeSeg_taken s path.val g
  have hid : (s.takeSeg path.val g).set.cur.netPkg.pkgId = s.set.cur.netPkg.pkgId := by rw [hu.ways.set]
  have hux := (hu.peer? g.src).trans hx
  rw [exec_hello hrun]
  refine ⟨fun hlt => ⟨congrArg _ (helloIn_stands ⟨x, hux, hsent, hconn⟩ (by rwa [hid])), hux⟩, fun hlt hv => ?_⟩
  rw [helloIn_answers (fun ha => absurd ha.2 (by rw [hid]; exact Nat.lt_asymm hlt)) (by rwa [hu.tRange])
    (fun hnone => absurd (hnone.symm.trans hux) (by simp))]
  obtain ⟨y, hy, hyc, hyh⟩ := connect_peer (s.takeSeg path.val g) g.src h (min (s.takeSeg path.val g).tRange.2 h.verMax)
  generalize hw : (s.takeSeg path.val g).connect g.src h _ = w at hy
  refine ⟨_, y, _, rfl, hy, hyc, hyh, List.mem_append_right _ (List.mem_singleton_self _), rfl, rfl, fun p' g' h' hg => ?_⟩
  generalize ht : w.putCtl g.src path.val 3 0 _ = t
  have hty : t.peer? g'.src = some y := by rw [← ht, hg]; exact hy
  have htrun : t.halted = false := by
    have k : Kept 0x2000100002 s t := ht ▸ .of (kept_putCtl ..) (hw ▸ .of (kept_connect ..) (hu.kept.mono (by decide)))
    unfold State.halted State.clocksOff at hrun ⊢
    rw [k.dev_eq (by decide), k.hmk_eq (by decide), k.pwr_eq (by decide)]
    exact hrun
  rw [exec_helloAck htrun, helloAckIn_ignored (((takeSeg_taken ..).peer? _).trans hty) (.inl hyh)]

end Sys2Proof.Machine
end

section
/-! PROOF. Frames, PFC, paths that come and go, and the congestion control (R502, R505, R506, R509, R518 to R522), and O49. -/

namespace Sys2Proof.Machine

/-! ## Frames (R502, R509) -/

section
variable {s : State} {path : Nat} {fcs crc ce : Bool} {prio : Nat} {g : Segment}

/-- A segment that the checks accept, in the receive buffer. -/
def State.buffered (s : State) (path : Nat) (ce : Bool) (g : Segment) : State :=
  (if ce && s.set.cur.netPkg.encap != 0 then s.updPeer g.src (fun x => { x with ceSeen := true }) else s).accept path g

theorem frameIn_down (h : s.pathUp path = false) : s.frameIn path fcs crc ce prio g = s := if_pos (by rw [h]; rfl)

variable (hup : s.pathUp path = true)
include hup

theorem frameIn_badFcs : s.frameIn path false crc ce prio g = s.updPort (path / 4) (fun x => { x with err := (x.err + 1) % 2 ^ 64 }) := by
  unfold State.frameIn
  rw [hup]
  rfl

theorem frameIn_priority (hp : prio ≠ s.set.cur.netPkg.pfcPrio) :
    s.frameIn path true crc ce prio g = s.updPort (path / 4) (fun x => { x with prioDrop := (x.prioDrop + 1) % 2 ^ 64 }) := by
  unfold State.frameIn
  rw [hup]
  exact if_pos hp

variable (hp : prio = s.set.cur.netPkg.pfcPrio) (hfi : s.set.cur.fis = [])
include hp hfi

theorem frameIn_checks : s.frameIn path true crc ce prio g =
    if crc = false ∨ g.hver ≠ 1 ∨ 6 < g.type then { s with net := { s.net with badSegment := (s.net.badSegment + 1) % 2 ^ 64 } }
    else s.buffered path ce g := by
  unfold State.frameIn
  dsimp only
  rw [hup, inject_none hfi]
  by_cases hb : crc = false ∨ g.hver ≠ 1 ∨ 6 < g.type
  · rw [if_pos hb]
    exact (if_neg Bool.false_ne_true).trans ((if_neg Bool.false_ne_true).trans ((if_neg (not_not.2 hp)).trans
      ((if_neg Bool.false_ne_true).trans (if_pos (by simpa [or_assoc] using hb)))))
  · rw [if_neg hb]
    exact (if_neg Bool.false_ne_true).trans ((if_neg Bool.false_ne_true).trans ((if_neg (not_not.2 hp)).trans
      ((if_neg Bool.false_ne_true).trans ((if_neg (by simpa [or_assoc] using hb)).trans (if_neg Bool.false_ne_true)))))

end

/-! ### The receive buffer (R505) -/

section
variable {s : State} {path : Nat} {f : Nat → Nat}

theorem rxLevel_rxBytes : ((s.rxLevel path f).port (path / 4)).rxBytes = f (s.port (path / 4)).rxBytes := by
  rw [rxLevel_eq]
  dsimp only
  split
  · exact congrArg Port.rxBytes ((updPort_port ..).trans (if_pos rfl)) |>.trans (congrArg Port.rxBytes ((updPort_port ..).trans (if_pos rfl)))
  split
  · exact congrArg Port.rxBytes ((updPort_port ..).trans (if_pos rfl)) |>.trans (congrArg Port.rxBytes ((updPort_port ..).trans (if_pos rfl)))
  · exact congrArg Port.rxBytes ((updPort_port ..).trans (if_pos rfl))

variable (hoff : (s.port (path / 4)).xoffSent = false)
include hoff

/-- XOFF goes out as the buffer passes 1.5 MiB. -/
theorem rxLevel_passes (hn : 1572864 < f (s.port (path / 4)).rxBytes) :
    (s.rxLevel path f).out = s.out ++ [.pause path true] ∧ ((s.rxLevel path f).port (path / 4)).xoffSent = true := by
  rw [rxLevel_eq]
  dsimp only
  rw [if_pos ⟨hoff, hn⟩]
  exact ⟨rfl, congrArg Port.xoffSent ((updPort_port ..).trans (if_pos rfl))⟩

theorem rxLevel_below (hn : f (s.port (path / 4)).rxBytes ≤ 1572864) :
    (s.rxLevel path f).out = s.out ∧ ((s.rxLevel path f).port (path / 4)).xoffSent = false := by
  rw [rxLevel_eq]
  dsimp only
  rw [if_neg (fun h => absurd h.2 (Nat.not_lt.2 hn)), if_neg (fun h => absurd (hoff.symm.trans h.1) (by decide))]
  exact ⟨rfl, (congrArg Port.xoffSent ((updPort_port ..).trans (if_pos rfl))).trans hoff⟩

end

/-- What the arrival of a good segment leaves, with none of its channel held back. -/
theorem buffered_spec (s : State) (path : Nat) (ce : Bool) (g : Segment) (hre : ∀ h, h ∈ s.net.reorder → ¬ (h.src = g.src ∧ h.vc = g.vc)) :
    let n := (s.port (path / 4)).rxBytes + (48 + g.payload.length)
    let t := s.buffered path ce g
    SameBut [.net, .out] s t ∧ t.net.accepted = s.net.accepted ++ [g] ∧ (t.port (path / 4)).rxBytes = n ∧
    ((s.port (path / 4)).xoffSent = false → 1572864 < n → t.out = s.out ++ [.pause path true] ∧ (t.port (path / 4)).xoffSent = true) ∧
    ((s.port (path / 4)).xoffSent = false → n ≤ 1572864 → t.out = s.out ∧ (t.port (path / 4)).xoffSent = false) ∧
    (ce = true → s.set.cur.netPkg.encap ≠ 0 → ∀ x, s.peer? g.src = some x → t.peer? g.src = some { x with ceSeen := true }) := by
  unfold State.buffered
  generalize hu : (if ce && s.set.cur.netPkg.encap != 0 then s.updPeer g.src (fun x => { x with ceSeen := true }) else s) = u
  have hnet : u.net = { s.net with peers := u.net.peers } := by
    rw [← hu]
    unfold State.updPeer
    split
    · split <;> rfl
    · rfl
  have k : Kept 0x100000 s u := hu ▸ .ite (kept_updPeer ..) (.refl _ s)
  have hport (j : Nat) : u.port j = s.port j := by unfold State.port; rw [hnet]
  have hbehind : u.net.reorder.filter (fun h => h.src == g.src && h.vc == g.vc) = [] := by
    refine List.filter_eq_nil_iff.2 fun h hh => ?_
    rw [hnet] at hh
    simpa using hre h hh
  unfold State.accept
  dsimp only
  rw [hbehind]
  generalize hw : ({ u with net := { u.net with
    accepted := u.net.accepted ++ [g], reorder := u.net.reorder.filter (fun h => !(h.src == g.src && h.vc == g.vc)) } } : State) = w
  have hwp : w.port (path / 4) = s.port (path / 4) := by rw [← hw]; exact hport _
  have hwo : w.out = s.out := by rw [← hw]; exact k.out_eq (by decide)
  have hlev := rxLevel_leveled w path (· + segSize g)
  refine ⟨?_, ?_, ?_, fun hoff hn => ?_, fun hoff hn => ?_, fun hce hen x hx => ?_⟩
  · have kw : Kept 0x2000100000 s w := hw ▸ .trans (k.mono (by decide)) (by with_reducible exact Kept.mk (.refl _ u))
    exact (kw.trans hlev.kept).sameBut _ (by intro p; cases p <;> decide)
  · rw [hlev.rest, ← hw]
    exact congrArg (·.accepted ++ [g]) hnet
  · rw [rxLevel_rxBytes, hwp]
    rfl
  · have := rxLevel_passes (s := w) (path := path) (f := (· + segSize g)) (by rw [hwp, hoff]) (by rw [hwp]; exact hn)
    rwa [hwo] at this
  · have := rxLevel_below (s := w) (path := path) (f := (· + segSize g)) (by rw [hwp, hoff]) (by rw [hwp]; exact hn)
    rwa [hwo] at this
  · have hpeer : u.peer? g.src = some { x with ceSeen := true } := by
      rw [← hu, hce, if_pos (by simpa using hen), updPeer_peer?, if_pos rfl, hx]
      rfl
    rw [← hpeer, ← show w.peer? g.src = u.peer? g.src by rw [← hw]; rfl]
    unfold State.peer?
    rw [hlev.rest]

/-! ## PFC (R505, R506) and block lock (R520) -/

/-- The device with a path paused, and counted. -/
def State.pausedOn (s : State) (path : Nat) : State :=
  let u := s.updPort (path / 4) (fun x => { x with paused := sIns (path % 4) x.paused })
  { u with net := { u.net with pathPfc := mcount s.net.pathPfc path 1 } }

/-- With an ECN field a pause marks no peer. -/
theorem pfc_marked {s : State} (path : Nat) (h : s.set.cur.netPkg.encap ≠ 0) : s.pfc path true = s.pausedOn path := if_pos h

/-- Under ENCAP 0 it counts as ECE for the peers that the path carries. -/
theorem pfc_unmarked {s : State} (path : Nat) (h : s.set.cur.netPkg.encap = 0) : s.pfc path true =
    { s.pausedOn path with net := { (s.pausedOn path).net with
      peers := s.net.peers.map (fun q => (q.1, { q.2 with ece := q.2.ece || (s.peerPaths q.2).contains path })) } } := by
  have hup : SameUp s (s.pausedOn path) := ⟨rfl, (SameUp.updPort s (path / 4) (f := fun x => { x with paused := sIns (path % 4) x.paused }) fun _ => rfl).up⟩
  simp only [← hup.peerPaths]
  exact if_neg (not_not.2 h)

/-- Sending to every peer changes no port. -/
theorem pumpAll_keeps (s : State) (l : List (Nat × Peer)) : PumpKeeps s (l.foldl (fun s q => s.pumpPeer q.1) s) :=
  PumpKeeps.foldl l (f := fun s q => s.pumpPeer q.1) (fun s q => PumpKeeps.pumpPeer s q.1) s

theorem PumpKeeps.port {s t : State} (h : PumpKeeps s t) (j : Nat) : t.port j = s.port j := by
  unfold State.port
  rw [h.ports]

theorem updPort_pumped_port (s : State) (n : Nat) (f : Port → Port) :
    ((s.updPort n f).net.peers.foldl (fun s q => s.pumpPeer q.1) (s.updPort n f)).port n = f (s.port n) := by
  rw [(pumpAll_keeps ..).port, updPort_port, if_pos rfl]

theorem updPort_pumped_frame (s : State) (n : Nat) (f : Port → Port) :
    SameBut [.freeCtr, .net, .out] s ((s.updPort n f).net.peers.foldl (fun s q => s.pumpPeer q.1) (s.updPort n f)) := by
  have hpump := kept_foldl (s.updPort n f).net.peers (fun s q => s.pumpPeer q.1) (fun s q => kept_pumpPeer s q.1) (s.updPort n f)
  exact (Kept.of (m := 0x2000100002) hpump ((kept_updPort s n f).mono (by decide))).sameBut _ (by intro p; cases p <;> decide)

theorem pausedOn_port (s : State) (path : Nat) : (s.pausedOn path).port (path / 4) =
    { s.port (path / 4) with paused := sIns (path % 4) (s.port (path / 4)).paused } := mget_mput_same ..

/-- A path is up when its port's record enables it, its mode has it, and it is locked. -/
theorem pathUp_of {s : State} {p : Nat} {r : NetPortRec} (hr : s.set.cur.port? (p / 4) = some r) (he : r.enabled = true)
    (hm : p % 4 < subPorts r.mode) (hu : p % 4 ∈ (s.port (p / 4)).up) : s.pathUp p = true := by
  unfold State.pathUp
  rw [hr]
  simp [he, hm, hu]

/-! ## A path that fails (R520) -/

/-- The device whose path has failed, with the record. -/
def State.pathLost (s : State) (path : Nat) : State :=
  (s.updPort (path / 4) (fun x => { x with up := sDel (path % 4) x.up, paused := sDel (path % 4) x.paused })).raiseG St.netPortDown (path * 2 ^ 32) schedAgent
    0xFFFF true

/-- A connected peer that no path reaches is lost. -/
def State.dropUnreached (s : State) (p : Nat) : State :=
  match s.peer? p with
  | some x => if x.connected && (s.peerPaths x).isEmpty then s.losePeer p else s
  | none => s

theorem kept_dropUnreached (s : State) (p : Nat) : Kept 0x21c0762fe2 s (s.dropUnreached p) := by
  unfold State.dropUnreached
  split
  · exact .ite (kept_losePeer ..) (.refl _ s)
  · exact .refl _ s

section
variable (s : State) (path : Nat)

theorem pathLost_kept : Kept 0x2040200000 (s.updPort (path / 4) (fun x => { x with up := sDel (path % 4) x.up, paused := sDel (path % 4) x.paused }))
    (s.pathLost path) := kept_raiseG ..

theorem pathLost_port (j : Nat) : (s.pathLost path).port j = if j = path / 4 then
    { s.port (path / 4) with up := sDel (path % 4) (s.port (path / 4)).up, paused := sDel (path % 4) (s.port (path / 4)).paused } else s.port j := by
  unfold State.port
  rw [(pathLost_kept s path).net_eq (by decide)]
  exact updPort_port ..

theorem pathLost_peers : (s.pathLost path).net.peers = s.net.peers := (congrArg NetState.peers ((pathLost_kept s path).net_eq (by decide))).trans rfl

theorem pathLost_set : (s.pathLost path).set = s.set := (pathLost_kept s path).set_eq (by decide)

/-- Of the paths of a list that a port names, a removed one is gone and the others stay. -/
theorem contains_sDel (a b : Nat) (l : List Nat) : (sDel a l).contains b = (l.contains b && b != a) := by
  rw [Bool.eq_iff_iff]
  simp [mem_sDel]

theorem pathLost_pathUp (k : Nat) : (s.pathLost path).pathUp k = (s.pathUp k && k != path) := by
  unfold State.pathUp
  rw [pathLost_set, pathLost_port]
  split
  · by_cases hk : k / 4 = path / 4
    · have hne : (k % 4 != path % 4) = (k != path) := by
        rw [Bool.eq_iff_iff, bne_iff_ne, bne_iff_ne]
        omega
      rw [if_pos hk, contains_sDel, hk, hne, Bool.and_assoc _ _ (k != path)]
    · rw [if_neg hk, bne_iff_ne.2 (fun e => hk (congrArg (· / 4) e)), Bool.and_true]
  · rfl

theorem pathLost_peerPaths (x : Peer) : (s.pathLost path).peerPaths x = (s.peerPaths x).filter (· != path) := by
  unfold State.peerPaths State.upPaths
  rw [List.filter_filter, List.filter_filter, List.filter_filter]
  refine List.filter_congr fun k _ => ?_
  rw [pathLost_pathUp]
  cases s.pathUp k <;> cases k != path <;> simp

theorem pathLost_paused {k : Nat} (h : k ≠ path) : (s.pathLost path).paused k = s.paused k := by
  unfold State.paused
  rw [pathLost_port]
  split
  · next hk =>
    rw [contains_sDel, hk, bne_iff_ne.2 (by omega), Bool.and_true]
  · rfl

theorem pathLost_freePaths (x : Peer) : (s.pathLost path).freePaths x = (s.peerPaths x).filter (fun j => j != path && !s.paused j) := by
  unfold State.freePaths
  rw [pathLost_peerPaths, List.filter_filter]
  refine List.filter_congr fun k _ => ?_
  by_cases hk : k = path
  · simp [hk]
  · rw [pathLost_paused s path hk, bne_iff_ne.2 hk, Bool.and_true, Bool.true_and]

theorem pathLost_frame : SameBut [.net, .fns, .errGlobal, .out] s (s.pathLost path) :=
  (Kept.trans ((kept_updPort ..).mono (by decide)) ((pathLost_kept s path).mono (m := 0x2040300000) (by decide))).sameBut _ (by intro p; cases p <;> decide)

theorem pathLost_errGlobal : (s.pathLost path).errGlobal = (s.raiseG St.netPortDown (path * 2 ^ 32) schedAgent 0xFFFF true).errGlobal := by
  unfold State.pathLost
  rw [raiseG_errGlobal, raiseG_errGlobal]
  rfl

end

section
variable {s : State} {path : Nat}

theorem pathDown_keeps (h : s.pathUp path = false) : s.pathDown path = s := if_pos (by rw [h]; rfl)

theorem pathDown_eq (h : s.pathUp path = true) : s.pathDown path =
    s.net.peers.foldl (fun s q => (s.resendPath q.1 path).dropUnreached q.1) (s.pathLost path) := by
  rw [← pathLost_peers s path]
  exact if_neg (by rw [h]; decide)

/-- No segment is out on the path, and every connected peer has another one. -/
theorem pathDown_quiet (h : s.pathUp path = true)
    (hq : s.net.peers.all (fun q => q.2.vcs.all (fun c => c.2.sent.all (·.seg.path != path)) && (!q.2.connected || (s.peerPaths q.2).any (· != path))) = true) :
    s.pathDown path = s.pathLost path := by
  rw [pathDown_eq h]
  refine List.foldlRecOn (motive := fun t : State => t = s.pathLost path) _ _ rfl fun t ht q hqm => ?_
  subst ht
  have hpeer : ∀ x, (s.pathLost path).peer? q.1 = some x → x.vcs.all (fun c => c.2.sent.all (·.seg.path != path)) = true ∧
      (!x.connected || (s.peerPaths x).any (· != path)) = true := fun x hx => by
    unfold State.peer? at hx
    rw [pathLost_peers] at hx
    exact Bool.and_eq_true_iff.1 (List.all_eq_true.1 hq _ (mem_of_mfind hx))
  rw [resendPath_none fun x hx => (hpeer x hx).1]
  unfold State.dropUnreached
  split
  · next x hx =>
    refine if_neg fun hc => ?_
    obtain ⟨hconn, hnone⟩ := Bool.and_eq_true_iff.1 hc
    have hany := (hpeer x hx).2
    rw [hconn, Bool.not_true, Bool.false_or, List.any_eq_true] at hany
    obtain ⟨k, hk, hne⟩ := hany
    rw [pathLost_peerPaths, List.isEmpty_iff, List.filter_eq_nil_iff] at hnone
    exact hnone k hk hne
  · rfl

/-- The one segment out on the path goes out again on the one other path that is free. -/
theorem pathDown_resends (h : s.pathUp path = true) {q v k : Nat} {x : Peer} {c : PeerVc} {i : SentSeg} (hp : s.net.peers = [(q, x)]) (hv : x.vcs = [(v, c)])
    (hc : c.sent = [i]) (hi : i.seg.path = path) (hn : i.sends < 7) (hk : (s.peerPaths x).filter (fun j => j != path && !s.paused j) = [k]) :
    ∃ r, .segment k r ∈ (s.pathDown path).out ∧ r.psn = i.seg.psn ∧ r.payload = i.seg.payload := by
  have hx : (s.pathLost path).peer? q = some x := by
    unfold State.peer?
    rw [pathLost_peers, hp]
    exact if_pos rfl
  have hvc : x.vc v = c := by
    unfold Peer.vc mget
    rw [hv]
    exact congrArg (fun o : Option PeerVc => o.getD {}) (if_pos rfl)
  have hagain := resend_eq (v := v) (psn := i.seg.psn) (k := k) hx (i := i) (by rw [hvc, hc]; simp) hn (by rw [pathLost_freePaths]; exact hk)
  have hresend : (s.pathLost path).resendPath q path = (s.pathLost path).resend q v i.seg.psn := by
    unfold State.resendPath
    rw [hx]
    dsimp only
    rw [hv]
    simp [hc, hi]
  rw [pathDown_eq h, hp]
  refine ⟨(x.resent (s.pathLost path).now v i.seg.psn k).stamp k i.seg,
    (kept_dropUnreached ((s.pathLost path).resendPath q path) q).2.2.1.subset ?_, rfl, rfl⟩
  rw [hresend, hagain]
  exact List.mem_append_right _ (List.mem_singleton_self _)

end

/-! ## Suspect paths (R521, R522) -/

section
variable {s : State} {p path : Nat}

theorem suspect_none (h : s.peer? p = none) : s.suspect p path = s := by
  unfold State.suspect
  rw [h]

theorem probe_none (h : s.peer? p = none) : s.probe p path = s := by
  unfold State.probe
  rw [h]

variable {x : Peer} (h : s.peer? p = some x)
include h

theorem suspect_again (hs : x.suspects.any (·.path == path) = true) : s.suspect p path = s := by
  unfold State.suspect
  rw [h]
  exact if_pos hs

omit h in
/-- A peer with one more suspect path. -/
def Peer.suspecting (x : Peer) (path : Nat) : Peer := { x with suspects := x.suspects ++ [{ path }] }

omit h in
/-- The device that suspects a path to a peer, with the record. -/
def State.suspected (s : State) (p path : Nat) (x : Peer) : State := (s.withPeer p (x.suspecting path)).raiseG St.netPathSuspect (p + path * 2 ^ 32)

omit h in
theorem suspected_kept (x : Peer) : Kept 0x2040200000 (s.withPeer p (x.suspecting path)) (s.suspected p path x) := kept_raiseG ..

omit h in
theorem suspected_frame (x : Peer) : SameBut [.net, .fns, .errGlobal, .out] s (s.suspected p path x) :=
  .trans (t := s.withPeer p (x.suspecting path)) (sameBut_net_within (by decide) _ _) ((suspected_kept x).sameBut _ (by intro q; cases q <;> decide))

omit h in
theorem suspected_peer? (x : Peer) : (s.suspected p path x).peer? p = some (x.suspecting path) := by
  unfold State.peer?
  rw [(suspected_kept x).net_eq (by decide)]
  exact mfind_mput_same ..

omit h in
theorem suspected_errGlobal (x : Peer) : (s.suspected p path x).errGlobal = (s.raiseG St.netPathSuspect (p + path * 2 ^ 32)).errGlobal := by
  unfold State.suspected
  rw [raiseG_errGlobal, raiseG_errGlobal]
  rfl

omit h in
theorem suspected_peerPaths (x : Peer) : (s.suspected p path x).peerPaths (x.suspecting path) = (s.peerPaths x).filter (· != path) := by
  have hk := suspected_kept (s := s) (p := p) (path := path) x
  have hw : SameWays s (s.suspected p path x) := .of_ports (hk.set_eq (by decide)) ((congrArg NetState.ports (hk.net_eq (by decide))).trans rfl)
  rw [hw.peerPaths]
  unfold State.peerPaths
  rw [List.filter_filter]
  refine List.filter_congr fun k _ => ?_
  change (bit x.paths k && !(x.suspects ++ [({ path } : Suspect)]).any (·.path == k)) = _
  rw [List.any_append, Bool.eq_iff_iff]
  simp only [List.any_cons, List.any_nil, Bool.or_false, Bool.not_or, Bool.and_eq_true, Bool.not_eq_true', beq_eq_false_iff_ne, bne_iff_ne, ne_eq]
  tauto

/-- Nothing is out on the path: nothing goes out again, and the peer is lost if it had no other path. -/
theorem suspect_quiet (hs : x.suspects.any (·.path == path) = false) (hq : x.vcs.all (fun c => c.2.sent.all (·.seg.path != path)) = true) :
    s.suspect p path = if ((s.peerPaths x).filter (· != path)).isEmpty then (s.suspected p path x).losePeer p else s.suspected p path x := by
  unfold State.suspect
  rw [h]
  dsimp only
  rw [if_neg (by rw [hs]; decide), updPeer_eq h]
  have hnone : (s.suspected p path x).resendPath p path = s.suspected p path x := resendPath_none fun y hy => by
    obtain rfl : x.suspecting path = y := Option.some.inj ((suspected_peer? x).symm.trans hy)
    exact hq
  rw [← suspected_peerPaths (p := p)]
  change (match ((s.suspected p path x).resendPath p path).peer? p with
    | some y => if (((s.suspected p path x).resendPath p path).peerPaths y).isEmpty then ((s.suspected p path x).resendPath p path).losePeer p
      else (s.suspected p path x).resendPath p path
    | none => (s.suspected p path x).resendPath p path) = _
  rw [hnone, suspected_peer? x]

theorem probe_trusted (hs : x.suspects.any (·.path == path) = false) : s.probe p path = s := by
  unfold State.probe
  rw [h]
  dsimp only
  have hf : x.suspects.find? (·.path == path) = none := List.find?_eq_none.2 fun u hu hp => by
    rw [List.any_eq_true.2 ⟨u, hu, hp⟩] at hs
    cases hs
  rw [hf]

omit h in
/-- A suspect path with a probe out; an unanswered one has ended the run of acknowledged probes. -/
def Suspect.probing (v u : Suspect) (path : Nat) : Suspect := if v.path = path then { v with acks := if u.probed then 0 else v.acks, probed := true } else v

/-- A probe of a suspect path. -/
theorem probe_sends (hs : x.suspects.any (·.path == path) = true) : ∃ u, s.probe p path =
    (s.withPeer p { x with suspects := x.suspects.map (fun v => v.probing u path) }).putCtl p path 4 0 (s.helloBytes 0) := by
  obtain ⟨u, hu⟩ := Option.isSome_iff_exists.1 (List.find?_isSome.2 (List.any_eq_true.1 hs))
  refine ⟨u, ?_⟩
  unfold State.probe
  rw [h]
  dsimp only
  rw [hu]
  dsimp only
  rw [updPeer_eq h]
  rfl

omit h in
theorem probing_path (v u : Suspect) (path : Nat) : (v.probing u path).path = v.path := by
  unfold Suspect.probing
  split <;> rfl

omit h in
theorem probing_probed {v u : Suspect} {path : Nat} (h : (v.probing u path).path = path) : (v.probing u path).probed = true := by
  rw [probing_path] at h
  unfold Suspect.probing
  rw [if_pos h]

end

/-! ## The rows -/

/-- A peer after an interval (R518): ECE cuts its rate by an eighth to no less than 1 Gb/s, its absence raises it up to r_max. -/
def State.intervalOf (s : State) (x : Peer) : Peer :=
  if x.connected = false then x
  else if x.ece = true then { x with ece := false, rate := max 1000 (x.rate - x.rate / 8) }
  else { x with rate := min (s.rateMax x) (x.rate + s.rateMax x / 64) }

section
variable {s : State} (hrun : s.halted = false)
include hrun

theorem exec_ethFrameRx (path : Fin 32) (fcs crc ce : Bool) (prio : Nat) (g : Segment) :
    exec (.ethFrameRx path fcs crc ce prio g) s = .next (s.frameIn path.val fcs crc ce prio g) := unlessDown_of_running hrun _

theorem exec_pfcPause (path : Fin 32) (on : Bool) : exec (.pfcPause path on) s = .next (s.pfc path.val on) := unlessDown_of_running hrun _

theorem exec_netPortDown (path : Fin 32) : exec (.netPortDown path) s = .next (s.pathDown path.val) := unlessDown_of_running hrun _

theorem exec_netPathSuspect (p : Nat) (path : Fin 32) : exec (.netPathSuspect p path) s = .next (s.suspect p path.val) := unlessDown_of_running hrun _

theorem exec_probeTimer (p : Nat) (path : Fin 32) : exec (.probeTimer p path) s = .next (s.probe p path.val) := unlessDown_of_running hrun _

/-- A path of an enabled port locks. -/
theorem exec_pcsBlockLock_enabled (path : Fin 32) {r : NetPortRec} (hr : s.set.cur.port? (path.val / 4) = some r) (he : r.enabled = true)
    (hm : path.val % 4 < subPorts r.mode) : exec (.pcsBlockLock path) s =
      .next (let u := s.updPort (path.val / 4) (fun x => { x with up := sIns (path.val % 4) x.up })
        u.net.peers.foldl (fun s q => s.pumpPeer q.1) u) := by
  refine (unlessDown_of_running hrun _).trans (congrArg _ ?_)
  rw [hr]
  exact if_pos (by rw [he, decide_eq_true hm]; rfl)

theorem exec_pcsBlockLock_other (path : Fin 32) (h : ∀ r, s.set.cur.port? (path.val / 4) = some r → r.enabled = false ∨ subPorts r.mode ≤ path.val % 4) :
    exec (.pcsBlockLock path) s = .next s := by
  refine (unlessDown_of_running hrun _).trans (congrArg _ ?_)
  dsimp only
  split
  · rfl
  · next r hr =>
    refine if_neg fun hc => ?_
    obtain ⟨he, hm⟩ := Bool.and_eq_true_iff.1 hc
    rcases h r hr with hf | hf
    · exact absurd (hf.symm.trans he) (by decide)
    · exact absurd (of_decide_eq_true hm) (Nat.not_lt.2 hf)

/-- Every connected peer has its interval. -/
theorem exec_congestionInterval (tm : Nat) :
    exec (.congestionInterval tm) s = .next { s.at tm with net := { s.net with peers := s.net.peers.map (fun q => (q.1, s.intervalOf q.2)) } } := by
  have hone (x : Peer) : (if x.connected then x.interval ((s.at tm).rateMax x) else x) = s.intervalOf x := by
    unfold State.intervalOf
    by_cases hc : x.connected = true
    · rw [if_pos hc, if_neg (by rw [hc]; decide)]
      rfl
    · rw [if_neg hc, if_pos (Bool.eq_false_iff.2 hc)]
  simp only [← hone]
  exact unlessDown_of_running hrun _

end

/-- Settles O49, row by row: what each does to its port and its peers, and what then goes out. -/
theorem networkFramesAndPaths : Obligations.NetworkFramesAndPaths := by
  unfold Obligations.NetworkFramesAndPaths
  intro path s hrun
  refine ⟨fun fcs crc ce prio g => ⟨fun hup => ?_, fun hup hfcs => ?_, fun hup hfcs hp => ?_, fun hup hfcs hp hfi => ⟨fun hbad => ?_, fun hcrc hver htype hre => ?_⟩⟩,
    ?xoff, ?xon, exec_pcsBlockLock_other hrun path, fun r hr he hm => ?lock, fun hup => ?_, fun hup => ?down, fun q hq => ⟨?_, ?_⟩, fun q x hx => ?suspects,
    exec_congestionInterval hrun⟩
  · rw [exec_ethFrameRx hrun, frameIn_down hup]
  · rw [exec_ethFrameRx hrun, hfcs, frameIn_badFcs hup]
  · rw [exec_ethFrameRx hrun, hfcs, frameIn_priority hup hp]
  · rw [exec_ethFrameRx hrun, hfcs, frameIn_checks hup hp hfi, if_pos hbad]
  · refine ⟨_, (exec_ethFrameRx hrun ..).trans (congrArg _ ?_), buffered_spec s path.val ce g hre⟩
    rw [hfcs, frameIn_checks hup hp hfi, if_neg (by simp [hcrc, hver, htype])]
  case xoff =>
    refine ⟨_, exec_pfcPause hrun .., ?_⟩
    by_cases he : s.set.cur.netPkg.encap = 0
    · rw [pfc_unmarked path.val he]
      refine ⟨sameBut_net s _, pausedOn_port .., rfl, fun hn => absurd he hn, fun _ q x hx => ?_⟩
      exact (mfind_map s.net.peers (fun x => { x with ece := x.ece || (s.peerPaths x).contains path.val }) q).trans (congrArg _ hx)
    · rw [pfc_marked path.val he]
      exact ⟨sameBut_net s _, pausedOn_port .., rfl, fun _ => rfl, fun hn => absurd hn he⟩
  case xon => exact ⟨_, exec_pfcPause hrun .., updPort_pumped_frame _ _ _, updPort_pumped_port ..⟩
  case lock =>
    have hport := updPort_pumped_port s (path.val / 4) (fun x => { x with up := sIns (path.val % 4) x.up })
    refine ⟨_, exec_pcsBlockLock_enabled hrun path hr he hm, updPort_pumped_frame _ _ _, hport, ?_⟩
    refine pathUp_of (by rw [(pumpAll_keeps ..).set]; exact hr) he hm ?_
    rw [hport]
    exact (mem_sIns ..).2 (.inl rfl)
  · rw [exec_netPortDown hrun, pathDown_keeps hup]
  case down =>
    refine ⟨_, exec_netPortDown hrun .., (kept_pathDown ..).sameBut _ (by intro p; cases p <;> decide), fun hq => ?_, fun q x v c i k hp hv hc hi hn hk => ?_⟩
    · rw [pathDown_quiet hup hq]
      exact ⟨pathLost_frame s _, (pathLost_port ..).trans (if_pos rfl), by rw [pathLost_pathUp, bne_self_eq_false, Bool.and_false], pathLost_peers ..,
        pathLost_errGlobal ..⟩
    · exact pathDown_resends hup hp hv hc hi hn hk
  · rw [exec_netPathSuspect hrun, suspect_none hq]
  · rw [exec_probeTimer hrun, probe_none hq]
  case suspects =>
    refine ⟨fun hs => ⟨?_, ?_⟩, fun hs => ⟨?_, fun hq => ⟨fun hany => ?_, fun hall hst hfed => ?_⟩⟩⟩
    · rw [exec_netPathSuspect hrun, suspect_again hx hs]
    · obtain ⟨u, hu⟩ := probe_sends hx hs
      refine ⟨_, (exec_probeTimer hrun ..).trans (congrArg _ hu), sameBut_net_out s _ _, rfl, _, withPeer_peer? .., ?_, fun w hw hp => ?_⟩
      · rw [List.map_map]
        exact List.map_congr_left fun v _ => probing_path ..
      · obtain ⟨v, -, rfl⟩ := List.mem_map.1 hw
        exact probing_probed hp
    · rw [exec_probeTimer hrun, probe_trusted hx hs]
    · refine ⟨_, (exec_netPathSuspect hrun ..).trans (congrArg _ ((suspect_quiet hx hs hq).trans (if_neg fun hnone => ?_))), suspected_frame x,
        suspected_peer? x, suspected_errGlobal x⟩
      obtain ⟨k, hk, hne⟩ := List.any_eq_true.1 hany
      exact List.filter_eq_nil_iff.1 (List.isEmpty_iff.1 hnone) k hk hne
    · have hframe := suspected_frame (s := s) (p := q) (path := path.val) x
      obtain ⟨hlost, hgone, -⟩ := losePeer_alone (suspected_peer? (s := s) (p := q) (path := path.val) x) ((hframe .stalledOps (by decide)).trans hst)
        (by unfold State.unfederated; rw [hframe .set (by decide)]; exact hfed)
      refine ⟨_, (exec_netPathSuspect hrun ..).trans (congrArg _ ((suspect_quiet hx hs hq).trans (if_pos ?_))),
        .trans (hframe.mono (by intro p; cases p <;> decide)) hlost, hgone⟩
      rw [List.isEmpty_iff, List.filter_eq_nil_iff]
      exact fun k hk => by simpa using List.all_eq_true.1 hall k hk

end Sys2Proof.Machine
end

section
/-! PROOF. DATA segments: acknowledgements, the receive window and the messages that they fill (R510, R515). -/

namespace Sys2Proof.Machine

/-! ## The channel after a segment -/

/-- A channel that has placed a segment's payload in its message, and owes one more acknowledgement. -/
def PeerVc.takes (c : PeerVc) (g : Segment) : PeerVc :=
  PeerVc.slideF 65 { c.placePiece g with rxAhead := g.psn :: c.rxAhead, unackedRx := c.unackedRx + 1 }

/-- A message with one more piece. -/
def RxMsg.plus (r : RxMsg) (g : Segment) : RxMsg :=
  { r with pieces := r.pieces ++ [(g.msgOff, g.payload, g.poisonMap)], total := if g.last then some (g.msgOff + g.payload.length) else r.total }

/-- The message of a segment, as far as it is held. -/
def PeerVc.msgOf (c : PeerVc) (g : Segment) : RxMsg := (c.rxMsgs.find? (·.id == g.msgId)).getD { id := g.msgId }

theorem msgOf_id (c : PeerVc) (g : Segment) : (c.msgOf g).id = g.msgId := by
  unfold PeerVc.msgOf
  cases hf : c.rxMsgs.find? (·.id == g.msgId) with
  | none => rfl
  | some r => simpa using List.find?_some hf

theorem placePiece_eq (c : PeerVc) (g : Segment) :
    c.placePiece g = { c with rxMsgs := c.rxMsgs.filter (·.id != g.msgId) ++ [(c.msgOf g).plus g] } := rfl

section
variable {c : PeerVc} {g : Segment} (ha : c.rxAhead = [])
include ha

/-- The expected segment moves the next expected PSN on by one. -/
theorem takes_expected (hp : g.psn = c.rxPsn) : c.takes g =
    { c.placePiece g with rxAhead := [], rxPsn := (c.rxPsn + 1) % 2 ^ 32, unackedRx := c.unackedRx + 1 } := by
  unfold PeerVc.takes
  rw [placePiece_eq, ha, hp]
  simp [PeerVc.slideF, sDel]

/-- A segment beyond the expected one waits for those before it. -/
theorem takes_beyond (hp : g.psn ≠ c.rxPsn) : c.takes g = { c.placePiece g with rxAhead := [g.psn], unackedRx := c.unackedRx + 1 } := by
  unfold PeerVc.takes
  rw [placePiece_eq, ha]
  simp [PeerVc.slideF, Ne.symm hp]

/-- Either way the message takes the piece, and one more acknowledgement is owed. -/
theorem takes_msgs : (c.takes g).rxMsgs = c.rxMsgs.filter (·.id != g.msgId) ++ [(c.msgOf g).plus g] ∧ (c.takes g).rxNextMsg = c.rxNextMsg ∧
    (c.takes g).unackedRx = c.unackedRx + 1 := by
  by_cases hp : g.psn = c.rxPsn
  · rw [takes_expected ha hp]
    exact ⟨rfl, rfl, rfl⟩
  · rw [takes_beyond ha hp]
    exact ⟨rfl, rfl, rfl⟩

end

/-! ## DATA (R510, R515) -/

/-- A peer with a segment's payload placed. -/
def Peer.taking (x : Peer) (now : Nat) (g : Segment) : Peer := { x.updVc g.vc (·.takes g) with lastBusyAt := now }

theorem taking_vc (x : Peer) (now : Nat) (g : Segment) : (x.taking now g).vc g.vc = (x.vc g.vc).takes g :=
  (Peer.updVc_vc x g.vc g.vc (·.takes g)).trans (if_pos rfl)

theorem ackedTaking_vc (x : Peer) (now : Nat) (g : Segment) : ((x.ackedBy now g).taking now g).vc g.vc = ((x.vc g.vc).ackedBy g).takes g := by
  rw [taking_vc, ackedBy_vc, if_pos rfl]

/-- The acknowledgement goes out at once when the segment asks for it or eight are owed. -/
def State.ackIfDue (s : State) (g : Segment) (owed : Nat) : State := if g.ackNow || decide (8 ≤ owed) then s.sendAck g.src g.vc else s

theorem kept_ackIfDue (s : State) (g : Segment) (owed : Nat) : Kept 0x2000100002 s (s.ackIfDue g owed) := .ite (kept_sendAck ..) (.refl _ s)

section
variable {s : State} {p path v : Nat}

/-- Nothing is delivered while the next message is not complete. -/
theorem deliverF_waits (n : Nat) (h : ∀ x, s.peer? p = some x → (x.vc v).rxMsgs.find? (fun r => r.id == (x.vc v).rxNextMsg && r.complete) = none) :
    s.deliverF n p path v = s := by
  cases n with
  | zero => rfl
  | succ n =>
    unfold State.deliverF
    split
    · rfl
    · next x hx =>
      dsimp only
      rw [h x hx]

end

section
variable {s : State} {path : Nat} {g : Segment} {x : Peer}

theorem dataIn_none (h : s.peer? g.src = none) : s.dataIn path g = s := by
  unfold State.dataIn
  rw [h]

variable (h : s.peer? g.src = some x)
include h

theorem dataIn_unconnected (hc : x.connected = false) : s.dataIn path g = s := by
  unfold State.dataIn
  rw [h]
  exact if_pos (by rw [hc]; rfl)

variable (hc : x.connected = true) (hb : x.busy = false)
include hc hb

theorem dataIn_idle : s.dataIn path g =
    (let t := s.ackNoted path g x
     let d := ahead g.psn (x.vc g.vc).rxPsn
     if 2 ^ 31 ≤ d ∨ (x.vc g.vc).rxAhead.contains g.psn then t.sendAck g.src g.vc
     else if 64 < d then t
     else
       let u := t.withPeer g.src ((x.ackedBy s.now g).taking s.now g)
       (u.ackIfDue g (((u.peer? g.src).map (fun y => (y.vc g.vc).unackedRx)).getD 0)).deliverF 65 g.src path g.vc) := by
  unfold State.dataIn
  rw [h]
  dsimp only
  rw [if_neg (by rw [hc]; decide), acked_idle h path hb, updPeer_eq (ackNoted_peer? path)]
  rfl

/-- A duplicate is acknowledged again. -/
theorem dataIn_again (hd : 2 ^ 31 ≤ ahead g.psn (x.vc g.vc).rxPsn ∨ (x.vc g.vc).rxAhead.contains g.psn = true) :
    s.dataIn path g = (s.ackNoted path g x).sendAck g.src g.vc := (dataIn_idle h hc hb).trans (if_pos hd)

/-- A segment beyond the window is dropped. -/
theorem dataIn_beyond (hd : 64 < ahead g.psn (x.vc g.vc).rxPsn) (hlt : ahead g.psn (x.vc g.vc).rxPsn < 2 ^ 31)
    (ha : (x.vc g.vc).rxAhead.contains g.psn = false) : s.dataIn path g = s.ackNoted path g x :=
  (dataIn_idle h hc hb).trans ((if_neg (by rw [ha]; simp only [Bool.false_eq_true, or_false]; exact Nat.not_le.2 hlt)).trans (if_pos hd))

/-- A new segment within the window is placed, acknowledged when that is due, and the messages that are whole are delivered. -/
theorem dataIn_new (hd : ahead g.psn (x.vc g.vc).rxPsn ≤ 64) (ha : (x.vc g.vc).rxAhead = []) : s.dataIn path g =
    (((s.ackNoted path g x).withPeer g.src ((x.ackedBy s.now g).taking s.now g)).ackIfDue g ((x.vc g.vc).unackedRx + 1)).deliverF 65 g.src path g.vc := by
  have howed : (((x.ackedBy s.now g).taking s.now g).vc g.vc).unackedRx = (x.vc g.vc).unackedRx + 1 := by
    rw [ackedTaking_vc]
    exact (takes_msgs (c := (x.vc g.vc).ackedBy g) (g := g) ha).2.2
  rw [dataIn_idle h hc hb]
  dsimp only
  rw [if_neg (by rw [ha]; simp only [List.contains_nil, Bool.false_eq_true, or_false]; omega), if_neg (Nat.not_lt.2 hd), withPeer_peer?, ← howed]
  rfl

end

/-! ### A duplicate and a segment beyond the window -/

section
variable {s : State} {path : Nat} {g : Segment} {x : Peer}

theorem ackNoted_freePaths (s : State) (path : Nat) (g : Segment) (x : Peer) (now : Nat) :
    (s.ackNoted path g x).freePaths (x.ackedBy now g) = s.freePaths x :=
  (SameWays.freePaths (.of_ports rfl rfl) _).trans (freePaths_congr s rfl rfl)

theorem ackedBy_rx (x : Peer) (now : Nat) (g : Segment) : ((x.ackedBy now g).vc g.vc).rxPsn = (x.vc g.vc).rxPsn ∧
    ((x.ackedBy now g).vc g.vc).rxMsgs = (x.vc g.vc).rxMsgs := by
  rw [ackedBy_vc, if_pos rfl]
  exact ⟨rfl, rfl⟩

/-- The acknowledgement of a duplicate goes out on a free path. -/
theorem ackAgain_sends (hf : s.freePaths x ≠ []) : ∃ k r, (let t := (s.ackNoted path g x).sendAck g.src g.vc
    SameBut [.freeCtr, .net, .out] s t ∧ t.out = s.out ++ [.segment k r]) ∧ k ∈ s.freePaths x ∧ r.type = 1 ∧ r.vc = g.vc ∧ r.dst = g.src ∧
      r.ackPsn = (x.vc g.vc).rxPsn := by
  have hfree := ackNoted_freePaths s path g x s.now
  obtain ⟨k, hk, he⟩ := sendAck_some (v := g.vc) (ackNoted_peer? (s := s) (g := g) (x := x) path) (by rwa [hfree])
  rw [hfree] at hk
  rw [he]
  exact ⟨k, _, ⟨sameBut_free_net_out s _ _ _, rfl⟩, hk, rfl, rfl, rfl, (ackedBy_rx ..).1⟩

/-! ### A new segment -/

/-- The acknowledgement, due or not, changes of the channel only what is owed. -/
theorem ackIfDue_spec {y : Peer} (hy : s.peer? g.src = some y) (owed : Nat) : let t := s.ackIfDue g owed
    t.net.remoteOps = s.net.remoteOps ∧ ∃ z n, t.peer? g.src = some z ∧ z.vc g.vc = { y.vc g.vc with unackedRx := n } ∧
      (g.ackNow = false → owed < 8 → t.out = s.out ∧ n = (y.vc g.vc).unackedRx) ∧ (g.ackNow = true ∨ 8 ≤ owed → s.freePaths y ≠ [] → n = 0) := by
  unfold State.ackIfDue
  dsimp only
  by_cases hd : g.ackNow = true ∨ 8 ≤ owed
  · rw [if_pos (by simpa using hd)]
    obtain ⟨z, n, hz, hn, h0⟩ := sendAck_vc (v := g.vc) hy
    refine ⟨sendAck_remoteOps .., z, n, hz, hn, fun hno hlt => ?_, fun _ => h0⟩
    rcases hd with hd | hd
    · exact absurd (hno.symm.trans hd) (by decide)
    · exact absurd hd (Nat.not_le.2 hlt)
  · rw [if_neg (by simpa using hd)]
    exact ⟨rfl, y, _, hy, rfl, fun _ _ => ⟨rfl, rfl⟩, fun hd' => absurd hd' hd⟩

/-- The channel that has placed a segment of a message which is not the next one. -/
theorem takes_waits {c : PeerVc} (ha : c.rxAhead = []) (hm : g.msgId ≠ c.rxNextMsg) (hall : c.rxMsgs.all (fun r => r.id != c.rxNextMsg) = true) :
    (c.takes g).rxMsgs.find? (fun r => r.id == (c.takes g).rxNextMsg && r.complete) = none := by
  obtain ⟨hmsgs, hnext, -⟩ := takes_msgs (g := g) ha
  rw [hmsgs, hnext]
  refine List.find?_eq_none.2 fun r hr => ?_
  have hid : r.id ≠ c.rxNextMsg := by
    rcases List.mem_append.1 hr with hr | hr
    · simpa using List.all_eq_true.1 hall r (List.mem_filter.1 hr).1
    · rw [List.mem_singleton.1 hr]
      exact (msgOf_id c g).trans_ne hm
  simp [hid]

/-- What a new segment leaves of its peer: its payload is in its message, and the next expected PSN has moved on if it was the expected one. -/
structure Placed (s t : State) (g : Segment) (c : PeerVc) (free : List Nat) : Prop where
  frame : SameBut [.freeCtr, .net, .out] s t
  peer : ∃ y r, t.peer? g.src = some y ∧ r ∈ (y.vc g.vc).rxMsgs ∧ r.id = g.msgId ∧ (g.msgOff, g.payload, g.poisonMap) ∈ r.pieces ∧
    (g.psn = c.rxPsn → (y.vc g.vc).rxPsn = (c.rxPsn + 1) % 2 ^ 32) ∧
    (g.psn ≠ c.rxPsn → (y.vc g.vc).rxPsn = c.rxPsn ∧ g.psn ∈ (y.vc g.vc).rxAhead) ∧
    (g.ackNow = false → c.unackedRx < 7 → t.out = s.out ∧ (y.vc g.vc).unackedRx = c.unackedRx + 1) ∧
    (g.ackNow = true ∨ 7 ≤ c.unackedRx → free ≠ [] → (y.vc g.vc).unackedRx = 0)

theorem dataIn_places (h : s.peer? g.src = some x) (hc : x.connected = true) (hb : x.busy = false) (hd : ahead g.psn (x.vc g.vc).rxPsn ≤ 64)
    (ha : (x.vc g.vc).rxAhead = []) (hm : g.msgId ≠ (x.vc g.vc).rxNextMsg) (hall : (x.vc g.vc).rxMsgs.all (fun r => r.id != (x.vc g.vc).rxNextMsg) = true) :
    Placed s (s.dataIn path g) g (x.vc g.vc) (s.freePaths x) := by
  rw [dataIn_new h hc hb hd ha]
  generalize hu : (s.ackNoted path g x).withPeer g.src ((x.ackedBy s.now g).taking s.now g) = u
  have hux : u.peer? g.src = some ((x.ackedBy s.now g).taking s.now g) := hu ▸ withPeer_peer? ..
  have huf : SameBut [.freeCtr, .net, .out] s u := hu ▸ sameBut_net_within (by decide) s _
  have hout : u.out = s.out := by rw [← hu]; rfl
  have hfree : u.freePaths ((x.ackedBy s.now g).taking s.now g) = s.freePaths x := by
    rw [← hu]
    exact (SameWays.freePaths (.of_ports rfl rfl) _).trans (freePaths_congr s rfl rfl)
  obtain ⟨-, z, n, hz, hn, hnot, hdue⟩ := ackIfDue_spec hux ((x.vc g.vc).unackedRx + 1)
  rw [ackedTaking_vc] at hn hnot
  rw [hfree] at hdue
  obtain ⟨hmsgs, -, howed⟩ := takes_msgs (c := (x.vc g.vc).ackedBy g) (g := g) ha
  rw [deliverF_waits 65 fun y hy => by
    obtain rfl := Option.some.inj (hz.symm.trans hy)
    rw [hn]
    exact takes_waits (c := (x.vc g.vc).ackedBy g) ha hm hall]
  refine ⟨huf.trans ((kept_ackIfDue ..).sameBut _ (by intro q; cases q <;> decide)), z, (((x.vc g.vc).ackedBy g).msgOf g).plus g, hz, ?_, msgOf_id .., ?_,
    fun hp => ?_, fun hp => ?_, fun hno hlt => ?_, fun hyes hne => ?_⟩
  · rw [hn]
    change _ ∈ (((x.vc g.vc).ackedBy g).takes g).rxMsgs
    rw [hmsgs]
    exact List.mem_append_right _ (List.mem_singleton_self _)
  · exact List.mem_append_right _ (List.mem_singleton_self _)
  · rw [hn, takes_expected (c := (x.vc g.vc).ackedBy g) ha hp]
    rfl
  · rw [hn, takes_beyond (c := (x.vc g.vc).ackedBy g) ha hp]
    exact ⟨rfl, List.mem_singleton_self _⟩
  · obtain ⟨ho, hcount⟩ := hnot hno (by omega)
    exact ⟨ho.trans hout, by rw [hn]; exact hcount.trans howed⟩
  · rw [hn]
    exact hdue (hyes.imp_right fun h7 => by omega) hne

/-! ### A whole message of VC0 (R510, Table 16-4) -/

/-- CLASP_DONE touches beads by the pending operations alone. -/
theorem remoteDone_beads_congr {s t : State} (hb : t.beads = s.beads) (ho : t.net.remoteOps = s.net.remoteOps) (p tag status : Nat) :
    (t.remoteDone p tag status).beads = (s.remoteDone p tag status).beads := by
  have hbead (b : Nat) : t.bead b = s.bead b := by unfold State.bead; rw [hb]
  unfold State.remoteDone
  rw [ho]
  split
  · exact hb
  · dsimp only
    split
    · next b _ =>
      change mput t.beads b { t.bead b with wake := _ } = mput s.beads b { s.bead b with wake := _ }
      rw [hb, hbead]
    · exact hb

theorem remoteDone_peer? (s : State) (p tag status q : Nat) : (s.remoteDone p tag status).peer? q = s.peer? q := by
  unfold State.remoteDone
  split
  · rfl
  · dsimp only
    split <;> rfl

/-- 32 bytes of VC0 of KIND 2 are one CLASP_DONE. -/
theorem message_claspDone (s : State) (p path : Nat) {v : Nat} {m : List Byte} (pois : Nat) (hv : v = 0) (hl : m.length = 32) (hk : bfld m 0 2 = 2) :
    s.message p path v m pois = s.remoteDone p (bfld m 2 4) (bfld m 6 2) := by
  subst hv
  change (List.range (m.length / 32)).foldl (fun s i => s.vc0In p ((m.drop (32 * i)).take 32)) s = _
  rw [hl]
  change s.vc0In p (m.take 32) = _
  rw [List.take_of_length_le (by omega)]
  unfold State.vc0In
  dsimp only
  rw [hk]
  rfl

/-- The first message that is whole is delivered, then the next. -/
theorem deliverF_next (n : Nat) {s : State} {p v : Nat} {x : Peer} {r : RxMsg} (path : Nat) (h : s.peer? p = some x)
    (hr : (x.vc v).rxMsgs.find? (fun r => r.id == (x.vc v).rxNextMsg && r.complete) = some r) : s.deliverF (n + 1) p path v =
      ((s.withPeer p (x.updVc v (fun c => { c with rxMsgs := c.rxMsgs.filter (·.id != r.id), rxNextMsg := (c.rxNextMsg + 1) % 2 ^ 32 }))).message
        p path v r.body.1 r.body.2).deliverF n p path v := by
  conv_lhs => unfold State.deliverF
  rw [h]
  dsimp only
  rw [hr]
  dsimp only
  rw [updPeer_eq h]
  rfl

/-- A message of one piece. -/
theorem RxMsg.body_single (id pois : Nat) (bs : List Byte) (n : Option Nat) : (RxMsg.body { id, pieces := [(0, bs, pois)], total := n }).1 = bs := by
  change bs ++ [] = bs
  exact List.append_nil _

/-- A segment that is a whole message of its own, on a channel that holds no other. -/
theorem takes_whole {c : PeerVc} (ha : c.rxAhead = []) (hm : g.msgId = c.rxNextMsg) (hr : c.rxMsgs = []) (ho : g.msgOff = 0) (hl : g.last = true) :
    ∃ r, (c.takes g).rxMsgs = [r] ∧ r.id = (c.takes g).rxNextMsg ∧ r.complete = true ∧ r.body.1 = g.payload := by
  obtain ⟨hmsgs, hnext, -⟩ := takes_msgs (g := g) ha
  have hof : c.msgOf g = { id := g.msgId } := by unfold PeerVc.msgOf; rw [hr]; rfl
  refine ⟨(c.msgOf g).plus g, by rw [hmsgs, hr]; rfl, ?_, ?_, ?_⟩
  · rw [hnext, ← hm]
    exact msgOf_id c g
  · rw [hof]
    unfold RxMsg.plus RxMsg.complete
    simp [hl, ho]
  · rw [hof]
    unfold RxMsg.plus
    rw [ho]
    exact RxMsg.body_single g.msgId g.poisonMap g.payload _

theorem dataIn_claspDone (h : s.peer? g.src = some x) (hc : x.connected = true) (hb : x.busy = false) (hp : g.psn = (x.vc g.vc).rxPsn)
    (ha : (x.vc g.vc).rxAhead = []) (hm : g.msgId = (x.vc g.vc).rxNextMsg) (hr : (x.vc g.vc).rxMsgs = []) (hv : g.vc = 0) (ho : g.msgOff = 0)
    (hl : g.last = true) (hlen : g.payload.length = 32) (hk : bfld g.payload 0 2 = 2) : let t := s.dataIn path g
    SameBut [.freeCtr, .beads, .net, .out] s t ∧ t.beads = (s.remoteDone g.src (bfld g.payload 2 4) (bfld g.payload 6 2)).beads := by
  rw [dataIn_new h hc hb (by rw [hp, ahead, if_pos (Nat.le_refl _)]; omega) ha]
  generalize hu : (s.ackNoted path g x).withPeer g.src ((x.ackedBy s.now g).taking s.now g) = u
  have hux : u.peer? g.src = some ((x.ackedBy s.now g).taking s.now g) := hu ▸ withPeer_peer? ..
  have huf : SameBut [.net] s u := hu ▸ sameBut_net s _
  have huo : u.net.remoteOps = s.net.remoteOps := by rw [← hu]; rfl
  obtain ⟨hops, z, n, hz, hn, -, -⟩ := ackIfDue_spec hux ((x.vc g.vc).unackedRx + 1)
  have hwf : SameBut [.freeCtr, .net, .out] u (u.ackIfDue g ((x.vc g.vc).unackedRx + 1)) := (kept_ackIfDue ..).sameBut _ (by intro q; cases q <;> decide)
  generalize u.ackIfDue g ((x.vc g.vc).unackedRx + 1) = w at hops hz hwf
  rw [ackedTaking_vc] at hn
  obtain ⟨r, hmsgs, hid, hcomp, hbody⟩ := takes_whole (c := (x.vc g.vc).ackedBy g) (g := g) ha hm hr ho hl
  have hzm : (z.vc g.vc).rxMsgs = [r] := by rw [hn]; exact hmsgs
  have hzn : (z.vc g.vc).rxNextMsg = r.id := by rw [hn]; exact hid.symm
  rw [deliverF_next (r := r) 64 path hz (by simp [hzm, hzn, hcomp]), hbody, message_claspDone _ _ _ _ hv hlen hk]
  rw [deliverF_waits 64 fun y hy => by
    rw [remoteDone_peer?, withPeer_peer?] at hy
    cases hy
    rw [Peer.updVc_vc, if_pos rfl]
    simp [hzm]]
  have hwb : w.beads = s.beads := (hwf .beads (by decide)).trans (huf .beads (by decide))
  refine ⟨.trans (huf.mono (by intro q; cases q <;> decide)) (.trans (hwf.mono (by intro q; cases q <;> decide))
    (.trans (t := w.withPeer g.src _) (sameBut_net_within (by decide) w _) ((kept_remoteDone ..).sameBut _ (by intro q; cases q <;> decide)))), ?_⟩
  exact remoteDone_beads_congr (s := s) (t := w.withPeer g.src _) hwb (hops.trans huo) ..

end

end Sys2Proof.Machine
end

section
/-! PROOF. The rows of the transport that carry data, acknowledgements and probes, and its timers (R485, R510, R514 to R516, R521, R530). -/

namespace Sys2Proof.Machine

/-! ## A segment out of the receive buffer -/

namespace Taken
variable {s u t : State} (h : Taken s u)
include h

theorem sameBut : SameBut [.net, .out] s u := h.kept.sameBut _ (by intro p; cases p <;> decide)

/-- What a row changes after the segment has left the receive buffer. -/
theorem frame {l : List Part} (hn : .net ∈ l) (ho : .out ∈ l) (hf : SameBut l u t) : SameBut l s t := by
  refine .trans (h.sameBut.mono fun p hp hm => hp ?_) hf
  rcases List.mem_cons.1 hm with e | hm
  · exact e ▸ hn
  · exact List.mem_singleton.1 hm ▸ ho

theorem freePaths (x : Peer) : u.freePaths x = s.freePaths x := h.ways.freePaths x

theorem find?_out {f : Out → Bool} (hf : ∀ k b, f (.pause k b) = false) : u.out.find? f = s.out.find? f := by
  obtain ⟨os, hout, hos⟩ := h.out
  have hnone : os.find? f = none := List.find?_eq_none.2 fun o ho => by
    obtain ⟨k, b, rfl⟩ := hos o ho
    rw [hf]
    decide
  rw [hout, List.find?_append, hnone, Option.or_none]

end Taken

/-! ## DATA (R510, R515) -/

section
variable {path : Fin 32} {g : Segment} {s : State} (hrun : s.halted = false)
include hrun

theorem exec_data : exec (.data path g) s = .next ((s.takeSeg path.val g).dataIn path.val g) := unlessDown_of_running hrun _
theorem exec_ack : exec (.ack path g) s = .next ((s.takeSeg path.val g).ackIn path.val g) := unlessDown_of_running hrun _
theorem exec_probe : exec (.probe path g) s = .next ((s.takeSeg path.val g).probeIn path.val g) := unlessDown_of_running hrun _
theorem exec_bye : exec (.bye path g) s = .next ((s.takeSeg path.val g).byeIn g.src) := unlessDown_of_running hrun _
theorem exec_earlyNak : exec (.earlyNak path g) s = .next ((s.takeSeg path.val g).earlyNakIn g) := unlessDown_of_running hrun _

variable {x : Peer} (hx : s.peer? g.src = some x) (hc : x.connected = true) (hb : x.busy = false)
include hx hc hb

theorem data_again (hd : 2 ^ 31 ≤ ahead g.psn (x.vc g.vc).rxPsn ∨ (x.vc g.vc).rxAhead.contains g.psn = true) (hf : s.freePaths x ≠ []) :
    ∃ t k r, exec (.data path g) s = .next t ∧ SameBut [.freeCtr, .net, .out] s t ∧ t.out = (s.takeSeg path.val g).out ++ [.segment k r] ∧
      k ∈ s.freePaths x ∧ r.type = 1 ∧ r.vc = g.vc ∧ r.dst = g.src ∧ r.ackPsn = (x.vc g.vc).rxPsn := by
  have ht := takeSeg_taken s path.val g
  rw [exec_data hrun, dataIn_again ((ht.peer? _).trans hx) hc hb hd]
  obtain ⟨k, r, ⟨hframe, hout⟩, hk, hr⟩ := ackAgain_sends (path := path.val) (g := g) (x := x) (s := s.takeSeg path.val g) (by rwa [ht.freePaths])
  exact ⟨_, k, r, rfl, ht.frame (by decide) (by decide) hframe, hout, ht.freePaths x ▸ hk, hr⟩

theorem data_beyond (hd : 64 < ahead g.psn (x.vc g.vc).rxPsn) (hlt : ahead g.psn (x.vc g.vc).rxPsn < 2 ^ 31)
    (ha : (x.vc g.vc).rxAhead.contains g.psn = false) :
    ∃ t y, exec (.data path g) s = .next t ∧ SameBut [.net, .out] s t ∧ t.out = (s.takeSeg path.val g).out ∧ t.peer? g.src = some y ∧
      (y.vc g.vc).rxPsn = (x.vc g.vc).rxPsn ∧ (y.vc g.vc).rxMsgs = (x.vc g.vc).rxMsgs := by
  have ht := takeSeg_taken s path.val g
  rw [exec_data hrun, dataIn_beyond ((ht.peer? _).trans hx) hc hb hd hlt ha]
  exact ⟨_, _, rfl, ht.frame (by decide) (by decide) (sameBut_net_within (by decide) _ _), rfl, ackNoted_peer? path.val, ackedBy_rx ..⟩

theorem data_new (hd : ahead g.psn (x.vc g.vc).rxPsn ≤ 64) (ha : (x.vc g.vc).rxAhead = []) (hm : g.msgId ≠ (x.vc g.vc).rxNextMsg)
    (hall : (x.vc g.vc).rxMsgs.all (fun r => r.id != (x.vc g.vc).rxNextMsg) = true) :
    ∃ t, exec (.data path g) s = .next t ∧ SameBut [.freeCtr, .net, .out] s t ∧
      Placed (s.takeSeg path.val g) t g (x.vc g.vc) (s.freePaths x) := by
  have ht := takeSeg_taken s path.val g
  have hp := dataIn_places (path := path.val) ((ht.peer? _).trans hx) hc hb hd ha hm hall
  rw [ht.freePaths] at hp
  exact ⟨_, exec_data hrun, ht.frame (by decide) (by decide) hp.frame, hp⟩

theorem data_claspDone (hp : g.psn = (x.vc g.vc).rxPsn) (ha : (x.vc g.vc).rxAhead = []) (hm : g.msgId = (x.vc g.vc).rxNextMsg)
    (hr : (x.vc g.vc).rxMsgs = []) (hv : g.vc = 0) (ho : g.msgOff = 0) (hl : g.last = true) (hlen : g.payload.length = 32)
    (hk : bfld g.payload 0 2 = 2) : ∃ t, exec (.data path g) s = .next t ∧ SameBut [.freeCtr, .beads, .net, .out] s t ∧
      t.beads = (s.remoteDone g.src (bfld g.payload 2 4) (bfld g.payload 6 2)).beads := by
  have ht := takeSeg_taken s path.val g
  obtain ⟨hframe, hbeads⟩ := dataIn_claspDone (path := path.val) ((ht.peer? _).trans hx) hc hb hp ha hm hr hv ho hl hlen hk
  exact ⟨_, exec_data hrun, ht.frame (by decide) (by decide) hframe,
    hbeads.trans (remoteDone_beads_congr (ht.sameBut .beads (by decide)) ht.ops ..)⟩

end

/-! ## ACK (R515, R516, R521) -/

/-- A peer of which a probed path has been acknowledged. -/
def Peer.answered (x : Peer) (path : Nat) : Peer :=
  { x with suspects := x.suspects.filterMap (fun u =>
      if u.path ≠ path ∨ !u.probed then some u else if u.acks = 3 then none else some { u with acks := u.acks + 1, probed := false }) }

/-- A probed path gains one more answer, unless that is its fourth. -/
theorem answered_counts {x : Peer} {path : Nat} {w : Suspect} (hw : w ∈ x.suspects) (hp : w.path = path) (hpr : w.probed = true) (hn : w.acks ≠ 3) :
    { w with acks := w.acks + 1, probed := false } ∈ (x.answered path).suspects :=
  List.mem_filterMap.2 ⟨w, hw, by simp [hp, hpr, hn]⟩

/-- The fourth answer in a row restores the path. -/
theorem answered_restores {x : Peer} {path : Nat} (h : ∀ w, w ∈ x.suspects → w.path = path → w.probed = true ∧ w.acks = 3) (w : Suspect)
    (hw : w ∈ (x.answered path).suspects) : w.path ≠ path := by
  obtain ⟨v, hv, he⟩ := List.mem_filterMap.1 hw
  by_cases hp : v.path = path
  · obtain ⟨hpr, ha⟩ := h v hv hp
    simp [hp, hpr, ha] at he
  · rw [if_pos (.inl hp)] at he
    cases he
    exact hp

theorem ackCovers_of_no_sack (a n : Nat) : (!ackCovers a 0 n) = decide (ahead n a < 2 ^ 31) := by
  have hbit (i : Nat) : bit 0 i = false := by simp [bit]
  unfold ackCovers
  simp only [hbit, Bool.and_false, Bool.or_false]
  simp only [← decide_not, Nat.not_le]

/-- Without SACK no segment counts as passed. -/
theorem late_of_no_sack {g : Segment} (h : g.sack = 0) (x : Peer) : x.late g = [] := by
  have hno (n : Nat) : sackBeyond g.ackPsn g.sack n = 0 := by
    unfold sackBeyond
    rw [h, Nat.zero_mod]
    dsimp only
    rw [Nat.zero_div]
    decide
  unfold Peer.late
  simp [hno]

section
variable {s : State} {g : Segment} {x : Peer}

theorem ackIn_none (path : Nat) (h : s.peer? g.src = none) : s.ackIn path g = s := by
  unfold State.ackIn State.probeAcked
  rw [updPeer_none h]
  unfold State.acked
  rw [h]

variable (h : s.peer? g.src = some x)
include h

theorem ackIn_eq (path : Nat) : s.ackIn path g = (s.withPeer g.src (x.answered path)).acked path g := by
  unfold State.ackIn State.probeAcked
  rw [updPeer_eq h]
  rfl

/-- An acknowledgement that has nothing sent again or sent on. -/
theorem ackIn_quiet (path : Nat) (hl : x.late g = []) (hq : x.Quiet) :
    s.ackIn path g = (s.withPeer g.src (x.answered path)).ackNoted path g (x.answered path) :=
  (ackIn_eq h path).trans (acked_quiet (withPeer_peer? ..) path hl hq)

/-- The one segment outstanding, passed by three later ones, goes out again on the one free path. -/
theorem ackIn_resends (path : Nat) {i : SentSeg} {k : Nat} (hs : (x.vc g.vc).sent = [i]) (hn : i.sends = 1)
    (hcov : ackCovers g.ackPsn g.sack i.seg.psn = false) (hthree : 3 ≤ sackBeyond g.ackPsn g.sack i.seg.psn) (hsus : x.suspects = [])
    (hf : s.freePaths x = [k]) : ∃ r, .segment k r ∈ (s.ackIn path g).out ∧ r.psn = i.seg.psn ∧ r.payload = i.seg.payload := by
  have hlate : (x.answered path).late g = [i.seg.psn] := by
    change x.late g = _
    unfold Peer.late
    simp [hs, hn, hcov, hthree]
  have hfree : (s.withPeer g.src (x.answered path)).freePaths (x.answered path) = [k] := by
    rw [SameWays.freePaths (s := s) (t := s.withPeer g.src (x.answered path)) (.of_ports rfl rfl), ← hf]
    exact freePaths_congr s rfl (by unfold Peer.answered; rw [hsus]; rfl)
  have hsent (now : Nat) : (((x.answered path).ackedBy now g).vc g.vc).sent = [i] := by
    rw [ackedBy_vc, if_pos rfl]
    change (x.vc g.vc).sent.filter _ = _
    simp [hs, hcov]
  rw [ackIn_eq h, acked_eq (withPeer_peer? ..), hlate]
  dsimp only [List.foldl_cons, List.foldl_nil]
  rw [resend_eq (ackNoted_peer? path) (i := i) (k := k) (by rw [hsent]; simp) (by omega)
    (by rw [ackNoted_freePaths, hfree])]
  obtain ⟨-, -, hprefix, -, -⟩ := kept_pumpPeer _ g.src
  exact ⟨_, hprefix.subset (List.mem_append_right _ (List.mem_singleton_self _)), rfl, rfl⟩

end

section
variable {path : Fin 32} {g : Segment} {s : State} (hrun : s.halted = false) {x : Peer} (hx : s.peer? g.src = some x)
include hrun hx

theorem ack_releases (h0 : g.sack = 0) (hq : x.vcs.all (fun v => v.2.backlog.isEmpty) = true) : ∃ t y, exec (.ack path g) s = .next t ∧
    SameBut [.net, .out] s t ∧ t.out = (s.takeSeg path.val g).out ∧ t.peer? g.src = some y ∧ y.lastAckAt = s.now ∧
    (y.vc g.vc).sent = (x.vc g.vc).sent.filter (fun h => decide (ahead h.seg.psn g.ackPsn < 2 ^ 31)) ∧
    (ahead g.ackPsn (x.vc g.vc).ackPsn < 2 ^ 31 → (y.vc g.vc).ackPsn = g.ackPsn) ∧ (∀ v, v ≠ g.vc → y.vc v = x.vc v) ∧
    (∀ w, w ∈ x.suspects → w.path = path.val → w.probed = true → w.acks ≠ 3 → { w with acks := w.acks + 1, probed := false } ∈ y.suspects) ∧
    ((∀ w, w ∈ x.suspects → w.path = path.val → w.probed = true ∧ w.acks = 3) → ∀ w, w ∈ y.suspects → w.path ≠ path.val) := by
  have ht := takeSeg_taken s path.val g
  have hnow : (s.takeSeg path.val g).now = s.now := ht.sameBut .now (by decide)
  rw [exec_ack hrun, ackIn_quiet ((ht.peer? _).trans hx) path.val (late_of_no_sack h0 x) (Peer.quiet_of_all hq)]
  refine ⟨_, _, rfl, ht.frame (by decide) (by decide) (sameBut_net_within (by decide) _ _), rfl, ackNoted_peer? path.val, hnow, ?_, fun hd => ?_,
    fun v hv => ?_, fun w hw hp hpr hn => answered_counts hw hp hpr hn, answered_restores⟩
  · rw [ackedBy_vc, if_pos rfl]
    change (x.vc g.vc).sent.filter _ = _
    simp only [h0, ackCovers_of_no_sack]
  · rw [ackedBy_vc, if_pos rfl]
    exact if_pos (decide_eq_true hd)
  · rw [ackedBy_vc, if_neg hv]
    rfl

theorem ack_resends {i : SentSeg} {k : Nat} (hs : (x.vc g.vc).sent = [i]) (hn : i.sends = 1)
    (hcov : ackCovers g.ackPsn g.sack i.seg.psn = false) (hthree : 3 ≤ sackBeyond g.ackPsn g.sack i.seg.psn) (hsus : x.suspects = [])
    (hf : s.freePaths x = [k]) : ∃ t r, exec (.ack path g) s = .next t ∧ .segment k r ∈ t.out ∧ r.psn = i.seg.psn ∧ r.payload = i.seg.payload := by
  have ht := takeSeg_taken s path.val g
  obtain ⟨r, hr⟩ := ackIn_resends ((ht.peer? _).trans hx) path.val hs hn hcov hthree hsus (by rwa [ht.freePaths])
  exact ⟨_, r, exec_ack hrun, hr⟩

/-! ## PROBE and BYE (R514, R521) -/

theorem probe_answers : ∃ t, exec (.probe path g) s = .next t ∧ SameBut [.net, .out] s t ∧
    t.out = (s.takeSeg path.val g).out ++ [.segment path.val { type := 1, vc := g.vc, path := path.val, src := s.set.cur.netPkg.pkgId, dst := g.src }] ∧
    (0x14 ≤ g.payload.length → t.peer? g.src = some { x with paths := bfld g.payload 0x10 4 }) ∧
    (g.payload.length < 0x14 → t.peer? g.src = some x) := by
  have ht := takeSeg_taken s path.val g
  have hux := (ht.peer? g.src).trans hx
  have hid : s.set.cur.netPkg.pkgId = (s.takeSeg path.val g).set.cur.netPkg.pkgId := by rw [ht.ways.set]
  rw [exec_probe hrun, hid]
  generalize s.takeSeg path.val g = u at ht hux
  unfold State.probeIn
  by_cases hlen : g.payload.length < 0x14
  · dsimp only
    rw [if_pos hlen, hux]
    exact ⟨_, rfl, ht.frame (by decide) (by decide) (sameBut_net_out u u.net _), rfl, fun hge => absurd hlen (Nat.not_lt.2 hge), fun _ => hux⟩
  · dsimp only
    rw [if_neg hlen, updPeer_eq hux]
    have hy : (u.withPeer g.src { x with paths := bfld g.payload 0x10 4 }).peer? g.src = some { x with paths := bfld g.payload 0x10 4 } := withPeer_peer? ..
    change ∃ t, Host.Outcome.next (if ((u.withPeer g.src { x with paths := bfld g.payload 0x10 4 }).peer? g.src).isSome = true then _ else _) = .next t ∧ _
    rw [hy]
    exact ⟨_, rfl, ht.frame (by decide) (by decide) (sameBut_net_out u _ _), rfl, fun _ => hy, fun hlt => absurd hlt hlen⟩

theorem bye_removes (h : x.connected = false ∨ x.busy = false) :
    ∃ t, exec (.bye path g) s = .next t ∧ SameBut [.net, .out] s t ∧ t.net.peers = mdel s.net.peers g.src := by
  have ht := takeSeg_taken s path.val g
  rw [exec_bye hrun]
  unfold State.byeIn
  rw [(ht.peer? g.src).trans hx]
  dsimp only
  rw [if_neg (by rcases h with h | h <;> simp [h])]
  exact ⟨_, rfl, ht.frame (by decide) (by decide) (sameBut_net_within (by decide) _ _), congrArg (mdel · g.src) ht.peers⟩

theorem bye_loses (hc : x.connected = true) (hb : x.busy = true) (hst : s.stalledOps = []) (hfed : s.unfederated g.src) :
    ∃ t, exec (.bye path g) s = .next t ∧ SameBut [.beads, .clasps, .net, .fns, .errGlobal, .out] s t ∧ t.peer? g.src = none := by
  have ht := takeSeg_taken s path.val g
  have hux := (ht.peer? g.src).trans hx
  rw [exec_bye hrun]
  unfold State.byeIn
  rw [hux]
  dsimp only
  rw [if_pos (by rw [hc, hb]; rfl)]
  obtain ⟨hframe, hgone, -⟩ := losePeer_alone hux ((ht.sameBut .stalledOps (by decide)).trans hst) (by unfold State.unfederated; rwa [ht.ways.set])
  exact ⟨_, rfl, ht.frame (by decide) (by decide) hframe, hgone⟩

end

/-! ## EARLY_NAK (R530) -/

/-- Is it the payload of a collective? -/
def Out.isColl (h : CollHdr) : Out → Bool
  | .coll k _ _ => k == h
  | _ => false

theorem earlyNakIn_eq (s : State) (g : Segment) : s.earlyNakIn g =
    match s.out.find? (Out.isColl (collHdrOf g.payload)) with
    | some o => s.emit o
    | none => s := rfl

/-- The payload that went out is found in what the segment left in the output. -/
theorem earlyNak_sends {s : State} (hrun : s.halted = false) (path : Fin 32) (g : Segment) : exec (.earlyNak path g) s =
    .next (match s.out.find? (Out.isColl (collHdrOf g.payload)) with
      | some o => (s.takeSeg path.val g).emit o
      | none => s.takeSeg path.val g) := by
  rw [exec_earlyNak hrun, earlyNakIn_eq, (takeSeg_taken s path.val g).find?_out fun _ _ => rfl]

/-! ## Timers (R514 to R516) -/

section
variable {s : State} (hrun : s.halted = false)
include hrun

theorem exec_ackTimer (n v : Nat) : exec (.ackTimer n v) s =
    .next (if ((s.peer? n).map (fun x => (x.vc v).unackedRx)).getD 0 = 0 then s else s.sendAck n v) := unlessDown_of_running hrun _

theorem exec_retransmitTimeout (n v psn tm : Nat) : exec (.retransmitTimeout n v psn tm) s = .next ((s.at tm).timeout n v psn) :=
  unlessDown_of_running hrun _

theorem ackTimer_idle {n v : Nat} (h : ∀ x, s.peer? n = some x → (x.vc v).unackedRx = 0) : exec (.ackTimer n v) s = .next s := by
  rw [exec_ackTimer hrun]
  refine congrArg _ (if_pos ?_)
  cases hx : s.peer? n with
  | none => rfl
  | some x => exact h x hx

section
variable {n v : Nat} {x : Peer} (hx : s.peer? n = some x)
include hx

theorem ackTimer_due (h : (x.vc v).unackedRx ≠ 0) : exec (.ackTimer n v) s = .next (s.sendAck n v) := by
  rw [exec_ackTimer hrun, hx]
  exact congrArg _ (if_neg h)

theorem ackTimer_sends (h : (x.vc v).unackedRx ≠ 0) (hf : s.freePaths x ≠ []) : ∃ t k r y, exec (.ackTimer n v) s = .next t ∧
    SameBut [.freeCtr, .net, .out] s t ∧ t.out = s.out ++ [.segment k r] ∧ k ∈ s.freePaths x ∧ r.type = 1 ∧ r.vc = v ∧ r.dst = n ∧
    r.ackPsn = (x.vc v).rxPsn ∧ r.sack = (x.vc v).sack ∧ t.peer? n = some y ∧ (y.vc v).unackedRx = 0 := by
  obtain ⟨k, hk, he⟩ := sendAck_some (v := v) hx hf
  rw [ackTimer_due hrun hx h, he]
  exact ⟨_, k, _, x.sentTo v, rfl, sameBut_free_net_out s _ _ _, rfl, hk, rfl, rfl, rfl, rfl, rfl, mfind_mput_same ..,
    by rw [sentTo_vc, if_pos rfl]; rfl⟩

end

end

section
variable {s : State} {n v psn : Nat} {x : Peer} (hx : s.peer? n = some x)
include hx

/-- No such segment is outstanding. -/
theorem timeout_none (hf : (x.vc v).sent.find? (·.seg.psn == psn) = none) : s.timeout n v psn = s := by
  unfold State.timeout
  rw [hx]
  dsimp only
  rw [hf]

variable {i : SentSeg} (hf : (x.vc v).sent.find? (·.seg.psn == psn) = some i)
include hf

theorem timeout_eq : s.timeout n v psn =
    if x.lastAckAt + 2000000000 ≤ s.now then s.losePeer n
    else if i.sentAt + i.rto * 1000000 ≤ s.now then s.resend n v psn else s := by
  unfold State.timeout
  rw [hx]
  dsimp only
  rw [hf]

omit hx hf in
theorem resent_sent (now k : Nat) : ((x.resent now v psn k).vc v).sent =
    (x.vc v).sent.map (fun h => if h.seg.psn = psn then h.again now k else h) :=
  congrArg (·.sent) ((Peer.updVc_vc x v v (fun c => { c with sent := c.sent.map (fun h => if h.seg.psn = psn then h.again now k else h) })).trans (if_pos rfl))

omit hx in
/-- The segment of a channel that has gone out again. -/
theorem resent_mem (now k : Nat) : i.again now k ∈ ((x.resent now v psn k).vc v).sent ∧ i.seg.psn = psn := by
  have hpsn : i.seg.psn = psn := by simpa using List.find?_some hf
  refine ⟨?_, hpsn⟩
  rw [resent_sent]
  exact List.mem_map.2 ⟨i, List.mem_of_find?_eq_some hf, if_pos hpsn⟩

/-- The segment that is due goes out again on the one free path. -/
theorem resend_due {k : Nat} (hn : i.sends < 7) (hk : s.freePaths x = [k]) : ∃ r y j, let t := s.resend n v psn
    SameBut [.freeCtr, .net, .out] s t ∧ t.out = s.out ++ [.segment k r] ∧ r.psn = i.seg.psn ∧ r.payload = i.seg.payload ∧ t.peer? n = some y ∧
      y.resends = (x.resends + 1) % 2 ^ 64 ∧ j ∈ (y.vc v).sent ∧ j.seg.psn = psn ∧ j.sends = i.sends + 1 ∧ j.rto = min 1000 (2 * i.rto) ∧
      j.sentAt = s.now := by
  obtain ⟨hmem, hpsn⟩ := resent_mem hf s.now k
  rw [resend_eq hx hf hn hk]
  refine ⟨_, (x.resent s.now v psn k).sentTo i.seg.vc, i.again s.now k, sameBut_free_net_out s _ _ _, rfl, rfl, rfl, mfind_mput_same .., rfl, ?_, hpsn,
    rfl, rfl, rfl⟩
  rw [sentTo_vc]
  split
  · next e => rw [← e]; exact hmem
  · exact hmem

end

section
variable {s : State} (hrun : s.halted = false) {n v psn : Nat} {x : Peer} (hx : s.peer? n = some x) {i : SentSeg}
  (hf : (x.vc v).sent.find? (·.seg.psn == psn) = some i)
include hrun hx hf

theorem retransmitTimeout_early {tm : Nat} (ha : (s.at tm).now < x.lastAckAt + 2000000000) (hd : (s.at tm).now < i.sentAt + i.rto * 1000000) :
    exec (.retransmitTimeout n v psn tm) s = .next (s.at tm) := by
  rw [exec_retransmitTimeout hrun, timeout_eq (s := s.at tm) hx hf, if_neg (Nat.not_le.2 ha), if_neg (Nat.not_le.2 hd)]

theorem retransmitTimeout_due {tm k : Nat} (ha : (s.at tm).now < x.lastAckAt + 2000000000) (hd : i.sentAt + i.rto * 1000000 ≤ (s.at tm).now)
    (hn : i.sends < 7) (hk : s.freePaths x = [k]) : ∃ t r y j, exec (.retransmitTimeout n v psn tm) s = .next t ∧
      SameBut [.now, .freeCtr, .net, .out] s t ∧ t.out = s.out ++ [.segment k r] ∧ r.psn = i.seg.psn ∧ r.payload = i.seg.payload ∧
      t.peer? n = some y ∧ y.resends = (x.resends + 1) % 2 ^ 64 ∧ j ∈ (y.vc v).sent ∧ j.seg.psn = psn ∧ j.sends = i.sends + 1 ∧
      j.rto = min 1000 (2 * i.rto) ∧ j.sentAt = (s.at tm).now := by
  obtain ⟨r, y, j, hframe, hrest⟩ := resend_due (s := s.at tm) hx hf hn hk
  rw [exec_retransmitTimeout hrun, timeout_eq (s := s.at tm) hx hf, if_neg (Nat.not_le.2 ha), if_pos hd]
  exact ⟨_, r, y, j, rfl, .trans (t := s.at tm) (Part.forall.2 (by simp [Part.same, State.at])) (hframe.mono (by intro q; cases q <;> decide)), hrest⟩

theorem retransmitTimeout_loses {tm : Nat} (ha : x.lastAckAt + 2000000000 ≤ (s.at tm).now) (hst : s.stalledOps = []) (hfed : s.unfederated n) :
    ∃ t, exec (.retransmitTimeout n v psn tm) s = .next t ∧ SameBut [.now, .beads, .clasps, .net, .fns, .errGlobal, .out] s t ∧ t.peer? n = none ∧
      t.errGlobal = ((s.at tm).raiseG St.netPeerLost n).errGlobal ∧ t.net.remoteOps = s.net.remoteOps.filter (·.peer != n) ∧
      ∀ o b, o ∈ s.net.remoteOps → o.peer = n → o.bead = some b → (t.bead b).wake = some true := by
  obtain ⟨hframe, hrest⟩ := losePeer_alone (s := s.at tm) hx hst hfed
  rw [exec_retransmitTimeout hrun, timeout_eq (s := s.at tm) hx hf, if_pos ha]
  exact ⟨_, rfl, .trans (t := s.at tm) (Part.forall.2 (by simp [Part.same, State.at])) (hframe.mono (by intro q; cases q <;> decide)), hrest⟩

end

/-! ## PEER_IDLE_REMOVE (R514) -/

/-- The BYE that goes to an idle peer when a path is free. -/
def State.farewell (s : State) (n : Nat) (x : Peer) : State :=
  match s.pickPath x with
  | (some k, s) => s.bye n k 0
  | (none, _) => s

theorem farewell_frame (s : State) (n : Nat) (x : Peer) : SameBut [.freeCtr, .out] s (s.farewell n x) := by
  unfold State.farewell
  by_cases hf : s.freePaths x = []
  · rw [pickPath_none hf]
    exact .refl _ s
  · obtain ⟨k, -, hp⟩ := pickPath_some hf
    rw [hp]
    exact Part.forall.2 (by simp [Part.same, State.bye, State.putCtl, State.emit])

theorem farewell_out {s : State} {x : Peer} (n : Nat) (hf : s.freePaths x ≠ []) : ∃ k, k ∈ s.freePaths x ∧ (s.farewell n x).out =
    s.out ++ [.segment k { type := 5, path := k, src := s.set.cur.netPkg.pkgId, dst := n, payload := leBytes 2 0 }] := by
  obtain ⟨k, hk, hp⟩ := pickPath_some hf
  refine ⟨k, hk, ?_⟩
  unfold State.farewell
  rw [hp]
  rfl

section
variable {s : State} (hrun : s.halted = false) {n : Nat} {x : Peer} (hx : s.peer? n = some x)
include hrun hx

theorem exec_peerIdleRemove (tm : Nat) : exec (.peerIdleRemove n tm) s =
    .next (if s.peerIdle n x && decide (x.lastBusyAt + 10 ^ 13 ≤ (s.at tm).now) then
      { (s.at tm).farewell n x with net := { ((s.at tm).farewell n x).net with peers := mdel ((s.at tm).farewell n x).net.peers n } }
    else s.at tm) := by
  refine (unlessDown_of_running hrun _).trans ?_
  rw [show (s.at tm).peer? n = some x from hx]
  rfl

theorem peerIdleRemove_stays {tm : Nat} (h : s.peerIdle n x = false ∨ (s.at tm).now < x.lastBusyAt + 10 ^ 13) :
    exec (.peerIdleRemove n tm) s = .next (s.at tm) := by
  rw [exec_peerIdleRemove hrun hx]
  refine congrArg _ (if_neg fun hi => ?_)
  obtain ⟨hidle, hlate⟩ := Bool.and_eq_true_iff.1 hi
  rcases h with h | h
  · exact absurd (h.symm.trans hidle) (by decide)
  · exact absurd (of_decide_eq_true hlate) (Nat.not_le.2 h)

theorem peerIdleRemove_removes {tm : Nat} (hi : s.peerIdle n x = true) (hl : x.lastBusyAt + 10 ^ 13 ≤ (s.at tm).now) :
    ∃ t, exec (.peerIdleRemove n tm) s = .next t ∧ SameBut [.now, .freeCtr, .net, .out] s t ∧ t.net.peers = mdel s.net.peers n ∧
      (s.freePaths x ≠ [] → ∃ k, k ∈ s.freePaths x ∧
        t.out = s.out ++ [.segment k { type := 5, path := k, src := s.set.cur.netPkg.pkgId, dst := n, payload := leBytes 2 0 }]) := by
  have hframe := farewell_frame (s.at tm) n x
  have hnet : ((s.at tm).farewell n x).net = s.net := hframe .net (by decide)
  rw [exec_peerIdleRemove hrun hx, if_pos (Bool.and_eq_true_iff.2 ⟨hi, decide_eq_true hl⟩)]
  refine ⟨_, rfl, ?_, by rw [hnet], fun hf => farewell_out (s := s.at tm) n hf⟩
  exact .trans (t := s.at tm) (Part.forall.2 (by simp [Part.same, State.at])) (.trans (hframe.mono (by intro q; cases q <;> decide))
    (sameBut_net_within (by decide) _ _))

end

end Sys2Proof.Machine
end

section
/-! PROOF. The rows of a connection (R512 to R514), and O50. -/

namespace Sys2Proof.Machine

namespace Taken
variable {s u : State} (h : Taken s u)
include h

theorem asking (p : Nat) : u.asking p ↔ s.asking p := by
  unfold State.asking
  rw [h.peer?]

theorem helloBytes (v : Nat) : u.helloBytes v = s.helloBytes v := h.ways.toSameUp.helloBytes (h.kept.hmk_eq (by decide)) v

theorem record_congr (status arg : Nat) : (u.raiseG status arg).errGlobal = (s.raiseG status arg).errGlobal := by
  rw [raiseG_errGlobal, raiseG_errGlobal, show u.errGlobal = _ from h.sameBut .errGlobal (by decide)]
  unfold State.mkRec
  rw [show u.frm = _ from h.sameBut .frm (by decide), show u.now = _ from h.sameBut .now (by decide)]

end Taken

/-- The peer of a new connection has what the two packages have agreed on. -/
structure Met (s : State) (h : HelloBody) (v : Nat) (y : Peer) : Prop where
  connected : y.connected = true
  version : y.version = v
  features : y.features = featOf v (h.features &&& 0xF)
  paths : y.paths = h.paths
  rate : y.rate = s.rateMax y / 8
  fresh : y.vcs = []

theorem met_of_fresh {s u : State} (hu : SameUp s u) {p : Nat} {h : HelloBody} {version : Nat} (hv : (u.met p h version).vcs = []) :
    Met s h version (u.met p h version) :=
  ⟨rfl, rfl, rfl, rfl, congrArg (· / 8) (hu.rateMax _), hv⟩

section
variable {path : Fin 32} {g : Segment} {h : HelloBody} {s : State} (hrun : s.halted = false)
include hrun

theorem hello_stands (ha : s.asking g.src) (hlt : s.set.cur.netPkg.pkgId < g.src) : exec (.hello path g h) s = .next (s.takeSeg path.val g) := by
  have ht := takeSeg_taken s path.val g
  rw [exec_hello hrun, helloIn_stands ((ht.asking _).2 ha) (by rwa [ht.ways.set])]

/-- The connection that a HELLO_ACK completes. -/
theorem helloAck_connects {x : Peer} (hx : s.peer? g.src = some x) (hsent : x.helloSent = true) (hc : x.connected = false) (hq : x.vcs = [])
    (hv : max s.tRange.1 h.verMin ≤ min s.tRange.2 h.verMax) : ∃ t y, exec (.helloAck path g h) s = .next t ∧ SameBut [.net, .out] s t ∧
      t.out = (s.takeSeg path.val g).out ∧ t.peer? g.src = some y ∧ Met s h (min s.tRange.2 h.verMax) y := by
  have ht := takeSeg_taken s path.val g
  have hux := (ht.peer? g.src).trans hx
  obtain ⟨he, hfresh⟩ := connect_quiet (fun y hy => .inr (by cases hux.symm.trans hy; exact hq)) h (min s.tRange.2 h.verMax)
  rw [exec_helloAck hrun, helloAckIn_connects hux hsent hc (by rwa [ht.tRange]), ht.tRange, he]
  exact ⟨_, _, rfl, ht.frame (by decide) (by decide) (sameBut_net_within (by decide) _ _), rfl, withPeer_peer? .., met_of_fresh ht.ways.toSameUp hfresh⟩

theorem helloAck_ignored {x : Peer} (hx : s.peer? g.src = some x)
    (hn : x.helloSent = false ∨ x.connected = true ∨ min s.tRange.2 h.verMax < max s.tRange.1 h.verMin) :
    exec (.helloAck path g h) s = .next (s.takeSeg path.val g) := by
  have ht := takeSeg_taken s path.val g
  rw [exec_helloAck hrun, helloAckIn_ignored ((ht.peer? _).trans hx) (by rwa [ht.tRange])]

theorem helloAck_unknown (hx : s.peer? g.src = none) : exec (.helloAck path g h) s = .next (s.takeSeg path.val g) := by
  rw [exec_helloAck hrun]
  unfold State.helloAckIn
  rw [((takeSeg_taken s path.val g).peer? _).trans hx]

variable (hn : ¬ (s.asking g.src ∧ s.set.cur.netPkg.pkgId < g.src))
include hn

omit hrun in
theorem takeSeg_goes : ¬ ((s.takeSeg path.val g).asking g.src ∧ (s.takeSeg path.val g).set.cur.netPkg.pkgId < g.src) := by
  have ht := takeSeg_taken s path.val g
  rwa [ht.asking, ht.ways.set]

/-- Versions that do not overlap are refused. -/
theorem hello_unversioned (hv : min s.tRange.2 h.verMax < max s.tRange.1 h.verMin) : ∃ t, exec (.hello path g h) s = .next t ∧
    SameBut [.net, .out] s t ∧ t.out = (s.takeSeg path.val g).out ++ [.segment path.val
      { type := 5, path := path.val, src := s.set.cur.netPkg.pkgId, dst := g.src, payload := leBytes 2 St.netVersion }] := by
  have ht := takeSeg_taken s path.val g
  rw [exec_hello hrun, helloIn_unversioned (takeSeg_goes hn) (by rwa [ht.tRange]), show s.set = (s.takeSeg path.val g).set from ht.ways.set.symm]
  exact ⟨_, rfl, ht.frame (by decide) (by decide) (sameBut_net_out _ _ _), rfl⟩

variable (hv : max s.tRange.1 h.verMin ≤ min s.tRange.2 h.verMax)
include hv

/-- A package beyond the number of peers is refused, with a record. -/
theorem hello_full (hx : s.peer? g.src = none) (hfull : s.set.cur.maxPeers ≤ s.net.peers.length) : ∃ t, exec (.hello path g h) s = .next t ∧
    SameBut [.net, .fns, .errGlobal, .out] s t ∧ t.net.peers = s.net.peers ∧ t.errGlobal = (s.raiseG St.netPeersFull g.src).errGlobal ∧
    .segment path.val { type := 5, path := path.val, src := s.set.cur.netPkg.pkgId, dst := g.src, payload := leBytes 2 St.netPeersFull } ∈ t.out := by
  have ht := takeSeg_taken s path.val g
  rw [exec_hello hrun, helloIn_full (takeSeg_goes hn) (by rwa [ht.tRange]) ((ht.peer? _).trans hx) (by rwa [ht.ways.set, ht.peers])]
  have hr : Kept 0x2040200000 (s.takeSeg path.val g) ((s.takeSeg path.val g).raiseG St.netPeersFull g.src) := kept_raiseG ..
  have herr := ht.record_congr St.netPeersFull g.src
  have hset : s.set = ((s.takeSeg path.val g).raiseG St.netPeersFull g.src).set := ((hr.set_eq (by decide)).trans ht.ways.set).symm
  rw [hset]
  refine ⟨_, rfl, ht.frame (by decide) (by decide) ((Kept.of (kept_putCtl ..) hr).sameBut _ (by intro p; cases p <;> decide)), ?_, herr,
    List.mem_append_right _ (List.mem_singleton_self _)⟩
  exact (congrArg (·.peers) (hr.net_eq (by decide))).trans ht.peers

/-- Otherwise the connection forms and HELLO_ACK goes back. -/
theorem hello_answers (hroom : s.peer? g.src = none → s.net.peers.length < s.set.cur.maxPeers)
    (hq : ∀ x, s.peer? g.src = some x → x.connected = true ∨ x.vcs = []) : ∃ t y, exec (.hello path g h) s = .next t ∧ SameBut [.net, .out] s t ∧
      t.peer? g.src = some y ∧ Met s h (min s.tRange.2 h.verMax) y ∧ t.out = (s.takeSeg path.val g).out ++ [.segment path.val
        { type := 3, path := path.val, src := s.set.cur.netPkg.pkgId, dst := g.src, payload := s.helloBytes (min s.tRange.2 h.verMax) }] := by
  have ht := takeSeg_taken s path.val g
  obtain ⟨he, hfresh⟩ := connect_quiet (fun y hy => hq y ((ht.peer? g.src).symm.trans hy)) h (min s.tRange.2 h.verMax)
  rw [exec_hello hrun, helloIn_answers (takeSeg_goes hn) (by rwa [ht.tRange])
    (fun hnone => by rw [ht.ways.set, ht.peers]; exact hroom ((ht.peer? _).symm.trans hnone)), ht.tRange, he, ht.helloBytes,
    show s.set = (s.takeSeg path.val g).set from ht.ways.set.symm]
  exact ⟨_, _, rfl, ht.frame (by decide) (by decide) (sameBut_net_out _ _ _), withPeer_peer? .., met_of_fresh ht.ways.toSameUp hfresh, rfl⟩

end

/-- The rows of a segment from no peer. -/
theorem unknown_peer_rows {s : State} (hrun : s.halted = false) (path : Fin 32) {g : Segment} (hx : s.peer? g.src = none) :
    let u := s.takeSeg path.val g
    exec (.data path g) s = .next u ∧ exec (.ack path g) s = .next u ∧ exec (.probe path g) s = .next u ∧ exec (.bye path g) s = .next u := by
  have hux := ((takeSeg_taken s path.val g).peer? g.src).trans hx
  refine ⟨?_, ?_, ?_, ?_⟩
  · rw [exec_data hrun, dataIn_none hux]
  · rw [exec_ack hrun, ackIn_none _ hux]
  · rw [exec_probe hrun]
    unfold State.probeIn
    rw [updPeer_none hux, ite_self]
    dsimp only
    rw [hux]
    rfl
  · rw [exec_bye hrun]
    unfold State.byeIn
    rw [hux]

/-- Settles O50: each row takes its segment out of the receive buffer and then does its operation on what is left. -/
theorem transportRowsAct : Obligations.TransportRowsAct := by
  unfold Obligations.TransportRowsAct
  intro path g s hrun
  dsimp only
  refine ⟨fun hx => ?_, fun x hx => ⟨fun hc => ?_, fun hc hb => ⟨fun hd hf => ?_, fun hd hlt ha => ?_, fun hd _ _ ha hm hall => ?_, ?_⟩,
      fun h0 hq => ?_, fun i k hvc hs hback hn hcov hthree hsus hf => ?_, ?_, fun h => ?_, fun hc hb ha => ?_⟩,
    fun h => ⟨fun ha hlt => ?_, fun hn => ⟨fun hv => ?_, fun hv hx hfull => ?_, fun hv hroom hq => ?_⟩, fun x hx hsent hc hq hv => ?_, fun x hx hno => ?_⟩,
    ⟨fun hf => ?_, fun o hf => ?_⟩, fun n v h => ?_, fun n v x hx h => ⟨fun hf => ?_, fun hf => ?_⟩,
    fun n v psn tm x hx => ⟨fun hf => ?_, fun i hf ha => ⟨fun hd => ?_, fun k hd hn hk => ?_⟩, fun i hf ha hal => ?_, fun hi => ?_, fun hi hl => ?_⟩⟩
  · obtain ⟨hdata, hack, hprobe, hbye⟩ := unknown_peer_rows hrun path hx
    exact ⟨hdata, hack, hprobe, hbye, fun _ => helloAck_unknown hrun hx⟩
  · rw [exec_data hrun, dataIn_unconnected (((takeSeg_taken ..).peer? _).trans hx) hc]
  · exact data_again hrun hx hc hb hd hf
  · exact data_beyond hrun hx hc hb hd hlt ha
  · obtain ⟨t, he, hframe, -, y, r, hy, hr, hplaced⟩ := data_new (path := path) hrun hx hc hb hd ha hm hall
    exact ⟨t, y, r, he, hframe, hy, hr, hplaced⟩
  · exact data_claspDone hrun hx hc hb
  · exact ack_releases hrun hx h0 hq
  · exact ack_resends hrun hx hs hn hcov hthree hsus hf
  · exact probe_answers hrun hx
  · exact bye_removes hrun hx h
  · obtain ⟨hst, hfed⟩ := ha
    exact bye_loses hrun hx hc hb hst hfed
  · exact hello_stands hrun ha hlt
  · exact hello_unversioned hrun hn hv
  · exact hello_full hrun hn hv hx hfull
  · obtain ⟨t, y, he, hframe, hy, ⟨hc, hver, hfeat, hpaths, hrate, hfresh⟩, hout⟩ := hello_answers (path := path) hrun hn hv hroom hq
    exact ⟨t, y, he, hframe, hy, ⟨hc, hver, hfeat, hpaths, hrate, hfresh⟩, hout⟩
  · obtain ⟨t, y, he, hframe, hout, hy, hc', hver, hfeat, hpaths, hrate, hfresh⟩ := helloAck_connects (path := path) hrun hx hsent hc hq hv
    exact ⟨t, y, he, hframe, hout, hy, hc', hver, hfeat, hpaths, hrate, hfresh⟩
  · exact helloAck_ignored hrun hx hno
  · rw [earlyNak_sends hrun, show s.out.find? (Out.isColl (collHdrOf g.payload)) = none from hf]
  · rw [earlyNak_sends hrun, show s.out.find? (Out.isColl (collHdrOf g.payload)) = some o from hf]
  · exact ackTimer_idle hrun h
  · rw [ackTimer_due hrun hx h, sendAck_none hx hf]
  · exact ackTimer_sends hrun hx h hf
  · rw [exec_retransmitTimeout hrun, timeout_none (s := s.at tm) hx hf]
  · exact retransmitTimeout_early hrun hx hf ha hd
  · exact retransmitTimeout_due hrun hx hf ha hd hn hk
  · obtain ⟨hst, hfed⟩ := hal
    exact retransmitTimeout_loses hrun hx hf ha hst hfed
  · exact peerIdleRemove_stays hrun hx hi
  · exact peerIdleRemove_removes hrun hx hi hl

end Sys2Proof.Machine
end

section
/-! PROOF. The JTAG instructions and TRST_N (R574 to R576, Table 17-8), and O58. -/

namespace Sys2Proof.Machine

/-! ## IDCODE (R574) -/

theorem idcodeOf_low_bit (k : Nat) : idcodeOf k % 2 = 1 := by
  unfold idcodeOf
  omega

/-- The part number of the code: 0x5201 for the hub dies at the ends of the chain, 0x5202 for a compute die. -/
theorem idcodeOf_part (k : Nat) : idcodeOf k / 2 ^ 12 % 2 ^ 16 = if k = 0 ∨ k = 9 then 0x5201 else 0x5202 := by
  unfold idcodeOf
  split <;> omega

section
variable {s : State} (tap : Fin 10) (k dr : Nat)

/-! ## The pin-driving instructions (R575, R576) -/

theorem pinDrive_held {act : State → State} (h : s.hmk.bscanHold = true) : s.pinDrive tap k dr act = act (s.loadIr tap k) :=
  if_pos h

/-- Outside the hold a pin-driving instruction is counted and scans the bypass register. -/
theorem pinDrive_blocked {act : State → State} (h : s.hmk.bscanHold = false) : s.pinDrive tap k dr act =
    ({ s.loadIr tap k with jtag := { (s.loadIr tap k).jtag with blocked := s.jtag.blocked + 1 } }).bypassScan tap dr :=
  if_neg (ne_true_of_eq_false h)

/-! ## DBG_ACCESS (R576) -/

/-- The number of bytes that the data register of DBG_ACCESS asks for. -/
def dbgLen (dr : Nat) : Nat := if bit dr 91 = true then 8 else 4

theorem dbgAccess_write (hw : bit dr 90 = true) : exec (.dbgAccess tap dr) s =
    .next ((s.loadIr tap 0x20).regWrite .jtag (bits dr 89 64) (leBytes (dbgLen dr) (bits dr 63 0))) :=
  congrArg _ (if_pos hw)

theorem dbgAccess_read (hr : bit dr 90 = false) : exec (.dbgAccess tap dr) s =
    .next ((s.loadIr tap 0x20).regRead .jtag (bits dr 89 64) (dbgLen dr)) :=
  congrArg _ (if_neg (ne_true_of_eq_false hr))

theorem gate_jtag_locked (h : s.dev.debugUnlocked = false) (o : Nat) (wr : Bool) : s.gate .jtag o wr = .zero none :=
  if_neg (ne_true_of_eq_false h)

theorem gate_jtag_unlocked (h : s.dev.debugUnlocked = true) (o : Nat) (wr : Bool) : s.gate .jtag o wr = s.gateA o :=
  if_pos h

end

/-! ## The statement -/

/-- Settles O58, row by row: each row loads its code; the hold decides what a pin-driving instruction does, and the lock of the debug
port what DBG_ACCESS reaches. -/
theorem jtagRowsAct : Obligations.JtagRowsAct := by
  unfold Obligations.JtagRowsAct
  intro tap dr s ir tdo scan blocked
  refine ⟨rfl, ⟨idcodeOf_low_bit _, idcodeOf_part _⟩, ⟨_, rfl⟩, rfl, rfl, fun hold => ?held, fun free => ?outside, fun lock => ?locked,
    fun unlock hclk => ?unlocked⟩
  case held =>
    have scans (k : Nat) : ∃ v, s.pinDrive tap k dr (fun s => s.boundaryScan tap dr) = { tdo (ir k) v with
        freeCtr := s.freeCtr + 1, jtag := { (ir k).jtag with boundary := mput s.jtag.boundary tap.val dr } } :=
      ⟨_, pinDrive_held tap k dr hold⟩
    have bypasses (k : Nat) : s.pinDrive tap k dr (fun s => s.bypassScan tap dr) = tdo (ir k) (2 * dr) := pinDrive_held tap k dr hold
    exact ⟨(scans 3).imp fun _ => congrArg _, (scans 6).imp fun _ => congrArg _, (scans 7).imp fun _ => congrArg _,
      congrArg _ (bypasses 4), congrArg _ (bypasses 5)⟩
  case outside =>
    have counts (k : Nat) (act : State → State) : s.pinDrive tap k dr act = blocked k := pinDrive_blocked tap k dr free
    exact ⟨congrArg _ (counts 3 _), congrArg _ (counts 4 _), congrArg _ (counts 5 _), congrArg _ (counts 6 _), congrArg _ (counts 7 _)⟩
  case locked =>
    have shut (wr : Bool) : (ir 0x20).gate .jtag (bits dr 89 64) wr = .zero none := gate_jtag_locked (s := ir 0x20) lock _ wr
    exact ⟨fun hw => (dbgAccess_write tap dr hw).trans (congrArg _ (regWrite_zero _ (shut true))),
      fun hr => (dbgAccess_read tap dr hr).trans (congrArg _ (regRead_zero _ (shut false)))⟩
  case unlocked =>
    intro o
    have clk : (ir 0x20).clocksOff = false := hclk
    exact ⟨fun hw => (dbgAccess_write tap dr hw).trans (exec_registerWrite clk _).symm,
      fun hr => (dbgAccess_read tap dr hr).trans (exec_registerRead clk _).symm, gate_jtag_unlocked unlock o⟩

end Sys2Proof.Machine
end

section
/-! PROOF. MCTP and PLDM, the sensors, and the UART receiver (R568 to R572, Table 17-6). -/

namespace Sys2Proof.Machine

/-! ## MCTP_PACKET (R568, R569) -/

section
variable {s : State} {bind : Fin 3} {pec : Bool} {m : MctpMsg}

/-- The state after an answer, from a state with the management block `x`. -/
def State.mctpReplied (s : State) (bind : Nat) (x : MgtState) (body : List Nat) : State :=
  { s with mgt := if bind = 0 then { x with smbBusy := true } else x, out := s.out ++ [.mctp bind body] }

theorem mctpAnswer_eq (s : State) (bind : Nat) (x : MgtState) (body : List Nat) :
    ({ s with mgt := x }).mctpAnswer bind body = s.mctpReplied bind x body := by
  unfold State.mctpAnswer State.mctpReplied
  split <;> rfl

/-- Set Endpoint ID takes the assignable IDs, 8 to 254. -/
theorem mctpServe_setEid (e : Nat) : s.mctpServe bind.val (.setEid e) =
    if 8 ≤ e ∧ e < 255 then s.mctpReplied bind.val { s.mgt with eids := mput s.mgt.eids bind.val e } [0, e]
    else s.mctpReplied bind.val s.mgt [2] :=
  ite_congr rfl (fun _ => mctpAnswer_eq s ..) (fun _ => mctpAnswer_eq s _ s.mgt _)

theorem mctpServe_pldmBase : s.mctpServe bind.val .pldmBase = s.mctpReplied bind.val s.mgt [0, 0, 2, 5] := mctpAnswer_eq s _ s.mgt _

theorem mctpServe_sensorRead (k : Nat) : s.mctpServe bind.val (.sensorRead k) =
    s.mctpReplied bind.val s.mgt (if 1 ≤ k ∧ k ≤ 38 then [0, mget s.mgt.readings k 0] else [0x80]) :=
  (ite_congr rfl (fun _ => mctpAnswer_eq s _ s.mgt _) (fun _ => mctpAnswer_eq s _ s.mgt _)).trans (apply_ite (s.mctpReplied bind.val s.mgt) ..).symm

theorem mctpServe_pollEvent_none (h : s.mgt.events = []) : s.mctpServe bind.val .pollEvent = s.mctpReplied bind.val s.mgt [0] := by
  unfold State.mctpServe
  rw [h]
  exact mctpAnswer_eq s _ s.mgt _

theorem mctpServe_pollEvent_next {e : Nat} {es : List Nat} (h : s.mgt.events = e :: es) :
    s.mctpServe bind.val .pollEvent = s.mctpReplied bind.val { s.mgt with events := es } [0, e] := by
  unfold State.mctpServe
  rw [h]
  exact mctpAnswer_eq s _ _ _

theorem mctpServe_other_control {y : Nat} (h : y = 0 ∨ y = 1) : s.mctpServe bind.val (.other y) = s.mctpReplied bind.val s.mgt [5] :=
  (if_pos h).trans (mctpAnswer_eq s _ s.mgt _)

theorem mctpServe_other_unknown {y : Nat} (h : 5 < y) : s.mctpServe bind.val (.other y) = s :=
  (if_neg (by omega)).trans (if_neg (by omega))

section
variable (hclk : s.clocksOff = false)
include hclk

theorem exec_mctpPacket : exec (.mctpPacket bind pec m) s = .next (if !s.mgmtUp then s
    else if bind.val = 0 ∧ !pec then { s with mgt := { s.mgt with smbErr := (s.mgt.smbErr + 1) % 2 ^ 64, smbBusy := false } }
    else if bind.val ≠ 0 ∧ s.perst.contains (bind.val - 1) then s
    else s.mctpServe bind.val m) := unlessOff_of_clocks hclk _

theorem exec_mctpPacket_down (h : s.mgmtUp = false) : exec (.mctpPacket bind pec m) s = .next s := by
  rw [exec_mctpPacket hclk, if_pos (by simp [h])]

/-- A link in reset carries nothing. -/
theorem exec_mctpPacket_reset (hb : bind.val ≠ 0) (hp : bind.val - 1 ∈ s.perst) : exec (.mctpPacket bind pec m) s = .next s := by
  rw [exec_mctpPacket hclk, if_neg (c := bind.val = 0 ∧ _) (fun h => hb h.1), if_pos (c := bind.val ≠ 0 ∧ _) ⟨hb, by simpa using hp⟩, ite_self]

/-- A bad PEC discards the packet and is counted. -/
theorem exec_mctpPacket_badPec (hm : s.mgmtUp = true) (hb : bind.val = 0) (hp : pec = false) : exec (.mctpPacket bind pec m) s =
    .next { s with mgt := { s.mgt with smbErr := (s.mgt.smbErr + 1) % 2 ^ 64, smbBusy := false } } := by
  rw [exec_mctpPacket hclk, if_neg (by simp [hm]), if_pos ⟨hb, by simp [hp]⟩]

theorem exec_mctpPacket_served (hm : s.mgmtUp = true) (hpec : bind.val = 0 → pec = true) (hup : bind.val ≠ 0 → bind.val - 1 ∉ s.perst) :
    exec (.mctpPacket bind pec m) s = .next (s.mctpServe bind.val m) := by
  rw [exec_mctpPacket hclk, if_neg (by simp [hm]), if_neg (fun h => by simp [hpec h.1] at h), if_neg (fun h => hup h.1 (by simpa using h.2))]

end

end

/-! ## Sensors (R570, Table 17-6) -/

/-- A map that has taken values for the keys from `a` on. -/
theorem mget_foldl_mput (xs : List Nat) (n a k d : Nat) (m : SMap Nat) :
    mget (((List.range' a n).zip xs).foldl (fun m (p : Nat × Nat) => mput m p.1 p.2) m) k d =
      if a ≤ k ∧ k < a + n ∧ k < a + xs.length then xs.getD (k - a) 0 else mget m k d := by
  induction xs generalizing n a m with
  | nil => rw [List.zip_nil_right, List.foldl_nil, if_neg (by simp; omega)]
  | cons x xs ih =>
    cases n with
    | zero => rw [List.range'_zero, List.zip_nil_left, List.foldl_nil, if_neg (by omega)]
    | succ n =>
      rw [List.range'_succ, List.zip_cons_cons, List.foldl_cons, ih, mget_mput, List.length_cons]
      by_cases hk : k = a
      · rw [if_neg (by omega), if_pos hk, if_pos (by omega), hk, Nat.sub_self, List.getD_cons_zero]
      · by_cases hi : a + 1 ≤ k ∧ k < a + 1 + n ∧ k < a + 1 + xs.length
        · rw [if_pos hi, if_pos (by omega), show k - a = (k - (a + 1)) + 1 by omega, List.getD_cons_succ]
        · rw [if_neg hi, if_neg hk, if_neg (by omega)]

/-- What a refresh takes of the measured values `xs`, for the first `n` sensors. -/
theorem mget_refreshed {xs : List Nat} {n k : Nat} (hn : k < n) (hk : k < xs.length) (d : Nat) (m : SMap Nat) :
    mget (((List.range n).zip xs).foldl (fun m (p : Nat × Nat) => mput m p.1 p.2) m) k d = xs.getD k 0 := by
  rw [List.range_eq_range', mget_foldl_mput, if_pos (by omega), Nat.sub_zero]

theorem mget_map_keys {l : List Nat} {k : Nat} (g : Nat → Nat) (d : Nat) (h : k ∈ l) : mget (l.map (fun j => (j, g j))) k d = g k := by
  induction l with
  | nil => cases h
  | cons a t ih =>
    unfold mget at ih ⊢
    rw [List.map_cons, mfind]
    split
    · rename_i ha
      rw [ha]
      rfl
    · rename_i ha
      exact ih (by simpa [Ne.symm ha] using h)

/-- The power block with the temperatures and currents of a refresh. -/
def PwrState.refreshed (p : PwrState) (r : SensorIn) : PwrState :=
  { p with
    temps := ((List.range 26).zip r.temps).foldl (fun m (p : Nat × Nat) => mput m p.1 p.2) p.temps
    currents := ((List.range 8).zip r.currents).foldl (fun m (p : Nat × Nat) => mput m p.1 p.2) p.currents }

/-- The sensors, of 1 to 26, that are beyond their warning threshold. -/
def PwrState.warmSensors (p : PwrState) : List Nat := (span 1 26).filter (fun k => warm k (p.temp (k - 1)))

theorem warmSensors_contains {p : PwrState} {k : Nat} (h : k ∈ span 1 26) : p.warmSensors.contains k = warm k (p.temp (k - 1)) := by
  rw [Bool.eq_iff_iff, List.contains_iff_mem, PwrState.warmSensors, List.mem_filter]
  exact and_iff_right h

theorem exec_sensorRefresh {s : State} (hclk : s.clocksOff = false) (r : SensorIn) :
    let p := s.pwr.refreshed r
    ∃ t, exec (.sensorRefresh r) s = .next t ∧ SameBut [.pwr, .mgt] s t ∧ t.pwr = p ∧
      (∀ k, 1 ≤ k → k ≤ 38 → mget t.mgt.readings k 0 = t.sensorNow k) ∧
      t.mgt.events = s.mgt.events ++ (span 1 26).filter (fun k => warm k (p.temp (k - 1)) != s.mgt.warned.contains k) := by
  intro p
  refine ⟨_, unlessOff_of_clocks hclk _, (kept_execSensorRefresh r s _ (unlessOff_of_clocks hclk _)).sameBut _ (by intro q; cases q <;> decide), rfl,
    fun k h1 h2 => ?_, ?_⟩
  · exact mget_map_keys (fun k => ({ s with pwr := p } : State).sensorNow k) 0 ((mem_span ..).2 ⟨h1, by omega⟩)
  · refine congrArg (s.mgt.events ++ ·) (List.filter_congr fun k hk => ?_)
    exact congrArg (· != s.mgt.warned.contains k) (warmSensors_contains (p := p) hk)

/-! ## The alert (R570) -/

theorem exec_smbusAlertResponse {s : State} (hclk : s.clocksOff = false) : exec .smbusAlertResponse s =
    .next (if s.mgt.events.isEmpty then s else s.emit (.alertResponse s.smbAddr)) := unlessOff_of_clocks hclk _

/-! ## The UART receiver (R572) -/

theorem exec_uartRxFrame {s : State} (hclk : s.clocksOff = false) (start stop : Bool) (x : Byte) : exec (.uartRxFrame start stop x) s =
    .next (if s.mgt.rxWait || start then s
      else if stop then { s with mgt := s.mgt.uartPut ⟨x, false, false⟩ }
      else { s with mgt := { s.mgt.uartPut ⟨x, true, x == 0⟩ with rxWait := true } }) := unlessOff_of_clocks hclk _

end Sys2Proof.Machine
end

section
/-! PROOF. The SPDM requests (R600, Table 18-8), and O57. -/

namespace Sys2Proof.Machine

/-- A transport carries requests: the firmware runs, and the PF of a DOE mailbox is not in reset. -/
def State.spdmUp (s : State) (tr : Nat) : Prop := s.mgmtUp = true ∧ (tr ≠ 0 → tr - 1 ∉ s.perst)

/-- The checks that every request meets first, before what `act` makes of it. -/
def State.spdmFirst (s : State) (tr : Nat) (r : SpdmReq) (act : State) : State :=
  if !s.mgmtUp || (tr != 0 && s.perst.contains (tr - 1)) then s else if !r.supported then s.spdmErr tr 7 else act

theorem spdmDown_iff (s : State) (tr : Nat) : (!s.mgmtUp || (tr != 0 && s.perst.contains (tr - 1))) = true ↔ ¬ s.spdmUp tr := by
  unfold State.spdmUp
  simp only [Bool.or_eq_true, Bool.not_eq_true', Bool.and_eq_true, bne_iff_ne, List.contains_iff_mem]
  cases s.mgmtUp <;> simp

/-- The state after a response, which the transcript of the connection `d` takes in with its request. -/
def State.spdmSent (s : State) (tr : Nat) (r : SpdmReq) (h : HmkState) (d : SpdmConn) (code : Nat) (body : List Nat) : State :=
  { s with
    hmk := h
    mgt := { s.mgt with spdm := mput s.mgt.spdm tr { d with transcript := d.transcript ++ spdmReq code r ++ body } }
    out := s.out ++ [.spdm tr body] }

section
variable {s : State} {tr : Fin 3} {r : SpdmReq}

theorem spdmFirst_down {act : State} (h : ¬ s.spdmUp tr.val) : s.spdmFirst tr.val r act = s := if_pos ((spdmDown_iff ..).2 h)

theorem spdmFirst_unsupported {act : State} (h : s.spdmUp tr.val) (hr : r.supported = false) : s.spdmFirst tr.val r act = s.spdmErr tr.val 7 :=
  (if_neg (fun hd => (spdmDown_iff ..).1 hd h)).trans (if_pos (by simp [hr]))

theorem spdmFirst_passes {act : State} (h : s.spdmUp tr.val) (hr : r.supported = true) : s.spdmFirst tr.val r act = act :=
  (if_neg (fun hd => (spdmDown_iff ..).1 hd h)).trans (if_neg (by simp [hr]))

/-- A request that has its place after other steps checks them and the version before it acts. -/
theorem spdmGate_eq (ready : SpdmConn → Bool) (act : State → State) : s.spdmGate tr.val r ready act = s.spdmFirst tr.val r
    (if !ready (s.conn tr.val) then s.spdmErr tr.val 4 else if r.version != (s.conn tr.val).version then s.spdmErr tr.val 0x41 else act s) := rfl

theorem spdmGate_early {ready : SpdmConn → Bool} {act : State → State} (h : s.spdmUp tr.val) (hr : r.supported = true)
    (hd : ready (s.conn tr.val) = false) : s.spdmGate tr.val r ready act = s.spdmErr tr.val 4 := by
  rw [spdmGate_eq, spdmFirst_passes h hr, if_pos (by simp [hd])]

theorem spdmGate_version {ready : SpdmConn → Bool} {act : State → State} (h : s.spdmUp tr.val) (hr : r.supported = true)
    (hd : ready (s.conn tr.val) = true) (hv : r.version ≠ (s.conn tr.val).version) : s.spdmGate tr.val r ready act = s.spdmErr tr.val 0x41 := by
  rw [spdmGate_eq, spdmFirst_passes h hr, if_neg (by simp [hd]), if_pos (by simpa using hv)]

theorem spdmGate_passes {ready : SpdmConn → Bool} {act : State → State} (h : s.spdmUp tr.val) (hr : r.supported = true)
    (hd : ready (s.conn tr.val) = true) (hv : r.version = (s.conn tr.val).version) : s.spdmGate tr.val r ready act = act s := by
  rw [spdmGate_eq, spdmFirst_passes h hr, if_neg (by simp [hd]), if_neg (by simpa using hv)]

/-- A response over a connection as it stands. -/
theorem spdmSend_conn (code : Nat) (body : List Nat) : s.spdmSend tr.val code r body = s.spdmSent tr.val r s.hmk (s.conn tr.val) code body := rfl

/-- A response over a connection that the request has changed. -/
theorem spdmSend_setConn (d : SpdmConn) (code : Nat) (body : List Nat) :
    (s.setConn tr.val d).spdmSend tr.val code r body = s.spdmSent tr.val r s.hmk d code body := by
  have hc : (s.setConn tr.val d).conn tr.val = d := (setConn_conn ..).trans (if_pos rfl)
  unfold State.spdmSend State.spdmSent State.setConn at *
  rw [hc]
  dsimp only
  rw [mput_mput]
  rfl

variable (hclk : s.clocksOff = false)
include hclk

/-! ## All requests -/

theorem exec_spdm_first {i : Instr} (hi : i ∈ [Instr.getVersion tr r, .getCapabilities tr r, .negotiateAlgorithms tr r, .getDigests tr r,
    .getCertificate tr r, .challenge tr r, .getMeasurements tr r]) : ∃ act, exec i s = .next (s.spdmFirst tr.val r act) := by
  simp only [List.mem_cons, List.not_mem_nil, or_false] at hi
  obtain rfl | rfl | rfl | rfl | rfl | rfl | rfl := hi <;> exact ⟨_, unlessOff_of_clocks hclk _⟩

/-- What a request that has its place after other steps needs of them. -/
theorem exec_spdm_gate {i : Instr} {k : Bool} (hi : (i, k) ∈ [(Instr.negotiateAlgorithms tr r, (s.conn tr.val).caps),
    (.getDigests tr r, (s.conn tr.val).algs), (.getCertificate tr r, (s.conn tr.val).algs), (.challenge tr r, (s.conn tr.val).algs),
    (.getMeasurements tr r, (s.conn tr.val).algs)]) :
    ∃ ready act, ready (s.conn tr.val) = k ∧ exec i s = .next (s.spdmGate tr.val r ready act) := by
  simp only [List.mem_cons, List.not_mem_nil, or_false, Prod.mk.injEq] at hi
  obtain ⟨rfl, rfl⟩ | ⟨rfl, rfl⟩ | ⟨rfl, rfl⟩ | ⟨rfl, rfl⟩ | ⟨rfl, rfl⟩ := hi
  · exact ⟨fun c => c.caps, _, rfl, unlessOff_of_clocks hclk _⟩
  all_goals exact ⟨fun c => c.algs, _, rfl, unlessOff_of_clocks hclk _⟩

section
variable (hup : s.spdmUp tr.val) (hr : r.supported = true)
include hup hr

/-! ## The connection (R600) -/

theorem exec_getVersion : exec (.getVersion tr r) s = .next (s.spdmSent tr.val r s.hmk { version := 0x10 } 0x84 [4, 0x12, 0x13]) :=
  (unlessOff_of_clocks hclk _).trans (congrArg _ ((spdmFirst_passes hup hr).trans (spdmSend_setConn ..)))

theorem exec_getCapabilities : exec (.getCapabilities tr r) s = .next
    (if (s.conn tr.val).version = 0 then s.spdmErr tr.val 4
      else if r.version ≠ 0x12 ∧ r.version ≠ 0x13 then s.spdmErr tr.val 0x41
      else s.spdmSent tr.val r s.hmk { s.conn tr.val with version := r.version, caps := true } 0xE1 [0x61, 22]) :=
  (unlessOff_of_clocks hclk _).trans (congrArg _ ((spdmFirst_passes hup hr).trans
    (ite_congr rfl (fun _ => rfl) fun _ => ite_congr rfl (fun _ => rfl) fun _ => spdmSend_setConn ..)))

variable (hv : r.version = (s.conn tr.val).version)
include hv

theorem exec_negotiateAlgorithms (hc : (s.conn tr.val).caps = true) : exec (.negotiateAlgorithms tr r) s =
    .next (s.spdmSent tr.val r s.hmk { s.conn tr.val with algs := true } 0xE3 [0x63, 1, 0x80, 2]) :=
  (unlessOff_of_clocks hclk _).trans (congrArg _ ((spdmGate_passes hup hr hc hv).trans (spdmSend_setConn ..)))

/-! ## What an agreed connection serves (R600) -/

variable (ha : (s.conn tr.val).algs = true)
include ha

theorem exec_getDigests : exec (.getDigests tr r) s = .next (s.spdmSent tr.val r s.hmk (s.conn tr.val) 0x81 [1, 1, chainDigest]) :=
  (unlessOff_of_clocks hclk _).trans (congrArg _ ((spdmGate_passes hup hr ha hv).trans (spdmSend_conn ..)))

theorem exec_getCertificate_refused (h : r.slot ≠ 0 ∨ (Config.certChain hashLo).length ≤ r.offset) :
    exec (.getCertificate tr r) s = .next (s.spdmErr tr.val 1) :=
  (unlessOff_of_clocks hclk _).trans (congrArg _ ((spdmGate_passes hup hr ha hv).trans (if_pos h)))

theorem exec_getCertificate_part (h0 : r.slot = 0) (h : r.offset < (Config.certChain hashLo).length) :
    let part := ((Config.certChain hashLo).drop r.offset).take r.len
    exec (.getCertificate tr r) s = .next (s.spdmSent tr.val r s.hmk (s.conn tr.val) 0x82
      ([2, 0, part.length, (Config.certChain hashLo).length - r.offset - part.length] ++ part.map BitVec.toNat)) :=
  (unlessOff_of_clocks hclk _).trans (congrArg _ ((spdmGate_passes hup hr ha hv).trans ((if_neg (by omega)).trans (spdmSend_conn ..))))

theorem exec_challenge_refused (h : r.slot ≠ 0) : exec (.challenge tr r) s = .next (s.spdmErr tr.val 1) :=
  (unlessOff_of_clocks hclk _).trans (congrArg _ ((spdmGate_passes hup hr ha hv).trans (if_pos h)))

/-- A challenge is signed over the transcript, the request and the response with a new nonce. -/
theorem exec_challenge (h0 : r.slot = 0) : exec (.challenge tr r) s = .next (s.spdmSent tr.val r { s.hmk with draws := s.hmk.draws + 1 }
    (s.conn tr.val) 0x83 (s.spdmSign tr.val 0x83 r [3, 0, chainDigest, s.spdmNonce.1])) :=
  (unlessOff_of_clocks hclk _).trans (congrArg _ ((spdmGate_passes hup hr ha hv).trans (if_neg (not_not.2 h0))))

theorem exec_getMeasurements_refused (h : s.measures r.index = none) : exec (.getMeasurements tr r) s = .next (s.spdmErr tr.val 1) := by
  refine (unlessOff_of_clocks hclk _).trans (congrArg _ ((spdmGate_passes hup hr ha hv).trans ?_))
  rw [h]

theorem exec_getMeasurements {ms : List Nat} (h : s.measures r.index = some ms) :
    let body := [0x60, r.index] ++ ms ++ [s.spdmNonce.1]
    exec (.getMeasurements tr r) s = .next (s.spdmSent tr.val r { s.hmk with draws := s.hmk.draws + 1 } (s.conn tr.val) 0xE0
      (if r.sign = true then s.spdmSign tr.val 0xE0 r body else body)) := by
  intro body
  refine (unlessOff_of_clocks hclk _).trans (congrArg _ ((spdmGate_passes hup hr ha hv).trans ?_))
  rw [h]
  rfl

end

end

/-! ## Measurements (R599, R600) -/

/-- There is no measurement between the last index and the one of all. -/
theorem measures_none {s : State} {i : Nat} (h : 17 < i) (hf : i ≠ 0xFF) : s.measures i = none := by
  unfold State.measures
  rw [if_neg (by omega), if_neg (by omega), if_neg hf]

/-- The slots of the firmware measurements. -/
theorem measures_slot {s : State} {i : Nat} (h1 : 1 ≤ i) (h : i ≤ 16) : s.measures i = some [i, (s.hmk.ms.toList.getD (i - 1) 0).toNat] := by
  unfold State.measures State.measured
  rw [if_neg (by omega), if_pos (by omega), if_neg (by omega)]

/-! ## The statement -/

/-- Settles O57, row by row. -/
theorem managementPortRowsAct : Obligations.ManagementPortRowsAct := by
  unfold Obligations.ManagementPortRowsAct
  intro s hclk
  refine ⟨?mctp, unlessOff_of_clocks hclk _, ?sensors, fun h => ?quiet, fun h => ?alert, ?spdm, ?uart, unlessOff_of_clocks hclk _⟩
  case mctp =>
    intro bind pec m i reply up
    refine ⟨exec_mctpPacket_down hclk, exec_mctpPacket_reset hclk, exec_mctpPacket_badPec hclk, fun ⟨hm, hpec, hlink⟩ => ?_⟩
    have served : exec i s = .next (s.mctpServe bind.val m) := exec_mctpPacket_served hclk hm hpec hlink
    refine ⟨?_, ?_, ?_, ?_, ?_, ?_⟩
    · rintro e rfl
      exact served.trans (congrArg _ (mctpServe_setEid e))
    · rintro k rfl
      exact served.trans (congrArg _ (mctpServe_sensorRead k))
    · rintro rfl h
      exact served.trans (congrArg _ (mctpServe_pollEvent_none h))
    · rintro e es rfl h
      exact served.trans (congrArg _ (mctpServe_pollEvent_next h))
    · rintro rfl
      exact served.trans (congrArg _ mctpServe_pldmBase)
    · rintro y rfl
      exact ⟨fun h => served.trans (congrArg _ (mctpServe_other_control h)), fun h => served.trans (congrArg _ (mctpServe_other_unknown h))⟩
  case sensors =>
    intro r
    obtain ⟨t, ht, hsame, hp, hread, hev⟩ := exec_sensorRefresh hclk r
    refine ⟨t, ht, hsame, hp ▸ rfl, fun k hk hl => hp ▸ mget_refreshed hk hl 0 _, fun k hk hl => hp ▸ mget_refreshed hk hl 0 _, hread, hp ▸ hev⟩
  case quiet => exact (exec_smbusAlertResponse hclk).trans (congrArg _ (if_pos (by simp [h])))
  case alert => exact (exec_smbusAlertResponse hclk).trans (congrArg _ (if_neg (by simpa using h)))
  case spdm =>
    intro tr r c up err sent sends nonce drawn signed
    refine ⟨fun i hi => ?first, fun i k hi hup hr => ?order, fun hup hr => ?rows⟩
    case first =>
      obtain ⟨act, hact⟩ := exec_spdm_first hclk hi
      exact ⟨fun h => hact.trans (congrArg _ (spdmFirst_down h)), fun h hr => hact.trans (congrArg _ (spdmFirst_unsupported h hr))⟩
    case order =>
      obtain ⟨ready, act, hk, hact⟩ := exec_spdm_gate hclk hi
      exact ⟨fun h => hact.trans (congrArg _ (spdmGate_early hup hr (hk.trans h))),
        fun h hv => hact.trans (congrArg _ (spdmGate_version hup hr (hk.trans h) hv))⟩
    case rows =>
      refine ⟨exec_getVersion hclk hup hr, fun h => ?_, fun h h2 h3 => ?_, fun h hv => ?_, fun hc hv => exec_negotiateAlgorithms hclk hup hr hv hc,
        fun ha hv => ⟨exec_getDigests hclk hup hr hv ha, exec_getCertificate_refused hclk hup hr hv ha,
          fun h0 h => ⟨_, rfl, exec_getCertificate_part hclk hup hr hv ha h0 h⟩, exec_challenge_refused hclk hup hr hv ha,
          exec_challenge hclk hup hr hv ha, fun h hf => exec_getMeasurements_refused hclk hup hr hv ha (measures_none h hf),
          fun h1 h => exec_getMeasurements hclk hup hr hv ha (measures_slot h1 h),
          fun ms h => ⟨_, exec_getMeasurements hclk hup hr hv ha h,
            (kept_execGetMeasurements tr r s _ (exec_getMeasurements hclk hup hr hv ha h)).sameBut _ (by intro q; cases q <;> decide)⟩⟩⟩
      · exact (exec_getCapabilities hclk hup hr).trans (congrArg _ (if_pos h))
      · exact (exec_getCapabilities hclk hup hr).trans (congrArg _ ((if_neg h).trans (if_pos ⟨h2, h3⟩)))
      · exact (exec_getCapabilities hclk hup hr).trans (congrArg _ ((if_neg h).trans (if_neg (by omega))))
  case uart =>
    intro start stop x i put
    have row := exec_uartRxFrame hclk start stop x
    refine ⟨fun h => row.trans (congrArg _ (if_pos (by simpa using h))), ?_, ?_⟩
    · rintro hw rfl rfl
      exact row.trans (congrArg _ ((if_neg (by simp [hw])).trans (if_pos rfl)))
    · rintro hw rfl rfl
      exact row.trans (congrArg _ ((if_neg (by simp [hw])).trans (if_neg (by decide))))

end Sys2Proof.Machine
end

section
/-! PROOF. Resets of PCIe functions (R549, R563, Table 17-4) and configuration requests (R548, R561). -/

namespace Sys2Proof.Machine

/-! ## The windows of a function -/

/-- The windows that a reset takes are those bound to the function. -/
theorem mem_windowsOf {s : State} {f w : Nat} : w ∈ s.windowsOf f ↔ s.winFn w = some f := by
  unfold State.windowsOf
  rw [List.mem_map]
  constructor
  · rintro ⟨p, hp, rfl⟩
    exact eq_of_beq (List.mem_filter.1 hp).2
  · intro h
    cases hm : mfind s.wins w with
    | none =>
      have hw : s.win w = {} := by
        unfold State.win mget
        rw [hm]
        rfl
      have hunbound : funcOf ({} : UserWin).func = none := by decide
      unfold State.winFn at h
      rw [hw, hunbound] at h
      cases h
    | some x => exact ⟨(w, x), List.mem_filter.2 ⟨mem_of_mfind hm, beq_iff_eq.2 h⟩, rfl⟩

/-- A window `y` that was `x` before resets: no ring, nothing that waits, the function still its own. -/
def UserWin.Cleared (x y : UserWin) : Prop := y.sqTail = 0 ∧ y.cqEntries = 0 ∧ y.replies = [] ∧ y.func = x.func

theorem resetWindows_spec (ws : List Nat) (s : State) (w : Nat) : let t := ws.foldl State.resetWindow s
    (w ∈ ws → (s.win w).Cleared (t.win w)) ∧ (w ∉ ws → t.win w = s.win w) := by
  induction ws generalizing s with
  | nil => exact ⟨fun h => absurd h List.not_mem_nil, fun _ => rfl⟩
  | cons a ws ih =>
    have hw := resetWindow_win s a w
    obtain ⟨hin, hout⟩ := ih (s.resetWindow a)
    rw [List.foldl_cons, List.mem_cons]
    by_cases ha : w = a
    · rw [if_pos ha, ← ha] at hw
      have hc : (s.win w).Cleared (s.win w).afterReset := ⟨rfl, rfl, rfl, rfl⟩
      refine ⟨fun _ => ?_, fun h => absurd (.inl ha) h⟩
      rw [← ha] at hin hout ⊢
      rw [hw] at hin hout
      by_cases hm : w ∈ ws
      · exact hin hm
      · exact (hout hm).symm ▸ hc
    · rw [if_neg ha] at hw
      rw [hw] at hin hout
      exact ⟨fun h => hin (h.resolve_left ha), fun h => hout (fun hm => h (.inr hm))⟩

/-! ## One function reset (R563) -/

/-- A function with no negotiated version. -/
def PcieFn.released (x : PcieFn) : PcieFn := { x with abi := 0, feat := 0 }

theorem resetFunction_fn (s : State) (f g : Nat) : (s.resetFunction f).fn g = if g = f then (s.fn f).released else s.fn g := by
  have hk : Kept 0x100c00000 s (((s.windowsOf f).foldl State.resetWindow s).dropHalves f) :=
    ((kept_foldl _ _ kept_resetWindow s).mono (by decide)).trans ((kept_dropHalves _ f).mono (by decide))
  have hfn (j : Nat) : (((s.windowsOf f).foldl State.resetWindow s).dropHalves f).fn j = s.fn j :=
    congrArg (fun m : SMap PcieFn => mget m j {}) (hk.fns_eq (by decide))
  refine (updFn_fn _ f g PcieFn.released).trans ?_
  rw [hfn f, hfn g]

theorem resetFunction_win (s : State) (f w : Nat) : (s.winFn w = some f → (s.win w).Cleared ((s.resetFunction f).win w)) ∧
    (s.winFn w ≠ some f → (s.resetFunction f).win w = s.win w) := by
  obtain ⟨hin, hout⟩ := resetWindows_spec (s.windowsOf f) s w
  exact ⟨fun h => hin (mem_windowsOf.2 h), fun h => hout (fun hm => h (mem_windowsOf.1 hm))⟩

/-- A reset binds no window anew. -/
theorem resetFunction_func (s : State) (f w : Nat) : ((s.resetFunction f).win w).func = (s.win w).func := by
  obtain ⟨hin, hout⟩ := resetFunction_win s f w
  by_cases h : s.winFn w = some f
  · obtain ⟨-, -, -, hfunc⟩ := hin h
    exact hfunc
  · exact congrArg UserWin.func (hout h)

/-! ## Resets that PCIe makes (R549, R563) -/

/-- A function as its reset leaves it, but for its mailbox. -/
def PcieFn.Fresh (x : PcieFn) : Prop :=
  x.abi = 0 ∧ x.busMaster = false ∧ x.msixEnable = false ∧ x.msixMask = false ∧ x.unmasked = [] ∧ x.pendingVecs = [] ∧ x.winCLog = 0

theorem pcieReset_fn (s : State) (f g : Nat) : (s.pcieReset f).fn g = if g = f then (s.fn f).released.pcieReset else s.fn g := by
  unfold State.pcieReset
  rw [updFn_fn, resetFunction_fn, if_pos rfl]
  by_cases hg : g = f
  · rw [if_pos hg, if_pos hg]
  · rw [if_neg hg, if_neg hg, resetFunction_fn, if_neg hg]

theorem pcieReset_winFn (s : State) (f w : Nat) : (s.pcieReset f).winFn w = s.winFn w :=
  congrArg funcOf (resetFunction_func s f w)

/-- Resets of functions one after another reset each of them, with its windows, and no other function or window. -/
theorem pcieResets_spec (fs : List Nat) (s : State) : let t := fs.foldl State.pcieReset s
    (∀ f, f ∈ fs → (t.fn f).Fresh) ∧ (∀ f, f ∉ fs → t.fn f = s.fn f) ∧
    (∀ w f, s.winFn w = some f → f ∈ fs → (s.win w).Cleared (t.win w)) ∧
    ∀ w, (∀ f, s.winFn w = some f → f ∉ fs) → t.win w = s.win w := by
  induction fs generalizing s with
  | nil => exact ⟨fun f h => absurd h List.not_mem_nil, fun _ _ => rfl, fun w f _ h => absurd h List.not_mem_nil, fun _ _ => rfl⟩
  | cons a fs ih =>
    obtain ⟨hin, hout, hwin, hwout⟩ := ih (s.pcieReset a)
    rw [List.foldl_cons]
    refine ⟨fun f hf => ?_, fun f hf => ?_, fun w f hw hf => ?_, fun w hw => ?_⟩
    · by_cases hm : f ∈ fs
      · exact hin f hm
      · have ha : f = a := (List.mem_cons.1 hf).resolve_right hm
        rw [hout f hm, pcieReset_fn, if_pos ha]
        exact ⟨rfl, rfl, rfl, rfl, rfl, rfl, rfl⟩
    · rw [hout f (List.not_mem_of_not_mem_cons hf), pcieReset_fn, if_neg (List.ne_of_not_mem_cons hf)]
    · have hw' : (s.pcieReset a).winFn w = some f := (pcieReset_winFn s a w).trans hw
      by_cases hm : f ∈ fs
      · obtain ⟨htail, hcq, hreplies, hf'⟩ := hwin w f hw' hm
        exact ⟨htail, hcq, hreplies, hf'.trans (resetFunction_func s a w)⟩
      · have ha : f = a := (List.mem_cons.1 hf).resolve_right hm
        rw [hwout w (fun g hg => by rw [hw'] at hg; exact Option.some.inj hg ▸ hm)]
        exact (resetFunction_win s a w).1 (ha ▸ hw)
    · have ha : s.winFn w ≠ some a := fun h => hw a h List.mem_cons_self
      rw [hwout w (fun f hf => List.not_mem_of_not_mem_cons (hw f ((pcieReset_winFn s a w).symm.trans hf)))]
      exact (resetFunction_win s a w).2 ha

/-- Function `f` after a reset that PCIe made in state `s`, with the windows bound to it (Table 17-4). -/
def State.FnReset (s t : State) (f : Nat) : Prop :=
  (t.fn f).abi = 0 ∧ (t.fn f).busMaster = false ∧ (t.fn f).msixEnable = false ∧ (t.fn f).msixMask = false ∧ (t.fn f).unmasked = [] ∧
    (t.fn f).pendingVecs = [] ∧ (t.fn f).winCLog = 0 ∧ ∀ w, s.winFn w = some f → (s.win w).Cleared (t.win w)

theorem pcieResets_fnReset {fs : List Nat} {f : Nat} (hf : f ∈ fs) (s : State) : s.FnReset (fs.foldl State.pcieReset s) f := by
  obtain ⟨hin, -, hwin, -⟩ := pcieResets_spec fs s
  obtain ⟨habi, hbus, hmsix, hmask, hvecs, hpending, hlog⟩ := hin f hf
  exact ⟨habi, hbus, hmsix, hmask, hvecs, hpending, hlog, fun w hw => hwin w f hw hf⟩

theorem exec_functionLevelReset {s : State} (hclk : s.clocksOff = false) (f : Fin 66) (hf : f.val % 33 ≠ 0) :
    ∃ t, exec (.functionLevelReset f) s = .next t ∧ SameBut [.fns, .wins, .halves, .errCnt] s t ∧ s.FnReset t f.val ∧
      (∀ g, g ≠ f.val → t.fn g = s.fn g) ∧ ∀ w, s.winFn w ≠ some f.val → t.win w = s.win w := by
  have hrow : exec (.functionLevelReset f) s = .next (s.pcieReset f.val) := (unlessOff_of_clocks hclk _).trans (congrArg _ (if_neg hf))
  obtain ⟨-, hout, -, hwout⟩ := pcieResets_spec [f.val] s
  exact ⟨_, hrow, (kept_execFunctionLevelReset f s _ hrow).sameBut _ (by intro q; cases q <;> decide),
    pcieResets_fnReset (fs := [f.val]) (List.mem_singleton.2 rfl) s, fun g hg => hout g (fun hm => hg (List.mem_singleton.1 hm)),
    fun w hw => hwout w (fun g hg hm => hw (List.mem_singleton.1 hm ▸ hg))⟩

theorem exec_perstN_again {s : State} {h : Fin 2} (hp : h.val ∈ s.perst) : exec (.perstN h true) s = .next s := by
  have hc : s.perst.contains h.val = true := by simpa using hp
  show execPerstN h true s = _
  unfold execPerstN
  rw [if_neg (by decide), if_pos hc]

/-- PERST_N resets the functions of its hub, and no other function. -/
theorem exec_perstN_resets {s : State} {h : Fin 2} (hp : h.val ∉ s.perst) :
    ∃ t, exec (.perstN h true) s = .next t ∧ SameBut [.fns, .wins, .halves, .perst, .errCnt] s t ∧ t.perst = sIns h.val s.perst ∧
      (∀ f, f / 33 = h.val → s.FnReset t f) ∧ (∀ f, f / 33 ≠ h.val → t.fn f = s.fn f) ∧
      ∀ w, (∀ f, s.winFn w = some f → f / 33 ≠ h.val) → t.win w = s.win w := by
  let u : State := { s with perst := sIns h.val s.perst }
  have hrow : exec (.perstN h true) s = .next ((span (h.val * 33) 33).foldl State.pcieReset u) := by
    have hc : ¬ s.perst.contains h.val = true := by simpa using hp
    show execPerstN h true s = _
    unfold execPerstN
    rw [if_neg (by decide), if_neg hc]
  have hkept : Kept 0x100e00000 u _ := kept_foldl (span (h.val * 33) 33) _ kept_pcieReset u
  obtain ⟨-, hout, -, hwout⟩ := pcieResets_spec (span (h.val * 33) 33) u
  have hmem (f : Nat) : f ∈ span (h.val * 33) 33 ↔ f / 33 = h.val := by
    rw [mem_span]
    omega
  exact ⟨_, hrow, (kept_execPerstN h true s _ hrow).sameBut _ (by intro q; cases q <;> decide), hkept.perst_eq (by decide),
    fun f hf => pcieResets_fnReset ((hmem f).2 hf) u, fun f hf => hout f (fun hm => hf ((hmem f).1 hm)),
    fun w hw => hwout w (fun f hf hm => hw f hf ((hmem f).1 hm))⟩

/-! ## CONFIGURATION_REQUEST (R548, R561) -/

/-- A function but for the vectors that wait to leave. -/
def PcieFn.ButPending (x y : PcieFn) : Prop := ∃ p, y = { x with pendingVecs := p }

theorem PcieFn.ButPending.refl (x : PcieFn) : x.ButPending x := ⟨x.pendingVecs, rfl⟩

theorem PcieFn.ButPending.trans {x y z : PcieFn} (h : x.ButPending y) (g : y.ButPending z) : x.ButPending z := by
  obtain ⟨p, rfl⟩ := h
  obtain ⟨q, rfl⟩ := g
  exact ⟨q, rfl⟩

theorem updFn_pending_butPending (s : State) (f g : Nat) (p : List Nat → List Nat) :
    (s.fn g).ButPending ((s.updFn f (fun x => { x with pendingVecs := p x.pendingVecs })).fn g) := by
  rw [updFn_fn]
  split
  · rename_i h
    rw [h]
    exact ⟨_, rfl⟩
  · exact .refl _

theorem flushMsix_butPending (s : State) (f g : Nat) : (s.fn g).ButPending ((s.flushMsix f).fn g) := by
  unfold State.flushMsix
  generalize (s.fn f).pendingVecs = vs
  induction vs generalizing s with
  | nil => exact .refl _
  | cons v vs ih =>
    refine .trans ?_ (ih _)
    dsimp only
    split
    · exact updFn_pending_butPending s f g (sDel v)
    · exact .refl _

theorem msix_butPending (s : State) (f vec g : Nat) : (s.fn g).ButPending ((s.msix f vec).fn g) := by
  unfold State.msix
  split
  · exact .refl _
  · exact updFn_pending_butPending s f g (sIns vec)

section
variable (x : PcieFn) (f : Nat) (op : CfgOp)

theorem config_abi : (x.config f op).abi = x.abi := by
  cases op with
  | vectorMask v on => exact (apply_ite PcieFn.abi ..).trans (ite_self _)
  | resizeWinC l => exact (apply_ite PcieFn.abi ..).trans (ite_self _)
  | _ => rfl

theorem config_mbox : (x.config f op).mbox = x.mbox := by
  cases op with
  | vectorMask v on => exact (apply_ite PcieFn.mbox ..).trans (ite_self _)
  | resizeWinC l => exact (apply_ite PcieFn.mbox ..).trans (ite_self _)
  | _ => rfl

theorem config_winCLog {l : Nat} (h30 : 30 ≤ l) (h40 : l ≤ 40) : (x.config f (.resizeWinC l)).winCLog = l :=
  congrArg PcieFn.winCLog (if_pos ⟨h30, h40⟩)

theorem config_unmasked {v : Nat} (hv : v < msixTable f) (on : Bool) :
    (x.config f (.vectorMask v on)).unmasked = if on then sDel v x.unmasked else sIns v x.unmasked :=
  congrArg PcieFn.unmasked (if_neg (Nat.not_le.2 hv))

end

/-- The state that a configuration request reaches before replies leave: it is set, and the vectors that it lets leave have left. -/
def State.configured (s : State) (f : Nat) (op : CfgOp) : State := (s.updFn f (fun x => x.config f op)).flushMsix f

theorem configured_fn (s : State) (f : Nat) (op : CfgOp) : ((s.fn f).config f op).ButPending ((s.configured f op).fn f) := by
  have h := flushMsix_butPending (s.updFn f (fun x => x.config f op)) f f
  rwa [updFn_fn, if_pos rfl] at h

theorem configured_windowsOf (s : State) (f : Nat) (op : CfgOp) : (s.configured f op).windowsOf f = s.windowsOf f := by
  have hwins : (s.configured f op).wins = s.wins := (kept_flushMsix ..).wins_eq (by decide)
  unfold State.windowsOf State.winFn State.win
  rw [hwins]

section
variable {s : State} {f : Fin 66} {op : CfgOp}

theorem exec_configurationRequest_down (h : f.val / 33 ∈ s.perst ∨ s.hmk.stage = 0) : exec (.configurationRequest f op) s = .next s :=
  congrArg _ (if_pos (by simpa using h))

variable (hp : f.val / 33 ∉ s.perst) (hs : s.hmk.stage ≠ 0)
include hp hs

theorem exec_configurationRequest_held (hb : s.hmk.bscanHold = true) :
    exec (.configurationRequest f op) s = .next (s.emit (.completion f.val false false true)) :=
  congrArg _ ((if_neg (by simp [hp, hs])).trans (if_pos hb))

/-- A request takes effect, replies that it lets leave do, and it completes. -/
theorem exec_configurationRequest (hb : s.hmk.bscanHold = false) : exec (.configurationRequest f op) s =
    .next (((s.windowsOf f.val).foldl State.pump (s.configured f.val op)).emit (.completion f.val false false false)) := by
  rw [← configured_windowsOf s f.val op]
  exact congrArg _ ((if_neg (by simp [hp, hs])).trans (if_neg (by simp [hb])))

end

end Sys2Proof.Machine
end

section
/-! PROOF. The driver ABI mailbox (R564 to R566, Table 17-5), and O55. -/

namespace Sys2Proof.Machine

/-! ## The version (R566) -/

theorem le_foldl_max {α : Type} (g : α → Nat) (cs : List α) (l : Nat) : l ≤ cs.foldl (fun l c => max l (g c)) l := by
  induction cs generalizing l with
  | nil => exact Nat.le_refl l
  | cons c cs ih => exact (Nat.le_max_left l (g c)).trans (ih _)

theorem foldl_min_le {α : Type} (g : α → Nat) (cs : List α) (h : Nat) : cs.foldl (fun h c => min h (g c)) h ≤ h := by
  induction cs generalizing h with
  | nil => exact Nat.le_refl h
  | cons c cs ih => exact (ih _).trans (Nat.min_le_left h (g c))

/-- The version chosen lies in the driver's range and in the device's. -/
theorem chooseAbi_range {s : State} {lo hi v : Nat} (h : s.chooseAbi lo hi = some v) : lo ≤ v ∧ v ≤ hi ∧ abiMin ≤ v ∧ v ≤ abiMax := by
  unfold State.chooseAbi at h
  dsimp only at h
  generalize s.set.cur.compats.filter (fun c => c.component == 4) = cs at h
  have hl := le_foldl_max (·.min) cs (max lo abiMin)
  have hh := foldl_min_le (·.max) cs (min hi abiMax)
  split at h
  · have hv := Option.some.inj h
    omega
  · cases h

/-! ## The answers -/

/-- A function whose mailbox has its answer ready. -/
def PcieFn.answered (x : PcieFn) (r : BitVec 512) : PcieFn := { x with mbox := { x.mbox with next := some r } }

theorem answer_eq (s : State) (f status : Nat) : ∃ r, s.answer f status = s.updFn f (·.answered r) := ⟨_, rfl⟩

theorem mboxWaits_spec {s : State} {f op : Nat} (h : s.mboxWaits f op = true) :
    (s.fn f).mbox.reqOk = true ∧ (s.fn f).mbox.field 0 1 = op := by
  simp only [State.mboxWaits, Bool.and_eq_true, beq_iff_eq] at h
  obtain ⟨⟨-, hok⟩, hop⟩ := h
  exact ⟨hok, hop⟩

section
variable {s : State} {f : Nat}

theorem serveMbox_negotiate (h : s.mboxWaits f 1 = true) : s.serveMbox f = s.negotiate f := by
  obtain ⟨hok, hop⟩ := mboxWaits_spec h
  unfold State.serveMbox
  dsimp only
  rw [if_neg (by simp [hok]), hop]
  rfl

theorem serveMbox_query (h : s.mboxWaits f 2 = true) : s.serveMbox f = s.answer f 0 := by
  obtain ⟨hok, hop⟩ := mboxWaits_spec h
  unfold State.serveMbox
  dsimp only
  rw [if_neg (by simp [hok]), hop]
  rfl

theorem serveMbox_release (h : s.mboxWaits f 3 = true) : s.serveMbox f = (s.resetFunction f).answer f 0 := by
  obtain ⟨hok, hop⟩ := mboxWaits_spec h
  unfold State.serveMbox
  dsimp only
  rw [if_neg (by simp [hok]), hop]
  rfl

theorem answer_fn (status : Nat) : ∃ r, (s.answer f status).fn f = (s.fn f).answered r := by
  obtain ⟨r, hr⟩ := answer_eq s f status
  exact ⟨r, by rw [hr, updFn_fn, if_pos rfl]⟩

theorem negotiate_chosen {v : Nat} (h : s.chooseAbi ((s.fn f).mbox.field 4 4) ((s.fn f).mbox.field 8 4) = some v) :
    ∃ k r, (s.negotiate f).fn f = ({ s.fn f with abi := v, feat := k } : PcieFn).answered r := by
  unfold State.negotiate
  dsimp only
  rw [h]
  obtain ⟨r, hr⟩ := answer_fn (s := s.updFn f (fun x => { x with abi := v, feat := (s.fn f).mbox.field 12 4 &&& Config.fuse 12 })) (f := f) 0
  refine ⟨(s.fn f).mbox.field 12 4 &&& Config.fuse 12, r, hr.trans ?_⟩
  rw [updFn_fn, if_pos rfl]

theorem negotiate_refused (h : s.chooseAbi ((s.fn f).mbox.field 4 4) ((s.fn f).mbox.field 8 4) = none) :
    ∃ r, (s.negotiate f).fn f = (s.fn f).answered r := by
  unfold State.negotiate
  dsimp only
  rw [h]
  exact answer_fn _

theorem answer_other (status : Nat) {g : Nat} (hg : g ≠ f) : (s.answer f status).fn g = s.fn g := (updFn_fn ..).trans (if_neg hg)

theorem negotiate_other {g : Nat} (hg : g ≠ f) : (s.negotiate f).fn g = s.fn g := by
  unfold State.negotiate
  dsimp only
  split
  · rw [answer_other _ hg, updFn_fn, if_neg hg]
  · exact answer_other _ hg

end

/-! ## NEGOTIATE, QUERY and RELEASE (R566) -/

section
variable {s : State} {f : Fin 66} (hclk : s.clocksOff = false)
include hclk

/-- A row that no request of its OP waits for does nothing. -/
theorem mboxRow_idle {op : Nat} (h : s.mboxWaits f.val op = false) :
    s.unlessOff (.next (if s.mboxWaits f.val op then s.serveMbox f.val else s)) = .next s := by
  rw [unlessOff_of_clocks hclk, if_neg (by simp [h])]

theorem mboxRow_serves {op : Nat} (h : s.mboxWaits f.val op = true) :
    s.unlessOff (.next (if s.mboxWaits f.val op then s.serveMbox f.val else s)) = .next (s.serveMbox f.val) := by
  rw [unlessOff_of_clocks hclk, if_pos h]

theorem exec_negotiate (h : s.mboxWaits f.val 1 = true) : exec (.negotiate f) s = .next (s.negotiate f.val) :=
  (mboxRow_serves hclk h).trans (congrArg _ (serveMbox_negotiate h))

theorem exec_query (h : s.mboxWaits f.val 2 = true) : exec (.query f) s = .next (s.answer f.val 0) :=
  (mboxRow_serves hclk h).trans (congrArg _ (serveMbox_query h))

theorem exec_release (h : s.mboxWaits f.val 3 = true) : exec (.release f) s = .next ((s.resetFunction f.val).answer f.val 0) :=
  (mboxRow_serves hclk h).trans (congrArg _ (serveMbox_release h))

end

/-- The negotiated function has the version chosen, if there is one, and its answer. -/
theorem negotiate_spec (s : State) (f : Nat) : ∃ r, ((s.negotiate f).fn f).mbox = { (s.fn f).mbox with next := some r } ∧
    (∀ v, s.chooseAbi ((s.fn f).mbox.field 4 4) ((s.fn f).mbox.field 8 4) = some v → ((s.negotiate f).fn f).abi = v) ∧
    (s.chooseAbi ((s.fn f).mbox.field 4 4) ((s.fn f).mbox.field 8 4) = none → ((s.negotiate f).fn f).abi = (s.fn f).abi) := by
  cases hv : s.chooseAbi ((s.fn f).mbox.field 4 4) ((s.fn f).mbox.field 8 4) with
  | none =>
    obtain ⟨r, hfn⟩ := negotiate_refused hv
    rw [hfn]
    exact ⟨r, rfl, fun v h => absurd h (Option.some_ne_none v).symm, fun _ => rfl⟩
  | some v =>
    obtain ⟨k, r, hfn⟩ := negotiate_chosen hv
    rw [hfn]
    exact ⟨r, rfl, fun _ h => Option.some.inj h, fun h => absurd h (Option.some_ne_none v)⟩

/-- RELEASE takes the version and the windows, and leaves the function's configuration. -/
theorem release_spec (s : State) (f : Nat) : let t := (s.resetFunction f).answer f 0
    ∃ r, (t.fn f).abi = 0 ∧ (t.fn f).mbox = { (s.fn f).mbox with next := some r } ∧ (t.fn f).busMaster = (s.fn f).busMaster ∧
      ∀ w, s.winFn w = some f → (t.win w).sqTail = 0 ∧ (t.win w).replies = [] := by
  intro t
  obtain ⟨r, hfn⟩ := answer_fn (s := s.resetFunction f) (f := f) 0
  rw [resetFunction_fn, if_pos rfl] at hfn
  have hfn' : t.fn f = (s.fn f).released.answered r := hfn
  rw [hfn']
  refine ⟨r, rfl, rfl, rfl, fun w hw => ?_⟩
  obtain ⟨htail, -, hreplies, -⟩ := (resetFunction_win s f w).1 hw
  exact ⟨htail, hreplies⟩

/-! ## MBOX_RESPONSE (R564) -/

/-- A function whose answer is written. -/
def PcieFn.responded (x : PcieFn) : PcieFn :=
  { x with mbox := { x.mbox with rsp := x.mbox.next.getD 0, next := none, busy := false, done := true } }

/-- The state with the answer written, before the vector: the request is served, if it is not yet. -/
def State.mboxWritten (s : State) (f : Nat) : State :=
  (if (s.fn f).mbox.next.isNone then s.serveMbox f else s).updFn f PcieFn.responded

/-- The vector of an answer, when it is enabled. -/
def State.mboxVector (s : State) (f : Nat) : State := if (s.fn f).mbox.irqEn then s.msix f (s.fn f).mbox.vec else s

section
variable {s : State} {f : Fin 66} (hclk : s.clocksOff = false)
include hclk

theorem exec_mboxResponse_idle (hb : (s.fn f.val).mbox.busy = false) : exec (.mboxResponse f) s = .next s :=
  (unlessOff_of_clocks hclk _).trans (congrArg _ (if_pos (by simp [hb])))

theorem exec_mboxResponse (hb : (s.fn f.val).mbox.busy = true) : exec (.mboxResponse f) s = .next ((s.mboxWritten f.val).mboxVector f.val) :=
  (unlessOff_of_clocks hclk _).trans (congrArg _ (if_neg (by simp [hb])))

end

theorem mboxVector_mbox (s : State) (f : Nat) : ((s.mboxVector f).fn f).mbox = (s.fn f).mbox := by
  unfold State.mboxVector
  split
  · obtain ⟨p, hp⟩ := msix_butPending s f (s.fn f).mbox.vec f
    rw [hp]
  · rfl

/-- The answer ends the request. -/
theorem mboxWritten_done (s : State) (f : Nat) : let m := ((s.mboxWritten f).fn f).mbox
    m.busy = false ∧ m.done = true ∧ m.next = none := by
  unfold State.mboxWritten
  rw [updFn_fn, if_pos rfl]
  exact ⟨rfl, rfl, rfl⟩

/-- A response that the hub has made is written as it is, and its vector goes when it may. -/
theorem mboxVector_ready {s : State} {f : Nat} {r : BitVec 512} (hr : (s.fn f).mbox.next = some r) : let t := (s.mboxWritten f).mboxVector f
    (t.fn f).mbox.rsp = r ∧ SameBut [.fns, .out] s t ∧ ((s.fn f).mbox.irqEn = false → t.out = s.out) ∧
    ((s.fn f).mbox.irqEn = true → s.msixOpen f (s.fn f).mbox.vec = true → t.out = s.out ++ [.msix f (s.fn f).mbox.vec]) := by
  have hw : s.mboxWritten f = s.updFn f PcieFn.responded := congrArg (fun u : State => u.updFn f PcieFn.responded) (if_neg (by simp [hr]))
  have hfn : (s.updFn f PcieFn.responded).fn f = (s.fn f).responded := (updFn_fn ..).trans (if_pos rfl)
  have hkept : Kept 0x2000200000 s ((s.updFn f PcieFn.responded).mboxVector f) := by
    unfold State.mboxVector
    split
    · exact ((kept_updFn ..).mono (by decide)).trans (kept_msix ..)
    · exact (kept_updFn ..).mono (by decide)
  dsimp only
  rw [hw]
  refine ⟨?_, hkept.sameBut _ (by intro q; cases q <;> decide), fun hi => ?_, fun hi ho => ?_⟩
  · rw [mboxVector_mbox, hfn]
    exact congrArg (Option.getD · 0) hr
  · unfold State.mboxVector
    rw [hfn, if_neg (show ¬ (s.fn f).responded.mbox.irqEn = true from ne_true_of_eq_false hi)]
    rfl
  · have hopen : (s.updFn f PcieFn.responded).msixOpen f (s.fn f).mbox.vec = true := by
      unfold State.msixOpen at ho ⊢
      rw [hfn]
      exact ho
    unfold State.mboxVector
    rw [hfn, if_pos (show (s.fn f).responded.mbox.irqEn = true from hi)]
    unfold State.msix
    exact congrArg State.out (if_pos hopen)

/-! ## The statement -/

/-- Settles O55, row by row: resets take the functions of the hub or the one function, with the windows bound to them; a configuration
request and an answer change the function and what leaves it. -/
theorem hostFunctionsAndMailbox : Obligations.HostFunctionsAndMailbox := by
  unfold Obligations.HostFunctionsAndMailbox
  intro s fresh
  refine ⟨fun h => ⟨rfl, exec_perstN_again, exec_perstN_resets⟩, fun f => ⟨fun hclk => ⟨fun hf => ?pf, exec_functionLevelReset hclk f⟩,
    fun op => exec_configurationRequest_down, fun op hp hs => ⟨exec_configurationRequest_held hp hs, fun hb => ?config⟩, fun hclk => ?mailbox⟩⟩
  case pf => exact (unlessOff_of_clocks hclk _).trans (congrArg _ (if_pos hf))
  case config =>
    have hrow := exec_configurationRequest (op := op) hp hs hb
    refine ⟨_, hrow, (kept_execConfigurationRequest f op s _ hrow).sameBut _ (by intro q; cases q <;> decide),
      List.mem_append_right _ (List.mem_singleton.2 rfl), fun hw => ?_⟩
    obtain ⟨p, hc⟩ := configured_fn s f.val op
    have hfn : ((s.configured f.val op).emit (.completion f.val false false false)).fn f.val = _ := hc
    rw [hw, List.foldl_nil, hfn]
    refine ⟨config_abi .., config_mbox .., ?_, ?_, ?_, ?_, ?_, ?_⟩
    · rintro b rfl
      rfl
    · rintro b rfl
      rfl
    · rintro b rfl
      rfl
    · rintro l rfl h30 h40
      exact config_winCLog _ _ h30 h40
    · rintro v rfl hv
      exact (config_unmasked (s.fn f.val) f.val hv false).symm ▸ (mem_sIns ..).2 (.inl rfl)
    · rintro v rfl hv
      exact (config_unmasked (s.fn f.val) f.val hv true).symm ▸ fun hm => ((mem_sDel ..).1 hm).2 rfl
  case mailbox =>
    refine ⟨mboxRow_idle hclk, mboxRow_idle hclk, mboxRow_idle hclk, fun h => ?negotiate, fun h => ?query, fun h => ?release,
      exec_mboxResponse_idle hclk, fun h => ?respond⟩
    case negotiate =>
      obtain ⟨r, hmbox, hsome, hnone⟩ := negotiate_spec s f.val
      exact ⟨_, r, exec_negotiate hclk h, (kept_negotiate ..).sameBut _ (by intro q; cases q <;> decide), hmbox,
        fun v hv => ⟨hsome v hv, chooseAbi_range hv⟩, hnone, fun g hg => negotiate_other hg⟩
    case query =>
      obtain ⟨r, hr⟩ := answer_eq s f.val 0
      exact ⟨r, (exec_query hclk h).trans (congrArg _ hr)⟩
    case release =>
      obtain ⟨r, hspec⟩ := release_spec s f.val
      exact ⟨_, r, exec_release hclk h, (kept_execRelease f s _ (exec_release hclk h)).sameBut _ (by intro q; cases q <;> decide), hspec⟩
    case respond =>
      obtain ⟨hbusy, hdone, hnext⟩ := mboxWritten_done s f.val
      have hmbox := mboxVector_mbox (s.mboxWritten f.val) f.val
      exact ⟨_, exec_mboxResponse hclk h, (kept_execMboxResponse f s _ (exec_mboxResponse hclk h)).sameBut _ (by intro q; cases q <;> decide),
        (congrArg Mailbox.busy hmbox).trans hbusy, (congrArg Mailbox.done hmbox).trans hdone, (congrArg Mailbox.next hmbox).trans hnext,
        fun r hr => mboxVector_ready hr⟩

end Sys2Proof.Machine
end

section
/-! PROOF. The submission and completion rings of a window (R488, R489, R560). -/

namespace Sys2Proof.Machine

/-! ## Rings with nothing to do -/

section
variable {s : State} {w : Nat}

/-- The ring stands still while replies wait, or with every entry consumed. -/
theorem drainSq_still (h : (s.win w).sqHead = (s.win w).sqTail ∨ (s.win w).replies ≠ []) : s.drainSq w = s := if_pos h

theorem pump_still (h : (s.win w).replies = []) : s.pump w = s := by
  unfold State.pump
  rw [h]
  rfl

/-! ## SES_SQ_TAIL and SES_CQ_HEAD -/

theorem sqTail_bad {y : Nat} (h : 256 ≤ y) : s.sqTail w y = s.count cntDoorbell := if_pos (by omega)

theorem sqTail_taken {y : Nat} (h : y < 256) (hq : s.hasSq w = true) : s.sqTail w y = (s.updWin w (fun z => { z with sqTail := y })).drainSq w :=
  (if_neg (by omega)).trans (if_neg (by simp [hq]))

/-- A tail that brings nothing new, or meets replies that wait, moves alone. -/
theorem sqTail_waits {y : Nat} (h : y < 256) (hq : s.hasSq w = true) (hw : (s.win w).replies ≠ [] ∨ (s.win w).sqHead = y) :
    s.sqTail w y = s.updWin w (fun z => { z with sqTail := y }) := by
  have hwin : (s.updWin w (fun z => { z with sqTail := y })).win w = { s.win w with sqTail := y } := (updWin_win ..).trans (if_pos rfl)
  rw [sqTail_taken h hq]
  refine drainSq_still ?_
  rw [hwin]
  exact hw.symm

/-- Completion entries returned with nothing that waits move the head alone. -/
theorem cqHead_still (y : Nat) (hr : (s.win w).replies = []) (hq : (s.win w).sqHead = (s.win w).sqTail) :
    s.cqHead w y = s.updWin w (fun z => { z with cqHead := y % 2 ^ 32 }) := by
  have hwin : (s.updWin w (fun z => { z with cqHead := y % 2 ^ 32 })).win w = { s.win w with cqHead := y % 2 ^ 32 } := (updWin_win ..).trans (if_pos rfl)
  unfold State.cqHead
  rw [pump_still (by rw [hwin]; exact hr)]
  refine drainSq_still (.inl ?_)
  rw [hwin]
  exact hq

end

section
variable {s : State} {v : Via} {w : Nat} (hclk : s.clocksOff = false) (hn : s.negotiated v) (x : Nat)
include hclk hn

theorem exec_sesSqTail (h : s.reachesW v w 0x2000) : exec (.sesSqTail v x) s = .next ((s.dropHeld v).sqTail w (x % 2 ^ 32)) := by
  have hreg := regWrite_single h.2 (leBytes_length 4 x) (by decide) rfl
  rw [put_of_negotiated (.inr (negotiated_dropHeld hn)), leNat_leBytes] at hreg
  exact (unlessOff_of_clocks hclk _).trans (congrArg _ ((writeW_eq h ..).trans hreg))

theorem exec_sesCqHead (h : s.reachesW v w 0x2014) : exec (.sesCqHead v x) s = .next ((s.dropHeld v).cqHead w (x % 2 ^ 32)) := by
  have hreg := regWrite_single h.2 (leBytes_length 4 x) (by decide) rfl
  rw [put_of_negotiated (.inr (negotiated_dropHeld hn)), leNat_leBytes] at hreg
  exact (unlessOff_of_clocks hclk _).trans (congrArg _ ((writeW_eq h ..).trans hreg))

end

end Sys2Proof.Machine
end

section
/-! PROOF. The pages that an allocation takes and a free gives back (R321, R436, R439 to R441). -/

namespace Sys2Proof.Machine

/-! ## Pages in use stay (R440) -/

/-- No page in use in `s` has changed in `t`. -/
def State.UsedKept (s t : State) : Prop := ∀ f, (s.page f).state ≠ .free → t.page f = s.page f

namespace State.UsedKept

theorem refl (s : State) : s.UsedKept s := fun _ _ => rfl

theorem trans {s t u : State} (h : s.UsedKept t) (k : t.UsedKept u) : s.UsedKept u :=
  fun f hf => (k f (by rwa [h f hf])).trans (h f hf)

end State.UsedKept

/-- A page that the search finds is FREE. -/
theorem seekFree_free {s : State} {p : PoolRec} {n f g : Nat} (h : s.seekFree p n f = some g) : (s.page g).state = .free := by
  induction n generalizing f with
  | zero => cases h
  | succ n ih =>
    unfold State.seekFree at h
    split at h
    · cases h
    · split at h
      · exact ih h
      · split at h
        · rename_i hfree
          exact Option.some.inj h ▸ hfree
        · exact ih h

theorem takePage_usedKept {s : State} {f : Nat} (owner : Nat) (h : (s.page f).state = .free) : s.UsedKept (s.takePage owner f) := fun g hg => by
  unfold State.takePage
  rw [setPage_page, if_neg]
  rintro rfl
  exact hg h

/-- What an allocation takes was FREE. -/
theorem takePages_spec (n : Nat) (s : State) (owner : Nat) (ps : List PoolRec) (got : List Nat) : let r := s.takePages owner n ps got
    s.UsedKept r.1 ∧ ∀ f, f ∈ r.2 → f ∈ got ∨ (s.page f).state = .free := by
  induction n generalizing s got with
  | zero => exact ⟨.refl s, fun f hf => .inl hf⟩
  | succ n ih =>
    unfold State.takePages
    cases hfree : ps.findSome? s.firstFree with
    | none => exact ⟨.refl s, fun f hf => .inl hf⟩
    | some f =>
      obtain ⟨p, -, hp⟩ := List.exists_of_findSome?_eq_some hfree
      have hf : (s.page f).state = .free := seekFree_free hp
      have hk := takePage_usedKept owner hf
      obtain ⟨hkept, hgot⟩ := ih (s.takePage owner f) (got ++ [f])
      refine ⟨hk.trans hkept, fun g hg => ?_⟩
      by_cases hg0 : (s.page g).state = .free
      · exact .inr hg0
      · rcases hgot g hg with hin | hfr
        · refine .inl ((List.mem_append.1 hin).resolve_right (fun hm => hg0 ?_))
          rw [List.mem_singleton.1 hm]
          exact hf
        · exact absurd (hk g hg0 ▸ hfr) hg0

/-! ## Changes of one page after another -/

section
variable (set : State → Nat → Page)

theorem foldl_setPage_other {l : List Nat} {f : Nat} (hf : f ∉ l) (s : State) :
    (l.foldl (fun s g => s.setPage g (set s g)) s).page f = s.page f := by
  induction l generalizing s with
  | nil => rfl
  | cons a l ih =>
    rw [List.foldl_cons, ih (List.not_mem_of_not_mem_cons hf), setPage_page, if_neg (List.ne_of_not_mem_cons hf)]

theorem foldl_setPage_mem {P : Page → Prop} (hP : ∀ s g, P (set s g)) {l : List Nat} {f : Nat} (hf : f ∈ l) (s : State) :
    P ((l.foldl (fun s g => s.setPage g (set s g)) s).page f) := by
  induction l generalizing s with
  | nil => cases hf
  | cons a l ih =>
    rw [List.foldl_cons]
    by_cases hm : f ∈ l
    · exact ih hm _
    · have ha : f = a := (List.mem_cons.1 hf).resolve_right hm
      rw [foldl_setPage_other set hm, setPage_page, if_pos ha]
      exact hP s a

end

/-- An object changes the entries of its own pages alone. -/
theorem mkObject_other {s : State} {frames : List Nat} {f : Nat} (hf : f ∉ frames) : (s.mkObject frames).1.page f = s.page f := by
  cases frames with
  | nil => rfl
  | cons h t =>
    refine (setPage_page ..).trans ((if_neg (List.ne_of_not_mem_cons hf)).trans ?_)
    exact foldl_setPage_other (fun s g => { s.page g with link := h }) hf s.fresh.2

/-- An allocation changes no page in use, whether it takes an object or answers a status. -/
theorem allocate_usedKept (s : State) (owner kind n : Nat) (ps : List PoolRec) : s.UsedKept (s.allocate owner kind n ps).1 := by
  unfold State.allocate
  split
  · exact .refl s
  · split
    · exact .refl s
    · obtain ⟨hkept, hgot⟩ := takePages_spec n s owner ps []
      intro f hf
      have hout : f ∉ (s.takePages owner n ps []).2 := fun hm => (hgot f hm).elim List.not_mem_nil hf
      exact (mkObject_other hout).trans (hkept f hf)

theorem allocate_empty {s : State} {owner kind n : Nat} {ps : List PoolRec} (h : (ps.map s.freeIn).foldl (· + ·) 0 < n) :
    s.allocate owner kind n ps = (s, 0, St.bpmPoolEmpty) := if_pos h

/-! ## Pages given back (R439, R441) -/

theorem quarantine_mem {s : State} {h f : Nat} (hf : f ∈ mget s.bpm.lists h []) :
    ((s.quarantine h).page f).state = .quarantine ∧ ((s.quarantine h).page f).head = false :=
  foldl_setPage_mem (P := fun p => p.state = .quarantine ∧ p.head = false) _ (fun _ _ => ⟨rfl, rfl⟩) hf s

theorem quarantine_other {s : State} {h f : Nat} (hf : f ∉ mget s.bpm.lists h []) : (s.quarantine h).page f = s.page f :=
  foldl_setPage_other _ hf s

/-- A free by a unit that does not own the page is counted, and nothing else of the pools moves. -/
theorem freeObj_notOwner {s : State} {u h : Nat} (hl : s.handleLive h = true) (ho : s.set.cur.top u ≠ (s.page (hFrame h)).owner) :
    (s.freeObj (some u) h).1.bpm = { s.bpm with errCount := (s.bpm.errCount + 1) % 2 ^ 64 } ∧ (s.freeObj (some u) h).2 = St.bpmNotOwner := by
  unfold State.freeObj
  rw [hl, if_neg (by decide), if_pos (by simpa using ho)]
  exact ⟨(kept_raiseG ..).bpm_eq (by decide), rfl⟩

end Sys2Proof.Machine
end

section
/-! PROOF. BPM_ALLOC and BPM_FREE (R440, R441, R636, Table 20-9), and O22. -/

namespace Sys2Proof.Machine

/-! ## The word of BPM_ALLOC -/

theorem bpmAllocBad_iff (x : Nat) : bpmAllocBad x = true ↔
    1 < bits x 1 0 ∨ bits x 48 32 = 0 ∨ 65536 < bits x 48 32 ∨ bits x 1 0 = 1 ∧ bits x 48 32 ≠ 1 := by
  simp [bpmAllocBad, or_assoc]

theorem bpmAllocBad_pages {x : Nat} (hk : bits x 1 0 = 0) (h0 : 0 < bits x 48 32) (hn : bits x 48 32 ≤ 65536) : bpmAllocBad x = false := by
  rw [Bool.eq_false_iff, Ne, bpmAllocBad_iff]
  omega

/-! ## The registers of window A -/

section
variable {s : State}

theorem bpmAllocReg_bad {x : Nat} (h : bpmAllocBad x = true) : s.bpmAllocReg none x = s.count cntDoorbell := if_pos (by simp [h])

/-- The state with the result of an allocation. -/
def State.withAllocRes (s : State) (handle status : Nat) : State := { s with bpm := { s.bpm with allocRes := bpmDone handle status } }

/-- The state with the result of a free. -/
def State.withFreeRes (s : State) (status : Nat) : State := { s with bpm := { s.bpm with freeRes := bpmDone 0 status } }

theorem kept_withAllocRes (s : State) (handle status : Nat) : Kept 0x40000 s (s.withAllocRes handle status) := .mk (.refl ..)

theorem kept_withFreeRes (s : State) (status : Nat) : Kept 0x40000 s (s.withFreeRes status) := .mk (.refl ..)

theorem bpmAllocReg_legal {x : Nat} (hb : s.bpm.allocRes.busy = false) (h : bpmAllocBad x = false) :
    let r := s.allocate (bits x 31 16) (bits x 1 0) (bits x 48 32) (s.set.cur.poolsOf (bits x 31 16) (bits x 1 0))
    s.bpmAllocReg none x = r.1.withAllocRes r.2.1 r.2.2 := if_neg (by simp [h, hb])

/-- What an allocation leaves, whatever it answers. -/
theorem allocated_spec (s : State) (owner kind n : Nat) (ps : List PoolRec) (handle status : Nat) :
    let t := (s.allocate owner kind n ps).1.withAllocRes handle status
    SameBut [.bpm, .freeCtr] s t ∧ t.bpm.allocRes.done = true ∧ s.UsedKept t :=
  ⟨((kept_allocate ..).trans ((kept_withAllocRes ..).mono (by decide))).sameBut _ (by intro q; cases q <;> decide), rfl,
    allocate_usedKept s owner kind n ps⟩

theorem bpmFreeReg_a {x : Nat} (hb : s.bpm.freeRes.busy = false) :
    s.bpmFreeReg none x = (s.freeObj none (x % 2 ^ 40)).1.withFreeRes (s.freeObj none (x % 2 ^ 40)).2 := if_neg (by simp [hb])

theorem bpmFreeReg_live {x : Nat} (hb : s.bpm.freeRes.busy = false) (hl : s.handleLive (x % 2 ^ 40) = true) :
    s.bpmFreeReg none x = (s.quarantine (x % 2 ^ 40)).withFreeRes 0 := by
  rw [bpmFreeReg_a hb, freeObj_live hl (by rintro u ⟨⟩), Nat.mod_mod]

/-- A live handle puts the pages of its object into QUARANTINE, and no other page. -/
theorem quarantined_spec (s : State) (h : Nat) : let t := (s.quarantine h).withFreeRes 0
    SameBut [.bpm] s t ∧ t.bpm.freeRes.status = 0 ∧ t.bpm.freeRes.done = true ∧
    (∀ f, f ∈ mget s.bpm.lists h [] → (t.page f).state = .quarantine ∧ (t.page f).head = false) ∧
    ∀ f, f ∉ mget s.bpm.lists h [] → t.page f = s.page f := by
  have hkept : Kept 0x40000 s ((s.quarantine h).withFreeRes 0) := (kept_quarantine s h).trans (kept_withFreeRes ..)
  exact ⟨hkept.sameBut _ (by intro q; cases q <;> decide), rfl, rfl, fun f hf => quarantine_mem hf, fun f hf => quarantine_other hf⟩

/-- A stale handle frees nothing. -/
theorem staleFreed_spec {x : Nat} (hb : s.bpm.freeRes.busy = false) (hl : s.handleLive (x % 2 ^ 40) = false) : let t := s.bpmFreeReg none x
    t.bpm.pages = s.bpm.pages ∧ t.bpm.freeRes.status = St.bpmStale ∧ SameBut [.bpm, .errGlobal, .fns, .out] s t := by
  obtain ⟨hbpm, hstatus⟩ := freeObj_stale (r := none) hl
  have hpages : (s.freeObj none (x % 2 ^ 40)).1.bpm.pages = s.bpm.pages := by rw [hbpm]
  have hkept : Kept 0x2040240000 s ((s.freeObj none (x % 2 ^ 40)).1.withFreeRes (s.freeObj none (x % 2 ^ 40)).2) :=
    (kept_freeObj ..).trans ((kept_withFreeRes ..).mono (by decide))
  dsimp only
  rw [bpmFreeReg_a hb]
  exact ⟨hpages, hstatus, hkept.sameBut _ (by intro q; cases q <;> decide)⟩

/-! ## BPM_FREE of a user window -/

/-- The unit that a free through a window is for. -/
def State.winTop (s : State) (w : Nat) : Nat := s.set.cur.top ((s.set.cur.winUnit w).getD 0xFFFF)

theorem notOwnerFreed_spec {x w : Nat} (hb : (s.win w).freeRes.busy = false) (hl : s.handleLive (x % 2 ^ 40) = true)
    (ho : s.set.cur.top (s.winTop w) ≠ (s.page (hFrame (x % 2 ^ 40))).owner) : let t := s.bpmFreeReg (some w) x
    t.bpm.pages = s.bpm.pages ∧ (t.win w).freeRes.status = St.bpmNotOwner ∧ SameBut [.bpm, .wins, .errGlobal, .fns, .out] s t := by
  obtain ⟨hbpm, hstatus⟩ := freeObj_notOwner hl ho
  let r := s.freeObj (some (s.winTop w)) (x % 2 ^ 40)
  have hpages : r.1.bpm.pages = s.bpm.pages := by rw [hbpm]
  have hreg : s.bpmFreeReg (some w) x = r.1.updWin w (fun y => { y with freeRes := bpmDone 0 r.2 }) := if_neg (by simp [hb])
  have hkept : Kept 0x2040640000 s (r.1.updWin w (fun y => { y with freeRes := bpmDone 0 r.2 })) :=
    ((kept_freeObj ..).mono (by decide)).trans ((kept_updWin ..).mono (by decide))
  dsimp only
  rw [hreg]
  refine ⟨hpages, ?_, hkept.sameBut _ (by intro q; cases q <;> decide)⟩
  rw [updWin_win, if_pos rfl]
  exact hstatus

end

/-! ## The rows -/

section
variable {s : State} {v : Via}

theorem writeAW_of_reachesA {off : Nat} (h : s.reachesA v off) (a w n x : Nat) : s.writeAW v a w n x = s.writeA v a n x := by
  cases v with
  | func f k => cases h.1
  | core c k => cases h.1
  | _ => rfl

theorem writeAW_of_reachesW {k off : Nat} (h : s.reachesW v k off) (a w n x : Nat) : s.writeAW v a w n x = s.writeW v w n x := by
  cases v with
  | func f k => rfl
  | core c k => rfl
  | _ => cases h.1

variable (hclk : s.clocksOff = false) (hn : s.negotiated v) (x : Nat)
include hclk hn

theorem exec_bpmAlloc_a (h : s.reachesA v 0x60000) : exec (.bpmAlloc v x) s = .next ((s.dropHeld v).bpmAllocReg none (x % 2 ^ 64)) :=
  (unlessOff_of_clocks hclk _).trans (congrArg _ ((writeAW_of_reachesA h ..).trans (writeA_wide h rfl rfl rfl (.inr hn))))

theorem exec_bpmFree_a (h : s.reachesA v 0x60010) : exec (.bpmFree v x) s = .next ((s.dropHeld v).bpmFreeReg none (x % 2 ^ 64)) :=
  (unlessOff_of_clocks hclk _).trans (congrArg _ ((writeAW_of_reachesA h ..).trans (writeA_wide h rfl rfl rfl (.inr hn))))

theorem exec_bpmFree_w {w : Nat} (h : s.reachesW v w 0x4010) : exec (.bpmFree v x) s = .next ((s.dropHeld v).bpmFreeReg (some w) (x % 2 ^ 64)) :=
  (unlessOff_of_clocks hclk _).trans (congrArg _ ((writeAW_of_reachesW h ..).trans (writeW_wide h rfl rfl rfl (.inr hn))))

end

/-! ## The statement -/

/-- Settles O22, register by register: a row is a write of its register by a requester that reaches it, an allocation takes FREE pages alone,
and a free moves the pages of the object alone. -/
theorem ringAndPoolRegisters : Obligations.RingAndPoolRegisters := by
  unfold Obligations.RingAndPoolRegisters
  intro v w x s hclk hn u put y z n
  have hk : bits z 1 0 = bits x 1 0 := bits_mod x 1 0 64 (by decide) (by decide)
  have ho : bits z 31 16 = bits x 31 16 := bits_mod x 31 16 64 (by decide) (by decide)
  have hc : bits z 48 32 = n := bits_mod x 48 32 64 (by decide) (by decide)
  refine ⟨fun h => ?tail, fun h hr hq => ?head, fun h hb => ?alloc, fun h hb => ⟨fun hl => ?live, fun hl => ?stale⟩, fun h hb hl hw => ?notOwner⟩
  case tail =>
    have hrow := exec_sesSqTail hclk hn x h
    exact ⟨fun hy => hrow.trans (congrArg _ (sqTail_bad hy)), fun hy hq => ⟨hrow.trans (congrArg _ (sqTail_taken hy hq)),
      fun hw => hrow.trans (congrArg _ (sqTail_waits hy hq hw))⟩⟩
  case head =>
    have hrow := (exec_sesCqHead hclk hn x h).trans (congrArg _ (cqHead_still _ hr hq))
    rwa [Nat.mod_mod] at hrow
  case alloc =>
    have hrow := exec_bpmAlloc_a hclk hn x h
    intro ps
    refine ⟨fun hbad => hrow.trans (congrArg _ (bpmAllocReg_bad ((bpmAllocBad_iff z).2 ?_))), fun hk0 h0 hn => ?_⟩
    · rwa [hk, hc]
    · have hreg := bpmAllocReg_legal hb (bpmAllocBad_pages (hk.trans hk0) (hc ▸ h0) (hc ▸ hn))
      rw [hk, ho, hc] at hreg
      have hrow' := hrow.trans (congrArg _ hreg)
      refine ⟨fun hfew => hrow'.trans ?_, _, hrow', allocated_spec u _ _ n ps _ _⟩
      rw [allocate_empty hfew]
      rfl
  case live => exact ⟨_, (exec_bpmFree_a hclk hn x h).trans (congrArg _ (bpmFreeReg_live hb hl)), quarantined_spec u _⟩
  case stale => exact ⟨_, exec_bpmFree_a hclk hn x h, staleFreed_spec hb hl⟩
  case notOwner => exact ⟨_, exec_bpmFree_w hclk hn x h, notOwnerFreed_spec hb hl hw⟩

end Sys2Proof.Machine
end
